-- ==== Sys2Proof/Word.lean ====
section
/-! DEFINITION. The word types of the Foburas T2: bytes, 64-bit words and the ranges of its unit numbers (R4, R15). -/

namespace Sys2Proof

/-- One byte. -/
abbrev Byte := BitVec 8

/-- One 64-bit word, the unit of descriptors, records and control space. -/
abbrev W64 := BitVec 64

/-- Face die 0 to 31 (R15). -/
abbrev DieIx := Fin 32

/-- Face 2d + side of die d: side 0 is W, side 1 is E (R15). -/
abbrev FaceIx := Fin 64

/-- Context 0 to 47 (R153). -/
abbrev CtxIx := Fin 48

/-- Cellar or Landing 0 to 11 (R15). -/
abbrev LandIx := Fin 12

/-- HBM3E stack 0 to 23 (R20). -/
abbrev StackIx := Fin 24

/-- Spejan port 0 to 15 (R15). -/
abbrev PortIx := Fin 16

/-- Queue-pair record 0 to 4,095 (R329). -/
abbrev QpIx := Fin 4096

end Sys2Proof
end

