-- ==== Sys2Proof/Syntax.lean ====
section
/-! DEFINITION. The commands of the block: one constructor for each row of the spec's table of operations and
events, with the operands the row's step takes from outside the device. The table gives its rows no fields, so
the operands are the model's own choice of what arrives with each event (notes/assumptions/1.md). -/

namespace Sys2Proof

/-- A work item: its context and its number seq (R163). -/
structure ItemRef where
  ctx : Nat
  seq : Nat
deriving DecidableEq, Repr, Inhabited

/-- The two engine kinds of a Landing (R233). -/
inductive EngineKind where
  | haul
  | tipple
deriving DecidableEq, Repr, Inhabited

/-- A unit that has scheduling rounds (R178, R181): a chain sequencer or the Benches of a die, or a Landing's
engines. -/
inductive RoundUnit where
  | sequencer (die : DieIx) (sq : Fin 2)
  | bench (die : DieIx)
  | engines (landing : LandIx) (kind : EngineKind)
deriving DecidableEq, Repr

/-- Accumulator modes of a STREAM (R68). -/
inductive AccMode where
  | openAcc
  | add
  | addClose
  | pass
deriving DecidableEq, Repr, Inhabited

/-- Parameters of a Face LOAD (R59). Addresses are Pantry byte offsets. -/
structure FaceLoad where
  item : ItemRef
  fmt : Fin 16
  k : Nat
  n : Nat
  base : Nat
  stride : Nat
  scaleBase : Nat
deriving DecidableEq, Repr, Inhabited

/-- Parameters of a Face STREAM (R59), with the number of the row block that its rows belong to and of the output
chunk that they compute (R98, R97; notes/assumptions/1.md). -/
structure FaceStream where
  item : ItemRef
  block : Nat
  chunk : Nat
  fmt : Fin 16
  rows : Nat
  base : Nat
  stride : Nat
  scaleBase : Nat
  swap : Bool
  mode : AccMode
  accBase : Nat
  stage : Nat
deriving DecidableEq, Repr, Inhabited

/-- The two Face operations (R59). -/
inductive FaceOp where
  | load (p : FaceLoad)
  | stream (p : FaceStream)
deriving DecidableEq, Repr

/-- One piece of a chain LOAD (R235, R236): its chain, the LOAD stage, its number t within the LOAD, and the rows moved, transposed or
gathered into the Pantry of a die. -/
structure Piece where
  item : ItemRef
  load : Nat
  index : Nat
  src : Nat
  srcStride : Nat
  rows : Nat
  cols : Nat
  elemBits : Nat
  transpose : Bool
  dstDie : DieIx
  dst : Nat
  dstStride : Nat
deriving DecidableEq, Repr

/-- Who makes an access to a home (R205, R222, R246). -/
inductive Who where
  | item (r : ItemRef)
  | host (qp : Nat)
  | remote (device : Nat) (reqId : Nat)
  | device
deriving DecidableEq, Repr, Inhabited

/-- What an access does at its home. -/
inductive AccOp where
  | read (len : Nat)
  | write (bytes : List Byte) (mask : List Bool)
  | atomic (code : Nat) (operand : Nat) (compare : Nat)
  | poison
deriving DecidableEq, Repr, Inhabited

/-- One access as it reaches a Larder slice: source is one of the 62 sources of R227 (0 to 31 Face dies, 32 to 43
Landings, 44 to 59 Spejan ports, 60 the Porch, 61 the Cellar itself). -/
structure Access where
  source : Fin 62
  who : Who
  off : Nat
  op : AccOp
deriving DecidableEq, Repr, Inhabited

/-- An error in one of the 36 symbols of a stored block (R218): symbols 0 to 31 are its data, 16 bits each, and 32 to 35 its check symbols;
flip holds the bits that differ from what was written. -/
structure SymError where
  symbol : Fin 36
  flip : BitVec 16
deriving DecidableEq, Repr, Inhabited

/-- The symbols in error of a block as it is read from its stack (R218). -/
structure Ecc where
  errors : List SymError
deriving DecidableEq, Repr, Inhabited

/-- A block read as it was written. -/
def Ecc.clean : Ecc := ⟨[]⟩

/-- A double-bit error that has arisen in 8 bytes of an array with SEC-DED check bits (R212, R226): of a Pantry at an offset, of a line in a
context's cache partition, or of a Larder line. -/
inductive Upset where
  | pantry (die : DieIx) (off : Nat)
  | cached (die : DieIx) (ctx : CtxIx) (line : Nat)
  | larder (line : Nat)
deriving DecidableEq, Repr, Inhabited

/-- A Spejan packet: the four header words of R273 and its data bytes. -/
structure Packet where
  w0 : W64
  w1 : W64
  w2 : W64
  w3 : W64
  data : List Byte
deriving DecidableEq, Repr, Inhabited

/-- A 256-byte flit as it arrives (R270), and whether its FEC codewords could be corrected (R271). -/
structure Flit where
  link : W64
  body : List Byte
  crc : BitVec 32
  tail : BitVec 32
  fecOk : Bool
deriving DecidableEq, Repr, Inhabited

/-- A fabric message (R297): the eight words of its message line and its body, and the sender's device number. -/
structure FabMsg where
  src : Nat
  line : List W64
  body : List Byte
deriving DecidableEq, Repr, Inhabited

/-- A Gatehouse message as the Porch passes it on (R451): the queue pair, the length of the Send, the eight header
words, the body and the signature block (empty when there is none). -/
structure GhMsg where
  qp : QpIx
  sendLength : Nat
  hdr : List W64
  body : List W64
  sig : List Byte
deriving DecidableEq, Repr, Inhabited

/-- What the Porch checks of a RoCEv2 message's frames before it looks at the message (R327, R330, R338): the bytes of the longest frame, its
802.1Q tags, whether a packet is marked CE, and whether every ICRC is right. -/
structure HostFrame where
  bytes : Nat
  tags : Nat
  ce : Bool
  icrcOk : Bool
deriving DecidableEq, Repr, Inhabited

/-- The transport fields of a host request and its frames (R330, R332). -/
structure HostReq where
  qp : QpIx
  frame : HostFrame
  psn : BitVec 24
  rkey : BitVec 32
  va : W64
deriving DecidableEq, Repr, Inhabited

/-- The PSN and the frames of a message that joins no window (R327, R330). -/
structure HostHead where
  psn : BitVec 24
  frame : HostFrame
deriving DecidableEq, Repr, Inhabited

/-- What an RDMA Read asks for, and the symbols in error of each block that it makes a home read (R218, R328). -/
structure ReadAsk where
  len : Nat
  ecc : List Ecc
deriving DecidableEq, Repr, Inhabited

/-- The host's acknowledgement up to a PSN, or the read response that ends with it (R330, R336). -/
structure HostAck where
  psn : BitVec 24
  frame : HostFrame
  bytes : List Byte
deriving DecidableEq, Repr, Inhabited

/-- A patrol scrub's read: the symbols in error of the block (R218, R221), and the double-bit errors that have arisen in the arrays since the
last one (R212, R226; notes/assumptions/116.md). -/
structure ScrubRead where
  ecc : Ecc
  upsets : List Upset
deriving DecidableEq, Repr, Inhabited

/-- A stack whose retrain completes, and the rows that it repaired (R364, Table 11 of 13_startup.md). -/
structure StackRetrain where
  stack : StackIx
  repaired : Nat
deriving DecidableEq, Repr, Inhabited

/-- A NAK from the host (R337). -/
inductive NakKind where
  | remoteAccess
  | remoteOperation
  | invalidRequest
  | sequenceError
  | rnr
deriving DecidableEq, Repr, Inhabited

/-- A NAK from the host: its kind and the PSN it names (R330, R337). -/
structure HostNak where
  kind : NakKind
  psn : BitVec 24
  frame : HostFrame
deriving DecidableEq, Repr, Inhabited

/-- Who writes a control-space register (R13): a host queue pair, or an authenticated Gatehouse message. -/
inductive Writer where
  | host (qp : QpIx)
  | gatehouse
deriving DecidableEq, Repr, Inhabited

/-- One of the rail readings of R380: mV, units of 100 mA, W. -/
structure RailReading where
  mv : BitVec 16
  ma100 : BitVec 16
  watts : BitVec 16
deriving DecidableEq, Repr, Inhabited

/-- The clocks that the clock monitor counts (R406). -/
inductive ClockId where
  | refCore
  | refSerdes
  | sill
  | faceGen (die : DieIx) (gen : Fin 3)
  | mesh (die : Nat)
  | pantry (die : DieIx)
  | bench (die : DieIx)
  | cellar (k : LandIx)
  | gatehouse (b : Bool)
  | linkPort (p : PortIx)
  | linkPorch
deriving DecidableEq, Repr, Inhabited

/-- The bytes of one flash slot: what an unlisted byte reads as, and the listed bytes (R351). -/
structure SlotImage where
  fill : Byte
  bytes : List (Nat × Byte)
deriving DecidableEq, Repr, Inhabited

/-- What meets the device when POR_N is deasserted (R347 to R364, R453, R494): the straps, the rails, what the board
programmer wrote into the flash since the last start, whether each flash device answers, the two entropy draws,
the step at which the Gatehouses' outputs differed, if they did, the firmware classes that still differed after the third broadcast, those that
will still differ after the third delivery at each later release of the compute domain, in order (R361, R367), the stacks that failed to train, the ports and the Porch that came up, and whether the log's flash area was preserved. -/
structure ColdInputs where
  boardPos : BitVec 3
  railsInRange : Bool
  programmed : Option (SlotImage × SlotImage)
  answersA : Bool
  answersB : Bool
  entropyA : W64
  entropyB : W64
  disagreeAt : Option (Fin 16)
  firmwareBad : List Nat
  releaseBad : List (List Nat)
  stacksBad : List StackIx
  rowsTrained : List (BitVec 16)
  portsUp : List PortIx
  porchUp : Bool
  romMeasure : BitVec 512
deriving DecidableEq, Repr, Inhabited

/-- Hardware behaviour of one emerging row that no rule fixes: outputs whose narrow value the array got wrong, as
(output, A40 or INT40 bits) pairs (R397, R398). -/
abbrev NarrowFaults := List (Nat × BitVec 40)

/-- The commands: one constructor for each row of the table, in the table's order. -/
inductive Instr where
  | porAssert
  | coldStart (i : ColdInputs)
  | xspiRelease
  | computeRstAssert
  | computeRstDeassert
  | gatehouseResetRelease
  | periodStart (c : CtxIx)
  | periodEnd (c : CtxIx)
  | poll (c : CtxIx)
  | controlBlockReadReturn (c : CtxIx)
  | schedulerRound (u : RoundUnit)
  | deterministicRound (u : RoundUnit)
  | chain (c : CtxIx) (seq : Nat)
  | faceOperationIssue (f : FaceIx) (r0 : Option FaceOp) (r1 : Option FaceOp)
  | loadComplete (f : FaceIx)
  | rowEmerge (f : FaceIx) (bad : NarrowFaults)
  | confirmWindowExpiry (f : FaceIx)
  | checkAdvance (f : FaceIx)
  | replayComplete (f : FaceIx)
  | rampDownBegin (f : FaceIx)
  | rampColumnStep (f : FaceIx)
  | rampDownComplete (f : FaceIx)
  | rampUpComplete (f : FaceIx)
  | loadPieceDispatch (l : LandIx) (k : EngineKind) (arrival : Option Piece)
  | enginePieceComplete (l : LandIx) (k : EngineKind) (engine : Nat)
  | engineClockStop (l : LandIx) (k : EngineKind) (engine : Nat)
  | pinRetry (c : CtxIx) (seq : Nat)
  | pinReleaseRetry (c : CtxIx)
  | update (c : CtxIx) (seq : Nat)
  | normCellPoll (c : CtxIx) (seq : Nat)
  | updateClaimPoll (c : CtxIx) (seq : Nat)
  | updateCommit (c : CtxIx) (seq : Nat)
  | copy (c : CtxIx) (seq : Nat)
  | transpose (c : CtxIx) (seq : Nat)
  | gather (c : CtxIx) (seq : Nat)
  | scatter (c : CtxIx) (seq : Nat)
  | fill (c : CtxIx) (seq : Nat)
  | atomic (c : CtxIx) (seq : Nat)
  | normBwd (c : CtxIx) (seq : Nat)
  | softmaxBwd (c : CtxIx) (seq : Nat)
  | rowStats (c : CtxIx) (seq : Nat)
  | rubbleEncode (c : CtxIx) (seq : Nat)
  | rubbleDecode (c : CtxIx) (seq : Nat)
  | copyRound (c : CtxIx) (seq : Nat)
  | benchCoreStop (d : DieIx) (core : DieIx)
  | benchCoreWake (d : DieIx) (core : DieIx)
  | benchQuantum (d : DieIx) (core : DieIx) (replay : Bool)
  | reduceScatter (c : CtxIx) (seq : Nat)
  | allGather (c : CtxIx) (seq : Nat)
  | allReduce (c : CtxIx) (seq : Nat)
  | broadcast (c : CtxIx) (seq : Nat)
  | allToAll (c : CtxIx) (seq : Nat)
  | normAllreduce (c : CtxIx) (seq : Nat)
  | versionedGatherCommit (c : CtxIx) (seq : Nat)
  | chunkDeadline (c : CtxIx) (seq : Nat) (chunk : Nat)
  | fenceWrite (c : CtxIx) (seq : Nat)
  | fenceAcquire (c : CtxIx) (seq : Nat)
  | fenceFull (c : CtxIx) (seq : Nat)
  | hint (c : CtxIx) (seq : Nat)
  | hintPhaseStart (c : CtxIx) (seq : Nat)
  | hintPhaseEnd (c : CtxIx) (seq : Nat)
  | note (c : CtxIx) (seq : Nat)
  | pinRelease (c : CtxIx) (seq : Nat)
  | publish (c : CtxIx) (seq : Nat)
  | wait (c : CtxIx) (seq : Nat)
  | markWaitPoll (c : CtxIx) (seq : Nat)
  | secure (c : CtxIx) (seq : Nat)
  | priv (c : CtxIx) (seq : Nat)
  | close (c : CtxIx) (seq : Nat)
  | eval (c : CtxIx) (seq : Nat)
  | restore (c : CtxIx) (seq : Nat)
  | reform (c : CtxIx) (seq : Nat)
  | spanConflictCleared (c : CtxIx) (seq : Nat)
  | flaggedFinalWriteIssue (c : CtxIx) (seq : Nat)
  | itemEnd (c : CtxIx) (seq : Nat)
  | drainIntervalExpiry (c : CtxIx)
  | dropPoisonComplete (c : CtxIx) (seq : Nat)
  | larderAccess (arrivals : List Access) (line : Nat) (ecc : Ecc)
  | regulatorGrant (k : LandIx) (arrivals : List Access)
  | retryReissue
  | patrolScrubRead (st : StackIx) (x : ScrubRead)
  | stackTempRead (st : StackIx) (temp : Byte)
  | stackThrottleStepDown (st : StackIx)
  | dataEyeLockLoss (st : StackIx)
  | stackRetrainComplete (st : StackRetrain)
  | stackRetrainTimeout (st : StackIx)
  | pantryReleaseComplete (d : DieIx)
  | idle (p : PortIx) (f : Flit)
  | data (p : PortIx) (f : Flit)
  | nak (p : PortIx) (f : Flit)
  | train (p : PortIx) (f : Flit)
  | linkDownTimeout (p : PortIx)
  | portRetrainTimeout (p : PortIx)
  | portDisableTimeout (p : PortIx)
  | read (p : PortIx) (k : Packet)
  | write (p : PortIx) (k : Packet)
  | atomicRequest (p : PortIx) (k : Packet)
  | poison (p : PortIx) (k : Packet)
  | readRsp (p : PortIx) (k : Packet)
  | writeAck (p : PortIx) (k : Packet)
  | atomicRsp (p : PortIx) (k : Packet)
  | retry (p : PortIx) (k : Packet)
  | fault (p : PortIx) (k : Packet)
  | collData (p : PortIx) (k : Packet)
  | crushData (p : PortIx) (k : Packet)
  | escapeWaitExpiry (p : PortIx) (cls : Fin 4)
  | stallLimitExpiry (p : PortIx) (cls : Fin 4) (lane : Fin 3)
  | respTimeout (reqId : BitVec 16)
  | notUsed (m : FabMsg)
  | crushDone (m : FabMsg)
  | foldNotice (m : FabMsg)
  | closeReport (m : FabMsg)
  | imageFwdStart (p : PortIx) (m : FabMsg)
  | imageFwdData (p : PortIx) (m : FabMsg)
  | imageFwdResult (p : PortIx) (m : FabMsg)
  | imageFwdTimeout (p : PortIx)
  | rdmaWrite (r : HostReq) (bytes : List Byte)
  | rdmaWriteWithImmediate (r : HostReq) (bytes : List Byte) (imm : BitVec 32)
  | rdmaRead (r : HostReq) (a : ReadAsk)
  | send (m : GhMsg) (h : HostHead)
  | invalidRequest (q : QpIx) (h : HostHead)
  | hostAck (q : QpIx) (a : HostAck)
  | hostNak (q : QpIx) (n : HostNak)
  | ackTimeout (q : QpIx)
  | cnp (q : QpIx)
  | recIntervalExpiry (q : QpIx)
  | pfcPause (prio : Fin 8) (xoff : Bool)
  | arp (ip : BitVec 32) (mac : BitVec 48)
  | neighborSolicitation (ip : BitVec 128) (mac : BitVec 48)
  | frameDiscard
  | porchLinkDown
  | porchRetrainAttempt
  | getIdentity (m : GhMsg)
  | getNonce (m : GhMsg)
  | quote (m : GhMsg)
  | selectVariant (m : GhMsg)
  | imageWrite (m : GhMsg)
  | imageData (m : GhMsg)
  | imageWriteAbandon
  | qpReset (m : GhMsg)
  | computeReset (m : GhMsg)
  | contextReset (m : GhMsg)
  | stackRetrain (m : GhMsg)
  | fenceClear (m : GhMsg)
  | safeState (m : GhMsg)
  | rollbackRaise (m : GhMsg)
  | keyEnroll (m : GhMsg)
  | keyRevoke (m : GhMsg)
  | controlWrite (m : GhMsg)
  | ctxCtlReset (w : Writer) (c : CtxIx)
  | counterClear (w : Writer) (die : Fin 100)
  | counterRun (w : Writer) (die : Fin 100)
  | counterSelect (w : Writer) (die : Fin 100) (program : Fin 8) (run : Bool)
  | controlSpaceWrite (q : QpIx) (offset : BitVec 40) (value : W64)
  | i3cOffsetWrite (offset : BitVec 16)
  | i3cRead
  | extest
  | controlTick
  | railSense (r : List RailReading)
  | generatorLock (d : DieIx)
  | voltageStep (g : Fin 8)
  | droopDetect (d : DieIx) (mv : Nat)
  | droopClear (d : DieIx)
  | droopHoldExpiry (g : Fin 8)
  | regAlertAssert (i : PortIx)
  | alertHoldExpiry
  | powerFault (i : PortIx)
  | dieTempRead (t : List (List Byte))
  | thermalCapStep (d : DieIx)
  | thermalTrip (unit : Byte) (temp : Byte)
  | clockMonitorWindow (k : ClockId) (number : Byte) (count : Nat) (expected : Nat)
  | gatehouseMismatch (seq : W64)
  | errorDrainTimer
  | regAlertDeassert (i : PortIx)
  | porchLinkUp
  | fecLock (p : PortIx)
  | trainingPatternReceived (p : PortIx)
  | railsInRange
deriving DecidableEq, Repr

end Sys2Proof
end

