-- ==== Sys2Proof/Config.lean ====
section
/-! DEFINITION. What the spec leaves free and what stands outside it: opaque constants that nothing in Lean can evaluate.
A statement that holds for this model holds for every value of them. -/

namespace Sys2Proof.Config

/-- The primitives of R100, and the FP64 exponential of R124. -/
inductive Prim where
  | exp
  | erf
  | tanh
  | sigmoid
  | exp64
deriving DecidableEq, Repr

/-- The error of a primitive at an operand, as a signed number of units of 2^-30 of the error bound the rule gives. The
spec fixes the bound and leaves the value inside it to the part (notes/assumptions/98.md). -/
opaque primError : Prim → BitVec 64 → BitVec 31

/-- The activation functions and gradients of the Foburas T1, which the spec names and does not define (R57): function
code, gradient flag, the parameter, the operands as FP32 codes (notes/assumptions/6.md). -/
opaque t1Act : Nat → Bool → BitVec 32 → List (BitVec 32) → BitVec 32

/-- The A40 code of an FP64 value that A40 does not hold exactly, by its FP64 code: the spec states no result (notes/assumptions/49.md). -/
opaque looseA40 : BitVec 64 → BitVec 40

/-- A block scale that the spec gives no place for, by the bytes the LOAD read and the position (notes/assumptions/49.md). -/
opaque looseScale : List (List (BitVec 8)) → Nat → Nat → BitVec 8

/-- What the symbol code makes of errors in four symbols or more, by the symbols and their flipped bits: nothing where it detects them, else
whether it counts a correction, and the bits in which the data it returns differ. R218 says what it corrects and detects, and no more
(notes/assumptions/5.md). -/
opaque codeBeyond : List (Nat × BitVec 16) → Option (Bool × BitVec 512)

/-- The arbitrary values of R3, one for each number (notes/assumptions/7.md). -/
opaque arbitrary : Nat → BitVec 64

/-- SHAKE256 of a byte list, 64 bytes of output (R441; an external standard, notes/assumptions/8.md). -/
opaque shake256 : List Byte → BitVec 512

/-- Verification of an SLH-DSA signature: public key, message, signature (R441; an external standard,
notes/assumptions/8.md). -/
opaque slhVerify : BitVec 512 → List Byte → List Byte → Bool

/-- An SLH-DSA signature made with the identity key of a seed (R450; notes/assumptions/8.md). -/
opaque slhSign : BitVec 256 → List Byte → List Byte

/-- The identity public key that a fused identity seed generates (R442; FIPS 205, notes/assumptions/8.md). -/
opaque identityKey : BitVec 256 → BitVec 512

/-- The public keys of Kenvirad, slots 0 to 3 (R445). The spec gives no key (notes/assumptions/8.md). -/
opaque kenviradKey : Fin 4 → BitVec 512

end Sys2Proof.Config
end

