-- ==== Sys2Proof/Machine/State.lean ====
section
/-! DEFINITION. State: everything the spec gives the Foburas T2, as plain data, with the queue of waiting commands,
and the state after reset. Register fields keep the widths of their field maps; a register's 64-bit value is built
from them in Machine/Control.lean. Times are in ns since POR_N was deasserted (notes/assumptions/2.md). -/

namespace Sys2Proof.Machine

/-- Bytes by address in canonical form: addresses strictly rising and no entry equal to what an unlisted address
reads as (0, R347: every HBM3E block and Pantry array is zeroed at a cold start). -/
abbrev Mem := List Host.Cell

/-! ## The applied configuration (R153, R204, R281, R298, R329 to R336, R356, R394, R419, R420, R472, R487) -/

/-- PARTITION_CFG and the rest of a PARTITION record (R472). -/
structure PartitionCfg where
  weight : Nat
  detSched : Bool
  backupEn : Bool
  crusherEn : Bool
  extendedEn : Bool
  srEn : Bool
  rubbleEn : Bool
  seed : W64
  t1 : W64
deriving DecidableEq, Repr, Inhabited

/-- A CONTEXT record (R153, R374) with its PANTRY_ALLOC (R207). -/
structure CtxCfg where
  index : Nat
  partition : Nat
  priority : Nat
  kinds : BitVec 9
  hostQp : Nat
  dieSet : BitVec 32
  period : Nat
  offset : Nat
  poll : Nat
  ringLog2 : Nat
  ledgerLog2 : Nat
  hostLog2 : Nat
  drainBatch : Nat
  ctlBlock : Nat
  ringBase : Nat
  ledgerBase : Nat
  hostBase : Nat
  drainUs : Nat
  pantryAlloc : W64
deriving DecidableEq, Repr, Inhabited

/-- A region record (R204). -/
structure Region where
  base : Nat
  size : Nat
  read : BitVec 8
  write : BitVec 8
  atomic : BitVec 8
  remoteRead : Bool
  remoteWrite : Bool
  remoteAtomic : Bool
  hostRead : Bool
  hostWrite : Bool
  cache : Nat
  rubble : Bool
  rubbleFormat : Nat
  tagBase : Nat
deriving DecidableEq, Repr, Inhabited

/-- A group record (R298), and whether a REFORM derived it (R439). -/
structure Group where
  index : Nat
  n : Nat
  rank : Nat
  partition : Nat
  b : Nat
  ring2dA : Nat
  members : List Nat
  backupMap : List Nat
  reformed : Bool
  failed : List Nat
deriving DecidableEq, Repr, Inhabited

/-- A queue-pair record (R329). -/
structure QpCfg where
  index : Nat
  remoteQpn : Nat
  partition : Nat
  supervisor : Bool
  mgmt : Bool
  ipv6 : Bool
  pmtu : Nat
  weight : Nat
  dscp : Nat
  pcp : Nat
  vlanEn : Bool
  vlanId : Nat
  txPsn : BitVec 24
  rxPsn : BitVec 24
  ackTimeout : Nat
  retryCnt : Nat
  rnrRetry : Nat
  nextHopMac : Nat
  udpSport : Nat
  remoteIp : Nat
  ledgerRkey : BitVec 32
deriving DecidableEq, Repr, Inhabited

/-- A device window record (R332). -/
structure DevWindow where
  rkey : BitVec 32
  base : Nat
  size : Nat
  partitions : BitVec 8
deriving DecidableEq, Repr, Inhabited

/-- A host window record (R336). -/
structure HostWindow where
  index : Nat
  qp : Nat
  read : Bool
  write : Bool
  base : Nat
  rkey : BitVec 32
  size : Nat
deriving DecidableEq, Repr, Inhabited

/-- The SURVIVAL record (R420). -/
structure SurvivalCfg where
  cfg : W64
  bounds : W64
  atticBase : Nat
  atticSize : Nat
deriving DecidableEq, Repr, Inhabited

/-- The configuration in force: the records of the applied image that apply at the sampled position and in the active
variant (R358). SO registers are kept whole. Registers kept sparse list (offset, value) pairs. -/
structure Cfg where
  partitions : List PartitionCfg
  ctxs : List CtxCfg
  regions : List Region
  routes : List (Nat × BitVec 32)
  groups : List Group
  qps : List QpCfg
  devWindows : List DevWindow
  hostWindows : List HostWindow
  ipv4 : BitVec 32
  ipv6 : BitVec 128
  lomium : W64
  faceIdle : W64
  bench : W64
  memCfg : W64
  spejan : W64
  porch : W64
  porchCc : W64
  power : W64
  thermal : W64
  safety : W64
  errHostBase : Nat
  survival : Option SurvivalCfg
  regCfg : List W64
  portCfg : List W64
  programs : List (Nat × W64)
  forward : BitVec 7
  fwVersions : List (Nat × BitVec 32)
  fwMeasures : List (Nat × BitVec 512)
deriving DecidableEq, Repr, Inhabited

/-! ## Boot, security and error state -/

/-- What the device as a whole is doing: POR_N asserted (R346), held at cold-start step 1 (R494), in NO_IMAGE (R349),
or running. -/
inductive BootPhase where
  | por
  | railWait
  | noImage
  | running
deriving DecidableEq, Repr, Inhabited

/-- A compute-domain reset in progress (R366, R367). -/
structure CReset where
  since : Nat
  pin : Bool
  variant : Option (BitVec 4)
deriving DecidableEq, Repr, Inhabited

/-- BOOT_STATUS (R350), the reset in progress, and the pins the boot logic drives. -/
structure Boot where
  phase : BootPhase
  inputs : Option ColdInputs
  imageVersion : BitVec 32
  variant : BitVec 4
  boardPos : BitVec 3
  slot : Bool
  fallback : Bool
  step : BitVec 4
  failCode : BitVec 8
  computeResets : BitVec 8
  creset : Option CReset
  cresetLatched : Option Bool
  xspiHighZ : Bool
  noImageAt : Nat
  faultN : Bool
  thermtripN : Bool
  safe : Bool
  safeAt : Nat
  comparatorStopped : Bool
  crossingDiscarded : BitVec 32
  crossingResyncs : BitVec 16
  tapExtest : Bool
deriving DecidableEq, Repr, Inhabited

/-- The fuses (R81, R363, R441, R443, R446): the same at both Gatehouses. -/
structure Fuses where
  serial : W64
  seed : BitVec 256
  certificate : List Byte
  ownerKeys : List (Option (BitVec 512))
  ownerRevoked : BitVec 8
  kenviradRevoked : BitVec 4
  floors : List (List (BitVec 32))
  faceExcluded : List (Option (Fin 5))
  benchExcluded : List (BitVec 34)
  pantryRemap : List (BitVec 10)
  stackRows : List (BitVec 16)
deriving DecidableEq, Repr, Inhabited

/-- An entry of the Gatehouse log (R410): its kind (1 copy, 2 retirement, 3 fence), its eight words, and whether a
FENCE_CLEAR has marked it cleared (R401). -/
structure LogEntry where
  kind : Nat
  face : Nat
  column : Nat
  words : List W64
  cleared : Bool
deriving DecidableEq, Repr, Inhabited

/-- An image being written into the unapplied slot (R455), its first 64 bytes held back until all have come, by a queue pair's IMAGE_WRITE or a peer's forwarding (R362). -/
structure ImageWrite where
  qp : Option QpIx
  port : Nat
  length : Nat
  measure : BitVec 512
  head : List Byte
  covered : List Nat
  last : Nat
deriving DecidableEq, Repr, Inhabited

/-- An image being forwarded (R362): the queue pair that waits for the last reply, and each port's result (0 not forwarded,
1 accepted, 2 refused, 3 without answer; none while awaited). -/
structure Forwarding where
  qp : QpIx
  msg : GhMsg
  results : List (Option Nat)
  lastData : Nat
deriving DecidableEq, Repr, Inhabited

/-- An entry of the measurement chain (R448). -/
structure ChainEntry where
  kind : Byte
  aux : BitVec 24
  index : BitVec 32
  time : W64
  digest : BitVec 512
deriving DecidableEq, Repr, Inhabited

/-- A reply of the Gatehouse (R451): queue pair, command, status, tag and body words. -/
structure GhReply where
  qp : QpIx
  command : BitVec 16
  status : Byte
  tag : BitVec 32
  body : List W64
  data : List Byte
deriving DecidableEq, Repr, Inhabited

/-- The Gatehouse pair (R441 to R457): flash, log, chain, messages and the image echo (R486). -/
structure Gatehouse where
  slotA : SlotImage
  slotB : SlotImage
  echo : SlotImage
  log : List LogEntry
  bootNonce : W64
  lastCounter : BitVec 32
  chainNow : BitVec 512
  chainBefore : BitVec 512
  chain : List ChainEntry
  chainTotal : Nat
  identity : BitVec 512
  queue : List GhMsg
  writing : Option ImageWrite
  forwarding : Option Forwarding
  i3cOffset : BitVec 16
  i3cData : W64
deriving DecidableEq, Repr, Inhabited

/-- Error records (R408 to R411): the number written since cold start, the window, and the drain. -/
structure Errors where
  count : Nat
  window : List (Nat × List W64)
  drained : Nat
  oldestAt : Nat
deriving DecidableEq, Repr, Inhabited

/-! ## Contexts, items and the Ledger -/

/-- A pin-table entry (R128, R130): a record, and the buffer once the pin is taken. -/
structure PinEntry where
  record : Nat
  buf : Option Nat
  owner : Nat
deriving DecidableEq, Repr, Inhabited

/-- A fold accumulator (R313). -/
structure Fold where
  value : W64
  broken : Bool
deriving DecidableEq, Repr, Inhabited

/-- Run-time state of a context (R154 to R163, R176, R186, R484). fetched holds the version records of other homes that admission
has read, taken the ring records that have been returned and are not yet used (R157), drainHeld that a drain fell due that could not begin, appendTimes
when each record that waits to be drained was appended (R186), awaiting says that intake waits for one (R126), and taking that descriptors which the last read made available are still to be
taken in (R157). -/
structure Ctx where
  gen : BitVec 16
  head : BitVec 32
  staleGen : Bool
  publishError : Bool
  readFault : Bool
  resetting : Bool
  nextSeq : Nat
  period : BitVec 32
  periodAt : Nat
  started : Bool
  polls : Nat
  readPending : Bool
  firstReturned : Bool
  intakeClosed : Bool
  pins : List PinEntry
  releases : List (Nat × Nat)
  folds : List Fold
  appended : BitVec 32
  drained : BitVec 32
  ledgerAck : BitVec 32
  oldestAt : Nat
  lastTail : BitVec 32
  awaiting : Bool
  taking : Bool
  fetched : List (Nat × Option (List W64))
  taken : List (Nat × List W64)
  drainHeld : Bool
  appendTimes : List Nat
deriving DecidableEq, Repr, Inhabited

/-- Item statuses of the Ledger (R183). -/
inductive Status where
  | done
  | droppedLate
  | failedFault
  | rejected
  | superseded
  | quarantined
deriving DecidableEq, Repr, Inhabited

/-- Where an item stands: admitted and not started, started and waiting for what it has yet to take (R168, code
LATE_WAITING), running, with all its accesses issued, ended and in its drop sequence (R172), ended with its record
still to be appended, and recorded. -/
inductive Stage where
  | queued
  | waiting
  | running
  | issued
  | dropping
  | ended
  | recorded
deriving DecidableEq, Repr, Inhabited

/-- What a waiting item waits for (R132, R133, R142, R166, R128, R199, R116). -/
inductive WaitFor where
  | none
  | pin
  | normCell
  | claim
  | cores
  | engines
  | bank
  | value
  | data
  | folds
  | members
deriving DecidableEq, Repr, Inhabited

/-- A flagged final write that waits to be issued (R258): address, value, whether the item ends when it is
acknowledged, and the requests it waits on. -/
structure Flagged where
  addr : Nat
  value : W64
  waits : List Nat
  issued : Bool
deriving DecidableEq, Repr, Inhabited

/-- A write that an item has formed and that waits in front of its unit (R253, R262): the die whose cache partition it goes through, its
address and bytes, and whether R172 leaves its lines (R135); or an atomic of a HAUL: its code, operand, compare value and where its old value
goes (R238). -/
structure StagedWrite where
  die : Option Nat
  addr : Nat
  bytes : List Byte
  exempt : Bool
  atomic : Option (Nat × Nat × Nat × Option Nat)
deriving DecidableEq, Repr, Inhabited

/-- A work item (R160 to R187). counted says that its fold has been added to its accumulator (R313), staged holds its writes that wait
(R253, R262), discard the ranges that are arbitrary once it ends without its commit (R135), and areas the Pantry bytes
of its die that it uses as scratch and accumulators, from and up to (R174); blur holds the lines whose written bytes are arbitrary, as the
item also reads them (R255), slot is the number of its Ledger record, and work lists when it last had a row, stage or Bench work on a
die (R412). -/
structure Item where
  ref : ItemRef
  gen : BitVec 16
  words : List W64
  partition : Nat
  period : BitVec 32
  periodAt : Nat
  deadline : Nat
  intake : Nat
  startAt : Option Nat
  endAt : Nat
  stage : Stage
  waitFor : WaitFor
  passed : Nat
  aged : Option Nat
  die : Option Nat
  sequencer : Option Nat
  faces : List Nat
  landing : Option Nat
  engines : List Nat
  cores : List Nat
  lost : List Nat
  scratch : Nat
  accum : Nat
  flags : BitVec 8
  status : Status
  code : Byte
  detail : Byte
  aux : BitVec 32
  writes : List Nat
  poisons : Nat
  inbound : List Host.Cell
  readSpan : List (Nat × Nat)
  writeSpan : List (Nat × Nat)
  written : List (Nat × Nat)
  poisonSent : Bool
  claim : Option (Nat × Nat)
  ownPin : Option (Nat × Nat × Nat)
  rowBlocks : Nat
  flagged : List Flagged
  collNo : Option Nat
  normFolded : Option W64
  shipped : Bool
  counted : Bool
  replays : Nat
  staged : List StagedWrite
  discard : List (Nat × Nat)
  areas : List (Nat × Nat)
  blur : List Nat
  slot : Nat
  work : List (Nat × Nat)
deriving DecidableEq, Repr, Inhabited

/-- What an outstanding request settles (R125, R229, R253, R258, R275). -/
inductive Purpose where
  | read (addr : Nat) (len : Nat)
  | write
  | flagged
  | poison
  | atomic (ret : Option Nat) (width : Nat)
  | pin (record : Nat) (expect : W64) (buf : Nat)
  | ownPin (record : Nat) (expect : W64) (buf : Nat) (version : Nat)
  | unpin (record : Nat) (expect : W64) (buf : Nat)
  | claim (record : Nat) (expect : W64) (buf : Nat)
  | unclaim (record : Nat) (expect : W64) (buf : Nat)
  | commit (record : Nat) (expect : W64) (buf : Nat)
  | drain (ctx : Nat) (upTo : BitVec 32)
  | errorDrain (upTo : Nat)
  | held
deriving DecidableEq, Repr, Inhabited

/-- What the Porch sends to the host (R327, R333, R336, R338, R341), each message with its first PSN. -/
inductive PorchOut where
  | ack (qp : Nat) (psn : BitVec 24)
  | nakSequence (qp : Nat) (psn : BitVec 24)
  | nakInvalid (qp : Nat) (psn : BitVec 24)
  | nakAccess (qp : Nat) (psn : BitVec 24)
  | nakOperational (qp : Nat) (psn : BitVec 24)
  | rnrNak (qp : Nat) (psn : BitVec 24)
  | readResponse (qp : Nat) (psn : BitVec 24) (bytes : List Byte)
  | write (qp : Nat) (va : Nat) (rkey : BitVec 32) (bytes : List Byte) (psn : BitVec 24)
  | writeImm (qp : Nat) (va : Nat) (rkey : BitVec 32) (bytes : List Byte) (imm : BitVec 32) (psn : BitVec 24)
  | read (qp : Nat) (va : Nat) (rkey : BitVec 32) (len : Nat) (psn : BitVec 24)
  | reply (r : GhReply) (psn : BitVec 24)
  | cnp (qp : Nat)
  | pause (prio : Nat) (xoff : Bool)
  | arpReply (ip : BitVec 32) (mac : BitVec 48)
  | neighborAdvertisement (ip : BitVec 128) (mac : BitVec 48)
deriving DecidableEq, Repr, Inhabited

/-- An outstanding request of this device: by Spejan with its req_id (R275), or by a queue pair of the Porch (R336) with its PSNs and
its message (R330). retry says that it was answered RETRY and is to be reissued (R232), lost
that no route to its home was left when it was to leave (R282). -/
structure Req where
  id : Nat
  qp : Option Nat
  item : Option ItemRef
  ctx : Option Nat
  purpose : Purpose
  packet : Packet
  issued : Nat
  sent : Bool
  retry : Bool
  lost : Bool
  imm : Option (BitVec 32)
  psn : BitVec 24
  psns : Nat
  out : Option PorchOut
deriving DecidableEq, Repr, Inhabited

/-! ## Memory -/

/-- A line held in a Larder slice (R226): its local line number, whether it is dirty, its use stamp, and a double-bit error that no
access has found yet (R212). -/
structure LarderLine where
  line : Nat
  dirty : Bool
  stamp : Nat
  upset : Bool
deriving DecidableEq, Repr, Inhabited

/-- What a home answers to an access (R205, R220, R229, R230, R232). -/
inductive Ans where
  | data (bs : List Byte)
  | ack
  | old (v : Nat) (fl : BitVec 8)
  | refused
  | poisoned
  | uncorrectable (pantry : Bool)
  | retry
deriving DecidableEq, Repr

/-- The fair queue of a line (R227): the source served last and the waiting accesses in arrival order. -/
structure LineQueue where
  line : Nat
  last : Fin 62
  waiting : List Access
deriving DecidableEq, Repr, Inhabited

/-- A line of a Pantry cache partition (R209): die and context, Lomium line number, data, valid and dirty byte masks, use
stamp, the items whose bytes it holds dirty (R172), whether it is poisoned, and a double-bit error that no access has found yet (R212). -/
structure CacheLine where
  die : Nat
  ctx : Nat
  line : Nat
  data : BitVec 512
  valid : BitVec 64
  dirty : BitVec 64
  stamp : Nat
  owners : List ItemRef
  poison : Bool
  upset : Bool
deriving DecidableEq, Repr, Inhabited

/-- An HBM3E stack: STACK_STATUS (R221), its retrain (R364, R365), its scrub position and its throttle timer (R231). -/
structure Stack where
  ueCount : BitVec 16
  ceCount : BitVec 16
  scrubPass : Byte
  temp : Byte
  throttle : Nat
  service : Nat
  attempts : Nat
  retrainAt : Nat
  scrubAt : Nat
  belowSince : Nat
  recentUe : List (Nat × Nat)
  rowsTrained : BitVec 16
deriving DecidableEq, Repr, Inhabited

/-- A partition's regulator at one Cellar (R224): both buckets in units of 1/1000 byte, when they were last filled,
its waiting requests with their arrival numbers, and its round-robin credit for spare bandwidth. -/
structure Regulator where
  guarantee : Nat
  ceiling : Nat
  filled : Nat
  waiting : List (Nat × Access)
  credit : Int
deriving DecidableEq, Repr, Inhabited

/-- A range of a Pantry, from one offset up to another, that a compute-domain reset left with arbitrary contents and nothing has
written since (R3, R214): the byte at offset o is the free value number seed + o. -/
structure Stale where
  die : Nat
  lo : Nat
  hi : Nat
  seed : Nat
deriving DecidableEq, Repr, Inhabited

/-- The memory of the device: HBM3E with its poison, Rubble tags and Larder, the Pantries, the caches, the stacks and
the regulators. upsets lists the 8-byte words of the Pantries with a double-bit error, by die and word (R212), and served the answers of queued accesses
that were performed ahead of another one and have yet to reach their callers (R227). -/
structure Memory where
  hbm : Mem
  poison : List Nat
  tags : Mem
  larder : List LarderLine
  queues : List LineQueue
  pantry : List Mem
  stale : List Stale
  pantryPoison : List (Nat × Nat)
  upsets : List (Nat × Nat)
  served : List (Access × Ans)
  cache : List CacheLine
  stamp : Nat
  hbmStacks : List Stack
  regulators : List (List Regulator)
  releasing : List (Nat × Bool)
deriving DecidableEq, Repr, Inhabited

/-! ## Face dies -/

/-- Face states (R75). -/
inductive FaceState where
  | stopped
  | rampUp
  | run
  | idleDummy
  | rampDown
deriving DecidableEq, Repr, Inhabited

/-- A stationary tile as a LOAD filled it (R60, R63): K rows of N element codes, and one row of N scale bytes for each
group of 32 K indices. -/
structure Tile where
  load : FaceLoad
  w : List (List Nat)
  scales : List (List Nat)
deriving DecidableEq, Repr, Inhabited

/-- The entry of a row (R69): the die's Face time, in units of 1/40 Face cycle, the moment in ns, and the RUN time of the Face then. -/
structure RowEntry where
  unit : Nat
  ns : Nat
  run : Nat
deriving DecidableEq, Repr, Inhabited

/-- A stream whose rows have not all emerged (R69, R70): its place in the order in which the die's Faces took operations (R71), the tile its rows
meet, the Face time at which the Face took it, Face cycles per row, the next row to emerge, and the entries of the rows from that one on that
have entered. -/
structure InFlight where
  stamp : Nat
  stream : FaceStream
  tile : Tile
  takenUnit : Nat
  perRow : Nat
  next : Nat
  entries : List RowEntry
deriving DecidableEq, Repr, Inhabited

/-- A replay sample (R402): the row's element codes and scales, its N tile results, the tile's base and layout, the streamed format,
when it was taken, and the quanta its replay still takes (R404). -/
structure Sample where
  item : ItemRef
  row : Nat
  codes : List Nat
  rowScales : List Nat
  narrow : List (BitVec 40)
  load : FaceLoad
  fmt : Fin 16
  t1 : Bool
  takenAt : Nat
  quanta : Nat
deriving DecidableEq, Repr, Inhabited

/-- A row that has left the array for its stage units (R73): its chain, MATMUL stage, row block, chunk and row, and the Face time at which what
it becomes is readable by a Face operation. -/
structure ClosedRow where
  item : ItemRef
  stage : Nat
  block : Nat
  chunk : Nat
  row : Nat
  readable : Nat
  out : List (BitVec 40)
deriving DecidableEq, Repr, Inhabited

/-- A Face (R63, R74 to R85, R397 to R404). RUN times count ns of rows entering since reset. loadAt is the Face time at which the LOAD in
progress completes and loadStamp its place in the order of R71, freeAt the Face time, and idleSince the ns, from which no entered row takes
Face cycles, checkFrom the Face time at which the spare has the mirrored column's weights, spare the tile whose weights it read itself (R83),
suspectAt and checkSince the RUN times at which it became suspect and began to mirror the column, rotMiss a mismatch in the rotation that
runs, quick the samples still taken 0.1 ms apart and watch those still watched after a replay mismatch (R402, R403). -/
structure Face where
  state : FaceState
  restartLatched : Bool
  spareYield : Bool
  excluded : Fin 5
  checkCol : Fin 4
  rotations : BitVec 32
  lastRotation : Nat
  checkFrom : Nat
  checkSince : Nat
  spare : Option Tile
  turn : Bool
  active : Option Tile
  shadow : Option Tile
  loading : Option FaceLoad
  loadAt : Nat
  loadStamp : Nat
  pendingOp : Option FaceOp
  inFlight : List InFlight
  runNs : Nat
  columns : Nat
  freeAt : Nat
  idleSince : Nat
  rampAt : Nat
  suspect : Bool
  suspectAt : Nat
  rotMiss : Bool
  quick : Nat
  watch : Nat
  fenced : Bool
  users : List ItemRef
  samples : List Sample
  lastSample : Nat
  closed : List ClosedRow
deriving DecidableEq, Repr, Inhabited

/-- Who holds a Bench core (R199 to R203). -/
inductive CoreOwner where
  | free
  | collective
  | item (r : ItemRef)
  | replay (back : Option ItemRef)
deriving DecidableEq, Repr, Inhabited

/-- A presented Bench core (R188, R191). -/
structure Core where
  awake : Bool
  waking : Bool
  wakeLatched : Bool
  owner : CoreOwner
  idleSince : Nat
deriving DecidableEq, Repr, Inhabited

/-- One bank of stage units and its sequencer (R98): the chain that runs. -/
structure Sequencer where
  item : Option ItemRef
deriving DecidableEq, Repr, Inhabited

/-- A Face die: its Benches, sequencers, INTEGRITY_STATUS counts (R419), FACE_CLOCK (R395) and scheduler credits (R178). lossOrder holds
the cores that items have lost in the order of loss (R201), replayDue a replay that waits for core 31 (R203), opStamp numbers the operations its
Faces take, and settling lists Pantry bytes written, from and up to, with the Face time at which they become readable by a Face operation
(R71, R72). Face time counts units of 1/40 Face cycle at the die's level and stretch: faceUnits had gone by at the ns faceUnitsAt (R375,
R384). hotBy holds the dies whose heat has lowered the thermal cap (R390). -/
structure Die where
  cores : List Core
  sequencers : List Sequencer
  sparesFree : Nat
  quanta31 : Nat
  mismatchW : BitVec 16
  mismatchE : BitVec 16
  replayLate : Byte
  retiredW : Bool
  retiredE : Bool
  droopEvents : BitVec 32
  temp : Byte
  capThermal : Nat
  level : Nat
  target : Nat
  stretch : Nat
  locked : Bool
  locking : Bool
  generator : Nat
  belowSince : Nat
  hotSince : Nat
  hotSteps : Nat
  credits : List Int
  benchCredits : List Int
  detNext : Nat
  detBenchNext : Nat
  lossOrder : List (ItemRef × Nat)
  replayDue : Bool
  opStamp : Nat
  settling : List (Nat × Nat × Nat)
  faceUnits : Nat
  faceUnitsAt : Nat
  hotBy : List Nat
deriving DecidableEq, Repr, Inhabited

/-- A Haul or Tipple engine (R233, R392). -/
structure Engine where
  busy : Option ItemRef
  piece : Option Piece
  clock : Bool
  idleSince : Nat
deriving DecidableEq, Repr, Inhabited

/-- A Landing: its engines, its waiting chain pieces with the times they arrived (R234, R235), and its rounds' credits. -/
structure Landing where
  haul : List Engine
  tipple : List Engine
  haulQueue : List (Nat × Piece)
  tippleQueue : List (Nat × Piece)
  haulCredits : List Int
  tippleCredits : List Int
deriving DecidableEq, Repr, Inhabited

/-! ## The Spejan fabric -/

/-- The virtual networks of the mesh that transit packets use (R279). -/
inductive MeshNet where
  | request
  | response
  | collective
deriving DecidableEq, Repr, Inhabited

/-- A packet that waits for credit of an output lane (R277 to R279): its class, lane, the input it came from (16 for local), the input
lane it stays in until then and the training in which it came, the virtual network on which it crosses the mesh, if it does, and when it
reached the head. -/
structure LanePacket where
  cls : Nat
  lane : Nat
  source : Nat
  inLane : Nat
  epoch : Nat
  mesh : Option MeshNet
  since : Nat
  packet : Packet
deriving DecidableEq, Repr, Inhabited

/-- Port states of R295. -/
inductive PortState where
  | off
  | training
  | up
  | down
  | disabling
  | failed
deriving DecidableEq, Repr, Inhabited

/-- A Spejan port (R267 to R297). checkFailed says that the identity check of R288 has failed in the attempt that runs, owed holds the
credits of each input lane still to be returned (R277), epoch the trainings that have granted full credits, and control the last flit sent that carries no packet (R270, R271, R296). -/
structure Port where
  state : PortState
  seenDevice : BitVec 15
  seenPort : BitVec 4
  replayCount : BitVec 13
  fecUncorrectable : Byte
  downCount : BitVec 4
  pktDiscards : BitVec 4
  stallDiscards : BitVec 4
  reenableLatched : Bool
  wiringError : Bool
  attempts : Nat
  fecLocked : Bool
  ready : Bool
  checkFailed : Bool
  listening : Bool
  downAt : Nat
  lastGood : Nat
  txSeq : BitVec 12
  expect : BitVec 12
  nakSent : Bool
  replay : List (BitVec 12 × Flit)
  replays : Nat
  credits : List Nat
  assembly : List (List W64 × List Byte)
  queue : List LanePacket
  turnClass : Nat
  turnLane : List Nat
  turnSource : List Nat
  crushFlagged : Nat
  epoch : Nat
  owed : List Nat
  control : Option Flit
deriving DecidableEq, Repr, Inhabited

/-! ## Collectives -/

/-- What a chunk of a collective belongs to: its phase, its shard, part or segment, and its ring (Table 6 of 11_collectives.md). -/
structure CollKey where
  phase : Nat
  idx : Nat
  ring : Nat
deriving DecidableEq, Repr, Inhabited

/-- A packet of a collective that has arrived and is held (R311): its source rank, its position in what the ring carries, and when it
came. -/
structure CollPart where
  key : CollKey
  src : Nat
  pos : Nat
  bytes : List Byte
  chunk : Nat
  came : Nat
  version : Nat
deriving DecidableEq, Repr, Inhabited

/-- A chunk that has been formed and waits for a credit of the device it goes to (R314): its flow's key and offset, its number, its place
and its bytes. -/
structure CollOwed where
  dest : Nat
  key : CollKey
  base : Nat
  chunk : Nat
  pos : Nat
  bytes : List Byte
deriving DecidableEq, Repr, Inhabited

/-- A chunk sent and not acknowledged by its consumer (R310, R314). -/
structure CollSent where
  dest : Nat
  key : CollKey
  chunk : Nat
deriving DecidableEq, Repr, Inhabited

/-- A copy of a slot's chunk that a collector which has completed did not use and that has not come in full: when it comes it is discarded
and its sender told (R316), unless the item ends otherwise than DONE or SUPERSEDED (R310). words is the collector's descriptor, left the packets still to come. -/
structure LateCopy where
  item : ItemRef
  words : List W64
  group : Nat
  number : Nat
  src : Nat
  key : CollKey
  chunk : Nat
  left : Nat
deriving DecidableEq, Repr, Inhabited

/-- Progress of a collective instance (R300, R310 to R323). early: its item has not begun here. progress holds, for each of its flows,
the level (0, or 1 for the first level of RING2D) and the next chunk. held, level1, finished, runScale and scales hold bytes that have come
or been formed; armed says that the Crusher adders act for it, crushIn holds blocks that came before, with their ports, blocks the finished blocks of this
device's shard and rerun those still to be added on the Bench. owed holds the chunks formed that wait for a credit (R314) and granted the ranks that take the chunks of a versioned
gather (R312); crushNo is the number given to the instance for CRUSH_DATA packets to here and crushPeer the next rank's (R319); refused
holds the copies discarded, by source and chunk (R316). -/
structure Coll where
  item : ItemRef
  group : Nat
  number : Nat
  early : Bool
  held : List CollPart
  progress : List (Nat × CollKey × Nat)
  unacked : List CollSent
  owed : List CollOwed
  granted : List Nat
  level1 : List (Nat × List Byte)
  finished : List (Nat × Nat × List Byte)
  runScale : List Byte
  scales : List Byte
  armed : Bool
  crushNo : Nat
  crushPeer : Option Nat
  crushIn : List (Nat × List Byte)
  blocks : List (Nat × List Byte)
  rerun : List Nat
  closed : Bool
  chunksDone : Nat
  flaggedBlocks : Nat
  substitutions : Nat
  notUsed : Nat
  chosen : List (Nat × Nat × Nat)
  refused : List (Nat × Nat)
  switched : List Nat
  deadlines : List (Nat × Nat)
  passed : List Nat
  completions : List Nat
  version : Nat
  values : List (Nat × W64)
deriving DecidableEq, Repr, Inhabited

/-! ## The Attic -/

/-- A packet of a parity chunk that has come (R426): round, tensor, source rank, position in the slice. -/
structure ParityPart where
  round : Nat
  tensor : Nat
  src : Nat
  pos : Nat
  bytes : List Byte
deriving DecidableEq, Repr, Inhabited

/-- A slice that a PARITY SECURE sends to a holder: chunks sent and chunks whose credits have come back (R314, R426). -/
structure SliceSend where
  dest : Nat
  next : Nat
  acked : Nat
deriving DecidableEq, Repr, Inhabited

/-- A running PARITY SECURE (R426): what it sends, the chunks folded into its parity buffer, whether that buffer's header is on its way
and whether its fold notices have left. -/
structure ParityRun where
  item : ItemRef
  sends : List SliceSend
  folded : Nat
  headed : Bool
  noticed : Bool
deriving DecidableEq, Repr, Inhabited

/-- The round being secured (R422, R428): R_c, the SECUREs of the round that ended DONE and when its first one started; the reports as
round, rank and cost in µs; the fold notices as round, tensor and holder; parity chunks held; and the running PARITY SECUREs. -/
structure Attic where
  lastRound : Option (BitVec 32)
  round : Nat
  firstAt : Nat
  secured : Nat
  reports : List (Nat × Nat × Nat)
  notices : List (Nat × Nat × Nat)
  parts : List ParityPart
  runs : List ParityRun
deriving DecidableEq, Repr, Inhabited

/-! ## The Porch -/

/-- What a host access is answered with: the messages, and whether the last one is a NAK that puts the queue pair in ERROR (R331, R333). -/
structure HostAnswer where
  outs : List PorchOut
  fatal : Bool
deriving DecidableEq, Repr, Inhabited

/-- A host access that is held and reissued (R333), a flagged write that waits, or a Send behind such (R334): ecc is what the codes find in
each line of a read as it arrives, msg the message of a Send, answer the answer of one that has been performed and waits for its turn. -/
structure HeldHost where
  req : HostReq
  bytes : List Byte
  readLen : Option Nat
  imm : Bool
  ecc : List Ecc
  msg : Option GhMsg
  answer : Option HostAnswer
deriving DecidableEq, Repr, Inhabited

/-- A queue pair (R330, R331, R339): credit is its round-robin credit and nextAt when its rate lets it send again (R341). -/
structure Qp where
  index : Nat
  error : Bool
  cause : BitVec 4
  rate : Nat
  txPsn : BitVec 24
  rxPsn : BitVec 24
  retries : Nat
  rnrs : Nat
  held : List HeldHost
  cnpAt : Option Nat
  recoverAt : Nat
  cnpSentAt : Option Nat
  seqNakAt : Option Nat
  credit : Int
  nextAt : Nat
deriving DecidableEq, Repr, Inhabited

/-- A message that waits for the transmitter (R341): what it is, the request it belongs to, and its packets still to be sent. -/
structure PorchWait where
  out : PorchOut
  req : Option Nat
  left : Nat
deriving DecidableEq, Repr, Inhabited

/-- The IP header fields of a sent packet that the spec names (R327, R329): hop limit, ECN code point and DSCP. -/
structure IpFields where
  hopLimit : Byte
  ecn : BitVec 2
  dscp : Nat
deriving DecidableEq, Repr, Inhabited

/-- A sent message with the header fields of its frames: IP fields where it is an IP packet, priority and VLAN of its 802.1Q tag (R327,
R329). -/
structure PorchFrame where
  out : PorchOut
  ip : Option IpFields
  tag : Option (Nat × Nat)
deriving DecidableEq, Repr, Inhabited

/-- The Porch (R325 to R343): waiting holds the messages that wait for the transmitter in the order they became ready. -/
structure Porch where
  framesDiscarded : BitVec 16
  downCount : Byte
  qpErrors : Byte
  link : Nat
  trainAt : Nat
  paused : BitVec 8
  xoffSent : BitVec 8
  qps : List Qp
  waiting : List PorchWait
  out : List PorchFrame
deriving DecidableEq, Repr, Inhabited

/-! ## The Hearth -/

/-- A hinted phase (R388). -/
structure HintPhase where
  item : ItemRef
  start : Nat
  stop : Nat
  power : Nat
  active : Bool
deriving DecidableEq, Repr, Inhabited

/-- A VDD_FACE power group (R376, R492): its VID code, whether a droop holds its changes, when droop was last cleared on one of its
dies (R385), and when its voltage last made a step (R378). -/
structure PowerGroup where
  vid : BitVec 7
  held : Bool
  clearedAt : Nat
  stepAt : Nat
deriving DecidableEq, Repr, Inhabited

/-- The Hearth (R375 to R395, R485), and the clock monitor of the Sill (R406, R417). history holds the average power of each past ms in
mW, newest first, and senses the W that the last 100 readings of the rails gave. throttleMarks holds, for each reason, the first µs that
its counter has not counted (R393). clockOff lists the clocks whose last window was outside clock_tol, clockPassed when each clock's window last passed, and
stopped the clocks whose loss took their units. -/
structure Hearth where
  powerAvg : Nat
  powerRecent : Nat
  history : List Nat
  senseSum : Nat
  senseCount : Nat
  senses : List Nat
  tickAt : Nat
  capSustained : Nat
  capHint : Nat
  capAlert : Nat
  deep : Bool
  boostOk : Bool
  lastDroop : Option Nat
  alertNow : BitVec 16
  alertSeen : BitVec 16
  alertSince : List Nat
  alertHighAt : Option Nat
  alertRising : Bool
  hints : List HintPhase
  throttle : List (BitVec 56)
  throttleAt : Nat
  throttleMarks : List Nat
  rails : List (Option RailReading)
  temps : List (Option Byte)
  groups : List PowerGroup
  dieTempMax : Byte
  clockOff : List ClockId
  clockPassed : List (ClockId × Nat)
  stopped : List ClockId
deriving DecidableEq, Repr, Inhabited

/-! ## Counters -/

/-- A sample record (R467), as its eight words. -/
abbrev SampleRec := List W64

/-- A die's counter bank (R458 to R468). -/
structure Bank where
  values : List (BitVec 48)
  ovf : List Bool
  running : Bool
  program : Nat
  matched : Nat
  written : BitVec 32
  lost : BitVec 16
  ring : List (Nat × SampleRec)
  lastWrite : Option Nat
deriving DecidableEq, Repr, Inhabited

/-! ## Outcomes and the state -/

/-- Reasons the machine would stop with a fault. No meaning raises one: the spec gives every command of the table an
effect in every state. -/
inductive Fault where
  /-- Raised by nothing; safe. -/
  | none
deriving DecidableEq, Repr, Inhabited

/-- Reasons a command has no meaning. -/
inductive Refusal where
  /-- Raised only by an arm of exec whose command is not modelled yet; safe. -/
  | notModelled (mnemonic : String)
deriving DecidableEq, Repr

/-- The whole state of the block. Time is now; t0 is when the Ledger last opened (R154) and stampAt when the device
timestamp was 0 (R467). rounds numbers the scheduler's rounds, for the order in which candidates age (R178, R179). -/
structure State where
  pending : List Instr
  now : Nat
  t0 : Nat
  stampAt : Nat
  free : Nat
  boot : Boot
  fuses : Fuses
  gate : Gatehouse
  errors : Errors
  cfg : Cfg
  ctxs : List Ctx
  items : List Item
  rounds : Nat
  reqs : List Req
  nextReq : Nat
  memory : Memory
  faces : List Face
  dies : List Die
  landings : List Landing
  ports : List Port
  colls : List Coll
  crushNext : BitVec 16
  collNext : List (Nat × Nat)
  lateCopies : List LateCopy
  attic : Attic
  porch : Porch
  hearth : Hearth
  banks : List Bank
deriving DecidableEq, Repr, Inhabited

/-! ## Reset -/

/-- The configuration before an image is applied: no record, and every SO field 0. -/
def Cfg.empty : Cfg :=
  { partitions := [], ctxs := [], regions := [], routes := [], groups := [], qps := [], devWindows := [], hostWindows := [],
    ipv4 := 0, ipv6 := 0, lomium := 0, faceIdle := 0, bench := 0, memCfg := 0, spejan := 0, porch := 0, porchCc := 0,
    power := 0, thermal := 0, safety := 0, errHostBase := 0, survival := none, regCfg := List.replicate 8 0,
    portCfg := List.replicate 16 0, programs := [], forward := 0, fwVersions := [], fwMeasures := [] }

/-- A context at a cold start: gen 0x0001 and head 0 (R156, R368), everything else 0. -/
def Ctx.cold : Ctx :=
  { gen := 1, head := 0, staleGen := false, publishError := false, readFault := false, resetting := false, nextSeq := 0,
    period := 0, periodAt := 0, started := false, polls := 0, readPending := false, firstReturned := false,
    intakeClosed := false, pins := [], releases := [], folds := List.replicate 16 ⟨0, false⟩, appended := 0, drained := 0,
    ledgerAck := 0, oldestAt := 0, lastTail := 0, awaiting := false, taking := false, fetched := [], taken := [], drainHeld := false, appendTimes := [] }

/-- A Face at a cold start: STOPPED (R75), spare free, no tile. -/
def Face.cold : Face :=
  { state := .stopped, restartLatched := false, spareYield := false, excluded := 4, checkCol := 0, rotations := 0,
    lastRotation := 0, checkFrom := 0, checkSince := 0, spare := none, turn := false, active := none, shadow := none, loading := none,
    loadAt := 0, loadStamp := 0,
    pendingOp := none, inFlight := [], runNs := 0, columns := 0, freeAt := 0, idleSince := 0, rampAt := 0, suspect := false, suspectAt := 0,
    rotMiss := false, quick := 0, watch := 0, fenced := false, users := [], samples := [], lastSample := 0, closed := [] }

/-- A Bench core at a cold start: idle, its clock stopped (R193: awake resets to 0). -/
def Core.cold : Core := { awake := false, waking := false, wakeLatched := false, owner := .free, idleSince := 0 }

/-- A Face die at a cold start (R368, R395, R419). -/
def Die.cold : Die :=
  { cores := List.replicate 32 Core.cold, sequencers := [⟨none⟩, ⟨none⟩], sparesFree := 2, quanta31 := 0, mismatchW := 0, mismatchE := 0,
    replayLate := 0, retiredW := false, retiredE := false, droopEvents := 0, temp := 0, capThermal := 0, level := 0,
    target := 0, stretch := 0, locked := false, locking := false, generator := 2, belowSince := 0, hotSince := 0,
    hotSteps := 0, credits := List.replicate 8 0, benchCredits := List.replicate 8 0, detNext := 0, detBenchNext := 0, lossOrder := [], replayDue := false, opStamp := 0,
    settling := [], faceUnits := 0, faceUnitsAt := 0, hotBy := [] }

/-- An engine at a cold start: free, its clock stopped. -/
def Engine.cold : Engine := { busy := none, piece := none, clock := false, idleSince := 0 }

/-- A Landing at a cold start: 16 Haul and 4 Tipple engines (R233). -/
def Landing.cold : Landing :=
  { haul := List.replicate 16 Engine.cold, tipple := List.replicate 4 Engine.cold, haulQueue := [], tippleQueue := [],
    haulCredits := List.replicate 8 0, tippleCredits := List.replicate 8 0 }

/-- A stack at a cold start: STACK_STATUS all 0 (R221), nothing retraining. -/
def Stack.cold : Stack :=
  { ueCount := 0, ceCount := 0, scrubPass := 0, temp := 0, throttle := 0, service := 0, attempts := 0, retrainAt := 0,
    scrubAt := 0, belowSince := 0, recentUe := [], rowsTrained := 0 }

/-- A regulator at a cold start: both buckets empty until the image sets their depth (R222). -/
def Regulator.cold : Regulator := { guarantee := 0, ceiling := 0, filled := 0, waiting := [], credit := 0 }

/-- Credits of a trained port (R277): 512 flits on each main lane and 20 on each escape lane. -/
def Port.fullCredits : List Nat := [512, 20, 20, 512, 20, 20, 512, 20, 20, 512, 20, 20]

/-- A port at a cold start: SPEJAN_PORT_STATUS all 0 (R295), which is OFF. -/
def Port.cold : Port :=
  { state := .off, seenDevice := 0, seenPort := 0, replayCount := 0, fecUncorrectable := 0, downCount := 0, pktDiscards := 0,
    stallDiscards := 0, reenableLatched := false, wiringError := false, attempts := 0, fecLocked := false, ready := false, checkFailed := false,
    listening := false, downAt := 0, lastGood := 0, txSeq := 0, expect := 0, nakSent := false, replay := [], replays := 0,
    credits := Port.fullCredits, assembly := List.replicate 12 ([], []), queue := [], turnClass := 3, turnLane := List.replicate 4 0,
    turnSource := List.replicate 12 16, crushFlagged := 0, epoch := 0, owed := List.replicate 12 0, control := none }

/-- A counter bank after its reset: program 0, stopped, every value 0 (R460). -/
def Bank.cold : Bank :=
  { values := List.replicate 16 0, ovf := List.replicate 16 false, running := false, program := 0, matched := 0, written := 0,
    lost := 0, ring := [], lastWrite := none }

/-- Memory at a cold start: zero, no poison, the Larder empty, every Rubble tag ZERO, every stack in service (R368). -/
def Memory.cold : Memory :=
  { hbm := [], poison := [], tags := [], larder := [], queues := [], pantry := List.replicate 32 [], stale := [], pantryPoison := [], upsets := [], served := [],
    cache := [], stamp := 0, hbmStacks := List.replicate 24 Stack.cold,
    regulators := List.replicate 12 (List.replicate 8 Regulator.cold), releasing := List.replicate 32 (0, false) }

/-- The Hearth at a cold start: every status field 0 (R395). VID code 60 is what the Sill drives until the Hearth takes the
pins (R492). -/
def Hearth.cold : Hearth :=
  { powerAvg := 0, powerRecent := 0, history := [], senseSum := 0, senseCount := 0, senses := [], tickAt := 0, capSustained := 0, capHint := 0,
    capAlert := 0, deep := false, boostOk := false, lastDroop := none, alertNow := 0, alertSeen := 0,
    alertSince := List.replicate 16 0, alertHighAt := none, alertRising := false, hints := [], throttle := List.replicate 6 0,
    throttleAt := 0, throttleMarks := List.replicate 6 0, rails := List.replicate 16 none, temps := List.replicate 100 none,
    groups := List.replicate 8 ⟨60, false, 0, 0⟩, dieTempMax := 0, clockOff := [], clockPassed := [], stopped := [] }

/-- The Porch at a cold start: PORCH_STATUS all 0 (Table 10 of 12_porch.md), no queue pair. -/
def Porch.cold : Porch :=
  { framesDiscarded := 0, downCount := 0, qpErrors := 0, link := 0, trainAt := 0, paused := 0, xoffSent := 0, qps := [], waiting := [], out := [] }

/-- The Attic at a cold start: R_c is not yet read from a manifest (R422). -/
def Attic.cold : Attic :=
  { lastRound := none, round := 0, firstAt := 0, secured := 0, reports := [], notices := [], parts := [], runs := [] }

/-- The fuses of a part as delivered, with no defect: the spec gives no values, so the serial, the seed, the certificate and
the enrolled key are the model's (notes/assumptions/3.md). DESIGN CHOICE. -/
def Fuses.asDelivered : Fuses :=
  { serial := 0, seed := 0, certificate := [], ownerKeys := some 0 :: List.replicate 7 none, ownerRevoked := 0, kenviradRevoked := 0,
    floors := List.replicate 10 [], faceExcluded := List.replicate 64 none, benchExcluded := List.replicate 32 0,
    pantryRemap := List.replicate 32 0, stackRows := List.replicate 24 0 }

/-- An erased flash slot: every byte 0xFF (R352). -/
def erasedSlot : SlotImage := { fill := 0xFF, bytes := [] }

/-- The Gatehouse pair before a cold start: erased flash, empty log, no nonce, no chain. -/
def Gatehouse.cold : Gatehouse :=
  { slotA := erasedSlot, slotB := erasedSlot, echo := ⟨0, []⟩, log := [], bootNonce := 0, lastCounter := 0, chainNow := 0,
    chainBefore := 0, chain := [], chainTotal := 0, identity := 0, queue := [], writing := none,
    forwarding := none, i3cOffset := 0, i3cData := 0 }

/-- The error window at a cold start: empty, numbers from 0 (R410). -/
def Errors.cold : Errors := { count := 0, window := [], drained := 0, oldestAt := 0 }

/-- Boot state while POR_N is asserted: BOOT_STATUS all 0, FAULT_N and THERMTRIP_N deasserted (R350, R391, R418). -/
def Boot.por : Boot :=
  { phase := .por, inputs := none, imageVersion := 0, variant := 0, boardPos := 0, slot := false, fallback := false, step := 0,
    failCode := 0, computeResets := 0, creset := none, cresetLatched := none, xspiHighZ := false, noImageAt := 0,
    faultN := false, thermtripN := false, safe := false, safeAt := 0, comparatorStopped := false, crossingDiscarded := 0,
    crossingResyncs := 0, tapExtest := false }

/-- The machine right after reset: POR_N asserted, every register at its reset value, nothing taken in (R14, R346, R368). -/
def State.reset : State :=
  { pending := [], now := 0, t0 := 0, stampAt := 0, free := 0, boot := Boot.por, fuses := Fuses.asDelivered, gate := Gatehouse.cold,
    errors := Errors.cold, cfg := Cfg.empty, ctxs := List.replicate 48 Ctx.cold, items := [], rounds := 0, reqs := [], nextReq := 0,
    memory := Memory.cold, faces := List.replicate 64 Face.cold, dies := List.replicate 32 Die.cold,
    landings := List.replicate 12 Landing.cold, ports := List.replicate 16 Port.cold, colls := [], crushNext := 0, collNext := [], lateCopies := [],
    attic := Attic.cold, porch := Porch.cold, hearth := Hearth.cold, banks := List.replicate 100 Bank.cold }

end Sys2Proof.Machine
end

