-- ==== Sys2Proof/Machine/Bits.lean ====
section
/-! DEFINITION. Bit fields of 64-bit words, little-endian bytes (R5), and the list updates the machine uses. -/

namespace Sys2Proof.Machine

/-- Bits [hi:lo] of a word as a number (R4). -/
def bits (w : W64) (hi lo : Nat) : Nat := (w.toNat >>> lo) % 2 ^ (hi + 1 - lo)

/-- Bit i of a word. -/
def bitAt (w : W64) (i : Nat) : Bool := w.getLsbD i

/-- Bits [hi:lo] of a word read as a two's-complement number. -/
def sbits (w : W64) (hi lo : Nat) : Int :=
  let v := bits w hi lo
  if v < 2 ^ (hi - lo) then (v : Int) else (v : Int) - 2 ^ (hi + 1 - lo)

/-- A field of a word being built: its lowest bit, its width, its value. -/
structure Place where
  lo : Nat
  width : Nat
  value : Nat
deriving DecidableEq, Repr

/-- The word with the given fields, every other bit 0 (R10). -/
def wordOf (fs : List Place) : W64 :=
  BitVec.ofNat 64 (fs.foldl (fun acc f => acc ||| ((f.value % 2 ^ f.width) <<< f.lo)) 0)

/-- 1 for true. -/
def b2n (b : Bool) : Nat := if b then 1 else 0

/-- The number whose little-endian bytes are given (R5). -/
def leNat : List Byte → Nat
  | [] => 0
  | b :: bs => b.toNat + 256 * leNat bs

/-- The n little-endian bytes of a number (R5). -/
def leBytes : Nat → Nat → List Byte
  | 0, _ => []
  | n + 1, v => BitVec.ofNat 8 v :: leBytes n (v / 256)

/-- The word at byte position i of a byte list, bytes beyond the end 0. -/
def wordAt (bs : List Byte) (i : Nat) : W64 := BitVec.ofNat 64 (leNat ((bs.drop i).take 8))

/-- The bytes of a list of words. -/
def wordsBytes (ws : List W64) : List Byte := ws.flatMap (fun w => leBytes 8 w.toNat)

/-- The words of a byte list, the last one filled with zeros. -/
def bytesWords (bs : List Byte) : List W64 := (List.range ((bs.length + 7) / 8)).map (fun i => wordAt bs (8 * i))

/-- Word i of a list of words, 0 beyond the end. -/
def wd (ws : List W64) (i : Nat) : W64 := ws.getD i 0

/-- Cyclic order of 16-bit numbers: true when a precedes b by fewer than 2^15 steps. -/
def seqBefore16 (a b : BitVec 16) : Bool := 0 < (b - a).toNat && (b - a).toNat < 2 ^ 15

/-- Rounds up to a multiple of k. -/
def roundUp (n k : Nat) : Nat := (n + k - 1) / k * k

/-- Quotient rounded up. -/
def ceilDiv (n k : Nat) : Nat := (n + k - 1) / k

/-- True when n is a power of two. -/
def isPow2 (n : Nat) : Bool := n != 0 && n == 2 ^ Nat.log2 n

/-- The least k with n ≤ 2^k. -/
def clog2 (n : Nat) : Nat := if n ≤ 1 then 0 else Nat.log2 (n - 1) + 1

/-- A count that stops at the top of its field. -/
def satInc {w : Nat} (v : BitVec w) : BitVec w := if v = BitVec.allOnes w then v else v + 1

/-- n added to a count that stops at the top of its field. -/
def satAdd {w : Nat} (v : BitVec w) (n : Nat) : BitVec w :=
  if v.toNat + n < 2 ^ w then BitVec.ofNat w (v.toNat + n) else BitVec.allOnes w

/-- The first n bytes of a list, zeros where it is shorter. -/
def padTo (n : Nat) (bs : List Byte) : List Byte := bs.take n ++ List.replicate (n - bs.length) 0

/-- Consecutive pieces of n elements, the last one shorter; the first argument bounds their number. -/
def chunksOf {α : Type} : Nat → Nat → List α → List (List α)
  | 0, _, _ => []
  | k + 1, n, l => if l.isEmpty then [] else l.take n :: chunksOf k n (l.drop n)

/-- The greatest element, 0 for none. -/
def maxOf (l : List Nat) : Nat := l.foldl Nat.max 0

/-- The list with x for an element that satisfies p, or x added at the end when none does. -/
def upsert {α : Type} (p : α → Bool) (x : α) (l : List α) : List α :=
  if l.any p then l.map (fun y => if p y then x else y) else l ++ [x]

/-- The elements in increasing order of a key (insertion sort, stable). -/
def sortOn {α : Type} (key : α → Nat) (l : List α) : List α :=
  l.foldr (fun x acc => acc.takeWhile (fun y => key y < key x) ++ x :: acc.dropWhile (fun y => key y < key x)) []

/-- The first element with the least key. -/
def minOn {α : Type} (key : α → Nat) : List α → Option α
  | [] => none
  | x :: xs => match minOn key xs with
    | none => some x
    | some y => if key y < key x then some y else some x

end Sys2Proof.Machine
end

