-- ==== Sys2Proof/Machine/Mem.lean ====
section
/-! DEFINITION. Byte memories: strictly rising addresses, no entry equal to 0, which is what an unlisted address reads
as (R347: every HBM3E block and Pantry array is zeroed at a cold start). -/

namespace Sys2Proof.Machine

/-- The canonical form: addresses strictly rising, no entry equal to what an unlisted address reads as. -/
abbrev Mem.Canonical (m : Mem) : Prop := m.Pairwise (fun a b => a.1 < b.1) ∧ ∀ c ∈ m, c.2 ≠ 0

/-- One byte. -/
def Mem.read (m : Mem) (a : Nat) : Byte :=
  match m.find? (fun c => c.1 == a) with
  | some c => c.2
  | none => 0

/-- n bytes from an address on. -/
def Mem.readBytes (m : Mem) (a n : Nat) : List Byte :=
  let near := m.filter (fun c => a ≤ c.1 && c.1 < a + n)
  (List.range n).map (fun i => Mem.read near (a + i))

/-- The cells of the nonzero bytes of a list that starts at an address. -/
def cellsAt : Nat → List Byte → Mem
  | _, [] => []
  | a, b :: bs => if b = 0 then cellsAt (a + 1) bs else (a, b) :: cellsAt (a + 1) bs

/-- The memory with the bytes written from an address on. -/
def Mem.writeBytes (m : Mem) (a : Nat) (bs : List Byte) : Mem :=
  m.filter (fun c => c.1 < a) ++ (cellsAt a bs ++ m.filter (fun c => a + bs.length ≤ c.1))

/-- The bytes of the new list where the mask is true, of the old list elsewhere. -/
def mergeMask (old new : List Byte) (mask : List Bool) : List Byte :=
  (old.zip (new.zip mask)).map (fun (o, n, b) => if b then n else o)

/-! ## Pantries (R205, R214) -/

/-- What is left of the ranges with arbitrary contents when n bytes of a Pantry are written from an offset on. -/
def cutStale (l : List Stale) (d a n : Nat) : List Stale :=
  l.flatMap (fun r =>
    if r.die = d then
      (if r.lo < min r.hi a then [{ r with hi := min r.hi a }] else []) ++
        (if max r.lo (a + n) < r.hi then [{ r with lo := max r.lo (a + n) }] else [])
    else [r])

/-- The parts of the ranges with arbitrary contents of a Pantry that lie in the given ranges. -/
def staleIn (l : List Stale) (d : Nat) (keep : List (Nat × Nat)) : List Stale :=
  l.flatMap (fun r => if r.die = d then
    keep.flatMap (fun k => if max r.lo k.1 < min r.hi k.2 then [{ r with lo := max r.lo k.1, hi := min r.hi k.2 }] else [])
  else [])

/-- n bytes of a die's Pantry. -/
def pantryBytes (m : Memory) (d a n : Nat) : List Byte :=
  let bs := (m.pantry.getD d []).readBytes a n
  let near := m.stale.filter (fun r => r.die == d && r.lo < a + n && a < r.hi)
  if near.isEmpty then bs
  else (bs.zip (List.range n)).map (fun (b, i) => match near.find? (fun r => r.lo ≤ a + i && a + i < r.hi) with
    | some r => (Config.arbitrary (r.seed + a + i)).setWidth 8
    | none => b)

/-- Bytes of a die's Pantry written: a write of all 64 bytes of a line clears its poison (R173), and a write of all 8 bytes of a word an error
in it (R212). -/
def pantryPut (m : Memory) (d a : Nat) (bs : List Byte) : Memory :=
  let covers (size : Nat) (x : Nat × Nat) : Bool := x.1 == d && a ≤ size * x.2 && size * x.2 + size ≤ a + bs.length
  { m with
    pantry := m.pantry.modify d (fun p => p.writeBytes a bs), stale := cutStale m.stale d a bs.length
    pantryPoison := m.pantryPoison.filter (fun x => !covers 64 x), upsets := m.upsets.filter (fun x => !covers 8 x) }

/-- The 8-byte little-endian word at an address. -/
def Mem.readWord (m : Mem) (a : Nat) : W64 := BitVec.ofNat 64 (leNat (m.readBytes a 8))

/-- A number read from n little-endian bytes. -/
def Mem.readNat (m : Mem) (a n : Nat) : Nat := leNat (m.readBytes a n)

/-- An element of a packed array: element i of the given width in bits, from a byte address on (R33). -/
def Mem.elem (m : Mem) (base width i : Nat) : Nat :=
  let b := width * i
  (m.readNat (base + b / 8) ((b % 8 + width + 7) / 8) >>> (b % 8)) % 2 ^ width

/-- The bytes of a packed array of codes (R33). DESIGN CHOICE: bits of the last byte that no code fills are zeros
(notes/assumptions/109.md). -/
def packCodes (width : Nat) (codes : List Nat) : List Byte :=
  let total := codes.foldr (fun c acc => c % 2 ^ width + 2 ^ width * acc) 0
  leBytes ((width * codes.length + 7) / 8) total

/-- The codes of a packed array held in a byte list. -/
def unpackCodes (width n : Nat) (bs : List Byte) : List Nat :=
  let total := leNat bs
  (List.range n).map (fun i => (total >>> (width * i)) % 2 ^ width)

end Sys2Proof.Machine
end

