-- ==== Sys2Proof/Machine/Parts.lean ====
section
/-! DEFINITION. Parts of the state by name: the clock, the free-value counter, contexts, partitions, items, records of the
configuration. -/

namespace Sys2Proof.Machine

/-- Ticks of the period timer, 10 ns each (R154). -/
def State.tick (s : State) : Nat := s.now / 10

/-- Time moves forward to a deadline that an event stands for (notes/assumptions/2.md). -/
def State.upTo (s : State) (t : Nat) : State := { s with now := Nat.max s.now t }

/-- The next arbitrary value of R3, and the state whose counter has passed it. -/
def State.takeFree (s : State) : Nat × State := (s.free, { s with free := s.free + 1 })

/-- The machine has left POR_N, its cold start is not held and no reset phase stops commands (R346, R349). -/
def State.up (s : State) : Bool := s.boot.phase == .running

/-- The device's own number (R242, LOMIUM_CFG). -/
def State.deviceNumber (s : State) : Nat := bits s.cfg.lomium 14 0

/-- The record of a context, when the image defines it. -/
def State.ctxCfg (s : State) (c : Nat) : Option CtxCfg := s.cfg.ctxs.find? (fun x => x.index == c)

/-- Run-time state of a context. -/
def State.ctx (s : State) (c : Nat) : Ctx := s.ctxs.getD c Ctx.cold

/-- A context changed. -/
def State.modCtx (s : State) (c : Nat) (f : Ctx → Ctx) : State := { s with ctxs := s.ctxs.modify c f }

/-- The partition that owns a context. -/
def State.partitionOf (s : State) (c : Nat) : Nat :=
  match s.ctxCfg c with
  | some k => k.partition
  | none => 0

/-- The PARTITION record of a partition. -/
def State.partCfg (s : State) (p : Nat) : PartitionCfg := s.cfg.partitions.getD p default

/-- An item. -/
def State.item (s : State) (r : ItemRef) : Option Item := s.items.find? (fun i => i.ref == r)

/-- An item changed. -/
def State.modItem (s : State) (r : ItemRef) (f : Item → Item) : State :=
  { s with items := s.items.map (fun i => if i.ref = r then f i else i) }

/-- The memory changed. -/
def State.modMem (s : State) (f : Memory → Memory) : State := { s with memory := f s.memory }

/-- The Lomium address of an offset of this device (R241). -/
def State.ownAddr (s : State) (off : Nat) : Nat := s.deviceNumber * 2 ^ 48 + off

/-- The QP record with an index. -/
def State.qpCfg (s : State) (q : Nat) : Option QpCfg := s.cfg.qps.find? (fun k => k.index == q)

end Sys2Proof.Machine
end

