-- ==== Sys2Proof/Machine/Counters.lean ====
section
/-! DEFINITION. Performance counters and precise sampling (R458 to R468): what an occurrence is, which counters it matches, and the
sample it may leave. -/

namespace Sys2Proof.Machine

/-- Privileges an occurrence may have (R461). -/
def privContext : Nat := 0
def privSupervisor : Nat := 1
def privFirmware : Nat := 2

/-- An occurrence of an event of Table 2 of 18_counters.md: its die index (R478), code and weight, whose work it is, the address it
concerns, its item and stage, and when it was issued. latency is in cycles of the unit's own domain. -/
structure Occ where
  die : Nat
  event : Nat
  weight : Nat
  priv : Nat
  partition : Option Nat
  master : Nat
  lomium : Option Nat
  pantry : Option Nat
  item : Option ItemRef
  stage : Nat
  issue : Nat
  latency : Nat
deriving DecidableEq, Repr

/-- Master codes (R461). -/
def masterHaul (n : Nat) : Nat := 0x40 + n
def masterTipple (n : Nat) : Nat := 0x50 + n
def masterBench : Nat := 0x60
def masterFace (side : Nat) : Nat := 0x61 + side
def masterPorch : Nat := 0x70
def masterDevice : Nat := 0xFF

/-- An occurrence of the device's own work (R246, R461). -/
def Occ.firmware (die event issue : Nat) : Occ :=
  { die := die, event := event, weight := 1, priv := privFirmware, partition := none, master := masterDevice, lomium := none,
    pantry := none, item := none, stage := 0xF, issue := issue, latency := 0 }

/-- An occurrence of an item's work. -/
def Occ.ofItem (s : State) (r : ItemRef) (die event master issue : Nat) : Occ :=
  { Occ.firmware die event issue with
    priv := privContext, partition := some (s.partitionOf r.ctx), master := master, item := some r }

/-- The class of an event (Table 2 of 18_counters.md). -/
def eventClass (e : Nat) : Nat :=
  if e = 0x011 then 4
  else if e < 0x020 then 0
  else if e < 0x040 then 1
  else if e < 0x050 then 2
  else if e < 0x060 then 3
  else if e < 0x070 then 4
  else if e < 0x080 then 5
  else if e < 0x090 then 6
  else 7

/-- The class of a die index (R478). -/
def dieClass (d : Nat) : Nat :=
  if d < 32 then 0 else if d < 64 then 1 else if d < 76 then 2 else if d < 88 then 3 else if d < 96 then 4
  else if d = 96 then 5 else if d < 99 then 6 else 7

/-- A register of a counter program (Table 1 of 20_control_space.md), 0 where the image sets none (R487). -/
def programReg (c : Cfg) (cls program off : Nat) : W64 :=
  match c.programs.find? (fun p => p.1 == 0x2000000 + 0x800 * cls + 0x100 * program + off) with
  | some p => p.2
  | none => 0

/-- The filters of a program: privilege, partition, master and address (R463). -/
def filtersPass (c : Cfg) (cls program : Nat) (o : Occ) : Bool :=
  let f := programReg c cls program 0x80
  let base := (programReg c cls program 0x88).toNat
  let limit := (programReg c cls program 0x90).toNat
  let owner := bits f 63 60
  f.getLsbD (57 + o.priv)
    && (8 ≤ owner || o.partition == some owner)
    && (!bitAt f 56 || bits f 55 48 == o.master)
    && (limit == 0 || match o.lomium with
      | some a => base ≤ a && a < limit
      | none => false)

/-- A counter's CPROG_EVT selects the event of an occurrence. -/
def selects (w : W64) (event : Nat) : Bool :=
  if bitAt w 17 then w.getLsbD (9 + eventClass event) else bits w 8 0 != 0 && bits w 8 0 == event

/-- The counter's value and ovf after a weight is added (R459). -/
def addCount (v : BitVec 48) (ovf : Bool) (weight : Nat) : BitVec 48 × Bool :=
  (v + BitVec.ofNat 48 weight, ovf || 2 ^ 48 ≤ v.toNat + weight)

/-- A time in counts of the device timestamp, 2.0 GHz from cold-start step 9 (R467). -/
def State.stamp (s : State) (t : Nat) : Nat := 2 * (t - s.stampAt)

/-- Unit code of a die in error and sample records (R409). -/
def dieUnit (d : Nat) : Nat :=
  if d < 32 then d else if d < 64 then d - 32 else if d < 76 then 0x30 + (d - 64) else if d < 88 then 0x20 + (d - 76) else 0xFF

/-- Descriptor kind code of an item. -/
def State.kindOfItem (s : State) (r : ItemRef) : Nat := match s.item r with
  | some i => bits (i.words.getD 0 0) 63 60
  | none => 0

/-- The eight words of a sample record (Table 6 of 18_counters.md). The program address is not stated: it is a free value
(notes/assumptions/102.md). -/
def sampleWords (s : State) (o : Occ) (index : BitVec 32) : List W64 :=
  let (seq, ctx, kind) := match o.item with
    | some r => (r.seq, r.ctx, s.kindOfItem r)
    | none => (0, 0, 0)
  let (addrKind, addr) := match o.lomium, o.pantry with
    | some a, _ => (1, a)
    | none, some a => (2, a)
    | none, none => (0, 0)
  [BitVec.ofNat 64 seq,
   wordOf [⟨58, 6, ctx⟩, ⟨55, 3, o.partition.getD 0⟩, ⟨53, 2, o.priv⟩, ⟨49, 4, kind⟩, ⟨45, 4, o.stage⟩, ⟨37, 8, o.master⟩,
     ⟨28, 9, o.event⟩, ⟨26, 2, addrKind⟩],
   wordOf [⟨32, 32, (Config.arbitrary s.free).toNat⟩],
   BitVec.ofNat 64 addr,
   BitVec.ofNat 64 (s.stamp o.issue),
   BitVec.ofNat 64 (s.stamp s.now),
   wordOf [⟨32, 32, o.latency⟩],
   wordOf [⟨56, 8, dieUnit o.die⟩, ⟨0, 32, index.toNat⟩]]

/-- Events that precise sampling can record (Table 2 of 18_counters.md). -/
def sampledEvent (e : Nat) : Bool :=
  [0x001, 0x004, 0x005, 0x020, 0x021, 0x022, 0x030, 0x031, 0x032, 0x033, 0x035, 0x036].contains e

/-- Nanoseconds of 8 mesh cycles, the least time between two records of a die (R468). -/
def sampleGap : Nat := 4

/-- A bank after an occurrence that its sampling may record (R466, R468). -/
def bankSample (s : State) (b : Bank) (o : Occ) : Bank :=
  let cls := dieClass o.die
  let f := programReg s.cfg cls b.program 0x80
  if bitAt f 47 && bits f 46 38 == o.event && sampledEvent o.event && filtersPass s.cfg cls b.program o then
    let n := b.matched + 1
    if n < bits f 31 0 then { b with matched := n }
    else
      let busy : Bool := match b.lastWrite with
        | some t => decide (s.now < t + sampleGap)
        | none => false
      if busy then { b with matched := 0, lost := satInc b.lost }
      else
        let slot := b.written.toNat % 4096
        { b with
          matched := 0
          written := b.written + 1
          ring := upsert (fun p => p.1 == slot) (slot, sampleWords s o b.written) b.ring
          lastWrite := some s.now }
  else b

/-- A running bank after an occurrence: every counter that it matches, then its sampling (R459, R463, R466). -/
def bankCount (s : State) (b : Bank) (o : Occ) : Bank :=
  let cls := dieClass o.die
  let hit (n : Nat) : Bool := selects (programReg s.cfg cls b.program (8 * n)) o.event && filtersPass s.cfg cls b.program o
  let new := (List.range 16).map (fun n =>
    let v := b.values.getD n 0
    let v0 := b.ovf.getD n false
    if hit n then addCount v v0 o.weight else (v, v0))
  bankSample s { b with values := new.map Prod.fst, ovf := new.map Prod.snd } o

/-- An occurrence counted on its die while its bank runs (R459, R465). -/
def count (s : State) (o : Occ) : State :=
  if (s.banks.getD o.die Bank.cold).running then
    { s with banks := s.banks.modify o.die (fun b => bankCount s b o), free := s.free + 1 }
  else s

end Sys2Proof.Machine
end

