-- ==== Sys2Proof/Machine/Errors.lean ====
section
/-! DEFINITION. The clock, the free-value counter, error records (R408 to R410) and what leaves the device on a queue pair
of the Porch (R330, R336). -/

namespace Sys2Proof.Machine

/-! ## Error records -/

/-- Severities of R408. -/
def sevInfo : Nat := 0
def sevItem : Nat := 1
def sevUnit : Nat := 2
def sevDevice : Nat := 3

/-- An error record before its number and time: class and severity of Table 3 of 15_integrity.md, unit, the item it names,
the context it concerns when it names none, and its detail words. -/
structure ErrInfo where
  cls : Nat
  sev : Nat
  unit : Nat
  item : Option ItemRef
  ctx : Option Nat
  detail : List W64
deriving DecidableEq, Repr

/-- The eight words of a record (Table 2 of 15_integrity.md). -/
def errWords (s : State) (e : ErrInfo) : List W64 :=
  let who := match e.item with
    | some r => some r.ctx
    | none => e.ctx
  let w0 := wordOf [⟨48, 16, s.errors.count⟩, ⟨40, 8, e.cls⟩, ⟨38, 2, e.sev⟩, ⟨37, 1, b2n e.item.isSome⟩, ⟨24, 8, e.unit⟩]
  let w2 := match who with
    | some c => wordOf [⟨58, 6, c⟩, ⟨55, 3, s.partitionOf c⟩]
    | none => 0
  let w3 := match e.item with
    | some r => BitVec.ofNat 64 r.seq
    | none => 0
  [w0, BitVec.ofNat 64 (s.now / 40), w2, w3] ++ (List.range 4).map (fun i => wd e.detail i)

/-- An entry of the Gatehouse log written: in the 16 MiB that it has, a new entry overwrites the oldest copy of an error record, never a
retirement or fence entry (R410). -/
def logAdd (l : List LogEntry) (e : LogEntry) : List LogEntry :=
  if l.length < 262144 then l ++ [e] else l.eraseP (fun x => x.kind == 1) ++ [e]

/-- The Gatehouse writes an error record: into the window, and into the log when its severity is UNIT or DEVICE (R408,
R410). Once the comparator releases nothing more, none is written (R407, R417). -/
def writeError (s : State) (e : ErrInfo) : State :=
  if s.boot.comparatorStopped then s else
  let ws := errWords s e
  let n := s.errors.count
  let errs : Errors := { s.errors with
    count := n + 1
    window := (s.errors.window ++ [(n, ws)]).drop (s.errors.window.length + 1 - 1024)
    oldestAt := if s.errors.drained = n then s.now else s.errors.oldestAt }
  let entry : LogEntry := { kind := 1, face := 0, column := 0, words := (wd ws 0 ||| 1) :: ws.drop 1, cleared := false }
  let s := { s with errors := errs, gate := if 2 ≤ e.sev then { s.gate with log := logAdd s.gate.log entry } else s.gate }
  count (count s (Occ.firmware 97 0x081 s.now)) (Occ.firmware 98 0x081 s.now)

/-- Number that the next error record carries, modulo 2^16. -/
def State.nextError (s : State) : Nat := s.errors.count % 2 ^ 16

/-! ## Queue pairs -/

/-- Run-time state of a queue pair. -/
def State.qp (s : State) (q : Nat) : Option Qp := s.porch.qps.find? (fun k => k.index == q)

/-- A queue pair changed. -/
def State.modQp (s : State) (q : Nat) (f : Qp → Qp) : State :=
  { s with porch := { s.porch with qps := s.porch.qps.map (fun k => if k.index = q then f k else k) } }

/-- A queue pair that the image defines and that is not in ERROR. -/
def State.qpUp (s : State) (q : Nat) : Bool :=
  match s.qp q with
  | some k => !k.error
  | none => false

/-- Payload bytes of one packet of a queue pair (R329). -/
def State.pmtu (s : State) (q : Nat) : Nat :=
  match s.qpCfg q with
  | some k => k.pmtu
  | none => 4096

/-- Packets of a message of n bytes: at least one (R330). -/
def psnCount (pmtu n : Nat) : Nat := Nat.max 1 (ceilDiv n (Nat.max 1 pmtu))

/-- Bytes of a Gatehouse reply (R451). -/
def GhReply.size (r : GhReply) : Nat := 64 + 8 * r.body.length + r.data.length

/-- Packets that something takes to leave the Porch. -/
def outPackets (s : State) : PorchOut → Nat
  | .readResponse q _ bs => psnCount (s.pmtu q) bs.length
  | .write q _ _ bs _ => psnCount (s.pmtu q) bs.length
  | .reply r _ => psnCount (s.pmtu r.qp.val) r.size
  | _ => 1

/-! ## The transmitter of the Porch (R341) -/

/-- Line rate of the Porch in kb/s (Table 1 of 12_porch.md). -/
def lineRate (c : Cfg) : Nat := if bitAt c.porch 49 then 800000000 else 1600000000

/-- What the transmitter sends first: ACKs, NAKs, CNPs and read responses (R341), and the frames that belong to no queue pair. -/
def PorchOut.first : PorchOut → Bool
  | .write _ _ _ _ _ | .writeImm _ _ _ _ _ _ | .read _ _ _ _ _ | .reply _ _ => false
  | _ => true

/-- The queue pair of a message. -/
def PorchOut.qp : PorchOut → Option Nat
  | .ack q _ | .nakSequence q _ | .nakInvalid q _ | .nakAccess q _ | .nakOperational q _ | .rnrNak q _ | .readResponse q _ _
  | .write q _ _ _ _ | .writeImm q _ _ _ _ _ | .read q _ _ _ _ | .cnp q => some q
  | .reply r _ => some r.qp.val
  | _ => none

/-- Control packets are exempt from a queue pair's rate: ACKs, NAKs and CNPs (R339), and the frames that belong to no queue pair. -/
def PorchOut.exempt : PorchOut → Bool
  | .readResponse _ _ _ => false
  | o => o.first

/-- A NAK of a class that puts the queue pair in ERROR (R331). -/
def PorchOut.fatal : PorchOut → Bool
  | .nakInvalid _ _ | .nakAccess _ _ | .nakOperational _ _ => true
  | _ => false

/-- Payload bytes of a message. -/
def PorchOut.payload : PorchOut → Nat
  | .readResponse _ _ bs | .write _ _ _ bs _ | .writeImm _ _ _ bs _ _ => bs.length
  | .reply r _ => r.size
  | _ => 0

/-- Bytes of the transport headers behind the BTH in a message's first or last packet: RETH, ImmDt and AETH. -/
def PorchOut.extension (first last : Bool) : PorchOut → Nat
  | .write _ _ _ _ _ => if first then 16 else 0
  | .writeImm _ _ _ _ _ _ => (if first then 16 else 0) + (if last then 4 else 0)
  | .read _ _ _ _ _ => 16
  | .readResponse _ _ _ => if first || last then 4 else 0
  | _ => 0

/-- Bytes on the wire of a packet of a queue pair with n bytes of payload and e of extension headers: preamble, Ethernet header, tag, IP, UDP,
BTH, padding, ICRC, FCS and gap (the worked example of R335). -/
def wireBytes (k : QpCfg) (n e : Nat) : Nat :=
  8 + 14 + (if k.vlanEn then 4 else 0) + (if k.ipv6 then 40 else 20) + 8 + 12 + e + roundUp n 4 + 4 + 4 + 12

/-- A pause frame holds the priority of a message's queue pair (R340). -/
def pausedOut (s : State) (o : PorchOut) : Bool := match o.qp.bind s.qpCfg with
  | some k => s.porch.paused.getLsbD k.pcp
  | none => false

/-- A message with its header fields: every IP packet carries hop limit 64 and ECT(0), with the DSCP and the tag of its queue pair (R327,
R329). -/
def frameOf (s : State) (o : PorchOut) : PorchFrame :=
  let k := o.qp.bind s.qpCfg
  { out := o
    ip := match o with
      | .pause _ _ | .arpReply _ _ => none
      | _ => some { hopLimit := 64, ecn := 2, dscp := k.elim 0 QpCfg.dscp }
    tag := k.bind (fun x => if x.vlanEn then some (x.pcp, x.vlanId) else none) }

/-- A whole message has left, counted as PORCH_PKT_TX (Table 2 of 18_counters.md). -/
def State.sentOut (s : State) (o : PorchOut) : State :=
  count { s with porch := { s.porch with out := s.porch.out ++ [frameOf s o] } }
    { Occ.firmware 96 0x091 s.now with weight := outPackets s o, master := masterPorch }

/-- The waiting messages with the first one that satisfies a test changed, or taken out. -/
def changeFirst (p : PorchWait → Bool) (f : PorchWait → Option PorchWait) : List PorchWait → List PorchWait
  | [] => []
  | x :: xs => if p x then (f x).toList ++ xs else x :: changeFirst p f xs

/-- The rate of a queue pair does not hold a message (R339). -/
def rateFree (s : State) (o : PorchOut) : Bool := o.exempt || match o.qp.bind s.qp with
  | some x => decide (x.nextAt ≤ s.now)
  | none => true

/-- A waiting message that may be sent before the data of queue pairs. -/
def firstReady (s : State) (w : PorchWait) : Bool := w.out.first && !pausedOut s w.out && rateFree s w.out

/-- A packet holds its queue pair for its time on the wire at a rate below the line rate (R339). -/
def chargeRate (s : State) (w : PorchWait) : State := match w.out.exempt, w.out.qp with
  | false, some q => match s.qpCfg q with
    | some k =>
      let total := outPackets s w.out
      let i := total - w.left
      let n := Nat.min (s.pmtu q) (w.out.payload - i * s.pmtu q)
      let bytes := wireBytes k n (w.out.extension (i == 0) (w.left ≤ 1))
      s.modQp q (fun x => if x.rate < lineRate s.cfg then { x with nextAt := s.now + ceilDiv (bytes * 8000000) (Nat.max 1 x.rate) } else x)
    | none => s
  | _, _ => s

/-- One packet of the first waiting message that satisfies a test is sent; the last one completes the message. -/
def sendPart (s : State) (p : PorchWait → Bool) (w : PorchWait) : State :=
  let rest := changeFirst p (fun w => if w.left ≤ 1 then none else some { w with left := w.left - 1 }) s.porch.waiting
  let s := chargeRate { s with porch := { s.porch with waiting := rest } } w
  if w.left ≤ 1 then s.sentOut w.out else s

/-- The messages that come first are sent in the order they became ready; the first argument bounds their packets. -/
def sendFirst : Nat → State → State
  | 0, s => s
  | n + 1, s => match s.porch.waiting.find? (firstReady s) with
    | some w => sendFirst n (sendPart s (firstReady s) w)
    | none => s

/-- Data of a queue pair that waits. -/
def dataOf (q : Nat) (w : PorchWait) : Bool := !w.out.first && w.out.qp == some q

/-- RDMA Reads of a queue pair that have been sent and not answered (R330). -/
def openReads (s : State) (q : Nat) : Nat :=
  (s.reqs.filter (fun r => r.qp == some q && (match r.purpose with
    | .read _ _ => true
    | _ => false) && !s.porch.waiting.any (fun w => w.req == some r.id))).length

/-- A queue pair that waits for answers to 16 RDMA Reads sends no further one (R330). -/
def readHeld (s : State) (q : Nat) : PorchOut → Bool
  | .read _ _ _ _ _ => 16 ≤ openReads s q
  | _ => false

/-- A queue pair has data to send: no pause holds its priority, and neither its rate nor its Reads outstanding hold it (R330, R339,
R341). -/
def qpReady (s : State) (x : Qp) : Bool :=
  !x.error && x.nextAt ≤ s.now && match s.porch.waiting.find? (dataOf x.index) with
    | some w => !pausedOut s w.out && !readHeld s x.index w.out
    | none => false

def qpWeight (s : State) (q : Nat) : Nat := match s.qpCfg q with
  | some k => k.weight
  | none => 0

/-- The queue pair whose turn it is among those that are ready, and every queue pair's credit after the turn: smooth weighted round-robin,
ties to the lower record index (R341, R178). -/
def qpTurn (s : State) : Option Nat × List Qp :=
  let total : Int := (((s.porch.qps.filter (qpReady s)).map (fun x => qpWeight s x.index)).sum : Nat)
  let up := s.porch.qps.map (fun x => if qpReady s x then { x with credit := x.credit + (qpWeight s x.index : Int) } else x)
  let best := (up.filter (qpReady s)).foldl (fun (b : Option Qp) x => match b with
    | none => some x
    | some y => if y.credit < x.credit ∨ (y.credit = x.credit ∧ x.index < y.index) then some x else some y) none
  (best.map Qp.index, match best with
    | some b => up.map (fun x => if x.index = b.index then { x with credit := x.credit - total } else x)
    | none => s.porch.qps)

/-- One packet of a queue pair's oldest message is sent. -/
def sendPacketOf (s : State) (q : Nat) : State :=
  match s.porch.waiting.find? (dataOf q) with
  | none => s
  | some w => sendPart s (dataOf q) w

/-- Packets of data sent while a queue pair is ready; the first argument bounds their number. -/
def sendData : Nat → State → State
  | 0, s => s
  | n + 1, s => match qpTurn s with
    | (some q, qps) => sendData n (sendPacketOf { s with porch := { s.porch with qps := qps } } q)
    | (none, _) => s

/-- The transmitter of a link that is UP sends what it can (R326, R341). -/
def State.transmit (s : State) : State :=
  if s.porch.link = 2 then
    let s := sendFirst (s.porch.waiting.map PorchWait.left).sum s
    sendData (s.porch.waiting.map PorchWait.left).sum s
  else s

/-- A queue pair in ERROR sends nothing but the NAK that put it there (R331). -/
def outBarred (s : State) (o : PorchOut) : Bool := !o.fatal && match o.qp.bind s.qp with
  | some x => x.error
  | none => false

/-- A message is ready for the transmitter. -/
def State.readyOut (s : State) (o : PorchOut) (req : Option Nat) : State :=
  if outBarred s o then s
  else State.transmit { s with porch := { s.porch with waiting := s.porch.waiting ++ [⟨o, req, outPackets s o⟩] } }

/-- Something of the Porch that no request of the device waits for. -/
def State.porchOut (s : State) (o : PorchOut) : State := s.readyOut o none

/-- The message of a request that the host has answered has been sent: it waits no more. -/
def State.sentRequest (s : State) (id : Nat) : State :=
  match s.porch.waiting.find? (fun w => w.req == some id) with
  | some w => State.sentOut { s with porch := { s.porch with waiting := changeFirst (fun w => w.req == some id) (fun _ => none) s.porch.waiting } } w.out
  | none => s

/-- A request of the device on a queue pair: its message leaves, its PSNs are taken, and it waits for the host (R330,
R336). -/
def State.sendHost (s : State) (q : Nat) (item : Option ItemRef) (ctx : Option Nat) (p : Purpose) (len : Nat) (mk : BitVec 24 → PorchOut)
    (imm : Option (BitVec 32)) : State :=
  let psn : BitVec 24 := (s.qp q).elim 0 Qp.txPsn
  let n := psnCount (s.pmtu q) len
  let r : Req := { id := s.nextReq, qp := some q, item := item, ctx := ctx, purpose := p, packet := default, issued := s.now,
                   sent := true, retry := false, lost := false, imm := imm, psn := psn, psns := n, out := some (mk psn) }
  let s := (s.readyOut (mk psn) (some s.nextReq)).modQp q (fun k => { k with txPsn := k.txPsn + BitVec.ofNat 24 n })
  { s with reqs := s.reqs ++ [r], nextReq := s.nextReq + 1 }

end Sys2Proof.Machine
end

