-- ==== Sys2Proof/Machine/Flags.lean ====
section
/-! DEFINITION. The arithmetic flags of an item (R42, Table 4 of 02_arithmetic.md). -/

namespace Sys2Proof.Machine

/-- A NaN operand was consumed. -/
def flNanIn : BitVec 8 := 0x01

/-- A NaN was produced from operands that were not NaN, or a NaN was stored to INT8 or FP4. -/
def flInvalid : BitVec 8 := 0x02

/-- A finite value being stored exceeded the destination's largest finite magnitude, or an infinity was stored as
something other than an infinity (R44). -/
def flOverflow : BitVec 8 := 0x04

/-- A nonzero value was stored as zero. -/
def flUnderflow : BitVec 8 := 0x08

/-- An integer accumulation or an INT8 store saturated. -/
def flIntSat : BitVec 8 := 0x10

/-- An MX block scale was clamped to the E8M0 range. -/
def flScaleClamp : BitVec 8 := 0x20

/-- An infinity was written to a destination. -/
def flInfOut : BitVec 8 := 0x40

/-- The flag where the condition holds, no flag elsewhere. -/
def flagIf (b : Bool) (f : BitVec 8) : BitVec 8 := if b then f else 0

/-- A value computed together with the flags its computation set. -/
structure Fl (α : Type) where
  val : α
  fl : BitVec 8
deriving DecidableEq, Repr

/-- A value with no flag. -/
def Fl.pure {α : Type} (a : α) : Fl α := ⟨a, 0⟩

/-- The next computation, with both sets of flags (flags are sticky, R42). -/
def Fl.bind {α β : Type} (x : Fl α) (f : α → Fl β) : Fl β := let y := f x.val; ⟨y.val, x.fl ||| y.fl⟩

/-- The value changed by a function that sets no flag. -/
def Fl.map {α β : Type} (f : α → β) (x : Fl α) : Fl β := ⟨f x.val, x.fl⟩

/-- More flags. -/
def Fl.with {α : Type} (x : Fl α) (f : BitVec 8) : Fl α := ⟨x.val, x.fl ||| f⟩

/-- A computation over a list, in order. -/
def Fl.mapList {α β : Type} (f : α → Fl β) : List α → Fl (List β)
  | [] => ⟨[], 0⟩
  | a :: as => let x := f a; let r := Fl.mapList f as; ⟨x.val :: r.val, x.fl ||| r.fl⟩

/-- A left fold. -/
def Fl.foldl {α β : Type} (f : β → α → Fl β) : Fl β → List α → Fl β
  | b, [] => b
  | b, a :: as => Fl.foldl f (b.bind (fun v => f v a)) as

end Sys2Proof.Machine
end

