-- ==== Sys2Proof/Machine/Num.lean ====
section
/-! DEFINITION. Numbers: exact dyadic values with infinities and one NaN, the formats of R28, rounding to them (R29,
R43 to R49), and the elementary operations every arithmetic path of R24 computes with. -/

namespace Sys2Proof.Machine

/-- A number: NaN, a signed infinity, or plus or minus m times 2 to the e. -/
inductive Num where
  | nan
  | inf (neg : Bool)
  | fin (neg : Bool) (m : Nat) (e : Int)
deriving DecidableEq, Repr, Inhabited

/-- Which special encodings a float format has (R28, Table 2). -/
inductive Special where
  | ieee
  | nanOnly
  | none
deriving DecidableEq, Repr

/-- A sign-magnitude float format with a biased exponent, and its canonical NaN (R28, R41). -/
structure FloatFmt where
  expBits : Nat
  fracBits : Nat
  bias : Int
  special : Special
  nanBits : Nat
deriving DecidableEq, Repr

def fmtE4M3 : FloatFmt := ⟨4, 3, 7, .nanOnly, 0x7F⟩
def fmtE5M2 : FloatFmt := ⟨5, 2, 15, .ieee, 0x7E⟩
def fmtE3M2 : FloatFmt := ⟨3, 2, 3, .none, 0⟩
def fmtE2M3 : FloatFmt := ⟨2, 3, 1, .none, 0⟩
def fmtE2M1 : FloatFmt := ⟨2, 1, 1, .none, 0⟩
def fmtBF16 : FloatFmt := ⟨8, 7, 127, .ieee, 0x7FC0⟩
def fmtFP16 : FloatFmt := ⟨5, 10, 15, .ieee, 0x7E00⟩
def fmtFP32 : FloatFmt := ⟨8, 23, 127, .ieee, 0x7FC00000⟩
def fmtFP64 : FloatFmt := ⟨11, 52, 1023, .ieee, 0x7FF8000000000000⟩
def fmtA40 : FloatFmt := ⟨10, 29, 511, .ieee, 0x7FF0000000⟩
/-- FP32 with the 16 tail bits of an extended master below its fraction (R34). -/
def fmtExt : FloatFmt := ⟨8, 39, 127, .ieee, 0x7FC000000000⟩

/-- The canonical zero. -/
def Num.zero : Num := .fin false 0 0

/-- The number one. -/
def Num.one : Num := .fin false 1 0

/-- A non-negative integer. -/
def Num.ofNat (n : Nat) : Num := .fin false n 0

/-- An integer. -/
def Num.ofInt (n : Int) : Num := .fin (n < 0) n.natAbs 0

def Num.isNan : Num → Bool
  | .nan => true
  | _ => false

def Num.isInf : Num → Bool
  | .inf _ => true
  | _ => false

def Num.isZero : Num → Bool
  | .fin _ 0 _ => true
  | _ => false

/-- The sign bit; a NaN counts as positive (R41). -/
def Num.signBit : Num → Bool
  | .nan => false
  | .inf s => s
  | .fin s _ _ => s

def Num.neg : Num → Num
  | .nan => .nan
  | .inf s => .inf (!s)
  | .fin s m e => .fin (!s) m e

def Num.abs : Num → Num
  | .nan => .nan
  | .inf _ => .inf false
  | .fin _ m e => .fin false m e

/-- The bits of a magnitude of a format, and the number they encode (R28). -/
def decodeFloat (f : FloatFmt) (code : Nat) : Num :=
  let frac := code % 2 ^ f.fracBits
  let ex := code / 2 ^ f.fracBits % 2 ^ f.expBits
  let neg := code / 2 ^ (f.fracBits + f.expBits) % 2 == 1
  let value : Num :=
    if ex = 0 then .fin neg frac (1 - f.bias - f.fracBits)
    else .fin neg (2 ^ f.fracBits + frac) ((ex : Int) - f.bias - f.fracBits)
  match f.special with
  | .ieee => if ex = 2 ^ f.expBits - 1 then (if frac = 0 then .inf neg else .nan) else value
  | .nanOnly => if ex = 2 ^ f.expBits - 1 ∧ frac = 2 ^ f.fracBits - 1 then .nan else value
  | .none => value

/-- The code of the largest finite magnitude (Table 2). -/
def FloatFmt.maxCode (f : FloatFmt) : Nat :=
  match f.special with
  | .ieee => (2 ^ f.expBits - 1) * 2 ^ f.fracBits - 1
  | .nanOnly => 2 ^ (f.expBits + f.fracBits) - 2
  | .none => 2 ^ (f.expBits + f.fracBits) - 1

/-- The largest finite number. -/
def FloatFmt.maxNum (f : FloatFmt) : Num := decodeFloat f f.maxCode

/-- The code of positive infinity, where the format has one. -/
def FloatFmt.infCode (f : FloatFmt) : Nat := (2 ^ f.expBits - 1) * 2 ^ f.fracBits

/-- m1 times 2^e1 and m2 times 2^e2 over their lower exponent. -/
def align (m1 : Nat) (e1 : Int) (m2 : Nat) (e2 : Int) : Nat × Nat × Int :=
  if e1 ≤ e2 then (m1, m2 * 2 ^ (e2 - e1).toNat, e1) else (m1 * 2 ^ (e1 - e2).toNat, m2, e2)

/-- Magnitude comparison. -/
def magLt (m1 : Nat) (e1 : Int) (m2 : Nat) (e2 : Int) : Bool :=
  let (a, b, _) := align m1 e1 m2 e2
  a < b

/-- True when the first magnitude is below the second; NaN compares as nothing. -/
def Num.absLt : Num → Num → Bool
  | .fin _ m1 e1, .fin _ m2 e2 => magLt m1 e1 m2 e2
  | .fin _ _ _, .inf _ => true
  | _, _ => false

/-- The signed value as an integer over the lower exponent of two. -/
def signedMag (neg : Bool) (m : Nat) : Int := if neg then -(m : Int) else m

/-- IEEE order: a < b; false where either is NaN. -/
def Num.lt : Num → Num → Bool
  | .nan, _ => false
  | _, .nan => false
  | .inf a, .inf b => a && !b
  | .inf a, .fin _ _ _ => a
  | .fin _ _ _, .inf b => !b
  | .fin s1 m1 e1, .fin s2 m2 e2 =>
    let (a, b, _) := align m1 e1 m2 e2
    signedMag s1 a < signedMag s2 b

/-- IEEE equality: +0 equals -0, NaN equals nothing. -/
def Num.eq (a b : Num) : Bool := !a.isNan && !b.isNan && !Num.lt a b && !Num.lt b a

/-- a ≤ b; false where either is NaN. -/
def Num.le (a b : Num) : Bool := !a.isNan && !b.isNan && !Num.lt b a

/-- How a rounding treats the bits it drops (R43, R48): nearest even, stochastic with 24 drawn bits, or truncation. -/
inductive RMode where
  | nearest
  | stochastic (draw : Nat)
  | truncate
deriving DecidableEq, Repr

/-- m with its last s bits dropped by the mode. Stochastic rounding looks at the 24 bits directly below the last kept
bit, absent bits zero, further bits ignored (R49). -/
def dropBits (mode : RMode) (m s : Nat) : Nat :=
  let lo := m >>> s
  let rem := m % 2 ^ s
  match mode with
  | .nearest =>
    if s = 0 then m
    else if 2 ^ (s - 1) < rem then lo + 1
    else if rem = 2 ^ (s - 1) then (if lo % 2 = 1 then lo + 1 else lo)
    else lo
  | .stochastic draw =>
    let f := if s ≤ 24 then rem * 2 ^ (24 - s) else rem >>> (s - 24)
    if f + draw < 2 ^ 24 then lo else lo + 1
  | .truncate => lo

/-- A finite magnitude rounded to the precision of a format, subnormals included, with no bound above. -/
def roundMag (f : FloatFmt) (mode : RMode) (m : Nat) (e : Int) : Nat × Int :=
  if m = 0 then (0, 0)
  else
    let q : Int := max ((Nat.log2 m : Int) + e - f.fracBits) (1 - f.bias - f.fracBits)
    if q ≤ e then (m, e) else (dropBits mode m (q - e).toNat, q)

/-- A number rounded to the precision of a format with no bound above. -/
def Num.roundFree (f : FloatFmt) (mode : RMode) : Num → Num
  | .fin s m e => let (m', e') := roundMag f mode m e; .fin s m' e'
  | x => x

/-- The number rounded to nearest even in a format, an overflow going to infinity (R29 and IEEE 754-2019). -/
def Num.toFmt (f : FloatFmt) (x : Num) : Num :=
  let y := x.roundFree f .nearest
  match y with
  | .fin s _ _ => if f.maxNum.absLt y then .inf s else y
  | _ => y

/-- The code of a number that the format represents exactly; a NaN takes the canonical NaN (R41). -/
def encodeFloat (f : FloatFmt) : Num → Nat
  | .nan => f.nanBits
  | .inf s => b2n s * 2 ^ (f.expBits + f.fracBits) + f.infCode
  | .fin s m e =>
    let sign := b2n s * 2 ^ (f.expBits + f.fracBits)
    if m = 0 then sign
    else
      let emin : Int := 1 - f.bias - f.fracBits
      let q : Int := max ((Nat.log2 m : Int) + e - f.fracBits) emin
      let m' := if q ≤ e then m * 2 ^ (e - q).toNat else m >>> (q - e).toNat
      if m' < 2 ^ f.fracBits then sign + m'
      else sign + ((q - emin).toNat * 2 ^ f.fracBits) + m'

/-- The number rounded to nearest even and encoded. -/
def roundEncode (f : FloatFmt) (x : Num) : Nat := encodeFloat f (x.toFmt f)

/-! ### Elementary operations: exact results, with invalid set by the IEEE rules -/

/-- Exact sum. A zero sum of opposite signs is +0. -/
def Num.add : Num → Num → Fl Num
  | .nan, _ => ⟨.nan, 0⟩
  | _, .nan => ⟨.nan, 0⟩
  | .inf a, .inf b => if a = b then ⟨.inf a, 0⟩ else ⟨.nan, flInvalid⟩
  | .inf a, .fin _ _ _ => ⟨.inf a, 0⟩
  | .fin _ _ _, .inf b => ⟨.inf b, 0⟩
  | .fin s1 m1 e1, .fin s2 m2 e2 =>
    let (a, b, e) := align m1 e1 m2 e2
    let v := signedMag s1 a + signedMag s2 b
    ⟨if v = 0 then .fin (s1 && s2 && m1 == 0 && m2 == 0) 0 0 else .fin (v < 0) v.natAbs e, 0⟩

/-- Exact difference. -/
def Num.sub (a b : Num) : Fl Num := Num.add a b.neg

/-- Exact product. -/
def Num.mul : Num → Num → Fl Num
  | .nan, _ => ⟨.nan, 0⟩
  | _, .nan => ⟨.nan, 0⟩
  | .inf a, .inf b => ⟨.inf (a != b), 0⟩
  | .inf a, .fin b m _ => if m = 0 then ⟨.nan, flInvalid⟩ else ⟨.inf (a != b), 0⟩
  | .fin a m _, .inf b => if m = 0 then ⟨.nan, flInvalid⟩ else ⟨.inf (a != b), 0⟩
  | .fin a m1 e1, .fin b m2 e2 => ⟨.fin (a != b) (m1 * m2) (e1 + e2), 0⟩

/-- Number of quotient bits kept below the widest significand in use, so that the sticky bit stands below the rounding
position of every format. -/
def quotientBits : Nat := 128

/-- Quotient, exact to 128 bits with a sticky bit below. x / 0 is a signed infinity, 0 / 0 and inf / inf are invalid. -/
def Num.div : Num → Num → Fl Num
  | .nan, _ => ⟨.nan, 0⟩
  | _, .nan => ⟨.nan, 0⟩
  | .inf _, .inf _ => ⟨.nan, flInvalid⟩
  | .inf a, .fin b _ _ => ⟨.inf (a != b), 0⟩
  | .fin a _ _, .inf b => ⟨.fin (a != b) 0 0, 0⟩
  | .fin a m1 e1, .fin b m2 e2 =>
    if m2 = 0 then (if m1 = 0 then ⟨.nan, flInvalid⟩ else ⟨.inf (a != b), 0⟩)
    else
      let k := quotientBits + Nat.log2 m2
      let q := m1 * 2 ^ k / m2
      let sticky := if m1 * 2 ^ k % m2 = 0 then 0 else 1
      ⟨.fin (a != b) (2 * q + sticky) (e1 - e2 - k - 1), 0⟩

/-- Integer square root: one bit of the root per unit of fuel, from the top. -/
def isqrtGo : Nat → Nat → Nat → Nat
  | 0, _, r => r
  | k + 1, n, r => let r' := r + 2 ^ k; isqrtGo k n (if r' * r' ≤ n then r' else r)

/-- The greatest r with r * r ≤ n. -/
def isqrt (n : Nat) : Nat := isqrtGo (Nat.log2 n / 2 + 1) n 0

/-- Square root, exact to more than 128 bits with a sticky bit below. -/
def Num.sqrt : Num → Fl Num
  | .nan => ⟨.nan, 0⟩
  | .inf s => if s then ⟨.nan, flInvalid⟩ else ⟨.inf false, 0⟩
  | .fin s m e =>
    if m = 0 then ⟨.fin s 0 0, 0⟩
    else if s then ⟨.nan, flInvalid⟩
    else
      let e' := if e % 2 = 0 then e else e - 1
      let m' := if e % 2 = 0 then m else 2 * m
      let n := m' * 2 ^ 256
      let r := isqrt n
      ⟨.fin false (2 * r + (if r * r = n then 0 else 1)) (e' / 2 - 129), 0⟩

/-- 1 / sqrt x, exact to more than 128 bits with a sticky bit below. -/
def Num.rsqrt : Num → Fl Num
  | .nan => ⟨.nan, 0⟩
  | .inf s => if s then ⟨.nan, flInvalid⟩ else ⟨.fin false 0 0, 0⟩
  | .fin s m e =>
    if m = 0 then ⟨.inf s, 0⟩
    else if s then ⟨.nan, flInvalid⟩
    else
      let e' := if e % 2 = 0 then e else e - 1
      let m' := if e % 2 = 0 then m else 2 * m
      let k := 2 * (quotientBits + Nat.log2 m')
      let n := 2 ^ k / m'
      let r := isqrt n
      let exact := 2 ^ k % m' = 0 ∧ r * r = n
      ⟨.fin false (2 * r + (if exact then 0 else 1)) (-(e' / 2) - (k / 2 : Nat) - 1), 0⟩

/-- The greater of two numbers, NaN where either is NaN. -/
def Num.max (a b : Num) : Num := if a.isNan || b.isNan then .nan else if Num.lt a b then b else a

/-- The lesser of two numbers, NaN where either is NaN. -/
def Num.min (a b : Num) : Num := if a.isNan || b.isNan then .nan else if Num.lt b a then b else a

/-- The integer nearest to a number, ties to even; 0 for a NaN, the given bound for an infinity. -/
def Num.nearestInt (bound : Int) : Num → Int
  | .nan => 0
  | .inf s => if s then -bound else bound
  | .fin s m e => if 0 ≤ e then signedMag s (m * 2 ^ e.toNat) else signedMag s (dropBits .nearest m (-e).toNat)

/-- The exponent of the leading bit of a nonzero magnitude. -/
def Num.log2 : Num → Int
  | .fin _ m e => (Nat.log2 m : Int) + e
  | _ => 0

/-- A number times a power of two. -/
def Num.scale2 (k : Int) : Num → Num
  | .fin s m e => .fin s m (e + k)
  | x => x

end Sys2Proof.Machine
end

