-- ==== Sys2Proof/Machine/Operands.lean ====
section
/-! DEFINITION. Operand formats: the codes of R25, element widths, decoding, the conversion a STORE or a feed makes (R43 to
R49, R96) and MX blocks (R31, R32, R46), natively and in T1-emulation (R53 to R56). -/

namespace Sys2Proof.Machine

/-- Bits of one element of a format code of R25. -/
def fmtWidth (c : Nat) : Nat :=
  if c ≤ 4 then 8 else if c ≤ 6 then 6 else if c ≤ 8 then 4 else if c ≤ 10 then 16 else if c = 11 then 32
  else if c = 12 then 64 else 40

/-- Element layout of a float format code; INT8 has none. -/
def fmtOf (c : Nat) : FloatFmt :=
  if c = 1 ∨ c = 3 then fmtE4M3
  else if c = 2 ∨ c = 4 then fmtE5M2
  else if c = 5 then fmtE3M2
  else if c = 6 then fmtE2M3
  else if c = 7 ∨ c = 8 then fmtE2M1
  else if c = 9 then fmtBF16
  else if c = 10 then fmtFP16
  else if c = 11 then fmtFP32
  else if c = 12 then fmtFP64
  else fmtA40

/-- The MX formats have block scales (R31). -/
def fmtMX (c : Nat) : Bool := 3 ≤ c && c ≤ 7

/-- Formats with 4-bit elements (R65). -/
def fmt4 (c : Nat) : Bool := c == 7 || c == 8

/-- A defined format code of R25; 0xD, 0xE and 0xF are undefined encodings (R26). -/
def fmtDefined (c : Nat) : Bool := c ≤ 12

/-- Accepted as a Face operand (Table 1). -/
def fmtFace (c : Nat) : Bool := c ≤ 11

/-- Accepted as a STORE destination (Table 1). -/
def fmtStore (c : Nat) : Bool := c ≤ 11

/-- A format the Foburas T1 computed with (R53). -/
def fmtT1 (c : Nat) : Bool := c == 0 || c == 1 || c == 2 || c == 9 || c == 10 || c == 11

/-- Bytes of a packed row of n elements. -/
def rowBytes (c n : Nat) : Nat := (fmtWidth c * n + 7) / 8

/-- An element code as a number, subnormals read as zero of the same sign in T1-emulation (R55). -/
def decodeElem (t1 : Bool) (c code : Nat) : Num :=
  if c = 0 then Num.ofInt (if code % 256 < 128 then (code % 256 : Nat) else (code % 256 : Nat) - 256)
  else
    let f := fmtOf c
    if t1 && code / 2 ^ f.fracBits % 2 ^ f.expBits == 0 then
      .fin (code / 2 ^ (f.fracBits + f.expBits) % 2 == 1) 0 0
    else decodeFloat f code

/-- The exponent an E8M0 scale byte stands for (R28). -/
def scaleExp (s : Nat) : Int := (s : Int) - 127

/-- An element multiplied by its block's scale; scale 0xFF makes it NaN (R31, R32). -/
def applyScale (s : Nat) (x : Num) : Num := if s = 0xFF then .nan else x.scale2 (scaleExp s)

/-- How a value is converted into a destination format: the rounding mode and the saturation choice (R43, R44). -/
structure Conv where
  mode : RMode
  nonsat : Bool
  t1 : Bool
deriving DecidableEq, Repr

/-- The canonical NaN code of a destination, in T1-emulation that of R56. -/
def nanCode (t1 : Bool) (c : Nat) : Nat :=
  if t1 then (if c = 11 then 0x7FFFFFFF else if c = 9 ∨ c = 10 then 0x7FFF else 0x7F) else (fmtOf c).nanBits

/-- Subnormal results become zero of the same sign in T1-emulation (R55). -/
def flushSub (f : FloatFmt) (x : Num) : Num :=
  match x with
  | .fin s m e => if magLt m e 1 (1 - f.bias) then .fin s 0 0 else x
  | _ => x

/-- One value converted into a non-MX float format (R41, R44, R49, R55, R56): its code and the flags of R42. A NaN that is stored is an operand
consumed; a value that becomes a NaN for want of an infinity makes one. -/
def convFloatSat (sat : Bool) (v : Conv) (c : Nat) (x : Num) : Fl Nat :=
  let f := fmtOf c
  let overflowing (s : Bool) (fromInf : Bool) : Fl Nat :=
    let top := b2n s * 2 ^ (f.expBits + f.fracBits)
    if sat || f.special == .none then ⟨top + f.maxCode, flOverflow⟩
    else match f.special with
      | .ieee => ⟨top + f.infCode, flInfOut ||| flagIf (!fromInf) flOverflow⟩
      | _ => ⟨nanCode v.t1 c, flOverflow ||| flInvalid⟩
  match x with
  | .nan => if c = 8 then ⟨0, flInvalid ||| flNanIn⟩ else ⟨nanCode v.t1 c, flNanIn⟩
  | .inf s => overflowing s true
  | .fin s m e =>
    let y := Num.roundFree f v.mode (.fin s m e)
    let y := if v.t1 then flushSub f y else y
    if f.maxNum.absLt y then overflowing s false
    else ⟨encodeFloat f (if y.isZero then .fin s 0 0 else y), flagIf (m != 0 && y.isZero) flUnderflow⟩

/-- A store's conversion: in T1-emulation only an E4M3 destination saturates (R56). -/
def convFloat (v : Conv) (c : Nat) (x : Num) : Fl Nat := convFloatSat (if v.t1 then c == 1 else !v.nonsat) v c x

/-- One value converted to INT8 (R45). DEDUCED: a value that saturates sets int_sat alone (notes/assumptions/13.md). -/
def convInt8 (x : Num) : Fl Nat :=
  match x with
  | .nan => ⟨0, flInvalid ||| flNanIn⟩
  | _ =>
    let i := x.nearestInt 1000
    let j := if i < -128 then -128 else if 127 < i then 127 else i
    ⟨(j % 256).toNat, flagIf (i != j) flIntSat ||| flagIf (!x.isZero && !x.isInf && i == 0) flUnderflow⟩

/-- One value converted into any destination that has no block scale. DESIGN CHOICE: a T1-emulation STORE to INT8 saturates and takes a NaN as
R45 says of a native one (notes/assumptions/108.md). -/
def convElem (v : Conv) (c : Nat) (x : Num) : Fl Nat := if c = 0 then convInt8 x else convFloat v c x

/-- The largest exponent of an MX element format (R46). -/
def mxEmax (c : Nat) : Int := if c = 3 then 8 else if c = 4 then 15 else if c = 5 then 4 else 2

/-- The largest finite magnitude of a list, none when no value is finite and nonzero. -/
def finiteMax (xs : List Num) : Option Num :=
  xs.foldl (fun acc x => match x with
    | .fin _ m _ => if m = 0 then acc else match acc with
      | some y => if y.absLt x then some x.abs else acc
      | none => some x.abs
    | _ => acc) none

/-- One MX block: its scale byte and its element codes (R41, R46, R49). Each value comes with its rounding mode. -/
def convBlock (c : Nat) (xs : List (Num × RMode)) : Fl (Nat × List Nat) :=
  let vals := xs.map Prod.fst
  if vals.any Num.isNan then ⟨(0xFF, vals.map (fun _ => 0)), flNanIn⟩
  else
    let f := fmtOf c
    let (ex, clamped) : Int × Bool := match finiteMax vals with
      | none => (-127, false)
      | some a =>
        let e := a.log2 - mxEmax c
        if e < -127 then (-127, true) else if 127 < e then (127, true) else (e, false)
    let one (p : Num × RMode) : Fl Nat :=
      let (x, mode) := p
      let top := b2n x.signBit * 2 ^ (f.expBits + f.fracBits) + f.maxCode
      match x with
      | .fin s m _ =>
        let y := Num.roundFree f mode (x.scale2 (-ex))
        let beyond := (f.maxNum.scale2 127).absLt x
        if f.maxNum.absLt y then ⟨top, flagIf beyond flOverflow⟩
        else ⟨encodeFloat f (if y.isZero then .fin s 0 0 else y), flagIf (m != 0 && y.isZero) flUnderflow⟩
      | _ => ⟨top, flOverflow⟩
    let codes := Fl.mapList one xs
    ⟨((ex + 127).toNat, codes.val), codes.fl ||| flagIf clamped flScaleClamp⟩

/-- 24 bits drawn for one element (R48). -/
def draw (seed stream step index : Nat) : Nat :=
  let mask := 2 ^ 64
  let z := (seed ^^^ ((stream <<< 32) % mask)) ^^^ step
  let z := (z + (index + 1) * 0x9E3779B97F4A7C15) % mask
  let z := ((z ^^^ (z >>> 30)) * 0xBF58476D1CE4E5B9) % mask
  let z := ((z ^^^ (z >>> 27)) * 0x94D049BB133111EB) % mask
  let z := z ^^^ (z >>> 31)
  (z >>> 40) % 2 ^ 24

/-- What the rounding of a STORE, a feed or an UPDATE draws from (R48). -/
structure Sr where
  on : Bool
  seed : Nat
  stream : Nat
  step : Nat
deriving DecidableEq, Repr

/-- The rounding mode of the element with a linear index. -/
def Sr.mode (r : Sr) (index : Nat) : RMode :=
  if r.on then .stochastic (draw r.seed r.stream r.step (index % 2 ^ 48)) else .nearest

/-- A row of values in a destination format: element codes, and scale bytes for an MX format. index0 is the linear index
of the row's first element. -/
def convRow (c : Nat) (r : Sr) (nonsat t1 : Bool) (index0 : Nat) (xs : List Num) : Fl (List Nat × List Nat) :=
  let ms := (xs.zip (List.range xs.length)).map (fun (x, i) => (x, r.mode (index0 + i)))
  if fmtMX c then
    let bs := Fl.mapList (convBlock c) (chunksOf (xs.length + 1) 32 ms)
    ⟨(bs.val.flatMap Prod.snd, bs.val.map Prod.fst), bs.fl⟩
  else
    let es := Fl.mapList (fun (p : Num × RMode) => convElem ⟨p.2, nonsat, t1⟩ c p.1) ms
    ⟨(es.val, []), es.fl⟩

/-- A row of element codes with its scale bytes as numbers. -/
def rowNums (t1 : Bool) (c : Nat) (codes scales : List Nat) : List Num :=
  (codes.zip (List.range codes.length)).map (fun (x, i) =>
    let v := decodeElem t1 c x
    if fmtMX c then applyScale (scales.getD (i / 32) 127) v else v)

end Sys2Proof.Machine
end

