-- ==== Sys2Proof/Machine/Rubble.lean ====
section
/-! DEFINITION. The Rubble format: group records, chunks and tags (R146 to R152). -/

namespace Sys2Proof.Machine

/-- Exponent and mantissa bits of a Rubble element format, and the element's width (R149). -/
structure RubbleFmt where
  e : Nat
  m : Nat
deriving DecidableEq, Repr

/-- The split of the element formats a Rubble region may name: E4M3, E5M2, MX elements as their element format, BF16 and
FP16. -/
def rubbleFmt (code : Nat) : RubbleFmt :=
  if code = 1 ∨ code = 3 then ⟨4, 3⟩
  else if code = 2 ∨ code = 4 then ⟨5, 2⟩
  else if code = 9 then ⟨8, 7⟩
  else ⟨5, 10⟩

/-- Bits of one element. -/
def RubbleFmt.width (f : RubbleFmt) : Nat := 1 + f.e + f.m

def RubbleFmt.expOf (f : RubbleFmt) (c : Nat) : Nat := c / 2 ^ f.m % 2 ^ f.e
def RubbleFmt.signOf (f : RubbleFmt) (c : Nat) : Nat := c / 2 ^ (f.m + f.e) % 2
def RubbleFmt.manOf (f : RubbleFmt) (c : Nat) : Nat := c % 2 ^ f.m

/-- Number of bits of a number: 0 for 0. -/
def bitLen (n : Nat) : Nat := if n = 0 then 0 else Nat.log2 n + 1

/-- A bit stream from its fields (width, value), least significant bit first: its length and its bits as a number. -/
def bitStream : List (Nat × Nat) → Nat × Nat
  | [] => (0, 0)
  | (w, v) :: fs => let (n, r) := bitStream fs; (w + n, v % 2 ^ w + 2 ^ w * r)

/-- Bit i of a map holds whether element i is nonzero. -/
def nzMap (codes : List Nat) : Nat := codes.foldr (fun c acc => (if c = 0 then 0 else 1) + 2 * acc) 0

/-- The fields of one group record (Table 7), by the encoder's fixed choices (R150). -/
def encodeGroup (f : RubbleFmt) (codes : List Nat) : List (Nat × Nat) :=
  let nz := codes.filter (· != 0)
  if nz.isEmpty then [(2, 0)]
  else
    let exps := nz.map f.expOf
    let base := exps.foldl Nat.min (2 ^ f.e)
    let k := bitLen (maxOf exps - base)
    let signs := nz.map f.signOf
    let smode := if signs.all (· == 0) then 0 else if signs.all (· == 1) then 1 else 2
    let per := (if smode = 2 then 1 else 0) + k + f.m
    if 2 + 2 + 4 + f.e + 32 + nz.length * per < 2 + 32 * f.width then
      [(2, 1), (2, smode), (4, k), (f.e, base), (32, nzMap codes)]
        ++ nz.flatMap (fun c =>
          (if smode = 2 then [(1, f.signOf c)] else []) ++ [(k, f.expOf c - base), (f.m, f.manOf c)])
    else (2, 2) :: codes.map (fun c => (f.width, c))

/-- A chunk's coded form. -/
inductive Coded where
  | zero
  | coded (sectors : Nat) (bytes : List Byte)
  | raw
deriving DecidableEq, Repr

/-- The coded form of a 2,048-byte chunk with no poisoned line (R150). -/
def encodeChunk (f : RubbleFmt) (bytes : List Byte) : Coded :=
  if bytes.all (· == 0) then .zero
  else
    let n := 2048 * 8 / f.width
    let (len, v) := bitStream ((chunksOf 64 32 (unpackCodes f.width n bytes)).flatMap (encodeGroup f))
    let sectors := (len + 511) / 512
    if sectors ≤ 31 then .coded sectors (leBytes (64 * sectors) v) else .raw

/-- A tag (Table 6). -/
def tagOf : Coded → Byte
  | .zero => 0
  | .coded n _ => BitVec.ofNat 8 (0x40 + (n - 1))
  | .raw => 0x80

/-- The elements of a PACK record, from the bits above its nonzero map, and the bits left. -/
def decodePacked (f : RubbleFmt) (smode k base : Nat) : List Bool → Nat → List Nat × Nat
  | [], v => ([], v)
  | false :: ms, v => let (cs, r) := decodePacked f smode k base ms v; (0 :: cs, r)
  | true :: ms, v =>
    let s := if smode = 2 then v % 2 else if smode = 1 then 1 else 0
    let v1 := if smode = 2 then v / 2 else v
    let d := v1 % 2 ^ k
    let v2 := v1 / 2 ^ k
    let m := v2 % 2 ^ f.m
    let (cs, r) := decodePacked f smode k base ms (v2 / 2 ^ f.m)
    (((s * 2 ^ f.e + (base + d) % 2 ^ f.e) * 2 ^ f.m + m) :: cs, r)

/-- One group's 32 elements and the bits left. A gmode of 3 never occurs; it reads as ZERO. -/
def decodeGroup (f : RubbleFmt) (v : Nat) : List Nat × Nat :=
  let gmode := v % 4
  let v := v / 4
  if gmode = 1 then
    let smode := v % 4
    let k := v / 4 % 16
    let base := v / 64 % 2 ^ f.e
    let nz := v / 2 ^ (6 + f.e) % 2 ^ 32
    decodePacked f smode k base ((List.range 32).map (fun i => nz.testBit i)) (v / 2 ^ (38 + f.e))
  else if gmode = 2 then
    ((List.range 32).map (fun i => v / 2 ^ (f.width * i) % 2 ^ f.width), v / 2 ^ (32 * f.width))
  else (List.replicate 32 0, v)

/-- The elements of n groups. -/
def decodeGroups (f : RubbleFmt) : Nat → Nat → List Nat
  | 0, _ => []
  | n + 1, v => let (cs, r) := decodeGroup f v; cs ++ decodeGroups f n r

/-- The 2,048 bytes that a tag and its sectors decode to (R148, R149). -/
def decodeChunk (f : RubbleFmt) (tag : Byte) (sectors : List Byte) : List Byte :=
  let mode := tag.toNat / 64
  if mode = 1 then
    packCodes f.width (decodeGroups f (2048 * 8 / f.width / 32) (leNat (sectors.take (64 * (tag.toNat % 32 + 1)))))
  else if mode = 2 then padTo 2048 sectors
  else List.replicate 2048 0

end Sys2Proof.Machine
end

