-- ==== Sys2Proof/Machine/Home.lean ====
section
/-! DEFINITION. Homes: the local map (R244), placement over the stacks (R215 to R217), regions (R204, R205), the Larder (R226,
R232), poison (R173, R219, R212), Rubble chunks (R147, R151, R152), atomics (R228, R229), and one access performed at its
home (R247 to R250). -/

namespace Sys2Proof.Machine

/-! ## The local map -/

/-- First offset above HBM3E, 2,304 GiB (Table 2 of 09_lomium.md). -/
def hbmEnd : Nat := 0x024000000000
/-- First offset of the Pantry windows. -/
def pantryBase : Nat := 0xC00000000000
/-- First offset above the Pantry windows. -/
def pantryEnd : Nat := 0xC00400000000
/-- Bytes of one Pantry window (R206). -/
def pantrySize : Nat := 0x20000000
/-- Bytes of the device area at the top of each Pantry (R207). -/
def pantryDevice : Nat := 0x1000000
/-- First offset of control space. -/
def controlBase : Nat := 0xFF0000000000

/-- What a local offset names, as far as items, peers and the host reach it. -/
inductive Loc where
  | hbm
  | pantry (die o : Nat)
  | nothing
deriving DecidableEq, Repr

/-- The local 48-bit map (R244). -/
def locOf (off : Nat) : Loc :=
  if off < hbmEnd then .hbm
  else if pantryBase ≤ off ∧ off < pantryEnd then .pantry ((off - pantryBase) / pantrySize) ((off - pantryBase) % pantrySize)
  else .nothing

/-- Size of the wide window in bytes (R215). -/
def wideBytes (c : Cfg) : Nat := bits c.memCfg 11 0 * 2 ^ 30

/-- Size of one near window in bytes. -/
def nearBytes (c : Cfg) : Nat := (2304 - bits c.memCfg 11 0) / 12 * 2 ^ 30

/-- The Cellar that serves an offset (R216). -/
def cellarOf (c : Cfg) (off : Nat) : Nat :=
  if off < wideBytes c then (off / 256) % 768 % 12 else (off - wideBytes c) / Nat.max 1 (nearBytes c)

/-- The stack that holds an offset (R216). -/
def stackOf (c : Cfg) (off : Nat) : Nat :=
  if off < wideBytes c then let p := (off / 256) % 768; 2 * (p % 12) + p / 12 % 2
  else 2 * cellarOf c off + ((off - wideBytes c) % Nat.max 1 (nearBytes c)) / 256 % 2

/-- The pseudo-channel of an offset (R216). -/
def channelOf (c : Cfg) (off : Nat) : Nat :=
  if off < wideBytes c then (off / 256) % 768 / 24
  else ((off - wideBytes c) % Nat.max 1 (nearBytes c)) / 256 / 2 % 32

/-- Rank of a line among the lines homed at its Cellar, in ascending local offset (R226). -/
def lineRank (c : Cfg) (line : Nat) : Nat :=
  let off := 64 * line
  if off < wideBytes c then line / 4 / 12 * 4 + line % 4
  else wideBytes c / 64 / 12 + ((off - wideBytes c) % Nat.max 1 (nearBytes c)) / 64

/-- The Larder set of a line: its Cellar and its set number (R226). -/
def larderSet (c : Cfg) (line : Nat) : Nat × Nat := (cellarOf c (64 * line), lineRank c line % 65536)

/-! ## Regions -/

/-- The region record that covers a local offset. -/
def regionAt (c : Cfg) (off : Nat) : Option Region := c.regions.find? (fun r => r.base ≤ off && off < r.base + r.size)

/-- Read, write or atomic. -/
inductive AccKind where
  | rd
  | wr
  | at_
deriving DecidableEq, Repr

/-- What an access does, for the permission check: POISON is checked as a write (R503). -/
def accKind : AccOp → AccKind
  | .read _ => .rd
  | .write _ _ => .wr
  | .atomic _ _ _ => .at_
  | .poison => .wr

/-- A region permits an access to a partition (R204). -/
def Region.forPartition (r : Region) (k : AccKind) (p : Nat) : Bool :=
  match k with
  | .rd => r.read.getLsbD p
  | .wr => r.write.getLsbD p
  | .at_ => r.atomic.getLsbD p

/-- A region permits an access to its caller (R204, R205). -/
def Region.permits (s : State) (r : Region) (k : AccKind) : Who → Bool
  | .item i => r.forPartition k (s.partitionOf i.ctx)
  | .host _ => match k with
    | .rd => r.hostRead
    | .wr => r.hostWrite
    | .at_ => false
  | .remote _ _ => match k with
    | .rd => r.remoteRead
    | .wr => r.remoteWrite
    | .at_ => r.remoteAtomic
  | .device => true

/-- The home permits an access to one line: the offset is mapped and lies in a region that grants it; the device itself is
held to the map alone. The device area at the top of a Pantry window is no one's (R204, R205, R207, R244). -/
def homePermits (s : State) (who : Who) (k : AccKind) (off : Nat) : Bool :=
  match locOf off, who with
  | .nothing, _ => false
  | _, .device => true
  | .pantry _ o, w => o < pantrySize - pantryDevice && match regionAt s.cfg off with
    | some r => r.permits s k w
    | none => false
  | .hbm, w => match regionAt s.cfg off with
    | some r => r.permits s k w
    | none => false

/-! ## The Larder -/

/-- A line that the Larder holds. -/
def larderFind (m : Memory) (line : Nat) : Option LarderLine := m.larder.find? (fun l => l.line == line)

/-- A stack that is in service. -/
def stackUp (m : Memory) (st : Nat) : Bool := (m.hbmStacks.getD st Stack.cold).service == 0

/-- The line that leaves a full set: the least recently used one that is clean or whose stack is in service. -/
def larderVictim (c : Cfg) (m : Memory) (line : Nat) : Option LarderLine :=
  minOn LarderLine.stamp
    (m.larder.filter (fun l => larderSet c l.line == larderSet c line && (!l.dirty || stackUp m (stackOf c (64 * l.line)))))

/-- Lines of the set of a line. -/
def larderWays (c : Cfg) (m : Memory) (line : Nat) : Nat := (m.larder.filter (fun l => larderSet c l.line == larderSet c line)).length

/-- A line can be allocated: its set has a free way or a line that can leave. -/
def larderRoom (c : Cfg) (m : Memory) (line : Nat) : Bool := larderWays c m line < 16 || (larderVictim c m line).isSome

/-! ## Rubble -/

/-- The Rubble region that covers an offset. -/
def rubbleAt (c : Cfg) (off : Nat) : Option Region :=
  match regionAt c off with
  | some r => if r.rubble then some r else none
  | none => none

/-- Bytes of the tag areas are held apart from regions: the tag of a chunk lies at tag_base + its number (R146). -/
def tagAddr (r : Region) (off : Nat) : Nat := r.tagBase + (off - r.base) / 2048

/-- The partition whose Rubble mode governs a region's chunks. DESIGN CHOICE where several partitions share it: the lowest set in its write
mask, as R222 charges it (notes/assumptions/111.md). -/
def regionPartition (r : Region) : Nat :=
  let low (m : BitVec 8) : Option Nat := (List.range 8).find? (fun p => m.getLsbD p)
  match low r.write, low r.read, low r.atomic with
  | some p, _, _ => p
  | none, some p, _ => p
  | none, none, some p => p
  | none, none, none => 0

/-- A 2,048-byte chunk that holds a poisoned line. -/
def chunkPoisoned (m : Memory) (chunk : Nat) : Bool := m.poison.any (fun l => l / 32 == chunk)

/-- The tag of a chunk from its bytes, its poison and the Rubble mode of its partition (R150 to R152). -/
def chunkTag (c : Cfg) (m : Memory) (r : Region) (off : Nat) : Byte :=
  let chunk := off / 2048
  let bytes := m.hbm.readBytes (2048 * chunk) 2048
  if chunkPoisoned m chunk then 0x80
  else if bytes.all (· == 0) then 0
  else if (c.partitions.getD (regionPartition r) default).rubbleEn then tagOf (encodeChunk (rubbleFmt r.rubbleFormat) bytes)
  else 0x80

/-- The memory with the tag of the chunk of an offset written again, when the offset lies in a Rubble region. -/
def retag (c : Cfg) (m : Memory) (off : Nat) : Memory :=
  match rubbleAt c off with
  | some r => { m with tags := m.tags.writeBytes (tagAddr r off) [chunkTag c m r off] }
  | none => m

/-- A line written to its stack: a Rubble chunk is coded as a whole, so that none of its lines is dirty any more (R147, R226). -/
def toStack (c : Cfg) (m : Memory) (line : Nat) : Memory := match rubbleAt c (64 * line) with
  | some _ => retag c { m with larder := m.larder.map (fun x => if x.line / 32 = line / 32 then { x with dirty := false } else x) } (64 * line)
  | none => m

/-- The Larder after an access to a line: its use stamp moves, a new line is allocated where there is room, and a full set
loses its least recently used line that can leave, written to its stack when it is dirty (R226). -/
def larderTouch (c : Cfg) (m : Memory) (line : Nat) (dirty : Bool) : Memory :=
  let fresh : LarderLine := { line := line, dirty := dirty, stamp := m.stamp, upset := false }
  let m := { m with stamp := m.stamp + 1 }
  match larderFind m line with
  | some l => { m with larder := m.larder.map (fun x => if x.line = line then { fresh with dirty := dirty || l.dirty, upset := l.upset } else x) }
  | none =>
    if larderWays c m line < 16 then { m with larder := m.larder ++ [fresh] }
    else match larderVictim c m line with
      | some v =>
        let m := if v.dirty then toStack c m v.line else m
        { m with larder := m.larder.filter (fun x => x.line != v.line) ++ [fresh] }
      | none => if dirty then toStack c m line else m

/-! ## Bytes and poison of one line -/

/-- A line of HBM3E or of a Pantry is poisoned. -/
def linePoisoned (m : Memory) (off : Nat) : Bool :=
  match locOf off with
  | .hbm => m.poison.contains (off / 64)
  | .pantry d o => m.pantryPoison.contains (d, o / 64)
  | .nothing => false

/-- The errors of the array that holds a line forgotten: the line is poisoned, or written whole (R173, R212). -/
def clearUpset (m : Memory) (off : Nat) : Memory :=
  match locOf off with
  | .hbm => { m with larder := m.larder.map (fun l => if l.line = off / 64 then { l with upset := false } else l) }
  | .pantry d o => { m with upsets := m.upsets.filter (fun x => !(x.1 == d && x.2 / 8 == o / 64)) }
  | .nothing => m

/-- Poison set on a line or taken from it. In a Rubble region a poisoned chunk is RAW, and the write that takes its last poison codes it again
(R151). -/
def setPoison (c : Cfg) (m : Memory) (off : Nat) (on : Bool) : Memory :=
  let m := clearUpset m off
  match locOf off with
  | .hbm =>
    let rest := m.poison.filter (fun l => l != off / 64)
    let n := { m with poison := if on then off / 64 :: rest else rest }
    if on ∨ m.poison.contains (off / 64) then retag c n off else n
  | .pantry d o =>
    let rest := m.pantryPoison.filter (fun l => l != (d, o / 64))
    { m with pantryPoison := if on then (d, o / 64) :: rest else rest }
  | .nothing => m

/-- Bytes at a local offset. -/
def rawRead (m : Memory) (off n : Nat) : List Byte :=
  match locOf off with
  | .hbm => m.hbm.readBytes off n
  | .pantry d o => pantryBytes m d o n
  | .nothing => List.replicate n 0

/-- Bytes written at a local offset; the poison of lines stays as it was. -/
def rawWrite (m : Memory) (off : Nat) (bs : List Byte) : Memory :=
  match locOf off with
  | .hbm => { m with hbm := m.hbm.writeBytes off bs }
  | .pantry d o => pantryPut m d o bs
  | .nothing => m

/-- Which 8 bytes of word w of a line a masked write covers. -/
def wordMask (off : Nat) (bs : List Byte) (mask : List Bool) (w : Nat) : List Bool :=
  (List.range 8).map (fun j => off % 64 ≤ 8 * w + j && 8 * w + j < off % 64 + bs.length && mask.getD (8 * w + j - off % 64) false)

/-- The words of a line of a Pantry that a masked write covers whole have no error any more (R212). -/
def clearWords (m : Memory) (off : Nat) (bs : List Byte) (mask : List Bool) (upsets : List (Nat × Nat)) : List (Nat × Nat) :=
  match locOf off with
  | .pantry d o => upsets.filter (fun x => !(x.1 == d && x.2 / 8 == o / 64 && (wordMask off bs mask (x.2 % 8)).all id))
  | _ => m.upsets

/-- A write to one line: the masked bytes land together (R248), and a write of all 64 bytes clears the line's poison
(R173). -/
def lineWrite (c : Cfg) (m : Memory) (off : Nat) (bs : List Byte) (mask : List Bool) : Memory :=
  let m1 := rawWrite m off (mergeMask (rawRead m off bs.length) bs mask)
  let m1 := if mask.all id then m1 else { m1 with
    pantryPoison := m.pantryPoison, upsets := clearWords m off bs mask m.upsets }
  if off % 64 = 0 ∧ bs.length = 64 ∧ mask.length = 64 ∧ mask.all id then setPoison c m1 off false else m1

/-! ## Atomics (Table 7 of 08_memory.md) -/

/-- A w-bit word as a signed number. -/
def signedOf (w v : Nat) : Int := if v < 2 ^ (w - 1) then (v : Int) else (v : Int) - 2 ^ w

/-- A float sum of a Larder atomic, rounded once, and its flags (R229, R44). -/
def floatAdd (f : FloatFmt) (o v : Nat) : Fl Nat :=
  let a := decodeFloat f o
  let b := decodeFloat f v
  let x := Num.add a b
  let r := x.val.toFmt f
  ⟨encodeFloat f r, x.fl ||| flagIf (a.isNan || b.isNan) flNanIn ||| flagIf r.isInf flInfOut
    ||| flagIf (r.isInf && !x.val.isInf) flOverflow⟩

/-- The lanes of a packed BF16 add. -/
def bf16Lanes : Nat → Nat → Nat → Fl Nat
  | 0, _, _ => ⟨0, 0⟩
  | n + 1, o, v =>
    (floatAdd fmtBF16 (o % 2 ^ 16) (v % 2 ^ 16)).bind fun x => (bf16Lanes n (o / 2 ^ 16) (v / 2 ^ 16)).map fun r => x + 2 ^ 16 * r

/-- The new value of an atomic from its code, the old value, the operand and the compare value; the flags it raises. -/
def atomicNew (code o v c : Nat) : Fl Nat :=
  let w := if code % 2 = 1 then 64 else 32
  let op := code / 2
  if op = 0 then ⟨(o + v) % 2 ^ w, 0⟩
  else if op = 1 then ⟨if signedOf w v < signedOf w o then v else o, 0⟩
  else if op = 2 then ⟨if v < o then v else o, 0⟩
  else if op = 3 then ⟨if signedOf w o < signedOf w v then v else o, 0⟩
  else if op = 4 then ⟨if o < v then v else o, 0⟩
  else if op = 5 then ⟨o &&& v, 0⟩
  else if op = 6 then ⟨o ||| v, 0⟩
  else if op = 7 then ⟨o ^^^ v, 0⟩
  else if op = 8 then ⟨v, 0⟩
  else if op = 9 then ⟨if o = c then v else o, 0⟩
  else if op = 10 then floatAdd (if w = 64 then fmtFP64 else fmtFP32) o v
  else bf16Lanes (w / 16) o v

/-- Bytes of an atomic's location. -/
def atomicBytes (code : Nat) : Nat := if code % 2 = 1 then 8 else 4

/-! ## One access at its home -/

/-- The item that an error record of an access names. -/
def whoItem : Who → Option ItemRef
  | .item r => some r
  | _ => none

/-- An operation that covers all 64 bytes of the line at an offset. -/
def coversLine (off : Nat) : AccOp → Bool
  | .write bs mask => off % 64 == 0 && bs.length == 64 && mask.length == 64 && mask.all id
  | .poison => true
  | _ => false

/-- The Larder holds every line of the chunk of a line. -/
def holdsChunk (m : Memory) (line : Nat) : Bool := (List.range 32).all (fun i => (larderFind m (line / 32 * 32 + i)).isSome)

/-- The Larder or the stack can serve an access to an HBM3E line (R226, R232). -/
def hbmServes (c : Cfg) (m : Memory) (off : Nat) (op : AccOp) : Bool :=
  let line := off / 64
  let held := (larderFind m line).isSome
  if stackUp m (stackOf c off) then true
  else match rubbleAt c off with
    | some _ =>
      match op with
      | .read _ => held
      | _ => held && holdsChunk m line
    | none => held || (coversLine off op && larderRoom c m line)

/-- The access reads the stack: an HBM3E line that the Larder does not hold, by anything but a write of the whole line. A write that leaves a
Rubble chunk partly written reads the old chunk where the Larder does not hold it (R147). -/
def readsStack (c : Cfg) (m : Memory) (off : Nat) (op : AccOp) : Bool := match rubbleAt c off, op with
  | some _, .read _ => (larderFind m (off / 64)).isNone
  | some _, _ => !holdsChunk m (off / 64)
  | none, op => (larderFind m (off / 64)).isNone && !coversLine off op

/-- The lines that an uncorrectable error makes uncorrectable (R151): every line of a CODED chunk when a sector that it stores is hit, as any
access to the chunk reads them; the line of a RAW chunk or outside Rubble. A block of a slot that stores no sector holds no line. -/
def ueLines (c : Cfg) (m : Memory) (off : Nat) (scrub : Bool) : List Nat :=
  match rubbleAt c off with
  | some r =>
    let tag := (m.tags.read (tagAddr r off)).toNat
    let stored := if tag / 64 = 1 then tag % 32 + 1 else if tag / 64 = 2 then 32 else 0
    if scrub ∧ stored ≤ off / 64 % 32 then []
    else if tag / 64 = 1 then (List.range 32).map (fun i => 64 * (off / 2048 * 32 + i))
    else [off / 64 * 64]
  | none => [off / 64 * 64]

/-- A stack changed. -/
def modStack (m : Memory) (st : Nat) (f : Stack → Stack) : Memory := { m with hbmStacks := m.hbmStacks.modify st f }

/-- A stack begins an episode of retraining (R364). -/
def Stack.retrain (k : Stack) (now : Nat) : Stack := { k with service := 1, attempts := 1, retrainAt := now, recentUe := [] }

/-- An uncorrectable read counted: 16 within 1 ms across at least 4 pseudo-channels make the stack retrain (R220, R364). -/
def Stack.noteUe (k : Stack) (c : Cfg) (now off : Nat) : Stack :=
  let recent := (now, off) :: k.recentUe.filter (fun e => now < e.1 + 1000000)
  let k := { k with ueCount := satInc k.ueCount, recentUe := recent }
  if 16 ≤ recent.length ∧ 4 ≤ ((recent.map (fun e => channelOf c e.2)).dedup).length ∧ k.service = 0 then k.retrain now else k

/-- An uncorrectable error found at a read, of a stack or else of a Larder line or a Pantry: the lines are poisoned and an error record is
written (R151, R212, R220, R226). -/
def foundUncorrectable (s : State) (who : Who) (off : Nat) (stack scrub : Bool) : State :=
  match locOf off with
  | .pantry d o =>
    writeError (s.modMem (fun m => setPoison s.cfg m off true))
      { cls := 0x02, sev := sevItem, unit := d, item := (whoItem who), ctx := none, detail := [BitVec.ofNat 64 (o / 64 * 64)] }
  | .hbm =>
    if !stack then
      writeError (s.modMem (fun m => setPoison s.cfg m off true))
        { cls := 0x03, sev := sevItem, unit := 0x30 + cellarOf s.cfg off, item := (whoItem who), ctx := none,
          detail := [BitVec.ofNat 64 (off / 64 * 64)] }
    else
      let st := stackOf s.cfg off
      let s1 := s.modMem (fun m => (ueLines s.cfg m off scrub).foldl (fun m o => setPoison s.cfg m o true)
        (modStack m st (fun k => k.noteUe s.cfg s.now (off / 64 * 64))))
      writeError s1
        { cls := 0x01, sev := if scrub then sevUnit else sevItem, unit := 0x60 + st, item := (whoItem who), ctx := none,
          detail := [BitVec.ofNat 64 (off / 64 * 64), BitVec.ofNat 64 (channelOf s.cfg off)] }
  | .nothing => s

/-- A corrected error in a block read from its stack is counted, and the corrected block is written back through the Larder (R220). -/
def foundCorrected (s : State) (off : Nat) : State :=
  s.modMem (fun m => larderTouch s.cfg (modStack m (stackOf s.cfg off) (fun k => { k with ceCount := satInc k.ceCount })) (off / 64) true)

/-- The operation on the bytes of a line that is neither poisoned nor uncorrectable. -/
def applyOp (s : State) (off : Nat) (op : AccOp) : State × Ans :=
  match op with
  | .read n => (s, .data (rawRead s.memory off n))
  | .write bs mask => (s.modMem (fun m => lineWrite s.cfg m off bs mask), .ack)
  | .atomic code v c =>
    let n := atomicBytes code
    let o := leNat (rawRead s.memory off n)
    let r := atomicNew code o (v % 2 ^ (8 * n)) (c % 2 ^ (8 * n))
    (s.modMem (fun m => rawWrite m off (leBytes n r.val)), .old o r.fl)
  | .poison => (s.modMem (fun m => setPoison s.cfg m off true), .ack)

/-- The operation on a poisoned line: a read or an atomic meets the poison and changes nothing; a write of all 64 bytes
clears it, a part write lands and leaves the line poisoned (R173, R230). -/
def applyPoisoned (s : State) (off : Nat) (op : AccOp) : State × Ans :=
  match op with
  | .read _ => (s, .poisoned)
  | .atomic _ _ _ => (s, .poisoned)
  | _ => applyOp s off op

/-- A read, an atomic or a part write of an HBM3E line that the code of R218 finds uncorrectable. -/
def applyUncorrectable (s : State) (who : Who) (off : Nat) (stack : Bool) (op : AccOp) : State × Ans :=
  let s1 := foundUncorrectable s who off stack false
  match op with
  | .write _ _ => applyOp s1 off op
  | _ => (s1, .uncorrectable (match locOf off with | .pantry _ _ => true | _ => false))

/-! ## What the codes find (R212, R218, R219) -/

/-- What the symbol code makes of a block read from its stack: data as written, corrected data, an uncorrectable error, the pattern of poison,
or data with flipped bits, counted as corrected or not. -/
inductive Found where
  | clean
  | corrected
  | uncorrectable
  | poison
  | other (counted : Bool) (flip : BitVec 512)
deriving DecidableEq, Repr

/-- The bits in which a symbol differs. -/
def symFlip (es : List SymError) (i : Nat) : BitVec 16 := (es.filter (fun e => e.symbol.val == i)).foldl (fun x e => x ^^^ e.flip) 0

/-- The four check symbols inverted: how a poisoned block is written (R219). -/
def poisonPattern : List SymError := [⟨32, 0xFFFF⟩, ⟨33, 0xFFFF⟩, ⟨34, 0xFFFF⟩, ⟨35, 0xFFFF⟩]

/-- What the code finds: it corrects one symbol, takes the exact pattern of poison as poison, and detects two or three symbols (R218, R219). -/
def Ecc.found (es : List SymError) : Found :=
  let bad := (List.range 36).filter (fun i => symFlip es i != 0)
  if bad.isEmpty then .clean
  else if bad.length = 1 then .corrected
  else if bad = [32, 33, 34, 35] ∧ bad.all (fun i => symFlip es i == 0xFFFF) then .poison
  else if bad.length ≤ 3 then .uncorrectable
  else match Config.codeBeyond (bad.map (fun i => (i, symFlip es i))) with
    | some (counted, flip) => .other counted flip
    | none => .uncorrectable

/-- What the code finds in the stored block of a line, poisoned or not, with the errors that have come to it. -/
def stackFinds (m : Memory) (off : Nat) (ecc : Ecc) : Found :=
  Ecc.found (if linePoisoned m off then poisonPattern ++ ecc.errors else ecc.errors)

/-- The stored data of a line with flipped bits. -/
def flipLine (m : Memory) (off : Nat) (flip : BitVec 512) : Memory :=
  let a := off / 64 * 64
  rawWrite m a (leBytes 64 (leNat (rawRead m a 64) ^^^ flip.toNat))

/-- A block that reads as data is no longer poisoned, whatever poison its writer left (R219). -/
def unpoison (c : Cfg) (m : Memory) (off : Nat) : Memory := if linePoisoned m off then setPoison c m off false else m

/-- A block that a real error changed to other data (R218). -/
def miscorrected (c : Cfg) (m : Memory) (off : Nat) (flip : BitVec 512) : Memory := flipLine (unpoison c m off) off flip

/-- An access that reads a block from its stack, by what the code finds there (R218 to R220). -/
def applyFound (s : State) (who : Who) (off : Nat) (op : AccOp) : Found → State × Ans
  | .poison => applyPoisoned (s.modMem (fun m => setPoison s.cfg m off true)) off op
  | .uncorrectable => applyUncorrectable s who off true op
  | .clean => applyOp (s.modMem (fun m => unpoison s.cfg m off)) off op
  | .corrected => applyOp (foundCorrected (s.modMem (fun m => unpoison s.cfg m off)) off) off op
  | .other counted flip =>
    let s := s.modMem (fun m => miscorrected s.cfg m off flip)
    applyOp (if counted then foundCorrected s off else s) off op

/-- The 8-byte words of its line that an access reads: all that a read or an atomic touches, and those that a write covers in part (R212). -/
def wordsRead (off : Nat) : AccOp → List Nat
  | .read n => (List.range 8).filter (fun w => off % 64 < 8 * w + 8 && 8 * w < off % 64 + n)
  | .atomic code _ _ => (List.range 8).filter (fun w => off % 64 < 8 * w + 8 && 8 * w < off % 64 + atomicBytes code)
  | .write bs mask => (List.range 8).filter (fun w =>
      (wordMask off bs mask w).any id && !(wordMask off bs mask w).all id)
  | .poison => []

/-- An access meets an error in the array of the Larder or of a Pantry (R212, R226). -/
def meetsUpset (m : Memory) (off : Nat) (op : AccOp) : Bool := match locOf off with
  | .pantry d o => (wordsRead o op).any (fun w => m.upsets.contains (d, o / 64 * 8 + w))
  | .hbm => !coversLine off op && (larderFind m (off / 64)).any LarderLine.upset
  | .nothing => false

/-- An access to a line of the Larder or of a Pantry. -/
def applyArray (s : State) (who : Who) (off : Nat) (op : AccOp) : State × Ans :=
  if linePoisoned s.memory off then applyPoisoned s off op
  else if meetsUpset s.memory off op then applyUncorrectable s who off false op
  else applyOp s off op

/-- Memory in which a double-bit error has arisen. -/
def upsetMemory (m : Memory) : Upset → Memory
  | .pantry d o => if o < pantrySize then { m with upsets := upsert (· == (d.val, o / 8)) (d.val, o / 8) m.upsets } else m
  | .cached d c l => { m with cache := m.cache.map (fun x => if x.die = d.val ∧ x.ctx = c.val ∧ x.line = l then { x with upset := true } else x) }
  | .larder l => { m with larder := m.larder.map (fun x => if x.line = l then { x with upset := true } else x) }

/-- A double-bit error arises (R212, R226). -/
def hitUpset (s : State) (u : Upset) : State := s.modMem (fun m => upsetMemory m u)

/-- One access within one line, performed at its home: refused, answered RETRY, or performed in home order (R205, R220, R226,
R232, R247, R248). -/
def performAt (s : State) (who : Who) (off : Nat) (op : AccOp) (ecc : Ecc) : State × Ans :=
  if homePermits s who (accKind op) off = false then (s, .refused)
  else match locOf off with
    | .nothing => (s, .refused)
    | .pantry _ _ => applyArray s who off op
    | .hbm =>
      if hbmServes s.cfg s.memory off op = false then (s, .retry)
      else
        let (t, a) := if readsStack s.cfg s.memory off op then applyFound s who off op (stackFinds s.memory off ecc)
          else applyArray s who off op
        (t.modMem (fun m => larderTouch s.cfg m (off / 64) (accKind op != .rd)), a)

/-- An occurrence of work done for a caller (R461): an item's context, a queue pair, or else the device. A peer's work belongs to no
partition. -/
def occWho (s : State) (who : Who) (die event : Nat) : Occ :=
  match who with
  | .item r => Occ.ofItem s r die event r.ctx s.now
  | .host q => match s.qpCfg q with
    | some k => { Occ.firmware die event s.now with
        priv := if k.supervisor then privSupervisor else privContext, partition := some k.partition, master := masterPorch }
    | none => { Occ.firmware die event s.now with master := masterPorch }
  | _ => Occ.firmware die event s.now

/-- The dirty line that an access to a line pushes out of a full set. -/
def evictedLine (c : Cfg) (m : Memory) (off : Nat) : Option Nat :=
  if (larderFind m (off / 64)).isSome || larderWays c m (off / 64) < 16 then none
  else match larderVictim c m (off / 64) with
    | some v => if v.dirty then some v.line else none
    | none => none

/-- A dirty line that is pushed out with an error in it: its write-back finds the error (R212, R226). -/
def evictUpset (s : State) (off : Nat) : State := match evictedLine s.cfg s.memory off with
  | some l => if (larderFind s.memory l).any LarderLine.upset then foundUncorrectable s .device (64 * l) false false else s
  | none => s

/-- The events of an access that an HBM3E home performed: LARDER_HIT or LARDER_MISS, HBM_READ, HBM_WRITE, ATOMIC. -/
def homeEvents (s : State) (who : Who) (off : Nat) (op : AccOp) : List Occ :=
  let at_ (event o : Nat) : Occ := { occWho s who (64 + cellarOf s.cfg o) event with lomium := some (s.deviceNumber * 2 ^ 48 + o) }
  let m := s.memory
  at_ (if (larderFind m (off / 64)).isSome then 0x030 else 0x031) off
    :: (if readsStack s.cfg m off op then [at_ 0x032 off] else [])
    ++ (match evictedLine s.cfg m off with
      | some l => [at_ 0x033 (64 * l)]
      | none => [])
    ++ (if accKind op = .at_ then [at_ 0x035 off] else [])

/-- The pieces of a byte range at the line boundaries: offset and length of each (R248). -/
def cutLines (off n : Nat) : List (Nat × Nat) :=
  if n = 0 then []
  else (List.range ((off + n - 1) / 64 - off / 64 + 1)).map (fun i =>
    let a := Nat.max off ((off / 64 + i) * 64)
    (a, Nat.min (off + n) ((off / 64 + i + 1) * 64) - a))

/-! ## Regulators (R222 to R224) -/

/-- 64 bytes of a Pantry granted for each line of a byte range (PANTRY_ACCESS). -/
def countPantry (s : State) (o : Occ) (d a n : Nat) : State :=
  ((List.range ((a + n + 63) / 64 - a / 64)).map (fun k => { o with die := 32 + d, event := 0x020, weight := 1, pantry := some (Nat.max a ((a / 64 + k) * 64)) })).foldl count s

/-- Depth of both buckets of a partition's regulators, in units of 1/1000 byte, and their rates in GB/s (Table 5 of 08_memory.md). -/
def regDepth (s : State) (p : Nat) : Nat := bits (s.cfg.regCfg.getD p 0) 63 48 * 1024 * 1000
def regCeiling (s : State) (p : Nat) : Nat := bits (s.cfg.regCfg.getD p 0) 47 32
def regGuarantee (s : State) (p : Nat) : Nat := bits (s.cfg.regCfg.getD p 0) 31 16

/-- Bytes of an access. -/
def opBytes : AccOp → Nat
  | .read n => n
  | .write bs _ => bs.length
  | .atomic code _ _ => atomicBytes code
  | .poison => 64

/-- Charge of a request in bytes. -/
def charge (op : AccOp) : Nat := Nat.max 256 (opBytes op)

/-- The partition charged for a request; none for the device itself (R222). -/
def chargedTo (s : State) (who : Who) (off : Nat) : Option Nat := match who with
  | .item r => some (s.partitionOf r.ctx)
  | .host q => (s.qpCfg q).map QpCfg.partition
  | .remote _ _ => (regionAt s.cfg off).map regionPartition
  | .device => none

/-- Quarters of the request rate that a stack's throttle step leaves (Table 8 of 08_memory.md). -/
def throttleQuarters (m : Memory) (st : Nat) : Nat := 4 - Nat.min 3 (m.hbmStacks.getD st Stack.cold).throttle

/-- Quarters for the request at a regulator's head. -/
def headQuarters (s : State) (r : Regulator) : Nat := match r.waiting with
  | x :: _ => throttleQuarters s.memory (stackOf s.cfg x.2.off)
  | [] => 4

/-- A regulator's buckets filled up to now, at the rates that the throttle step of its head's stack leaves (R223, R224). -/
def fillBuckets (s : State) (p : Nat) (r : Regulator) : Regulator :=
  let dt := s.now - r.filled
  let add (rate : Nat) : Nat := rate * 250 * headQuarters s r * dt
  { r with
    guarantee := Nat.min (regDepth s p) (r.guarantee + add (regGuarantee s p))
    ceiling := Nat.min (regDepth s p) (r.ceiling + add (regCeiling s p)), filled := s.now }

/-- Regulators of a Cellar changed. -/
def modRegs (s : State) (k : Nat) (f : Nat → Regulator → Regulator) : State :=
  s.modMem (fun m => { m with regulators := m.regulators.modify k (fun rs => (rs.zip (List.range 8)).map (fun (r, p) => f p r)) })

/-- A request that reaches its Cellar is charged to its partition: both buckets, filled up to now, lose its bytes, 256 at least (R222,
R224). -/
def chargeCellar (s : State) (who : Who) (off n : Nat) : State :=
  match chargedTo s who off with
  | some p => modRegs s (cellarOf s.cfg off) (fun q r =>
      if q = p then
        (let r := fillBuckets s p r
         { r with guarantee := r.guarantee - 1000 * Nat.max 256 n, ceiling := r.ceiling - 1000 * Nat.max 256 n })
      else r)
  | none => s

/-- The parts of a request at the Cellars that it reaches, as runs of the permitted bytes that lie at one Cellar: offset and length of each
(R205, R216, R222). -/
def cellarRuns (s : State) (who : Who) (k : AccKind) (off n : Nat) : List (Nat × Nat) :=
  ((cutLines off n).filter (fun p => decide (locOf p.1 = .hbm) && homePermits s who k p.1)).foldl (fun acc p => match acc.getLast? with
    | some x => if x.1 + x.2 = p.1 ∧ cellarOf s.cfg x.1 = cellarOf s.cfg p.1 then acc.dropLast ++ [(x.1, x.2 + p.2)] else acc ++ [p]
    | none => [p]) []

/-- A request of a caller charged: once at each Cellar that it reaches (R222). -/
def chargeRequest (s : State) (who : Who) (k : AccKind) (off n : Nat) : State :=
  (cellarRuns s who k off n).foldl (fun s x => chargeCellar s who x.1 x.2) s

/-! ## Units that a clock loss takes (R417) -/

/-- A clock that is lost with its units. -/
def clockStopped (s : State) (hit : ClockId → Bool) : Bool := s.hearth.stopped.any hit

/-- The two Face dies whose routers a Landing is attached to (Table 2 of 01_device.md). -/
def landingRouters (k : Nat) : Nat × Nat :=
  [(16, 24), (24, 25), (26, 27), (28, 29), (30, 31), (2, 3), (4, 5), (6, 7), (7, 15), (23, 31), (0, 1), (0, 8)].getD k (0, 0)

/-- The hub of a Landing has lost its mesh clock, or both routers that it is attached to have: whatever is attached to the mesh there is cut
off (R20, R417). -/
def hubStopped (s : State) (k : Nat) : Bool :=
  let lost (n : Nat) : Bool := clockStopped s (fun c => match c with
    | .mesh m => m == n
    | _ => false)
  let routers := landingRouters k
  lost (76 + k) || (lost routers.1 && lost routers.2)

/-- The unit that serves an offset has lost its clock, or the router that leads to it: a Cellar's is the hub of the Landing it is paired with
(R15, R20, R417). -/
def homeStopped (s : State) (off : Nat) : Bool :=
  clockStopped s (fun c => match c with | .refCore => true | _ => false) || match locOf off with
    | .hbm => hubStopped s (cellarOf s.cfg off) || clockStopped s (fun c => match c with
        | .cellar k => k.val == cellarOf s.cfg off
        | _ => false)
    | .pantry d _ => clockStopped s (fun c => match c with
        | .pantry k => k.val == d
        | .mesh n => n == d || n == 32 + d
        | _ => false)
    | .nothing => false

/-- One access performed at its home, and counted there (R247, R459). -/
def performHome (s : State) (who : Who) (off : Nat) (op : AccOp) (ecc : Ecc) : State × Ans :=
  let s := if locOf off = .hbm then evictUpset s off else s
  let (t, a) := performAt s who off op ecc
  match locOf off, a with
  | .hbm, .refused => (t, a)
  | .hbm, .retry => (t, a)
  | .hbm, _ => ((homeEvents s who off op).foldl count t, a)
  | .pantry _ _, .refused => (t, a)
  | .pantry d o, _ => (countPantry t (occWho s who (32 + d) 0x020) d o 1, a)
  | _, _ => (t, a)

/-! ## The fair queue of a line (R227) -/

/-- The queue of a line. -/
def lineQueue (m : Memory) (line : Nat) : LineQueue := (m.queues.find? (fun q => q.line == line)).getD { line := line, last := 61, waiting := [] }

/-- The queue kept; an empty one is dropped once its turn is back at the start. -/
def putQueue (m : Memory) (q : LineQueue) : Memory :=
  let rest := m.queues.filter (fun x => x.line != q.line)
  { m with queues := if q.waiting.isEmpty then rest else rest ++ [q] }

/-- The list without its first element that satisfies p. -/
def eraseFirst {α : Type} (p : α → Bool) : List α → List α
  | [] => []
  | x :: xs => if p x then xs else x :: eraseFirst p xs

/-- The first element that satisfies p, in cyclic order after a given place among n. -/
def nextAfter (n last : Nat) (p : Nat → Bool) : Option Nat := ((List.range n).map (fun i => (last + 1 + i) % n)).find? p

/-- An access waits in its line's queue. -/
def joinLine (s : State) (x : Access) : State :=
  s.modMem (fun m => let q := lineQueue m (x.off / 64); putQueue m { q with waiting := q.waiting ++ [x] })

/-- The queue of a line without the access that it serves now. -/
def takeTurn (m : Memory) (line : Nat) (x : Access) : Memory :=
  let q := lineQueue m line
  putQueue m { q with last := x.source, waiting := eraseFirst (fun y => y == x) q.waiting }

/-- The source of a caller's accesses: a die, a Landing, the Porch, or the Cellar itself for the device (R227). -/
def sourceOf (s : State) : Who → Nat
  | .item r => match s.item r with
    | some i => match i.die, i.landing with
      | some d, _ => d % 32
      | none, some l => 32 + l % 12
      | none, none => 61
    | none => 61
  | .host _ => 60
  | _ => 61

/-- The accesses that wait at a line and whose turn comes before that of an access that a source brings now: they are performed, and their
answers wait to reach their callers; the first argument bounds their number (R227). -/
def awaitLine : Nat → State → Nat → Nat → State
  | 0, s, _, _ => s
  | n + 1, s, src, line =>
    let q := lineQueue s.memory line
    let own := q.waiting.any (fun x => x.source.val == src)
    match nextAfter 62 q.last.val (fun k => k == src || q.waiting.any (fun x => x.source.val == k)) with
    | some k =>
      if k = src ∧ own = false then s.modMem (fun m => putQueue m { lineQueue m line with last := Fin.ofNat 62 src })
      else match q.waiting.find? (fun x => x.source.val == k) with
        | some x =>
          let (t, a) := performHome (chargeRequest (s.modMem (fun m => takeTurn m line x)) x.who (accKind x.op) x.off (opBytes x.op)) x.who x.off x.op .clean
          awaitLine n (t.modMem (fun m => { m with served := m.served ++ [(x, a)] })) src line
        | none => s
    | none => s

/-- An access that a source brings to its home: it takes its turn in the line's queue. A refused one enters no queue (R205, R227). -/
def reachHome (s : State) (src : Nat) (who : Who) (off : Nat) (op : AccOp) (ecc : Ecc) : State × Ans :=
  let n := (lineQueue s.memory (off / 64)).waiting.length
  let s := if n = 0 ∨ homePermits s who (accKind op) off = false then s else awaitLine n s src (off / 64)
  performHome s who off op ecc

/-- The device's own read of a local range: the bytes, none where a line gives no data. -/
def deviceRead (s : State) (off n : Nat) : State × Option (List Byte) :=
  (cutLines off n).foldl (fun (acc : State × Option (List Byte)) p =>
    let (s', a) := reachHome acc.1 61 .device p.1 (.read p.2) .clean
    (s', match acc.2, a with
      | some bs, .data d => some (bs ++ d)
      | _, _ => none)) (s, some [])

end Sys2Proof.Machine
end

