-- ==== Sys2Proof/Machine/Fabric.lean ====
section
/-! DEFINITION. The fabric: packets and their headers (R273), routing (R281 to R283), the lanes of a port, its arbitration and
credits (R277, R278), and the flits it sends (R270, R271). -/

namespace Sys2Proof.Machine

/-! ## Packets -/

def opRead : Nat := 0x01
def opWrite : Nat := 0x02
def opAtomic : Nat := 0x03
def opPoison : Nat := 0x04
def opReadRsp : Nat := 0x10
def opWriteAck : Nat := 0x11
def opAtomicRsp : Nat := 0x12
def opRetry : Nat := 0x13
def opFault : Nat := 0x14
def opCollData : Nat := 0x20
def opCrushData : Nat := 0x21
def opMsg : Nat := 0x30

/-- The class of an opcode (Table 5 of 10_spejan.md): 0 REQ, 1 RSP, 2 COLL, 3 CTRL. -/
def opClass (op : Nat) : Nat := if op < 0x10 then 0 else if op < 0x20 then 1 else if op < 0x30 then 2 else 3

/-- A defined opcode. -/
def opDefined (op : Nat) : Bool :=
  [opRead, opWrite, opAtomic, opPoison, opReadRsp, opWriteAck, opAtomicRsp, opRetry, opFault, opCollData, opCrushData,
    opMsg].contains op

/-- Fields of a packet header (Table 4 of 10_spejan.md). -/
def pktDst (k : Packet) : Nat := bits k.w0 63 48
def pktSrc (k : Packet) : Nat := bits k.w0 47 32
def pktClass (k : Packet) : Nat := bits k.w0 29 28
def pktOp (k : Packet) : Nat := bits k.w0 27 22
def pktHops (k : Packet) : Nat := bits k.w0 21 16
def pktReq (k : Packet) : Nat := bits k.w0 15 0
def pktLines (k : Packet) : Nat := bits k.w1 63 58 + 1
def pktOff (k : Packet) : Nat := bits k.w1 47 0

/-- A packet with a header of the given fields. -/
def mkPacket (dst src op hops req lines off : Nat) (w2 w3 : W64) (data : List Byte) : Packet :=
  { w0 := wordOf [⟨48, 16, dst⟩, ⟨32, 16, src⟩, ⟨28, 2, opClass op⟩, ⟨22, 6, op⟩, ⟨16, 6, hops⟩, ⟨0, 16, req⟩]
    w1 := wordOf [⟨58, 6, lines - 1⟩, ⟨0, 48, off⟩]
    w2 := w2, w3 := w3, data := data }

/-- Hops a source sets (R276). -/
def hopLimit (s : State) : Nat := bits s.cfg.spejan 61 56

/-- The packet as it leaves a device: one hop fewer (R276). -/
def hopped (k : Packet) : Packet := if pktHops k = 0 then k else { k with w0 := k.w0 - BitVec.ofNat 64 (2 ^ 16) }

/-- The packet under another req_id (R275). -/
def withReq (k : Packet) (id : Nat) : Packet := { k with w0 := BitVec.ofNat 64 (k.w0.toNat / 65536 * 65536 + id % 65536) }

/-- The header of a packet obeys R274: a defined opcode, the class of its opcode, reserved fields 0. -/
def pktValid (k : Packet) : Bool :=
  opDefined (pktOp k) && bits k.w0 31 28 == opClass (pktOp k) && bits k.w1 57 48 == 0

/-- The mask word of the bytes that a mask list sets in one line. -/
def maskWord (mask : List Bool) : W64 :=
  BitVec.ofNat 64 (mask.foldr (fun b acc => b2n b + 2 * acc) 0)

/-- The mask list of a mask word. -/
def maskBits (w : W64) : List Bool := (List.range 64).map (fun i => w.getLsbD i)

/-- The flits of a packet: 208 bytes in the head flit and 240 in each further one (R273). -/
def flitCount (k : Packet) : Nat := 1 + ceilDiv (k.data.length - 208) 240

/-! ## Flits -/

/-- CRC-32C of one more byte, reflected (R270). -/
def crcByte (crc : Nat) (b : Byte) : Nat :=
  (List.range 8).foldl (fun c _ => if c % 2 = 1 then (c / 2) ^^^ 0x82F63B78 else c / 2) (crc ^^^ b.toNat)

/-- CRC-32C of a byte list (R270). -/
def crc32c (bs : List Byte) : BitVec 32 := BitVec.ofNat 32 (bs.foldl crcByte 0xFFFFFFFF ^^^ 0xFFFFFFFF)

/-- The check word of a flit: over the link word and the body. -/
def flitCrc (link : W64) (body : List Byte) : BitVec 32 := crc32c (leBytes 8 link.toNat ++ padTo 240 body)

/-- A flit with its check word. -/
def mkFlit (link : W64) (body : List Byte) : Flit :=
  { link := link, body := padTo 240 body, crc := flitCrc link body, tail := 0, fecOk := true }

/-- Bodies of a packet's flits: the header and 208 data bytes, then 240 data bytes each. -/
def flitBodies (k : Packet) : List (List Byte) :=
  (wordsBytes [k.w0, k.w1, k.w2, k.w3] ++ k.data.take 208) :: chunksOf 17 240 (k.data.drop 208)

/-- A credit return: the input lane, by class and lane, and the flits of credit (Table 3 of 10_spejan.md). -/
structure CreditReturn where
  cls : Nat
  lane : Nat
  count : Nat
deriving DecidableEq, Repr

/-- The credit return that the next flit carries: up to 255 flits of one input lane that owes any (R270, R277), 0 flits with none owed. DESIGN
CHOICE: it is the first such lane (notes/assumptions/99.md). -/
def creditReturn (p : Port) : CreditReturn := match (List.range 12).find? (fun i => p.owed.getD i 0 != 0) with
  | some i => ⟨i / 3, i % 3, Nat.min 255 (p.owed.getD i 0)⟩
  | none => ⟨0, 0, 0⟩

/-- The port once that return has left. -/
def creditSent (p : Port) : Port := let r := creditReturn p; { p with owed := p.owed.modify (3 * r.cls + r.lane) (fun n => n - r.count) }

/-- The fields that every link word carries: seq, ack and a credit return (Table 3 of 10_spejan.md). -/
def linkTail (seq ack : BitVec 12) (r : CreditReturn) : List Place :=
  [⟨36, 12, seq.toNat⟩, ⟨24, 12, ack.toNat⟩, ⟨22, 2, r.cls⟩, ⟨20, 2, r.lane⟩, ⟨12, 8, r.count⟩]

/-- The link word of a DATA flit (Table 3 of 10_spejan.md). -/
def dataLink (head last : Bool) (cls lane slots : Nat) (seq ack : BitVec 12) (r : CreditReturn) : W64 :=
  wordOf ([⟨60, 4, 1⟩, ⟨59, 1, b2n head⟩, ⟨58, 1, b2n last⟩, ⟨56, 2, cls⟩, ⟨54, 2, lane⟩, ⟨48, 4, slots - 1⟩] ++ linkTail seq ack r)

/-- The flits of the bodies of a packet with consecutive sequence numbers, each with the ack and credit return that are due when it is sent,
and the port after them. -/
def bodyFlits (cls lane : Nat) (head : Bool) (p : Port) : List (List Byte) → List (BitVec 12 × Flit) × Port
  | [] => ([], p)
  | b :: bs =>
    let f := mkFlit (dataLink head bs.isEmpty cls lane (ceilDiv b.length 16) p.txSeq (p.expect - 1) (creditReturn p)) b
    let (fs, q) := bodyFlits cls lane false { (creditSent p) with txSeq := p.txSeq + 1 } bs
    ((p.txSeq, f) :: fs, q)

/-- A flit of another type, whose seq is the next number that a DATA flit will take: IDLE and NAK have no body, TRAIN has that of Table 12
(R270, R271, R296). -/
def controlFlit (p : Port) (type : Nat) (body : List Byte) : Flit :=
  mkFlit (wordOf (⟨60, 4, type⟩ :: linkTail p.txSeq (p.expect - 1) (creditReturn p))) body

/-- A port sends a flit that carries no packet. -/
def Port.sendControl (p : Port) (type : Nat) (body : List Byte) : Port := { (creditSent p) with control := some (controlFlit p type body) }

/-- A flit time with nothing else to send: IDLE, with its ack and credit return (R270). -/
def Port.sendIdle (p : Port) : Port := p.sendControl 0 []

/-- A NAK, whose ack is the last good sequence number (R271). -/
def Port.sendNak (p : Port) : Port := p.sendControl 2 []

/-! ## Ports -/

/-- A port. -/
def State.port (s : State) (p : Nat) : Port := s.ports.getD p Port.cold

/-- A port changed. -/
def State.modPort (s : State) (p : Nat) (f : Port → Port) : State := { s with ports := s.ports.modify p f }

/-- A port in service. -/
def State.portUp (s : State) (p : Nat) : Bool := (s.port p).state == .up

/-- Index of a lane of a class among the twelve of a port (R277). -/
def laneIx (cls lane : Nat) : Nat := 3 * (cls % 4) + lane % 3

/-- The packet at the head of a source's queue on a lane. -/
def laneHead (p : Port) (cls lane source : Nat) : Option LanePacket :=
  p.queue.find? (fun x => x.cls == cls && x.lane == lane && x.source == source)

/-- A packet that takes part in arbitration: it heads its source's queue, its whole length has downstream credit and the
replay buffer has room (R271, R277, R278). -/
def laneReady (p : Port) (cls lane source : Nat) : Bool :=
  match laneHead p cls lane source with
  | some x => flitCount x.packet ≤ p.credits.getD (laneIx cls lane) 0 && p.replay.length + flitCount x.packet ≤ 1024
  | none => false

/-- The lane and source that the arbitration of an output port picks next: classes, then lanes in the order escape-0,
escape-1, main, then sources, each round-robin (R278). -/
def arbitrate (p : Port) : Option (Nat × Nat × Nat) :=
  let laneOk (cls lane : Nat) : Bool := (List.range 17).any (laneReady p cls lane)
  let clsOk (cls : Nat) : Bool := (List.range 3).any (laneOk cls)
  match nextAfter 4 p.turnClass clsOk with
  | none => none
  | some cls => match nextAfter 3 (p.turnLane.getD cls 0) (laneOk cls) with
    | none => none
    | some lane => (nextAfter 17 (p.turnSource.getD (laneIx cls lane) 16) (laneReady p cls lane)).map (fun src => (cls, lane, src))

/-- One packet sent on a port: its flits enter the replay buffer, credits fall, the turns move (R271, R277, R278). -/
def sendOne (now : Nat) (p : Port) : Port :=
  match arbitrate p with
  | none => p
  | some (cls, lane, src) => match laneHead p cls lane src with
    | none => p
    | some x =>
      let (fs, p) := bodyFlits cls lane true p (flitBodies x.packet)
      let queue := eraseFirst (fun y => y == x) p.queue
      { p with
        queue := queue.map (fun y => if y.cls = cls ∧ y.lane = lane ∧ y.source = src then { y with since := now } else y)
        replay := p.replay ++ fs
        credits := p.credits.modify (laneIx cls lane) (fun c => c - fs.length)
        turnClass := cls
        turnLane := p.turnLane.set cls lane
        turnSource := p.turnSource.set (laneIx cls lane) src }

/-- Packets sent while the arbitration finds one; the first argument bounds their number. -/
def sendAll (now : Nat) : Nat → Port → Port
  | 0, p => p
  | n + 1, p => if (arbitrate p).isSome then sendAll now n (sendOne now p) else p

/-- An occurrence on the Spejan die of a port, which is no partition's (R461). -/
def spejanOcc (s : State) (p event weight : Nat) : Occ := { Occ.firmware (88 + p / 2) event s.now with weight := weight }

/-- Flits that leave an input lane are owed to its sender as credit (R277). -/
def owe (s : State) (p cls lane flits : Nat) : State := s.modPort p (fun q => { q with owed := q.owed.modify (laneIx cls lane) (fun n => n + flits) })

/-- The credit of the flits of a packet that leaves its input lane, unless a training has granted that lane's full credits since it came
(R277, R290). -/
def owePacket (s : State) (x : LanePacket) : State :=
  if x.source < 16 ∧ (s.port x.source).epoch = x.epoch then owe s x.source x.cls x.inLane (flitCount x.packet) else s

/-- Transit packets that a port no longer holds back have left their input lanes (R277, R279). -/
def oweMoved (s : State) (before after : List LanePacket) : State :=
  (before.foldl (fun (acc : State × List LanePacket) x =>
    if acc.2.contains x then (acc.1, eraseFirst (fun y => y == x) acc.2)
    else (owePacket acc.1 x, acc.2)) (s, after)).1

/-- A port in service, or one that is being disabled, sends what its credits allow (R278, R291); its DATA flits are counted. A transit
packet leaves its input lane once the output lane has credit for its whole length (R279). -/
def State.pump (s : State) (p : Nat) : State :=
  if s.portUp p || (s.port p).state == .disabling then
    let t := s.modPort p (fun q => sendAll s.now q.queue.length q)
    let n := ((t.port p).txSeq - (s.port p).txSeq).toNat
    if n = 0 then t
    else
      let u := oweMoved t ((s.port p).queue.map (fun x => { x with since := 0 })) ((t.port p).queue.map (fun x => { x with since := 0 }))
      count u (spejanOcc u p 0x050 n)
  else s

/-! ## Routing -/

/-- The routing entry for a device (R281). -/
def routeEntry (s : State) (d : Nat) : BitVec 32 :=
  match s.cfg.routes.find? (fun r => r.1 == d) with
  | some r => r.2
  | none => 0

/-- A port that a packet from an arrival port may leave through: UP and not the one it came by. -/
def usable (s : State) (arrival : Option Nat) (p : Nat) : Bool := s.portUp p && arrival != some p

/-- Credits of a lane less those reserved for packets committed to the port and not yet sent (R282). -/
def freeCredits (p : Port) (cls lane : Nat) : Int :=
  (p.credits.getD (laneIx cls lane) 0 : Int)
    - ((p.queue.filter (fun x => x.cls == cls && x.lane == lane)).map (fun x => flitCount x.packet)).sum

/-- The main choice with the most free credits on the class's main lane, ties to the lowest port (R282). -/
def mainChoice (s : State) (arrival : Option Nat) (d cls : Nat) : Option Nat :=
  let e := routeEntry s d
  ((List.range 16).filter (fun p => e.getLsbD (16 + p) && usable s arrival p)).foldl (fun best p => match best with
    | none => some p
    | some b => if freeCredits (s.port b) cls 0 < freeCredits (s.port p) cls 0 then some p else some b) none

/-- The escape choice: escape_port, else alt_port (R282). -/
def escapeChoice (s : State) (arrival : Option Nat) (d : Nat) : Option Nat :=
  let e := (routeEntry s d).toNat
  let ep := e / 2 ^ 12 % 16
  let ap := e / 2 ^ 8 % 16
  if e / 2 ^ 7 % 2 = 1 ∧ usable s arrival ep then some ep
  else if e / 2 ^ 6 % 2 = 1 ∧ usable s arrival ap then some ap
  else none

/-- SPEJAN_PORT_CFG of a port. -/
def portCfg (s : State) (p : Nat) : W64 := s.cfg.portCfg.getD p 0

/-- The escape lane of a packet leaving through a port (R283). -/
def escapeLane (s : State) (arrival : Option (Nat × Nat)) (p : Nat) : Nat :=
  let c := portCfg s p
  let dim := bits c 39 37
  let stays := match arrival with
    | some (q, lane) => lane == 2 && bits (portCfg s q) 39 37 == dim
    | none => false
  if bitAt c 36 || stays then 2 else 1

/-- The Landing whose hub carries the mesh traffic of a port's Spejan die (Table 2 of 01_device.md). -/
def spejanHub (p : Nat) : Nat := [1, 2, 3, 4, 7, 8, 9, 10].getD (p / 2) 0

/-- The two ports of one Spejan die: transit between them stays off the mesh (R279). -/
def sameDie (p q : Nat) : Bool := p / 2 == q / 2

/-- The virtual network of a class on the mesh (R279). -/
def meshNet (cls : Nat) : MeshNet := if cls = 0 then .request else if cls = 1 then .response else .collective

/-- The network on which a packet crosses the mesh from one port to another: none between the ports of one Spejan die (R279). -/
def crossing (source p cls : Nat) : Option MeshNet := if source < 16 ∧ sameDie source p = false then some (meshNet cls) else none

/-- A packet put on a lane of an output port. -/
def enqueue (s : State) (p : Nat) (x : LanePacket) : State :=
  (s.modPort p (fun q => { q with queue := q.queue ++ [{ x with since := s.now, mesh := crossing x.source p x.cls }] })).pump p

/-- Nothing passes between a port and the mesh: its Landing's hub or every core clock has stopped (R417). -/
def dieCut (s : State) (p : Nat) : Bool := s.hearth.stopped.contains .refCore || hubStopped s (spejanHub p)

/-- A way from an arrival port, or from this device itself, to an output port crosses the mesh where a lost clock has cut it (R417). -/
def meshCut (s : State) (arrival : Option Nat) (p : Nat) : Bool := match arrival with
  | some q => !sameDie q p && (dieCut s q || dieCut s p)
  | none => dieCut s p

/-- The output port of a packet by R282, and whether it takes an escape lane; one on an escape lane already stays on escape lanes (R280). -/
def outPort (s : State) (arrival : Option Nat) (escaped : Bool) (k : Packet) : Option (Nat × Bool) :=
  let escape := (escapeChoice s arrival (pktDst k)).map (fun p => (p, true))
  if escaped then escape
  else match mainChoice s arrival (pktDst k) (pktClass k) with
    | some p => some (p, false)
    | none => escape

/-- A packet routed by R282 and R283, from a local source or from the port and lane it arrived on, in a training of that port; none where no
choice remains. Where a stopped clock has cut its way it is lost (R417). -/
def routeSince (s : State) (arrival : Option (Nat × Nat)) (epoch : Nat) (escaped : Bool) (k : Packet) : Option State :=
  let from_ := arrival.map Prod.fst
  let cls := pktClass k
  let inLane := (arrival.map Prod.snd).getD 0
  (outPort s from_ (escaped || inLane != 0) k).map (fun (p, escape) =>
    let x : LanePacket := { cls := cls, lane := if escape then escapeLane s (if inLane = 0 then none else arrival) p else 0,
                            source := from_.getD 16, inLane := inLane, epoch := epoch, mesh := none, since := s.now, packet := k }
    if meshCut s from_ p then owePacket s x else enqueue s p x)

/-- A packet routed as it arrives, or as this device sends it. -/
def routeLane (s : State) (arrival : Option (Nat × Nat)) (escaped : Bool) (k : Packet) : Option State :=
  routeSince s arrival (arrival.elim 0 (fun a => (s.port a.1).epoch)) escaped k

/-- A packet of this device, or one in transit, leaves it (R276, R282); none where no choice remains. -/
def routePacket (s : State) (arrival : Option (Nat × Nat)) (k : Packet) : Option State := routeLane s arrival false (hopped k)

/-- The port at which a packet that finds no route is counted (R282): the one that it came by. DESIGN CHOICE: port 0 for a local one
(notes/assumptions/99.md). -/
def discardAt (s : State) (p : Nat) : State := s.modPort p (fun q => { q with pktDiscards := satInc q.pktDiscards })

/-- A packet of this device leaves; where no route remains it is discarded and counted, and its requester learns of it by R275 (R282). -/
def State.sendPacket (s : State) (k : Packet) : State := match routePacket s none k with
  | some t => t
  | none => discardAt s 0

/-- A packet for a device has a route now (R282). -/
def hasRoute (s : State) (k : Packet) : Bool := (mainChoice s none (pktDst k) (pktClass k)).isSome || (escapeChoice s none (pktDst k)).isSome

end Sys2Proof.Machine
end

