-- ==== Sys2Proof/Machine/Access.lean ====
section
/-! DEFINITION. Accesses of a context: requests to other homes (R247, R275), host windows (R243, R336), the cache partitions
(R209 to R211), and reads and writes of an item (R248 to R254). -/

namespace Sys2Proof.Machine

/-! ## Lomium addresses -/

/-- Device field and local offset of an address (R241). -/
def devOf (a : Nat) : Nat := a / 2 ^ 48
def offOf (a : Nat) : Nat := a % 2 ^ 48

/-- The device field of the host windows (R243). -/
def hostDev : Nat := 0xFFFF

/-- A host window record. -/
def State.hostWindow (s : State) (w : Nat) : Option HostWindow := s.cfg.hostWindows.find? (fun h => h.index == w)

/-- Window and byte offset of a host-window address. -/
def winOf (a : Nat) : Nat := offOf a / 2 ^ 44
def winOff (a : Nat) : Nat := a % 2 ^ 44

/-- A device field that names nothing (R241). -/
def namelessDev : Nat := 0x8000

/-- An offset of a device's map that names nothing (R244). -/
def emptyOffset : Nat := 0x800000000000

/-- Where a row of n bytes lies that an index places at an offset from a base: one that would run past the end of its device, or of its host
window, is capped there and reaches nothing (R245): an offset that its device maps to nothing, or a device field that names nothing. -/
def placedAt (hosts : List HostWindow) (base off n : Nat) : Nat :=
  if devOf base = hostDev then
    let room := match hosts.find? (fun h => h.index == winOf base) with
      | some w => w.size - winOff base
      | none => 0
    if off + n ≤ room then base + off else namelessDev * 2 ^ 48
  else if off + n ≤ 2 ^ 48 - offOf base then base + off else devOf base * 2 ^ 48 + emptyOffset

/-- A local Lomium address. -/
def isLocal (s : State) (a : Nat) : Bool := devOf a == s.deviceNumber
def isHost (a : Nat) : Bool := devOf a == hostDev
def isNameless (a : Nat) : Bool := 0x8000 ≤ devOf a && !isHost a

/-! ## Requests -/

/-- A compare-swap of the device itself on a version record (R125, R246). -/
def Purpose.onRecord : Purpose → Bool
  | .pin _ _ _ | .ownPin _ _ _ _ | .unpin _ _ _ | .claim _ _ _ | .unclaim _ _ _ | .commit _ _ _ => true
  | _ => false

/-- A Spejan request that is outstanding under a req_id: one that has left the device (R275). -/
def onSpejan (s : State) (r : Req) : Bool := r.qp.isNone && r.sent && !r.lost && pktDst r.packet != s.deviceNumber

/-- A free req_id, the first one from the next number on; none while all 65,536 are in use (R275). -/
def freeId (s : State) : Option Nat :=
  let busy := (s.reqs.filter (onSpejan s)).map (fun r => pktReq r.packet)
  ((List.range (busy.length + 1)).map (fun i => (s.nextReq + i) % 65536)).find? (fun id => !busy.contains id)

/-- A new request: its packet leaves at once, or waits for a free req_id; the request's number, none when no route reaches its
home (R275, R282). A packet to the device itself is an access held for reissue (R232). -/
def State.request (s : State) (item : Option ItemRef) (ctx : Option Nat) (p : Purpose) (mk : Nat → Packet) : State × Option Nat :=
  let id := s.nextReq
  let add (t : State) (k : Packet) (sent : Bool) : State :=
    { t with reqs := t.reqs ++ [{ id := id, qp := none, item := item, ctx := ctx, purpose := p, packet := k, issued := t.now,
                                  sent := sent, retry := false, lost := false, imm := none, psn := 0, psns := 0, out := none }], nextReq := id + 1 }
  if pktDst (mk 0) = s.deviceNumber then (add s (mk 0) true, some id)
  else if hasRoute s (mk 0) = false then (s, none)
  else match freeId s with
    | some w => match routePacket s none (mk w) with
      | some t => (add t (mk w) true, some id)
      | none => (s, none)
    | none => (add s (mk 0) false, some id)

/-- A packet of a request leaves. One for which no route is left any more is discarded and counted, and its request is lost: it is reported
unreachable (R282). -/
def sendFor (s : State) (id : Nat) (k : Packet) : State :=
  let put (s : State) (lost : Bool) : State := { s with reqs := s.reqs.map (fun x =>
    if x.id = id then { x with packet := k, sent := true, retry := false, lost := lost, issued := s.now } else x) }
  match routePacket s none k with
  | some t => put t false
  | none => put (discardAt s 0) true

/-- A request removed; the oldest request that waits for a req_id is sent once one is free (R275). -/
def State.dropReq (s : State) (id : Nat) : State :=
  let s := { s with reqs := s.reqs.filter (fun r => r.id != id) }
  match s.reqs.find? (fun r => r.qp.isNone && !r.sent), freeId s with
  | some r, some w => sendFor s r.id (withReq r.packet w)
  | _, _ => s

/-- The WRITE packet of a contiguous byte range that lies in one 4,096-byte block (R273). -/
def writePacket (s : State) (a : Nat) (bs : List Byte) (req : Nat) : Packet :=
  let off := offOf a
  let lead := off % 64
  let lines := (lead + bs.length + 63) / 64
  let mask (i : Nat) : W64 := maskWord ((List.range 64).map (fun j => lead ≤ 64 * i + j && 64 * i + j < lead + bs.length))
  mkPacket (devOf a) s.deviceNumber opWrite (hopLimit s) req lines (off / 64 * 64) (mask 0) (mask (lines - 1))
    (padTo (64 * lines) (List.replicate lead 0 ++ bs))

/-- The WRITE packet of one line under a byte mask. -/
def maskedPacket (s : State) (a : Nat) (bs : List Byte) (mask : W64) (req : Nat) : Packet :=
  mkPacket (devOf a) s.deviceNumber opWrite (hopLimit s) req 1 (offOf a / 64 * 64) mask mask (padTo 64 bs)

/-- The READ packet of a range of whole lines in one 4,096-byte block. -/
def readPacket (s : State) (a lines req : Nat) : Packet :=
  mkPacket (devOf a) s.deviceNumber opRead (hopLimit s) req lines (offOf a / 64 * 64) 0 0 []

/-- The ATOMIC packet: for CAS the compare value stands first (Table 5 of 10_spejan.md). -/
def atomicPacket (s : State) (a code v c req : Nat) : Packet :=
  let n := atomicBytes code
  mkPacket (devOf a) s.deviceNumber opAtomic (hopLimit s) req 1 (offOf a) (BitVec.ofNat 64 code) 0
    ((if code / 2 = 9 then leBytes n c else []) ++ leBytes n v)

/-- The POISON packet of a line (R503). -/
def poisonPacket (s : State) (a req : Nat) : Packet :=
  mkPacket (devOf a) s.deviceNumber opPoison (hopLimit s) req 1 (offOf a / 64 * 64) 0 0 []

/-- The pieces of a range at the 4,096-byte boundaries: address and length of each (R273). -/
def cutBlocks (a n : Nat) : List (Nat × Nat) :=
  if n = 0 then []
  else (List.range ((a + n - 1) / 4096 - a / 4096 + 1)).map (fun i =>
    let b := Nat.max a ((a / 4096 + i) * 4096)
    (b, Nat.min (a + n) ((a / 4096 + i + 1) * 4096) - b))

/-! ## Codes of answers (R173, R205, R220, R212, R282) -/

def codeHbm : Nat := 0x80
def codePantry : Nat := 0x81
def codePoison : Nat := 0x82
def codeUnreachable : Nat := 0x83
def codeRemoteFault : Nat := 0x84

/-- The Ledger code of an answer that fails an item. -/
def ansCode : Ans → Option Nat
  | .refused => some codeRemoteFault
  | .poisoned => some codePoison
  | .uncorrectable p => some (if p then codePantry else codeHbm)
  | _ => none

/-! ## Writes to a home -/

/-- What an issued write became: the state, the requests that are outstanding for it, the code it failed with. -/
structure Issued where
  s : State
  ids : List Nat
  code : Option Nat

/-- One write issued to its home: performed at once at a local home, sent otherwise; a local RETRY is held for reissue
(R232, R247). -/
def issueWrite (s : State) (item : Option ItemRef) (ctx : Nat) (p : Purpose) (a : Nat) (bs : List Byte) : Issued :=
  let who : Who := .item (item.getD ⟨ctx, 0⟩)
  if isLocal s a then
    let s := chargeRequest s who .wr (offOf a) bs.length
    (cutLines (offOf a) bs.length).foldl (fun (acc : Issued) c =>
      let part := (bs.drop (c.1 - offOf a)).take c.2
      let (t, ans) := reachHome acc.s (sourceOf acc.s who) who c.1 (.write part (List.replicate c.2 true)) .clean
      match ans with
      | .retry =>
        let (t, id) := t.request item (some ctx) p (fun r => writePacket s (a - offOf a + c.1) part r)
        { s := t, ids := acc.ids ++ id.toList, code := acc.code }
      | ans => { s := t, ids := acc.ids, code := acc.code <|> ansCode ans }) { s := s, ids := [], code := none }
  else if isNameless a then { s := s, ids := [], code := some codeRemoteFault }
  else if isHost a then
    match s.hostWindow (winOf a) with
    | some w =>
      if w.size < winOff a + bs.length then { s := s, ids := [], code := some codeRemoteFault }
      else if s.qpUp w.qp then
        { s := s.sendHost w.qp item (some ctx) p bs.length (.write w.qp (w.base + winOff a) w.rkey bs) none, ids := [s.nextReq],
          code := none }
      else { s := s, ids := [], code := some codeUnreachable }
    | none => { s := s, ids := [], code := some codeRemoteFault }
  else
    (cutBlocks a bs.length).foldl (fun (acc : Issued) c =>
      match acc.s.request item (some ctx) p (fun r => writePacket s c.1 ((bs.drop (c.1 - a)).take c.2) r) with
      | (t, some id) => { s := t, ids := acc.ids ++ [id], code := acc.code }
      | (t, none) => { s := t, ids := acc.ids, code := acc.code <|> some codeUnreachable }) { s := s, ids := [], code := none }

/-- One line written under a byte mask: a write-back from the cache partition of a die. -/
def issueMasked (s : State) (die ctx : Nat) (a : Nat) (bs : List Byte) (mask : W64) : Issued :=
  if isLocal s a then
    let who : Who := .item ⟨ctx, 0⟩
    let (t, ans) := reachHome (chargeRequest s who .wr (offOf a) bs.length) (die % 32) who (offOf a) (.write bs (maskBits mask)) .clean
    match ans with
    | .retry =>
      let (t, id) := t.request none (some ctx) .write (maskedPacket s a bs mask)
      { s := t, ids := id.toList, code := none }
    | ans => { s := t, ids := [], code := ansCode ans }
  else match s.request none (some ctx) .write (maskedPacket s a bs mask) with
    | (t, some id) => { s := t, ids := [id], code := none }
    | (t, none) => { s := t, ids := [], code := some codeUnreachable }

/-- A write of the device itself to an address of its own held for reissue, as a packet to its home (R232). -/
def holdWrite (s : State) (a : Nat) (bs : List Byte) : State := (s.request none none .held (writePacket s a bs)).1

/-- The device's own write to a local range: Ledger records (R246). It is held to the map alone, and a line that answers RETRY is held for
reissue, never dropped (R232). -/
def deviceWrite (s : State) (off : Nat) (bs : List Byte) : State :=
  (cutLines off bs.length).foldl (fun s p =>
    let part := (bs.drop (p.1 - off)).take p.2
    match reachHome s 61 .device p.1 (.write part (List.replicate p.2 true)) .clean with
    | (t, .retry) => holdWrite t (t.ownAddr p.1) part
    | (t, _) => t) s

/-- A write of the device itself to a local range is held for reissue. -/
def writeHeld (s : State) (off n : Nat) : Bool :=
  s.reqs.any (fun q => q.qp.isNone && q.purpose == .held && pktOff q.packet < off + n && off < pktOff q.packet + 64 * pktLines q.packet)

/-- One line poisoned at its home on behalf of a context: local, or by a POISON packet (R172). -/
def issuePoison (s : State) (item : Option ItemRef) (ctx a : Nat) : Issued :=
  if isHost a then { s := s, ids := [], code := none }
  else if isLocal s a then
    match reachHome s 61 .device (offOf a / 64 * 64) .poison .clean with
    | (t, .retry) =>
      let (t, id) := t.request item (some ctx) .poison (poisonPacket s a)
      { s := t, ids := id.toList, code := none }
    | (t, _) => { s := t, ids := [], code := none }
  else match s.request item (some ctx) .poison (poisonPacket s a) with
    | (t, some id) => { s := t, ids := [id], code := none }
    | (t, none) => { s := t, ids := [], code := some codeUnreachable }

/-! ## Cache partitions (R209 to R211) -/

/-- The allocations of a die are made: no bytes that they may need are still being released (R213). -/
def allocMade (s : State) (d : Nat) : Bool := (s.memory.releasing.getD d (0, false)).1 == 0

/-- PANTRY_ALLOC of a context. -/
def pantryAlloc (s : State) (c : Nat) : W64 :=
  match s.ctxCfg c with
  | some k => k.pantryAlloc
  | none => 0

/-- Sets of a context's cache partition. -/
def cacheSets (s : State) (c : Nat) : Nat := 1024 * bits (pantryAlloc s c) 39 30

/-- The treatment of an access: 0 NONE, 1 READ, 2 WRITE_BACK (R209). -/
def cachePolicy (s : State) (c a : Nat) : Nat :=
  if cacheSets s c = 0 then 0
  else if isHost a then 0
  else if isLocal s a then match regionAt s.cfg (offOf a) with
    | some r => r.cache
    | none => 0
  else bits (pantryAlloc s c) 41 40

/-- The set of a line (R209). -/
def cacheSet (s : State) (c line : Nat) : Nat := ((line % 2 ^ 42) ^^^ (line / 2 ^ 42 * 2 ^ 10)) % Nat.max 1 (cacheSets s c)

/-- A line in a context's cache partition on a die. -/
def cacheFind (s : State) (d c line : Nat) : Option CacheLine :=
  s.memory.cache.find? (fun l => l.die == d && l.ctx == c && l.line == line)

/-- The cache with a line replaced. -/
def putCache (m : Memory) (x : CacheLine) : Memory :=
  { m with cache := upsert (fun l => l.die == x.die && l.ctx == x.ctx && l.line == x.line) x m.cache }

/-- The cache without a line. -/
def dropCache (m : Memory) (x : CacheLine) : Memory :=
  { m with cache := m.cache.filter (fun l => !(l.die == x.die && l.ctx == x.ctx && l.line == x.line)) }

/-- Bytes of a cached line. -/
def lineBytes (l : CacheLine) : List Byte := leBytes 64 l.data.toNat

/-- A read of a cached line finds its error: the line is poisoned and an error record is written. The spec gives a cached line no place in its
Pantry, so the record's offset is a free value (R212; notes/assumptions/5.md). -/
def foundCached (s : State) (item : Option ItemRef) (l : CacheLine) : State × CacheLine :=
  let (k, s) := s.takeFree
  let bad := { l with poison := true, upset := false }
  (writeError (s.modMem (fun m => putCache m bad))
    { cls := 0x02, sev := sevItem, unit := l.die, item := item, ctx := none, detail := [Config.arbitrary k] }, bad)

/-- A dirty line written back with exactly its masked bytes, and left clean; its poison goes with it, that of an error found now too (R210,
R212). -/
def writeBack (s : State) (l : CacheLine) : Issued :=
  let (s, l) := if l.upset then foundCached s none l else (s, l)
  let a := 64 * l.line
  let s1 := s.modMem (fun m => putCache m { l with dirty := 0, owners := [] })
  let w := issueMasked s1 l.die l.ctx a (lineBytes l) l.dirty
  if l.poison then
    let p := issuePoison w.s none l.ctx a
    { s := p.s, ids := w.ids ++ p.ids, code := w.code <|> p.code }
  else w

/-- Lines written back one after another. -/
def writeBackAll (s : State) (ls : List CacheLine) : Issued :=
  ls.foldl (fun (acc : Issued) l =>
    let w := writeBack acc.s l
    { s := w.s, ids := acc.ids ++ w.ids, code := acc.code <|> w.code }) { s := s, ids := [], code := none }

/-- Room made for a line: a full set of 16 ways loses its least recently used line, written back first when dirty. -/
def makeRoom (s : State) (d c line : Nat) : State :=
  let ways := s.memory.cache.filter (fun l => l.die == d && l.ctx == c && cacheSet s c l.line == cacheSet s c line)
  if ways.length < 16 ∨ (cacheFind s d c line).isSome then s
  else match minOn CacheLine.stamp ways with
    | some v =>
      let t := if v.dirty = 0 then s else (writeBack s v).s
      t.modMem (fun m => dropCache m v)
    | none => s

/-- Clean copies of lines invalidated: a line with no dirty byte goes whole, a dirty one keeps only its dirty bytes (R211). -/
def invalidateClean (s : State) (p : CacheLine → Bool) : State :=
  s.modMem (fun m => { m with cache := (m.cache.filter (fun l => !(p l && l.dirty == 0))).map (fun l =>
    if p l then { l with valid := l.dirty } else l) })

/-- Lines of a context's partition that a byte range touches; every line for the whole partition. -/
def inRange (c : Nat) (range : Option (Nat × Nat)) (l : CacheLine) : Bool :=
  l.ctx == c && match range with
    | none => true
    | some (a, n) => a < 64 * (l.line + 1) && 64 * l.line < a + n

/-- An acquire over a range, or over the whole partition, on every die (R211, R259). -/
def acquire (s : State) (c : Nat) (range : Option (Nat × Nat)) : State := invalidateClean s (inRange c range)

/-- Bytes merged into a cached line at an offset within it, marked valid, and dirty where asked for an item. -/
def mergeLine (l : CacheLine) (at_ : Nat) (bs : List Byte) (dirty : Option ItemRef) (stamp : Nat) : CacheLine :=
  let mask := (List.range 64).map (fun i => at_ ≤ i && i < at_ + bs.length)
  let full := padTo 64 (List.replicate at_ 0 ++ bs)
  let w := maskWord mask
  { l with
    data := BitVec.ofNat 512 (leNat (mergeMask (lineBytes l) full mask))
    valid := l.valid ||| w
    dirty := if dirty.isSome then l.dirty ||| w else l.dirty
    owners := match dirty with
      | some r => if l.owners.contains r then l.owners else l.owners ++ [r]
      | none => l.owners
    stamp := stamp }

/-- An empty line. -/
def emptyLine (d c line : Nat) : CacheLine :=
  { die := d, ctx := c, line := line, data := 0, valid := 0, dirty := 0, stamp := 0, owners := [], poison := false, upset := false }

/-- The valid bytes of a line cover a part of it. -/
def coversPart (l : CacheLine) (at_ n : Nat) : Bool := (List.range n).all (fun i => l.valid.getLsbD (at_ + i))

/-! ## Reads of an item -/

/-- What a read of an item gives. -/
inductive Rd where
  | ok (bs : List Byte)
  | wait
  | fail (code : Nat)
deriving DecidableEq, Repr

/-- The item's inbound bytes hold a range of an address (bytes that a READ_RSP or the host returned). -/
def inboundHas (it : Item) (a n : Nat) : Bool :=
  let near := it.inbound.filter (fun c => a ≤ c.1 && c.1 < a + n)
  (List.range n).all (fun i => near.any (fun c => c.1 == a + i))

/-- Bytes of the item's inbound data. -/
def inboundRead (it : Item) (a n : Nat) : List Byte :=
  let near := it.inbound.filter (fun c => a ≤ c.1 && c.1 < a + n)
  (List.range n).map (fun i => match near.find? (fun c => c.1 == a + i) with
    | some c => c.2
    | none => 0)

/-- A read request of the item that covers an address is outstanding. -/
def readPending (s : State) (r : ItemRef) (a : Nat) : Bool :=
  s.reqs.any (fun q => q.item == some r && match q.purpose with
    | .read b n => b ≤ a && a < b + n
    | _ => false)

/-- One line's 64 bytes from its home for an item: from the item's inbound data once they have come, else performed at once at a local
home, where a RETRY is held for reissue (R232, R250). The item keeps them until the read that they are part of is complete. -/
def fetchLine (s : State) (r : ItemRef) (a : Nat) : State × Rd :=
  let base := a / 64 * 64
  match s.item r with
  | none => (s, .wait)
  | some it =>
    if inboundHas it base 64 then (s, .ok (inboundRead it base 64))
    else if isLocal s a ∧ readPending s r base = false then
      let (t, ans) := reachHome s (sourceOf s (.item r)) (.item r) (offOf base) (.read 64) .clean
      match ans with
      | .data bs => (t.modItem r (fun i => { i with inbound := i.inbound ++ (List.range 64).map (fun j => (base + j, bs.getD j 0)) }), .ok bs)
      | .retry => ((t.request (some r) (some r.ctx) (.read base 64) (readPacket s base 1)).1, .wait)
      | ans => match ansCode ans with
        | some c => (t, .fail c)
        | none => (t, .wait)
    else (s, .wait)

/-- A part of a line of a host window: exactly its bytes, once they have come (R336). -/
def hostPart (s : State) (r : ItemRef) (a n : Nat) : State × Rd := match s.item r with
  | some it => (s, if inboundHas it a n then .ok (inboundRead it a n) else .wait)
  | none => (s, .wait)

/-- CACHE_HIT or CACHE_MISS of an item's read in the cache partition of a die. -/
def countCache (s : State) (r : ItemRef) (d line : Nat) (hit : Bool) : State :=
  count s { Occ.ofItem s r (32 + d) (if hit then 0x021 else 0x022) r.ctx s.now with lomium := some (64 * line) }

/-- A part of one line read by an item through the cache partition of a die, or at its home when no die is given or its allocation there is
not yet made (R209, R213). -/
def readLine (s : State) (r : ItemRef) (die : Option Nat) (a n : Nat) : State × Rd :=
  let die := die.filter (allocMade s)
  let line := a / 64
  let pol := cachePolicy s r.ctx a
  let take (bs : List Byte) : List Byte := (bs.drop (a % 64)).take n
  if isHost a then hostPart s r a n
  else match die with
  | none =>
    let (t, rd) := fetchLine s r a
    (t, match rd with | .ok bs => .ok (take bs) | x => x)
  | some d => match cacheFind s d r.ctx line with
    | some l =>
      if l.poison then (s, .fail codePoison)
      else if l.upset then ((foundCached s (some r) l).1, .fail codePantry)
      else if pol = 0 ∧ l.dirty = 0 then
        let (t, rd) := fetchLine (s.modMem (fun m => dropCache m l)) r a
        (t, match rd with | .ok bs => .ok (take bs) | x => x)
      else if coversPart l (a % 64) n then
        (countCache (s.modMem (fun m => { putCache m { l with stamp := m.stamp } with stamp := m.stamp + 1 })) r d line true,
          .ok (take (lineBytes l)))
      else
        let (t, rd) := fetchLine s r a
        match rd with
        | .ok bs =>
          let full := { mergeLine { l with data := BitVec.ofNat 512 (leNat (mergeMask bs (lineBytes l) (maskBits l.dirty))),
                                           valid := BitVec.allOnes 64 } 0 [] none s.memory.stamp with dirty := l.dirty }
          (countCache (t.modMem (fun m => { putCache m full with stamp := m.stamp + 1 })) r d line false, .ok (take (lineBytes full)))
        | x => (t, x)
    | none =>
      let (t, rd) := fetchLine s r a
      match rd with
      | .ok bs =>
        if pol = 0 then (t, .ok (take bs))
        else
          let t := makeRoom t d r.ctx line
          (countCache (t.modMem (fun m => { putCache m (mergeLine (emptyLine d r.ctx line) 0 bs none m.stamp) with stamp := m.stamp + 1 }))
            r d line false, .ok (take bs))
      | x => (t, x)

/-- Read requests issued for the lines of a range that have yet to come from another home (R273, R336). -/
def requestLines (s : State) (r : ItemRef) (a n : Nat) : State × Option Nat :=
  if isLocal s a then (s, none)
  else if isNameless a then (s, some codeRemoteFault)
  else if isHost a then
    match s.item r, s.hostWindow (winOf a) with
    | some it, some w =>
      if w.size < winOff a + n then (s, some codeRemoteFault)
      else if inboundHas it a n || readPending s r a then (s, none)
      else if s.qpUp w.qp then
        (s.sendHost w.qp (some r) (some r.ctx) (.read a n) n (.read w.qp (w.base + winOff a) w.rkey n) none, none)
      else (s, some codeUnreachable)
    | _, _ => (s, some codeRemoteFault)
  else
    (cutBlocks (a / 64 * 64) ((a + n + 63) / 64 * 64 - a / 64 * 64)).foldl (fun (acc : State × Option Nat) c =>
      match acc.1.item r with
      | some it =>
        if inboundHas it c.1 c.2 || readPending acc.1 r c.1 then acc
        else match acc.1.request (some r) (some r.ctx) (.read c.1 c.2) (readPacket s c.1 (c.2 / 64)) with
          | (t, some _) => (t, acc.2)
          | (t, none) => (t, acc.2 <|> some codeUnreachable)
      | none => acc) (s, none)

/-- A part of a line that has to be read at its home: the cache partition of the die does not hold its bytes, or may not serve them
(R209). -/
def readsHome (s : State) (r : ItemRef) (die : Option Nat) (a n : Nat) : Bool := match die.filter (allocMade s) with
  | none => true
  | some d => match cacheFind s d r.ctx (a / 64) with
    | some l => !l.poison && ((cachePolicy s r.ctx a == 0 && l.dirty == 0) || !coversPart l (a % 64) n)
    | none => true

/-- The runs of neighbouring lines of a range that have to be read at their home: address and length of each. -/
def homeRuns (s : State) (r : ItemRef) (die : Option Nat) (a n : Nat) : List (Nat × Nat) :=
  ((cutLines a n).filter (fun c => readsHome s r die c.1 c.2)).foldl (fun acc c => match acc.getLast? with
    | some x => if x.1 + x.2 = c.1 then acc.dropLast ++ [(x.1, x.2 + c.2)] else acc ++ [c]
    | none => [c]) []

/-- Local lines of a range that a complete read has used: the next read performs its own accesses. -/
def forgetLocal (s : State) (r : ItemRef) (a n : Nat) : State :=
  if isLocal s a then s.modItem r (fun i => { i with inbound := i.inbound.filter (fun c => !(a / 64 * 64 ≤ c.1 && c.1 < (a + n + 63) / 64 * 64)) })
  else s

/-- The local reads of a run of lines charged, as far as they have yet to be performed (R222). -/
def chargeReads (s : State) (r : ItemRef) (x : Nat × Nat) : State :=
  let missing (c : Nat × Nat) : Bool := match s.item r with
    | some i => !inboundHas i (c.1 / 64 * 64) 64 && !readPending s r (c.1 / 64 * 64)
    | none => false
  if isLocal s x.1 ∧ (cutLines x.1 x.2).any missing then
    chargeRequest s (.item r) .rd (offOf (x.1 / 64 * 64)) ((x.1 + x.2 + 63) / 64 * 64 - x.1 / 64 * 64)
  else s

/-- A byte range read by an item, none of whose lines it has to wait for: its bytes, or it waits for what other homes have yet to return, or
it fails. A line that the cache partition holds is not requested (R110, R209). -/
def rawItemRead (s : State) (r : ItemRef) (die : Option Nat) (a n : Nat) : State × Rd :=
  match (homeRuns s r die a n).foldl (fun (acc : State × Option Nat) x =>
      let (t, c) := requestLines (chargeReads acc.1 r x) r x.1 x.2
      (t, acc.2 <|> c)) (s, none) with
  | (t, some c) => (t, .fail c)
  | (t, none) =>
    let done := (cutLines a n).foldl (fun (acc : State × Rd) c => match acc.2 with
      | .fail _ => acc
      | rd =>
        let (t, x) := readLine acc.1 r die c.1 c.2
        (t, match rd, x with
          | _, .fail c => .fail c
          | .ok bs, .ok cs => .ok (bs ++ cs)
          | _, _ => .wait)) (t, Rd.ok [])
    match done.2 with
    | .ok bs => (forgetLocal done.1 r a n, .ok bs)
    | x => (done.1, x)

/-! ## Writes of an item -/

/-- Copies of a line that the context's partitions on other dies hold clean: they go, so that the context observes its own
write (R254). -/
def dropOtherCopies (s : State) (c : Nat) (die : Option Nat) (line : Nat) : State :=
  invalidateClean s (fun l => l.ctx == c && l.line == line && die != some l.die)

/-- A part of one line written by an item (R209). -/
def writeLine (s : State) (r : ItemRef) (die : Option Nat) (a : Nat) (bs : List Byte) (p : Purpose) : Issued :=
  let die := die.filter (allocMade s)
  let line := a / 64
  let s := dropOtherCopies s r.ctx die line
  match die, cachePolicy s r.ctx a with
  | some d, 2 =>
    let t := makeRoom s d r.ctx line
    let l := (cacheFind t d r.ctx line).getD (emptyLine d r.ctx line)
    { s := t.modMem (fun m => { putCache m (mergeLine l (a % 64) bs (some r) m.stamp) with stamp := m.stamp + 1 }), ids := [],
      code := none }
  | some d, 1 =>
    let t := match cacheFind s d r.ctx line with
      | some l => s.modMem (fun m => { putCache m (mergeLine l (a % 64) bs none m.stamp) with stamp := m.stamp + 1 })
      | none => s
    issueWrite t (some r) r.ctx p a bs
  | some d, _ =>
    let t := match cacheFind s d r.ctx line with
      | some l => if l.dirty = 0 then s.modMem (fun m => dropCache m l) else s
      | none => s
    issueWrite t (some r) r.ctx p a bs
  | none, _ => issueWrite s (some r) r.ctx p a bs

/-! ## Program order (R251 to R256, R262) -/

/-- Two spans share a line. -/
def spansMeet (a b : List (Nat × Nat)) : Bool :=
  a.any (fun x => b.any (fun y => x.1 / 64 * 64 < y.1 + y.2 && y.1 / 64 * 64 < x.1 + x.2))

/-- An item that has ended: nothing of it remains but its drop sequence and its record. -/
def Item.over (i : Item) : Bool :=
  match i.stage with
  | .dropping | .ended | .recorded => true
  | _ => false

/-- An earlier item of the same context and generation. -/
def earlier (i j : Item) : Bool := i.ref.ctx == j.ref.ctx && i.gen == j.gen && i.ref.seq < j.ref.seq

/-- An item before another one in the program order of their context, of whatever generation (R174, R251). -/
def precedes (i j : Item) : Bool := i.ref.ctx == j.ref.ctx && i.ref.seq < j.ref.seq

/-- An item that later ones of its context may have to wait for: it has not ended, or its poison writes are not acknowledged (R174, R253). -/
def Item.bars (i : Item) : Bool := !i.over || i.stage == .dropping

/-- An access of an item to a range waits while a line of it lies in a span of an earlier item that conflicts with the span the access
belongs to (R253). -/
def conflicts (s : State) (it : Item) (range : Nat × Nat) (writes : Bool) : Bool :=
  s.items.any (fun e => precedes e it && e.bars && (spansMeet [range] e.writeSpan || (writes && spansMeet [range] e.readSpan)))

/-- Lines of a range that the context holds dirty in the cache partition of another die. -/
def dirtyElsewhere (s : State) (c : Nat) (die : Option Nat) (range : Nat × Nat) : List CacheLine :=
  s.memory.cache.filter (fun l => l.ctx == c && l.dirty != 0 && die != some l.die && spansMeet [(64 * l.line, 64)] [range])

/-- A write-back of a line of a range is not acknowledged yet. -/
def writeBackPending (s : State) (c : Nat) (range : Nat × Nat) : Bool :=
  s.reqs.any (fun q => q.ctx == some c && q.item.isNone && q.purpose == .write && q.qp.isNone
    && spansMeet [(pktDst q.packet * 2 ^ 48 + pktOff q.packet, 64 * pktLines q.packet)] [range])

/-- An earlier fence that has not ended bars an access of the item: FENCE.WRITE bars writes, the others every access (R262). -/
def barredBy (s : State) (it : Item) (writes : Bool) : Bool :=
  s.items.any (fun f => precedes f it && !f.over && bits (wd f.words 0) 63 60 == 6
    && (writes || bits (wd f.words 1) 63 62 != 0))

/-- The way of one access of an item to a range is clear; the write-backs that it needs have been started on demand, those of its own lines
alone (R253, R262). -/
def clearWay (s : State) (r : ItemRef) (die : Option Nat) (range : Nat × Nat) (writes : Bool) : State × Bool :=
  match s.item r with
  | none => (s, false)
  | some it =>
    if conflicts s it range writes || barredBy s it writes then (s, false)
    else
      let w := writeBackAll s (dirtyElsewhere s r.ctx die range)
      (w.s, !writeBackPending w.s r.ctx range)

/-- One line of a read fetched ahead: its request leaves, or it is performed at its local home and kept (R253). -/
def fetchAhead (s : State) (r : ItemRef) (die : Option Nat) (c : Nat × Nat) : State × Option Nat :=
  if readsHome s r die c.1 c.2 = false then (s, none)
  else match requestLines (chargeReads s r c) r c.1 c.2 with
    | (t, some code) => (t, some code)
    | (t, none) => if isLocal t c.1 then (match fetchLine t r c.1 with
        | (u, .fail code) => (u, some code)
        | (u, _) => (u, none))
      else (t, none)

/-- A byte range read by an item: a line whose way is not clear holds the read back, while its other lines are fetched (R253, R262). -/
def itemRead (s : State) (r : ItemRef) (die : Option Nat) (a n : Nat) : State × Rd :=
  match clearWay s r die (a, n) false with
  | (t, true) => rawItemRead t r die a n
  | (t, false) =>
    match (cutLines a n).foldl (fun (acc : State × Option Nat) c => match clearWay acc.1 r die c false with
      | (u, true) => let (v, code) := fetchAhead u r die c; (v, acc.2 <|> code)
      | (u, false) => (u, acc.2)) (t, none) with
    | (u, some code) => (u, .fail code)
    | (u, none) => (u, .wait)

/-- Several ranges read; their bytes in order. -/
def itemReads (s : State) (r : ItemRef) (die : Option Nat) (rs : List (Nat × Nat)) : State × Option (List (List Byte)) × Option Nat :=
  rs.foldl (fun (acc : State × Option (List (List Byte)) × Option Nat) p =>
    let (t, rd) := itemRead acc.1 r die p.1 p.2
    match rd with
    | .ok bs => (t, acc.2.1.map (fun l => l ++ [bs]), acc.2.2)
    | .wait => (t, none, acc.2.2)
    | .fail c => (t, none, some (match acc.2.2 with | some d => Nat.min c d | none => c))) (s, some [], none)

/-- Bytes that stand in one of the given lines replaced by arbitrary ones (R255). -/
def blur (s : State) (lines : List Nat) (a : Nat) (bs : List Byte) : State × List Byte :=
  if lines.isEmpty then (s, bs)
  else
    let hit := (List.range bs.length).map (fun i => lines.contains ((a + i) / 64))
    ({ s with free := s.free + bs.length },
      (bs.zip (hit.zip (List.range bs.length))).map (fun (b, h, i) => if h then BitVec.ofNat 8 (Config.arbitrary (s.free + i)).toNat else b))

/-- Lines whose bytes are arbitrary once the item writes them (R255). -/
def blurLines (s : State) (r : ItemRef) : List Nat := match s.item r with
  | some i => i.blur
  | none => []

/-- A byte range written by an item, its way clear. The write joins the item's outstanding requests, and its lines join those that R172
poisons unless the write goes to a claimed version buffer or a master slot. -/
def writeNow (s : State) (r : ItemRef) (die : Option Nat) (a : Nat) (bs : List Byte) (exempt : Bool) : State × Option Nat :=
  let (s, bs) := blur s (blurLines s r) a bs
  let whole := !isLocal s a && (cachePolicy s r.ctx a != 2 || die.isNone)
  let parts := if whole then cutBlocks a bs.length else cutLines a bs.length
  let w := parts.foldl (fun (acc : Issued) c =>
    let x := writeLine acc.s r die c.1 ((bs.drop (c.1 - a)).take c.2) .write
    { s := x.s, ids := acc.ids ++ x.ids, code := acc.code <|> x.code }) { s := s, ids := [], code := none }
  (w.s.modItem r (fun i => { i with
    writes := i.writes ++ w.ids
    written := if exempt then i.written else i.written ++ [(a, bs.length)] }), w.code)

/-- A write of an item that waits in front of its unit (R253, R262). -/
def stageWrite (s : State) (r : ItemRef) (w : StagedWrite) : State := s.modItem r (fun i => { i with staged := i.staged ++ [w] })

/-- A staged write of the item meets a range: a later write of the item to the same line stays behind it (R254). -/
def stagedMeets (s : State) (r : ItemRef) (range : Nat × Nat) : Bool := match s.item r with
  | some i => i.staged.any (fun w => spansMeet [(w.addr, w.bytes.length)] [range])
  | none => false

/-- A write or an atomic of the item to a line of a range is on its way to its home and not yet acknowledged: packets may overtake each
other, so the next one to the line waits for it (R254, R280). -/
def inFlightMeets (s : State) (r : ItemRef) (range : Nat × Nat) : Bool :=
  s.reqs.any (fun q => q.item == some r && q.qp.isNone && (match q.purpose with
    | .write | .flagged | .atomic _ _ => true
    | _ => false) && spansMeet [(pktDst q.packet * 2 ^ 48 + pktOff q.packet, 64 * pktLines q.packet)] [range])

/-- The way of a write of an item is clear, and none of the item's own writes to its lines waits or is on its way (R254). -/
def writeWay (s : State) (r : ItemRef) (die : Option Nat) (range : Nat × Nat) : State × Bool :=
  if stagedMeets s r range || inFlightMeets s r range then (s, false) else clearWay s r die range true

/-- What a unit of a die meets as an item's operand in a range of the Pantry: nothing, or poison or an error, with its code (R173, R212). -/
def pantryMeets (s : State) (r : ItemRef) (d a n : Nat) : State × Option Nat :=
  if s.memory.pantryPoison.any (fun p => p.1 == d && p.2 * 64 < a + n && a < p.2 * 64 + 64) then (s, some codePoison)
  else match s.memory.upsets.find? (fun p => p.1 == d && p.2 * 8 < a + n && a < p.2 * 8 + 8) with
    | some p => (foundUncorrectable s (.item r) (pantryBase + d * pantrySize + 8 * p.2) false false, some codePantry)
    | none => (s, none)

/-- A byte range written by an item: the lines whose way is clear at once, the others once it is (R253). -/
def itemWrite (s : State) (r : ItemRef) (die : Option Nat) (a : Nat) (bs : List Byte) (exempt : Bool) : State × Option Nat :=
  if bs.isEmpty then (s, none)
  else match writeWay s r die (a, bs.length) with
    | (s, true) => writeNow s r die a bs exempt
    | (s, false) => (cutLines a bs.length).foldl (fun (acc : State × Option Nat) c =>
        let part := (bs.drop (c.1 - a)).take c.2
        match writeWay acc.1 r die c with
        | (t, true) => let (u, code) := writeNow t r die c.1 part exempt; (u, acc.2 <|> code)
        | (t, false) => (stageWrite t r ⟨die, c.1, part, exempt, none⟩, acc.2)) (s, none)

end Sys2Proof.Machine
end

