-- ==== Sys2Proof/Machine/Versions.lean ====
section
/-! DEFINITION. Version records: their word 0, the compare-swaps that pin, release, claim and commit, and the pin table of a
context (R125 to R135). -/

namespace Sys2Proof.Machine

/-! ## Word 0 of a version record (Table 2 of 05_training_passes.md) -/

def recSlot (w : W64) : Nat := bits w 56 56
def recState (w : W64) (b : Nat) : Nat := bits w (51 + 2 * b) (50 + 2 * b)
def recCur (w : W64) : Nat := bits w 49 48
def recPins (w : W64) (b : Nat) : Nat := bits w (16 * b + 15) (16 * b)

/-- Buffer states. -/
def bufFree : Nat := 0
def bufLive : Nat := 1
def bufWriting : Nat := 2

/-- A word with a field replaced. -/
def setField (w : W64) (hi lo v : Nat) : W64 :=
  let mask := (2 ^ (hi + 1 - lo) - 1) <<< lo
  BitVec.ofNat 64 ((w.toNat &&& (2 ^ 64 - 1 - mask)) ||| ((v % 2 ^ (hi + 1 - lo)) <<< lo))

def setState (w : W64) (b v : Nat) : W64 := setField w (51 + 2 * b) (50 + 2 * b) v
def setPins (w : W64) (b v : Nat) : W64 := setField w (16 * b + 15) (16 * b) v

/-- A pin: one more on the pins of cur (R128). -/
def pinWord (w : W64) : W64 := setPins w (recCur w) (recPins w (recCur w) + 1)

/-- A release: one less on the buffer's pins; the last one on a buffer that is not cur frees it (R131). -/
def unpinWord (w : W64) (b : Nat) : W64 :=
  let n := recPins w b - 1
  let v := setPins w b n
  if n = 0 ∧ recCur w ≠ b then setState v b bufFree else v

/-- A claim: the buffer becomes WRITING (R132). -/
def claimWord (w : W64) (b : Nat) : W64 := setState w b bufWriting

/-- A claim given up: the buffer becomes FREE again (R135). -/
def unclaimWord (w : W64) (b : Nat) : W64 := setState w b bufFree

/-- A commit: cur becomes the claimed buffer and that LIVE, slot flips, the old cur becomes FREE when nothing pins it
(R134). -/
def commitWord (w : W64) (b : Nat) : W64 :=
  let old := recCur w
  let v := setField (setField (setState w b bufLive) 49 48 b) 56 56 (1 - recSlot w)
  if recPins w old = 0 then setState v old bufFree else v

/-- Address of a buffer of a record given as eight words. -/
def recBuf (ws : List W64) (b : Nat) : Nat := (wd ws (3 + b)).toNat

/-- Version number of a buffer of a record. -/
def recVer (ws : List W64) (b : Nat) : Nat :=
  if b = 0 then bits (wd ws 1) 31 0 else if b = 1 then bits (wd ws 1) 63 32 else bits (wd ws 2) 31 0

/-- The lowest FREE buffer with a nonzero address, when no buffer is WRITING (R132). -/
def claimable (ws : List W64) : Option Nat :=
  let w := wd ws 0
  if (List.range 3).any (fun b => recState w b == bufWriting) then none
  else (List.range 3).find? (fun b => recState w b == bufFree && recBuf ws b != 0)

/-- The record check of admission, on the record's eight words (R126). -/
def recordOk (ws : List W64) : Bool :=
  let w := wd ws 0
  let cur := recCur w
  bits w 63 57 == 0 && bits (wd ws 2) 63 32 == 0 && wd ws 6 == 0 && wd ws 7 == 0
    && (List.range 3).all (fun b => recState w b != 3) && cur != 3 && recState w cur == bufLive
    && (List.range 3).all (fun b =>
      (recBuf ws b != 0 || (b != cur && recState w b == bufFree)) && recBuf ws b % 4096 == 0)

/-! ## Compare-swaps on a record -/

/-- What a compare-swap became. -/
inductive Cas where
  | done (old : W64)
  | sent
  | fail (code : Nat)
deriving DecidableEq, Repr

/-- One 64-bit compare-swap on word 0 of a record, by the device itself (R125, R246): performed at once at a local home, sent
otherwise; a local RETRY is held for reissue. -/
def casRecord (s : State) (item : Option ItemRef) (ctx : Option Nat) (a : Nat) (expect new : W64) (p : Purpose) : State × Cas :=
  if isLocal s a then
    let (t, ans) := reachHome s 61 .device (offOf a) (.atomic 0x13 new.toNat expect.toNat) .clean
    match ans with
    | .old v _ => (t, .done (BitVec.ofNat 64 v))
    | .retry => ((t.request item ctx p (atomicPacket s a 0x13 new.toNat expect.toNat)).1, .sent)
    | ans => (t, .fail ((ansCode ans).getD codeRemoteFault))
  else match s.request item ctx p (atomicPacket s a 0x13 new.toNat expect.toNat) with
    | (t, some _) => (t, .sent)
    | (t, none) => (t, .fail codeUnreachable)

/-- The eight words of a record read for an item, exempt from program order (R256): at its home, fresh when it is local, from the item's inbound data
otherwise. -/
def readRecord (s : State) (r : ItemRef) (a : Nat) : State × Rd :=
  if isLocal s a then
    let (t, ans) := reachHome s 61 .device (offOf a) (.read 64) .clean
    match ans with
    | .data bs => (t, .ok bs)
    | ans => match ansCode ans with
      | some c => (t, .fail c)
      | none => (t, .wait)
  else rawItemRead s r none a 64

/-- The item's inbound copy of a line forgotten, so that the next read fetches it again. -/
def forgetLine (s : State) (r : ItemRef) (a : Nat) : State :=
  s.modItem r (fun i => { i with inbound := i.inbound.filter (fun c => !(a ≤ c.1 && c.1 < a + 64)) })

/-! ## Pins -/

/-- What a LOAD's pin gives: the record's words and the pinned buffer, a wait, or a failure. -/
inductive Pin where
  | have_ (ws : List W64) (buf : Nat)
  | wait
  | full
  | fail (code : Nat)
deriving DecidableEq, Repr

/-- The pin-table entry of a record. -/
def pinEntry (s : State) (c a : Nat) : Option PinEntry := (s.ctx c).pins.find? (fun p => p.record == a)

/-- A pin recorded in the pin table (R128, R130). -/
def recordPin (s : State) (c a buf owner : Nat) : State :=
  s.modCtx c (fun x => { x with pins := upsert (fun p => p.record == a) { record := a, buf := some buf, owner := owner } x.pins })

/-- The pin a versioned LOAD of an item needs: the buffer already pinned, or one compare-swap that adds 1 to the pins of cur
(R128). -/
def pinFor (s : State) (r : ItemRef) (a : Nat) : State × Pin :=
  match readRecord s r a with
  | (t, .fail c) => (t, .fail c)
  | (t, .wait) => (t, .wait)
  | (t, .ok bs) =>
    let ws := bytesWords bs
    match pinEntry t r.ctx a with
    | some ⟨_, some b, _⟩ => (t, .have_ ws b)
    | _ =>
      if t.reqs.any (fun q => q.item == some r && match q.purpose with | .pin rec _ _ => rec == a | _ => false) then (t, .wait)
      else
        let w := wd ws 0
        let b := recCur w
        if recPins w b = 65535 then (forgetLine t r a, .full)
        else match casRecord t (some r) (some r.ctx) a w (pinWord w) (.pin a w b) with
          | (u, .done old) => if old = w then (recordPin u r.ctx a b r.seq, .have_ ws b) else (forgetLine u r a, .wait)
          | (u, .sent) => (u, .wait)
          | (u, .fail c) => (u, .fail c)

/-- A release that no retry can perform: the count stays raised and an error record says so (R131). -/
def pinReleaseLost (s : State) (c a buf : Nat) : State :=
  writeError s { cls := 0x15, sev := sevInfo, unit := 0xFF, item := none, ctx := some c,
                 detail := [BitVec.ofNat 64 a, BitVec.ofNat 64 buf] }

/-- A release that is to be issued again every 1 µs (R131). -/
def keepRelease (s : State) (c a buf : Nat) : State := s.modCtx c (fun x => { x with releases := x.releases ++ [(a, buf)] })

/-- One release issued: performed at a local home, or sent as a compare-swap that is repeated with the value its answer
carries (R131). -/
def issueRelease (s : State) (c a buf : Nat) : State :=
  if isLocal s a then
    let (t, ans) := reachHome s 61 .device (offOf a) (.read 8) .clean
    match ans with
    | .data bs =>
      let w := BitVec.ofNat 64 (leNat bs)
      match casRecord t none (some c) a w (unpinWord w buf) (.unpin a w buf) with
      | (u, .fail _) => pinReleaseLost u c a buf
      | (u, _) => u
    | .retry => keepRelease t c a buf
    | _ => pinReleaseLost t c a buf
  else match s.request none (some c) (.unpin a 0 buf) (atomicPacket s a 0x13 0 0) with
    | (t, some _) => t
    | (t, none) => keepRelease t c a buf

/-- All pins of a context released: its entries and reservations are freed when the releases are issued (R131). -/
def releasePins (s : State) (c : Nat) : State :=
  let pins := (s.ctx c).pins
  (pins.filterMap (fun p => p.buf.map (fun b => (p.record, b)))).foldl (fun s p => issueRelease s c p.1 p.2)
    (s.modCtx c (fun x => { x with pins := [] }))

/-- The releases that were answered RETRY or unreachable, issued again (R131). -/
def retryReleases (s : State) (c : Nat) : State :=
  (s.ctx c).releases.foldl (fun s p => issueRelease s c p.1 p.2) (s.modCtx c (fun x => { x with releases := [] }))

/-! ## Claims -/

/-- The word that sets a claimed buffer back to FREE: only a WRITING one, which no commit has made LIVE meanwhile (R135). -/
def giveUpWord (w : W64) (b : Nat) : W64 := if recState w b = bufWriting then unclaimWord w b else w

/-- A claimed buffer set back to FREE (R135). -/
def giveUpClaim (s : State) (c a buf : Nat) : State :=
  if isLocal s a then
    let (t, ans) := reachHome s 61 .device (offOf a) (.read 8) .clean
    match ans with
    | .data bs =>
      let w := BitVec.ofNat 64 (leNat bs)
      (casRecord t none (some c) a w (giveUpWord w buf) (.unclaim a w buf)).1
    | .retry => (t.request none (some c) (.unclaim a 0 buf) (atomicPacket s a 0x13 0 0)).1
    | _ => t
  else (s.request none (some c) (.unclaim a 0 buf) (atomicPacket s a 0x13 0 0)).1

end Sys2Proof.Machine
end

