-- ==== Sys2Proof/Machine/Ops.lean ====
section
/-! DEFINITION. The life of an item (R160 to R187): how it ends and gives up what it held, its drop sequence (R171, R172), its
Ledger record and the drains (R183 to R186), error drains (R411), the settlement of requests (R125, R250, R258), and the
safe state (R414, R415). -/

namespace Sys2Proof.Machine

/-! ## The common word -/

def kindOf (ws : List W64) : Nat := bits (wd ws 0) 63 60
def orderOf (ws : List W64) : Nat := bits (wd ws 0) 55 54

/-- The order an item behaves as: a FENCE, a PIN_RELEASE, a CLOSE and a REFORM as AFTER, a PUBLISH and a PRIV as AFTER_OK, whatever
their order field says (R162, R166, R261, R428, R431, R439). -/
def effOrder (ws : List W64) : Nat :=
  let k := kindOf ws
  let a := bits (wd ws 1) 63 60
  if k = 6 then 1
  else if k = 9 then (if a = 1 then 1 else if a = 2 then 2 else orderOf ws)
  else if k = 8 then (if a = 1 then 2 else if a = 2 ∨ a = 5 then 1 else orderOf ws)
  else orderOf ws

def tagOfItem (ws : List W64) : Nat := bits (wd ws 0) 47 32

def kChain : Nat := 1
def kHaul : Nat := 2
def kColl : Nat := 3
def kBench : Nat := 4
def kUpdate : Nat := 5
def kFence : Nat := 6
def kHint : Nat := 7
def kSnap : Nat := 8
def kMark : Nat := 9

/-! ## Ledger codes (Table 9 of 06_work.md) -/

def codePriorFailed : Nat := 0x07
def codeClockLoss : Nat := 0x85
def codeMismatch : Nat := 0x86
def codeSafeState : Nat := 0x87
def codeComputeReset : Nat := 0x88
def codeContextReset : Nat := 0x89
def codeWatchdog : Nat := 0x8A
def codeFaceCheck : Nat := 0xA0
def codeReplay : Nat := 0xA1
def codeLateQueued : Nat := 0xC0
def codeLateWaiting : Nat := 0xC1
def codeLateRunning : Nat := 0xC2
def codeBackup : Nat := 0xD0

/-- Code of a status in a record (Table 11 of 06_work.md). -/
def statusCode : Status → Nat
  | .done => 0
  | .droppedLate => 1
  | .failedFault => 2
  | .rejected => 3
  | .superseded => 4
  | .quarantined => 5

/-- An ended item that R171 and R172 poison. -/
def Status.poisons : Status → Bool
  | .droppedLate | .failedFault | .quarantined => true
  | _ => false

/-- A status after which an AFTER_OK item of the same period may run (R162). -/
def Status.good : Status → Bool
  | .done | .superseded => true
  | _ => false

/-- Place of a status in the order of R413, the first one winning. -/
def Status.rank : Status → Nat
  | .failedFault => 0
  | .quarantined => 1
  | .superseded => 2
  | .done => 3
  | .droppedLate => 4
  | .rejected => 5

/-- An outcome that reaches an item on the tick of its end and that R413 puts before the item's own: an earlier status, or a fault with a
lower code. -/
def Item.overruled (i : Item) (now : Nat) (st : Status) (code : Nat) : Bool :=
  i.over && i.endAt / 10 == now / 10
    && (decide (st.rank < i.status.rank) || (st == .failedFault && i.status == .failedFault && decide (code < i.code.toNat)))

/-! ## Queue pairs: Ledger and error drains -/

/-- The ledger_rkey of a queue pair (R329). -/
def ledgerRkey (s : State) (q : Nat) : BitVec 32 :=
  match s.qpCfg q with
  | some k => k.ledgerRkey
  | none => 0

/-- Records appended and not yet written to the host ring. -/
def undrained (x : Ctx) : Nat := (x.appended - x.drained).toNat

/-- A drain of a context is in flight. -/
def drainInFlight (s : State) (c : Nat) : Bool :=
  s.reqs.any (fun r => match r.purpose with | .drain d _ => d == c | _ => false)

/-- Writes of records first to first + n - 1 of a ring of the given size: pieces at each passage of the ring's end (R186, R411). -/
def ringPieces (size first n : Nat) : List (Nat × Nat) :=
  if n = 0 then [(first, 0)]
  else (List.range ((first + n - 1) / size - first / size + 1)).map (fun i =>
    let a := Nat.max first ((first / size + i) * size)
    (a, Nat.min (first + n) ((first / size + i + 1) * size) - a))

/-- Waiting records of a context read from its Ledger buffer; none where a line answers RETRY or its record is not yet written (R232). -/
def ledgerRecords (s : State) (k : CtxCfg) (first n : Nat) : State × Option (List (List Byte)) :=
  (List.range n).foldl (fun (acc : State × Option (List (List Byte))) i =>
    let a := k.ledgerBase + 32 * ((first + i) % 2 ^ k.ledgerLog2)
    if writeHeld acc.1 a 32 then (acc.1, none)
    else
      let (t, bs) := deviceRead acc.1 a 32
      (t, match acc.2, bs with
        | some l, some b => some (l ++ [b])
        | _, _ => none)) (s, some [])

/-- A drain that falls due while it cannot begin begins as soon as it can. -/
def holdDrain (s : State) (c : Nat) : State := s.modCtx c (fun x => { x with drainHeld := true })

/-- The drain of n records that the device has read: RDMA Writes, the last one with an immediate that holds the context and the count
(R186). -/
def sendDrain (s : State) (c : Nat) (k : CtxCfg) (first : Nat) (done : BitVec 32) (rs : List (List Byte)) : State :=
  let va (i : Nat) : Nat := k.hostBase + 32 * (i % 2 ^ k.hostLog2)
  let key := ledgerRkey s k.hostQp
  let pieces := ringPieces (2 ^ k.hostLog2) first rs.length
  let bytes (p : Nat × Nat) : List Byte := ((rs.drop (p.1 - first)).take p.2).flatMap id
  let lead := pieces.dropLast.foldl (fun s p =>
    s.sendHost k.hostQp none (some c) .held (32 * p.2) (.write k.hostQp (va p.1) key (bytes p)) none) s
  let p := pieces.getLastD (first, rs.length)
  let imm : BitVec 32 := BitVec.ofNat 32 (c * 2 ^ 26 + done.toNat % 2 ^ 26)
  lead.sendHost k.hostQp none (some c) (.drain c done) (32 * p.2) (.writeImm k.hostQp (va p.1) key (bytes p) imm) (some imm)

/-- A drain of the waiting records that the host ring has room for (R186); none once REFCLK_CORE is lost (R417). One that falls due while
another is in flight, while the host ring has no room for all of them, or while its records cannot be read, is held (R186, R232). -/
def drain (s : State) (c : Nat) : State :=
  match s.ctxCfg c with
  | none => s
  | some k =>
    let x := s.ctx c
    let room := 2 ^ k.hostLog2 - (x.drained - x.ledgerAck).toNat
    let n := Nat.min (undrained x) room
    if undrained x = 0 ∨ s.qpUp k.hostQp = false ∨ s.hearth.stopped.contains .refCore then s
    else if n = 0 ∨ drainInFlight s c then holdDrain s c
    else match ledgerRecords s k x.drained.toNat n with
      | (t, some rs) => sendDrain (t.modCtx c (fun y => { y with drainHeld := decide (n < undrained x) })) c k x.drained.toNat (x.drained + BitVec.ofNat 32 n) rs
      | (t, none) => holdDrain t c

/-- An error drain is in flight. -/
def errorDrainInFlight (s : State) : Bool := s.reqs.any (fun r => match r.purpose with | .errorDrain _ => true | _ => false)

/-- Nothing of the Gatehouses leaves: the clock of one, or that of every core, is lost (R417). -/
def gatehousesLost (s : State) : Bool := clockStopped s (fun c => match c with
  | .refCore | .gatehouse _ => true
  | _ => false)

/-- A drain of the error records to the host ring of SAFETY_CFG (R411); none without the Gatehouses (R417). -/
def drainErrors (s : State) : State :=
  let q := bits s.cfg.safety 51 40
  let size := 2 ^ bits s.cfg.safety 39 35
  let n := s.errors.count - s.errors.drained
  if n = 0 ∨ errorDrainInFlight s ∨ s.qpUp q = false ∨ gatehousesLost s then s
  else
    let first := s.errors.drained
    let record (i : Nat) : List Byte := match s.errors.window.find? (fun w => w.1 == i) with
      | some w => wordsBytes w.2
      | none => List.replicate 64 0
    let va (i : Nat) : Nat := s.cfg.errHostBase + 64 * (i % size)
    let key := ledgerRkey s q
    let pieces := ringPieces size first n
    let lead := pieces.dropLast.foldl (fun s p =>
      s.sendHost q none none .held (64 * p.2) (.write q (va p.1) key ((List.range p.2).flatMap (fun i => record (p.1 + i)))) none) s
    let p := pieces.getLastD (first, n)
    let imm : BitVec 32 := BitVec.ofNat 32 (0x3E * 2 ^ 26 + (first + n) % 2 ^ 26)
    lead.sendHost q none none (.errorDrain (first + n)) (64 * p.2)
      (.writeImm q (va p.1) key ((List.range p.2).flatMap (fun i => record (p.1 + i))) imm) (some imm)

/-- A drain starts when 16 error records wait (R411). -/
def drainDue (s : State) : State := if 16 ≤ s.errors.count - s.errors.drained then drainErrors s else s

/-- An error record written, and a drain started when 16 records wait (R408, R411). -/
def raiseError (s : State) (e : ErrInfo) : State := drainDue (writeError s e)

/-! ## Ledger records -/

/-- Unit of an item's record. -/
def itemUnit (i : Item) : Nat :=
  match i.die, i.landing with
  | some d, _ => d
  | none, some k => 0x20 + k
  | none, none => 0x40

/-- The four words of a record (R183). -/
def recordWords (i : Item) : List W64 :=
  let ticks (t : Nat) : Nat := (t - i.periodAt) / 10
  [BitVec.ofNat 64 i.ref.seq,
   wordOf [⟨48, 16, tagOfItem i.words⟩, ⟨40, 8, i.flags.toNat⟩, ⟨32, 8, i.code.toNat⟩, ⟨28, 4, statusCode i.status⟩,
     ⟨24, 4, kindOf i.words⟩, ⟨18, 6, i.ref.ctx⟩, ⟨15, 3, i.partition⟩, ⟨8, 7, itemUnit i⟩, ⟨0, 8, i.detail.toNat⟩],
   wordOf [⟨32, 32, ticks i.endAt⟩, ⟨0, 32, ticks (i.startAt.getD i.intake)⟩],
   wordOf [⟨32, 32, i.period.toNat⟩, ⟨0, 32, i.aux.toNat⟩]]

/-- A record appended to the device Ledger buffer: record n in slot n mod ledger_records (R184). A full batch, or a record
whose period has ended, or one in the safe state starts a drain (R186, R415). -/
def appendRecord (s : State) (i : Item) : State :=
  match s.ctxCfg i.ref.ctx with
  | none => s.modItem i.ref (fun j => { j with stage := .recorded })
  | some k =>
    let c := i.ref.ctx
    let x := s.ctx c
    let s := deviceWrite s (k.ledgerBase + 32 * (x.appended.toNat % 2 ^ k.ledgerLog2)) (wordsBytes (recordWords i))
    let s := (s.modItem i.ref (fun j => { j with stage := .recorded, slot := x.appended.toNat })).modCtx c (fun y =>
      { y with appended := y.appended + 1, oldestAt := if y.appended = y.drained then s.now else y.oldestAt, appendTimes := y.appendTimes ++ [s.now] })
    if k.drainBatch ≤ undrained (s.ctx c) ∨ i.period ≠ x.period ∨ i.gen ≠ x.gen ∨ s.boot.safe then drain s c else s

/-- An item with a record still to be appended that an unrecorded item of an earlier period or generation holds back
(R174, R176, R369). -/
def heldBack (s : State) (i : Item) : Bool :=
  (s.items.takeWhile (fun e => e.ref != i.ref || e.gen != i.gen)).any (fun e =>
    e.ref.ctx == i.ref.ctx && e.stage != .recorded && (e.gen != i.gen || e.period != i.period))

/-- Order of two ended items: by the tick of their end, then by seq (R184). -/
def endKey (i : Item) : Nat := i.endAt / 10 * 2 ^ 64 + i.ref.seq % 2 ^ 64

/-- Every record of a context appended that nothing holds back, in the order items ended; the first argument bounds their
number. -/
def appendReady : Nat → State → Nat → State
  | 0, s, _ => s
  | n + 1, s, c =>
    match minOn endKey (s.items.filter (fun i => i.ref.ctx == c && i.stage == .ended && !heldBack s i)) with
    | some i => appendReady n (appendRecord s i) c
    | none => s

/-- Records of a context appended. -/
def appendRecords (s : State) (c : Nat) : State := appendReady s.items.length s c

/-! ## Ending an item -/

/-- ITEM_START or ITEM_END of an item, counted on its die or its Landing (Table 2 of 18_counters.md). -/
def itemEvent (s : State) (r : ItemRef) (event : Nat) : State :=
  match s.item r with
  | some i => match i.die, i.landing with
    | some d, _ => count s (Occ.ofItem s r d event r.ctx s.now)
    | none, some l => count s (Occ.ofItem s r (76 + l) event r.ctx s.now)
    | none, none => s
  | none => s

/-- An item has a row, stage or Bench work on a die now (R412). -/
def noteWork (s : State) (r : ItemRef) (d : Nat) : State :=
  s.modItem r (fun i => { i with work := upsert (fun x => x.1 == d) (d, s.now) i.work })

/-- A core set free: it is idle from now on, and one that is stopping goes on stopping (R191). -/
def Core.release (k : Core) (now : Nat) : Core := { k with owner := .free, idleSince := if k.wakeLatched then k.idleSince else now }

/-- What a die, a Landing and the Faces hold for an item is given up (R116, R171). -/
def releaseUnits (s : State) (r : ItemRef) : State :=
  let freeCore (k : Core) : Core := if k.owner = .item r then k.release s.now else k
  let freeEngine (e : Engine) : Engine := if e.busy = some r ∧ e.piece.isNone then { e with busy := none, idleSince := s.now } else e
  { s with
    dies := s.dies.map (fun d => { d with
      cores := d.cores.map freeCore
      sequencers := d.sequencers.map (fun q => if q.item = some r then ⟨none⟩ else q) })
    landings := s.landings.map (fun l => { l with haul := l.haul.map freeEngine, tipple := l.tipple.map freeEngine })
    faces := s.faces.map (fun f => { f with users := f.users.filter (· != r) })
    colls := s.colls.filter (fun c => c.early || c.item != r) }

/-- The bank, the Pantry cost and the cores of a chain are free once its last STORE has been issued (R116). -/
def releaseChain (s : State) (r : ItemRef) : State :=
  let s := match (s.item r).bind Item.die with
    | some d => noteWork s r d
    | none => s
  let freeCore (k : Core) : Core := if k.owner = .item r then k.release s.now else k
  let freeDie (d : Die) : Die :=
    { d with cores := d.cores.map freeCore, sequencers := d.sequencers.map (fun q => if q.item = some r then ⟨none⟩ else q) }
  let s := { s with dies := s.dies.map freeDie }
  s.modItem r (fun i => { i with scratch := 0, accum := 0, cores := [], lost := [] })

/-- A chain whose last STORE has been issued gives up what R116 says. -/
def releaseIssued (s : State) (r : ItemRef) : State := match s.item r with
  | some i => if kindOf i.words = kChain ∧ i.stage = .issued ∧ i.staged.isEmpty then releaseChain s r else s
  | none => s

/-- A request of the item is outstanding. -/
def outstanding (s : State) (i : Item) : Bool := s.reqs.any (fun q => i.writes.contains q.id)

/-- Lines of a list of byte ranges, each once. -/
def rangeLines (rs : List (Nat × Nat)) : List Nat := (rs.flatMap (fun p => (cutLines p.1 p.2).map (fun c => c.1 / 64))).dedup

/-- Lines that an ended item poisons: those it issued a write to, and those in which it holds bytes dirty (R172). -/
def poisonLines (s : State) (i : Item) : List Nat :=
  (rangeLines i.written ++ (s.memory.cache.filter (fun l => l.ctx == i.ref.ctx && l.owners.contains i.ref)).map CacheLine.line).dedup

/-- The poison writes of an ended item: dirty bytes are discarded, the context's cached copies go, and every line is poisoned
at its home; host-window lines are left (R172). -/
def poisonItem (s : State) (i : Item) : State :=
  let lines := (poisonLines s i).filter (fun l => !isHost (64 * l))
  let s := s.modMem (fun m => { m with cache := m.cache.filter (fun l => !(l.ctx == i.ref.ctx && lines.contains l.line)) })
  let w := lines.foldl (fun (acc : Issued) l =>
    let p := issuePoison acc.s (some i.ref) i.ref.ctx (64 * l)
    { s := p.s, ids := acc.ids ++ p.ids, code := acc.code }) { s := s, ids := [], code := none }
  w.s.modItem i.ref (fun j => { j with writes := w.ids, poisons := lines.length, poisonSent := true })

/-- The drop sequence moves on: once the item's own writes are settled its poison writes are issued (R172). -/
def dropAdvance (s : State) (r : ItemRef) : State :=
  match s.item r with
  | some i => if i.stage = .dropping ∧ i.poisonSent = false ∧ outstanding s i = false then poisonItem s i else s
  | none => s

/-- What the Attic keeps when a SNAPSHOT item ends: a SECURE that ended DONE counts in its round, a CLOSE that did ends the round (R422,
R428). -/
def atticEnd (a : Attic) (i : Item) (st : Status) : Attic :=
  let a := { a with runs := a.runs.filter (fun x => x.item != i.ref) }
  if kindOf i.words ≠ kSnap ∨ st ≠ .done then a
  else
    let round := bits (wd i.words 2) 63 32
    let action := bits (wd i.words 1) 63 60
    if action = 0 then { a with secured := if a.round = round then a.secured + 1 else a.secured }
    else if action = 2 then
      { a with lastRound := some (BitVec.ofNat 32 round), reports := a.reports.filter (fun x => round < x.1),
               notices := a.notices.filter (fun x => round < x.1), parts := a.parts.filter (fun x => round < x.round) }
    else a

/-- Bytes of local memory become arbitrary (R3): the context's own cached copies of them go too. -/
def scrambleAt (s : State) (c a n : Nat) : State :=
  if isLocal s a then
    State.modMem { s with free := s.free + n } (fun m =>
      { rawWrite m (offOf a) ((List.range n).map (fun k => BitVec.ofNat 8 (Config.arbitrary (s.free + k)).toNat)) with
        cache := m.cache.filter (fun l => !(l.ctx == c && a < 64 * (l.line + 1) && 64 * l.line < a + n)) })
  else s

/-- What an item leaves arbitrary when it ends without its commit (R135). -/
def discardRanges (s : State) (i : Item) : State := i.discard.foldl (fun s x => scrambleAt s i.ref.ctx x.1 x.2) s

/-- An ended item's dirty bytes are discarded at its end: no write-back, flush or eviction takes them home. Their lines stay among those to be
poisoned (R172, R210). -/
def discardDirty (s : State) (r : ItemRef) : State :=
  let mine := s.memory.cache.filter (fun l => l.ctx == r.ctx && l.owners.contains r)
  (s.modItem r (fun i => { i with written := i.written ++ mine.map (fun l => (64 * l.line, 64)) })).modMem (fun m =>
    { m with cache := m.cache.filter (fun l => !(l.ctx == r.ctx && l.owners.contains r)) })

/-- Scratch and accumulator contents that a dropped item leaves are arbitrary (R3, R174): the bytes its engines, stages and Faces wrote (DESIGN
CHOICE, notes/assumptions/115.md). -/
def staleAreas (s : State) (i : Item) : State := match i.die with
  | some d => i.areas.foldl (fun s x =>
      State.modMem { s with free := s.free + pantrySize } (fun m =>
        { m with stale := cutStale m.stale d x.1 (x.2 - x.1) ++ [{ die := d, lo := x.1, hi := x.2, seed := s.free }] })) s
  | none => s

/-- A commit compare-swap that is held for reissue has not been performed. -/
def Req.heldCommit (s : State) (q : Req) : Bool := match q.purpose with
  | .commit _ _ _ => q.retry || pktDst q.packet == s.deviceNumber
  | _ => false

/-- A commit compare-swap of an item is on its way to another home: the answer says whether it was performed. -/
def commitAway (s : State) (r : ItemRef) : Bool :=
  s.reqs.any (fun q => q.item == some r && !q.heldCommit s && match q.purpose with
    | .commit _ _ _ => true
    | _ => false)

/-- A claim that ends without its commit: a commit held for reissue is never performed, the buffer is set back to FREE, and what R135 says
becomes arbitrary, unless a commit that is on its way is still to be answered. -/
def endClaim (s : State) (i : Item) (a b : Nat) : State :=
  let s := { s with reqs := s.reqs.filter (fun q => !(q.item == some i.ref && q.heldCommit s)) }
  let away := commitAway s i.ref
  let s := giveUpClaim s i.ref.ctx a b
  if away then s else (discardRanges s i).modItem i.ref (fun j => { j with discard := [] })

/-- The answer to a commit of an ended item shows that it was not performed: what the item leaves is arbitrary (R135). -/
def lateNoCommit (s : State) (r : ItemRef) : State := match s.item r with
  | some i => if i.over then (discardRanges s i).modItem r (fun j => { j with discard := [] }) else s
  | none => s

/-- The record of an item whose outcome has changed on its tick is written again, while it waits in the Ledger buffer (R413). -/
def rewriteRecord (s : State) (r : ItemRef) : State := match s.item r, s.ctxCfg r.ctx with
  | some i, some k =>
    if i.stage = .recorded ∧ (BitVec.ofNat 32 i.slot - (s.ctx r.ctx).drained).toNat < undrained (s.ctx r.ctx) then
      deviceWrite s (k.ledgerBase + 32 * (i.slot % 2 ^ k.ledgerLog2)) (wordsBytes (recordWords i))
    else s
  | _, _ => s

/-- A member whose item ends other than DONE or SUPERSEDED sends nothing further: no copy is still answered (R310). -/
def silence (s : State) (r : ItemRef) (st : Status) : State :=
  if st.good then s else { s with lateCopies := s.lateCopies.filter (fun y => y.item != r) }

/-- An ended item whose outcome changes on its tick (R413): one that has to be poisoned now begins its drop sequence, or has its lines poisoned
behind its record. -/
def overrule (s : State) (i : Item) (st : Status) (code : Nat) (aux : BitVec 32) : State :=
  let s := silence (s.modItem i.ref (fun j => { j with status := st, code := BitVec.ofNat 8 code, aux := aux })) i.ref st
  let fresh := st.poisons && !i.status.poisons
  let s := if fresh then discardDirty s i.ref else s
  match i.stage with
  | .ended =>
    let lines := match s.item i.ref with
      | some j => !(poisonLines s j).isEmpty
      | none => false
    if fresh && lines then dropAdvance (s.modItem i.ref (fun j => { j with stage := .dropping })) i.ref else s
  | .recorded =>
    let s := rewriteRecord s i.ref
    match s.item i.ref with
    | some j => if fresh then poisonItem s j else s
    | none => s
  | _ => s

/-- An item ends: once, with its status and code (on one tick the outcome that R413 puts first), giving up what it held; an item that did not complete makes no
flagged write, frees its claim and enters its drop sequence when it has written anything (R168, R171, R172, R413). -/
def endOne (s : State) (r : ItemRef) (st : Status) (code : Nat) (aux : BitVec 32) : State :=
  match s.item r with
  | none => s
  | some i =>
    if i.over then
      if i.overruled s.now st code then overrule s i st code aux else s
    else
      let dropping := st.poisons && (!i.written.isEmpty || outstanding s i || !(poisonLines s i).isEmpty)
      let s := silence (releaseUnits s r) r st
      let s := if st.poisons then staleAreas (discardDirty s r) i else s
      let s := match i.claim with
        | some (a, b) => if st = Status.done then s else endClaim s i a b
        | none => s
      let s := match i.ownPin with
        | some (a, b, _) => issueRelease s r.ctx a b
        | none => s
      let s := s.modItem r (fun j => { j with
        stage := (if dropping then Stage.dropping else Stage.ended), status := st, code := BitVec.ofNat 8 code, aux := aux, endAt := s.now,
        flagged := if st.poisons then [] else j.flagged, claim := none, ownPin := none, scratch := 0, accum := 0, engines := [], cores := [],
        lost := [], staged := [], areas := [], waitFor := .none })
      let s := { s with attic := atticEnd s.attic i st }
      dropAdvance (itemEvent s r 0x061) r

/-- An AFTER_OK item all of whose earlier items have ended, one of the same period neither DONE nor SUPERSEDED (R162). On the tick that ends its own period it ends DROPPED_LATE (R413). -/
def priorFailed (s : State) (i : Item) : Bool :=
  i.stage == .queued && effOrder i.words == 2 && decide (s.now / 10 < i.deadline / 10)
    && s.items.all (fun e => !earlier e i || e.over)
    && s.items.any (fun e => earlier e i && e.period == i.period && !e.status.good)

/-- AFTER_OK items that can no longer run end REJECTED with PRIOR_FAILED, a chain with detail 0xFF (R183); the first argument bounds their number (R162). -/
def cascade : Nat → State → Nat → State
  | 0, s, _ => s
  | n + 1, s, c =>
    match s.items.find? (fun i => i.ref.ctx == c && priorFailed s i) with
    | some i =>
      let s := endOne s i.ref .rejected codePriorFailed 0
      cascade n (if kindOf i.words = kChain then s.modItem i.ref (fun j => { j with detail := 0xFF }) else s) c
    | none => s

/-- An item ends, the AFTER_OK items that this settles end, and the context's records are appended. -/
def endItem (s : State) (r : ItemRef) (st : Status) (code : Nat) (aux : BitVec 32) : State :=
  let s := endOne s r st code aux
  drainDue (appendRecords (cascade s.items.length s r.ctx) r.ctx)

/-- The aux field of an item that did not complete: a CHAIN's row blocks; the error record's number where none applies, which DESIGN CHOICE
takes a FAILED_FAULT chain of 0 row blocks to be (R183; notes/assumptions/114.md). -/
def failAux (i : Item) (err : Option Nat) : BitVec 32 :=
  if kindOf i.words = kChain ∧ i.rowBlocks ≠ 0 then BitVec.ofNat 32 i.rowBlocks
  else match err with
    | some n => BitVec.ofNat 32 (n % 2 ^ 16)
    | none => BitVec.ofNat 32 i.rowBlocks

/-- The number of the error record that the item's read has just caused: the newest one, of an uncorrectable error, when it names the item
(R183, R212, R220). -/
def readErrorOf (s : State) (r : ItemRef) : Option Nat := match s.errors.window.getLast? with
  | some (n, ws) =>
    let cls := bits (wd ws 0) 47 40
    if 1 ≤ cls ∧ cls ≤ 3 ∧ bitAt (wd ws 0) 37 = true ∧ bits (wd ws 2) 63 58 = r.ctx ∧ wd ws 3 = BitVec.ofNat 64 r.seq then some n else none
  | none => none

/-- An item ends FAILED_FAULT with a code. -/
def failItem (s : State) (r : ItemRef) (code : Nat) (err : Option Nat) : State :=
  match s.item r with
  | some i => endItem s r .failedFault code (failAux i (err <|> (if code = codeHbm ∨ code = codePantry then readErrorOf s r else none)))
  | none => s

/-- A polled word that does not yet hold what is waited for is forgotten; where it lies elsewhere the next poll's read goes out at once
(R142, R166). -/
def readAgain (s : State) (r : ItemRef) (a n : Nat) : State :=
  let t := forgetLine s r (a / 64 * 64)
  if isLocal s a then t
  else match itemRead t r none a n with
    | (u, .fail c) => failItem u r c none
    | (u, _) => u

/-- A set of items ends together, in ascending order of context and seq; then each context's records are appended. -/
def endMany (s : State) (rs : List (ItemRef × Status × Nat × BitVec 32)) : State :=
  let s := rs.foldl (fun s x => endOne s x.1 x.2.1 x.2.2.1 x.2.2.2) s
  drainDue (((rs.map (fun x => x.1.ctx)).dedup).foldl (fun s c => appendRecords (cascade s.items.length s c) c) s)

/-- The flags an item's arithmetic set (R42). -/
def addFlags (s : State) (r : ItemRef) (f : BitVec 8) : State := s.modItem r (fun i => { i with flags := i.flags ||| f })

/-! ## Atomics of an item (R228 to R230, R238) -/

/-- One atomic issued: performed at a local home, sent otherwise. Its old value goes to ret when given; the context's cached copies of
its line are invalidated (R230). -/
def issueAtomic (s : State) (r : ItemRef) (a code v cmp : Nat) (ret : Option Nat) : State × Option Nat :=
  let n := atomicBytes code
  let s := invalidateClean s (fun l => l.ctx == r.ctx && l.line == a / 64)
  let s := s.modItem r (fun i => { i with written := i.written ++ [(a, n)] })
  let sent (s : State) : State × Option Nat :=
    match s.request (some r) (some r.ctx) (.atomic ret n) (atomicPacket s a code v cmp) with
    | (t, some id) => (t.modItem r (fun i => { i with writes := i.writes ++ [id] }), none)
    | (t, none) => (t, some codeUnreachable)
  if isHost a then (s, some codeRemoteFault)
  else if isLocal s a then
    match reachHome (chargeRequest s (.item r) .at_ (offOf a) n) (sourceOf s (.item r)) (.item r) (offOf a) (.atomic code v cmp) .clean with
    | (t, .old o fl) =>
      let t := addFlags t r fl
      match ret with
      | some d => itemWrite t r none d (leBytes n o) false
      | none => (t, none)
    | (t, .retry) => sent t
    | (t, ans) => (t, ansCode ans)
  else sent s

/-- An atomic of an item: issued once its way is clear, and no earlier one to its line is on its way (R253, R254). -/
def itemAtomic (s : State) (r : ItemRef) (a code v cmp : Nat) (ret : Option Nat) : State × Option Nat :=
  match writeWay s r none (a, atomicBytes code) with
  | (t, true) => issueAtomic t r a code v cmp ret
  | (t, false) => (stageWrite t r ⟨none, a, List.replicate (atomicBytes code) 0, false, some (code, v, cmp, ret)⟩, none)

/-- The staged writes and atomics of an item issued, as far as their way has become clear. -/
def issueStaged (s : State) (r : ItemRef) : State × Option Nat :=
  match s.item r with
  | some i => i.staged.foldl (fun (acc : State × Option Nat) w =>
      let (t, c) := match w.atomic with
        | some (code, v, cmp, ret) => itemAtomic acc.1 r w.addr code v cmp ret
        | none => itemWrite acc.1 r w.die w.addr w.bytes w.exempt
      (t, acc.2 <|> c)) (s.modItem r (fun j => { j with staged := [] }), none)
  | none => (s, none)

/-! ## Settlement of requests -/

/-- Items whose flagged final write waits on a request that failed end with its code (R258). -/
def failWaiters (s : State) (id code : Nat) : State :=
  let hit := s.items.filter (fun i => !i.over && i.flagged.any (fun f => !f.issued && f.waits.contains id))
  hit.foldl (fun s i => failItem s i.ref code none) s

/-- A request of an issued flagged final write of an item is acknowledged; when its last one is, a MARK PUBLISH ends DONE
(R166) and other kinds end with their item. -/
def flaggedDone (s : State) (r : ItemRef) (id : Nat) : State :=
  match s.item r with
  | some i =>
    let rest := (i.flagged.map (fun f => if f.issued then { f with waits := f.waits.filter (· != id) } else f)).filter
      (fun f => !f.issued || !f.waits.isEmpty)
    let s := s.modItem r (fun j => { j with flagged := rest })
    if kindOf i.words = kMark ∧ rest.isEmpty ∧ i.over = false then endItem s r .done 0 0 else s
  | none => s

/-- A compare-swap answered with another value than expected is issued again with that value, a commit only while its item has not ended
(R131, R134, R135). -/
def repeatCas (s : State) (q : Req) (a : Nat) (old new : W64) (p : Purpose) : State :=
  match casRecord s q.item q.ctx a old new p with
  | (t, _) => t

/-- A buffer is claimed: an UPDATE goes on to its cores, a versioned ALL_GATHER to its transfers (R133, R312). -/
def claimHeld (s : State) (r : ItemRef) (a buf : Nat) : State :=
  s.modItem r (fun j => { j with
    claim := some (a, buf), waitFor := if kindOf j.words = kUpdate then .cores else .none
    stage := if kindOf j.words = kUpdate then j.stage else .running })

/-- A commit is performed: the claim is over and nothing is left to issue (R134, R312). -/
def committed (s : State) (r : ItemRef) : State :=
  s.modItem r (fun i => { i with claim := none, discard := [], stage := if i.over then i.stage else .issued, waitFor := .none })

/-- The word a commit of an item of a kind writes: an UPDATE flips slot, a versioned ALL_GATHER leaves it (R134, R312). -/
def commitWordOf (kind : Nat) (w : W64) (b : Nat) : W64 :=
  if kind = kUpdate then commitWord w b else setField (commitWord w b) 56 56 (recSlot w)

/-- The kind of the item that commits. -/
def commitKind (s : State) (r : ItemRef) : Nat := match s.item r with
  | some i => kindOf i.words
  | none => kUpdate

/-- The atomic of a request was performed with an old value: what it was for takes effect (R125, R128, R131, R132, R134, R135,
R229, R238). -/
def atomicDone (s : State) (q : Req) (old : W64) (fl : BitVec 8) : State :=
  match q.purpose, q.item with
  | .atomic ret width, some r =>
    let s := addFlags s r fl
    match ret with
    | some a => (itemWrite s r none a (leBytes width old.toNat) false).1
    | none => s
  | .pin a expect buf, some r => if old = expect then recordPin s r.ctx a buf r.seq else forgetLine s r a
  | .ownPin a expect buf _, some r =>
    if old = expect then
      match s.item r with
      | some i => if i.over then issueRelease s r.ctx a buf else s.modItem r (fun j => { j with ownPin := some (a, buf, 0) })
      | none => s
    else forgetLine s r a
  | .claim a expect buf, some r =>
    if old = expect then
      match s.item r with
      | some i => if i.over then giveUpClaim s r.ctx a buf else claimHeld s r a buf
      | none => s
    else forgetLine s r a
  | .commit a expect buf, some r =>
    if old = expect then committed s r
    else if (s.item r).elim true Item.over then lateNoCommit s r
    else repeatCas s q a old (commitWordOf (commitKind s r) old buf) (.commit a old buf)
  | .unpin a expect buf, _ => if old = expect then s else repeatCas s q a old (unpinWord old buf) (.unpin a old buf)
  | .unclaim a expect buf, _ => if old = expect then s else repeatCas s q a old (giveUpWord old buf) (.unclaim a old buf)
  | _, _ => s

/-- A request that carries an access of an ended item changes nothing but the item's drop sequence (R413). -/
def afterSettle (s : State) (q : Req) : State :=
  match q.item with
  | some r => dropAdvance s r
  | none => s

/-- A write was acknowledged (R125 to R258). -/
def writeDone (s : State) (q : Req) : State :=
  let s := s.dropReq q.id
  let s := match q.purpose, q.item with
    | .flagged, some r => flaggedDone s r q.id
    | _, _ => s
  afterSettle s q

/-- A request failed with a code: reported unreachable, refused, or met by poison or an uncorrectable error (R125, R131, R171,
R250, R258). -/
def requestFailed (s : State) (q : Req) (code : Nat) : State :=
  let s := match q.purpose with
    | .read _ _ => s.dropReq q.id
    | p => if p.onRecord then s.dropReq q.id else failWaiters (s.dropReq q.id) q.id code
  let s := match q.purpose, q.ctx with
    | .unpin a _ buf, some c => if code = codeUnreachable then keepRelease s c a buf else pinReleaseLost s c a buf
    | .unclaim _ _ _, _ => s
    | .poison, _ => s
    | p, _ => match q.item with
      | some r => failItem (match p with
          | .commit _ _ _ => lateNoCommit s r
          | _ => s) r code none
      | none => s
  afterSettle s q

/-- Items that wait on a write-back of their context that failed: the fences that started it (R261). -/
def fenceFailed (s : State) (id code : Nat) : State :=
  (s.items.filter (fun i => !i.over && kindOf i.words == kFence && i.writes.contains id)).foldl (fun s i =>
    s.modItem i.ref (fun j => { j with code := if j.code = 0 then BitVec.ofNat 8 code else BitVec.ofNat 8 (Nat.min j.code.toNat code) })) s

/-! ## Generations of a context (R156, R176, R367) -/

/-- The last scheduled read of the period has been issued: the period-start read, or the last poll of Table 10. -/
def lastRead (x : Ctx) (k : CtxCfg) : Bool := k.poll == 0 || k.period ≤ (x.polls + 1) * k.poll

/-- The generation after a generation: 0xFFFF is followed by 0x0001. -/
def nextGen (g : BitVec 16) : BitVec 16 := if g = 0xFFFF then 1 else g + 1

/-- gen advanced and head set to the last tail accepted (R156). Fold accumulators are
cleared (R313). seq starts again at 0 (R163): the numbers the machine keeps
count on above the next multiple of 2^64, so that they never meet those of an earlier generation. -/
def advanceGen (x : Ctx) : Ctx :=
  { x with gen := nextGen x.gen, head := x.lastTail, nextSeq := (x.nextSeq / 2 ^ 64 + 1) * 2 ^ 64,
           folds := List.replicate 16 ⟨0, false⟩, awaiting := false, taking := false, taken := [], fetched := [] }

/-- A release of a pin of the context has yet to be performed. -/
def stillReleasing (s : State) (c : Nat) : Bool :=
  !(s.ctx c).releases.isEmpty
    || s.reqs.any (fun q => q.ctx == some c && match q.purpose with | .unpin _ _ _ => true | _ => false)

/-- resetting of CTX_STATUS: until the pins of the reset are released (R176, Table 6 of 20_control_space.md). -/
def ctxResetting (s : State) (c : Nat) : Bool := (s.ctx c).resetting && stillReleasing s c

/-- Descriptors that the last scheduled read of the period made available are dropped with their generation: intake is closed (R182). -/
def closedByReset (s : State) (c : Nat) : Bool := match s.ctxCfg c with
  | some k => (s.ctx c).intakeClosed || ((s.ctx c).firstReturned && !(s.ctx c).readPending && lastRead (s.ctx c) k)
  | none => (s.ctx c).intakeClosed

/-- A context reset: every item that has not ended ends FAILED_FAULT with the code and the number of the fault's error record, the pins are
released, gen and head change (R176, R183). A reset while one runs joins it (R484). -/
def resetContext (s : State) (c : Nat) (code : Nat) (err : Option Nat) : State :=
  if ctxResetting s c then s
  else
    let s := endMany s ((s.items.filter (fun i => i.ref.ctx == c && !i.over)).map (fun i => (i.ref, .failedFault, code, failAux i err)))
    let closed := closedByReset s c
    (releasePins s c).modCtx c (fun x => { advanceGen x with resetting := true, intakeClosed := closed })

/-! ## The safe state -/

/-- Entry to the safe state: FAULT_N is asserted, intake stops, Faces and Benches stop issuing without ramps, every unended
item ends FAILED_FAULT with the code its cause gives it and the number of the cause's error record, and the Ledger and the error records drain
(R183, R412 to R415, R418). -/
def enterSafe (s : State) (codeFor : Item → Nat) (err : Nat) : State :=
  if s.boot.safe then s
  else
    let s := { s with boot := { s.boot with safe := true, safeAt := s.now, faultN := true } }
    let s := { s with
      faces := s.faces.map (fun f => { f with state := .stopped, restartLatched := false, pendingOp := none, inFlight := [] }) }
    let s := endMany s ((s.items.filter (fun i => !i.over)).map (fun i => (i.ref, .failedFault, codeFor i, failAux i (some err))))
    let s := (List.range 48).foldl (fun s c => drain s c) s
    drainErrors s

end Sys2Proof.Machine
end

