-- ==== Sys2Proof/Machine/Desc.lean ====
section
/-! DEFINITION. Descriptors: the fields of every kind (R88, R90, R139, R160, R164 to R166, R197, R237, R302, R432), which of them a
use leaves reserved (R505, R504), and the encodings they define (R9, R26). -/

namespace Sys2Proof.Machine

/-! ## Masks of used fields -/

/-- A whole word. -/
def allBits : List (Nat × Nat) := [(63, 0)]

/-- Fields that are used where the condition holds. -/
def usedIf (b : Bool) (fs : List (Nat × Nat)) : List (Nat × Nat) := if b then fs else []

/-- The mask of a list of fields, each as highest and lowest bit. -/
def fieldMask (fs : List (Nat × Nat)) : W64 :=
  BitVec.ofNat 64 (fs.foldl (fun acc f => acc ||| ((2 ^ (f.1 + 1 - f.2) - 1) <<< f.2)) 0)

/-- No word has a bit set outside its used fields; words beyond the list have none. -/
def onlyUsed (ws : List W64) (used : List (List (Nat × Nat))) : Bool :=
  (List.range ws.length).all (fun i => wd ws i &&& ~~~ (fieldMask (used.getD i [])) == 0)

/-- Used fields of the common word (Table 3 of 06_work.md). -/
def commonUsed : List (Nat × Nat) := [(63, 54), (47, 32)]

/-! ## FENCE, HINT, MARK (Tables 5 to 7 of 06_work.md) -/

def fenceType (ws : List W64) : Nat := bits (wd ws 1) 63 62
def fenceFlush (ws : List W64) : Bool := bitAt (wd ws 1) 61
def fenceBase (ws : List W64) : Nat := (wd ws 2).toNat
def fenceLen (ws : List W64) : Nat := (wd ws 3).toNat

/-- The lines a FENCE acts on: base 0 with length 0 is every line of the cache partition, none (Table 5 of 06_work.md). -/
def fenceRange (ws : List W64) : Option (Nat × Nat) := if fenceBase ws = 0 ∧ fenceLen ws = 0 then none else some (fenceBase ws, fenceLen ws)
def hintDuration (ws : List W64) : Nat := bits (wd ws 1) 63 32
def hintPower (ws : List W64) : Nat := bits (wd ws 1) 31 16
def hintLead (ws : List W64) : Nat := bits (wd ws 1) 15 0
def markAction (ws : List W64) : Nat := bits (wd ws 1) 63 60
def markCmp (ws : List W64) : Nat := bits (wd ws 1) 59 58
def markAddr (ws : List W64) : Nat := (wd ws 2).toNat
def markValue (ws : List W64) : W64 := wd ws 3

def fenceUsed : List (List (Nat × Nat)) := [commonUsed, [(63, 61)], allBits, allBits]
def hintUsed : List (List (Nat × Nat)) := [commonUsed, allBits]

/-- PUBLISH and WAIT use the address, WAIT the comparison. -/
def markUsed (ws : List W64) : List (List (Nat × Nat)) :=
  [commonUsed, (63, 60) :: usedIf (3 ≤ markAction ws) [(59, 58)], usedIf (2 ≤ markAction ws) allBits, allBits]

/-! ## HAUL (Table 10 of 08_memory.md) -/

/-- A HAUL descriptor. -/
structure HaulD where
  op : Nat
  fmt : Nat
  aop : Nat
  ret : Bool
  engines : Nat
  anyLanding : Bool
  landing : Nat
  cols : Nat
  rows : Nat
  src : Nat
  dst : Nat
  aux : Nat
  srcStride : Nat
  dstStride : Nat
  pattern : W64
  srcScale : Nat
  dstScale : Nat

def haulD (ws : List W64) : HaulD :=
  let w := wd ws
  { op := bits (w 1) 63 60, fmt := bits (w 1) 59 56, aop := bits (w 1) 55 51, ret := bitAt (w 1) 50, engines := bits (w 1) 49 46 + 1,
    anyLanding := bitAt (w 1) 45, landing := bits (w 1) 44 41, cols := bits (w 2) 63 32, rows := bits (w 2) 31 0, src := (w 3).toNat,
    dst := (w 4).toNat, aux := (w 5).toNat, srcStride := bits (w 6) 63 32, dstStride := bits (w 6) 31 0, pattern := w 8,
    srcScale := 4096 * bits (w 9) 63 40, dstScale := 4096 * bits (w 9) 39 16 }

/-- COPY 0, TRANSPOSE 1, GATHER 2, SCATTER 3, FILL 4, ATOMIC 5; an undefined op leaves reserved what every op does. -/
def haulUsed (ws : List W64) : List (List (Nat × Nat)) :=
  let d := haulD ws
  let any := 5 < d.op
  let mx := d.op == 1 && fmtMX d.fmt
  [commonUsed,
   (63, 60) :: usedIf (any || d.op == 1) [(59, 56)] ++ usedIf (any || d.op == 5) [(55, 50)] ++ [(49, 41)],
   allBits, usedIf (d.op != 4) allBits, allBits,
   usedIf (any || d.op == 2 || d.op == 3 || (d.op == 5 && d.ret)) allBits, allBits, [],
   usedIf (any || d.op == 4) allBits, usedIf (any || mx) [(63, 16)]]

/-! ## BENCH (Tables 4 and 5 of 07_bench.md) -/

/-- A BENCH descriptor. -/
structure BenchD where
  fn : Nat
  cores : Nat
  anyDie : Bool
  die : Nat
  fmtIn : Nat
  fmtOut : Nat
  sr : Bool
  nonsat : Bool
  cols : Nat
  rows : Nat
  src0 : Nat
  src1 : Nat
  src2 : Nat
  dst0 : Nat
  dst1 : Nat
  inStride : Nat
  outStride : Nat
  p0 : Nat
  p1 : Nat
  p2 : Nat
  p3 : Nat
  step : Nat
  stream : Nat
  indexBase : Nat

def benchD (ws : List W64) : BenchD :=
  let w := wd ws
  { fn := bits (w 1) 63 56, cores := bits (w 1) 55 51 + 1, anyDie := bitAt (w 1) 50, die := bits (w 1) 49 45, fmtIn := bits (w 1) 44 41,
    fmtOut := bits (w 1) 40 37, sr := bitAt (w 1) 36, nonsat := bitAt (w 1) 35, cols := bits (w 2) 63 32, rows := bits (w 2) 31 0,
    src0 := (w 3).toNat, src1 := (w 4).toNat, src2 := (w 5).toNat, dst0 := (w 6).toNat, dst1 := (w 7).toNat,
    inStride := bits (w 8) 63 32, outStride := bits (w 8) 31 0, p0 := bits (w 9) 63 32, p1 := bits (w 9) 31 0, p2 := bits (w 10) 63 32,
    p3 := bits (w 10) 31 0, step := bits (w 11) 63 32, stream := bits (w 11) 31 0, indexBase := bits (w 12) 47 0 }

/-- Group width of a NORM_BWD in columns, the full row for 0. -/
def BenchD.group (d : BenchD) : Nat := if d.p2 / 2 ^ 16 = 0 then d.cols else 32 * (d.p2 / 2 ^ 16)

/-- A NORM_BWD of type LAYER. -/
def BenchD.layer (d : BenchD) : Bool := d.p2 % 4 == 0

/-- Bytes from dst1 to the end of dγ, and of dβ for LAYER. -/
def BenchD.gradBytes (d : BenchD) : Nat := if d.layer then roundUp (4 * d.cols) 64 + 4 * d.cols else 4 * d.cols

def benchUsed (ws : List W64) : List (List (Nat × Nat)) :=
  let d := benchD ws
  let f := d.fn
  let any := f == 0 || 6 < f
  let rubble := f == 4 || f == 5
  [commonUsed,
   [(63, 45)] ++ usedIf (f != 5) [(44, 41)] ++ usedIf (any || !(f == 3 || f == 4)) [(40, 37)] ++ [(36, 35)],
   allBits, allBits, usedIf (any || f == 1 || f == 2 || f == 5) allBits, usedIf (any || f == 1) allBits, allBits,
   usedIf (any || f == 1 || f == 4) allBits, usedIf (any || !rubble) allBits, allBits, allBits, allBits, [(47, 0)]]

/-! ## UPDATE (Table 3 of 05_training_passes.md) -/

/-- An UPDATE descriptor. -/
structure UpdateD where
  opt : Nat
  gradFmt : Nat
  copyFmt : Nat
  stateFmt : Nat
  extended : Bool
  copySr : Bool
  copyNonsat : Bool
  copyBlock : Bool
  clip : Bool
  watch : Bool
  momentum : Bool
  copyStride : Nat
  cols : Nat
  rows : Nat
  indexBase : Nat
  step : Nat
  stream : Nat
  record : Nat
  grad : Nat
  normCell : Nat
  lr : Nat
  decay : Nat
  beta1 : Nat
  beta2 : Nat
  eps : Nat
  maxNorm : Nat
  c1 : Nat
  c2 : Nat
  rmsClip : Nat
  ratioHi : Nat
  ratioLo : Nat
  slotStride : Nat
  copyScale : Nat
  master : Nat
  tail : Nat
  state1 : Nat
  state2 : Nat
  state3 : Nat

def updateD (ws : List W64) : UpdateD :=
  let w := wd ws
  { opt := bits (w 1) 63 60, gradFmt := bits (w 1) 59 56, copyFmt := bits (w 1) 55 52, stateFmt := bits (w 1) 51 48,
    extended := bitAt (w 1) 47, copySr := bitAt (w 1) 46, copyNonsat := bitAt (w 1) 45, copyBlock := bitAt (w 1) 44, clip := bitAt (w 1) 43,
    watch := bitAt (w 1) 42, momentum := bitAt (w 1) 41, copyStride := bits (w 1) 31 0, cols := bits (w 2) 63 32, rows := bits (w 2) 31 0,
    indexBase := bits (w 3) 47 0, step := bits (w 4) 63 32, stream := bits (w 4) 31 0, record := (w 5).toNat, grad := (w 6).toNat,
    normCell := (w 7).toNat, lr := bits (w 8) 63 32, decay := bits (w 8) 31 0, beta1 := bits (w 9) 63 32, beta2 := bits (w 9) 31 0,
    eps := bits (w 10) 63 32, maxNorm := bits (w 10) 31 0, c1 := bits (w 11) 63 32, c2 := bits (w 11) 31 0, rmsClip := bits (w 12) 63 32,
    ratioHi := bits (w 13) 63 32, ratioLo := bits (w 13) 31 0, slotStride := (w 14).toNat, copyScale := 4096 * bits (w 15) 23 0,
    master := (w 16).toNat, tail := (w 17).toNat, state1 := (w 18).toNat, state2 := (w 19).toNat, state3 := (w 20).toNat }

/-- SGD_MOMENTUM 0, ADAMW 1, FACTORED 2. -/
def updateUsed (ws : List W64) : List (List (Nat × Nat)) :=
  let d := updateD ws
  let o := d.opt
  [commonUsed, [(63, 42)] ++ usedIf (2 ≤ o) [(41, 41)] ++ [(31, 0)], allBits, [(47, 0)], allBits, allBits, allBits,
   usedIf (d.clip || 2 < o) allBits, allBits, (63, 32) :: usedIf (1 ≤ o) [(31, 0)], allBits, usedIf (o == 1 || 2 < o) allBits,
   usedIf (2 ≤ o) [(63, 32)], allBits, allBits, [(23, 0)], allBits, usedIf (d.extended || 2 < o) allBits,
   usedIf (o != 2 || d.momentum) allBits, usedIf (1 ≤ o) allBits, usedIf (2 ≤ o) allBits]

/-! ## COLLECTIVE (Table 2 of 11_collectives.md) -/

/-- A COLLECTIVE descriptor. -/
structure CollD where
  op : Nat
  algo : Nat
  group : Nat
  crusher : Bool
  backup : Bool
  fold : Bool
  versioned : Bool
  fmtIn : Nat
  fmtOut : Nat
  rings : Nat
  acc : Nat
  headroom : Nat
  root : Nat
  count : Nat
  src : Nat
  dst : Nat
  buf : Nat
  chunkWait : Nat
  fanIn : Nat
  chunkPkts : Nat
  normCell : Nat
  step : Nat
  scaleCount : Nat
  scaleOff : Nat

def collD (ws : List W64) : CollD :=
  let w := wd ws
  { op := bits (w 1) 63 60, algo := bits (w 1) 59 58, group := bits (w 1) 57 48, crusher := bitAt (w 1) 47, backup := bitAt (w 1) 46,
    fold := bitAt (w 1) 45, versioned := bitAt (w 1) 44, fmtIn := bits (w 1) 43 40, fmtOut := bits (w 1) 39 36,
    rings := bits (w 1) 35 32 + 1, acc := bits (w 1) 31 28, headroom := bits (w 1) 27 24, root := bits (w 1) 23 8,
    count := bits (w 2) 47 0, src := (w 3).toNat, dst := (w 4).toNat, buf := (w 5).toNat, chunkWait := bits (w 6) 63 32,
    fanIn := bits (w 6) 31 16, chunkPkts := bits (w 6) 15 8 + 1, normCell := (w 7).toNat, step := bits (w 8) 63 32,
    scaleCount := bits (w 9) 63 24, scaleOff := 4096 * bits (w 9) 23 0 }

/-- REDUCE_SCATTER 0, ALL_GATHER 1, ALL_REDUCE 2, BROADCAST 3, ALL_TO_ALL 4, NORM_ALLREDUCE 5. -/
def CollD.reduces (d : CollD) : Bool := d.op == 0 || d.op == 2

/-- The group record in force that a COLLECTIVE of a partition names. -/
def collGroup (s : State) (p : Nat) (d : CollD) : Option Group := s.cfg.groups.find? (fun g => g.index == d.group && g.partition == p)

/-- A BROADCAST at a rank that is not its root: it has no src. -/
def CollD.noSrc (d : CollD) (g : Option Group) : Bool :=
  d.op == 3 && match g with
    | some r => r.rank != d.root
    | none => false

def collUsed (ws : List W64) (g : Option Group) : List (List (Nat × Nat)) :=
  let d := collD ws
  let any := 5 < d.op
  [commonUsed, [(63, 44)] ++ usedIf (any || d.reduces) [(43, 36)] ++ [(35, 24)] ++ usedIf (any || d.op == 3) [(23, 8)],
   usedIf (d.op != 5) [(47, 0)], usedIf (d.op != 5 && !d.noSrc g) allBits, usedIf (d.op != 5) allBits, allBits,
   [(63, 8)], usedIf (5 ≤ d.op) allBits, usedIf (5 ≤ d.op) [(63, 32)],
   usedIf (any || (d.op == 1 && d.versioned)) [(63, 24)] ++ [(23, 0)]]

/-! ## SNAPSHOT (Tables 6 and 13 of 16_survival.md) -/

/-- A SNAPSHOT descriptor. -/
structure SnapD where
  action : Nat
  tensor : Nat
  slotted : Bool
  cores : Nat
  engines : Nat
  group : Nat
  source : Nat
  fmt : Nat
  round : Nat
  step : Nat
  src : Nat
  dst : Nat
  bytes : Nat
  localOff : Nat
  remoteOff : Nat
  slice : Nat
  slotStride : Nat
  mtbf : Nat
  count : Nat
  member : Nat
  offset : Nat
  via : Nat
  cols : Nat
  rows : Nat
  rowStride : Nat
  mask : Nat

def snapD (ws : List W64) : SnapD :=
  let w := wd ws
  { action := bits (w 1) 63 60, tensor := bits (w 1) 59 44, slotted := bitAt (w 1) 43, cores := bits (w 1) 42 39 + 1,
    engines := bits (w 1) 38 35 + 1, group := bits (w 1) 34 25, source := bits (w 1) 24 22, fmt := bits (w 1) 21 18,
    round := bits (w 2) 63 32, step := bits (w 2) 31 0, src := (w 3).toNat, dst := (w 4).toNat, bytes := bits (w 5) 47 0,
    localOff := bits (w 6) 47 0, remoteOff := bits (w 7) 47 0, slice := bits (w 8) 47 0, slotStride := (w 9).toNat,
    mtbf := bits (w 10) 63 32, count := bits (w 10) 31 0, member := bits (w 11) 63 48, offset := bits (w 11) 47 0,
    via := bits (w 12) 63 48, cols := bits (w 13) 63 32, rows := bits (w 13) 31 0, rowStride := bits (w 14) 63 32,
    mask := (w 15).toNat }

/-- SECURE 0, PRIV 1, CLOSE 2, EVAL 3, RESTORE 4, REFORM 5; a RESTORE from LOCAL 0, MEMBER 1, MIRROR 2, PARITY 3. -/
def snapUsed (ws : List W64) : List (List (Nat × Nat)) :=
  let d := snapD ws
  let a := d.action
  let any := 5 < a || (a == 4 && 3 < d.source)
  let on (l : List Nat) : Bool := any || l.contains a
  let from_ (l : List Nat) : Bool := any || (a == 4 && l.contains d.source)
  let slot := any || (a == 0 && d.slotted)
  [commonUsed,
   [(63, 60)] ++ usedIf (on [0, 3, 4]) [(59, 44)] ++ usedIf (on [0]) [(43, 43)] ++ usedIf (on [0, 3] || from_ [3]) [(42, 39)]
     ++ usedIf (a != 5) [(38, 35)] ++ usedIf (on [5]) [(34, 25)] ++ usedIf (on [4]) [(24, 22)] ++ usedIf (on [3]) [(21, 18)],
   usedIf (on [0, 2, 3, 4]) [(63, 32)] ++ usedIf (on [0, 1, 2, 3]) [(31, 0)],
   usedIf (on [0, 1, 3]) allBits, usedIf (on [3, 4]) allBits, usedIf (on [0, 1, 4]) [(47, 0)],
   usedIf (on [0, 1, 3] || from_ [0, 1, 3]) [(47, 0)], usedIf (on [0, 1] || from_ [2, 3]) [(47, 0)],
   usedIf (on [0] || from_ [3]) [(47, 0)], usedIf slot allBits, usedIf (on [2]) allBits, usedIf (on [4]) allBits,
   usedIf (from_ [2]) [(63, 48)], usedIf (on [3]) allBits, usedIf (on [3]) [(63, 32)], usedIf (on [5] || slot) allBits]

/-! ## CHAIN (R87, Tables 1 to 5 of 04_chains.md) -/

/-- Stage kinds. -/
def skLoad : Nat := 1
def skMatmul : Nat := 2
def skScale : Nat := 3
def skBias : Nat := 4
def skAct : Nat := 5
def skMask : Nat := 6
def skNorm : Nat := 7
def skSoftmax : Nat := 8
def skRows : Nat := 9
def skCols : Nat := 10
def skStore : Nat := 11
def skDropout : Nat := 12

/-- Uses of a LOAD. -/
def useMain : Nat := 0
def useStat1 : Nat := 1
def useStat2 : Nat := 2
def useCol : Nat := 3
def useRow : Nat := 4
def useElem : Nat := 5
def useIndex : Nat := 6

/-- Fields of a stage word. -/
def sKind (w : W64) : Nat := bits w 63 60
def sSlot (w : W64) : Nat := bits w 59 57
def ldUse (w : W64) : Nat := bits w 56 54
def ldTransform (w : W64) : Nat := bits w 53 52
def ldFmt (w : W64) : Nat := bits w 51 48
def ldIndex (w : W64) : Nat := bits w 47 44
def ldResident (w : W64) : Bool := bitAt w 43
def mmFeed (w : W64) : Nat := bits w 59 56
def mmStat (w : W64) : Nat := bits w 55 52
def mmSr (w : W64) : Bool := bitAt w 51
def mmNonsat (w : W64) : Bool := bitAt w 50
def mmStream (w : W64) : Nat := bits w 47 16
def sMode (w : W64) : Nat := bits w 59 58
def sOperand (w : W64) : Nat := bits w 57 54
def sImm (w : W64) : Nat := bits w 31 0
def actFunction (w : W64) : Nat := bits w 59 54
def actIsGrad (w : W64) : Bool := bitAt w 53
def actXLoad (w : W64) : Nat := bits w 52 49
def maskFill (w : W64) : Bool := bitAt w 53
def maskShift (w : W64) : Nat := bits w 52 48
def maskOffset (w : W64) : Int := sbits w 47 24
def maskWindow (w : W64) : Nat := bits w 23 0
def normType (w : W64) : Nat := bits w 59 58
def normGammaEn (w : W64) : Bool := bitAt w 57
def normGamma (w : W64) : Nat := bits w 56 53
def normBetaEn (w : W64) : Bool := bitAt w 52
def normBeta (w : W64) : Nat := bits w 51 48
def normGroup (w : W64) : Nat := bits w 47 32
def softLse (w : W64) : Bool := bitAt w 59
def redOp (w : W64) : Nat := bits w 59 57
def stFmt (w : W64) : Nat := bits w 56 53
def stSr (w : W64) : Bool := bitAt w 52
def stNonsat (w : W64) : Bool := bitAt w 51
def stAccumulate (w : W64) : Bool := bitAt w 50
def stScatter (w : W64) : Bool := bitAt w 49
def stIndex (w : W64) : Nat := bits w 48 45
def stSource (w : W64) : Nat := bits w 44 41
def stStream (w : W64) : Nat := bits w 40 9
def dropThreshold (w : W64) : Nat := bits w 59 36
def dropStream (w : W64) : Nat := bits w 35 4

/-- The functions of Table 5; the codes from 0x10 on are paired. -/
def actDefined (f : Nat) : Bool := (1 ≤ f && f ≤ 0x0B) || (0x10 ≤ f && f ≤ 0x13)

/-- A stage that is a paired ACT. -/
def isPaired (w : W64) : Bool := sKind w == skAct && 0x10 ≤ actFunction w

/-- Used fields of a stage word; a word of an undefined kind has none that is reserved in every kind. -/
def stageUsed (w : W64) : List (Nat × Nat) :=
  let k := sKind w
  if k = skLoad then [(63, 48), (43, 43)] ++ usedIf (2 ≤ ldTransform w || ldUse w == 7) [(47, 44)]
  else if k = skMatmul then [(63, 50), (47, 16)]
  else if k = skScale ∨ k = skBias then [(63, 58)] ++ usedIf (sMode w != 0) [(57, 54)] ++ usedIf (sMode w == 0) [(31, 0)]
  else if k = skAct then
    [(63, 53)] ++ usedIf (actIsGrad w || !actDefined (actFunction w)) [(52, 49)] ++ usedIf (actFunction w == 2 || !actDefined (actFunction w)) [(31, 0)]
  else if k = skMask then [(63, 58), (53, 0)] ++ usedIf (2 ≤ sMode w) [(57, 54)]
  else if k = skSoftmax then [(63, 59)]
  else if k = skRows ∨ k = skCols then [(63, 57)]
  else if k = skStore then [(63, 49), (44, 9)] ++ usedIf (stScatter w) [(48, 45)]
  else if k = skDropout then [(63, 4)]
  else allBits

/-- Every enumerated field of a stage word holds a defined encoding. -/
def stageDefined (w : W64) : Bool :=
  let k := sKind w
  if k = skLoad then ldUse w != 7 && ldTransform w != 3 && fmtDefined (ldFmt w)
  else if k = skMatmul then fmtDefined (mmFeed w)
  else if k = skAct then actDefined (actFunction w)
  else if k = skNorm then normType w ≤ 1
  else if k = skRows ∨ k = skCols then redOp w ≤ 5
  else if k = skStore then fmtDefined (stFmt w)
  else 1 ≤ k && k ≤ 12

/-- A CHAIN descriptor: its header, stage words and tensor entries. -/
structure ChainD where
  faces : Nat
  rowBlock : Nat
  m : Nat
  k1 : Nat
  n1 : Nat
  n2 : Nat
  step : Nat
  st : List W64
  tn : List (W64 × W64)

def chainStages (ws : List W64) : Nat := bits (wd ws 1) 51 48
def chainTensors (ws : List W64) : Nat := bits (wd ws 1) 55 52

/-- Word index of the first tensor entry. -/
def tensorWord (ws : List W64) : Nat := 8 + 8 * ceilDiv (chainStages ws) 8

def chainD (ws : List W64) : ChainD :=
  let w := wd ws
  { faces := bits (w 1) 57 56, rowBlock := bits (w 1) 47 32, m := bits (w 1) 31 0 + 1, k1 := bits (w 2) 31 0, n1 := bits (w 2) 63 32,
    n2 := bits (w 3) 31 0, step := bits (w 3) 63 32, st := (List.range (chainStages ws)).map (fun s => w (8 + s)),
    tn := (List.range (chainTensors ws)).map (fun t => (w (tensorWord ws + 2 * t), w (tensorWord ws + 2 * t + 1))) }

/-- Records that R87 gives a CHAIN. -/
def chainRecords (ws : List W64) : Nat := 1 + ceilDiv (chainStages ws) 8 + ceilDiv (chainTensors ws) 4

/-- The header and the unused words of a CHAIN. -/
def chainUsed (ws : List W64) : List (List (Nat × Nat)) :=
  let t0 := tensorWord ws
  (List.range ws.length).map (fun i =>
    if i = 0 then commonUsed else if i = 1 then [(57, 0)] else if i ≤ 3 then allBits else if i < 8 then []
    else if i < 8 + chainStages ws then allBits
    else if t0 ≤ i ∧ i < t0 + 2 * chainTensors ws then (if (i - t0) % 2 = 0 then allBits else [(56, 0)])
    else [])

end Sys2Proof.Machine
end

