-- ==== Sys2Proof/Machine/Prim.lean ====
section
/-! DEFINITION. exp, erf, tanh, sigmoid and the logarithm (R91, R100, R124): exact values to far more bits than any format
keeps. A primitive's result then takes the free error that its accuracy rule leaves (Config.primError); the logarithm is
correctly rounded. -/

namespace Sys2Proof.Machine

/-- Fraction bits of the fixed-point numbers below. -/
def fxBits : Nat := 256

/-- One in fixed point. -/
def fxOne : Int := 2 ^ fxBits

/-- Product in fixed point. -/
def fxMul (a b : Int) : Int := a * b / fxOne

/-- A number in fixed point, cut below. -/
def fxOf : Num → Int
  | .fin s m e =>
    let k : Int := e + fxBits
    signedMag s (if 0 ≤ k then m * 2 ^ k.toNat else m / 2 ^ (-k).toNat)
  | _ => 0

/-- A fixed-point number times 2^k as a number. -/
def fxNum (v : Int) (k : Int) : Num := .fin (v < 0) v.natAbs (k - fxBits)

/-- The sum of t, t z / (a+1), t z^2 / ((a+1)(a+2)) and so on. -/
def fxExpSeries (z : Int) : Nat → Nat → Int → Int
  | 0, _, _ => 0
  | n + 1, a, t => t + fxExpSeries z n (a + 1) (fxMul t z / (a + 1))

/-- The sum of w / a, w q / (a + 2), w q^2 / (a + 4) and so on. -/
def fxAtanhSeries (q : Int) : Nat → Nat → Int → Int
  | 0, _, _ => 0
  | n + 1, a, w => w / a + fxAtanhSeries q n (a + 2) (fxMul w q)

/-- ln f of a fixed-point f in [1, 2]: twice the inverse hyperbolic tangent of (f - 1) / (f + 1). -/
def fxLn (f : Int) : Int :=
  let z := (f - fxOne) * fxOne / (f + fxOne)
  2 * fxAtanhSeries (fxMul z z) 84 1 z

/-- ln 2. -/
def fxLn2 : Int := fxLn (2 * fxOne)

/-- The exponential of a fixed-point number: a fixed-point value in [1, 2) or near it, and a power of two. -/
def fxExp (x : Int) : Int × Int :=
  let k := x / fxLn2
  (fxExpSeries (x - k * fxLn2) 60 0 fxOne, k)

/-- e^x for a finite x: exact to more than 200 bits; beyond ±2,000 a power of two that every format here rounds to its
infinity or to zero. -/
def expExact (x : Num) : Num :=
  let bound := Num.ofNat 2000
  if bound.absLt x then (if x.signBit then .fin false 1 (-2500) else .fin false 1 2500)
  else let (v, k) := fxExp (fxOf x); fxNum v k

/-- pi in fixed point, by Machin's formula: 16 arctan 1/5 - 4 arctan 1/239. -/
def fxPi : Int :=
  16 * fxAtanhSeries (-(fxOne / 25)) 120 1 (fxOne / 5) - 4 * fxAtanhSeries (-(fxOne / 57121)) 40 1 (fxOne / 239)

/-- The sum of t / (2n+1) with t_0 = 1 and t_n = -t_{n-1} z / n. -/
def fxErfSeries (z : Int) : Nat → Nat → Int → Int
  | 0, _, _ => 0
  | k + 1, n, t => t / (2 * n + 1) + fxErfSeries z k (n + 1) (-(fxMul t z) / (n + 1))

/-- erf x for a finite x: x times 2 / sqrt pi times the series in x^2; ±1 from |x| = 7 on, where it is within 2^-70. -/
def erfExact (x : Num) : Num :=
  if (Num.ofNat 7).absLt x then .fin x.signBit 1 0
  else
    let z := fxOf (Num.mul x x).val
    let c := (Num.div (Num.ofNat 2) (Num.sqrt (fxNum fxPi 0)).val).val
    (Num.mul x (Num.mul c (fxNum (fxErfSeries z 300 0 fxOne) 0)).val).val

/-- tanh x for a finite x: x itself below 2^-40, where the two agree to 2^-80; ±1 from |x| = 60 on. -/
def tanhExact (x : Num) : Num :=
  if x.absLt (.fin false 1 (-40)) then x
  else if (Num.ofNat 60).absLt x then .fin x.signBit 1 0
  else
    let t := expExact ((Num.mul (.fin true 2 0) x.abs).val)
    let r := (Num.div (Num.sub Num.one t).val (Num.add Num.one t).val).val
    if x.signBit then r.neg else r

/-- 1 / (1 + e^-x) for a finite x. -/
def sigmoidExact (x : Num) : Num :=
  if x.signBit then
    let t := expExact x
    (Num.div t (Num.add Num.one t).val).val
  else (Num.div Num.one (Num.add Num.one (expExact x.neg)).val).val

/-- The exact value of a primitive, at infinities its limit. -/
def primExact (p : Config.Prim) : Num → Num
  | .nan => .nan
  | .inf s => match p with
    | .exp | .exp64 => if s then .fin false 0 0 else .inf false
    | .erf | .tanh => .fin s 1 0
    | .sigmoid => if s then .fin false 0 0 else Num.one
  | x => match p with
    | .exp | .exp64 => expExact x
    | .erf => erfExact x
    | .tanh => tanhExact x
    | .sigmoid => sigmoidExact x

/-- Bits of a primitive's accuracy: 2^-26 relative for the stage units (R100), 2^-50 for the FP64 exponential (R124). -/
def primBits : Config.Prim → Int
  | .exp64 => 50
  | _ => 26

/-- The result of a primitive: its exact value changed by the free error within the bound, then rounded once. An exact
zero and an infinity have no relative error. -/
def prim (p : Config.Prim) (x : Num) : Num :=
  let f := match p with
    | .exp64 => fmtFP64
    | _ => fmtA40
  let key : BitVec 64 := BitVec.ofNat 64 (encodeFloat f x)
  match x, primExact p x with
  | .fin _ _ _, .fin s m e =>
    if m = 0 then .fin s 0 0
    else
      let k := 30 + primBits p
      let d : Int := (2 : Int) ^ k.toNat + (Config.primError p key).toInt
      (Num.fin s (m * d.natAbs) (e - k)).toFmt f
  | _, y => y

/-- The logarithm of a number, exact to more than 200 bits with a sticky bit below; a zero gives minus infinity, a
negative number is invalid. -/
def Num.ln : Num → Fl Num
  | .nan => ⟨.nan, 0⟩
  | .inf s => if s then ⟨.nan, flInvalid⟩ else ⟨.inf false, 0⟩
  | .fin s m e =>
    if m = 0 then ⟨.inf true, 0⟩
    else if s then ⟨.nan, flInvalid⟩
    else
      let l := Nat.log2 m
      let v := (e + l) * fxLn2 + fxLn (fxOf (.fin false m (-(l : Int))))
      if m = 2 ^ l ∧ e + l = 0 then ⟨Num.zero, 0⟩
      else ⟨.fin (v < 0) (2 * v.natAbs + 1) (-(fxBits : Int) - 1), 0⟩

/-- The A40 values of the constants of R91 and R502. -/
def c1A40 : Num := ((Num.sqrt (Num.div (Num.ofNat 2) (fxNum fxPi 0)).val).val).toFmt fmtA40
def c2A40 : Num := ((Num.div (Num.ofNat 44715) (Num.ofNat 1000000)).val).toFmt fmtA40
def c3A40 : Num := ((Num.div (Num.ofNat 134145) (Num.ofNat 1000000)).val).toFmt fmtA40
def c4A40 : Num := ((Num.rsqrt (Num.ofNat 2)).val).toFmt fmtA40
def c5A40 : Num := ((Num.rsqrt (Num.mul (Num.ofNat 2) (fxNum fxPi 0)).val).val).toFmt fmtA40

/-- 0.5. -/
def halfA40 : Num := .fin false 1 (-1)

end Sys2Proof.Machine
end

