-- ==== Sys2Proof/Machine/Stage.lean ====
section
/-! DEFINITION. Stage numerics (R99 to R109, R502): every elementary operation in A40, or in FP32 with subnormals flushed in
a T1-emulation context (R55, R57). A NaN operand of a stage sets nan_in; a NaN made inside it sets invalid (R40). -/

namespace Sys2Proof.Machine

/-- A result rounded as a stage rounds: to A40, or in T1-emulation to FP32 with subnormals flushed. -/
def arRound (t1 : Bool) (x : Num) : Num := if t1 then flushSub fmtFP32 (x.toFmt fmtFP32) else x.toFmt fmtA40

/-- One elementary operation: exact, then rounded. -/
def arAdd (t1 : Bool) (a b : Num) : Fl Num := (Num.add a b).map (arRound t1)
def arSub (t1 : Bool) (a b : Num) : Fl Num := (Num.sub a b).map (arRound t1)
def arMul (t1 : Bool) (a b : Num) : Fl Num := (Num.mul a b).map (arRound t1)
def arDiv (t1 : Bool) (a b : Num) : Fl Num := (Num.div a b).map (arRound t1)
def arRsqrt (t1 : Bool) (a : Num) : Fl Num := (Num.rsqrt a).map (arRound t1)
def arLn (t1 : Bool) (a : Num) : Fl Num := (Num.ln a).map (arRound t1)

/-- A computation on operands: a NaN among them gives NaN and sets nan_in alone (R40). -/
def guardNan (ops : List Num) (f : Fl Num) : Fl Num := if ops.any Num.isNan then ⟨.nan, flNanIn⟩ else f

/-- nan_in where an operand is NaN. -/
def nanFlag (ops : List Num) : BitVec 8 := flagIf (ops.any Num.isNan) flNanIn

/-! ## ACT (Tables 5 and 13) -/

/-- x × y in A40. -/
def mulA (a b : Num) : Fl Num := arMul false a b
def addA (a b : Num) : Fl Num := arAdd false a b
def subA (a b : Num) : Fl Num := arSub false a b

def isPos (x : Num) : Bool := Num.lt Num.zero x
def isNonneg (x : Num) : Bool := Num.le Num.zero x

/-- The argument of tanh in GELU_TANH: c1 × (x + c2 × ((x × x) × x)). -/
def geluInner (x : Num) : Fl Num :=
  (mulA x x).bind fun x2 => (mulA x2 x).bind fun x3 => (mulA c2A40 x3).bind fun t => (addA x t).bind fun u => mulA c1A40 u

/-- The unpaired functions of Table 5; param is LEAKY_RELU's. -/
def actFn (fn : Nat) (param x : Num) : Fl Num :=
  if fn = 0x01 then ⟨if isPos x then x else Num.zero, 0⟩
  else if fn = 0x02 then (if isNonneg x then ⟨x, 0⟩ else guardNan [param, x] (mulA param x))
  else if fn = 0x03 then
    (mulA halfA40 x).bind fun h => (mulA x c4A40).bind fun y => (addA Num.one (prim .erf y)).bind fun e => mulA h e
  else if fn = 0x04 then
    (mulA halfA40 x).bind fun h => (geluInner x).bind fun y => (addA Num.one (prim .tanh y)).bind fun e => mulA h e
  else if fn = 0x05 then mulA x (prim .sigmoid x)
  else if fn = 0x06 then ⟨prim .sigmoid x, 0⟩
  else if fn = 0x07 then ⟨prim .tanh x, 0⟩
  else if fn = 0x08 then ⟨prim .exp x, 0⟩
  else if fn = 0x09 then (addA Num.one (prim .exp x)).bind fun y => arLn false y
  else if fn = 0x0A then mulA x x
  else let r := if isPos x then x else Num.zero; mulA r r

/-- The derivative d of Table 13, for the functions whose row gives one; for the rows that give y it is 1 where g passes
and 0 elsewhere, as the paired form takes it. -/
def actDeriv (fn : Nat) (x : Num) : Fl Num :=
  if fn = 0x01 then ⟨if isPos x then Num.one else Num.zero, 0⟩
  else if fn = 0x03 then
    (mulA x c4A40).bind fun y => (addA Num.one (prim .erf y)).bind fun e => (mulA halfA40 e).bind fun phi =>
    (mulA x x).bind fun x2 => (mulA x2 halfA40.neg).bind fun z => (mulA (prim .exp z) c5A40).bind fun q =>
    (mulA x q).bind fun xq => addA phi xq
  else if fn = 0x04 then
    (geluInner x).bind fun y =>
    let t := prim .tanh y
    (addA Num.one t).bind fun u => (mulA halfA40 u).bind fun a => (mulA halfA40 x).bind fun h =>
    (mulA t t).bind fun tt => (subA Num.one tt).bind fun s => (mulA x x).bind fun x2 => (mulA c3A40 x2).bind fun z =>
    (addA Num.one z).bind fun w => (mulA c1A40 w).bind fun v => (mulA s v).bind fun sv => (mulA h sv).bind fun b => addA a b
  else if fn = 0x05 then
    let s := prim .sigmoid x
    (subA Num.one s).bind fun u => (mulA x u).bind fun v => (addA Num.one v).bind fun w => mulA s w
  else if fn = 0x06 then let s := prim .sigmoid x; (subA Num.one s).bind fun u => mulA s u
  else if fn = 0x07 then let t := prim .tanh x; (mulA t t).bind fun u => subA Num.one u
  else if fn = 0x08 then ⟨prim .exp x, 0⟩
  else if fn = 0x09 then ⟨prim .sigmoid x, 0⟩
  else mulA (Num.ofNat 2) x

/-- An ACT with grad set (R502): y = g × d, or y as Table 13 gives it. -/
def actGrad (fn : Nat) (param g x : Num) : Fl Num :=
  guardNan [g, x] <|
    if fn = 0x01 then ⟨if isPos x then g else Num.zero, 0⟩
    else if fn = 0x02 then (if isNonneg x then ⟨g, 0⟩ else guardNan [g, param] (mulA g param))
    else if fn = 0x0B then (if isPos x then (mulA (Num.ofNat 2) x).bind fun u => mulA g u else ⟨Num.zero, 0⟩)
    else (actDeriv fn x).bind fun d => mulA g d

/-- The unpaired function of a paired function's gate (Table 5). -/
def gateFn (fn : Nat) : Nat := if fn = 0x10 then 0x05 else if fn = 0x11 then 0x03 else if fn = 0x12 then 0x01 else 0x06

/-- A paired function of a gate and an up element. -/
def actPair (fn : Nat) (gate up : Num) : Fl Num :=
  guardNan [gate, up] ((actFn (gateFn fn) Num.zero gate).bind fun a => mulA a up)

/-- d_gate and d_up of a paired function (R107, R502). A d of 0 gives d_gate = +0. -/
def actPairGrad (fn : Nat) (g gate up : Num) : Fl (Num × Num) :=
  let dGate := guardNan [g, gate, up] <| (actDeriv (gateFn fn) gate).bind fun d =>
    if d.isZero then ⟨Num.zero, 0⟩ else (mulA g up).bind fun u => mulA u d
  let dUp := guardNan [g, gate] <| (actFn (gateFn fn) Num.zero gate).bind fun a => mulA g a
  dGate.bind fun a => dUp.map fun b => (a, b)

/-- ACT in a T1-emulation context: the slow path with the T1's own definitions, which the spec does not give (notes/assumptions/6.md). A
subnormal result is flushed, which sets underflow where the value is stored (R55); a NaN made from operands that are none sets invalid
(R42). -/
def actT1 (stored : Bool) (fn : Nat) (grad : Bool) (param : BitVec 32) (xs : List Num) : Fl Num :=
  let raw := decodeFloat fmtFP32 (Config.t1Act fn grad param (xs.map (fun x => BitVec.ofNat 32 (roundEncode fmtFP32 x)))).toNat
  let y := flushSub fmtFP32 raw
  ⟨y, nanFlag xs ||| flagIf (y.isNan && !xs.any Num.isNan) flInvalid ||| flagIf (stored && !raw.isZero && y.isZero) flUnderflow⟩

/-! ## Sums -/

/-- Adjacent pairs added; a lone last element passes unchanged. -/
def pairLevel : List Num → Fl (List Num)
  | a :: b :: rest => (addA a b).bind fun s => (pairLevel rest).map fun r => s :: r
  | rest => ⟨rest, 0⟩

/-- The tree sum of a tile-row (R101); the first argument bounds the levels. -/
def treeSumGo : Nat → List Num → Fl Num
  | 0, xs => ⟨xs.headD Num.zero, 0⟩
  | k + 1, xs => if xs.length ≤ 1 then ⟨xs.headD Num.zero, 0⟩ else (pairLevel xs).bind (treeSumGo k)

/-- The tree sum of a tile-row of at most 2^16 elements. -/
def treeSum (xs : List Num) : Fl Num := treeSumGo 17 xs

/-- The pieces of columns g0 to g1 - 1 at the 256-column tile boundaries: start and end of each. -/
def tilePieces (g0 g1 : Nat) : List (Nat × Nat) :=
  (List.range ((g1 + 255) / 256 - g0 / 256)).map (fun i =>
    (Nat.max g0 ((g0 / 256 + i) * 256), Nat.min g1 ((g0 / 256 + i + 1) * 256)))

/-- Elements a to b - 1 of a row. -/
def slice {α : Type} (xs : List α) (a b : Nat) : List α := (xs.drop a).take (b - a)

/-- Values added in order, starting from the first. -/
def addInOrder (xs : List Num) : Fl Num :=
  match xs with
  | [] => ⟨Num.zero, 0⟩
  | y :: ys => Fl.foldl addA ⟨y, 0⟩ ys

/-- A row-wide sum: the tile-row sums in ascending tile order (R101). -/
def rowSum (xs : List Num) (g0 g1 : Nat) : Fl Num :=
  (Fl.mapList (fun (p : Nat × Nat) => treeSum (slice xs p.1 p.2)) (tilePieces g0 g1)).bind addInOrder

/-- Squares. -/
def squares (xs : List Num) : Fl (List Num) := Fl.mapList (fun x => mulA x x) xs

/-- Greater of two, +0 above -0, NaN where either is NaN (Table 6). -/
def pickMax (a b : Num) : Num :=
  if a.isNan || b.isNan then .nan
  else if Num.lt a b then b
  else if Num.eq a b && a.signBit && !b.signBit then b else a

/-- Lesser of two, -0 below +0, NaN where either is NaN. -/
def pickMin (a b : Num) : Num :=
  if a.isNan || b.isNan then .nan
  else if Num.lt b a then b
  else if Num.eq a b && b.signBit && !a.signBit then b else a

/-- MAX, MIN or AMAX of a nonempty list (op 2, 3, 4). -/
def extreme (op : Nat) (xs : List Num) : Num :=
  let ys := if op = 4 then xs.map Num.abs else xs
  match ys with
  | [] => Num.zero
  | y :: rest => rest.foldl (if op = 3 then pickMin else pickMax) y

/-- REDUCE_ROWS of one row (Table 6): SUM 0, SUMSQ 1, MAX 2, MIN 3, AMAX 4, MEAN 5. -/
def reduceRow (op : Nat) (xs : List Num) : Fl Num :=
  if xs.any Num.isNan then ⟨.nan, flNanIn⟩
  else if op = 1 then (squares xs).bind fun q => rowSum q 0 q.length
  else if op = 0 then rowSum xs 0 xs.length
  else if op = 5 then (rowSum xs 0 xs.length).bind fun s => arDiv false s (Num.ofNat xs.length)
  else ⟨extreme op xs, 0⟩

/-- Two columns of partial results of REDUCE_COLS combined, element by element. -/
def colCombine (op : Nat) (a b : List Num) : Fl (List Num) :=
  Fl.mapList (fun (p : Num × Num) =>
    guardNan [p.1, p.2] (if op = 2 ∨ op = 4 then ⟨pickMax p.1 p.2, 0⟩ else if op = 3 then ⟨pickMin p.1 p.2, 0⟩ else addA p.1 p.2))
    (a.zip b)

/-- REDUCE_COLS of one row block: rows in ascending order. -/
def colBlock (op : Nat) (rows : List (List Num)) : Fl (List Num) :=
  let prep (r : List Num) : Fl (List Num) :=
    if op = 1 then (squares r).with (nanFlag r) else ⟨if op = 4 then r.map Num.abs else r, nanFlag r⟩
  match rows with
  | [] => ⟨[], 0⟩
  | r :: rs => Fl.foldl (fun acc x => (prep x).bind (colCombine op acc)) (prep r) rs

/-- A row with the columns its values stand in: all of them, but for the chunks that R99 skips. -/
abbrev ColRow := List (Nat × Num)

/-- The partials of two row blocks combined: columns that both have are added, the others stand as they are. -/
def mergeCols (op : Nat) (a b : ColRow) : Fl ColRow :=
  let both := a.filterMap (fun x => (b.find? (fun y => y.1 == x.1)).map (fun y => (x.1, x.2, y.2)))
  (colCombine op (both.map (fun t => t.2.1)) (both.map (fun t => t.2.2))).map (fun v =>
    let one := (both.map Prod.fst).zip v
    let cols := ((a ++ b).map Prod.fst).dedup.mergeSort (fun x y => x ≤ y)
    cols.filterMap (fun j => one.find? (fun x => x.1 == j) <|> (a ++ b).find? (fun x => x.1 == j)))

/-- REDUCE_COLS over all rows: block partials in ascending block order; MEAN = SUM / M. The rows of a block have the same columns. -/
def reduceCols (op rowBlock m : Nat) (rows : List ColRow) : Fl ColRow :=
  (Fl.mapList (fun (b : List ColRow) => (colBlock op (b.map (fun r => r.map Prod.snd))).map (fun v => ((b.headD []).map Prod.fst).zip v))
    (chunksOf (rows.length + 1) rowBlock rows)).bind fun parts =>
    match parts with
    | [] => ⟨[], 0⟩
    | p :: ps => (Fl.foldl (mergeCols op) ⟨p, 0⟩ ps).bind fun t =>
      if op = 5 then (Fl.mapList (fun (x : Nat × Num) => (arDiv false x.2 (Num.ofNat m)).map (fun y => (x.1, y))) t) else ⟨t, 0⟩

/-! ## NORM (R103) -/

/-- Count, mean and M2 of one tile piece. -/
def normPiece (xs : List Num) : Fl (Nat × Num × Num) :=
  (treeSum xs).bind fun s => (arDiv false s (Num.ofNat xs.length)).bind fun mean =>
  (Fl.mapList (fun x => (subA x mean).bind fun d => mulA d d) xs).bind fun q =>
  (treeSum q).map fun m2 => (xs.length, mean, m2)

/-- Two pieces combined. -/
def normCombine (a b : Nat × Num × Num) : Fl (Nat × Num × Num) :=
  let (na, ma, qa) := a
  let (nb, mb, qb) := b
  let n := na + nb
  (subA mb ma).bind fun d =>
  (arDiv false (Num.ofNat nb) (Num.ofNat n)).bind fun r1 =>
  (arDiv false (Num.ofNat (na * nb)) (Num.ofNat n)).bind fun r2 =>
  (mulA d r1).bind fun s => (addA ma s).bind fun mean =>
  (addA qa qb).bind fun q => (mulA d d).bind fun dd => (mulA dd r2).bind fun t => (addA q t).map fun m2 => (n, mean, m2)

/-- Mean and rstd of one group of a row: columns g0 to g1 - 1 (type 0 LAYER, 1 RMS). -/
def normStats (layer : Bool) (eps : Num) (row : List Num) (g0 g1 : Nat) : Fl (Num × Num) :=
  if layer then
    (Fl.mapList (fun (p : Nat × Nat) => normPiece (slice row p.1 p.2)) (tilePieces g0 g1)).bind fun ps =>
      match ps with
      | [] => ⟨(Num.zero, Num.zero), 0⟩
      | p :: rest => (Fl.foldl normCombine ⟨p, 0⟩ rest).bind fun (n, mean, m2) =>
        (arDiv false m2 (Num.ofNat n)).bind fun v => (addA v eps).bind fun w => (arRsqrt false w).map fun r => (mean, r)
  else
    (squares row).bind fun q => (rowSum q g0 g1).bind fun s => (arDiv false s (Num.ofNat (g1 - g0))).bind fun ms =>
    (addA ms eps).bind fun w => (arRsqrt false w).map fun r => (Num.zero, r)

/-- NORM of one row: its values and the rstd of each group (R94). -/
def normRow (layer : Bool) (groupWidth : Nat) (eps : Num) (gamma beta : Option (List Num)) (row : List Num) :
    Fl (List Num × List Num) :=
  let gw := if groupWidth = 0 then row.length else groupWidth
  let groups := (List.range (ceilDiv row.length gw)).map (fun g => (g * gw, Nat.min row.length ((g + 1) * gw)))
  let one (g : Nat × Nat) : Fl (List Num × Num) :=
    (normStats layer eps row g.1 g.2).bind fun (mean, rstd) =>
    (Fl.mapList (fun (j : Nat) =>
      let x := row.getD j Num.zero
      (if layer then subA x mean else ⟨x, 0⟩).bind fun u => (mulA u rstd).bind fun v =>
      (match gamma with
        | some gm => (mulA v (gm.getD j Num.one)).with (nanFlag [gm.getD j Num.one])
        | none => ⟨v, 0⟩).bind fun w =>
      match beta with
        | some bt => if layer then (addA w (bt.getD j Num.zero)).with (nanFlag [bt.getD j Num.zero]) else ⟨w, 0⟩
        | none => ⟨w, 0⟩) ((List.range (g.2 - g.1)).map (· + g.1))).map fun ys => (ys, rstd)
  (Fl.mapList one groups).bind fun gs => ⟨(gs.flatMap Prod.fst, gs.map Prod.snd), nanFlag row⟩

/-! ## SOFTMAX (R104 to R106) -/

/-- Running statistics of a row: the maximum and the sum. -/
structure Soft where
  m : Num
  l : Num
deriving DecidableEq, Repr

def Soft.start : Soft := ⟨.inf true, Num.zero⟩

/-- One chunk of a row: the new statistics, the rescale c and the values p. DESIGN CHOICE: while every element so far is minus infinity the
values are +0 and c is 1, without a flag, also where a later chunk of the row has visible elements (notes/assumptions/104.md). -/
def softChunk (st : Soft) (xs : List Num) : Fl (Soft × Num × List Num) :=
  let m := extreme 2 (st.m :: xs)
  if m = .inf true then ⟨({ st with m := m }, Num.one, xs.map (fun _ => Num.zero)), 0⟩
  else
    (if Num.eq st.m m then ⟨Num.one, 0⟩ else (subA st.m m).map (prim .exp)).bind fun c =>
    (Fl.mapList (fun x => (subA x m).map (prim .exp)) xs).bind fun ps =>
    (treeSum ps).bind fun t => (mulA st.l c).bind fun lc => (addA lc t).bind fun l =>
    ⟨(⟨m, l⟩, c, ps), nanFlag xs⟩

/-- r = 1 / l and the side output m + ln l; +0 and minus infinity for a row that is all masked. -/
def softFinish (st : Soft) : Fl (Num × Num) :=
  if st.m = .inf true then ⟨(Num.zero, .inf true), 0⟩
  else (arDiv false Num.one st.l).bind fun r => (arLn false st.l).bind fun g => (addA st.m g).map fun o => (r, o)

/-- SOFTMAX of a whole row in the single-tile and the hold form: its values and its side output. -/
def softRow (row : List Num) : Fl (List Num × Num) :=
  (Fl.foldl (fun st xs => (softChunk st xs).map Prod.fst) ⟨Soft.start, 0⟩ (chunksOf (row.length + 1) 256 row)).bind fun st =>
  (softFinish st).bind fun (r, o) =>
  if st.m = .inf true then ⟨(row.map (fun _ => Num.zero), o), 0⟩
  else (Fl.mapList (fun x => (subA x st.m).bind fun d => mulA (prim .exp d) r) row).map fun ys => (ys, o)

/-! ## MASK and DROPOUT (R108, R109) -/

/-- The visible columns of a row in CAUSAL (mode 0) or WINDOW (mode 1), as first and last. -/
def maskSpan (mode rowShift : Nat) (offset : Int) (window row : Nat) : Int × Int :=
  let last : Int := (row >>> rowShift : Nat) + offset
  (if mode = 1 then last - window + 1 else 0, last)

/-- DROPOUT's scale q = 2^24 / (2^24 - threshold), rounded to A40. -/
def dropScale (threshold : Nat) : Num := arRound false (Num.div (Num.ofNat (2 ^ 24)) (Num.ofNat (2 ^ 24 - threshold))).val

/-! ## Face numerics (R35 to R38, R50, R54) -/

/-- hi and lo of an FP32 operand; an infinite one is its own hi, with lo zero (R50). -/
def splitFp32 (x : Num) : Num × Num :=
  if x.isInf then (x, Num.zero)
  else
    let hi := x.roundFree ⟨10, 11, 511, .ieee, 0⟩ .nearest
    (hi, (Num.sub x hi).val)

/-- The three piece products of a split term, in the order of R50; lo × lo is omitted. -/
def splitPieces (x w : Num) : Fl (List Num) :=
  let (xh, xl) := splitFp32 x
  let (wh, wl) := splitFp32 w
  Fl.mapList (fun (p : Num × Num) => Num.mul p.1 p.2) [(xh, wh), (xh, wl), (xl, wh)]

/-- One term of a group sum: the exact product, or the three piece products of the split, in which an infinity meets the other operand's
zero lo as ∞ × 0 (R50, Table 3). DEDUCED: a zero split term takes the sign of the whole product (notes/assumptions/11.md). -/
def faceTerm (split : Bool) (x w : Num) : Fl Num :=
  if x.isNan || w.isNan then ⟨.nan, flNanIn⟩
  else if split then
    (splitPieces x w).bind fun ps => (Fl.foldl Num.add ⟨ps.headD Num.zero, 0⟩ (ps.drop 1)).map fun v =>
      if v.isZero then (Num.mul x w).val else v
  else Num.mul x w

/-- The exact sum of a group's terms, rounded once to A40 (R35, R37). -/
def groupSum (ts : List Num) : Fl Num :=
  match ts with
  | [] => ⟨Num.zero, 0⟩
  | t :: rest => (Fl.foldl Num.add ⟨t, 0⟩ rest).map (fun x => x.toFmt fmtA40)

/-- The exponent of the product of the two block scales; an operand without scales counts as 1 (R35). -/
def pairExp (sx sw : Option Nat) : Int :=
  (match sx with | some s => scaleExp s | none => 0) + (match sw with | some s => scaleExp s | none => 0)

/-- The group sum times the product of the two block scales, rounded to A40 (R35). -/
def scaleGroup (sx sw : Option Nat) (g : Num) : Num := (g.scale2 (pairExp sx sw)).toFmt fmtA40

/-- A group whose block scale is 0xFF: every element of the block is NaN, whatever its bits hold (R32). -/
def nanGroup (sx sw : Option Nat) : Bool := sx == some 0xFF || sw == some 0xFF

/-- The tile result of one output: x against one column w of the tile, in groups of 32 K indices, added in ascending group
order with one A40 rounding per addition (R35, R36); a NaN block's element bits are not looked at (R32). DEDUCED: the K indices that a partial last group lacks are left out of its sum
(notes/assumptions/12.md). -/
def faceOutput (split : Bool) (xs ws : List Num) (sx sw : List (Option Nat)) : Fl Num :=
  let groups := chunksOf (xs.length + 1) 32 (xs.zip ws)
  (Fl.mapList (fun (p : List (Num × Num) × Nat) =>
    if nanGroup (sx.getD p.2 none) (sw.getD p.2 none) then ⟨.nan, flNanIn⟩
    else (Fl.mapList (fun (q : Num × Num) => faceTerm split q.1 q.2) p.1).bind fun ts =>
      (groupSum ts).map (scaleGroup (sx.getD p.2 none) (sw.getD p.2 none)))
    (groups.zip (List.range groups.length))).bind addInOrder

/-- Bounds of INT40 (R38). -/
def int40Max : Int := 2 ^ 39 - 1
def int40Min : Int := -(2 ^ 39)

/-- A sum of INT40, saturated to the nearer bound (R38). -/
def satInt40 (v : Int) : Fl Int :=
  if int40Max < v then ⟨int40Max, flIntSat⟩ else if v < int40Min then ⟨int40Min, flIntSat⟩ else ⟨v, 0⟩

/-- A 32-bit two's-complement value that wraps (R54). -/
def wrap32 (v : Int) : Int := (v + 2 ^ 31) % 2 ^ 32 - 2 ^ 31

/-- An exact integer held as a number. -/
def numInt (x : Num) : Int := x.nearestInt 0

/-- What kind of product two operand formats make (R27, R50). -/
inductive ProdKind where
  | int8
  | float
  | split
deriving DecidableEq, Repr

/-- The kind of product of a streamed and a stationary format. -/
def prodKind (a b : Nat) : ProdKind := if a = 0 then .int8 else if a = 11 ∨ b = 11 then .split else .float

/-- A product of a T1-emulation context, rounded to FP32 where an operand is FP32, then flushed (R54, R55). -/
def t1Term (split : Bool) (x w : Num) : Fl Num :=
  if x.isNan || w.isNan then ⟨.nan, flNanIn⟩
  else (Num.mul x w).map (fun p => flushSub fmtFP32 (if split then p.toFmt fmtFP32 else p))

/-- One output of a T1-emulation product over all K, one term at a time in ascending K; the accumulator begins as the first
product (R54). -/
def t1Output (split : Bool) (xs ws : List Num) : Fl Num :=
  (Fl.mapList (fun (q : Num × Num) => t1Term split q.1 q.2) (xs.zip ws)).bind fun ts =>
  match ts with
  | [] => ⟨Num.zero, 0⟩
  | t :: rest => Fl.foldl (fun a x => (Num.add a x).map (arRound true)) ⟨t.toFmt fmtFP32, 0⟩ rest

/-- One output of a T1-emulation INT8 product: wraps modulo 2^32, never saturates (R54). -/
def t1Int (xs ws : List Num) : Int := (xs.zip ws).foldl (fun a q => wrap32 (a + numInt q.1 * numInt q.2)) 0

/-- One output of an INT8 tile: exact. -/
def intOutput (xs ws : List Num) : Int := (xs.zip ws).foldl (fun a q => a + numInt q.1 * numInt q.2) 0

/-- K indices of one tile: 512 when both formats have 4-bit elements, else 256 (R65). -/
def kExtent (a b : Nat) : Nat := if fmt4 a && fmt4 b then 512 else 256

/-- Tile results of one output added in stream order (R36, R38). -/
def closeOutput (kind : ProdKind) (tiles : List Num) : Fl Num :=
  match kind with
  | .int8 =>
    (Fl.foldl (fun (a : Int) x => satInt40 (a + numInt x)) ⟨0, 0⟩ tiles).map Num.ofInt
  | _ => addInOrder tiles

end Sys2Proof.Machine
end

