-- ==== Sys2Proof/Machine/Plan.lean ====
section
/-! DEFINITION. What a CHAIN descriptor amounts to: widths (R92, R107), which stage uses which LOAD (R90), side outputs (R94), the
form of its SOFTMAX (R104), shapes of its tensors as stored (R31, R60, R236) and its Pantry cost (R113). -/

namespace Sys2Proof.Machine

/-! ## Widths and stages -/

/-- Width after a stage from its width before, the widths that the MATMULs still to come give. -/
def widthAfter (w : W64) (width : Nat) (ns : List Nat) : Nat × List Nat :=
  if sKind w = skMatmul then (ns.headD 0, ns.drop 1)
  else if isPaired w then (if actIsGrad w then 2 * width else width / 2, ns)
  else (width, ns)

/-- Width at each stage, and at the end (R92; with grad a paired ACT doubles it, R107). -/
def widthsGo : List W64 → Nat → List Nat → List Nat
  | [], width, _ => [width]
  | w :: rest, width, ns => let (v, ms) := widthAfter w width ns; width :: widthsGo rest v ms

def ChainD.widths (c : ChainD) : List Nat := widthsGo c.st c.k1 [c.n1, c.n2]

/-- Width of the main value at a stage. -/
def ChainD.width (c : ChainD) (i : Nat) : Nat := c.widths.getD i 0

def ChainD.s (c : ChainD) (i : Nat) : W64 := wd c.st i

/-- Stage indices of a kind. -/
def ChainD.ofKind (c : ChainD) (k : Nat) : List Nat := (List.range c.st.length).filter (fun i => sKind (c.s i) == k)

def ChainD.matmuls (c : ChainD) : List Nat := c.ofKind skMatmul
def ChainD.loads (c : ChainD) : List Nat := c.ofKind skLoad
def ChainD.stores (c : ChainD) : List Nat := c.ofKind skStore

/-- The MAIN LOAD. -/
def ChainD.mainLoad (c : ChainD) : Option Nat := c.loads.find? (fun i => ldUse (c.s i) == useMain)

/-- A stage of the given range that is no LOAD. -/
def ChainD.anyStage (c : ChainD) (a b : Nat) : Bool := (List.range c.st.length).any (fun i => a ≤ i && i < b && sKind (c.s i) != skLoad)

/-- A prologue stands before the first MATMUL (R96, R97). -/
def ChainD.prologue (c : ChainD) : Bool := match c.matmuls with
  | m :: _ => c.anyStage 0 m
  | [] => false

/-- The SOFTMAX in running form: between two products, wider than 256 (R104). -/
def ChainD.running (c : ChainD) : Option Nat := match c.matmuls with
  | m1 :: m2 :: _ => (c.ofKind skSoftmax).find? (fun i => m1 < i && i < m2 && 256 < c.width i)
  | _ => none

/-- Group width of a NORM (R103). -/
def ChainD.normWidth (c : ChainD) (i : Nat) : Nat := if normGroup (c.s i) = 0 then c.width i else 32 * normGroup (c.s i)

/-- A NORM or SOFTMAX that keeps its rows in a hold area (R103, R104). -/
def ChainD.holds (c : ChainD) (i : Nat) : Bool :=
  (sKind (c.s i) == skNorm && 256 < c.normWidth i && c.anyStage 0 i)
    || (sKind (c.s i) == skSoftmax && 256 < c.width i && c.running != some i)

/-- Passes of a row through a stage unit: a NORM of held or wide groups and a SOFTMAX in hold form have a finishing pass (Table 7 of
04_chains.md). -/
def ChainD.passes (c : ChainD) (i : Nat) : Nat :=
  if c.holds i || (sKind (c.s i) == skNorm && 256 < c.normWidth i) then 2 else 1

/-- Bytes of a hold area on one Face (Table 8 of 04_chains.md). -/
def ChainD.holdBytes (c : ChainD) (i : Nat) : Nat := c.rowBlock * c.width i * 5 + c.rowBlock * 16

/-- Hold areas of one Face. -/
def ChainD.holdSum (c : ChainD) : Nat := (((List.range c.st.length).filter c.holds).map c.holdBytes).sum

/-- Faces a chain runs on. -/
def ChainD.faceCount (c : ChainD) : Nat := if c.faces = 3 then 2 else 1

/-! ## LOADs and who uses them (R90) -/

/-- A stage-index field: the stage it stands in, the LOAD it names, the use that LOAD needs, the width where it is used, and whether
it is a 32-bit LENGTH entry or a BITS mask (R108). -/
structure Ref where
  stage : Nat
  load : Nat
  use : Nat
  width : Nat
  role : Nat

/-- Roles of a mask operand. -/
def roleValue : Nat := 0
def roleBits : Nat := 1
def roleLength : Nat := 2

/-- The stage-index fields of a stage. -/
def ChainD.refsAt (c : ChainD) (i : Nat) : List Ref :=
  let w := c.s i
  let k := sKind w
  let width := c.width i
  let ref (load use v role : Nat) : Ref := { stage := i, load := load, use := use, width := v, role := role }
  if k = skLoad then (if ldTransform w = 2 then [ref (ldIndex w) useIndex 0 roleValue] else [])
  else if k = skMatmul then [ref (mmStat w) (if c.matmuls.head? = some i then useStat1 else useStat2) 0 roleValue]
  else if k = skScale ∨ k = skBias then
    (if sMode w = 0 then [] else [ref (sOperand w) (if sMode w = 1 then useCol else if sMode w = 2 then useRow else useElem) width roleValue])
  else if k = skAct then (if actIsGrad w then [ref (actXLoad w) useElem (if isPaired w then 2 * width else width) roleValue] else [])
  else if k = skMask then
    (if sMode w = 2 then [ref (sOperand w) useElem width roleBits] else if sMode w = 3 then [ref (sOperand w) useRow width roleLength] else [])
  else if k = skNorm then
    (if normGammaEn w then [ref (normGamma w) useCol width roleValue] else [])
      ++ (if normBetaEn w then [ref (normBeta w) useCol width roleValue] else [])
  else if k = skStore then (if stScatter w then [ref (stIndex w) useIndex 0 roleValue] else [])
  else []

def ChainD.refs (c : ChainD) : List Ref := (List.range c.st.length).flatMap c.refsAt

/-- The width of an operand LOAD: the largest where it is used. -/
def ChainD.loadWidth (c : ChainD) (i : Nat) : Nat := maxOf ((c.refs.filter (fun r => r.load == i)).map Ref.width)

/-- The role of an operand LOAD. -/
def ChainD.role (c : ChainD) (i : Nat) : Nat := match c.refs.find? (fun r => r.load == i && r.role != roleValue) with
  | some r => r.role
  | none => roleValue

/-- An ELEM LOAD that shares the MAIN rows (R110). -/
def ChainD.shares (c : ChainD) (i : Nat) : Bool := match c.mainLoad with
  | some m => ldUse (c.s i) == useElem && sSlot (c.s i) == sSlot (c.s m) && ldFmt (c.s i) == ldFmt (c.s m)
  | none => false

/-! ## Side outputs (R94) -/

/-- A stage that has a side output. -/
def ChainD.hasSide (c : ChainD) (i : Nat) : Bool :=
  let k := sKind (c.s i)
  k == skNorm || k == skRows || k == skCols || (k == skSoftmax && softLse (c.s i))

/-- Number of values of a side output (R94). DEDUCED: a NORM whose width is no multiple of its group width has a narrower last group
(notes/assumptions/16.md). -/
def ChainD.sideCount (c : ChainD) (i : Nat) : Nat :=
  if sKind (c.s i) = skCols then c.width i
  else if sKind (c.s i) = skNorm then c.m * ceilDiv (c.width i) (Nat.max 1 (c.normWidth i)) else c.m

/-! ## Shapes as stored -/

/-- A tensor as a stage reads or writes it: rows, bytes of a row, rows and bytes of its scale array (0 rows: none), and whether its
rows are placed by an index. -/
structure Shape where
  rows : Nat
  bytes : Nat
  scaleRows : Nat
  scaleBytes : Nat
  indexed : Bool
deriving Inhabited

/-- The result rows and columns of a LOAD, before a TRANSPOSE turns them. DEDUCED: VEC_ROW and INDEX tensors are one packed row
(notes/assumptions/19.md). -/
def ChainD.loadDims (c : ChainD) (i : Nat) : Nat × Nat :=
  let w := c.s i
  let u := ldUse w
  let d : Nat × Nat :=
    if u = useMain then (c.m, c.k1)
    else if u = useStat1 ∨ u = useStat2 then
      (match c.matmuls.find? (fun m => mmStat (c.s m) == i) with
        | some m => (c.width m, c.width (m + 1))
        | none => (0, 0))
    else if u = useCol then (1, c.loadWidth i)
    else if u = useRow then (1, c.m)
    else if u = useElem then (c.m, c.loadWidth i)
    else (1, 0)
  if ldTransform w = 1 then (d.2, d.1) else d

/-- Entries of an INDEX LOAD: one for each row of the LOADs that gather by it and of the STOREs that scatter by it. -/
def ChainD.indexCount (c : ChainD) (i : Nat) : Nat :=
  maxOf ((c.refs.filter (fun r => r.load == i)).map (fun r =>
    if sKind (c.s r.stage) = skStore then (if stSource (c.s r.stage) = 0 then c.m else 1) else (c.loadDims r.stage).1))

/-- The shape a LOAD reads. A stationary MX tile as a Face reads it has one scale row for each 32 K indices (R60). -/
def ChainD.loadShape (c : ChainD) (i : Nat) : Shape :=
  let w := c.s i
  let f := ldFmt w
  let (rows, cols) := if ldUse w = useIndex then (1, c.indexCount i) else c.loadDims i
  let stat := ldUse w == useStat1 || ldUse w == useStat2
  let bytes :=
    if ldUse w = useIndex ∨ c.role i = roleLength then 4 * cols else if c.role i = roleBits then ceilDiv cols 8 else rowBytes f cols
  { rows := rows, bytes := bytes
    scaleRows := if fmtMX f then (if stat ∧ ldTransform w ≠ 1 then ceilDiv rows 32 else rows) else 0
    scaleBytes := if fmtMX f then (if stat ∧ ldTransform w ≠ 1 then cols else ceilDiv cols 32) else 0
    indexed := ldTransform w == 2 }

/-- The shape a STORE writes: M rows, or one packed row for a side output. -/
def ChainD.storeShape (c : ChainD) (i : Nat) : Shape :=
  let w := c.s i
  let f := stFmt w
  let (rows, cols) := if stSource w = 0 then (c.m, c.width i) else (1, c.sideCount (stSource w - 1))
  { rows := rows, bytes := rowBytes f cols, scaleRows := if fmtMX f then rows else 0, scaleBytes := if fmtMX f then ceilDiv cols 32 else 0
    indexed := stScatter w }

/-- The shape of the tensor of a LOAD or STORE. -/
def ChainD.shape (c : ChainD) (i : Nat) : Shape := if sKind (c.s i) = skStore then c.storeShape i else c.loadShape i

/-- Fields of a tensor entry (Table 2 of 04_chains.md). -/
def tnBase (e : W64 × W64) : Nat := e.1.toNat
def tnVersioned (e : W64 × W64) : Bool := bitAt e.2 56
def tnScale (e : W64 × W64) : Nat := 4096 * bits e.2 55 32
def tnStride (e : W64 × W64) : Nat := bits e.2 31 0

/-- The tensor entry of a LOAD or STORE. -/
def ChainD.entry (c : ChainD) (i : Nat) : W64 × W64 := c.tn.getD (sSlot (c.s i)) (0, 0)

/-! ## Pantry cost (R113) -/

/-- Bytes of an element in units of 1/32 byte, an MX element with its share of a scale. -/
def bytes32 (f : Nat) : Nat := 4 * fmtWidth f + (if fmtMX f then 1 else 0)

/-- The same for the elements of a LOAD, by its format (R113). -/
def ChainD.loadBytes32 (c : ChainD) (i : Nat) : Nat := bytes32 (ldFmt (c.s i))

/-- Bytes of a full tile (Table 2 of 03_faces.md). -/
def tileBytes (f : Nat) : Nat := if f = 5 ∨ f = 6 then 49152 else if f = 9 ∨ f = 10 then 131072 else if f = 11 then 262144 else 65536

/-- K extent of a MATMUL's product (R113). -/
def ChainD.extent (c : ChainD) (i : Nat) : Nat := kExtent (mmFeed (c.s i)) (ldFmt (c.s (mmStat (c.s i))))

/-- Scratch cost of a stage on one Face, in units of 1/32 byte. -/
def ChainD.scratch32 (c : ChainD) (i : Nat) : Nat :=
  let w := c.s i
  let k := sKind w
  let rb := c.rowBlock
  if k = skLoad then
    let u := ldUse w
    if u = useMain then (if ldResident w then 0 else 2 * rb * c.k1 * c.loadBytes32 i)
    else if u = useStat1 ∨ u = useStat2 then (if ldResident w then 0 else 64 * tileBytes (ldFmt w))
    else if u = useCol then 32 * roundUp (ceilDiv (c.loadWidth i * c.loadBytes32 i) 32) 64
    else if u = useRow then 2 * rb * c.loadBytes32 i
    else if u = useElem then (if c.shares i then 0 else 2 * rb * 256 * c.loadBytes32 i)
    else 256 * rb
  else if k = skMatmul then
    (if c.matmuls.head? = some i then (if c.prologue then 2 * rb * c.k1 * bytes32 (mmFeed w) else 0) else 4 * rb * 256 * bytes32 (mmFeed w))
  else if isPaired w then 32 * (rb * 256 * 5)
  else if c.holds i then 32 * c.holdBytes i
  else if c.running = some i then 32 * (rb * 16)
  else if k = skRows then 32 * (rb * 8)
  else if k = skCols then 32 * roundUp (5 * c.width i) 64
  else if k = skStore then 32 * 131072
  else 0

/-- Scratch cost on one Face. -/
def ChainD.scratch (c : ChainD) : Nat := ceilDiv ((List.range c.st.length).map c.scratch32).sum 32

/-- Accumulator cost on one Face. -/
def ChainD.accum (c : ChainD) : Nat := match c.matmuls with
  | [] => 0
  | m1 :: rest =>
    (if c.extent m1 < c.width m1 then 2 * c.rowBlock * 1280 else 0)
      + match rest with
        | m2 :: _ => if c.extent m2 < c.n1 then ceilDiv c.n2 256 * c.rowBlock * 1280 else 0
        | [] => 0

end Sys2Proof.Machine
end

