-- ==== Sys2Proof/Machine/Admit.lean ====
section
/-! DEFINITION. Admission: the ranges of an item's address fields (R245, R252, R505), the general checks (R167) and the checks of
every kind (R114, R140, R198, R240, R304, R433), the version-record check (R126) and the pin table (R130). -/

namespace Sys2Proof.Machine

/-! ## Codes (Table 9 of 06_work.md) -/

def codeReserved : Nat := 0x01
def codeEncoding : Nat := 0x02
def codeLength : Nat := 0x03
def codeKind : Nat := 0x04
def codeAddress : Nat := 0x05
def codeMode : Nat := 0x06
def codeRange : Nat := 0x08

/-- A context in T1-emulation (R472). -/
def isT1 (s : State) (c : Nat) : Bool := (s.partCfg (s.partitionOf c)).t1.getLsbD c

/-- A partition in deterministic scheduling mode. -/
def isDet (s : State) (c : Nat) : Bool := (s.partCfg (s.partitionOf c)).detSched

/-- Dies of a context. -/
def dieSet (s : State) (c : Nat) : List Nat := match s.ctxCfg c with
  | some k => (List.range 32).filter (fun d => k.dieSet.getLsbD d)
  | none => []

/-- Engines that are reserved for chain LOADs on each Landing (R234). -/
def chainEngines (s : State) (tipple : Bool) : Nat := if tipple then bits s.cfg.memCfg 40 38 else bits s.cfg.memCfg 37 33

/-- Item engines of a kind on one Landing (R234). -/
def itemEngines (s : State) (tipple : Bool) : Nat := (if tipple then 4 else 16) - chainEngines s tipple

/-- Cores reserved for collective work. -/
def collCores (s : State) : Nat := bits s.cfg.bench 5 0

/-! ## Version records at admission -/

/-- Version records that a descriptor names: each versioned entry of a CHAIN, an UPDATE's record, both of a versioned ALL_GATHER, the
src of a slotted SECURE and of an EVAL (R126, R312, R427, R435). -/
def namedRecords (ws : List W64) : List Nat :=
  let k := kindOf ws
  if k = kChain then (((chainD ws).tn.filter tnVersioned).map tnBase).dedup
  else if k = kUpdate then [(updateD ws).record]
  else if k = kColl then (let d := collD ws; if d.op = 1 ∧ d.versioned then [d.src, d.dst] else [])
  else if k = kSnap then (let d := snapD ws; if (d.action = 0 ∧ d.slotted) ∨ d.action = 3 then [d.src] else [])
  else []

/-- The records that admission read: address and words, none where the read returned no data. -/
abbrev Recs := List (Nat × Option (List W64))

/-- The words of a record. -/
def recWords (rs : Recs) (a : Nat) : Option (List W64) := match rs.find? (fun r => r.1 == a) with
  | some r => r.2
  | none => none

/-- The buffers that a record names. -/
def recBuffers (rs : Recs) (a : Nat) : List Nat := match recWords rs a with
  | some ws => ((List.range 3).map (recBuf ws)).filter (· != 0)
  | none => []

/-- Every record that a descriptor names passes the check of R126. -/
def recordsOk (ws : List W64) (rs : Recs) : Bool :=
  (namedRecords ws).all (fun a => a % 64 == 0 && match recWords rs a with
    | some v => recordOk v
    | none => false)

/-! ## Ranges (Tables 3 and 4 of 09_lomium.md) -/

/-- A range of an address field, the access made there, and whether it is indexed. field is the address that the field itself gives: its device
or host window is the range's own, also where an offset carries the range past its end (R245). -/
structure Rng where
  field : Nat
  addr : Nat
  len : Nat
  kind : AccKind
  indexed : Bool

/-- Rows of a shape. -/
def rowsLen (rows stride bytes : Nat) : Nat := if rows = 0 ∨ bytes = 0 then 0 else (rows - 1) * stride + bytes

def rng (a n : Nat) (k : AccKind) : Rng := { field := a, addr := a, len := n, kind := k, indexed := false }

/-- A range at an offset from its field's address: a scale array, a second slot. -/
def rngAt (a off n : Nat) (k : AccKind) : Rng := { field := a, addr := a + off, len := n, kind := k, indexed := false }

/-- The range of a shape and of its scale array at a base. -/
def shapeRngs (b scaleOff stride : Nat) (h : Shape) (k : AccKind) : List Rng :=
  let scaleStride := roundUp h.scaleBytes 64
  if h.indexed then
    { field := b, addr := b, len := 2 ^ 32 * stride, kind := k, indexed := true }
      :: (if h.scaleRows = 0 then [] else [{ field := b, addr := b + scaleOff, len := 2 ^ 32 * scaleStride, kind := k, indexed := true }])
  else rng b (rowsLen h.rows stride h.bytes) k
    :: (if h.scaleRows = 0 then [] else [rngAt b scaleOff (rowsLen h.scaleRows scaleStride h.scaleBytes) k])

def chainRngs (ws : List W64) (rs : Recs) : List Rng :=
  let c := chainD ws
  ((c.loads ++ c.stores).filter (fun i => sSlot (c.s i) < c.tn.length)).flatMap (fun i =>
    let e := c.entry i
    let bases := if tnVersioned e then recBuffers rs (tnBase e) else [tnBase e]
    let store := sKind (c.s i) == skStore
    let kinds := if store then AccKind.wr :: (if stAccumulate (c.s i) then [.rd] else []) else [.rd]
    bases.flatMap (fun b => kinds.flatMap (fun k => shapeRngs b (tnScale e) (tnStride e) (c.shape i) k)))

/-- Bytes of a source row, of a destination row and their numbers, for a HAUL. -/
def HaulD.rowShape (d : HaulD) : Nat × Nat × Nat × Nat :=
  if d.op = 1 then (rowBytes d.fmt d.cols, rowBytes d.fmt d.rows, d.rows, d.cols)
  else if d.op = 5 then
    (let w := atomicBytes d.aop; (d.cols * (if d.aop / 2 = 9 then 2 * w else w), d.cols * w, d.rows, d.rows))
  else (d.cols, d.cols, d.rows, d.rows)

/-- The shape of a HAUL's rows; a TRANSPOSE of MX has scales. -/
def HaulD.shapeOf (d : HaulD) (rows bytes scaleRows scaleBytes : Nat) (ix : Bool) : Shape :=
  { rows := rows, bytes := bytes, scaleRows := if d.op = 1 ∧ fmtMX d.fmt then scaleRows else 0, scaleBytes := scaleBytes, indexed := ix }

/-- The ranges of a HAUL's source and of its destination. -/
def HaulD.srcRngs (d : HaulD) : List Rng :=
  let (sb, _, sr, _) := d.rowShape
  if d.op = 4 then [] else shapeRngs d.src d.srcScale d.srcStride (d.shapeOf sr sb d.rows (ceilDiv d.cols 32) (d.op == 2)) .rd
def HaulD.dstRngs (d : HaulD) : List Rng :=
  let (_, db, _, dr) := d.rowShape
  shapeRngs d.dst d.dstScale d.dstStride (d.shapeOf dr db (ceilDiv d.cols 32) d.rows (d.op == 3)) (if d.op = 5 then .at_ else .wr)

def haulRngs (ws : List W64) : List Rng :=
  let d := haulD ws
  d.srcRngs ++ d.dstRngs
    ++ (if d.op = 2 ∨ d.op = 3 then [rng d.aux (4 * d.rows) .rd]
        else if d.op = 5 ∧ d.ret then [rng d.aux (d.rows * d.cols * atomicBytes d.aop) .wr] else [])

def benchRngs (ws : List W64) : List Rng :=
  let d := benchD ws
  let x := rowsLen d.rows d.inStride (rowBytes d.fmtIn d.cols)
  let y := rowsLen d.rows d.outStride (rowBytes d.fmtOut d.cols)
  if d.fn = 4 then [rng d.src0 (2048 * d.rows) .rd, rng d.dst0 (2048 * d.rows) .wr, rng d.dst1 d.rows .wr]
  else if d.fn = 5 then [rng d.src0 (2048 * d.rows) .rd, rng d.src1 d.rows .rd, rng d.dst0 (2048 * d.rows) .wr]
  else if d.fn = 3 then [rng d.src0 x .rd, rng d.dst0 (64 * d.rows) .wr]
  else if d.fn = 6 then
    [rng d.src0 x .rd, rng d.dst0 y .wr]
      ++ (if fmtMX d.fmtOut then
        (let col := d.p3 / 2 ^ 24 % 2 == 1
         let (r, b) := if col then (ceilDiv d.rows 32, d.cols) else (d.rows, ceilDiv d.cols 32)
         [rngAt d.dst0 (4096 * (d.p3 % 2 ^ 24)) (rowsLen r (roundUp b 64) b) .wr]) else [])
  else if d.fn = 1 ∨ d.fn = 2 then
    [rng d.src0 x .rd, rng d.src1 x .rd, rng d.dst0 y .wr]
      ++ (if d.fn = 1 ∧ d.src2 ≠ 0 then [rng d.src2 (4 * d.cols) .rd] else [])
      ++ (if d.fn = 1 ∧ d.dst1 ≠ 0 then [rng d.dst1 d.gradBytes .rd, rng d.dst1 d.gradBytes .wr] else [])
  else []

/-- The arrays of an UPDATE that have two slots: address of slot 0 and bytes (R137). -/
def UpdateD.arrays (d : UpdateD) : List (Nat × Nat) :=
  let e := d.rows * d.cols
  let b := fmtWidth d.stateFmt / 8
  [(d.master, 4 * e)] ++ (if d.extended then [(d.tail, 2 * e)] else [])
    ++ (if d.opt ≠ 2 ∨ d.momentum then [(d.state1, b * e)] else [])
    ++ (if d.opt = 1 then [(d.state2, b * e)] else if d.opt = 2 then [(d.state2, b * d.rows), (d.state3, b * d.cols)] else [])

/-- The scale array of an UPDATE's MX copy: rows and bytes of a row (R138). -/
def UpdateD.scaleShape (d : UpdateD) : Nat × Nat := if d.copyBlock then (ceilDiv d.rows 32, d.cols) else (d.rows, ceilDiv d.cols 32)

def updateRngs (ws : List W64) (rs : Recs) : List Rng :=
  let d := updateD ws
  let slot := match recWords rs d.record with
    | some w => recSlot (wd w 0)
    | none => 0
  let copy (b : Nat) : List Rng :=
    rng b (rowsLen d.rows d.copyStride (rowBytes d.copyFmt d.cols)) .wr
      :: (if fmtMX d.copyFmt then (let (r, n) := d.scaleShape; [rngAt b d.copyScale (rowsLen r (roundUp n 64) n) .wr]) else [])
  [rng d.grad (rowBytes d.gradFmt (d.rows * d.cols)) .rd] ++ (if d.clip then [rng d.normCell 64 .rd] else [])
    ++ d.arrays.flatMap (fun (a, n) => [rngAt a (slot * d.slotStride) n .rd, rngAt a ((1 - slot) * d.slotStride) n .wr])
    ++ (recBuffers rs d.record).flatMap copy

/-- Shard j of a count over n (R306): first index and size. -/
def shardAt (count n j : Nat) : Nat × Nat :=
  let a := j * count / Nat.max 1 n
  (a, (j + 1) * count / Nat.max 1 n - a)

/-- Sources that send to this device at once (R305). -/
def CollD.sources (d : CollD) (g : Group) : Nat :=
  if d.op = 4 then g.n - 1 else if d.algo = 2 then d.fanIn + (if d.backup then g.b else 0) else d.rings

/-- Bytes of the staging buffer (R305). -/
def CollD.bufBytes (d : CollD) (g : Group) : Nat :=
  4 * d.chunkPkts * 4096 * d.sources g + (if d.crusher then 65 * ceilDiv d.count 28 else 0) + (if d.op = 5 then 8 * g.n else 0)

/-- Bytes of an element of a reduction's operand. -/
def redBytes (f : Nat) : Nat := if f = 9 then 2 else 4

/-- The size of this rank's shard; a backup rank has none. -/
def ownShard (g : Group) (count : Nat) : Nat := if g.rank < g.n then (shardAt count g.n g.rank).2 else 0

/-- The ranges of a COLLECTIVE. Without a defined group that the partition owns, those that no group record has a part in (R505). -/
def collRngs (s : State) (p : Nat) (ws : List W64) (rs : Recs) : List Rng :=
  let d := collD ws
  let cell := if d.op = 5 then [rng d.normCell 64 .wr] else []
  match collGroup s p d with
  | none =>
    let e := d.count
    cell ++ (if d.op = 0 then [rng d.src (e * redBytes d.fmtIn) .rd]
      else if d.op = 2 then [rng d.src (e * redBytes d.fmtIn) .rd, rng d.dst (e * redBytes d.fmtOut) .wr]
      else if d.op = 1 ∧ d.versioned then (recBuffers rs d.dst).flatMap (fun b => [rng b e .wr, rngAt b d.scaleOff d.scaleCount .wr])
      else if d.op = 1 ∨ d.op = 3 then [rng d.dst e .wr] else [])
  | some g =>
    let e := d.count
    let er := ownShard g e
    let buf := [rng d.buf (d.bufBytes g) .rd, rng d.buf (d.bufBytes g) .wr]
    let both (sn dn : Nat) : List Rng := (if d.noSrc (some g) then [] else [rng d.src sn .rd]) ++ [rng d.dst dn .wr]
    let part := (shardAt d.scaleCount g.n g.rank).2
    cell ++ buf ++
      (if d.op = 0 then both (e * redBytes d.fmtIn) (er * redBytes d.fmtOut)
       else if d.op = 2 then both (e * redBytes d.fmtIn) (e * redBytes d.fmtOut)
       else if d.op = 1 ∧ d.versioned then
         (recBuffers rs d.src).flatMap (fun b => [rng b er .rd, rngAt b d.scaleOff part .rd])
           ++ (recBuffers rs d.dst).flatMap (fun b => [rng b e .wr, rngAt b d.scaleOff d.scaleCount .wr])
       else if d.op = 1 then both er e
       else if d.op = 3 then both e e
       else if d.op = 4 then both (g.n * e) (g.n * e) else [])

/-- Bytes of a packed snapshot behind its header (Table 9 of 16_survival.md). -/
def SnapD.packed (d : SnapD) : Nat := rowBytes d.fmt (d.rows * d.cols)

/-- The group record in force with an index. -/
def groupAt (s : State) (i : Nat) : Option Group := s.cfg.groups.find? (fun g => g.index == i)

/-- Bytes of the failed-rank mask of a group (R439). -/
def maskBytes (s : State) (i : Nat) : Nat := match groupAt s i with
  | some g => 8 * ceilDiv g.n 64
  | none => 0

def snapRngs (s : State) (p : Nat) (ws : List W64) (rs : Recs) : List Rng :=
  let d := snapD ws
  if d.action = 0 then [if d.slotted then rng d.mask (d.slotStride + d.bytes) .rd else rng d.src d.bytes .rd]
  else if d.action = 1 then [rng d.src d.bytes .rd]
  else if d.action = 3 then
    rng d.dst (64 + d.packed) .wr :: (recBuffers rs d.src).map (fun b => rng b (rowsLen d.rows d.rowStride (rowBytes d.fmt d.cols)) .rd)
  else if d.action = 4 then [rng d.dst d.bytes .wr]
  else if d.action = 5 then (if s.cfg.groups.any (fun g => g.index == d.group && g.partition == p) then [rng d.mask (maskBytes s d.group) .rd] else [])
  else []

def markRngs (ws : List W64) : List Rng :=
  if markAction ws = 2 then [rng (markAddr ws) 8 .wr] else if markAction ws = 3 then [rng (markAddr ws) 8 .rd] else []

/-- Ranges of the address fields of a descriptor; one of no bytes reaches nothing, yet names its address (R241, R243). -/
def rangesOf (s : State) (c : Nat) (ws : List W64) (rs : Recs) : List Rng :=
  let k := kindOf ws
  (if k = kChain then chainRngs ws rs
   else if k = kHaul then haulRngs ws
   else if k = kBench then benchRngs ws
   else if k = kUpdate then updateRngs ws rs
   else if k = kColl then collRngs s (s.partitionOf c) ws rs
   else if k = kSnap then snapRngs s (s.partitionOf c) ws rs
   else if k = kMark then markRngs ws else [])

/-- First address beyond the device or the host window of an address (R245). -/
def fieldEnd (s : State) (a : Nat) : Nat :=
  if isHost a then (match s.hostWindow (winOf a) with
    | some w => a - winOff a + w.size
    | none => a)
  else (devOf a + 1) * 2 ^ 48

/-- The range as a span: an indexed range is capped (R245). -/
def Rng.span (s : State) (r : Rng) : Nat × Nat := (r.addr, if r.indexed then Nat.min r.len (fieldEnd s r.field - r.addr) else r.len)

/-- Read span and write span (R252). An atomic's location lies in both. -/
def readSpanOf (s : State) (rs : List Rng) : List (Nat × Nat) := ((rs.filter (fun r => r.kind != .wr)).map (Rng.span s)).filter (fun p => p.2 != 0)
def writeSpanOf (s : State) (rs : List Rng) : List (Nat × Nat) := ((rs.filter (fun r => r.kind != .rd)).map (Rng.span s)).filter (fun p => p.2 != 0)

/-- Regions that permit a local range without a gap; the first argument bounds the regions it crosses. -/
def coveredBy (s : State) (k : AccKind) (p : Nat) : Nat → Nat → Nat → Bool
  | 0, _, n => n == 0
  | fuel + 1, off, n =>
    n == 0 || match regionAt s.cfg off with
      | some r => r.forPartition k p && coveredBy s k p fuel (r.base + r.size) (n - Nat.min n (r.base + r.size - off))
      | none => false

/-- An address that names a device or a defined host window (R241, R243). -/
def addressNamed (s : State) (a : Nat) : Bool := if isHost a then (s.hostWindow (winOf a)).isSome else !isNameless a

/-- Addresses of a descriptor that have no range of their own: the base of a FENCE and the version records (R241, R243). -/
def namedAddresses (ws : List W64) : List Nat := if kindOf ws = kFence then [fenceBase ws] else namedRecords ws

/-- Check 7 for one range (R241 to R245, R505). A range of no bytes is checked for the address that it names alone. -/
def rangeAllowed (s : State) (p : Nat) (r : Rng) : Bool :=
  let a := r.field
  let off := r.addr - r.field
  if isHost a then (match s.hostWindow (winOf a) with
    | some w => r.len == 0 && r.kind != .at_ || (match r.kind with | .rd => w.read | .wr => w.write | .at_ => false)
        && (r.indexed && (r.field != r.addr || winOff a < w.size) || winOff a + off + r.len ≤ w.size)
    | none => false)
  else if 0x8000 ≤ devOf a then false
  else if r.len = 0 then true
  else if r.indexed = false ∧ 2 ^ 48 < offOf a + off + r.len then false
  else if isLocal s a then
    (2 ^ 48 ≤ offOf a + off) || coveredBy s r.kind p (s.cfg.regions.length + 1) (offOf a + off) (if r.indexed then 1 else r.len)
  else true

/-! ## General admission (Table 8 of 06_work.md) -/

/-- A failed check: its code and the record's detail. -/
abbrev Verdict := Option (Nat × Nat)

def refuseIf (b : Bool) (code detail : Nat) : Verdict := if b then some (code, detail) else none

/-- Detail of a refusal that names no stage (Table 11 of 06_work.md). -/
def noStage (ws : List W64) : Nat := if kindOf ws = kChain then 0xFF else 0

/-- The count of records of a kind (Table 4 of 06_work.md). -/
def recordCountOk (ws : List W64) : Bool :=
  let n := bits (wd ws 0) 59 56 + 1
  let k := kindOf ws
  if k = kChain then
    3 ≤ n && n ≤ 5 && (!(1 ≤ chainStages ws && chainStages ws ≤ 12 && 1 ≤ chainTensors ws && chainTensors ws ≤ 8) || n == chainRecords ws)
  else n == (if k = kUpdate then 3 else if k = kHaul ∨ k = kColl ∨ k = kBench ∨ k = kSnap then 2 else 1)

/-- Check 4: the first stage with a reserved bit set, or any other reserved field. -/
def reservedCheck (s : State) (p : Nat) (ws : List W64) : Verdict :=
  let k := kindOf ws
  if k = kChain then
    if onlyUsed (ws.take 8) (chainUsed ws) = false then some (codeReserved, 0xFF)
    else match (List.range (chainStages ws)).find? (fun i => wd ws (8 + i) &&& ~~~ (fieldMask (stageUsed (wd ws (8 + i)))) != 0) with
      | some i => some (codeReserved, i)
      | none => refuseIf (!onlyUsed ws (chainUsed ws)) codeReserved 0xFF
  else
    let used :=
      if k = kHaul then haulUsed ws else if k = kColl then collUsed ws (collGroup s p (collD ws)) else if k = kBench then benchUsed ws
      else if k = kUpdate then updateUsed ws else if k = kFence then fenceUsed else if k = kHint then hintUsed
      else if k = kSnap then snapUsed ws else markUsed ws
    refuseIf (!onlyUsed ws used) codeReserved 0

/-- Check 5. -/
def encodingCheck (ws : List W64) : Verdict :=
  let k := kindOf ws
  if orderOf ws = 3 then some (codeEncoding, noStage ws)
  else if k = kChain then
    if bits (wd ws 1) 57 56 = 0 then some (codeEncoding, 0xFF)
    else ((List.range (chainStages ws)).find? (fun i => !stageDefined (wd ws (8 + i)))).map (fun i => (codeEncoding, i))
  else
    let ok :=
      if k = kHaul then (let d := haulD ws; d.op ≤ 5 && fmtDefined d.fmt && d.aop ≤ 0x17)
      else if k = kBench then
        (let d := benchD ws
         ((1 ≤ d.fn && d.fn ≤ 6) || (0x10 ≤ d.fn && d.fn ≤ 0x15)) && fmtDefined d.fmtIn && fmtDefined d.fmtOut
           && (d.fn != 1 || d.p2 % 4 ≤ 1))
      else if k = kUpdate then (let d := updateD ws; d.opt ≤ 2 && fmtDefined d.gradFmt && fmtDefined d.copyFmt && fmtDefined d.stateFmt)
      else if k = kColl then (let d := collD ws; d.op ≤ 5 && d.algo ≤ 2 && fmtDefined d.fmtIn && fmtDefined d.fmtOut)
      else if k = kSnap then (let d := snapD ws; d.action ≤ 5 && d.source ≤ 3 && fmtDefined d.fmt)
      else if k = kFence then fenceType ws != 3 && !(fenceType ws == 1 && fenceFlush ws)
      else if k = kMark then markAction ws ≤ 3 && markCmp ws != 3
      else true
    refuseIf (!ok) codeEncoding 0

/-- Check 6 (R473). -/
def modeCheck (s : State) (p : Nat) (ws : List W64) : Verdict :=
  let cfg := s.partCfg p
  let k := kindOf ws
  if k = kChain then
    let c := chainD ws
    ((List.range c.st.length).find? (fun i =>
      !cfg.srEn && ((sKind (c.s i) == skStore && stSr (c.s i)) || (sKind (c.s i) == skMatmul && mmSr (c.s i))))).map
      (fun i => (codeMode, i))
  else if k = kBench then refuseIf ((benchD ws).sr && !cfg.srEn) codeMode 0
  else if k = kUpdate then
    (let d := updateD ws; refuseIf ((d.copySr && !cfg.srEn) || (d.extended && !cfg.extendedEn)) codeMode 0)
  else if k = kColl then (let d := collD ws; refuseIf ((d.crusher && !cfg.crusherEn) || (d.backup && !cfg.backupEn)) codeMode 0)
  else none

/-- Check 8: stated ranges and alignments that no check of the kind's chapter covers. DEDUCED: beta_en of an RMS NORM, which is for LAYER only,
is such a range (notes/assumptions/18.md). -/
def rangeCheck (ws : List W64) : Verdict :=
  let k := kindOf ws
  if k = kChain then
    let c := chainD ws
    if c.st.length < 1 || 12 < c.st.length || c.tn.length < 1 || 8 < c.tn.length || c.rowBlock < 1 || c.k1 < 1 then some (codeRange, 0xFF)
    else ((List.range c.st.length).find? (fun i =>
      let w := c.s i
      (sKind w == skNorm && normType w == 1 && normBetaEn w) || (sKind w == skMask && sMode w == 1 && maskWindow w == 0))).map
      (fun i => (codeRange, i))
  else
    let bad :=
      if k = kFence then fenceBase ws % 64 != 0 || fenceLen ws % 64 != 0
      else if k = kHint then
        !(1 ≤ hintDuration ws && hintDuration ws ≤ 10000000 && 1 ≤ hintPower ws && hintPower ws ≤ 6000)
      else if k = kMark then 2 ≤ markAction ws && markAddr ws % 8 != 0
      else if k = kHaul then (let d := haulD ws; d.anyLanding && d.landing != 0)
      else if k = kBench then
        (let d := benchD ws
         (d.anyDie && d.die != 0) || d.inStride % 64 != 0 || d.outStride % 64 != 0
           || [d.src0, d.src1, d.src2, d.dst0, d.dst1].any (fun a => a % 64 != 0))
      else if k = kUpdate then (let d := updateD ws; d.copyStride % 64 != 0 || d.slotStride % 64 != 0)
      else if k = kColl then
        (let d := collD ws
         (d.headroom != 0 && !d.crusher)
           || ([d.buf, d.normCell] ++ if d.versioned then [] else [d.src, d.dst]).any (fun a => a % 64 != 0))
      else if k = kSnap then (snapD ws).slice % 64 != 0
      else false
    refuseIf bad codeRange 0

/-! ## CHAIN (Table 9 of 04_chains.md) -/

/-- Check 1. row_stride covers a row of each LOAD and STORE that names the entry; side-output destinations ignore it. -/
def chainShape (c : ChainD) : Verdict :=
  let users (t : Nat) : List Nat := (c.loads ++ c.stores).filter (fun i => sSlot (c.s i) == t)
  let side (i : Nat) : Bool := sKind (c.s i) == skStore && stSource (c.s i) != 0
  let fmt (i : Nat) : Nat := if sKind (c.s i) = skStore then stFmt (c.s i) else ldFmt (c.s i)
  let entryOk (t : Nat) : Bool :=
    let e := c.tn.getD t (0, 0)
    let us := users t
    tnBase e % 64 == 0
      && ((us.any (fun _ => true) && us.all side)
        || (tnStride e % 64 == 0 && us.all (fun i => side i || (c.shape i).bytes ≤ tnStride e)))
      && (tnScale e == 0 || (!us.isEmpty && us.all (fun i => fmtMX (fmt i))))
  let n := c.matmuls.length
  refuseIf ((c.n1 != 0) != (1 ≤ n : Bool) || (c.n2 != 0) != (2 ≤ n : Bool) || !(List.range c.tn.length).all entryOk) 0x20 0xFF

/-- A stage-index field names an earlier LOAD of the right use. -/
def ChainD.refOk (c : ChainD) (r : Ref) : Bool := r.load < r.stage && sKind (c.s r.load) == skLoad && ldUse (c.s r.load) == r.use

/-- Check 2 (R93, R90, R94, R89). DESIGN CHOICE: a STORE whose source names a stage after it is refused here (notes/assumptions/110.md). -/
def chainOrder (c : ChainD) : Verdict :=
  let n := c.st.length
  let mains := c.loads.filter (fun i => ldUse (c.s i) == useMain)
  let badStage (i : Nat) : Bool :=
    let w := c.s i
    let k := sKind w
    !(c.refsAt i).all c.refOk
      || ((k == skLoad || k == skStore) && c.tn.length ≤ sSlot w)
      || (k == skStore && (tnVersioned (c.entry i)
          || (stSource w != 0 && !(stSource w - 1 < i && c.hasSide (stSource w - 1)))))
  if sKind (c.s (n - 1)) ≠ skStore then some (0x21, n - 1)
  else if 2 < c.matmuls.length then some (0x21, c.matmuls.getD 2 0)
  else if c.stores.length < 1 || 2 < c.stores.length || 10 < n - c.loads.length - c.matmuls.length then some (0x21, 0xFF)
  else match mains with
    | [m] =>
      if c.anyStage 0 m then some (0x21, ((List.range n).find? (fun i => sKind (c.s i) != skLoad)).getD 0xFF)
      else ((List.range n).find? badStage).map (fun i => (0x21, i))
    | [] => some (0x21, 0xFF)
    | _ :: m :: _ => some (0x21, m)

/-- Check 3 (R25, R27, R96). INDEX LOADs and 32-bit or bit-map mask operands carry format 0. -/
def chainFormat (c : ChainD) : Verdict :=
  let mainFmt := match c.mainLoad with
    | some m => ldFmt (c.s m)
    | none => 0
  let bad (i : Nat) : Bool :=
    let w := c.s i
    let k := sKind w
    if k = skMatmul then
      let f := mmFeed w
      let g := ldFmt (c.s (mmStat w))
      !fmtFace f || !fmtFace g || ((f == 0) != (g == 0)) || (c.matmuls.head? == some i && !c.prologue && f != mainFmt)
    else if k = skStore then !fmtStore (stFmt w) || (stAccumulate w && (stFmt w == 0 || fmtMX (stFmt w)))
    else k == skLoad && ldFmt w != 0 && (ldUse w == useIndex || c.role i != roleValue)
  ((List.range c.st.length).find? bad).map (fun i => (0x22, i))

/-- Check 4. -/
def chainWidth (c : ChainD) : Verdict :=
  let bad (i : Nat) : Bool :=
    let w := c.s i
    (isPaired w && !actIsGrad w && c.width i % 2 == 1)
      || (sKind w == skNorm && normGroup w != 0 && 256 % (32 * normGroup w) != 0 && 32 * normGroup w % 256 != 0)
  ((List.range c.st.length).find? bad).map (fun i => (0x23, i))

/-- Check 5 (R104). -/
def chainRunning (c : ChainD) : Verdict := match c.running, c.matmuls with
  | some r, [_, m2] =>
    ((List.range c.st.length).find? (fun i =>
      let w := c.s i
      r < i && i < m2 && !(sKind w == skLoad || sKind w == skDropout || (sKind w == skScale && sMode w ≤ 1)))).map (fun i => (0x24, i))
  | _, _ => none

/-- Check 6. -/
def chainHold (c : ChainD) : Verdict := refuseIf (64 * 2 ^ 20 < c.holdSum * c.faceCount) 0x25 0xFF

/-- Check 7: a resident tensor lies in the Pantry window of the one die that can run the chain. DESIGN CHOICE: a die_set of several dies names
no such die, so a resident LOAD is refused there (notes/assumptions/17.md). -/
def chainResident (s : State) (ctx : Nat) (c : ChainD) (rs : Recs) : Verdict :=
  let inside (d a n : Nat) : Bool :=
    isLocal s a && pantryBase + d * pantrySize ≤ offOf a && offOf a + n ≤ pantryBase + (d + 1) * pantrySize
  let ok (i : Nat) : Bool :=
    let e := c.entry i
    let bases := if tnVersioned e then recBuffers rs (tnBase e) else [tnBase e]
    match dieSet s ctx with
    | [d] => bases.all (fun b => (shapeRngs b (tnScale e) (tnStride e) (c.shape i) .rd).all (fun r => inside d r.addr r.len))
    | _ => false
  (c.loads.find? (fun i => ldResident (c.s i) && !ok i)).map (fun i => (0x26, i))

/-- Sizes of a context's scratch and accumulator partitions in bytes (R207). -/
def scratchSize (s : State) (c : Nat) : Nat := bits (pantryAlloc s c) 19 10 * 2 ^ 20
def accumSize (s : State) (c : Nat) : Nat := bits (pantryAlloc s c) 29 20 * 2 ^ 20

/-- Check 8. -/
def chainPantry (s : State) (ctx : Nat) (c : ChainD) : Verdict :=
  refuseIf (scratchSize s ctx < c.scratch * c.faceCount || accumSize s ctx < c.accum * c.faceCount) 0x27 0xFF

/-- Check 9 (R53, R56, R57). -/
def chainT1 (s : State) (ctx : Nat) (c : ChainD) : Verdict :=
  if isT1 s ctx = false then none
  else
    let ops := (List.range c.st.length).filter (fun i => sKind (c.s i) != skLoad)
    let bad (i : Nat) : Bool :=
      let w := c.s i
      let k := sKind w
      if k = skLoad then !fmtT1 (ldFmt w) || ops.any (· < i)
      else if k = skMatmul then ops.head? != some i || !fmtT1 (mmFeed w)
      else if k = skStore then ops.head? == some i || ops.getLast? != some i || !fmtT1 (stFmt w) || stSr w || (stNonsat w && stFmt w == 1)
      else ops.head? == some i || !(k == skScale || k == skBias || k == skAct)
    ((List.range c.st.length).find? bad).map (fun i => (0x28, i))

/-- Entries of the pin table that a chain would reserve (R130). -/
def newPins (s : State) (ctx : Nat) (ws : List W64) : List Nat := (namedRecords ws).filter (fun a => (pinEntry s ctx a).isNone)

def codeRecord : Nat := 0x32
def codePinTable : Nat := 0x33

/-- The checks of a CHAIN in the order of Table 9, then the record check and the pin table (R126, R130). -/
def chainCheck (s : State) (ctx : Nat) (ws : List W64) (rs : Recs) : Verdict :=
  let c := chainD ws
  chainShape c <|> chainOrder c <|> chainFormat c <|> chainWidth c <|> chainRunning c <|> chainHold c <|> chainResident s ctx c rs
    <|> chainPantry s ctx c <|> chainT1 s ctx c <|> refuseIf (!recordsOk ws rs) codeRecord 0xFF
    <|> refuseIf (1024 < (s.ctx ctx).pins.length + (newPins s ctx ws).length) codePinTable 0xFF

/-! ## The other kinds -/

/-- The checks of a HAUL (Table 11 of 08_memory.md). -/
def haulCheck (s : State) (ws : List W64) : Verdict :=
  let d := haulD ws
  let (sb, db, _, _) := d.rowShape
  let w := if d.op = 5 then atomicBytes d.aop else 64
  let tipple := d.op == 1 || d.op == 2 || d.op == 3
  let meet (x y : Nat × Nat) : Bool := x.1 < y.1 + y.2 && y.1 < x.1 + x.2
  refuseIf (d.rows == 0 || d.cols == 0 || (d.op != 4 && d.srcStride < sb) || d.dstStride < db) 0x40 0
    <|> refuseIf ([d.src, d.dst, d.aux, d.srcStride, d.dstStride].any (fun a => a % w != 0)) 0x41 0
    <|> refuseIf (11 < d.landing || itemEngines s tipple < d.engines) 0x43 0
    <|> refuseIf (d.op ≤ 3 && d.srcRngs.any (fun x => d.dstRngs.any (fun y => meet (x.span s) (y.span s)))) 0x44 0

/-- Formats that the backward functions accept. -/
def fmtBwd (f : Nat) : Bool := [1, 2, 9, 10, 11].contains f
/-- Element formats of Rubble (R146). -/
def fmtRubble (f : Nat) : Bool := [1, 2, 3, 4, 9, 10].contains f

/-- The checks of a BENCH (Table 6 of 07_bench.md). -/
def benchCheck (s : State) (ctx : Nat) (ws : List W64) : Verdict :=
  let d := benchD ws
  let f := d.fn
  let rubble := f == 4 || f == 5
  let shapeOk := d.rows != 0 && d.cols != 0
    && (if rubble then d.cols == 2048
        else rowBytes d.fmtIn d.cols ≤ d.inStride && (f == 3 || rowBytes d.fmtOut d.cols ≤ d.outStride))
    && (f != 1 || d.cols % d.group == 0)
  let fmtOk :=
    if f = 1 ∨ f = 2 then fmtBwd d.fmtIn && fmtBwd d.fmtOut
    else if f = 3 then d.fmtIn ≤ 11
    else if f = 4 then fmtRubble d.fmtIn
    else if f = 5 then fmtRubble d.fmtOut
    else 1 ≤ d.fmtIn && d.fmtIn ≤ 11 && fmtStore d.fmtOut
  refuseIf (!(1 ≤ f && f ≤ 6)) 0x60 0
    <|> refuseIf (!shapeOk) 0x61 0
    <|> refuseIf (!fmtOk) 0x62 0
    <|> refuseIf ((!d.anyDie && !(dieSet s ctx).contains d.die) || (isDet s ctx && 32 - collCores s < d.cores)) 0x63 0
    <|> refuseIf (isT1 s ctx && (f != 6 || !fmtT1 d.fmtIn || !fmtT1 d.fmtOut || d.sr || (d.nonsat && d.fmtOut == 1))) 0x64 0

/-- The checks of an UPDATE (Table 4 of 05_training_passes.md). -/
def updateCheck (s : State) (ctx : Nat) (ws : List W64) (rs : Recs) : Verdict :=
  let d := updateD ws
  let mast (f : Nat) : Bool := f == 9 || f == 11
  let copyOk := (1 ≤ d.copyFmt && d.copyFmt ≤ 4) || d.copyFmt == 9 || d.copyFmt == 10
  refuseIf (d.rows == 0 || d.cols == 0 || (d.opt == 2 && (d.rows < 2 || d.cols < 2)) || d.copyStride < rowBytes d.copyFmt d.cols
      || [d.record, d.grad, d.normCell, d.master, d.tail, d.state1, d.state2, d.state3].any (fun a => a % 64 != 0)) 0x30 0
    <|> refuseIf (!mast d.gradFmt || !copyOk || !mast d.stateFmt || (d.copyBlock && !fmtMX d.copyFmt)) 0x31 0
    <|> refuseIf (isT1 s ctx && (d.extended || !fmtT1 d.gradFmt || !fmtT1 d.copyFmt || !fmtT1 d.stateFmt || d.copySr
      || (d.copyNonsat && d.copyFmt == 1))) 0x36 0
    <|> refuseIf (!recordsOk ws rs) codeRecord 0

/-- The checks of a COLLECTIVE (Table 4 of 11_collectives.md). -/
def collCheck (s : State) (ctx : Nat) (ws : List W64) (rs : Recs) : Verdict :=
  let d := collD ws
  match collGroup s (s.partitionOf ctx) d with
  | none => some (0x50, 0)
  | some g =>
    let tree := d.algo == 2
    let algoOk := (d.algo == 0 && d.op != 4) || (d.algo == 1 && d.op ≤ 2)
      || (tree && d.op != 1 && (d.op != 4 || d.fanIn == g.n - 1))
    let locals := (if d.op = 5 then [d.buf, d.normCell] else [d.buf, d.dst] ++ if d.noSrc (some g) then [] else [d.src])
    refuseIf (!algoOk) 0x51 0
      <|> refuseIf ((d.op != 5 && d.count == 0) || (tree && !(1 ≤ d.fanIn && d.fanIn ≤ g.n - 1)) || (!tree && d.fanIn != 0)
        || (d.algo == 1 && g.ring2dA == 0) || (tree && d.rings != 1)) 0x52 0
      <|> refuseIf (d.reduces && !([9, 11].contains d.fmtIn && [9, 11].contains d.fmtOut)) 0x53 0
      <|> refuseIf (d.crusher && !(d.reduces && d.algo == 0 && d.rings == 1 && !d.backup && d.count % (28 * g.n) == 0)) 0x54 0
      <|> refuseIf (d.backup && !(d.reduces && tree && d.fanIn == g.n - 1 && 1 ≤ g.b && 1 ≤ d.chunkWait)) 0x55 0
      <|> refuseIf ((d.fold && !d.reduces) || (d.op == 5 && d.normCell == 0)) 0x56 0
      <|> refuseIf (locals.any (fun a => !isLocal s a) || (d.versioned && d.op != 1)) 0x57 0
      <|> refuseIf (itemEngines s false < (if tree || d.op == 4 then 1 else d.rings)) 0x58 0
      <|> refuseIf (!recordsOk ws rs) codeRecord 0

/-! ### SNAPSHOT (Table 7 of 16_survival.md) -/

/-- Fields of SURVIVAL_CFG and SURVIVAL_BOUNDS (Tables 1 and 2 of 16_survival.md). -/
def buddyDevice (v : SurvivalCfg) : Nat := bits v.cfg 63 49
def buddyEn (v : SurvivalCfg) : Bool := bitAt v.cfg 48
def parityGroup (v : SurvivalCfg) : Nat := bits v.cfg 47 38
def runGroup (v : SurvivalCfg) : Nat := bits v.cfg 37 28
def parityMaxAdv (v : SurvivalCfg) : Nat := bits v.cfg 27 20
def parityMin (v : SurvivalCfg) : Nat := bits v.cfg 19 0 * 2 ^ 20
def privDepth (v : SurvivalCfg) : Nat := bits v.bounds 31 24

/-- Bytes of one buffer of a copy area (R423). -/
def copySize (bytes : Nat) : Nat := 65536 + ceilDiv bytes 65536 * 65536

/-- Bytes of the staging area of a parity holder (R426). -/
def stagingBytes : Nat := 1835008

/-- A range of Attic offsets that no manifest occupies (R421). -/
def atticRange (v : SurvivalCfg) (off n : Nat) : Bool := 0x200000 ≤ off && off + n ≤ v.atticSize

/-- The Attic ranges of a SNAPSHOT (R421, R423 to R426, R431, R435, R438). -/
def atticOk (v : SurvivalCfg) (d : SnapD) : Bool :=
  let parity := parityMin v ≤ d.bytes
  if d.action = 0 then
    atticRange v d.localOff (2 * copySize d.bytes)
      && atticRange v d.remoteOff (if parity then 2 * copySize d.slice + stagingBytes else 2 * copySize d.bytes)
  else if d.action = 1 then
    atticRange v d.localOff (8192 * privDepth v) && (!buddyEn v || atticRange v d.remoteOff (8192 * privDepth v))
  else if d.action = 3 then atticRange v d.localOff (64 + d.packed)
  else if d.action = 4 then
    (d.source == 2 || atticRange v d.localOff (65536 + d.offset + d.bytes))
      && (d.source ≤ 1 || atticRange v d.remoteOff (65536 + if d.source = 2 then d.offset + d.bytes else d.slice))
  else true

/-- What the device's own read of a local range gives: none while a line's home answers RETRY, none inside where a line gives no data
(R232). -/
def heldRead (s : State) (off n : Nat) : State × Option (Option (List Byte)) :=
  (cutLines off n).foldl (fun (acc : State × Option (Option (List Byte))) p =>
    match reachHome acc.1 61 .device p.1 (.read p.2) .clean with
    | (t, .retry) => (t, none)
    | (t, a) => (t, match acc.2, a with
      | some (some bs), .data d => some (some (bs ++ d))
      | some _, _ => some none
      | none, _ => none)) (s, some (some []))

/-- The newer valid manifest's round, 0 when no manifest is valid, none while a read is held: word 0 of both read at their home (R232, R422,
R429). -/
def manifestRead (s : State) (v : SurvivalCfg) : State × Option Nat :=
  [0, 1].foldl (fun (acc : State × Option Nat) i =>
    let x := heldRead acc.1 (v.atticBase + i * 0x100000) 8
    (x.1, match acc.2, x.2 with
      | some r, some bs =>
        let w := wordAt (bs.getD []) 0
        some (if bitAt w 0 then Nat.max r (bits w 63 32) else r)
      | _, _ => none)) (s, some 0)

/-- R_c: the last round closed here, read from the manifests by the first SNAPSHOT item after a cold start (R422). -/
def lastRound (s : State) : Nat := match s.attic.lastRound, s.cfg.survival with
  | some r, _ => r.toNat
  | none, some v => (manifestRead s v).2.getD 0
  | none, none => 0

/-- R_c kept once the first SNAPSHOT item has read it; whether it is known, or its read is still held (R232, R422). -/
def keepRound (s : State) : State × Bool :=
  if s.attic.lastRound.isSome then (s, true)
  else
    let (t, r) : State × Option Nat := match s.cfg.survival with
      | some v => manifestRead s v
      | none => (s, some 0)
    match r with
    | some n => ({ t with attic := { t.attic with lastRound := some (BitVec.ofNat 32 n) } }, true)
    | none => (t, false)

/-- Failed ranks that a mask marks. -/
def maskRanks (n : Nat) (bs : List Byte) : List Nat := (List.range n).filter (fun r => (bs.getD (r / 8) 0).getLsbD (r % 8))

/-- The mask of a REFORM as it stands in local memory; none for a mask of another home, or one that a read does not give now: the item reads it
when it runs. -/
def localMask (s : State) (g : Group) (d : SnapD) : Option (List Nat) :=
  if isLocal s d.mask then (deviceRead s (offOf d.mask) (8 * ceilDiv g.n 64)).2.map (maskRanks g.n) else none

/-- Fewer than two ranks survive the mask of a REFORM, or its group is not one of the partition's; unknown while the mask cannot be read. -/
def tooFewSurvivors (s : State) (p : Nat) (d : SnapD) : Bool := match s.cfg.groups.find? (fun g => g.index == d.group && g.partition == p) with
  | some g => match localMask s g d with
    | some failed => g.n - failed.length < 2
    | none => false
  | none => true

/-- An unended COLLECTIVE of a group on this device. -/
def groupBusy (s : State) (i : Nat) : Bool :=
  s.items.any (fun x => !x.over && kindOf x.words == kColl && (collD x.words).group == i)

/-- The checks of a SNAPSHOT. -/
def snapCheck (s : State) (ctx : Nat) (ws : List W64) (rs : Recs) : Verdict :=
  let d := snapD ws
  let a := d.action
  let min := match s.cfg.survival with
    | some v => parityMin v
    | none => 0
  let attic := match s.cfg.survival with
    | some v => atticOk v d
    | none => false
  let failedParity := match s.cfg.survival with
    | some v => (match groupAt s (parityGroup v) with | some g => g.failed.length | none => 0)
    | none => 0
  let usesCores := a == 0 || a == 3 || (a == 4 && d.source == 3)
  refuseIf (a != 3 && s.cfg.survival.isNone) 0x70 0
    <|> refuseIf (!attic) 0x71 0
    <|> refuseIf (([0, 1, 4].contains a && d.bytes == 0) || (a == 1 && 4096 < d.bytes)
      || (a == 0 && min ≤ d.bytes && 7 * d.slice < d.bytes) || (a == 3 && (d.rows == 0 || d.cols == 0 || d.rowStride == 0))) 0x72 0
    <|> refuseIf (a == 3 && !fmtStore d.fmt) 0x77 0
    <|> refuseIf ((a == 0 || a == 2) && d.round != lastRound s + 1) 0x73 0
    <|> refuseIf (a == 4 && ((d.source == 3 && failedParity != 1) || (d.source == 2 && d.via == 0))) 0x74 0
    <|> refuseIf (a == 5 && (tooFewSurvivors s (s.partitionOf ctx) d || groupBusy s d.group)) 0x75 0
    <|> refuseIf ((a != 5 && itemEngines s false < d.engines) || (usesCores && isDet s ctx && 32 - collCores s < d.cores)) 0x76 0
    <|> refuseIf (!recordsOk ws rs) codeRecord 0

/-! ## The whole of it -/

/-- A kind of Table 4. -/
def kindDefined (k : Nat) : Bool := 1 ≤ k && k ≤ 9

/-- The verdict of admission on a descriptor of a context (R167): the first failing check's code and detail, or none. -/
def verdictOf (s : State) (c : Nat) (ws : List W64) (rs : Recs) : Verdict :=
  let p := s.partitionOf c
  let k := kindOf ws
  let permitted := match s.ctxCfg c with
    | some x => x.kinds.getLsbD (k - 1)
    | none => false
  if kindDefined k = false then some (codeEncoding, 0)
  else
    refuseIf (!recordCountOk ws) codeLength (noStage ws)
      <|> refuseIf (!permitted) codeKind (noStage ws)
      <|> reservedCheck s p ws <|> encodingCheck ws <|> modeCheck s p ws
      <|> refuseIf (!((namedAddresses ws).all (addressNamed s) && (rangesOf s c ws rs).all (rangeAllowed s p))) codeAddress (noStage ws)
      <|> rangeCheck ws
      <|> (if k = kChain then chainCheck s c ws rs else if k = kHaul then haulCheck s ws else if k = kBench then benchCheck s c ws
           else if k = kUpdate then updateCheck s c ws rs else if k = kColl then collCheck s c ws rs
           else if k = kSnap then snapCheck s c ws rs else none)

end Sys2Proof.Machine
end

