-- ==== Sys2Proof/Machine/Intake.lean ====
section
/-! DEFINITION. Intake: descriptors read from a context's ring, numbered, admitted or refused (R155 to R157, R163, R167, R185). -/

namespace Sys2Proof.Machine

/-- Work is taken in, started and run: the device is up, not in the safe state and in no compute-domain reset. -/
def live (s : State) : Bool := s.up && !s.boot.safe && s.boot.creset.isNone

/-- What a read of a 64-byte block of a context's memory by the device gives: none while it is held for reissue (R232). -/
def readBlock (s : State) (off : Nat) : State × Option (Option (List W64)) :=
  let (t, a) := reachHome s 61 .device off (.read 64) .clean
  match a with
  | .data bs => (t, some (some (bytesWords bs)))
  | .retry => (t, none)
  | _ => (t, some none)

/-- Record i of a context's ring, read once: one that has been returned is kept until its descriptor is taken in (R157). None outside while
it is held, none inside when it returns no data. -/
def readRecordOnce (s : State) (c : Nat) (k : CtxCfg) (i : Nat) : State × Option (Option (List W64)) :=
  match (s.ctx c).taken.find? (fun t => t.1 == i) with
  | some t => (s, some (some t.2))
  | none => match readBlock s (k.ringBase + 64 * (i % 2 ^ k.ringLog2)) with
    | (t, some (some ws)) => (t.modCtx c (fun x => { x with taken := x.taken ++ [(i, ws)] }), some (some ws))
    | x => x

/-- n records of the ring from record i on; none outside when one is held, none inside when one returns no data. -/
def readRing (s : State) (c : Nat) (k : CtxCfg) (i n : Nat) : State × Option (Option (List W64)) :=
  (List.range n).foldl (fun (acc : State × Option (Option (List W64))) j =>
    match acc.2 with
    | some (some ws) =>
      let (t, r) := readRecordOnce acc.1 c k ((i + j) % 2 ^ 32)
      (t, r.map (fun x => x.map (fun v => ws ++ v)))
    | _ => acc) (s, some (some []))

/-- Version records that a descriptor names, read for admission: a local one at once, another home's by a READ whose answer intake
waits for (R126). DESIGN CHOICE: a record in a host window is not read and counts as a read with no data (notes/assumptions/55.md). -/
def fetchRecords (s : State) (c : Nat) (as_ : List Nat) : State × Option Recs :=
  as_.foldl (fun (acc : State × Option Recs) a =>
    if a % 64 ≠ 0 ∨ isHost a then (acc.1, acc.2.map (fun l => l ++ [(a, none)]))
    else if isLocal acc.1 a then
      match readBlock acc.1 (offOf a) with
      | (t, some r) => (t, acc.2.map (fun l => l ++ [(a, r)]))
      | (t, none) => (t, none)
    else match (acc.1.ctx c).fetched.find? (fun f => f.1 == a) with
      | some f => (acc.1, acc.2.map (fun l => l ++ [f]))
      | none =>
        if acc.1.reqs.any (fun q => q.ctx == some c && q.item.isNone && q.purpose == .read a 64) then (acc.1, none)
        else match acc.1.request none (some c) (.read a 64) (readPacket acc.1 a 1) with
          | (t, some _) => (t, none)
          | (t, none) => (t, acc.2.map (fun l => l ++ [(a, none)]))) (s, some [])

/-- Number of the next COLLECTIVE of a group, which every one taken in takes (R300). -/
def takeCollNo (s : State) (c : Nat) (ws : List W64) : State × Option Nat :=
  if kindOf ws ≠ kColl then (s, none)
  else match collGroup s (s.partitionOf c) (collD ws) with
    | none => (s, none)
    | some g =>
      let n := match s.collNext.find? (fun x => x.1 == g.index) with
        | some x => x.2
        | none => 0
      ({ s with collNext := upsert (fun x => x.1 == g.index) (g.index, n + 1) s.collNext }, some n)

/-- One descriptor taken in: it gets its number, is admitted or refused, and a chain reserves its pin-table entries (R130, R163, R167). -/
def takeIn (s : State) (c : Nat) (k : CtxCfg) (ws : List W64) (rs : Recs) : State :=
  let x := s.ctx c
  let r : ItemRef := ⟨c, x.nextSeq⟩
  let verdict := verdictOf s c ws rs
  let (s, no) := takeCollNo s c ws
  let ranges := rangesOf s c ws rs
  let ok := verdict.isNone
  let i : Item := { (default : Item) with
    ref := r, gen := x.gen, words := ws, partition := k.partition, period := x.period, periodAt := x.periodAt
    deadline := x.periodAt + 10 * k.period, intake := s.now, startAt := none, endAt := s.now
    stage := if ok then .queued else .ended, waitFor := .none, status := if ok then .done else .rejected
    code := BitVec.ofNat 8 ((verdict.map Prod.fst).getD 0), detail := BitVec.ofNat 8 ((verdict.map Prod.snd).getD 0)
    readSpan := if ok then readSpanOf s ranges else [], writeSpan := if ok then writeSpanOf s ranges else [], collNo := no }
  let pins := if ok ∧ kindOf ws = kChain then newPins s c ws else []
  State.modCtx { s with items := s.items ++ [i] } c (fun y => { y with
    nextSeq := y.nextSeq + 1, head := y.head + BitVec.ofNat 32 (ws.length / 8), fetched := [], taken := []
    pins := y.pins ++ pins.map (fun a => { record := a, buf := none, owner := r.seq }) })

/-- Items of a context in its intake queue (R157). -/
def queuedItems (s : State) (c : Nat) : Nat := (s.items.filter (fun i => i.ref.ctx == c && i.stage == .queued)).length

/-- A Ledger slot is free for one more item (R185). -/
def slotFree (s : State) (c : Nat) (k : CtxCfg) : Bool :=
  undrained (s.ctx c) + (s.items.filter (fun i => i.ref.ctx == c && i.stage != .recorded)).length < 2 ^ k.ledgerLog2

/-- Intake from head on, in ring order, as far as its conditions hold (R157); the first argument bounds the descriptors. -/
def intakeLoop : Nat → State → Nat → CtxCfg → State
  | 0, s, _, _ => s
  | n + 1, s, c, k =>
    let x := s.ctx c
    let room := (x.lastTail - x.head).toNat
    if room = 0 ∨ 256 ≤ queuedItems s c ∨ slotFree s c k = false then s
    else match readRing s c k x.head.toNat 1 with
      | (s, none) => s.modCtx c (fun y => { y with awaiting := true })
      | (s, some none) => s.modCtx c (fun y => { y with readFault := true, taking := false })
      | (s, some (some w0)) =>
        let m := bits (wd w0 0) 59 56 + 1
        if room < m then s
        else match readRing s c k x.head.toNat m with
          | (s, none) => s.modCtx c (fun y => { y with awaiting := true })
          | (s, some none) => s.modCtx c (fun y => { y with readFault := true, taking := false })
          | (s, some (some ws)) => match fetchRecords s c (namedRecords ws) with
            | (s, none) => s.modCtx c (fun y => { y with awaiting := true })
            | (s, some rs) => match if kindOf ws = kSnap then keepRound s else (s, true) with
              | (s, true) => intakeLoop n (takeIn s c k ws rs) c k
              | (s, false) => s.modCtx c (fun y => { y with awaiting := true })

/-- A whole descriptor may still lie before the last tail: its first record has not been read, or names no more records than are there. -/
def wholeLeft (s : State) (c : Nat) : Bool :=
  let x := s.ctx c
  let room := (x.lastTail - x.head).toNat
  room != 0 && match x.taken.find? (fun t => t.1 == x.head.toNat) with
    | some t => bits (wd t.2 0) 59 56 + 1 ≤ room
    | none => true

/-- Intake and the AFTER_OK items that can no longer run, in turn: those that end make room for more descriptors (R157, R162); the first
argument bounds the turns. -/
def intakeTurns : Nat → State → Nat → CtxCfg → State
  | 0, s, _, _ => s
  | n + 1, s, c, k =>
    let t := intakeLoop 65536 s c k
    let t := appendRecords (cascade t.items.length t c) c
    let x := t.ctx c
    if x.taking && !x.awaiting && x.nextSeq != (s.ctx c).nextSeq && wholeLeft t c && queuedItems t c < 256 && slotFree t c k then
      intakeTurns n t c k
    else t

/-- Intake runs; AFTER_OK items that can no longer run end, records are appended, and intake closes when nothing more can come in the
period (R157, R162, R182). taking says that descriptors which the last read made available are still to be taken in. -/
def runIntake (s : State) (c : Nat) (k : CtxCfg) : State :=
  let s := intakeTurns 65536 s c k
  let x := s.ctx c
  if x.awaiting || x.readPending then s
  else
    let more := x.taking && wholeLeft s c
    s.modCtx c (fun y => { y with taking := more, intakeClosed := y.intakeClosed || (lastRead y k && !more) })

/-- Intake goes on when a version record of another home has come (R126), or after a RETRY (R232). -/
def resumeIntake (s : State) (c : Nat) : State :=
  match s.ctxCfg c with
  | some k =>
    if live s ∧ (s.ctx c).awaiting then runIntake (s.modCtx c (fun x => { x with awaiting := false })) c k else s
  | none => s

/-- Intake that its queue or the Ledger has held goes on once there is room (R157, R185). -/
def goOnIntake (s : State) (c : Nat) : State :=
  match s.ctxCfg c with
  | some k =>
    let x := s.ctx c
    if live s ∧ x.started ∧ x.taking ∧ x.awaiting = false ∧ x.readPending = false then runIntake s c k else s
  | none => s

end Sys2Proof.Machine
end

