-- ==== Sys2Proof/Machine/Sched.lean ====
section
/-! DEFINITION. Scheduling (R162, R178 to R182): order conditions, what a unit can start, the smooth weighted round-robin, aging,
and the deterministic rounds; Bench cores (R199 to R202) and item engines (R234, R239) as items take them. -/

namespace Sys2Proof.Machine

/-- The order condition of an item holds (R162). An AFTER_OK item that a failed one bars has already ended. -/
def orderHolds (s : State) (i : Item) : Bool := effOrder i.words == 0 || s.items.all (fun e => !earlier e i || e.over)

/-- The fold accumulator that a reduction folds into (R313). -/
def foldOf (i : Item) : Option Nat :=
  let d := collD i.words
  if kindOf i.words = kColl ∧ d.reduces ∧ d.fold then some d.acc else none

/-- Every earlier item that folds into the accumulator of a NORM_ALLREDUCE has ended (R313). -/
def foldsEnded (s : State) (i : Item) : Bool :=
  !(kindOf i.words == kColl && (collD i.words).op == 5) || s.items.all (fun e => !earlier e i || foldOf e != some (collD i.words).acc || e.over)

/-- An admitted item that has not started and whose order condition holds. -/
def candidate (s : State) (i : Item) : Bool := i.stage == .queued && orderHolds s i && foldsEnded s i

/-- An item that has been given a start. -/
def hasStarted (s : State) (r : ItemRef) : Bool := match s.item r with
  | some i => i.startAt.isSome
  | none => false

/-- An item starts (R168, R183): its start is noted once, and counted on its die or Landing as ITEM_START; the room it leaves in its
context's intake queue lets a held intake go on (R157). -/
def startItem (s : State) (r : ItemRef) (f : Item → Item) : State :=
  let t := s.modItem r (fun i => f { i with stage := .running, startAt := i.startAt <|> some s.now, waitFor := .none })
  goOnIntake (if hasStarted s r then t else itemEvent t r 0x060) r.ctx

/-! ## Bench cores -/

def State.die (s : State) (d : Nat) : Die := s.dies.getD d Die.cold
def State.modDie (s : State) (d : Nat) (f : Die → Die) : State := { s with dies := s.dies.modify d f }
def Die.core (d : Die) (k : Nat) : Core := d.cores.getD k Core.cold

/-- Free presented cores of a die. -/
def idleCores (s : State) (d : Nat) : List Nat := (List.range 32).filter (fun k => ((s.die d).core k).owner == .free)

/-- An unended item lost a core and is to get it back before any other item takes it (R201). -/
def owedCore (s : State) (d k : Nat) : Bool := (s.die d).lossOrder.any (fun x => x.2 == k && s.items.any (fun i => i.ref == x.1 && !i.over))

/-- Cores of a die that descriptor work can take, those outside the reservation first; in deterministic mode no others (R199, R201,
R202). -/
def freeCores (s : State) (d : Nat) (det : Bool) : List Nat :=
  let ks := (idleCores s d).filter (fun k => !owedCore s d k)
  ks.filter (fun k => collCores s ≤ k) ++ if det then [] else ks.filter (fun k => k < collCores s)

/-- A die can grant n cores at once. -/
def canGrant (s : State) (d : Nat) (det : Bool) (n : Nat) : Bool := n ≤ (freeCores s d det).length

/-- idle_gap in ns (BENCH_CFG). -/
def idleGapNs (s : State) : Nat := bits s.cfg.bench 39 24 * 100

/-- A core given to an owner: one whose clock stands wakes; one that has been idle for idle_gap is stopping, and its wake is latched
(R191). -/
def giveCore (s : State) (o : CoreOwner) (k : Core) : Core :=
  { k with owner := o, waking := !k.awake, wakeLatched := k.wakeLatched || (k.awake && k.owner == .free && k.idleSince + idleGapNs s ≤ s.now) }

/-- Cores given to an owner. -/
def ownCores (s : State) (d : Nat) (ks : List Nat) (o : CoreOwner) : State :=
  s.modDie d (fun x => { x with cores := (x.cores.zip (List.range 32)).map (fun (k, n) => if ks.contains n then giveCore s o k else k) })

/-- Every core that an item holds has its clock running (R191). -/
def coresAwake (s : State) (i : Item) : Bool := match i.die with
  | some d => i.cores.all (fun k => let c := (s.die d).core k; c.awake && !c.wakeLatched)
  | none => true

/-- A lost core given back to its item once it is free; a loss of an item that has ended is forgotten (R201). -/
def giveBackOne (s : State) (d : Nat) (x : ItemRef × Nat) : State :=
  let forget (t : State) : State := t.modDie d (fun y => { y with lossOrder := y.lossOrder.filter (· != x) })
  if owedCore s d x.2 = false then forget s
  else if ((s.die d).core x.2).owner = .free then
    forget ((ownCores s d [x.2] (.item x.1)).modItem x.1 (fun i => { i with
      cores := i.cores ++ [x.2], lost := i.lost.filter (· != x.2), stage := if i.stage = .waiting then .running else i.stage,
      waitFor := if i.waitFor = .cores then .none else i.waitFor }))
  else s

/-- Lost cores given back in the order they were lost. -/
def giveBack (s : State) (d : Nat) : State := (s.die d).lossOrder.foldl (fun s x => giveBackOne s d x) s

/-- The contexts of a die (R182). -/
def dieContexts (s : State) (d : Nat) : List Nat := (List.range 48).filter (fun c => (dieSet s c).contains d)

/-- A die whose contexts use deterministic scheduling (R472). -/
def dieDet (s : State) (d : Nat) : Bool := (dieContexts s d).any (isDet s)

/-! ## Cores of collective work (R200, R202) -/

/-- The die on which the additions of a collective run. DESIGN CHOICE: the first of its context's set (notes/assumptions/96.md). -/
def collDie (s : State) (c : Nat) : Nat := (dieSet s c).headD 0

/-- A collective that has additions or folds to make on a die. -/
def collWorks (s : State) (d : Nat) (i : Item) : Bool :=
  kindOf i.words == kColl && i.stage == .running && !i.shipped && ((collD i.words).reduces || (collD i.words).op == 5) && collDie s i.ref.ctx == d

/-- Cores that collective work needs on a die: one for each item there that has additions or folds to make (notes/assumptions/96.md). -/
def collNeed (s : State) (d : Nat) : Nat := (s.items.filter (collWorks s d)).length

/-- Cores that collective work holds on a die. -/
def collHeld (s : State) (d : Nat) : Nat := ((s.die d).cores.filter (fun k => k.owner == .collective)).length

/-- coll_max (BENCH_CFG). -/
def collMax (s : State) : Nat := bits s.cfg.bench 13 8

/-- Collective work needs a further core of a die and may hold one (R200). -/
def collWants (s : State) (d : Nat) : Bool := collHeld s d < collNeed s d && (dieDet s d || collHeld s d < collMax s)

/-- The idle core that collective work takes next: a reserved one first; in deterministic mode no other (R200, R202). -/
def collIdle (s : State) (d : Nat) : Option Nat :=
  ((idleCores s d).find? (fun k => k < collCores s)) <|> (if dieDet s d then none else (idleCores s d).head?)

/-- Collective work takes the idle cores it needs; the first argument bounds their number (R200). -/
def collGrab : Nat → State → Nat → State
  | 0, s, _ => s
  | n + 1, s, d => if collWants s d then (match collIdle s d with
      | some k => collGrab n (ownCores s d [k] .collective) d
      | none => s) else s

/-! ## Cores of items -/

/-- An item takes n cores of a die in one step. -/
def takeCores (s : State) (d : Nat) (r : ItemRef) (n : Nat) : State :=
  let ks := (freeCores s d (isDet s r.ctx)).take n
  (ownCores s d ks (.item r)).modItem r (fun i => { i with die := some d, cores := i.cores ++ ks })

/-- Cores that an UPDATE takes (Table 1 of 07_bench.md). -/
def updCores (s : State) : Nat := bits s.cfg.bench 21 16

/-- Cores of a BENCH or an UPDATE. -/
def coresOf (s : State) (i : Item) : Nat := if kindOf i.words = kUpdate then updCores s else (benchD i.words).cores

/-- The die of a context's set that grants n cores at once and has the most free presented cores, ties to the lowest (R199). -/
def grantDie (s : State) (c n : Nat) : Option Nat :=
  minOn (fun d => 32 - (idleCores s d).length) ((dieSet s c).filter (fun d => canGrant s d (isDet s c) n))

/-- The die on which an item that names none takes its cores. -/
def bestDie (s : State) (i : Item) : Option Nat := grantDie s i.ref.ctx (coresOf s i)

/-- An UPDATE that holds its claim and waits for its cores (R133). -/
def wantsCores (i : Item) : Bool := i.stage == .waiting && i.waitFor == .cores && kindOf i.words == kUpdate && i.cores.isEmpty && i.lost.isEmpty

/-- A candidate for the Benches of a die. -/
def benchCandidate (s : State) (d : Nat) (i : Item) : Bool :=
  (dieSet s i.ref.ctx).contains d
    && ((kindOf i.words == kBench && candidate s i && ((benchD i.words).anyDie || (benchD i.words).die == d)) || wantsCores i)

/-- The die on which a round's item takes its cores: the one it names, or the one that R199 chooses. -/
def benchDie (s : State) (d : Nat) (i : Item) : Option Nat :=
  if kindOf i.words = kBench ∧ (benchD i.words).anyDie = false then
    (if canGrant s d (isDet s i.ref.ctx) (coresOf s i) then some d else none)
  else bestDie s i

/-- It can take its cores, on the round's die or, where it names none, on any die of its set (R199). -/
def benchStartable (s : State) (d : Nat) (i : Item) : Bool := (benchDie s d i).isSome

/-- It takes them. -/
def benchStart (s : State) (d : Nat) (i : Item) : State := match benchDie s d i with
  | some e => startItem (takeCores s e i.ref (coresOf s i)) i.ref id
  | none => s

/-! ## Chains (R116) -/

/-- Faces of a die that are not fenced (R400). -/
def openFaces (s : State) (d : Nat) : List Nat := [2 * d, 2 * d + 1].filter (fun f => !(s.faces.getD f Face.cold).fenced)

/-- Faces that a chain runs on, on a die: those it names that are open, else the die's other Face (R98, R400). -/
def chainFaces (s : State) (d : Nat) (c : ChainD) : List Nat :=
  let named := (openFaces s d).filter (fun f => c.faces.testBit (f % 2))
  if named.isEmpty then openFaces s d else named

/-- Cores of a T1-emulation chain with an ACT stage: 16 for each Face that it runs on, on a die (R199, R400). -/
def actCores (s : State) (d : Nat) (i : Item) : Nat :=
  let c := chainD i.words
  if isT1 s i.ref.ctx && !(c.ofKind skAct).isEmpty then 16 * (chainFaces s d c).length else 0

/-- Scratch and accumulator bytes that unended chains of a context hold on a die. -/
def scratchUsed (s : State) (d c : Nat) : Nat := ((s.items.filter (fun i => i.ref.ctx == c && i.die == some d && !i.over)).map Item.scratch).sum
def accumUsed (s : State) (d c : Nat) : Nat := ((s.items.filter (fun i => i.ref.ctx == c && i.die == some d && !i.over)).map Item.accum).sum

/-- The Pantry cost of a chain and its cores are free on a die with an open Face whose allocations are made (R116, R213). -/
def chainFits (s : State) (d : Nat) (i : Item) : Bool :=
  let c := chainD i.words
  let x := i.ref.ctx
  !(openFaces s d).isEmpty && allocMade s d && scratchUsed s d x + c.scratch * c.faceCount ≤ scratchSize s x
    && accumUsed s d x + c.accum * c.faceCount ≤ accumSize s x && canGrant s d (isDet s x) (actCores s d i)

/-- A chain that waits for no earlier waiting chain of its context. -/
def firstChain (s : State) (i : Item) : Bool :=
  s.items.all (fun e => !(earlier e i && kindOf e.words == kChain && candidate s e))

/-- A chain that is a candidate on a die. -/
def chainCandidate (s : State) (d : Nat) (i : Item) : Bool :=
  kindOf i.words == kChain && candidate s i && (dieSet s i.ref.ctx).contains d

/-- R116 allows it to start there on a free sequencer. -/
def chainStartable (s : State) (d : Nat) (i : Item) : Bool := firstChain s i && chainFits s d i

/-- It takes its stage bank, its Pantry cost and its cores in one step. -/
def chainStart (s : State) (d sq : Nat) (i : Item) : State :=
  let c := chainD i.words
  let fs := chainFaces s d c
  let s := takeCores s d i.ref (actCores s d i)
  let s := s.modDie d (fun x => { x with sequencers := x.sequencers.modify sq (fun _ => ⟨some i.ref⟩) })
  startItem s i.ref (fun j => { j with
    die := some d, sequencer := some sq, faces := fs, scratch := c.scratch * c.faceCount, accum := c.accum * c.faceCount })

/-- A sequencer of a die is free. -/
def sequencerFree (s : State) (d sq : Nat) : Bool := ((s.die d).sequencers.getD sq ⟨none⟩).item.isNone

/-! ## Engines -/

def State.landing (s : State) (l : Nat) : Landing := s.landings.getD l Landing.cold
def Landing.engines (l : Landing) (tipple : Bool) : List Engine := if tipple then l.tipple else l.haul

/-- When an item became ready to start: at its intake, or when the last item ended that its order condition or its accumulator waits for
(R162, R234, R313). -/
def readyAt (s : State) (i : Item) : Nat :=
  let waits (e : Item) : Bool := effOrder i.words != 0
    || (kindOf i.words == kColl && (collD i.words).op == 5 && foldOf e == some (collD i.words).acc)
  (s.items.filter (fun e => earlier e i && e.over && waits e)).foldl (fun t e => Nat.max t e.endAt) i.intake

/-- Free item engines of a kind on a Landing for an item that became ready at a time. Chain pieces that were there before come first where no
engine is reserved for them (R234). -/
def freeEngines (s : State) (l : Nat) (tipple : Bool) (since : Nat) : List Nat :=
  let x := s.landing l
  let n := if tipple then 4 else 16
  let waiting := if chainEngines s tipple = 0 then ((if tipple then x.tippleQueue else x.haulQueue).filter (fun p => p.1 ≤ since)).length else 0
  ((List.range n).filter (fun e => chainEngines s tipple ≤ e && ((x.engines tipple).getD e Engine.cold).busy.isNone)).drop waiting

/-- Kind and number of the engines that an item takes; none for an item that takes none (R237, R310, R433). -/
def enginesOf (i : Item) : Option (Bool × Nat) :=
  let k := kindOf i.words
  if k = kHaul then (let d := haulD i.words; some (d.op == 1 || d.op == 2 || d.op == 3, d.engines))
  else if k = kColl then (let d := collD i.words; some (false, if d.algo = 2 ∨ d.op = 4 then 1 else d.rings))
  else if k = kSnap then (let d := snapD i.words; if d.action = 5 then none else some (false, d.engines))
  else none

/-- The Landing that a HAUL names, none for any other (R239). -/
def namedLanding (i : Item) : Option Nat :=
  if kindOf i.words = kHaul ∧ (haulD i.words).anyLanding = false then some (haulD i.words).landing else none

/-- The Landing with the most free item engines of a kind for an item, ties to the lowest (R239). -/
def bestLanding (s : State) (tipple : Bool) (since : Nat) : Nat :=
  (minOn (fun l => 16 - (freeEngines s l tipple since).length) (List.range 12)).getD 0

/-- A candidate for the engines of a kind on a Landing. -/
def engineCandidate (s : State) (l : Nat) (tipple : Bool) (i : Item) : Bool :=
  candidate s i && (match enginesOf i with | some (t, _) => t == tipple | none => false)
    && (match namedLanding i with | some k => k == l | none => true)

/-- It can take all its engines there. -/
def engineStartable (s : State) (l : Nat) (i : Item) : Bool :=
  match enginesOf i with
  | some (t, n) => n ≤ (freeEngines s l t (readyAt s i)).length && (namedLanding i == some l || bestLanding s t (readyAt s i) == l)
  | none => false

/-- It takes them at once. -/
def engineStart (s : State) (l : Nat) (i : Item) : State :=
  match enginesOf i with
  | none => s
  | some (t, n) =>
    let es := (freeEngines s l t (readyAt s i)).take n
    let own (xs : List Engine) : List Engine :=
      (xs.zip (List.range 16)).map (fun (e, k) => if es.contains k then { e with busy := some i.ref, clock := true } else e)
    let s := { s with landings := s.landings.modify l (fun x => if t then { x with tipple := own x.tipple } else { x with haul := own x.haul }) }
    startItem s i.ref (fun j => { j with landing := some l, engines := es })

/-! ## Rounds (R178 to R180) -/

/-- A smooth weighted round-robin among partitions: the selected one, ties to the lowest, and the credits after it. -/
def wrr (weights : Nat → Nat) (parts : List Nat) (credits : List Int) : Option Nat × List Int :=
  let total : Int := ((parts.map weights).sum : Nat)
  let up : List Int := (credits.zip (List.range 8)).map (fun (c, p) => if parts.contains p then c + (weights p : Int) else c)
  let best := parts.foldl (fun (b : Option Nat) p => match b with
    | none => some p
    | some q => if up.getD q 0 < up.getD p 0 then some p else some q) none
  match best with
  | some p => (some p, up.modify p (fun c : Int => c - total))
  | none => (none, credits)

/-- The elements with the least key. -/
def narrow {α : Type} (key : α → Nat) (l : List α) : List α :=
  match minOn key l with
  | some x => l.filter (fun y => key y == key x)
  | none => []

/-- The candidate of a partition that a round selects (R178, bullets 2 to 5). -/
def selectItem (s : State) (l : List Item) : Option Item :=
  let aged := l.filter (fun i => i.aged.isSome)
  let pool := if aged.isEmpty then l else narrow (fun i => i.aged.getD 0) aged
  let priority (i : Item) : Nat := match s.ctxCfg i.ref.ctx with
    | some k => k.priority
    | none => 0
  (narrow (fun i => i.ref.seq) (narrow (fun i => i.ref.ctx) (narrow Item.intake (narrow Item.deadline (narrow priority pool))))).head?

/-- What a round on a unit chooses from: its candidates and which of them it can start. -/
structure Offer where
  cands : List Item
  ready : List Item

/-- An aged candidate that cannot start reserves its place: no other candidate of its context starts (R179). -/
def reserve (o : Offer) : Offer :=
  let blocked := (o.cands.filter (fun i => i.aged.isSome && !(o.ready.any (fun j => j.ref == i.ref)))).map (fun i => i.ref.ctx)
  { o with ready := o.ready.filter (fun i => !blocked.contains i.ref.ctx) }

/-- The partitions with a startable candidate, in ascending order. -/
def Offer.parts (o : Offer) : List Nat := (List.range 8).filter (fun p => o.ready.any (fun i => i.partition == p))

/-- Candidates of the selected partition that a round passes over; 32 such rounds age one, and the round's number gives the order of aging
(R178, R179). -/
def passOver (s : State) (o : Offer) (p : Nat) (chosen : ItemRef) : State :=
  { s with rounds := s.rounds + 1, items := s.items.map (fun i =>
    if i.partition = p ∧ i.ref ≠ chosen ∧ o.cands.any (fun j => j.ref == i.ref) then
      { i with passed := i.passed + 1, aged := if 32 ≤ i.passed + 1 then i.aged <|> some s.rounds else i.aged }
    else i) }

/-- One round over an offer: the credits after it, and the item it starts with the candidates it passed over. -/
def runRound (s : State) (o : Offer) (credits : List Int) : State × List Int × Option Item :=
  let o := reserve o
  match wrr (fun p => (s.partCfg p).weight) o.parts credits with
  | (some p, cs) => match selectItem s (o.ready.filter (fun i => i.partition == p)) with
    | some i => (passOver s o p i.ref, cs, some i)
    | none => (s, credits, none)
  | (none, _) => (s, credits, none)

/-- The offer of items that satisfy two tests. -/
def offerOf (s : State) (cand ready : Item → Bool) : Offer :=
  let cs := s.items.filter cand
  { cands := cs, ready := cs.filter ready }

/-- A round of a chain sequencer (R178). -/
def sequencerRound (s : State) (d sq : Nat) : State :=
  if dieDet s d ∨ sequencerFree s d sq = false then s
  else match runRound s (offerOf s (chainCandidate s d) (chainStartable s d)) (s.die d).credits with
    | (t, cs, some i) => chainStart (t.modDie d (fun x => { x with credits := cs })) d sq i
    | _ => s

/-- A round of the Benches of a die, after collective work has taken the idle cores that it needs (R181, R200). -/
def benchRound (s : State) (d : Nat) : State :=
  if dieDet s d then s
  else
    let s := collGrab 32 (giveBack s d) d
    match runRound s (offerOf s (benchCandidate s d) (benchStartable s d)) (s.die d).benchCredits with
    | (t, cs, some i) => benchStart (t.modDie d (fun x => { x with benchCredits := cs })) d i
    | _ => s

/-- A round of the item engines of a kind on a Landing (R181). -/
def engineRound (s : State) (l : Nat) (tipple : Bool) : State :=
  let x := s.landing l
  match runRound s (offerOf s (engineCandidate s l tipple) (engineStartable s l)) (if tipple then x.tippleCredits else x.haulCredits) with
  | (t, cs, some i) =>
    engineStart { t with landings := t.landings.modify l (fun y => if tipple then { y with tippleCredits := cs } else { y with haulCredits := cs }) } l i
  | _ => s

/-- SCHEDULER_ROUND: one round on a unit (R178, R181). -/
def execSchedulerRound (u : RoundUnit) (s : State) : Host.Outcome State Fault Refusal :=
  .next (if live s then
    match u with
    | .sequencer d sq => sequencerRound s d.val sq.val
    | .bench d => benchRound s d.val
    | .engines l k => engineRound s l.val (k == .tipple)
  else s)

/-! ## Deterministic rounds (R182) -/

/-- The context whose turn it is on a die, in cyclic order from the next one: contexts whose intake is closed and that have no
unstarted item of the unit's kinds from their period are passed over. -/
def detTurn (s : State) (d next : Nat) (mine : Item → Bool) : Option Nat :=
  let cs := dieContexts s d
  let order := cs.filter (fun c => next ≤ c) ++ cs.filter (fun c => c < next)
  let left (c : Nat) : Bool :=
    !(s.ctx c).intakeClosed || s.items.any (fun i => i.ref.ctx == c && mine i && !i.over && i.period == (s.ctx c).period && i.gen == (s.ctx c).gen)
  order.find? left

/-- The first unstarted item of a context in seq order. -/
def detHead (s : State) (c : Nat) (mine : Item → Bool) : Option Item :=
  minOn (fun i => i.ref.seq) (s.items.filter (fun i => i.ref.ctx == c && mine i && !i.over))

/-- A chain that has not started. -/
def unstartedChain (i : Item) : Bool := kindOf i.words == kChain && i.stage == .queued

/-- A BENCH or an UPDATE that has not taken its cores. -/
def unstartedBench (i : Item) : Bool :=
  (kindOf i.words == kBench && i.stage == .queued)
    || (kindOf i.words == kUpdate && (i.stage == .queued || i.stage == .waiting) && i.cores.isEmpty && i.lost.isEmpty)

/-- A round on a die's sequencer in deterministic mode: it starts the candidate whose turn it is, or waits for it. -/
def detSequencerRound (s : State) (d sq : Nat) : State :=
  if sequencerFree s d sq = false then s
  else match detTurn s d (s.die d).detNext unstartedChain with
    | none => s
    | some c => match detHead s c unstartedChain with
      | none => s
      | some i =>
        if chainCandidate s d i && chainStartable s d i then
          chainStart (s.modDie d (fun x => { x with detNext := (c + 1) % 48 })) d sq i
        else s

/-- A round on a die's Benches in deterministic mode. -/
def detBenchRound (s : State) (d : Nat) : State :=
  let s := collGrab 32 (giveBack s d) d
  match detTurn s d (s.die d).detBenchNext unstartedBench with
  | none => s
  | some c => match detHead s c unstartedBench with
    | none => s
    | some i =>
      if benchCandidate s d i && benchStartable s d i then
        benchStart (s.modDie d (fun x => { x with detBenchNext := (c + 1) % 48 })) d i
      else s

/-- DETERMINISTIC_ROUND: one round on a unit of a die whose contexts use deterministic scheduling (R182, R475). -/
def execDeterministicRound (u : RoundUnit) (s : State) : Host.Outcome State Fault Refusal :=
  .next (if live s then
    match u with
    | .sequencer d sq => if dieDet s d.val then detSequencerRound s d.val sq.val else s
    | .bench d => if dieDet s d.val then detBenchRound s d.val else s
    | .engines _ _ => s
  else s)

end Sys2Proof.Machine
end

