-- ==== Sys2Proof/Machine/Context.lean ====
section
/-! DEFINITION. Contexts: periods and polls (R154, R177), the control block (R155 to R157), flagged final writes (R258), the end of items
(R168 to R172, R184), the drop at a period's end (R170), the watchdog (R176), and the Ledger's timed drain (R186). -/

namespace Sys2Proof.Machine

/-- Nanoseconds of a context's period. -/
def periodNs (s : State) (c : Nat) : Nat := match s.ctxCfg c with
  | some k => 10 * k.period
  | none => 0

/-! ## Folds (R313) -/

/-- One ended item's fold added to its accumulator, or the accumulator marked broken. -/
def countFold (s : State) (i : Item) (a : Nat) : State :=
  let add (f : Fold) : Fold :=
    if i.status.good then
      { f with value := BitVec.ofNat 64 (roundEncode fmtFP64
          (Num.add (decodeFloat fmtFP64 f.value.toNat) (decodeFloat fmtFP64 (i.normFolded.getD 0).toNat)).val) }
    else { f with broken := true }
  (s.modItem i.ref (fun j => { j with counted := true })).modCtx i.ref.ctx (fun x => { x with folds := x.folds.modify a add })

/-- Folds of a context's ended items added in seq order, up to the first item that folds there and has not ended. -/
def settleFolds (s : State) (c : Nat) : State :=
  let mine := sortOn (fun i => i.ref.seq) (s.items.filter (fun i => i.ref.ctx == c && i.gen == (s.ctx c).gen && (foldOf i).isSome && !i.counted))
  (List.range 16).foldl (fun s a =>
    ((mine.filter (fun i => foldOf i == some a)).takeWhile Item.over).foldl (fun s i => countFold s i a) s) s

/-! ## The end of an item -/

/-- Every completion that a Crusher reduction waits for has come (R323). -/
def completionsIn (s : State) (i : Item) : Bool :=
  !(kindOf i.words == kColl && (collD i.words).crusher) || match s.colls.find? (fun x => x.item == i.ref), collGroup s i.partition (collD i.words) with
    | some x, some g => (List.range g.n).all (fun r => r == g.rank || x.completions.contains r)
    | _, _ => true

/-- An item whose accesses are all issued and settled, and whose replays are compared (R168, R258, R403). -/
def settled (s : State) (i : Item) : Bool :=
  i.stage == .issued && !outstanding s i && i.staged.isEmpty && i.flagged.isEmpty && i.replays == 0 && completionsIn s i

/-- The status, code and aux of an item that completes: DONE unless a FENCE's write-back failed or a primary was told that its chunks
were not used (R261, R318). -/
def finishItem (s : State) (i : Item) : State :=
  if i.code ≠ 0 ∧ kindOf i.words = kFence then failItem s i.ref i.code.toNat none
  else endItem s i.ref i.status i.code.toNat i.aux

/-- The staged writes of an item go on, as far as their way has become clear (R253, R262). -/
def goStaged (s : State) (r : ItemRef) : State := match s.item r with
  | some i =>
    if i.over ∨ i.staged.isEmpty then s
    else match issueStaged s r with
      | (t, some c) => failItem t r c none
      | (t, none) => releaseIssued t r
  | none => s

/-- The staged writes of every item of a context. -/
def goStagedAll (s : State) (c : Nat) : State := (s.items.filter (fun i => i.ref.ctx == c && !i.staged.isEmpty)).foldl (fun s i => goStaged s i.ref) s

/-- ITEM_END: an item all of whose writes are acknowledged and all of whose actions are complete ends; its record is appended, or
waits as R172, R174 and R176 say (R168, R184). -/
def execItemEnd (c : CtxIx) (seq : Nat) (s : State) : Host.Outcome State Fault Refusal :=
  .next (let s := goStaged s ⟨c.val, seq⟩
    match s.item ⟨c.val, seq⟩ with
    | some i => if settled s i then goOnIntake (goStagedAll (finishItem s i) c.val) c.val else s
    | none => s)

/-- DROP_POISON_COMPLETE: every poison write of an ended item is acknowledged or abandoned, and its record is appended (R172, R174,
R186). -/
def execDropPoisonComplete (c : CtxIx) (seq : Nat) (s : State) : Host.Outcome State Fault Refusal :=
  .next (match s.item ⟨c.val, seq⟩ with
    | some i =>
      if i.stage = .dropping ∧ i.poisonSent = true ∧ outstanding s i = false then
        goStagedAll (appendRecords (s.modItem i.ref (fun j => { j with stage := .ended })) c.val) c.val
      else s
    | none => s)

/-- DRAIN_INTERVAL_EXPIRY: the oldest undrained record is drain_interval old (R186). -/
def execDrainIntervalExpiry (c : CtxIx) (s : State) : Host.Outcome State Fault Refusal :=
  .next (match s.ctxCfg c.val with
    | some k =>
      let x := s.ctx c.val
      if s.up ∧ 0 < undrained x ∧ drainInFlight s c.val = false then drain (s.upTo (x.oldestAt + 1000 * k.drainUs)) c.val else s
    | none => s)

/-! ## Flagged final writes (R258) -/

/-- Writes, atomics and reads of a context that are not settled. The compare-swaps on version records are the device's own (R246). -/
def ctxOutstanding (s : State) (c : Nat) : List Nat :=
  (s.reqs.filter (fun q => q.ctx == some c && match q.purpose with
    | .drain _ _ | .errorDrain _ | .held | .poison => false
    | p => !p.onRecord)).map Req.id

/-- A flagged final write of an item becomes ready: it waits on what its context has issued and is not settled. -/
def addFlagged (s : State) (r : ItemRef) (a : Nat) (v : W64) : State :=
  let waits := ctxOutstanding s r.ctx
  s.modItem r (fun i => { i with flagged := i.flagged ++ [{ addr := a, value := v, waits := waits, issued := false }] })

/-- A poison write of an earlier item of the context is not acknowledged yet (R174). -/
def poisonPending (s : State) (r : ItemRef) : Bool :=
  s.items.any (fun e => e.ref.ctx == r.ctx && e.stage == .dropping && e.ref.seq < r.seq)

/-- It is issued when all it waits on is settled: past every cache partition to its home, or to the host as a Write with Immediate when
a PUBLISH names a host window (R258, R336). -/
def issueFlagged (s : State) (i : Item) (f : Flagged) : State :=
  let r := i.ref
  let bs := leBytes 8 f.value.toNat
  let mark (s : State) (ids : List Nat) : State := s.modItem r (fun j => { j with
    writes := j.writes ++ ids
    written := j.written ++ [(f.addr, 8)]
    flagged := j.flagged.map (fun x => if x = f then { x with issued := true, waits := ids } else x) })
  if isHost f.addr then
    match s.hostWindow (winOf f.addr) with
    | some w =>
      if s.qpUp w.qp then
        let imm : BitVec 32 := BitVec.ofNat 32 (0x3F * 2 ^ 26 + r.ctx)
        let id := s.nextReq
        mark (s.sendHost w.qp (some r) (some r.ctx) .flagged 8 (.writeImm w.qp (w.base + winOff f.addr) w.rkey bs imm) (some imm)) [id]
      else failItem s r codeUnreachable none
    | none => failItem s r codeRemoteFault none
  else
    let s := dropOtherCopies s r.ctx none (f.addr / 64)
    let w := issueWrite s (some r) r.ctx .flagged f.addr bs
    match w.code with
    | some c => failItem (mark w.s w.ids) r c none
    | none => if w.ids.isEmpty then flaggedDone (mark w.s []) r s.nextReq else mark w.s w.ids

/-- FLAGGED_FINAL_WRITE_ISSUE: the oldest flagged final write of an item is issued once what it waits on and the item's own writes are
settled (R258). -/
def execFlaggedFinalWriteIssue (c : CtxIx) (seq : Nat) (s : State) : Host.Outcome State Fault Refusal :=
  .next (match s.item ⟨c.val, seq⟩ with
    | some i => match i.flagged.find? (fun f => !f.issued) with
      | some f =>
        if !i.over && i.staged.isEmpty && !outstanding s i && !(f.waits.any (fun id => s.reqs.any (fun q => q.id == id))) && !poisonPending s i.ref then
          match clearWay s i.ref none (f.addr, 8) true with
          | (t, true) => issueFlagged t i f
          | (t, false) => t
        else s
      | none => s
    | none => s)

/-! ## Periods (R154, R177) -/

/-- When the next period of a context begins. -/
def nextPeriodAt (s : State) (c : Nat) : Nat := match s.ctxCfg c with
  | some k => if (s.ctx c).periodAt = 0 then 10 * (s.t0 + k.offset) else (s.ctx c).periodAt
  | none => 0

/-- Items whose records are in the Ledger are forgotten at a period start, but those whose poisoned lines count for the bound of a drop
sequence that still runs (R172). -/
def prune (s : State) (c : Nat) : State :=
  let s := settleFolds s c
  let counts (i : Item) : Bool := s.items.any (fun j => j.stage == .dropping && j.endAt / 10 == i.endAt / 10)
  { s with items := s.items.filter (fun i => !(i.ref.ctx == c && i.stage == .recorded && !counts i)) }

/-- PERIOD_START: a context's period begins and the acquire read of its control block is issued (R154, R155). -/
def execPeriodStart (c : CtxIx) (s : State) : Host.Outcome State Fault Refusal :=
  .next (if live s ∧ (s.ctxCfg c.val).isSome ∧ (s.ctx c.val).started = false then
    let at_ := nextPeriodAt s c.val
    (prune (s.upTo at_) c.val).modCtx c.val (fun x => { x with
      started := true, periodAt := at_, polls := 0, readPending := true, firstReturned := false, intakeClosed := false, awaiting := false })
  else s)

/-- POLL: the next poll of the period falls due and the control block is read again (R155, R177). -/
def execPoll (c : CtxIx) (s : State) : Host.Outcome State Fault Refusal :=
  .next (match s.ctxCfg c.val with
    | some k =>
      let x := s.ctx c.val
      let n := (x.polls + 1) * k.poll
      if live s ∧ x.started ∧ k.poll ≠ 0 ∧ n < k.period then
        (s.upTo (x.periodAt + 10 * n)).modCtx c.val (fun y => { y with polls := y.polls + 1, readPending := true })
      else s
    | none => s)

/-! ## The control block -/

/-- CONTROL_BLOCK_READ_RETURN: the publish word is checked and descriptors are taken in (R157), none while a reset of the context runs
(R176); the acquire read invalidates the clean
lines of the whole cache partition (R259). -/
def execControlBlockReadReturn (c : CtxIx) (s : State) : Host.Outcome State Fault Refusal :=
  .next (match s.ctxCfg c.val with
    | some k =>
      let x := s.ctx c.val
      if live s ∧ x.started ∧ x.readPending then
        match readBlock s k.ctlBlock with
        | (s, none) => s
        | (s, some none) =>
          s.modCtx c.val (fun y => { y with
            readFault := true, taking := false, readPending := false, firstReturned := true, intakeClosed := y.intakeClosed || lastRead y k })
        | (s, some (some ws)) =>
          let s := acquire s c.val none
          let s := if (s.ctx c.val).drainHeld then
              drain (s.modCtx c.val (fun y => { y with ledgerAck := BitVec.ofNat 32 (bits (wd ws 1) 31 0) })) c.val
            else s
          let gen : BitVec 16 := BitVec.ofNat 16 (bits (wd ws 0) 63 48)
          let tail : BitVec 32 := BitVec.ofNat 32 (bits (wd ws 0) 31 0)
          let s := s.modCtx c.val (fun y => { y with
            readPending := false, firstReturned := true, ledgerAck := BitVec.ofNat 32 (bits (wd ws 1) 31 0) })
          if ctxResetting s c.val then s.modCtx c.val (fun y => { y with
              staleGen := y.staleGen || gen != x.gen, taking := false, intakeClosed := y.intakeClosed || lastRead y k })
          else if gen ≠ x.gen then
            s.modCtx c.val (fun y => { y with staleGen := true, taking := false, intakeClosed := y.intakeClosed || lastRead y k })
          else if 2 ^ k.ringLog2 < (tail - x.head).toNat then
            s.modCtx c.val (fun y => { y with publishError := true, taking := false, intakeClosed := y.intakeClosed || lastRead y k })
          else runIntake (s.modCtx c.val (fun y => { y with lastTail := tail, taking := true })) c.val k
      else s
    | none => s)

/-! ## The end of a period (R169, R170, R176) -/

/-- The norm that an UPDATE waits for stands in its cell, and its record has a buffer to claim. What lies at another device's home is not seen
at the period's end and counts as ready (R132, R142; notes/assumptions/92.md). -/
def updateReady (s : State) (i : Item) : Bool :=
  let d := updateD i.words
  let shows (a : Nat) (p : List W64 → Bool) : Bool :=
    !isLocal s a || ((deviceRead s (offOf a) 64).2.map (fun bs => p (bytesWords bs))).getD false
  (!d.clip || shows d.normCell (fun ws => bitAt (wd ws 2) 0 && bits (wd ws 2) 63 32 == d.step))
    && shows d.record (fun ws => (claimable ws).isSome)

/-- Every resource a queued item needs is free (R168, LATE_QUEUED). A chain that no die can run because every Face of its die_set is
fenced is LATE_QUEUED (R400). -/
def resourcesFree (s : State) (i : Item) : Bool :=
  let k := kindOf i.words
  if k = kChain then
    let ds := dieSet s i.ref.ctx
    ds.all (fun d => (openFaces s d).isEmpty)
      || ds.any (fun d => (sequencerFree s d 0 || sequencerFree s d 1) && chainFits s d i)
  else if k = kBench then (dieSet s i.ref.ctx).any (fun d => benchCandidate s d i && benchStartable s d i)
  else if k = kUpdate then updateReady s i && (bestDie s i).isSome
  else match enginesOf i with
    | some (t, n) => (List.range 12).any (fun l => n ≤ (freeEngines s l t (readyAt s i)).length && (namedLanding i == none || namedLanding i == some l))
    | none => true

/-- The late code of an item at its period's end (R168, R170). -/
def lateCode (s : State) (i : Item) : Nat :=
  match i.stage with
  | .queued => if orderHolds s i && resourcesFree s i then codeLateQueued else codeLateWaiting
  | .waiting => codeLateWaiting
  | _ => if i.waitFor = .none then codeLateRunning else codeLateWaiting

/-- Items of the period that ends. -/
def periodItems (s : State) (c : Nat) : List Item :=
  s.items.filter (fun i => i.ref.ctx == c && !i.over && i.period == (s.ctx c).period && i.gen == (s.ctx c).gen)

/-- The aux of a late item: a CHAIN's row blocks, a COLLECTIVE's chunks completed (R183, R324). -/
def lateAux (s : State) (i : Item) : BitVec 32 :=
  if kindOf i.words = kChain then BitVec.ofNat 32 i.rowBlocks
  else if kindOf i.words = kColl then (match s.colls.find? (fun x => x.item == i.ref) with
    | some x => BitVec.ofNat 32 (Nat.min x.chunksDone (2 ^ 32 - 1))
    | none => 0)
  else 0

/-- Lines poisoned for the items that end together with an item (R172). -/
def tickPoisons (s : State) (i : Item) : Nat :=
  ((s.items.filter (fun j => j.over && j.endAt / 10 == i.endAt / 10)).map (fun j =>
    if j.stage = .dropping ∧ j.poisonSent = false then ((poisonLines s j).filter (fun l => !isHost (64 * l))).length else j.poisons)).sum

/-- A drop sequence within its bound: 12 µs + 0.67 ns for each line (R172). -/
def withinBound (s : State) (i : Item) : Bool := s.now * 100 ≤ (i.endAt + 12000) * 100 + 67 * tickPoisons s i

/-- The watchdog's first check fails: an item of an earlier period has no record and is in no drop sequence within its bound. An item
that such a sequence holds back is excused with it (R176). -/
def recordsIncomplete (s : State) (c : Nat) : Bool :=
  s.items.any (fun i => i.ref.ctx == c && i.gen == (s.ctx c).gen && i.period != (s.ctx c).period && i.stage != .recorded
    && !(i.stage == .dropping && withinBound s i) && !(i.stage == .ended && heldBack s i))

/-- The watchdog at a period's end: a failed check resets the context and writes an error record (R176). It ends the period's items on this
tick before they are late: FAILED_FAULT comes first (R413). -/
def watchdog (s : State) (c : Nat) : State :=
  let late := recordsIncomplete s c
  let unread := !(s.ctx c).firstReturned
  if late || unread then
    let err := s.nextError
    let s := raiseError s
      { cls := 0x0D, sev := sevUnit, unit := 0xFF, item := none, ctx := some c, detail := [wordOf [⟨0, 1, b2n late⟩, ⟨1, 1, b2n unread⟩]] }
    resetContext s c codeWatchdog (some err)
  else s

/-- How an item whose end is visible ends: status, code and aux. -/
def endOf (i : Item) : ItemRef × Status × Nat × BitVec 32 :=
  if i.code ≠ 0 ∧ kindOf i.words = kFence then (i.ref, .failedFault, i.code.toNat, failAux i none) else (i.ref, i.status, i.code.toNat, i.aux)

/-- PERIOD_END: items whose end is visible on the tick end with their own status, the others of the period end DROPPED_LATE; the
records drain, and the watchdog makes its checks (R169, R170, R176, R186). -/
def execPeriodEnd (c : CtxIx) (s : State) : Host.Outcome State Fault Refusal :=
  .next (match s.ctxCfg c.val with
    | some k =>
      let x := s.ctx c.val
      if live s ∧ x.started then
        let s := s.upTo (x.periodAt + 10 * k.period)
        let onTime := ((periodItems s c.val).filter (settled s)).map endOf
        let s := if recordsIncomplete s c.val ∨ (s.ctx c.val).firstReturned = false then watchdog (endMany s onTime) c.val else s
        let late := ((periodItems s c.val).filter (fun i => !settled s i)).map (fun i => (i.ref, Status.droppedLate, lateCode s i, lateAux s i))
        let s := drain (endMany s (((periodItems s c.val).filter (settled s)).map endOf ++ late)) c.val
        s.modCtx c.val (fun y => { y with
          period := y.period + 1, periodAt := x.periodAt + 10 * k.period, started := false, readPending := false, awaiting := false, taking := false, fetched := [] })
      else s
    | none => s)

end Sys2Proof.Machine
end

