-- ==== Sys2Proof/Machine/Image.lean ====
section
/-! DEFINITION. The configuration image: flash slots (R351, R352), header, records and signature block (R354 to R357), firmware
records (R360), the checks of verification, and the configuration that the records of a position and variant give (R358, R487). -/

namespace Sys2Proof.Machine

/-! ## Bytes of a slot -/

/-- n bytes of a slot from an offset on. -/
def slotBytes (f : SlotImage) (a n : Nat) : List Byte :=
  (List.range ((n + 63) / 64)).flatMap (fun k =>
    let b := a + 64 * k
    let near := f.bytes.filter (fun c => b ≤ c.1 && c.1 < b + 64)
    (List.range (Nat.min 64 (n - 64 * k))).map (fun i => match near.find? (fun c => c.1 == b + i) with
      | some c => c.2
      | none => f.fill))

/-- The slot with bytes written from an offset on. -/
def slotWrite (f : SlotImage) (a : Nat) (bs : List Byte) : SlotImage :=
  { f with bytes := f.bytes.filter (fun c => c.1 < a) ++ ((List.range bs.length).zip bs).map (fun (i, b) => (a + i, b))
      ++ f.bytes.filter (fun c => a + bs.length ≤ c.1) }

/-- The slot with its header erased (R455). -/
def eraseHeader (f : SlotImage) : SlotImage := slotWrite f 0 (List.replicate 64 0xFF)

/-- Bytes of a slot (Table 4 of 13_startup.md). -/
def slotSize : Nat := 56 * 2 ^ 20

/-- Bytes of a signature block of algorithm 0x0001 (R357). -/
def sigBlock : Nat := 29856

/-- The little-endian bytes of a measurement. -/
def measureBytes (m : BitVec 512) : List Byte := leBytes 64 m.toNat

/-! ## Header -/

/-- The image header (Table 5 of 13_startup.md). -/
structure Header where
  version : BitVec 32
  length : Nat
  count : Nat
  defaultVariant : Nat
  variantsM1 : Nat
  keyId : Nat
deriving DecidableEq, Repr

/-- The header of a slot, or its fail_code (R352, R354). -/
def readHeader (f : SlotImage) : Except Nat Header :=
  let ws := bytesWords (slotBytes f 0 64)
  let w1 := wd ws 1
  let w2 := wd ws 2
  let w3 := wd ws 3
  if wd ws 0 ≠ 0x30474D493254464B ∨ bits w1 63 48 ≠ 1 ∨ bits w1 47 32 ≠ 0 ∨ bits w3 55 48 ≠ 0 ∨ bits w3 31 0 ≠ 0
      ∨ (ws.drop 4).any (· != 0) then .error 0x02
  else if bits w2 63 32 % 64 ≠ 0 ∨ bits w2 63 32 < 64 ∨ slotSize < bits w2 63 32 + sigBlock then .error 0x03
  else .ok { version := BitVec.ofNat 32 (bits w1 31 0), length := bits w2 63 32, count := bits w2 31 0,
             defaultVariant := bits w3 63 60, variantsM1 := bits w3 59 56, keyId := bits w3 47 32 }

/-! ## Records -/

/-- A record: kind, index, the masks of its variants and positions, and its body. -/
structure Rec where
  kind : Nat
  index : Nat
  vmask : BitVec 16
  pmask : BitVec 8
  body : List W64
deriving DecidableEq, Repr

/-- A word of a record's body. -/
def Rec.w (r : Rec) (i : Nat) : W64 := wd r.body i

/-- The record applies at a position in a variant (R358). -/
def Rec.applies (r : Rec) (pos v : Nat) : Bool := r.pmask.getLsbD pos && r.vmask.getLsbD v

/-- The given number of records from the words after the header; what follows the last one is less than 64 bytes of
padding to a length that is a multiple of 64 (DEDUCED, notes/assumptions/9.md). -/
def parseRecords : Nat → List W64 → Option (List Rec)
  | 0, ws => if ws.length < 8 then some [] else none
  | n + 1, ws =>
    let w0 := wd ws 0
    let w1 := wd ws 1
    let words := bits w0 31 0 / 8
    if bits w0 31 0 % 16 ≠ 0 ∨ words < 2 ∨ ws.length < words ∨ bits w0 47 32 ≠ 0 ∨ bits w1 39 32 ≠ 0 then none
    else (parseRecords n (ws.drop words)).map (fun rs =>
      { kind := bits w0 63 48, index := bits w1 31 0, vmask := BitVec.ofNat 16 (bits w1 63 48),
        pmask := BitVec.ofNat 8 (bits w1 47 40), body := (ws.take words).drop 2 } :: rs)

def kBoard : Nat := 0x10
def kSetting : Nat := 0x11
def kPartition : Nat := 0x20
def kContext : Nat := 0x21
def kRegion : Nat := 0x30
def kRoute : Nat := 0x40
def kGroup : Nat := 0x41
def kQp : Nat := 0x50
def kDevWindow : Nat := 0x51
def kHostWindow : Nat := 0x52
def kNet : Nat := 0x53
def kPower : Nat := 0x60
def kSafety : Nat := 0x61
def kSurvival : Nat := 0x62
def kFirmware : Nat := 0x70
def kForward : Nat := 0x71

/-- The body words that a kind's layout has, after the zeros that fill a record to a multiple of 16 bytes; none for an
undefined kind. -/
def bodyWords (r : Rec) : Option Nat :=
  let even (n : Nat) : Nat := (n + 1) / 2 * 2
  if r.kind = kBoard ∨ r.kind = kSetting ∨ r.kind = kSafety ∨ r.kind = kForward then some 2
  else if r.kind = kPartition then some 4
  else if r.kind = kContext then some 10
  else if r.kind = kRegion ∨ r.kind = kDevWindow ∨ r.kind = kHostWindow ∨ r.kind = kNet ∨ r.kind = kPower ∨ r.kind = kSurvival then some 4
  else if r.kind = kRoute then some 16384
  else if r.kind = kGroup then
    let n := bits (r.w 0) 47 32
    let b := bits (r.w 1) 60 55
    some (even (2 + (n + b + 3) / 4 + (b + 3) / 4))
  else if r.kind = kQp then some 8
  else if r.kind = kFirmware then some (10 + bits (r.w 0) 31 0 / 8 + sigBlock / 8)
  else none

/-- The order of R355: ascending kinds, and ascending indices within a kind. -/
def inOrder : List Rec → Bool
  | r :: q :: rest => (r.kind < q.kind || (r.kind == q.kind && r.index ≤ q.index)) && inOrder (q :: rest)
  | _ => true

/-- Two records of one kind and one index that apply together. -/
def bothApply (r q : Rec) : Bool :=
  r.kind == q.kind && r.index == q.index && (r.vmask &&& q.vmask) != 0 && (r.pmask &&& q.pmask) != 0

/-- No two records of a list, at different places, satisfy p. -/
def noPair (p : Rec → Rec → Bool) : List Rec → Bool
  | [] => true
  | r :: rs => !(rs.any (p r)) && noPair p rs

/-! ## Values within their ranges -/

/-- lo ≤ field ≤ hi. -/
def within (v lo hi : Nat) : Bool := lo ≤ v && v ≤ hi

/-- Words of 16-bit entries as a list of n numbers. -/
def entries16 (ws : List W64) (n : Nat) : List Nat := (List.range n).map (fun i => bits (wd ws (i / 4)) (16 * (i % 4) + 15) (16 * (i % 4)))

/-- Where the registers of SETTING records lie (R487): the register's number and a value's range check. -/
def settingOk (off : Nat) (v : W64) : Bool :=
  if off = 0x200 then bits v 63 24 == 0 && bits v 23 16 ≤ 90 && bits v 15 0 ≤ 1000
  else if off = 0x208 then
    bits v 63 40 == 0 && bits v 23 22 == 0 && bits v 15 14 == 0 && bits v 7 6 == 0 && bits v 39 24 ≤ 1000
      && within (bits v 21 16) 1 32 && bits v 5 0 ≤ 32 && within (bits v 13 8) (bits v 5 0) 32
  else if off = 0x210 then
    bits v 63 41 == 0 && bits v 32 24 == 0 && bits v 15 12 == 0 && bits v 40 38 ≤ 4 && bits v 37 33 ≤ 16
      && within (bits v 23 16) 70 100 && bits v 11 0 ≤ 2304 && bits v 11 0 % 24 == 0
  else if off = 0x218 then
    bits v 63 62 == 0 && bits v 11 0 == 0 && within (bits v 61 56) 1 63 && within (bits v 55 40) 10 10000
      && within (bits v 39 24) 100 10000 && within (bits v 23 12) 1 1000
  else if off = 0x220 then bits v 63 58 == 0
  else if off = 0x228 then
    bits v 63 48 == 0 && 1 ≤ bits v 47 40 && 1 ≤ bits v 39 32 && 1 ≤ bits v 31 24 && 1 ≤ bits v 23 16 && within (bits v 15 0) 1 16000
  else if 0x340 ≤ off ∧ off ≤ 0x378 then
    bits v 15 0 == 0 && within (bits v 63 48) 4 1024 && bits v 31 16 ≤ 2000 && within (bits v 47 32) (Nat.max 1 (bits v 31 16)) 2000
  else if 0x30000 ≤ off ∧ off < 0x30100 then
    let p := (off - 0x30000) / 16
    bits v 44 40 == 0 && bits v 33 0 == 0
      && (if p ≤ 6 then bits v 39 37 == 0 && bits v 36 36 == 0 && bits v 35 34 ≤ 1
          else within (bits v 39 37) 1 7 && (bits v 35 34 == 0 || bits v 35 34 == 2))
  else if 0x2000000 ≤ off ∧ off < 0x2004000 then
    let r := off % 0x100
    (off / 0x100 % 8 != 0 || v == 0)
      && (if r < 0x80 then bits v 63 18 == 0
          else if r = 0x80 then
            (bits v 63 60 ≤ 7 || bits v 63 60 == 15) && bits v 37 32 == 0 && (bitAt v 47 == (bits v 31 0 != 0))
          else bits v 5 0 == 0)
  else true

/-- A register that a SETTING record may name. -/
def settingNames (off : Nat) : Bool :=
  off % 8 == 0 && (within off 0x200 0x228 || within off 0x340 0x378 || (0x30000 ≤ off && off < 0x30100 && off % 16 == 0)
    || (0x2000000 ≤ off && off < 0x2004000 && off % 0x100 ≤ 0x90))

/-- PANTRY_ALLOC within its ranges (R207). -/
def allocOk (v : W64) : Bool :=
  bits v 63 42 == 0 && bits v 9 0 == 0 && bits v 41 40 ≤ 2 && bits v 39 30 ≤ 496 && bits v 29 20 ≤ 496 && bits v 19 10 ≤ 496

/-- A CONTEXT record within its ranges (R374). -/
def contextOk (r : Rec) : Bool :=
  let w := r.w
  bits (w 0) 63 58 ≤ 47 && bits (w 0) 63 58 == r.index && bits (w 0) 31 0 != 0
    && within (bits (w 1) 63 32) 5000 1000000000 && bits (w 1) 31 0 < bits (w 1) 63 32
    && (bits (w 2) 63 32 == 0 || within (bits (w 2) 63 32) 100 (bits (w 1) 63 32))
    && within (bits (w 2) 31 27) 6 16 && within (bits (w 2) 26 22) 8 16 && within (bits (w 2) 21 17) 6 24
    && within (bits (w 2) 16 8) 1 256 && bits (w 2) 7 0 == 0
    && bits (w 3) 63 48 == 0 && bits (w 3) 5 0 == 0 && bits (w 3) 47 0 < hbmEnd
    && bits (w 4) 63 48 == 0 && bits (w 4) 11 0 == 0 && bits (w 4) 47 0 < hbmEnd
    && bits (w 5) 63 48 == 0 && bits (w 5) 11 0 == 0 && bits (w 5) 47 0 < hbmEnd
    && bits (w 6) 5 0 == 0 && bits (w 7) 63 20 == 0 && within (bits (w 7) 19 0) 1 1000000 && allocOk (w 8) && w 9 == 0

/-- A REGION record within the rules of Table 1 of 08_memory.md that one record alone can break (R204). -/
def regionOk (r : Rec) : Bool :=
  let w := r.w
  let base := bits (w 0) 47 0
  let size := bits (w 1) 47 0
  let inHbm := decide (base + size ≤ hbmEnd)
  let inPantry := decide (pantryBase ≤ base ∧ base + size ≤ pantryEnd)
  let f := bits (w 2) 31 28
  bits (w 0) 63 48 == 0 && base % 65536 == 0 && bits (w 1) 63 48 == 0 && size != 0 && size % 65536 == 0 && (inHbm || inPantry)
    && (!inPantry || (bits (w 2) 47 40 == 0 && bits (w 2) 37 37 == 0 && bits (w 2) 32 32 == 0))
    && bits (w 2) 34 33 ≤ 2 && bits (w 2) 27 0 == 0 && bits (w 3) 63 48 == 0
    && (if bitAt (w 2) 32 then (within f 1 4 || f == 9 || f == 10) && bits (w 3) 5 0 == 0 && bits (w 3) 47 0 + size / 2048 ≤ hbmEnd
        else f == 0 && w 3 == 0)

/-- A GROUP record within its ranges (R298). -/
def groupOk (r : Rec) : Bool :=
  let n := bits (r.w 0) 47 32
  let b := bits (r.w 1) 60 55
  let a := bits (r.w 1) 47 32
  bits (r.w 0) 63 48 == 0 && within n 2 32768 && bits (r.w 0) 31 16 < n + b && bits (r.w 0) 15 10 == 0 && bits (r.w 0) 9 0 == r.index
    && bits (r.w 1) 54 48 == 0 && bits (r.w 1) 31 0 == 0 && (a == 0 || (2 ≤ a && 2 * a ≤ n))
    && (entries16 (r.body.drop 2) (n + b)).all (· < 32768)
    && (entries16 (r.body.drop (2 + (n + b + 3) / 4)) b).all (· < n)

/-- A QP record within its ranges (R329). -/
def qpOk (r : Rec) : Bool :=
  let w := r.w
  r.index < 4096 && bits (w 0) 33 32 ≤ 2 && 1 ≤ bits (w 0) 31 24 && (bitAt (w 0) 14 || bits (w 0) 13 2 == 0) && bits (w 0) 1 0 == 0
    && 1 ≤ bits (w 1) 15 11 && bits (w 1) 4 0 == 0 && bits (w 2) 15 0 != 0
    && (bitAt (w 0) 34 || (bits (w 3) 63 32 == 0 && w 4 == 0)) && bits (w 5) 31 0 == 0 && w 6 == 0 && w 7 == 0

/-- A device window within its ranges (R332): its bytes lie within one range of the local map. -/
def devWindowOk (r : Rec) : Bool :=
  let base := bits (r.w 1) 47 0
  let stop := base + bits (r.w 2) 47 0
  bits (r.w 0) 31 0 == 0 && bits (r.w 1) 63 48 == 0 && base % 4096 == 0 && bits (r.w 2) 63 48 == 0 && bits (r.w 2) 47 0 != 0
    && bits (r.w 2) 47 0 % 4096 == 0 && bits (r.w 3) 55 0 == 0 && r.index < 256
    && (decide (stop ≤ hbmEnd) || decide (pantryBase ≤ base ∧ stop ≤ pantryEnd) || decide (controlBase ≤ base ∧ stop ≤ 2 ^ 48))

/-- A host window within its ranges (R336). -/
def hostWindowOk (r : Rec) : Bool :=
  r.index < 16 && bits (r.w 0) 63 52 == 0 && bits (r.w 0) 37 0 == 0 && bits (r.w 2) 31 0 == 0 && bits (r.w 3) 63 44 == 0
    && bits (r.w 3) 43 0 != 0

/-- POWER_CFG and THERMAL_CFG within their ranges (R394). -/
def powerOk (r : Rec) : Bool :=
  let p := r.w 0
  let t := r.w 1
  bits p 63 57 == 0 && (if bitAt p 56 then within (bits p 55 53) 1 5 else bits p 55 53 == 0) && bits p 51 48 == 0
    && 1 ≤ bits p 47 40 && within (bits p 39 32) 10 100 && within (bits p 31 24) 1 100 && within (bits p 23 19) 1 30
    && bits p 18 16 == 0 && within (bits p 15 0) 3000 6000
    && bits t 63 48 == 0 && within (bits t 31 24) 70 105 && within (bits t 23 16) 60 (bits t 31 24 - 5) && bits t 15 0 == 0
    && r.w 2 == 0 && r.w 3 == 0

/-- SAFETY_CFG and err_host_base within their ranges (R419). -/
def safetyOk (r : Rec) : Bool :=
  let v := r.w 0
  bits v 63 52 == 0 && within (bits v 39 35) 6 24 && bits v 34 32 == 0 && within (bits v 31 24) 1 160 && within (bits v 23 16) 1 100
    && within (bits v 15 8) 1 20 && bits v 7 0 == 0 && bits (r.w 1) 5 0 == 0

/-- SURVIVAL_CFG, SURVIVAL_BOUNDS and the Attic within their ranges (R420). -/
def survivalOk (r : Rec) : Bool :=
  let b := r.w 1
  1 ≤ bits (r.w 0) 19 0 && 60 ≤ bits b 63 48 && bits b 63 48 ≤ bits b 47 32 && 8 ≤ bits b 31 24 && bits b 23 0 == 0
    && (r.w 2).toNat % 65536 == 0 && (r.w 3).toNat % 65536 == 0 && (r.w 2).toNat + (r.w 3).toNat ≤ hbmEnd

/-- Every value of a record lies within the range its layout states (R357, bullet 4). -/
def rangeOk (r : Rec) : Bool :=
  if r.kind = kBoard then bits (r.w 0) 63 32 == 0 && bits (r.w 0) 15 15 == 0 && r.w 1 == 0
  else if r.kind = kSetting then bits (r.w 0) 63 48 == 0 && settingOk (bits (r.w 0) 47 0) (r.w 1)
  else if r.kind = kPartition then
    r.index < 8 && bits (r.w 0) 63 56 == 0 && 1 ≤ bits (r.w 0) 55 48 && bits (r.w 0) 47 7 == 0 && bits (r.w 0) 0 0 == 0
      && bits (r.w 2) 63 48 == 0
  else if r.kind = kContext then contextOk r
  else if r.kind = kRegion then regionOk r
  else if r.kind = kRoute then r.body.all (fun w => bits w 5 0 == 0 && bits w 37 32 == 0)
  else if r.kind = kGroup then groupOk r
  else if r.kind = kQp then qpOk r
  else if r.kind = kDevWindow then devWindowOk r
  else if r.kind = kHostWindow then hostWindowOk r
  else if r.kind = kNet then bits (r.w 0) 63 32 == 0 && r.w 1 == 0
  else if r.kind = kPower then powerOk r
  else if r.kind = kSafety then safetyOk r
  else if r.kind = kSurvival then survivalOk r
  else if r.kind = kForward then bits (r.w 0) 63 7 == 0 && r.w 1 == 0
  else if r.kind = kFirmware then
    within (bits (r.w 0) 63 56) 1 9 && bits (r.w 0) 55 32 == 0 && bits (r.w 0) 31 0 % 64 == 0 && bits (r.w 1) 63 32 == 0
  else true

/-! ## The configuration of a position and variant -/

/-- A PARTITION record's settings (R472). -/
def readPartition (r : Rec) : PartitionCfg :=
  { weight := bits (r.w 0) 55 48, detSched := bitAt (r.w 0) 6, backupEn := bitAt (r.w 0) 5, crusherEn := bitAt (r.w 0) 4,
    extendedEn := bitAt (r.w 0) 3, srEn := bitAt (r.w 0) 2, rubbleEn := bitAt (r.w 0) 1, seed := r.w 1, t1 := r.w 2 }

/-- A CONTEXT record's settings (Table 16 of 13_startup.md). -/
def readContext (r : Rec) : CtxCfg :=
  let w := r.w
  { index := bits (w 0) 63 58, partition := bits (w 0) 57 55, priority := bits (w 0) 54 53, kinds := BitVec.ofNat 9 (bits (w 0) 52 44),
    hostQp := bits (w 0) 43 32, dieSet := BitVec.ofNat 32 (bits (w 0) 31 0), period := bits (w 1) 63 32, offset := bits (w 1) 31 0,
    poll := bits (w 2) 63 32, ringLog2 := bits (w 2) 31 27, ledgerLog2 := bits (w 2) 26 22, hostLog2 := bits (w 2) 21 17,
    drainBatch := bits (w 2) 16 8, ctlBlock := bits (w 3) 47 0, ringBase := bits (w 4) 47 0, ledgerBase := bits (w 5) 47 0,
    hostBase := (w 6).toNat, drainUs := bits (w 7) 19 0, pantryAlloc := w 8 }

/-- A REGION record's settings (Table 1 of 08_memory.md). -/
def readRegion (r : Rec) : Region :=
  let w := r.w 2
  { base := bits (r.w 0) 47 0, size := bits (r.w 1) 47 0, read := BitVec.ofNat 8 (bits w 63 56), write := BitVec.ofNat 8 (bits w 55 48),
    atomic := BitVec.ofNat 8 (bits w 47 40), remoteRead := bitAt w 39, remoteWrite := bitAt w 38, remoteAtomic := bitAt w 37,
    hostRead := bitAt w 36, hostWrite := bitAt w 35, cache := bits w 34 33, rubble := bitAt w 32, rubbleFormat := bits w 31 28,
    tagBase := bits (r.w 3) 47 0 }

/-- The nonzero routing entries of a ROUTE record (R281). -/
def readRoutes (r : Rec) : List (Nat × BitVec 32) :=
  ((r.body.zip (List.range r.body.length)).flatMap (fun (w, i) => [(2 * i, bits w 31 0), (2 * i + 1, bits w 63 32)])).filterMap
    (fun (d, e) => if e = 0 then none else some (d, BitVec.ofNat 32 e))

/-- A GROUP record's settings (Table 1 of 11_collectives.md). -/
def readGroup (r : Rec) : Group :=
  let n := bits (r.w 0) 47 32
  let b := bits (r.w 1) 60 55
  { index := bits (r.w 0) 9 0, n := n, rank := bits (r.w 0) 31 16, partition := bits (r.w 1) 63 61, b := b,
    ring2dA := bits (r.w 1) 47 32, members := entries16 (r.body.drop 2) (n + b),
    backupMap := entries16 (r.body.drop (2 + (n + b + 3) / 4)) b, reformed := false, failed := [] }

/-- A QP record's settings (Table 3 of 12_porch.md). -/
def readQp (r : Rec) : QpCfg :=
  let w := r.w
  { index := r.index, remoteQpn := bits (w 0) 63 40, partition := bits (w 0) 39 37, supervisor := bitAt (w 0) 36, mgmt := bitAt (w 0) 35,
    ipv6 := bitAt (w 0) 34, pmtu := 1024 * 2 ^ bits (w 0) 33 32, weight := bits (w 0) 31 24, dscp := bits (w 0) 23 18,
    pcp := bits (w 0) 17 15, vlanEn := bitAt (w 0) 14, vlanId := bits (w 0) 13 2, txPsn := BitVec.ofNat 24 (bits (w 1) 63 40),
    rxPsn := BitVec.ofNat 24 (bits (w 1) 39 16), ackTimeout := bits (w 1) 15 11, retryCnt := bits (w 1) 10 8, rnrRetry := bits (w 1) 7 5,
    nextHopMac := bits (w 2) 63 16, udpSport := bits (w 2) 15 0, remoteIp := (w 3).toNat + 2 ^ 64 * (w 4).toNat,
    ledgerRkey := BitVec.ofNat 32 (bits (w 5) 63 32) }

/-- A device window (Table 4 of 12_porch.md). -/
def readDevWindow (r : Rec) : DevWindow :=
  { rkey := BitVec.ofNat 32 (bits (r.w 0) 63 32), base := bits (r.w 1) 47 0, size := bits (r.w 2) 47 0,
    partitions := BitVec.ofNat 8 (bits (r.w 3) 63 56) }

/-- A host window (Table 7 of 12_porch.md). -/
def readHostWindow (r : Rec) : HostWindow :=
  { index := r.index, qp := bits (r.w 0) 51 40, read := bitAt (r.w 0) 39, write := bitAt (r.w 0) 38, base := (r.w 1).toNat,
    rkey := BitVec.ofNat 32 (bits (r.w 2) 63 32), size := bits (r.w 3) 43 0 }

/-- The default of a register of R487, or 0 where its field map states none. -/
def settingDefault (partitions off : Nat) : W64 :=
  if off = 0x200 then wordOf [⟨16, 8, 60⟩, ⟨0, 16, 40⟩]
  else if off = 0x208 then wordOf [⟨24, 16, 80⟩, ⟨16, 6, 16⟩, ⟨8, 6, 24⟩, ⟨0, 6, 4⟩]
  else if off = 0x210 then wordOf [⟨38, 3, 2⟩, ⟨33, 5, 8⟩, ⟨16, 8, 95⟩, ⟨0, 12, 2304⟩]
  else if off = 0x218 then wordOf [⟨56, 6, 16⟩, ⟨40, 16, 200⟩, ⟨24, 16, 1000⟩, ⟨12, 12, 20⟩]
  else if off = 0x228 then wordOf [⟨40, 8, 50⟩, ⟨32, 8, 64⟩, ⟨24, 8, 16⟩, ⟨16, 8, 50⟩, ⟨0, 16, 10⟩]
  else if 0x340 ≤ off ∧ off ≤ 0x378 then wordOf [⟨48, 16, 256⟩, ⟨32, 16, 2000⟩, ⟨16, 16, 2000 / Nat.max 1 partitions⟩]
  else 0

/-- The configuration that a list of applying records gives (R358, R487). -/
def configOf (rs : List Rec) : Cfg :=
  let ofKind (k : Nat) : List Rec := rs.filter (fun r => r.kind == k)
  let first (k : Nat) : Option Rec := (ofKind k).head?
  let word (k i : Nat) : W64 := match first k with
    | some r => r.w i
    | none => 0
  let parts := ofKind kPartition
  let reg (off : Nat) : W64 := match (ofKind kSetting).find? (fun r => bits (r.w 0) 47 0 == off) with
    | some r => r.w 1
    | none => settingDefault parts.length off
  { partitions := parts.map readPartition, ctxs := (ofKind kContext).map readContext, regions := (ofKind kRegion).map readRegion,
    routes := match first kRoute with | some r => readRoutes r | none => [],
    groups := (ofKind kGroup).map readGroup, qps := (ofKind kQp).map readQp, devWindows := (ofKind kDevWindow).map readDevWindow,
    hostWindows := (ofKind kHostWindow).map readHostWindow, ipv4 := BitVec.ofNat 32 (bits (word kNet 0) 31 0),
    ipv6 := BitVec.ofNat 128 ((word kNet 2).toNat + 2 ^ 64 * (word kNet 3).toNat), lomium := word kBoard 0, faceIdle := reg 0x200,
    bench := reg 0x208, memCfg := reg 0x210, spejan := reg 0x218, porch := reg 0x220, porchCc := reg 0x228, power := word kPower 0,
    thermal := word kPower 1, safety := word kSafety 0, errHostBase := (word kSafety 1).toNat,
    survival := (first kSurvival).map (fun r =>
      { cfg := r.w 0, bounds := r.w 1, atticBase := (r.w 2).toNat, atticSize := (r.w 3).toNat }),
    regCfg := (List.range 8).map (fun p => reg (0x340 + 8 * p)), portCfg := (List.range 16).map (fun p => reg (0x30000 + 16 * p)),
    programs := ((ofKind kSetting).filter (fun r => 0x2000000 ≤ bits (r.w 0) 47 0)).map (fun r => (bits (r.w 0) 47 0, r.w 1)),
    forward := BitVec.ofNat 7 (bits (word kForward 0) 6 0),
    fwVersions := (ofKind kFirmware).map (fun r => (bits (r.w 0) 63 56, BitVec.ofNat 32 (bits (r.w 1) 31 0))),
    fwMeasures := (ofKind kFirmware).map (fun r =>
      (bits (r.w 0) 63 56, BitVec.ofNat 512 (leNat (wordsBytes ((r.body.drop 2).take 8))))) }

/-- The records that apply. -/
def applying (rs : List Rec) (pos v : Nat) : List Rec := rs.filter (fun r => r.applies pos v)

/-! ## Rules of other chapters (R357, bullet 5) -/

/-- An event that precise sampling can record on a die class (Table 2 of 18_counters.md). -/
def samplable (cls ev : Nat) : Bool :=
  (cls == 0 && (ev == 0x001 || ev == 0x004 || ev == 0x005)) || (cls == 1 && within ev 0x020 0x022)
    || (cls == 2 && (within ev 0x030 0x033 || ev == 0x035)) || (cls == 3 && ev == 0x036)

/-- The counts of Table 7 of 13_startup.md, but for BOARD, NET and FIRMWARE, which have bullets of their own. -/
def countsOk (rs : List Rec) : Bool :=
  let n (k : Nat) : Nat := (rs.filter (fun r => r.kind == k)).length
  within (n kPartition) 1 8 && n kContext ≤ 48 && n kRegion ≤ 4096 && n kRoute == 1 && n kGroup ≤ 1024 && n kQp ≤ 4096
    && n kDevWindow ≤ 256 && n kHostWindow ≤ 16 && n kPower == 1 && n kSafety == 1 && n kSurvival ≤ 1 && n kForward ≤ 1

/-- Two byte ranges meet. -/
def rangesMeet (a n b m : Nat) : Bool := a < b + m && b < a + n

/-- Regions overlap neither one another nor a Rubble tag area (R204). -/
def regionsApart : List Region → Bool
  | [] => true
  | r :: rs =>
    !(rs.any (fun q => rangesMeet r.base r.size q.base q.size)) && regionsApart rs

/-- No region meets a tag area. -/
def tagsApart (rs : List Region) : Bool :=
  rs.all (fun r => !r.rubble || rs.all (fun q => !rangesMeet r.tagBase (r.size / 2048) q.base q.size))

/-- The three kinds of space of each Pantry fit in 512 MiB, and no region reaches into the 16 MiB at its top (R207). -/
def pantryFits (c : Cfg) : Bool :=
  (List.range 32).all (fun d =>
    let area := 16 * 2 ^ 20
    c.regions.all (fun r => !rangesMeet r.base r.size (pantryBase + (d + 1) * pantrySize - area) area) &&
    let resident := ((c.regions.filter (fun r => pantryBase ≤ r.base && (r.base - pantryBase) / pantrySize ≤ d
      && d ≤ (r.base + r.size - 1 - pantryBase) / pantrySize)).map (fun r =>
        Nat.min (r.base + r.size) (pantryBase + (d + 1) * pantrySize) - Nat.max r.base (pantryBase + d * pantrySize))).sum
    let alloc := ((c.ctxs.filter (fun x => x.dieSet.getLsbD d)).map (fun x =>
      bits x.pantryAlloc 39 30 + bits x.pantryAlloc 29 20 + bits x.pantryAlloc 19 10)).sum
    16 * 2 ^ 20 + resident + alloc * 2 ^ 20 ≤ pantrySize)

/-- Ports that a routing entry names. -/
def entryPorts (e : BitVec 32) : List Nat :=
  ((List.range 16).filter (fun p => e.getLsbD (16 + p)))
    ++ (if e.getLsbD 7 then [e.toNat / 2 ^ 12 % 16] else []) ++ (if e.getLsbD 6 then [e.toNat / 2 ^ 8 % 16] else [])

/-- A group obeys R299. -/
def groupRules (own : Nat) (g : Group) : Bool :=
  g.members.Nodup && g.members.getD g.rank 0x8000 == own && (g.ring2dA == 0 || g.n % g.ring2dA == 0) && g.backupMap.Nodup

/-- The SURVIVAL rules of R420. -/
def survivalRules (c : Cfg) (s : SurvivalCfg) : Bool :=
  let covered := (List.range (s.atticSize / 65536)).all (fun i => match regionAt c (s.atticBase + 65536 * i) with
    | some r => r.remoteRead && r.remoteWrite
    | none => false)
  let parity := match c.groups.find? (fun g => g.index == bits s.cfg 47 38) with
    | some g => g.n == 8 && g.b == 0
    | none => false
  covered && parity && c.groups.any (fun g => g.index == bits s.cfg 37 28)
    && !(bitAt s.cfg 48 && bits s.cfg 63 49 == bits c.lomium 14 0)

/-- Rules that bound a field's value (fail_code 0x07): R192. -/
def boundRules (c : Cfg) : Bool :=
  !(c.partitions.any PartitionCfg.detSched) || bits c.bench 21 16 ≤ 32 - bits c.bench 5 0

/-- Every other rule that is a cause of verification failure (fail_code 0x0C). -/
def crossRules (c : Cfg) (rs : List Rec) : Bool :=
  let parts := c.partitions.length
  let ofKind (k : Nat) : List Rec := rs.filter (fun r => r.kind == k)
  let own := bits c.lomium 14 0
  (ofKind kPartition).map Rec.index == List.range parts
    && c.ctxs.all (fun x => x.partition < parts)
    && (List.range 48).all (fun i => (List.range parts).all (fun p =>
      !(bitAt (c.partitions.getD p default).t1 i) || !(c.ctxs.any (fun x => x.index == i && x.partition != p))))
    && (List.range 32).all (fun d =>
      let det (x : CtxCfg) : Bool := (c.partitions.getD x.partition default).detSched
      let on := c.ctxs.filter (fun x => x.dieSet.getLsbD d)
      on.all det || on.all (fun x => !det x))
    && regionsApart c.regions && tagsApart c.regions && pantryFits c
    && c.regions.all (fun r => !(r.remoteRead || r.remoteWrite || r.remoteAtomic) || r.read != 0 || r.write != 0 || r.atomic != 0)
    && ((List.range parts).map (fun p => bits (c.regCfg.getD p 0) 31 16)).sum ≤ 2000
    && c.routes.all (fun e => (entryPorts e.2).all (fun p => bits (c.portCfg.getD p 0) 35 34 != 0))
    && (c.groups.map Group.index).Nodup && c.groups.all (groupRules own)
    && (c.devWindows.map DevWindow.rkey).Nodup
    && c.qps.any (fun q => q.index == bits c.safety 51 40 && q.ledgerRkey != 0)
    && (match c.survival with | some s => survivalRules c s | none => true)
    && (ofKind kSetting).all (fun r => settingNames (bits (r.w 0) 47 0))
    && ((ofKind kSetting).map (fun r => bits (r.w 0) 47 0)).Nodup
    && c.programs.all (fun (off, v) => off % 0x100 != 0x80
      || ((bits v 63 60 == 15 || !bitAt v 59) && (!bitAt v 47 || samplable ((off - 0x2000000) / 0x800) (bits v 46 38))))

/-! ## Signatures and firmware -/

/-- Value of a rollback floor: its highest valid entry (R446). -/
def floorValue (f : Fuses) (n : Nat) : BitVec 32 := (f.floors.getD n []).getLastD 0

/-- The public key of a usable owner key. -/
def ownerKey (f : Fuses) (keyId : Nat) : Option (BitVec 512) :=
  if 0x100 ≤ keyId ∧ keyId ≤ 0x107 ∧ f.ownerRevoked.getLsbD (keyId - 0x100) = false then (f.ownerKeys.getD (keyId - 0x100) none) else none

/-- The public key of a usable Kenvirad key. -/
def kenviradKey (f : Fuses) (keyId : Nat) : Option (BitVec 512) :=
  if keyId < 4 ∧ f.kenviradRevoked.getLsbD keyId = false then some (Config.kenviradKey (Fin.ofNat 4 keyId)) else none

/-- A signature block of algorithm 0x0001 under a key, over a measurement (R357, R444). -/
def blockValid (key : Option (BitVec 512)) (keyId : Nat) (block : List Byte) (measure : BitVec 512) : Bool :=
  let ws := bytesWords (block.take 64)
  match key with
  | some k => block.length == sigBlock && wd ws 0 == 0x304749533254464B && bits (wd ws 1) 63 48 == 1 && bits (wd ws 1) 47 32 == keyId
      && bits (wd ws 1) 31 0 == 29792 && (ws.drop 2).all (· == 0) && Config.slhVerify k (measureBytes measure) (block.drop 64)
  | none => false

/-- key_id that a signature block names. -/
def blockKey (block : List Byte) : Nat := bits (wd (bytesWords (block.take 16)) 1) 47 32

/-- A FIRMWARE record passes R360. -/
def firmwareOk (f : Fuses) (r : Rec) : Bool :=
  let cls := bits (r.w 0) 63 56
  let n := bits (r.w 0) 31 0 / 8
  let blob := wordsBytes ((r.body.drop 10).take n)
  let block := wordsBytes (r.body.drop (10 + n))
  let measure := BitVec.ofNat 512 (leNat (wordsBytes ((r.body.drop 2).take 8)))
  within cls 1 9 && bits (r.w 0) 55 32 == 0 && bits (r.w 0) 31 0 % 64 == 0 && bits (r.w 1) 63 32 == 0
    && (floorValue f cls).toNat ≤ bits (r.w 1) 31 0 && measure == Config.shake256 blob
    && blockValid (kenviradKey f (blockKey block)) (blockKey block) block measure && r.vmask == 0xFFFF && r.pmask == 0xFF

/-- The FIRMWARE records of an image pass: each class exactly once (R360). -/
def allFirmwareOk (f : Fuses) (rs : List Rec) : Bool :=
  let fw := rs.filter (fun r => r.kind == kFirmware)
  fw.all (firmwareOk f) && (List.range 9).all (fun i => (fw.filter (fun r => bits (r.w 0) 63 56 == i + 1)).length == 1)

/-! ## Verification -/

/-- An image that passed verification. -/
structure Image where
  header : Header
  recs : List Rec
  measure : BitVec 512
deriving DecidableEq, Repr

/-- The records that stand in a slot after its header. -/
def slotRecords (f : SlotImage) (h : Header) : Option (List Rec) := parseRecords h.count (bytesWords (slotBytes f 64 (h.length - 64)))

/-- Positions that some pos_mask names. -/
def positions (rs : List Rec) : List Nat := (List.range 8).filter (fun p => rs.any (fun r => r.pmask.getLsbD p))

/-- A list of records passes a check at every position it names and in every variant. -/
def everywhere (rs : List Rec) (variants : Nat) (p : List Rec → Bool) : Bool :=
  (positions rs).all (fun q => (List.range variants).all (fun v => p (applying rs q v)))

/-- Verification of a slot against the fuses (R357): the image, or the fail_code of the first bullet that fails. -/
def verifyImage (fuses : Fuses) (f : SlotImage) : Except Nat Image :=
  match readHeader f with
  | .error e => .error e
  | .ok h =>
    let measure := Config.shake256 (slotBytes f 0 h.length)
    let block := slotBytes f h.length sigBlock
    if blockValid (ownerKey fuses h.keyId) h.keyId block measure = false then .error 0x04
    else if h.version.toNat < (floorValue fuses 0).toNat then .error 0x05
    else match slotRecords f h with
      | none => .error 0x06
      | some rs =>
        let variants := h.variantsM1 + 1
        if (rs.all (fun r => bodyWords r == some r.body.length) && inOrder rs && noPair bothApply rs
            && everywhere rs variants countsOk) = false then .error 0x06
        else if (rs.all rangeOk && h.defaultVariant ≤ h.variantsM1) = false then .error 0x07
        else if everywhere rs variants (fun l => boundRules (configOf l)) = false then .error 0x07
        else if everywhere rs variants (fun l => crossRules (configOf l) l) = false then .error 0x0C
        else if ((positions rs).all (fun p => [kBoard, kNet].all (fun k =>
            let l := rs.filter (fun r => r.kind == k && r.pmask.getLsbD p)
            l.length == 1 && l.all (fun r => r.vmask == 0xFFFF)))) = false then .error 0x08
        else if allFirmwareOk fuses rs = false then .error 0x09
        else .ok { header := h, recs := rs, measure := measure }

/-- The configuration of the applied image, held whole in the echo, at a position and in a variant (R358, R359). -/
def echoConfig (echo : SlotImage) (pos v : Nat) : Cfg :=
  match readHeader echo with
  | .error _ => Cfg.empty
  | .ok h => match slotRecords echo h with
    | some rs => configOf (applying rs pos v)
    | none => Cfg.empty

/-- The bytes of an image and its signature block as the echo holds them; every other byte reads as zero (R486). -/
def echoOf (f : SlotImage) (h : Header) : SlotImage :=
  let bs := slotBytes f 0 (h.length + sigBlock)
  { fill := 0, bytes := ((List.range bs.length).zip bs).filter (fun p => p.2 != 0) }

end Sys2Proof.Machine
end

