-- ==== Sys2Proof/Machine/Levels.lean ====
section
/-! DEFINITION. The levels of the Face dies and their voltages (R375 to R379), Face time (R69, R384), and throttle reasons (R393). -/

namespace Sys2Proof.Machine

/-! ## Levels (R375 to R377) -/

/-- A level's clock in units of 0.1 GHz (Table 1 of 14_power.md). -/
def levelClock (l : Nat) : Nat := [44, 40, 32, 24, 16, 8].getD l 8

/-- VID code of a level's voltage (Table 1 of 14_power.md, R492). -/
def levelVid (l : Nat) : Nat := [70, 60, 50, 40, 34, 30].getD l 30

/-- The top cap: fixed_level, or boost when permitted, or 4.0 GHz (Table 2 of 14_power.md). -/
def topCap (s : State) : Nat :=
  if bitAt s.cfg.power 56 then bits s.cfg.power 55 53 else if s.hearth.boostOk then 0 else 1

/-- The effective level of a die: the lowest of its caps, which is the highest code (R377). -/
def effLevel (s : State) (d : Die) : Nat :=
  maxOf [topCap s, s.hearth.capSustained, s.hearth.capHint, d.capThermal, s.hearth.capAlert]

/-! ## Face time (R69, R375, R384) -/

/-- Units of 1/40 Face cycle that a die's Face clock makes in 1 ns: at its level, under a stretch that lasts ×2 or ×4. -/
def Die.rate (d : Die) : Nat := levelClock d.level * 4 / 2 ^ d.stretch

/-- Face time of a die at a moment. -/
def Die.unitsAt (d : Die) (now : Nat) : Nat := d.faceUnits + (now - d.faceUnitsAt) * d.rate

/-- The moment at which a die reaches a Face time at its present rate. -/
def Die.nsAt (d : Die) (u : Nat) : Nat := d.faceUnitsAt + ceilDiv (u - d.faceUnits) d.rate

/-- Units of n Face cycles. -/
def cyc (n : Nat) : Nat := 40 * n

/-- The moment from which no row that has entered a Face takes Face cycles: in the past it stands, ahead it follows the die's rate. -/
def Face.idleFrom (f : Face) (d : Die) : Nat := if f.freeAt ≤ d.faceUnits then f.idleSince else d.nsAt f.freeAt

/-- Face time brought up to the present on every die, before its rate changes. -/
def syncUnits (s : State) : State :=
  { s with
    faces := (s.faces.zip (List.range 64)).map (fun (f, n) => { f with idleSince := f.idleFrom (s.die (n / 2)) })
    dies := s.dies.map (fun d => { d with faceUnits := d.unitsAt s.now, faceUnitsAt := s.now }) }

/-! ## Settings (Tables 6 and 7 of 14_power.md) -/

def fixedMode (s : State) : Bool := bitAt s.cfg.power 56
def boostEn (s : State) : Bool := bitAt s.cfg.power 52
def alertHoldNs (s : State) : Nat := bits s.cfg.power 47 40 * 100000
def droopMv (s : State) : Nat := bits s.cfg.power 39 32
def droopHoldNs (s : State) : Nat := bits s.cfg.power 31 24 * 1000
def windowMs (s : State) : Nat := bits s.cfg.power 23 19 * 1000
def powerLimit (s : State) : Nat := bits s.cfg.power 15 0
def alertMask (s : State) (i : Nat) : Bool := s.cfg.thermal.getLsbD (32 + i)
def throttleTemp (s : State) : Int := bits s.cfg.thermal 31 24
def boostTemp (s : State) : Int := bits s.cfg.thermal 23 16

/-- The Hearth changed. -/
def State.modHearth (s : State) (f : Hearth → Hearth) : State := { s with hearth := f s.hearth }

/-! ## Throttle reasons (R393) -/

/-- A cap holds some Face die: it equals the die's effective level, which lies below the top cap. -/
def holdsDie (s : State) (cap : Die → Nat) : Bool := s.dies.any (fun d => cap d == effLevel s d && topCap s < effLevel s d)

/-- The reasons of Table 5 that hold now. -/
def reasons (s : State) : List Bool :=
  let h := s.hearth
  [h.deep || holdsDie s (fun _ => h.capSustained), holdsDie s Die.capThermal, s.memory.hbmStacks.any (fun k => k.throttle != 0),
    s.dies.any (fun d => d.stretch != 0), holdsDie s (fun _ => h.capAlert), holdsDie s (fun _ => h.capHint)]

/-- STRETCH_CYCLE for the Face cycles that each die under a droop stretch has run since the counters were last brought up to date (R384,
R461). -/
def countStretch (s : State) : State :=
  (List.range 32).foldl (fun s n =>
    let d := s.die n
    let cycles := (s.now - s.hearth.throttleAt) * levelClock d.level / (10 * 2 ^ d.stretch)
    if d.stretch = 0 ∨ cycles = 0 then s else count s { Occ.firmware n 0x070 s.now with weight := cycles }) s

/-- The µs after the last one that a reason which has held since the counters were last brought up to date has held in: it counts in every µs
in which it lasts, if only for a moment of it (R393). -/
def throttleStop (s : State) : Nat := Nat.max (ceilDiv s.now 1000) (s.hearth.throttleAt / 1000 + 1)

/-- A reason's counter now: the µs of the time that has gone by are added that it has not counted before, when it holds. -/
def throttleNow (s : State) (i : Nat) : BitVec 56 :=
  let h := s.hearth
  let from_ := Nat.max (h.throttleMarks.getD i 0) (h.throttleAt / 1000)
  h.throttle.getD i 0 + (if (reasons s).getD i false then BitVec.ofNat 56 (throttleStop s - from_) else 0)

/-- The counters and Face time brought up to the present. -/
def accrue (s : State) : State :=
  let s := syncUnits (countStretch s)
  let stop := throttleStop s
  s.modHearth (fun h => { h with
    throttle := (List.range 6).map (throttleNow s)
    throttleMarks := (h.throttleMarks.zip (reasons s)).map (fun (m, b) => if b then Nat.max m stop else m)
    throttleAt := s.now })

/-! ## Level changes (R376 to R379) -/

/-- The voltage code a die needs: that of the higher of the level it runs at and the one it heads to. -/
def dieVid (d : Die) : Nat := Nat.max (levelVid d.level) (levelVid d.target)

/-- Dies of a power group. -/
def groupDies (g : Nat) : List Nat := [g, g + 8, g + 16, g + 24]

/-- A hint's lead runs (R388). -/
def inLead (s : State) : Bool := !fixedMode s && s.hearth.hints.any (fun h => !h.active && s.now < h.start)

/-- The voltage code a group heads to: that of its highest level, raised during a hint's lead (R376, R388). -/
def groupVid (s : State) (g : Nat) : Nat :=
  let lead := if inLead s then levelVid (Nat.max s.hearth.capHint (topCap s)) else 0
  maxOf (lead :: (groupDies g).map (fun d => dieVid (s.die d)))

/-- Group of a die. -/
def groupOf (d : Nat) : Nat := d % 8

/-- A power group. -/
def State.powerGroup (s : State) (g : Nat) : PowerGroup := s.hearth.groups.getD g ⟨60, false, 0, 0⟩

/-- A power group changed. -/
def modGroup (s : State) (g : Nat) (f : PowerGroup → PowerGroup) : State := s.modHearth (fun h => { h with groups := h.groups.modify g f })

/-- A die that is in no change starts one toward its effective level: the idle generator begins to lock, but for 0.8 GHz the fixed one
serves. One in a change takes the newest target up at its next safe step (R377, R378). -/
def beginChange (s : State) (d : Die) : Die :=
  let eff := effLevel s d
  if d.level ≠ d.target ∨ eff = d.level then d else { d with target := eff, locking := eff ≠ 5, locked := eff = 5 }

/-- The newest target taken up at a safe step: a change whose target moved locks anew. -/
def takeTarget (s : State) (d : Die) : Die :=
  let eff := effLevel s d
  if eff = d.level then { d with target := eff, locking := false, locked := false }
  else if eff = d.target then d
  else { d with target := eff, locking := eff ≠ 5, locked := eff = 5 }

/-- A die switches between Face cycles once its new generator is locked and its group's voltage allows the level, unless a droop holds
the group (R378, R385). The switch is a safe step. -/
def trySwitch (s : State) (n : Nat) (d : Die) : Die :=
  let g := s.powerGroup (groupOf n)
  if d.level ≠ d.target ∧ d.locked = true ∧ g.held = false ∧ levelVid d.target ≤ g.vid.toNat then
    takeTarget s { d with level := d.target, locked := false, generator := if d.target = 5 then 2 else if d.generator = 0 then 1 else 0 }
  else d

/-- Every die begins the change that its caps ask for, and switches where it can. -/
def moveLevels (s : State) : State :=
  let s := accrue s
  let s := { s with dies := s.dies.map (beginChange s) }
  { s with dies := (s.dies.zip (List.range 32)).map (fun (d, n) => trySwitch s n d) }

/-- A change of caps: the counters are brought up to date, the change is made and the dies follow it (R377). -/
def withCaps (s : State) (f : State → State) : State := moveLevels (f (accrue s))

/-- Every die at its effective level, on a locked generator, with each group's voltage that of its highest level. -/
def settleLevels (s : State) : State :=
  let dies := s.dies.map (fun d =>
    let l := effLevel s d
    { d with level := l, target := l, stretch := 0, faceUnits := 0, faceUnitsAt := s.now, locking := false, generator := if l = 5 then 2 else 0 })
  let vid (g : Nat) : BitVec 7 := BitVec.ofNat 7 (maxOf ((List.range 4).map (fun k => levelVid ((dies.getD (g + 8 * k) Die.cold).level))))
  { s with dies := dies, hearth := { s.hearth with groups := (List.range 8).map (fun g => { vid := vid g, held := false, clearedAt := 0, stepAt := 0 }) } }

end Sys2Proof.Machine
end

