-- ==== Sys2Proof/Machine/Links.lean ====
section
/-! DEFINITION. Ports and the Porch link coming up and going down, as cold starts, variants, losses and retrains all need it
(R288 to R291, R326), and queue pairs as their records start them (R329, R331). -/

namespace Sys2Proof.Machine

/-- Role of a port: 0 OFF, 1 BOARD, 2 CABLE (R294). -/
def portRole (s : State) (p : Nat) : Nat := bits (portCfg s p) 35 34

/-- A port begins an attempt to train: the episode's attempt number, its start (R290). -/
def Port.train (q : Port) (now attempt : Nat) : Port :=
  { q with state := .training, attempts := attempt, downAt := now, fecLocked := false, ready := false, checkFailed := false, listening := false,
           reenableLatched := false }

/-- Training granted full credits and cleared numbers and the replay buffer (R290, Table 7 of 10_spejan.md). -/
def Port.fresh (q : Port) : Port :=
  { q with epoch := q.epoch + 1, txSeq := 0, expect := 0, nakSent := false, replay := [], replays := 0, credits := Port.fullCredits, owed := List.replicate 12 0,
           assembly := List.replicate 12 ([], []) }

/-- A port enters service (R288, R296). -/
def Port.enter (q : Port) (now : Nat) : Port := { q.fresh with state := .up, attempts := 0, lastGood := now, wiringError := false }

/-- Packets not yet sent on a port leave its queue and are routed again from their start (R289). -/
def rerouteQueue (s : State) (p : Nat) : State :=
  let waiting := (s.port p).queue
  waiting.foldl (fun s x =>
    let arrival := if x.source = 16 then none else some (x.source, x.inLane)
    match routeSince s arrival x.epoch (x.lane != 0) x.packet with
    | some t => t
    | none => discardAt (owePacket s x) p) (s.modPort p (fun q => { q with queue := [] }))

/-- A link is declared down: the port is DOWN until its receiver has locked for the retrain, and leaves routing (R295); an error record is
written, its unsent packets take other routes and it retrains. Packets sent and not covered by an ack are never resent (R272, R289, R290). -/
def linkDown (s : State) (p : Nat) (cause : Nat) : State :=
  let s := s.modPort p (fun q => { (q.train s.now 1) with
    state := .down, downCount := satInc q.downCount, replay := [], assembly := List.replicate 12 ([], []) })
  let s := raiseError s { cls := 0x04, sev := sevUnit, unit := 0x40 + p, item := none, ctx := none, detail := [BitVec.ofNat 64 cause] }
  rerouteQueue s p

/-- The body of a TRAIN flit: this device and port, the intent, and whether this end is ready (Table 12 of 10_spejan.md). -/
def trainBody (s : State) (p intent : Nat) (ready : Bool) : List Byte :=
  wordsBytes [wordOf [⟨49, 15, s.deviceNumber⟩, ⟨45, 4, p⟩, ⟨43, 2, intent⟩, ⟨42, 1, b2n ready⟩]]

/-- A TRAIN flit sent: intent 0 while training, 1 before the lanes of a disabled port go off (R291, R296). -/
def sendTrain (s : State) (p intent : Nat) : State := s.modPort p (fun q => q.sendControl 3 (trainBody s p intent (intent == 0 && q.ready)))

/-- A port begins its disable: no new packet is routed to it while it sends what is committed to it (R291). -/
def disablePort (s : State) (p : Nat) : State :=
  s.modPort p (fun q => if q.state = .up then { q with state := .disabling, downAt := s.now }
    else if q.state = .disabling then q else { q with state := .off })

/-- A port that is to train again: at once, or after the disable that runs (R291, R370). -/
def enablePort (s : State) (p : Nat) : State :=
  s.modPort p (fun q => if q.state = .disabling then { q with reenableLatched := true } else q.train s.now 1)

/-- A queue pair with the values of its record: READY, at line rate (R329, R339). -/
def qpFresh (c : Cfg) (k : QpCfg) (tx rx : BitVec 24) : Qp :=
  { index := k.index, error := false, cause := 0, rate := lineRate c, txPsn := tx, rxPsn := rx, retries := 0, rnrs := 0, held := [],
    cnpAt := none, recoverAt := 0, cnpSentAt := none, seqNakAt := none, credit := 0, nextAt := 0 }

/-- Regulators with full buckets of the image's depth (R224). -/
def regulatorsOf (c : Cfg) (now : Nat) : List (List Regulator) :=
  List.replicate 12 ((List.range 8).map (fun p =>
    let depth := bits (c.regCfg.getD p 0) 63 48 * 1024 * 1000
    { guarantee := depth, ceiling := depth, filled := now, waiting := [], credit := 0 }))

end Sys2Proof.Machine
end

