-- ==== Sys2Proof/Machine/Boot.lean ====
section
/-! DEFINITION. Resets and start-up (R344 to R373): POR_N, the cold start with its slot selection, NO_IMAGE, the measurement
chain (R448), the defect map (R363) and the beginning of compute-domain resets. -/

namespace Sys2Proof.Machine

/-! ## The measurement chain (R448, R449) -/

/-- The 80 bytes of an entry (Table 3 of 17_security.md). -/
def chainBytes (e : ChainEntry) : List Byte :=
  wordsBytes [wordOf [⟨56, 8, e.kind.toNat⟩, ⟨32, 24, e.aux.toNat⟩, ⟨0, 32, e.index.toNat⟩], e.time] ++ measureBytes e.digest

/-- The chain value after an entry. -/
def chainStep (h : BitVec 512) (e : ChainEntry) : BitVec 512 := Config.shake256 (measureBytes h ++ chainBytes e)

/-- An entry appended at a time; the last 4,096 are held, with the chain value before the oldest of them. -/
def chainAdd (s : State) (time kind aux : Nat) (digest : BitVec 512) : State :=
  let g := s.gate
  let e : ChainEntry := { kind := BitVec.ofNat 8 kind, aux := BitVec.ofNat 24 aux, index := BitVec.ofNat 32 g.chainTotal,
                          time := BitVec.ofNat 64 (time / 40), digest := digest }
  let held := g.chain ++ [e]
  let (before, chain) := match held with
    | d :: rest => if 4096 < held.length then (chainStep g.chainBefore d, rest) else (g.chainBefore, held)
    | [] => (g.chainBefore, [])
  { s with gate := { g with chain := chain, chainBefore := before, chainNow := chainStep g.chainNow e, chainTotal := g.chainTotal + 1 } }

/-! ## POR_N -/

/-- The device with POR_N asserted: fuses, flash and the Gatehouse log are what remains (R346, R368). -/
def porState (s : State) : State :=
  { State.reset with
    pending := s.pending, free := s.free, fuses := s.fuses,
    gate := { Gatehouse.cold with slotA := s.gate.slotA, slotB := s.gate.slotB, log := s.gate.log } }

/-- POR_N_ASSERT: all activity stops at once, and nothing drains (R346). -/
def execPorAssert (s : State) : Host.Outcome State Fault Refusal := .next (porState s)

/-! ## NO_IMAGE -/

/-- Entry to NO_IMAGE at a time: BOOT_STATUS shows it, FAULT_N is asserted, the Porch and every port stay down, SO fields read
0 (R349, R350). -/
def enterNoImage (s : State) (at_ code : Nat) : State :=
  { s with
    now := at_
    cfg := Cfg.empty
    ports := List.replicate 16 Port.cold
    porch := { Porch.cold with out := s.porch.out }
    boot := { s.boot with creset := none, phase := .noImage, step := 0xF, failCode := BitVec.ofNat 8 code, faultN := true, noImageAt := at_ } }

/-- XSPI_RELEASE: 1 ms after NO_IMAGE is entered the xSPI pins are in high impedance (R349). -/
def execXspiRelease (s : State) : Host.Outcome State Fault Refusal :=
  .next (if s.boot.phase = .noImage ∧ s.boot.xspiHighZ = false then
    { s.upTo (s.boot.noImageAt + 1000000) with boot := { s.boot with xspiHighZ := true } }
  else s)

/-! ## Slot selection (R352) -/

/-- What slot selection finds: the slot applied (true for B) and its image, the fallback flag and the last fail_code. -/
structure Selection where
  image : Option (Bool × Image)
  fallback : Bool
  failCode : Nat

/-- The slots tried in the order of R352. -/
def selectSlot (fuses : Fuses) (a b : SlotImage) (answersA answersB : Bool) : Selection :=
  let head (f : SlotImage) (ok : Bool) : Except Nat Header := if ok then readHeader f else .error 0x01
  let try1 (isB : Bool) : Except Nat Image := verifyImage fuses (if isB then b else a)
  match head a answersA, head b answersB with
  | .error _, .error e => { image := none, fallback := false, failCode := e }
  | .ok _, .error e => match try1 false with
    | .ok i => { image := some (false, i), fallback := false, failCode := e }
    | .error x => { image := none, fallback := true, failCode := x }
  | .error e, .ok _ => match try1 true with
    | .ok i => { image := some (true, i), fallback := false, failCode := e }
    | .error x => { image := none, fallback := true, failCode := x }
  | .ok ha, .ok hb =>
    let first := decide (ha.version.toNat < hb.version.toNat)
    match try1 first with
    | .ok i => { image := some (first, i), fallback := false, failCode := 0 }
    | .error x => match try1 (!first) with
      | .ok i => { image := some (!first, i), fallback := true, failCode := x }
      | .error y => { image := none, fallback := true, failCode := y }

/-! ## The defect map (R19, R81, R84, R363, R401) -/

/-- Retirement entries of the log for a Face, oldest first. -/
def retirements (s : State) (f : Nat) : List LogEntry := s.gate.log.filter (fun e => e.kind == 2 && e.face == f)

/-- A fence entry of the log for a Face that no FENCE_CLEAR has marked cleared. -/
def fenceEntries (s : State) (f : Nat) : List LogEntry := s.gate.log.filter (fun e => e.kind == 3 && e.face == f && !e.cleared)

/-- A Face's blocks by the merged map: excluded column, and whether its spare is used by yield. -/
def faceMap (s : State) (f : Nat) : Fin 5 × Bool :=
  match s.fuses.faceExcluded.getD f none, (retirements s f).head? with
  | some c, _ => (c, true)
  | none, some e => (Fin.ofNat 5 e.column, true)
  | none, none => (4, false)

/-- Number of set bits. -/
def popCount {w : Nat} (v : BitVec w) : Nat := ((List.range w).filter (fun i => v.getLsbD i)).length

/-- The defect map applied: Faces stopped with their tiles cleared, fences as the log holds them, spare cores, and one RETIREMENT
entry of the chain for each entry applied (R79, R363, R401, R448). -/
def applyDefectMap (s : State) (time : Nat) : State :=
  let faces := (s.faces.zip (List.range 64)).map (fun (_, f) =>
    let (col, yield_) := faceMap s f
    { Face.cold with excluded := col, spareYield := yield_, fenced := !(fenceEntries s f).isEmpty })
  let retired (f : Nat) : Bool := (s.fuses.faceExcluded.getD f none).isNone && !(retirements s f).isEmpty
  let dies := (s.dies.zip (List.range 32)).map (fun (d, i) => { d with
    cores := Die.cold.cores, sequencers := Die.cold.sequencers, quanta31 := 0, credits := Die.cold.credits,
    benchCredits := Die.cold.benchCredits, detNext := 0, detBenchNext := 0, lossOrder := [], replayDue := true,
    retiredW := retired (2 * i), retiredE := retired (2 * i + 1),
    sparesFree := 2 - popCount (s.fuses.benchExcluded.getD i 0) })
  let entries := (List.range 64).flatMap (fun f => (retirements s f).take 1 ++ (fenceEntries s f).take 1)
  entries.foldl (fun s e => chainAdd s time 0x05 (e.face / 2 * 2 ^ 19 + e.face % 2 * 2 ^ 18 + e.column * 2 ^ 15) 0)
    { s with faces := faces, dies := dies }

/-! ## Compute-domain reset (R366 to R368, R370) -/

/-- A line that no home takes back: it is abandoned with an error record, and its home keeps its old bytes (R367). -/
def abandonLine (s : State) (lomium : Nat) : State :=
  raiseError s { cls := 0x13, sev := sevUnit, unit := 0xFF, item := none, ctx := none, detail := [BitVec.ofNat 64 lomium] }

/-- Dirty lines of the caches written back at a compute-domain reset (R214); one that its home refuses or that no route leads to is abandoned
(R367). -/
def writeBackDirty (s : State) : State :=
  (s.memory.cache.filter (fun l => l.dirty != 0)).foldl (fun s l =>
    let w := writeBack s l
    if w.code.isSome then abandonLine w.s (64 * l.line) else w.s) s

/-- A compute-domain reset begins: every unended item ends FAILED_FAULT with COMPUTE_RESET, units stop, dirty lines are written
back. One that runs takes a further request in; one requested while the cold start is held is latched. In NO_IMAGE, in the
safe state and while POR_N is asserted it does nothing (R366, R367, R370). -/
def startCReset (s : State) (pin : Bool) (variant : Option (BitVec 4)) : State :=
  match s.boot.phase with
  | .por | .noImage => s
  | .railWait => { s with boot := { s.boot with cresetLatched := some (pin || s.boot.cresetLatched.getD false) } }
  | .running =>
    if s.boot.safe then s
    else match s.boot.creset with
      | some r => { s with boot := { s.boot with creset := some { r with pin := pin || r.pin, variant := variant <|> r.variant } } }
      | none =>
        let s := chainAdd s s.now 0x08 (b2n (!pin)) 0
        let s := { s with boot := { s.boot with
          creset := some { since := s.now, pin := pin, variant := variant }, computeResets := satInc s.boot.computeResets } }
        let s := endMany s ((s.items.filter (fun i => !i.over)).map (fun i => (i.ref, .failedFault, codeComputeReset, failAux i none)))
        let s := { s with
          faces := s.faces.map (fun f => { f with state := .stopped, restartLatched := false, pendingOp := none, inFlight := [],
                                                  loading := none, active := none, shadow := none }) }
        writeBackDirty s

/-- Write-backs that no home has acknowledged are abandoned, each with an error record; their homes keep their old bytes
(R367). -/
def abandonWriteBacks (s : State) : State :=
  (s.reqs.filter (fun q => q.item.isNone && q.qp.isNone && q.ctx.isSome && q.purpose == .write)).foldl (fun s q =>
    abandonLine (s.dropReq q.id) (pktDst q.packet * 2 ^ 48 + pktOff q.packet)) s

/-- The resident regions of a die's Pantry, as ranges of offsets. -/
def residentRanges (c : Cfg) (d : Nat) : List (Nat × Nat) :=
  (c.regions.map (fun r => (max r.base (pantryBase + d * pantrySize), min (r.base + r.size) (pantryBase + (d + 1) * pantrySize)))).flatMap
    (fun r => if r.1 < r.2 then [(r.1 - (pantryBase + d * pantrySize), r.2 - (pantryBase + d * pantrySize))] else [])

/-- The bytes of a Pantry that lie in the given ranges. -/
def bytesIn (keep : List (Nat × Nat)) (m : Mem) : Mem := m.filter (fun b => keep.any (fun k => k.1 ≤ b.1 && b.1 < k.2))

/-- The Pantries after a compute-domain reset: resident regions kept, every other byte arbitrary, the caches empty (R3, R214). -/
def resetPantries (s : State) : State :=
  { s with
    free := s.free + 32 * pantrySize
    memory := { s.memory with
      cache := []
      pantry := (s.memory.pantry.zip (List.range 32)).map (fun (m, d) => bytesIn (residentRanges s.cfg d) m)
      stale := (List.range 32).flatMap (fun d =>
        staleIn s.memory.stale d (residentRanges s.cfg d) ++
          (residentRanges s.cfg d).foldl (fun l k => cutStale l d k.1 (k.2 - k.1))
            [{ die := d, lo := 0, hi := pantrySize, seed := s.free + d * pantrySize }]) } }

/-- COMPUTE_RST_N_ASSERT: the pin has been low for 25 Sill cycles (R344, R367). -/
def execComputeRstAssert (s : State) : Host.Outcome State Fault Refusal := .next (startCReset s true none)

/-! ## Cold start (R347 to R364, R453, R494) -/

/-- The bytes whose measurement the FUSES entry carries: the key registry, revoke fuses, floors and identity public key. Their
layout is the model's; the measurement of it is an opaque value (R448). -/
def fuseBytes (f : Fuses) (identity : BitVec 512) : List Byte :=
  f.ownerKeys.flatMap (fun k => match k with | some v => 1 :: measureBytes v | none => [0])
    ++ [f.ownerRevoked, BitVec.ofNat 8 f.kenviradRevoked.toNat]
    ++ f.floors.flatMap (fun l => leBytes 1 l.length ++ l.flatMap (fun v => leBytes 4 v.toNat)) ++ measureBytes identity

/-- Steps 1 and 2: BOARD_POS sampled, the fuses sensed, BOOT_NONCE drawn, the chain begun. -/
def coldStepTwo (s : State) (i : ColdInputs) : State :=
  let identity := Config.identityKey s.fuses.seed
  let s := { s with
    boot := { Boot.por with phase := .running, inputs := some i, boardPos := i.boardPos, step := 2 }
    gate := { s.gate with
      bootNonce := i.entropyA ^^^ i.entropyB
      identity := identity
      slotA := match i.programmed with | some p => p.1 | none => s.gate.slotA
      slotB := match i.programmed with | some p => p.2 | none => s.gate.slotB } }
  let at_ := s.now + 25000000
  chainAdd (chainAdd s at_ 0x01 0 i.romMeasure) at_ 0x02 0 (Config.shake256 (fuseBytes s.fuses identity))

/-- Steps 3 and 4: the image applied, with its IMAGE and FIRMWARE entries and the echo (R357, R358, R448, R486). -/
def applyImage (s : State) (isB : Bool) (im : Image) (sel : Selection) : State :=
  let v := im.header.defaultVariant
  let pos := s.boot.boardPos.toNat
  let cfg := configOf (applying im.recs pos v)
  let s := { s with
    cfg := cfg
    gate := { s.gate with echo := echoOf (if isB then s.gate.slotB else s.gate.slotA) im.header }
    boot := { s.boot with
      imageVersion := im.header.version, variant := BitVec.ofNat 4 v, slot := isB, fallback := sel.fallback,
      failCode := BitVec.ofNat 8 sel.failCode, step := 4 } }
  let at_ := s.now + 405000000
  let s := chainAdd s at_ 0x03 (b2n isB * 2 ^ 23) im.measure
  cfg.fwMeasures.foldl (fun s m => chainAdd s at_ 0x04 m.1 m.2) s

/-- Step 7: stacks that fail to train come up out of service, each with an error record of that moment (R348). They begin to retrain with the
first CONTROL_TICK of the running device (notes/assumptions/118.md). -/
def trainStacks (s : State) (i : ColdInputs) (time : Nat) : State :=
  let s := s.upTo time
  let s := { s with memory := { s.memory with
    hbmStacks := (s.memory.hbmStacks.zip (List.range 24)).map (fun (k, n) => { k with rowsTrained := i.rowsTrained.getD n 0 }) } }
  i.stacksBad.foldl (fun s st =>
    let s := s.modMem (fun m => modStack m st.val (fun k => { k with service := 2, attempts := 1, retrainAt := s.now }))
    writeError s { cls := 0x08, sev := sevUnit, unit := 0x60 + st.val, item := none, ctx := none, detail := [1] }) s

/-- Step 8: the first training attempt of every port with a role and of the Porch (R347, R348). -/
def trainLinks (s : State) (i : ColdInputs) (time : Nat) : State :=
  let s := { s with ports := (s.ports.zip (List.range 16)).map (fun (q, p) =>
    if portRole s p = 0 then q
    else if i.portsUp.any (fun x => x.val == p) then
      { (q.enter time) with seenDevice := BitVec.ofNat 15 (bits (portCfg s p) 63 49), seenPort := BitVec.ofNat 4 (bits (portCfg s p) 48 45) }
    else q.train time 1) }
  { s with porch := { s.porch with
      link := if i.porchUp then 2 else 1, trainAt := time, qps := s.cfg.qps.map (fun k => qpFresh s.cfg k k.txPsn k.rxPsn) } }

/-- Milliseconds from POR_N to the completion of each step (Table 2 of 13_startup.md). -/
def stepMs (k : Nat) : Nat := [0, 5, 25, 175, 405, 885, 1085, 4685, 4985, 5000].getD k 5000

/-- Steps 7 to 9, and what was latched meanwhile: the Ledger opens (R347, R348, R370). -/
def openDevice (s : State) (i : ColdInputs) (start : Nat) (latched : Option Bool) : State :=
  let opened := start + stepMs 9 * 1000000
  let s := { trainLinks s i opened with now := opened }
  let s := settleLevels { s with t0 := opened / 10, stampAt := opened
                                 memory := { s.memory with regulators := regulatorsOf s.cfg opened }
                                 boot := { s.boot with step := 9 } }
  match latched with
  | some low =>
    let t := startCReset s true none
    { t with boot := { t.boot with creset := t.boot.creset.map (fun r => { r with pin := low }) } }
  | none => s

/-- Steps 2 to 9 of a cold start whose rails are in range: the Ledger opens 5.0 s later, or the device enters NO_IMAGE: at the first step at which
the Gatehouses disagree, with what the steps before it have set (R347 to R349). -/
def coldSteps (s : State) (i : ColdInputs) : State :=
  let start := s.now
  let latched := s.boot.cresetLatched
  let ends (k : Nat) : Nat := start + stepMs k * 1000000
  let differ (lo hi : Nat) : Bool := match i.disagreeAt with
    | some k => lo ≤ k.val && k.val ≤ hi
    | none => false
  let s := coldStepTwo s i
  if differ 0 2 then enterNoImage s (ends 2) 0x0B
  else if differ 3 3 then enterNoImage s (ends 3) 0x0B
  else if differ 4 4 then enterNoImage s (ends 4) 0x0B
  else
    let sel := selectSlot s.fuses s.gate.slotA s.gate.slotB i.answersA i.answersB
    match sel.image with
    | none =>
      let t := enterNoImage s (start + 785000000) sel.failCode
      { t with boot := { t.boot with fallback := sel.fallback } }
    | some (isB, im) =>
      let s := applyDefectMap (applyImage s isB im sel) (ends 5)
      if differ 5 5 then enterNoImage s (ends 5) 0x0B
      else if i.firmwareBad.any (fun c => c ≤ 8 && s.cfg.fwVersions.any (fun v => v.1 == c)) then enterNoImage s (ends 6) 0x0A
      else if differ 6 6 then enterNoImage s (ends 6) 0x0B
      else
        let s := trainStacks s i (ends 7)
        if differ 7 7 then enterNoImage s (ends 7) 0x0B
        else if differ 8 8 then enterNoImage s (ends 8) 0x0B
        else if differ 9 15 then enterNoImage s (ends 9) 0x0B
        else openDevice s i start latched

/-- COLD_START: POR_N is deasserted. With a rail out of range the cold start is held at step 1 (R347, R494). -/
def execColdStart (i : ColdInputs) (s : State) : Host.Outcome State Fault Refusal :=
  .next (if s.boot.phase = .por then
    let s := porState s
    if i.railsInRange then coldSteps s i
    else { s with boot := { Boot.por with phase := .railWait, inputs := some i, boardPos := i.boardPos } }
  else s)

/-- RAILS_IN_RANGE: the last rail enters its range, and the cold start held at step 1 goes on (R494). -/
def execRailsInRange (s : State) : Host.Outcome State Fault Refusal :=
  .next (match s.boot.phase, s.boot.inputs with
    | .railWait, some i => if s.boot.safe then s else coldSteps s i
    | _, _ => s)

/-- EXTEST: accepted only while POR_N is asserted; otherwise BYPASS stays in force (R497). -/
def execExtest (s : State) : Host.Outcome State Fault Refusal :=
  .next (if s.boot.phase = .por then { s with boot := { s.boot with tapExtest := true } } else s)

end Sys2Proof.Machine
end

