-- ==== Sys2Proof/Machine/ChainEval.lean ====
section
/-! DEFINITION. What a chain computes (R92 to R111, R502): the operands as its LOADs give them, the stages on one row, the products in
the order of R97, the running SOFTMAX, the skipped chunks of R99 and the side outputs. -/

namespace Sys2Proof.Machine

/-- What a LOAD gives: its values, its element values without their block scales, the scale bytes that a product takes for a streamed
row and for a stationary column, its 32-bit entries, and its bits. -/
structure LoadVal where
  nums : List (List Num)
  elems : List (List Num)
  feedScales : List (List Nat)
  statScales : List (List Nat)
  ints : List Nat
  mask : List (List Bool)
deriving Inhabited

/-- What a chain is evaluated with. -/
structure Env where
  c : ChainD
  t1 : Bool
  seed : Nat
  hosts : List HostWindow
  loads : List LoadVal

def Env.load (e : Env) (i : Nat) : LoadVal := e.loads.getD i default

/-- Element of a matrix of numbers; +0 where the row has no such column. DESIGN CHOICE: so an ELEM LOAD that shares MAIN rows narrower than
the width where it is used gives +0 beyond them (notes/assumptions/105.md). -/
def entry2 (m : List (List Num)) (i j : Nat) : Num := (m.getD i []).getD j Num.zero

/-- The format of a LOAD's operand of a product. -/
def Env.fmt (e : Env) (i : Nat) : Nat := ldFmt (e.c.s i)

/-! ## Element-wise stages (R102, R107 to R109) -/

/-- The operand of a SCALE or BIAS at row i, column j. -/
def Env.operand (e : Env) (w : W64) (i j : Nat) : Num :=
  if sMode w = 0 then decodeElem e.t1 0xB (sImm w)
  else
    let m := (e.load (sOperand w)).nums
    if sMode w = 1 then entry2 m 0 j else if sMode w = 2 then entry2 m 0 i else entry2 m i j

/-- An element that a MASK hides. -/
def Env.hidden (e : Env) (w : W64) (i j : Nat) : Bool :=
  if sMode w ≤ 1 then
    let (a, b) := maskSpan (sMode w) (maskShift w) (maskOffset w) (maskWindow w) i
    decide (b < (j : Int)) || (sMode w == 1 && decide ((j : Int) < a))
  else if sMode w = 2 then !(((e.load (sOperand w)).mask.getD i []).getD j false)
  else decide ((e.load (sOperand w)).ints.getD i 0 ≤ j)

/-- The stage whose FP32 rounding is that of the stored value in a T1-emulation chain. -/
def Env.lastOp (e : Env) (s : Nat) : Bool := (List.range e.c.st.length).all (fun i => i ≤ s || sKind (e.c.s i) == skLoad || sKind (e.c.s i) == skStore)

/-- The result of a stage is the stored value of a T1-emulation chain. -/
def Env.t1Stored (e : Env) (s : Nat) : Bool := e.t1 && e.lastOp s

/-- Flags of the FP32 rounding of a stored value in T1-emulation (R42, R55). -/
def Env.t1Flags (e : Env) (s : Nat) (exact : Num) : BitVec 8 :=
  let y := arRound true exact
  if e.t1Stored s && !exact.isNan && !exact.isInf then flagIf y.isInf flOverflow ||| flagIf (!exact.isZero && y.isZero) flUnderflow else 0

/-- A SCALE, BIAS, unpaired ACT, MASK or DROPOUT on one element. -/
def Env.elem (e : Env) (s i j : Nat) (x : Num) : Fl Num :=
  let w := e.c.s s
  let k := sKind w
  if k = skScale then (let a := e.operand w i j; (guardNan [x, a] (arMul e.t1 x a)).with (e.t1Flags s (Num.mul x a).val))
  else if k = skBias then (let a := e.operand w i j; (guardNan [x, a] (arAdd e.t1 x a)).with (e.t1Flags s (Num.add x a).val))
  else if k = skAct then
    let param := decodeElem e.t1 0xB (sImm w)
    let f := actFunction w
    if actIsGrad w then
      let z := entry2 (e.load (actXLoad w)).nums i j
      if e.t1 then actT1 (e.t1Stored s) f true (BitVec.ofNat 32 (sImm w)) [x, z] else actGrad f param x z
    else if e.t1 then actT1 (e.t1Stored s) f false (BitVec.ofNat 32 (sImm w)) [x] else guardNan [x] (actFn f param x)
  else if k = skMask then ⟨if e.hidden w i j then (if maskFill w then Num.zero else .inf true) else x, nanFlag [x]⟩
  else if k = skDropout then
    let d := draw e.seed (dropStream w) e.c.step ((i * e.c.width s + j) % 2 ^ 48)
    if d < dropThreshold w then ⟨Num.zero, nanFlag [x]⟩ else guardNan [x] (arMul e.t1 x (dropScale (dropThreshold w)))
  else ⟨x, 0⟩

/-- The T1's paired ACT with the slow path (R57). -/
def Env.pairFn (e : Env) (s : Nat) (gate up : Num) : Fl Num :=
  let w := e.c.s s
  if e.t1 then actT1 (e.t1Stored s) (actFunction w) false 0 [gate, up] else actPair (actFunction w) gate up

/-- Both gradients of a paired ACT. -/
def Env.pairGrad (e : Env) (s : Nat) (g gate up : Num) : Fl (Num × Num) :=
  let w := e.c.s s
  if e.t1 then (actT1 (e.t1Stored s) (actFunction w) true 0 [g, gate, up]).bind (fun a => (actT1 (e.t1Stored s) (actFunction w + 64) true 0 [g, gate, up]).map (fun b => (a, b)))
  else actPairGrad (actFunction w) g gate up

/-- Start of the gate tile, start of the up tile and width of each pair of a full width (R107). -/
def pairTiles (width : Nat) : List (Nat × Nat × Nat) :=
  (List.range (ceilDiv (width / 2) 256)).map (fun t => let n := Nat.min 256 (width / 2 - 256 * t); (512 * t, 512 * t + n, n))

/-- A paired ACT on a row whose present columns are given (R107): an output column is present where every column it is formed from is. -/
def Env.pairRow (e : Env) (s i : Nat) (row : ColRow) : Fl ColRow :=
  let w := e.c.s s
  let width := e.c.width s
  let at_ (j : Nat) : Option Num := (row.find? (fun x => x.1 == j)).map Prod.snd
  if actIsGrad w then
    let x := (e.load (actXLoad w)).nums.getD i []
    (Fl.mapList (fun (p : (Nat × Nat × Nat) × Nat) =>
      let ((g0, u0, n), t) := p
      let here := (List.range n).filterMap (fun k => (at_ (256 * t + k)).map (fun v => (k, v)))
      (Fl.mapList (fun (q : Nat × Num) => (e.pairGrad s q.2 (x.getD (g0 + q.1) Num.zero) (x.getD (u0 + q.1) Num.zero)).map (fun y => (q.1, y))) here).map
        (fun ps => ps.map (fun y => (g0 + y.1, y.2.1)) ++ ps.map (fun y => (u0 + y.1, y.2.2))))
      ((pairTiles (2 * width)).zip (List.range (width + 1)))).map List.flatten
  else
    (Fl.mapList (fun (p : (Nat × Nat × Nat) × Nat) =>
      let ((g0, u0, n), t) := p
      let here := (List.range n).filterMap (fun k => match at_ (g0 + k), at_ (u0 + k) with
        | some a, some b => some (256 * t + k, a, b)
        | _, _ => none)
      Fl.mapList (fun (q : Nat × Num × Num) => (e.pairFn s q.2.1 q.2.2).map (fun y => (q.1, y))) here)
      ((pairTiles width).zip (List.range (width + 1)))).map List.flatten

/-! ## The stages on one row -/

/-- One row on its way: its values, the columns they stand in, and what its stages have put out: the values at STOREs, side values, and
the rows that entered a REDUCE_COLS, each with its stage. -/
structure RowSt where
  v : List Num
  cols : List Nat
  out : List (Nat × ColRow)
  side : List (Nat × List Num)
  red : List (Nat × ColRow)
deriving Inhabited

/-- An INT40 or INT32 value entering a stage is rounded once (R95). -/
def Env.enter (e : Env) (x : Num) : Num := if e.t1 then x.toFmt fmtFP32 else x.toFmt fmtA40

/-- NORM of the present columns of a row: each group by itself (R103). -/
def Env.norm (e : Env) (s : Nat) (r : RowSt) : Fl (List Num × List Num) :=
  let w := e.c.s s
  let gw := Nat.max 1 (e.c.normWidth s)
  let pick (l : Nat) (cols : List Nat) : List Num := cols.map (fun j => entry2 (e.load l).nums 0 j)
  let pairs := r.cols.zip r.v
  let groups := ((r.cols.map (fun j => j / gw)).dedup).map (fun g => pairs.filter (fun p => p.1 / gw == g))
  (Fl.mapList (fun (ps : List (Nat × Num)) =>
    let cols := ps.map Prod.fst
    normRow (normType w == 0) 0 (decodeElem e.t1 0xB (sImm w)) (if normGammaEn w then some (pick (normGamma w) cols) else none)
      (if normBetaEn w then some (pick (normBeta w) cols) else none) (ps.map Prod.snd)) groups).map
    (fun gs => (gs.flatMap Prod.fst, gs.flatMap Prod.snd))

/-- One stage on row i; LOADs and MATMULs change nothing here. -/
def Env.stage (e : Env) (i : Nat) (r : RowSt) (s : Nat) : Fl RowSt :=
  let w := e.c.s s
  let k := sKind w
  if k = skLoad ∨ k = skMatmul then ⟨r, 0⟩
  else if k = skStore then ⟨if stSource w = 0 then { r with out := r.out ++ [(s, r.cols.zip r.v)] } else r, 0⟩
  else
    let v := r.v.map e.enter
    let r := { r with v := v }
    if k = skNorm then (e.norm s r).map (fun (ys, o) => { r with v := ys, side := r.side ++ [(s, o)] })
    else if k = skSoftmax then (softRow v).map (fun (ys, o) => { r with v := ys, side := r.side ++ [(s, [o])] })
    else if k = skRows then (reduceRow (redOp w) v).map (fun y => { r with side := r.side ++ [(s, [y])] })
    else if k = skCols then ⟨{ r with red := r.red ++ [(s, r.cols.zip v)] }, 0⟩
    else if isPaired w then (e.pairRow s i (r.cols.zip v)).map (fun ys => { r with v := ys.map Prod.snd, cols := ys.map Prod.fst })
    else (Fl.mapList (fun (p : Nat × Num) => e.elem s i p.1 p.2) (r.cols.zip v)).map (fun ys => { r with v := ys })

/-- Stages a to b - 1 on row i. -/
def Env.stages (e : Env) (i a b : Nat) (r : RowSt) : Fl RowSt :=
  Fl.foldl (fun r s => e.stage i r s) ⟨r, 0⟩ ((List.range (b - a)).map (· + a))

/-! ## Feeds and products (R36, R54, R65, R96) -/

/-- A row as a product streams it: element values, and a scale byte for each group of 32 K indices in an MX format. -/
structure Streamed where
  xs : List Num
  sx : List (Option Nat)

/-- Elements of a row converted into a feed format as a STORE would convert them, an INT40 row rounded to A40 first (R95); index0 is the position
of the first in the M × K operand (R96). -/
def Env.feed (e : Env) (m index0 : Nat) (v : List Num) : Fl Streamed :=
  let w := e.c.s m
  (convRow (mmFeed w) ⟨mmSr w, e.seed, mmStream w, e.c.step⟩ (mmNonsat w) e.t1 index0 (v.map e.enter)).map (fun (codes, scales) =>
    { xs := codes.map (decodeElem e.t1 (mmFeed w)), sx := scales.map some })

/-- A row of the MAIN LOAD fed straight to the first product. -/
def Env.straight (e : Env) (i : Nat) : Streamed :=
  match e.c.mainLoad with
  | some l => { xs := (e.load l).elems.getD i [], sx := ((e.load l).feedScales.getD i []).map some }
  | none => { xs := [], sx := [] }

/-- Column n of a stationary operand: its element values and scale bytes. -/
def Env.column (e : Env) (l n : Nat) : Streamed :=
  { xs := (e.load l).elems.map (fun r => r.getD n Num.zero), sx := (e.load l).statScales.map (fun r => some (r.getD n 127)) }

/-- K indices a to b - 1 of a streamed row or a stationary column; a and the group boundaries are multiples of 32. -/
def Streamed.part (x : Streamed) (a b : Nat) : Streamed := { xs := slice x.xs a b, sx := slice x.sx (a / 32) (ceilDiv b 32) }

/-- The tile result of one output. -/
def tileOut (kind : ProdKind) (x w : Streamed) : Fl Num :=
  match kind with
  | .int8 => ⟨Num.ofInt (intOutput x.xs w.xs), 0⟩
  | .float => faceOutput false x.xs w.xs x.sx w.sx
  | .split => faceOutput true x.xs w.xs x.sx w.sx

/-- K tiles of a product (R65). -/
def kTiles (k extent : Nat) : List (Nat × Nat) :=
  (List.range (ceilDiv k (Nat.max 1 extent))).map (fun t => (extent * t, Nat.min k (extent * (t + 1))))

/-- Columns of one K tile of a MATMUL as it runs: a chunk of 256 for the second one, the K extent for the first (R65, R97). -/
def Env.kTile (e : Env) (m : Nat) : Nat := if e.c.matmuls.head? = some m then e.c.extent m else 256

/-- One output of a product over all K: its tile results in stream order, or the T1's single sum. -/
def Env.output (e : Env) (m : Nat) (x : Streamed) (n : Nat) : Fl Num :=
  let w := e.c.s m
  let kind := prodKind (mmFeed w) (e.fmt (mmStat w))
  let col := e.column (mmStat w) n
  if e.t1 then
    (match kind with
      | .int8 => ⟨Num.ofInt (t1Int x.xs col.xs), 0⟩
      | .float => t1Output false x.xs col.xs
      | .split => t1Output true x.xs col.xs)
  else
    (Fl.mapList (fun (p : Nat × Nat) => tileOut kind (x.part p.1 p.2) (col.part p.1 p.2)) (kTiles x.xs.length (e.kTile m))).bind
      (closeOutput kind)

/-- A product on one row for the given columns. -/
def Env.product (e : Env) (m : Nat) (x : Streamed) (cols : List Nat) : Fl (List Num) := Fl.mapList (e.output m x) cols

/-! ## Skipped chunks (R99) -/

/-- The MASK whose chunks may be skipped: CAUSAL or WINDOW with fill minus infinity, before a running SOFTMAX, with only SCALE and BIAS
stages in IMM or COL mode between it and the first MATMUL. -/
def ChainD.skipMask (c : ChainD) : Option Nat :=
  match c.matmuls, c.running with
  | m1 :: _, some r =>
    let between (a b : Nat) (ok : W64 → Bool) : Bool :=
      (List.range (b - (a + 1))).all (fun t => let w := c.s (a + 1 + t); sKind w == skLoad || ok w)
    (c.ofKind skMask).find? (fun s =>
      let w := c.s s
      m1 < s && s < r && sMode w ≤ 1 && !maskFill w
        && between m1 s (fun v => (sKind v == skScale || sKind v == skBias) && sMode v ≤ 1))
  | _, _ => none

/-- Paired ACTs between the two products. -/
def ChainD.pairsBetween (c : ChainD) : Nat := match c.matmuls with
  | m1 :: m2 :: _ => ((List.range m2).filter (fun i => m1 < i && isPaired (c.s i))).length
  | _ => 0

/-- The chunks of the first product of two: first column and first column behind each (R97). With p paired ACTs behind it, 2^p chunks of the
width of K tile j of the second product feed that tile. -/
def ChainD.chunks (c : ChainD) : List (Nat × Nat) := match c.matmuls with
  | m1 :: _ =>
    let p := 2 ^ c.pairsBetween
    let n := c.width (m1 + 1) / p
    (List.range (ceilDiv n 256)).flatMap (fun j =>
      let t := Nat.min 256 (n - 256 * j)
      (List.range p).map (fun k => (256 * p * j + k * t, 256 * p * j + (k + 1) * t)))
  | [] => []

/-- Chunks of the first product that a row block skips: every element of every row would be masked. -/
def Env.skipped (e : Env) (r0 r1 : Nat) : List (Nat × Nat) :=
  match e.c.skipMask with
  | none => []
  | some s =>
    let w := e.c.s s
    e.c.chunks.filter (fun t =>
      (List.range (r1 - r0)).all (fun k =>
        let (a, b) := maskSpan (sMode w) (maskShift w) (maskOffset w) (maskWindow w) (r0 + k)
        decide (b < (t.1 : Int)) || (sMode w == 1 && decide ((t.2 : Int) - 1 < a))))

/-- The columns of a width that are not in skipped chunks. -/
def presentCols (width : Nat) (skip : List (Nat × Nat)) : List Nat :=
  (List.range width).filter (fun j => !(skip.any (fun t => decide (t.1 ≤ j ∧ j < t.2))))

/-! ## Rows of a chain (R97) -/

/-- The accumulators of a running SOFTMAX's product and its statistics. -/
structure Running where
  soft : Soft
  acc : Option (List Num)

/-- One chunk of the running form (R104, R105): statistics, the stages behind the SOFTMAX, the feed, the tile results, and the rescaled
accumulators. DESIGN CHOICE: an INT8 second product is accumulated in A40 as R105 rescales it, without int_sat (notes/assumptions/106.md). -/
def Env.runChunk (e : Env) (i rs m2 : Nat) (st : Running) (chunk : List (Nat × Num)) : Fl Running :=
  let cols := chunk.map Prod.fst
  let c0 := cols.headD 0
  (softChunk st.soft (chunk.map Prod.snd)).bind fun (soft, c, ps) =>
  (e.stages i (rs + 1) m2 { v := ps, cols := cols, out := [], side := [], red := [] }).bind fun r =>
  (e.feed m2 (i * e.c.width m2 + c0) r.v).bind fun x =>
  let w := e.c.s m2
  let kind := prodKind (mmFeed w) (e.fmt (mmStat w))
  (Fl.mapList (fun (n : Nat) => tileOut kind x ((e.column (mmStat w) n).part c0 (c0 + cols.length)))
    (List.range (e.c.width (m2 + 1)))).bind fun ts =>
  match st.acc with
  | none => ⟨{ soft := soft, acc := some ts }, 0⟩
  | some as_ => (Fl.mapList (fun (p : Num × Num) => (arMul false p.1 c).bind fun a => arAdd false a p.2) (as_.zip ts)).map
      (fun v => { soft := soft, acc := some v })

/-- The running SOFTMAX and the second product on a row (R104 to R106). A row that is all masked gives +0, the side output minus
infinity, and no flag. -/
def Env.runRow (e : Env) (i rs m2 : Nat) (r : RowSt) : Fl RowSt :=
  let n := e.c.width (m2 + 1)
  let pairs := r.cols.zip (r.v.map e.enter)
  let chunks := ((r.cols.map (fun j => j / 256)).dedup).map (fun t => pairs.filter (fun p => p.1 / 256 == t))
  let run := Fl.foldl (e.runChunk i rs m2) ⟨{ soft := Soft.start, acc := none }, 0⟩ chunks
  if run.val.soft.m = .inf true then
    ⟨{ r with v := List.replicate n Num.zero, cols := List.range n, side := r.side ++ [(rs, [.inf true])] }, 0⟩
  else
    run.bind fun st => (softFinish st.soft).bind fun (q, o) =>
    (Fl.mapList (fun a => arMul false a q) (st.acc.getD (List.replicate n Num.zero))).map (fun v =>
      { r with v := v, cols := List.range n, side := r.side ++ [(rs, [o])] })

/-- A SOFTMAX of a row's stages met nothing but elements masked with minus infinity (R106). -/
def Env.allMasked (e : Env) (r : RowSt) : Bool := r.side.any (fun p => sKind (e.c.s p.1) == skSoftmax && p.2 == [Num.inf true])

/-- The second product of a row that no running SOFTMAX feeds. After a row that is all masked its output is +0, without a flag (R106). -/
def Env.second (e : Env) (i m2 : Nat) (r : RowSt) : Fl RowSt :=
  let n := e.c.width (m2 + 1)
  if e.allMasked r then ⟨{ r with v := List.replicate n Num.zero, cols := List.range n }, 0⟩
  else (e.feed m2 (i * e.c.width m2) r.v).bind fun y =>
    (e.product m2 y (List.range n)).map (fun v => { r with v := v, cols := List.range v.length })

/-- Row i of a chain, with the chunks that its row block skips. -/
def Env.row (e : Env) (skip : List (Nat × Nat)) (i : Nat) : Fl RowSt :=
  let c := e.c
  let stop := c.st.length
  let main : List Num := match c.mainLoad with
    | some l => (e.load l).nums.getD i []
    | none => []
  let r0 : RowSt := { v := main, cols := List.range main.length, out := [], side := [], red := [] }
  match c.matmuls with
  | [] => e.stages i 0 stop r0
  | m1 :: rest =>
    let fed : Fl (RowSt × Streamed) :=
      if c.prologue then (e.stages i 0 m1 r0).bind (fun r => (e.feed m1 (i * c.width m1) r.v).map (fun x => (r, x))) else ⟨(r0, e.straight i), 0⟩
    fed.bind fun (r, x) =>
    let cols := presentCols (c.width (m1 + 1)) skip
    (e.product m1 x cols).bind fun v =>
    let r1 := { r with v := v, cols := cols }
    match rest with
    | [] => e.stages i (m1 + 1) stop r1
    | m2 :: _ =>
      (match c.running with
        | some rs => (e.stages i (m1 + 1) rs r1).bind (e.runRow i rs m2)
        | none => (e.stages i (m1 + 1) m2 r1).bind (e.second i m2)).bind
        (e.stages i (m2 + 1) stop)

/-- Row blocks: first row and first row behind. -/
def ChainD.blocks (c : ChainD) : List (Nat × Nat) :=
  (List.range (ceilDiv c.m (Nat.max 1 c.rowBlock))).map (fun b => (b * c.rowBlock, Nat.min c.m ((b + 1) * c.rowBlock)))

/-- Every row of a chain. -/
def Env.rows (e : Env) : Fl (List RowSt) :=
  (Fl.mapList (fun (p : Nat × Nat) =>
    let skip := e.skipped p.1 p.2
    Fl.mapList (fun (k : Nat) => e.row skip (p.1 + k)) (List.range (p.2 - p.1))) e.c.blocks).map List.flatten

/-- The value of a stage in a list of outputs. -/
def valueAt {α : Type} (s : Nat) (l : List (Nat × List α)) : List α := match l.find? (fun p => p.1 == s) with
  | some p => p.2
  | none => []

/-- Values that stand in the columns from 0 on. -/
def fullRow (v : List Num) : ColRow := (List.range v.length).zip v

/-- What each STORE writes: rows of M for the main value, one packed row for a side output (R94, R111), each value with its column. -/
def Env.results (e : Env) : Fl (List (Nat × List ColRow)) :=
  e.rows.bind fun rs =>
  Fl.mapList (fun (s : Nat) =>
    let src := stSource (e.c.s s)
    if src = 0 then (⟨(s, rs.map (fun r => valueAt s r.out)), 0⟩ : Fl (Nat × List ColRow))
    else if sKind (e.c.s (src - 1)) = skCols then
      (reduceCols (redOp (e.c.s (src - 1))) e.c.rowBlock e.c.m (rs.map (fun r => valueAt (src - 1) r.red))).map (fun v => (s, [v]))
    else ⟨(s, [fullRow (rs.flatMap (fun r => valueAt (src - 1) r.side))]), 0⟩) e.c.stores

end Sys2Proof.Machine
end

