-- ==== Sys2Proof/Machine/Chain.lean ====
section
/-! DEFINITION. CHAIN (R87 to R118): its pins (R127, R128), the bytes its LOADs read, what it computes, and its STOREs (R111); the retries
of pins and of releases (R128, R131). -/

namespace Sys2Proof.Machine

/-! ## What a Face operation may read (R71, R72) -/

/-- Face cycles from a write by a Face or a stage unit until a Face operation can read it (R72). -/
def settleCycles : Nat := 16

/-- Bytes of a die's Pantry written by a Face or a stage unit: readable by a Face operation from 16
Face cycles after it was written on. -/
def noteWritten (s : State) (d a n unit : Nat) : State :=
  s.modDie d (fun x => { x with settling := x.settling.filter (fun w => x.unitsAt s.now < w.2.2) ++ [(a, a + n, unit + cyc settleCycles)] })

/-- The STOREs of a chain that went to the Pantry of its own die. -/
def noteStores (s : State) (d : Nat) (ws : List (Nat × List Byte)) : State :=
  ws.foldl (fun s w => match isLocal s w.1, locOf (offOf w.1) with
    | true, .pantry n o => if n = d then noteWritten s d o w.2.length ((s.die d).unitsAt s.now) else s
    | _, _ => s) s

/-! ## Granules that a replay still reads (R402) -/

/-- Granules of 256 bytes that hold the bytes from a on (R71). -/
def granules (a n : Nat) : Nat × Nat := (a / 256 * 256, roundUp (a + n) 256)

/-- Two ranges, from and up to, meet. -/
def rangeMeets (x y : Nat × Nat) : Bool := x.1 < y.2 && y.1 < x.2

/-- The granules of a tile and of its scales (R60). -/
def tileSpans (p : FaceLoad) : List (Nat × Nat) :=
  granules p.base ((p.k - 1) * p.stride + rowBytes p.fmt.val p.n)
    :: (if fmtMX p.fmt.val then [granules p.scaleBase (ceilDiv p.k 32 * p.n)] else [])

/-- A Face: 2 on each die. -/
def State.face (s : State) (f : Nat) : Face := s.faces.getD f Face.cold

/-- Tiles whose granules replay samples of a context on a die still count as reading (R402). -/
def heldTiles (s : State) (d ctx : Nat) : List (Nat × Nat) :=
  ([s.face (2 * d), s.face (2 * d + 1)].flatMap Face.samples).flatMap (fun x => if x.item.ctx = ctx then tileSpans x.load else [])

/-- Bytes from an offset of a die's Pantry on lie in granules that a replay sample of the context still reads: what would write them waits
(R71, R402). -/
def tileHeld (s : State) (d ctx a n : Nat) : Bool := (heldTiles s d ctx).any (rangeMeets (a, a + n))

/-- A STORE of a chain into the Pantry waits for a replay that still reads what it would write. -/
def storesHeld (s : State) (ctx : Nat) (ws : List (Nat × List Byte)) : Bool :=
  ws.any (fun w => match isLocal s w.1, locOf (offOf w.1) with
    | true, .pantry n o => tileHeld s n ctx o w.2.length
    | _, _ => false)

/-! ## Pins -/

/-- What the pins of a chain give: the address of each record's pinned buffer, a wait, or a failure. -/
inductive Pins where
  | ok (bases : List (Nat × Nat))
  | wait
  | fail (code : Nat)

/-- A pin for each version record that the chain's LOADs name, in stage order (R127, R128). -/
def takePins (s : State) (r : ItemRef) (records : List Nat) : State × Pins :=
  records.foldl (fun (acc : State × Pins) a =>
    match acc.2 with
    | .ok bs => match pinFor acc.1 r a with
      | (t, .have_ ws b) => (t, .ok (bs ++ [(a, recBuf ws b)]))
      | (t, .fail c) => (t, .fail c)
      | (t, _) => (t, .wait)
    | _ => acc) (s, .ok [])

/-- Base of the tensor of a LOAD or STORE: the pinned buffer for a versioned entry. -/
def tensorBase (bases : List (Nat × Nat)) (e : W64 × W64) : Nat :=
  if tnVersioned e then (match bases.find? (fun b => b.1 == tnBase e) with
    | some b => b.2
    | none => 0) else tnBase e

/-! ## What a LOAD reads (R60, R89, R110) -/

/-- The index that yields or skips a row (R110, R111). -/
def noIndex : Nat := 0xFFFFFFFF

/-- Rows of len bytes from an offset off a base: address of each, none for a row of zeros. A row that an index places past the end of its device
or window reaches nothing (R245). -/
def rowAddrsAt (hosts : List HostWindow) (base off stride rows len : Nat) (ix : Option (List Nat)) : List (Option Nat) :=
  (List.range rows).map (fun j => match ix with
    | none => some (base + off + j * stride)
    | some l => let i := l.getD j noIndex; if i = noIndex then none else some (placedAt hosts base (off + i * stride) len))

/-- Rows of len bytes at a base. -/
def rowAddrs (hosts : List HostWindow) (base stride rows len : Nat) (ix : Option (List Nat)) : List (Option Nat) :=
  rowAddrsAt hosts base 0 stride rows len ix

/-- Element rows and scale rows of a LOAD. -/
def ChainD.loadAddrs (c : ChainD) (hosts : List HostWindow) (bases : List (Nat × Nat)) (i : Nat) (ix : Option (List Nat)) : List (Option Nat) × List (Option Nat) :=
  let e := c.entry i
  let h := c.loadShape i
  let b := tensorBase bases e
  (rowAddrs hosts b (tnStride e) h.rows h.bytes ix, rowAddrsAt hosts b (tnScale e) (roundUp h.scaleBytes 64) h.scaleRows h.scaleBytes ix)

/-- The lines of a list of row ranges. -/
def linesOf (rs : List (Nat × Nat)) : List Nat := rangeLines rs

/-- The rows of a LOAD read for an item: through the cache partition of its die, or in place when resident. -/
def readRows (s : State) (r : ItemRef) (die : Option Nat) (as_ : List (Option Nat)) (n : Nat) : State × Option (List (List Byte)) × Option Nat :=
  let (t, bss, code) := itemReads s r die (as_.filterMap (fun a => a.map (fun x => (x, n))))
  (t, bss.map (fun l => (as_.foldl (fun (acc : List (List Byte) × List (List Byte)) a => match a, acc.2 with
    | some _, b :: rest => (acc.1 ++ [b], rest)
    | _, rest => (acc.1 ++ [List.replicate n 0], rest)) ([], l)).1), code)

/-- Rows as a matrix turned. -/
def turn {α : Type} (d : α) (cols : Nat) (m : List (List α)) : List (List α) := (List.range cols).map (fun j => m.map (fun r => r.getD j d))

/-- Scale bytes of a shape that the spec leaves open, free for each list of bytes a LOAD read (R118; notes/assumptions/49.md). -/
def freeScales (read : List (List Byte)) (rows cols : Nat) : List (List Nat) :=
  (List.range rows).map (fun i => (List.range cols).map (fun j => (Config.looseScale read i j).toNat))

/-- A loaded element in A40. One that A40 does not hold exactly, which only FP64 has, is a free value of its code: R102 converts exactly
(R118; notes/assumptions/49.md). -/
def exactA40 (x : Num) : Num :=
  if (x.toFmt fmtA40).eq x || x.isNan then x
  else decodeFloat fmtA40 (Config.looseA40 (BitVec.ofNat 64 (roundEncode fmtFP64 x))).toNat

/-- The value of a LOAD from its bytes (R31, R33, R60, R108, R236). -/
def ChainD.loadVal (c : ChainD) (t1 : Bool) (i : Nat) (rows scales : List (List Byte)) : LoadVal :=
  let w := c.s i
  let f := ldFmt w
  let nat (l : List (List Byte)) : List (List Nat) := l.map (fun r => r.map BitVec.toNat)
  if ldUse w = useIndex ∨ c.role i = roleLength then
    { (default : LoadVal) with ints := (rows.headD []).length |> fun n => (List.range (n / 4)).map (fun k => leNat (((rows.headD []).drop (4 * k)).take 4)) }
  else if c.role i = roleBits then { (default : LoadVal) with mask := rows.map (fun r => r.flatMap (fun b => (List.range 8).map (fun k => b.getLsbD k))) }
  else
    let (dr, dc) := c.loadDims i
    let codes := rows.map (unpackCodes (fmtWidth f) dc)
    let elems := codes.map (fun r => r.map (decodeElem t1 f))
    let tr := ldTransform w == 1
    let stat := ldUse w == useStat1 || ldUse w == useStat2
    let mx := fmtMX f
    let gather := ldTransform w == 2
    -- a stationary MX operand that is gathered has no scale rows that belong to its rows: its scales are free
    let sc := if mx ∧ stat ∧ gather then freeScales (rows ++ scales) (ceilDiv dr 32) dc else nat scales
    let byColumn := stat && !tr
    let scaled (j k : Nat) (x : Num) : Num :=
      if mx then applyScale (if byColumn then (sc.getD (j / 32) []).getD k 127 else (sc.getD j []).getD (k / 32) 127) x else x
    let nums := (elems.zip (List.range elems.length)).map (fun (r, j) => (r.zip (List.range r.length)).map (fun (x, k) => scaled j k x))
    let elems' := if tr then turn Num.zero dc elems else elems
    let nums' := if tr then turn Num.zero dc nums else nums
    -- a transposed MX value streamed straight from MAIN has no scale of a group of its row: its group scales are free
    let feed := if mx ∧ tr ∧ stat = false then freeScales (rows ++ scales) dc (ceilDiv dr 32) else if mx ∧ stat = false then sc else []
    let vals := if f = 0xC then nums'.map (fun r => r.map exactA40) else nums'
    { nums := vals, elems := elems', feedScales := feed, statScales := if mx ∧ stat then (if tr then turn 127 (ceilDiv dc 32) sc else sc) else [],
      ints := [], mask := [] }

/-! ## STOREs (R43 to R49, R94, R111) -/

/-- Values of one row to be written by a STORE: the stage, its destination row, the column of the first value, the values, and how many a whole
row has. -/
structure StoreRow where
  stage : Nat
  dst : Nat
  col : Nat
  vals : List Num
  width : Nat

/-- A row cut where columns are missing, which only a skipped chunk makes (R99): first column and values of each piece. -/
def colRuns (r : ColRow) : List (Nat × List Num) :=
  r.foldl (fun (acc : List (Nat × List Num)) x => match acc.getLast? with
    | some (c, vs) => if c + vs.length = x.1 then acc.dropLast ++ [(c, vs ++ [x.2])] else acc ++ [(x.1, [x.2])]
    | none => [(x.1, [x.2])]) []

/-- The rows of every STORE, block by block, side outputs after the last row. DESIGN CHOICE: a scattered STORE of a side output puts its packed
values as one row at the row that index 0 names (notes/assumptions/107.md). -/
def ChainD.storeRows (c : ChainD) (e : Env) (res : List (Nat × List ColRow)) : List StoreRow :=
  let dst (s i : Nat) : Nat := if stScatter (c.s s) then (e.load (stIndex (c.s s))).ints.getD i noIndex else i
  let rows (s a b : Nat) : List StoreRow := match res.find? (fun p => p.1 == s) with
    | some p => (List.range (b - a)).flatMap (fun k => (colRuns (p.2.getD (a + k) [])).map (fun v =>
        { stage := s, dst := dst s (a + k), col := v.1, vals := v.2, width := if stSource (c.s s) = 0 then c.width s else v.2.length }))
    | none => []
  let mains := c.stores.filter (fun s => stSource (c.s s) == 0)
  let sides := c.stores.filter (fun s => stSource (c.s s) != 0)
  (c.blocks.flatMap (fun b => mains.flatMap (fun s => rows s b.1 b.2)) ++ sides.flatMap (fun s => rows s 0 1)).filter (fun r => r.dst != noIndex)

/-- Address of a STORE's values, and of their scales; a row that an index places past the end of its device or window reaches nothing
(R245). -/
def ChainD.storeAddr (c : ChainD) (hosts : List HostWindow) (r : StoreRow) : Nat × Nat :=
  let e := c.entry r.stage
  let f := stFmt (c.s r.stage)
  let place (b off n : Nat) : Nat := if stScatter (c.s r.stage) then placedAt hosts b off n else b + off
  (place (tnBase e) (r.dst * tnStride e + r.col * fmtWidth f / 8) (rowBytes f r.vals.length),
    place (tnBase e) (tnScale e + r.dst * roundUp (ceilDiv r.width 32) 64 + r.col / 32) (ceilDiv r.vals.length 32))

/-- Destination rows with their old values, as an accumulating STORE sums them in ascending i. -/
abbrev Olds := List (Nat × List Num)

/-- One row converted: with accumulate the old value is added exactly before the one rounding (R111). -/
def ChainD.storeBytes (c : ChainD) (e : Env) (olds : Olds) (r : StoreRow) : Fl (List (Nat × List Byte) × Olds) :=
  let w := c.s r.stage
  let f := stFmt w
  let (a, sa) := c.storeAddr e.hosts r
  let old := match olds.find? (fun p => p.1 == a) with
    | some p => p.2
    | none => []
  let summed : Fl (List Num) :=
    if stAccumulate w then Fl.mapList (fun (p : Num × Num) => guardNan [p.1, p.2] (Num.add p.1 p.2)) (r.vals.zip old) else ⟨r.vals, 0⟩
  summed.bind fun v =>
  (convRow f ⟨stSr w, e.seed, stStream w, c.step⟩ (stNonsat w) e.t1 (r.dst * r.width + r.col) v).map fun (codes, scales) =>
  ((a, packCodes (fmtWidth f) codes) :: (if scales.isEmpty then [] else [(sa, scales.map (BitVec.ofNat 8))]),
    if stAccumulate w then upsert (fun p => p.1 == a) (a, codes.map (decodeElem e.t1 f)) olds else olds)

/-- The bytes of every STORE in order. -/
def ChainD.allBytes (c : ChainD) (e : Env) (olds : Olds) (rs : List StoreRow) : Fl (List (Nat × List Byte)) :=
  (Fl.foldl (fun (acc : List (Nat × List Byte) × Olds) r => (c.storeBytes e acc.2 r).map (fun (ws, o) => (acc.1 ++ ws, o))) ⟨([], olds), 0⟩ rs).map Prod.fst

/-! ## Writes of an item -/

/-- Byte ranges written one after another; the first code that a write failed with. -/
def writeRanges (s : State) (r : ItemRef) (die : Option Nat) (ws : List (Nat × List Byte)) (exempt : Bool) : State × Option Nat :=
  ws.foldl (fun (acc : State × Option Nat) w =>
    let (t, c) := itemWrite acc.1 r die w.1 w.2 exempt
    (t, acc.2 <|> c)) (s, none)

/-- Writes of an item that meet lines it reads in no fixed order have arbitrary bytes there (R255). -/
def blurWrites (s : State) (lines : List Nat) (ws : List (Nat × List Byte)) : State × List (Nat × List Byte) :=
  if lines.isEmpty then (s, ws)
  else ws.foldl (fun (acc : State × List (Nat × List Byte)) w => let (t, b) := blur acc.1 lines w.1 w.2; (t, acc.2 ++ [(w.1, b)])) (s, [])

/-- All accesses of an item are issued: it ends when they are settled (R168). -/
def issued (s : State) (r : ItemRef) : State := s.modItem r (fun i => { i with stage := if i.over then i.stage else .issued, waitFor := .none })

/-! ## The whole chain -/

/-- The index LOADs that have data of their own, which are read first, and the others. -/
def ChainD.indexLoads (c : ChainD) : List Nat := c.loads.filter (fun i => !c.shares i && ldUse (c.s i) == useIndex)
def ChainD.dataLoads (c : ChainD) : List Nat := c.loads.filter (fun i => !c.shares i && ldUse (c.s i) != useIndex)

/-- What the LOADs read so far gave, and the element and scale bytes of each. -/
structure Loaded where
  s : State
  raw : Option (List (Nat × List (Option Nat) × List (List Byte) × List (Option Nat) × List (List Byte)))
  code : Option Nat

/-- The indices of an index LOAD from its raw bytes. -/
def Loaded.indices (l : Loaded) (i : Nat) : List Nat := match l.raw with
  | some ls => (match ls.find? (fun x => x.1 == i) with
    | some (_, _, rows, _, _) => let b := rows.headD []; (List.range (b.length / 4)).map (fun k => leNat ((b.drop (4 * k)).take 4))
    | none => [])
  | none => []

/-- One LOAD read. -/
def readLoad (c : ChainD) (r : ItemRef) (die : Option Nat) (bases : List (Nat × Nat)) (l : Loaded) (i : Nat) : Loaded :=
  let w := c.s i
  let h := c.loadShape i
  if ldTransform w = 2 ∧ l.raw.isNone then l
  else
    let ix := if ldTransform w = 2 then some (l.indices (ldIndex w)) else none
    let (ea, sa) := c.loadAddrs l.s.cfg.hostWindows bases i ix
    let d := if ldResident w then none else die
    let (s1, rows, c1) := readRows l.s r d ea h.bytes
    let (s2, scs, c2) := readRows s1 r d sa h.scaleBytes
    let raw := match l.raw, rows, scs with
      | some ls, some x, some y => some (ls ++ [(i, ea, x, sa, y)])
      | _, _, _ => none
    { s := s2, raw := raw, code := l.code <|> c1 <|> c2 }

/-- Ranges that the LOADs read. -/
def Loaded.ranges (l : Loaded) : List (Nat × Nat) := match l.raw with
  | some ls => ls.flatMap (fun (_, ea, x, sa, y) =>
      (ea.zip x).filterMap (fun (a, b) => a.map (fun v => (v, b.length))) ++ (sa.zip y).filterMap (fun (a, b) => a.map (fun v => (v, b.length))))
  | none => []

/-- Rows read, with arbitrary bytes in given lines (R255). -/
def blurRows (s : State) (dirty : List Nat) (as_ : List (Option Nat)) (bs : List (List Byte)) : State × List (List Byte) :=
  if dirty.isEmpty then (s, bs)
  else (as_.zip bs).foldl (fun (acc : State × List (List Byte)) p => match p.1 with
    | some a => let (t, b) := blur acc.1 dirty a p.2; (t, acc.2 ++ [b])
    | none => (acc.1, acc.2 ++ [p.2])) (s, [])

/-- What the LOADs read, with arbitrary bytes in lines that the chain's STOREs write (R255); LOADs among done have been through this. -/
def Loaded.blurred (l : Loaded) (dirty done : List Nat) : Loaded :=
  match l.raw with
  | none => l
  | some ls =>
    let out := ls.foldl (fun (acc : State × List (Nat × List (Option Nat) × List (List Byte) × List (Option Nat) × List (List Byte))) x =>
      let (i, ea, rows, sa, scs) := x
      if done.contains i then (acc.1, acc.2 ++ [x])
      else
        let (s, rows) := blurRows acc.1 dirty ea rows
        let (s, scs) := blurRows s dirty sa scs
        (s, acc.2 ++ [(i, ea, rows, sa, scs)])) (l.s, [])
    { l with s := out.1, raw := some out.2 }

/-- The LOAD values. -/
def loadVals (c : ChainD) (t1 : Bool) (l : Loaded) : List LoadVal :=
  let vals := (l.raw.getD []).map (fun x => let (i, _, rows, _, scs) := x; (i, c.loadVal t1 i rows scs))
  let find (i : Nat) : LoadVal := match vals.find? (fun p => p.1 == i) with
    | some p => p.2
    | none => default
  -- a BITS operand that shares the MAIN rows reads the bits of their bytes (R108, R110)
  let sharing (i : Nat) : LoadVal :=
    let v := find (c.mainLoad.getD 0)
    if c.role i = roleBits then
      { v with mask := v.nums.map (fun r => r.flatMap (fun x => let b := BitVec.ofInt 8 (numInt x); (List.range 8).map (fun k => b.getLsbD k))) }
    else v
  (List.range c.st.length).map (fun i => if c.shares i then sharing i else find i)

/-- The ranges that the STOREs write, at the rows that the indices read give a scatter (R111). -/
def ChainD.storeRanges (c : ChainD) (l : Loaded) : List (Nat × Nat) :=
  c.stores.flatMap (fun k =>
    let h := c.storeShape k
    let e := c.entry k
    (List.range h.rows).flatMap (fun j =>
      let d := if stScatter (c.s k) then (l.indices (stIndex (c.s k))).getD j noIndex else j
      if d = noIndex then []
      else (tnBase e + d * tnStride e, h.bytes)
        :: (if h.scaleRows = 0 then [] else [(tnBase e + tnScale e + d * roundUp h.scaleBytes 64, h.scaleBytes)])))

/-- The lines that the LOADs read and the STOREs write (R255). -/
def ChainD.sharedBy (c : ChainD) (l : Loaded) : List Nat :=
  let dests := c.storeRanges l
  if spansMeet l.ranges dests then (linesOf l.ranges).filter (fun x => (linesOf dests).contains x) else []

/-- Every LOAD of a chain: the index LOADs first, whose bytes in lines that the STOREs write are arbitrary before they place a row (R110,
R255). -/
def readLoads (s : State) (c : ChainD) (r : ItemRef) (die : Option Nat) (bases : List (Nat × Nat)) : Loaded :=
  let l := c.indexLoads.foldl (readLoad c r die bases) { s := s, raw := some [], code := none }
  c.dataLoads.foldl (readLoad c r die bases) (l.blurred (c.sharedBy l) [])

/-- The old rows of accumulating STOREs: their values, a wait, or a code. -/
def readOlds (s : State) (r : ItemRef) (die : Option Nat) (c : ChainD) (t1 : Bool) (rs : List StoreRow) : State × Option Olds × Option Nat :=
  let acc := (rs.filter (fun x => stAccumulate (c.s x.stage))).map (fun x => ((c.storeAddr s.cfg.hostWindows x).1, stFmt (c.s x.stage), x.vals.length))
  let todo := acc.dedup
  let (t, bss, code) := itemReads s r die (todo.map (fun (a, f, n) => (a, rowBytes f n)))
  (t, bss.map (fun l => (todo.zip l).map (fun ((a, f, n), bs) => (a, (unpackCodes (fmtWidth f) n bs).map (decodeElem t1 f)))), code)

/-- STAGE_TILEROW for every tile-row of a chain through its stage units, ⌈W / 256⌉ for a row and pass, on the Face that its row block runs on
(R98, R112). Where in the Pantry a stage unit keeps a tile-row is not stated: a free value (notes/assumptions/102.md). -/
def countTileRows (s : State) (i : Item) (c : ChainD) : State :=
  let units := (List.range c.st.length).filter (fun k => sKind (c.s k) != skLoad && sKind (c.s k) != skMatmul)
  (c.blocks.zip (List.range c.blocks.length)).foldl (fun s (b, n) =>
    let f := i.faces.getD (n % Nat.max 1 i.faces.length) 0
    units.foldl (fun s k =>
      (List.range ((b.2 - b.1) * ceilDiv (c.width k) 256 * c.passes k)).foldl (fun s _ =>
        count s { Occ.ofItem s i.ref (i.die.getD 0) 0x005 (masterFace (f % 2)) s.now with
          stage := k, pantry := some ((Config.arbitrary s.free).toNat % pantrySize) }) s) s) s

/-- A chain runs: its pins taken, it reads what its way is clear to, computes and stores (R97, R110, R111, R128, R253). -/
def runChain (s : State) (i : Item) : State :=
  let r := i.ref
  let c := chainD i.words
  match takePins s r (((c.loads.map c.entry).filter tnVersioned).map tnBase).dedup with
    | (s, .fail code) => failItem s r code none
    | (s, .wait) => s.modItem r (fun j => { j with waitFor := .pin })
    | (s, .ok bases) =>
      let s := s.modItem r (fun j => { j with waitFor := .none })
      let l := readLoads s c r i.die bases
      match l.code, l.raw with
      | some code, _ => failItem l.s r code none
      | none, none => l.s
      | none, some _ =>
        let t1 := isT1 l.s r.ctx
        let shared := c.sharedBy l
        let l := l.blurred shared c.indexLoads
        let s := l.s
        let e : Env := { c := c, t1 := t1, seed := (s.partCfg i.partition).seed.toNat, hosts := s.cfg.hostWindows, loads := loadVals c t1 l }
        let res := e.results
        let rows := c.storeRows e res.val
        match readOlds s r i.die c t1 rows with
        | (s, _, some code) => failItem s r code none
        | (s, none, none) => s
        | (s, some olds, none) =>
          let ws := c.allBytes e olds rows
          if storesHeld s r.ctx ws.val then s else
          let s := countTileRows (addFlags s r (res.fl ||| ws.fl)) i c
          let (s, bytes) := blurWrites s shared ws.val
          match writeRanges s r i.die bytes false with
          | (s, some code) => failItem s r code none
          | (s, none) =>
            releaseIssued (issued ((noteStores s (i.die.getD 0) bytes).modItem r (fun j => { j with rowBlocks := c.blocks.length })) r) r

/-- A running item of a kind. -/
def runningItem (s : State) (c seq kind : Nat) : Option Item := match s.item ⟨c, seq⟩ with
  | some i => if live s ∧ i.stage = .running ∧ kindOf i.words = kind then some i else none
  | none => none

/-- CHAIN: a chain that has its bank, its Pantry cost and its cores, their clocks running, runs (R116, R191, R199). -/
def execChain (c : CtxIx) (seq : Nat) (s : State) : Host.Outcome State Fault Refusal :=
  .next (match runningItem s c.val seq kChain with
    | some i => if coresAwake s i then runChain s i else s
    | none => s)

/-- PIN_RETRY: 1 µs after a pin could not be taken the record is read again (R128). -/
def execPinRetry (c : CtxIx) (seq : Nat) (s : State) : Host.Outcome State Fault Refusal :=
  .next (match runningItem s c.val seq kChain with
    | some i => if i.waitFor = .pin ∧ coresAwake s i then runChain (s.upTo (s.now + 1000)) i else s
    | none => s)

/-- PIN_RELEASE_RETRY: releases answered RETRY or unreachable are issued again 1 µs later (R131). -/
def execPinReleaseRetry (c : CtxIx) (s : State) : Host.Outcome State Fault Refusal :=
  .next (if s.up ∧ (s.ctx c.val).releases.isEmpty = false then retryReleases (s.upTo (s.now + 1000)) c.val else s)

end Sys2Proof.Machine
end

