-- ==== Sys2Proof/Machine/Face.lean ====
section
/-! DEFINITION. The Faces: operations and their turns (R59 to R74, R121), rows as they enter and emerge (R68 to R73), the rotating check, its
fence and the replay (R82 to R84, R397 to R404), idleness and ramps (R75 to R79). -/

namespace Sys2Proof.Machine

def State.modFace (s : State) (f : Nat) (g : Face → Face) : State := { s with faces := s.faces.modify f g }

/-! ## Time (R69, R375, R384) -/

/-- Face cycles of a row of one format (Table 2 of 03_faces.md). -/
def fmtCycles (c : Nat) : Nat := if c = 11 then 8 else if c = 9 ∨ c = 10 then 2 else 1

/-- Face cycles of a row of a product (R27, R58, R65). -/
def rowCycles (t1 : Bool) (a b : Nat) : Nat := Nat.max (fmtCycles a) (fmtCycles b) * (if t1 then 8 else 1)

/-- Face cycles of a LOAD (R66). -/
def loadCycles (l : FaceLoad) : Nat := ceilDiv (l.k * l.n * fmtWidth l.fmt.val) (8 * 256)

/-- Face cycles in which the spare reads one column of a tile (R83). -/
def checkReadCycles (l : FaceLoad) : Nat := ceilDiv (l.k * 64 * fmtWidth l.fmt.val) (8 * 256)

/-- Face cycles from a row's entry to its emergence (R69). -/
def faceLatency : Nat := 524

/-- The Face time of a Face's die now. -/
def unitNow (s : State) (f : Nat) : Nat := (s.die (f / 2)).unitsAt s.now

/-- The latest moment at which the Face had a given RUN time, as the rows that have entered show it. -/
def runClock (f : Face) (run now : Nat) : Nat := match ((f.inFlight.flatMap InFlight.entries).filter (fun e => e.run ≤ run)).getLast? with
  | some e => e.ns + (run - e.run)
  | none => now

/-! ## Operations (R59, R63, R74, R121) -/

def opItem : FaceOp → ItemRef
  | .load p => p.item
  | .stream p => p.item

/-- A LOAD within the limits of R59. -/
def loadOk (p : FaceLoad) : Bool :=
  fmtFace p.fmt.val && 1 ≤ p.k && p.k ≤ (if fmt4 p.fmt.val then 512 else 256) && 1 ≤ p.n && p.n ≤ 256 && p.base % 64 == 0
    && p.stride % 64 == 0 && rowBytes p.fmt.val p.n ≤ p.stride

/-- A STREAM against a tile within the limits of R59, R27 and R65. -/
def streamOk (p : FaceStream) (t : Tile) : Bool :=
  fmtFace p.fmt.val && (p.fmt.val == 0) == (t.load.fmt.val == 0) && 1 ≤ p.rows && p.rows ≤ 2 ^ 32 && p.base % 64 == 0
    && p.stride % 64 == 0 && rowBytes p.fmt.val t.load.k ≤ p.stride && t.load.k ≤ kExtent p.fmt.val t.load.fmt.val
    && (p.mode == .pass || p.accBase % 256 == 0)

/-- The sequencer's chain streams on the Face: a chain without MATMUL never occupies the array (R98). -/
def hasChain (s : State) (f sq : Nat) : Bool := match ((s.die (f / 2)).sequencers.getD sq ⟨none⟩).item with
  | some r => match s.item r with
    | some i => i.faces.contains f && !i.over && !(chainD i.words).matmuls.isEmpty
    | none => false
  | none => false

/-- A chain on both Faces runs its even row blocks on Face W and its odd ones on Face E (R98). -/
def blockOk (s : State) (f : Nat) (p : FaceStream) : Bool := match s.item p.item with
  | some i => i.faces.length ≤ 1 || p.block % 2 == f % 2
  | none => false

/-- The accumulator rows of a STREAM (R59, R68, R207): no more than the context's accumulator partition holds, and in Pantry bytes that are
neither the device area nor a resident region. DESIGN CHOICE: where a partition lies in the Pantry is open (notes/assumptions/95.md). -/
def accOk (s : State) (f : Nat) (p : FaceStream) (n : Nat) : Bool :=
  let len := p.rows * roundUp (5 * n) 64
  p.mode == .pass || (len ≤ accumSize s p.item.ctx && p.accBase + len ≤ pantrySize - pantryDevice
    && !s.cfg.regions.any (fun r => r.base < pantryBase + f / 2 * pantrySize + p.accBase + len && pantryBase + f / 2 * pantrySize + p.accBase < r.base + r.size))

/-- An operation comes from the chain of a sequencer. -/
def fromSequencer (s : State) (f sq : Nat) (o : FaceOp) : Bool :=
  hasChain s f sq && ((s.die (f / 2)).sequencers.getD sq ⟨none⟩).item == some (opItem o)

/-- Both sequencers of the die have chains that run on the Face (R121). -/
def shared (s : State) (f : Nat) : Bool := hasChain s f 0 && hasChain s f 1

/-- The tile that a STREAM would meet. -/
def streamTile (f : Face) (p : FaceStream) : Option Tile := if p.swap then f.shadow else f.active

/-! ## Pantry bytes a Face reads (R60) -/

/-- Pantry bytes of a die. -/
def pantryRead (s : State) (d a n : Nat) : List Byte := pantryBytes s.memory d a n

/-- Codes of K rows of a tile, and its scale rows: one byte a column for each group of 32 K indices. -/
def readTile (s : State) (d : Nat) (p : FaceLoad) : Tile :=
  let row (k : Nat) : List Nat := unpackCodes (fmtWidth p.fmt.val) p.n (pantryRead s d (p.base + k * p.stride) (rowBytes p.fmt.val p.n))
  let scale (g : Nat) : List Nat := (pantryRead s d (p.scaleBase + g * p.n) p.n).map BitVec.toNat
  { load := p, w := (List.range p.k).map row, scales := if fmtMX p.fmt.val then (List.range (ceilDiv p.k 32)).map scale else [] }

/-! ## Narrow and wide values (R35 to R38, R54, R397) -/

/-- One output's operands: the streamed row's values, the tile column's, and the scale of each group of each. -/
structure Operands where
  xs : List Num
  ws : List Num
  sx : List (Option Nat)
  sw : List (Option Nat)
  split : Bool

/-- Operands of output n of a row. -/
def operands (t1 : Bool) (fx : Nat) (codes rowScales : List Nat) (t : Tile) (n : Nat) : Operands :=
  let fw := t.load.fmt.val
  let groups := ceilDiv t.load.k 32
  { xs := codes.map (decodeElem t1 fx), ws := t.w.map (fun r => decodeElem t1 fw (r.getD n 0))
    sx := (List.range groups).map (fun g => if fmtMX fx then some (rowScales.getD g 127) else none)
    sw := (List.range groups).map (fun g => if fmtMX fw then some ((t.scales.getD g []).getD n 127) else none)
    split := prodKind fx fw == .split }

/-- A value of an accumulator row: 5 bytes, A40 or INT40 (R68). -/
def accCode (int : Bool) (x : Num) : BitVec 40 := if int then BitVec.ofInt 40 (numInt x) else BitVec.ofNat 40 (encodeFloat fmtA40 (x.toFmt fmtA40))
def accNum (int : Bool) (c : BitVec 40) : Num := if int then Num.ofInt c.toInt else decodeFloat fmtA40 c.toNat

/-- The tile result of an output. -/
def narrowOutput (t1 int : Bool) (o : Operands) : Fl Num :=
  if int then ⟨Num.ofInt (if t1 then t1Int o.xs o.ws else intOutput o.xs o.ws), 0⟩
  else if t1 then t1Output o.split o.xs o.ws
  else faceOutput o.split o.xs o.ws o.sx o.sw

/-- The accumulator's value and this tile's added (R36, R38); in T1-emulation each product is added in turn (R54). -/
def accumulate (t1 int : Bool) (acc : Num) (o : Operands) (tile : Num) : Fl Num :=
  if int then (if t1 then ⟨Num.ofInt (wrap32 (numInt acc + numInt tile)), 0⟩ else (satInt40 (numInt acc + numInt tile)).map Num.ofInt)
  else if t1 then
    (Fl.mapList (fun (q : Num × Num) => t1Term o.split q.1 q.2) (o.xs.zip o.ws)).bind fun ts =>
      Fl.foldl (fun a x => (Num.add a x).map (arRound true)) ⟨acc, nanFlag [acc]⟩ ts
  else guardNan [acc, tile] (addA acc tile)

/-- Exact products of one pair of operands: one, or the three pieces of the split (R50). -/
def wideTerms (split : Bool) (x w : Num) : List Num :=
  if split && !x.isNan && !w.isNan then (splitPieces x w).val else [(Num.mul x w).val]

/-- Scaled exact products of an output. -/
def wideProducts (o : Operands) : List Num :=
  ((o.xs.zip o.ws).zip (List.range o.xs.length)).flatMap (fun (q, k) =>
    let g := k / 32
    let a := o.sx.getD g none
    let b := o.sw.getD g none
    if nanGroup a b then [.nan] else (wideTerms o.split q.1 q.2).map (Num.scale2 (pairExp a b)))

/-- The wide path's format: a 64-bit fraction and the A40 exponent range. -/
def fmtWide : FloatFmt := ⟨10, 64, 511, .ieee, 0⟩

/-- The wide value of an output and A, the sum of the magnitudes of its scaled products (R397). DESIGN CHOICE: the sum is formed exactly and
rounded once to the wide format (notes/assumptions/101.md). -/
def wideOutput (o : Operands) : Num × Num :=
  let ps := wideProducts o
  let sum (l : List Num) : Num := l.foldl (fun a x => (Num.add a x).val) Num.zero
  ((sum ps).toFmt fmtWide, sum (ps.map Num.abs))

/-- The narrow and wide values agree (R397). -/
def agree (t1 int : Bool) (narrow wide a : Num) : Bool :=
  if narrow.isNan || wide.isNan then narrow.isNan && wide.isNan
  else if narrow.isInf || wide.isInf then narrow == wide
  else if int then Num.eq narrow wide
  else Num.le (Num.sub narrow wide).val.abs (a.scale2 (if t1 then -15 else -24))

/-- INT8 sums of a T1-emulation context wrap on the wide path too. -/
def wideFor (t1 int : Bool) (o : Operands) : Num × Num :=
  let (w, a) := wideOutput o
  (if t1 && int then Num.ofInt (wrap32 (numInt w)) else w, a)

/-! ## Mismatches, suspects and fences (R398 to R403) -/

/-- confirm_window and replay_interval in ns of RUN time (SAFETY_CFG). -/
def confirmNs (s : State) : Nat := bits s.cfg.safety 23 16 * 100000
def replayNs (s : State) : Nat := bits s.cfg.safety 31 24 * 100000

/-- The physical column of a presented one (R81). -/
def physicalCol (f : Face) (c : Nat) : Nat := if c < f.excluded.val then c else c + 1

/-- One mismatched output. -/
structure Mismatch where
  item : ItemRef
  row : Nat
  col : Nat
  output : Nat
  narrow : BitVec 40
  wide : Num
  a : Num

/-- Words 4 to 7 of FACE_CHECK and BENCH_REPLAY records (Table 3 of 15_integrity.md). -/
def mismatchWords (f : Nat) (m : Mismatch) : List W64 :=
  [wordOf [⟨63, 1, f % 2⟩, ⟨56, 2, m.col⟩, ⟨48, 8, m.output⟩, ⟨0, 32, m.row⟩], BitVec.ofNat 64 m.narrow.toNat,
   BitVec.ofNat 64 (roundEncode fmtFP64 m.wide), BitVec.ofNat 64 (roundEncode fmtFP64 m.a)]

/-- A confirmed fault: the Face is fenced, every unended item that has streamed a row on it ends QUARANTINED, and a FACE_FENCE record
with a retirement, or a fence entry where the spare is in use, is written (R399, R401). -/
def fenceFace (s : State) (f col code : Nat) : State :=
  let x := s.face f
  let users := (s.items.filter (fun i => !i.over && x.users.contains i.ref)).map (fun i =>
    (i.ref, Status.quarantined, code, 0))
  let s := s.modFace f (fun y => { y with fenced := true, inFlight := [], loading := none, pendingOp := none })
  let s := endMany s users
  let phys := physicalCol x col
  let w4 := wordOf [⟨63, 1, f % 2⟩, ⟨56, 2, col⟩, ⟨48, 3, phys⟩, ⟨40, 1, b2n (!x.spareYield)⟩]
  let s := raiseError s { cls := 0x0F, sev := sevUnit, unit := f / 2, item := none, ctx := none,
                          detail := [w4, BitVec.ofNat 64 (x.lastRotation / 40)] }
  let kind := if x.spareYield then 3 else 2
  let entry : LogEntry := { kind := kind, face := f, column := phys, cleared := false,
                            words := [BitVec.ofNat 64 kind, w4 ||| wordOf [⟨43, 5, f / 2⟩]] ++ List.replicate 6 0 }
  { s with gate := { s.gate with log := logAdd s.gate.log entry } }

/-- A mismatch of the check or of a replay at a RUN time: counted, recorded, the item QUARANTINED; a second one while the side is suspect
confirms the fault (R398, R399, R403). On a Face that is fenced already a mismatch of a sample still counts and is recorded. -/
def mismatched (s : State) (f run code cls : Nat) (m : Mismatch) (confirms : Bool) : State :=
  let s := s.modDie (f / 2) (fun d => if f % 2 = 0 then { d with mismatchW := satInc d.mismatchW } else { d with mismatchE := satInc d.mismatchE })
  let s := raiseError s { cls := cls, sev := sevItem, unit := f / 2, item := some m.item, ctx := none, detail := mismatchWords f m }
  let s := match s.item m.item with
    | some _ => endItem s m.item .quarantined code 0
    | none => s
  let s := s.modFace f (fun x => { x with rotMiss := true })
  if (s.face f).fenced then s
  else if confirms then fenceFace s f m.col code
  else s.modFace f (fun x => { x with
    suspect := true, suspectAt := run, watch := if x.spareYield then 2 else 0, quick := if x.spareYield then 2 else 0 })

/-! ## Rows (R64, R68 to R72) -/

/-- Bytes of an accumulator row (R68). -/
def accRowBytes (n : Nat) : Nat := roundUp (5 * n) 64

/-- An accumulator row of a Pantry. -/
def readAcc (s : State) (d a n : Nat) : List (BitVec 40) :=
  (List.range n).map (fun i => BitVec.ofNat 40 (leNat (pantryBytes s.memory d (a + 5 * i) 5)))

/-- An accumulator row written. -/
def writeAcc (s : State) (d a : Nat) (vs : List (BitVec 40)) : State :=
  s.modMem (fun m => pantryPut m d a (vs.flatMap (fun v => leBytes 5 v.toNat)))

/-- An accumulator row written as its row emerges: a Face operation can read it 16 Face cycles later (R72). -/
def storeAcc (s : State) (r : ItemRef) (d a unit : Nat) (vs : List (BitVec 40)) : State :=
  let n := accRowBytes vs.length
  (noteWritten (writeAcc s d a vs) d a n unit).modItem r (fun i => { i with areas := upsert (· == (a, a + n)) (a, a + n) i.areas })

/-- Latency of a stage unit in Face cycles (Table 7 of 04_chains.md). -/
def stageLatency (w : W64) : Nat :=
  let k := sKind w
  if k = skLoad then 0
  else if k = skScale ∨ k = skBias ∨ k = skMask then 4
  else if k = skDropout then 6
  else if k = skAct then 12
  else if k = skNorm then 20
  else if k = skSoftmax then 24
  else if k = skMatmul then faceLatency
  else 8

/-- Latency of the feed of a MATMUL. -/
def feedLatency : Nat := 8

/-- s of R73: from the output of a MATMUL stage of a chain to where the next MATMUL reads it, the feed included (R112). -/
def consumerLatency (ws : List W64) (stage : Nat) : Nat := match ((chainD ws).matmuls.filter (fun m => stage < m)).head? with
  | some m => ((List.range m).map (fun i => if stage < i then stageLatency ((chainD ws).s i) else 0)).sum + feedLatency
  | none => 0

/-- A closed row goes to the stage units of its chain; rows of chains that have ended are gone (R72, R73). -/
def sendClosed (s : State) (f : Nat) (p : FaceStream) (row unit : Nat) (vs : List (BitVec 40)) : State :=
  match s.item p.item with
  | some i =>
    let c : ClosedRow := { item := p.item, stage := p.stage, block := p.block, chunk := p.chunk, row := row,
                           readable := unit + cyc (consumerLatency i.words p.stage + settleCycles), out := vs }
    s.modFace f (fun x => { x with closed := x.closed.filter (fun c => match s.item c.item with
      | some i => !i.over
      | none => false) ++ [c] })
  | none => s

/-! ## The interlock (R71 to R73) -/

/-- Some row from lo on, of rows that are len bytes long and lie stride bytes apart from base on, meets the bytes from a to b. -/
def rowsMeet (base stride len lo rows a b : Nat) : Bool :=
  let past := if a < base + len then 0 else if stride = 0 then rows else (a - base - len) / stride + 1
  let j := Nat.max lo past
  decide (j < rows ∧ base + j * stride < b)

/-- Rows of a stream that have entered. -/
def InFlight.entered (x : InFlight) : Nat := x.next + x.entries.length

/-- Bytes of a streamed row, and of its scales. -/
def InFlight.rowLen (x : InFlight) : Nat := rowBytes x.stream.fmt.val x.tile.load.k
def InFlight.groups (x : InFlight) : Nat := if fmtMX x.stream.fmt.val then ceilDiv x.tile.load.k 32 else 0

/-- A stream reads, or writes, its accumulator rows (R68), or passes closed rows on. -/
def InFlight.readsAcc (x : InFlight) : Bool := x.stream.mode == .add || x.stream.mode == .addClose
def InFlight.writesAcc (x : InFlight) : Bool := x.stream.mode == .openAcc || x.stream.mode == .add
def InFlight.closes (x : InFlight) : Bool := x.stream.mode == .pass || x.stream.mode == .addClose

/-- The accumulator row of a stream's row i, from and up to. -/
def InFlight.accRow (x : InFlight) (i : Nat) : Nat × Nat :=
  let m := accRowBytes x.tile.load.n
  (x.stream.accBase + i * m, x.stream.accBase + (i + 1) * m)

/-- The granules that hold a stream's row i and its scales (R60, R71). -/
def InFlight.operand (x : InFlight) (i : Nat) : List (Nat × Nat) :=
  let p := x.stream
  granules (p.base + i * p.stride) x.rowLen :: (if x.groups = 0 then [] else [granules (p.scaleBase + i * x.groups) x.groups])

/-- Rows of a stream from lo on read bytes of the Pantry: granules of their own, or accumulator rows. -/
def InFlight.willRead (x : InFlight) (lo : Nat) (r : Nat × Nat) : Bool :=
  let p := x.stream
  let m := accRowBytes x.tile.load.n
  let g := granules r.1 (r.2 - r.1)
  rowsMeet p.base p.stride x.rowLen lo p.rows g.1 g.2 || (x.groups != 0 && rowsMeet p.scaleBase x.groups x.groups lo p.rows g.1 g.2)
    || (x.readsAcc && rowsMeet p.accBase m m lo p.rows r.1 r.2)

/-- Rows of a stream from lo on write bytes of the Pantry. -/
def InFlight.willWrite (x : InFlight) (lo : Nat) (r : Nat × Nat) : Bool :=
  let m := accRowBytes x.tile.load.n
  x.writesAcc && rowsMeet x.stream.accBase m m lo x.stream.rows r.1 r.2

/-- A chain of the same context, taken in before, that has stage work on the die still writes bytes of its Pantry (R71). -/
def stageWrites (s : State) (d : Nat) (r : ItemRef) (a : Nat × Nat) : Bool :=
  let w := pantryBase + d * pantrySize
  s.items.any (fun i => i.ref.ctx == r.ctx && i.ref.seq < r.seq && !i.over && i.die == some d && i.sequencer.isSome
    && i.writeSpan.any (fun v => isLocal s v.1 && offOf v.1 < w + a.2 && w + a.1 < offOf v.1 + v.2))

/-- When bytes of a die's Pantry that Faces or stage units wrote are readable by a Face operation (R72). -/
def readableAt (s : State) (d : Nat) (r : Nat × Nat) : Nat :=
  (s.die d).settling.foldl (fun t w => if w.1 < r.2 ∧ r.1 < w.2.1 then Nat.max t w.2.2 else t) 0

/-- Streams on a die's Faces that the Faces took before a number of their order, of a context (R71). -/
def earlierStreams (s : State) (d stamp ctx : Nat) : List InFlight :=
  ([s.face (2 * d), s.face (2 * d + 1)].flatMap Face.inFlight).filter (fun y => y.stamp < stamp && y.stream.item.ctx == ctx)

/-- LOADs in progress on a die's Faces that were taken before, of a context. -/
def earlierLoads (s : State) (d stamp ctx : Nat) : List (FaceLoad × Nat) :=
  [s.face (2 * d), s.face (2 * d + 1)].filterMap (fun y => y.loading.bind (fun l =>
    if y.loadStamp < stamp ∧ l.item.ctx = ctx then some (l, y.loadAt) else none))

/-- The rows of a chain's second product read what a closed row of its first becomes: that of their own K tile's chunks, or of every chunk where a
stage between the products holds whole rows (R73, R97). -/
def feeds (s : State) (y p : FaceStream) : Bool :=
  y.item == p.item && y.block == p.block && y.stage < p.stage && match s.item p.item with
    | some i =>
      let c := chainD i.words
      (List.range p.stage).any (fun k => y.stage < k && c.holds k) || y.chunk / 2 ^ c.pairsBetween == p.chunk
    | none => false

/-- Row i of a stream would read what rows of an earlier stream, from lo on, have still to write or pass on, or write what they have still to
read. -/
def waitsFor (s : State) (x : InFlight) (i : Nat) (y : InFlight) (lo : Nat) : Bool :=
  (x.operand i).any (y.willWrite lo) || (x.readsAcc && y.willWrite lo (x.accRow i)) || (x.writesAcc && y.willRead lo (x.accRow i))
    || (y.closes && feeds s y.stream x.stream && decide (lo ≤ i ∧ i < y.stream.rows))

/-- The Face time from which row i of a stream may enter, for a row j of an earlier stream that entered at a Face time: what j writes 524 Face
cycles after it entered is readable 16 later, by the row itself at its entry and by its accumulator add at its emergence (R69, R71 to
R73). -/
def afterRow (s : State) (x : InFlight) (i : Nat) (y : InFlight) (j unit : Nat) : Nat :=
  let ya := y.accRow j
  let own := if y.writesAcc && (x.operand i).any (rangeMeets ya) then unit + cyc (faceLatency + settleCycles) else 0
  let acc := if y.writesAcc && x.readsAcc && rangeMeets ya (x.accRow i) then unit + cyc settleCycles else 0
  let war := if x.writesAcc && (rangeMeets ya (x.accRow i) || (y.operand j).any (rangeMeets (x.accRow i))) then unit else 0
  let fed := if y.closes && j == i && feeds s y.stream x.stream then
      unit + cyc (faceLatency + settleCycles + match s.item x.stream.item with
        | some it => consumerLatency it.words y.stream.stage
        | none => 0)
    else 0
  maxOf [own, acc, war, fed]

/-- The Face time at which row i of a stream can enter: none while an earlier operation of its context, on either Face of the die or in its stage
units, has rows that must have entered first, or a replay still reads what it writes (R71 to R73, R402). What a chain's own prologue feeds
is in place before it streams (DESIGN CHOICE, notes/assumptions/121.md). -/
def entryAt (s : State) (f : Nat) (x : InFlight) (i : Nat) : Option Nat :=
  let d := f / 2
  let ctx := x.stream.item.ctx
  let before := earlierStreams s d x.stamp ctx
  let own := x.operand i
  if before.any (fun y => waitsFor s x i y y.entered) || own.any (stageWrites s d x.stream.item)
      || (x.writesAcc && (heldTiles s d ctx).any (rangeMeets (x.accRow i))) then none
  else
    let acc := if x.readsAcc then readableAt s d (x.accRow i) - cyc faceLatency else 0
    let rows := before.flatMap (fun y => (y.entries.zip (List.range y.entries.length)).map (fun (e, k) => afterRow s x i y (y.next + k) e.unit))
    let closed := ([s.face (2 * d), s.face (2 * d + 1)].flatMap Face.closed).map (fun c =>
      if c.row = i ∧ feeds s { x.stream with item := c.item, stage := c.stage, block := c.block, chunk := c.chunk } x.stream then c.readable else 0)
    let loads := (earlierLoads s d x.stamp ctx).map (fun l =>
      if x.writesAcc && (tileSpans l.1).any (rangeMeets (x.accRow i)) then l.2 - cyc faceLatency else 0)
    some (maxOf ([(s.face f).freeAt, x.takenUnit, acc] ++ own.map (readableAt s d) ++ rows ++ closed ++ loads))

/-- A row that has entered is ahead of rows of the other Face that are still to emerge and that it follows: its command comes after theirs
(R71, R73; notes/assumptions/14.md). -/
def emergeWaits (s : State) (f : Nat) (x : InFlight) : Bool :=
  let d := f / 2
  (earlierStreams s d x.stamp x.stream.item.ctx).any (fun y => waitsFor s x x.next y y.next)
    || (earlierLoads s d x.stamp x.stream.item.ctx).any (fun l => x.writesAcc && (tileSpans l.1).any (rangeMeets (x.accRow x.next)))

/-! ## Rows enter (R63, R64, R69, R76) -/

/-- The check moves to the next presented column; a full rotation ends when it comes back to column 0, and has passed when no mismatch came
in it (R83, R409). -/
def nextColumn (f : Face) (now run : Nat) : Face :=
  let wrapped := f.checkCol = 3
  { f with
    checkCol := f.checkCol + 1
    rotations := if wrapped then f.rotations + 1 else f.rotations
    lastRotation := if wrapped && !f.rotMiss then now else f.lastRotation
    rotMiss := f.rotMiss && !wrapped
    checkSince := run
    spare := none }

/-- The first row of a stream with swap 1 makes its tile active as it enters; the check goes on to the next column (R63, R83). -/
def swapIn (f : Face) (x : InFlight) (ns unit : Nat) : Face :=
  if x.stream.swap && x.entered == 0 then
    let z := { f with active := some x.tile, shadow := none }
    if z.suspect || z.spareYield then z else { nextColumn z ns z.runNs with checkFrom := unit }
  else f

/-- The next row of a Face's last stream enters at a Face time; Face cycles that it waited beyond its turn are counted (R71, R459). -/
def enterRow (s : State) (f : Nat) (x : InFlight) (unit : Nat) : State :=
  let d := s.die (f / 2)
  let stop := unit + cyc x.perRow
  let e : RowEntry := { unit := unit, ns := d.nsAt unit, run := (s.face f).runNs }
  let late := (unit - Nat.max (s.face f).freeAt x.takenUnit) / 40
  let r := x.stream.item
  let s := s.modFace f (fun y => let z := swapIn y x e.ns unit; { z with
    inFlight := z.inFlight.dropLast ++ [{ x with entries := x.entries ++ [e] }]
    runNs := z.runNs + (d.nsAt stop - e.ns)
    freeAt := stop
    idleSince := d.nsAt stop
    users := if z.users.contains r then z.users else z.users ++ [r] })
  let s := noteWork s r (f / 2)
  if late = 0 then s
  else count s { Occ.ofItem s r (f / 2) 0x004 (masterFace (f % 2)) e.ns with
    stage := x.stream.stage, weight := late, pantry := some (x.stream.base + x.entered * x.stream.stride) }

/-- Rows of an item that has ended enter no more (R171, R398). -/
def cutEnded (s : State) (f : Nat) : State :=
  let ended (r : ItemRef) : Bool := match s.item r with
    | some i => i.over
    | none => true
  s.modFace f (fun y => { y with inFlight := y.inFlight.filterMap (fun x =>
    if ended x.stream.item then (if x.entries.isEmpty then none else some { x with stream := { x.stream with rows := x.entered } }) else some x) })

/-- A Face's clock runs and no ramp holds its rows. -/
def Face.runs (f : Face) : Bool := !f.fenced && match f.state with
  | .run | .idleDummy => true
  | _ => false

/-- The stream whose rows are still to enter, if there is one, and when its next row can. -/
def nextEntry (s : State) (f : Nat) : Option (InFlight × Nat) := match (s.face f).inFlight.getLast? with
  | some x => if x.entered < x.stream.rows then (entryAt s f x x.entered).map (fun u => (x, u)) else none
  | none => none

/-- Rows of a Face enter, those that can up to a Face time when one is named; the first argument bounds their number. -/
def enterSome : Nat → Option Nat → State → Nat → State
  | 0, _, s, _ => s
  | n + 1, h, s, f => match nextEntry s f with
    | some (x, u) => if h.all (u ≤ ·) then enterSome n h (enterRow s f x u) f else s
    | none => s

/-- Rows of a Face that runs enter, up to a Face time when one is named. -/
def enterRows (h : Option Nat) (s : State) (f : Nat) : State :=
  let s := cutEnded s f
  match (s.face f).runs, (s.face f).inFlight.getLast? with
  | true, some x => enterSome (x.stream.rows - x.entered) h s f
  | _, _ => s

/-- The rows of a die's Faces that can have entered by now have. -/
def enterDie (s : State) (f : Nat) : State :=
  let other := f / 2 * 2 + (1 - f % 2)
  let now (s : State) (g : Nat) : State := enterRows (some (unitNow s g)) s g
  now (now (now s f) other) f

/-- Every row of a Face's streams has entered. -/
def allEntered (s : State) (f : Nat) : Bool := (s.face f).inFlight.all (fun x => x.stream.rows ≤ x.entered)

/-- The boundary at which the Face would take its next STREAM: when the last row of the one before it has entered and its Face cycles are over
(R74, R121). The rows do not enter where they have to wait for another Face. -/
def toBoundary (s : State) (f : Nat) : State :=
  let other := f / 2 * 2 + (1 - f % 2)
  let t := enterRows none (enterDie s f) f
  let t := t.upTo ((t.face f).idleFrom (t.die (f / 2)))
  enterRows none (enterRows (some (unitNow t other)) t other) f

/-- State of a Face now: RUN while an entered row takes Face cycles, IDLE_DUMMY otherwise, and while the next row waits (R75, R76). -/
def faceStateNow (s : State) (f : Nat) : FaceState :=
  let x := (enterDie s f).face f
  match x.state with
  | .run | .idleDummy => if x.freeAt ≤ unitNow s f then .idleDummy else .run
  | y => y

/-! ## Operations begin (R59, R63, R74, R78, R121) -/

/-- When a LOAD could begin to read its tile: none while an earlier operation of its context has rows still to enter, or stage work, that write
bytes of the tile or of its scales (R71, R72). -/
def loadFrom (s : State) (f : Nat) (p : FaceLoad) : Option Nat :=
  let d := f / 2
  let spans := tileSpans p
  let before := earlierStreams s d (s.die d).opStamp p.item.ctx
  if before.any (fun y => spans.any (y.willWrite y.entered)) || spans.any (stageWrites s d p.item) then none
  else
    let rows := before.flatMap (fun y => (y.entries.zip (List.range y.entries.length)).map (fun (e, k) =>
      if y.writesAcc && spans.any (rangeMeets (y.accRow (y.next + k))) then e.unit + cyc (faceLatency + settleCycles) else 0))
    some (maxOf (unitNow s f :: spans.map (readableAt s d) ++ rows))

/-- An operation is ready: a LOAD finds the shadow tile free and its bytes on their way, a STREAM the tile it needs, which its own chain loaded, and
every row before it entered (R63, R71, R98, R121). A Face that has stopped keeps its tiles (R79), so that this holds of it as of one that
runs. -/
def canBegin (s : State) (f : Nat) (o : FaceOp) : Bool :=
  let x := s.face f
  match o with
  | .load p => loadOk p && x.shadow.isNone && x.loading.isNone && (loadFrom s f p).isSome
  | .stream p => match streamTile x p with
    | some t => streamOk p t && accOk s f p t.load.n && blockOk s f p && t.load.item == p.item && (!shared s f || p.swap) && allEntered s f
    | none => false

/-- The state at the boundary at which the Face would take an operation: a LOAD's is now (R66, R74). -/
def atBoundary (s : State) (f : Nat) : FaceOp → State
  | .load _ => s
  | .stream _ => toBoundary s f

/-- The Face would take an operation at its boundary: none waits in it already (R78). -/
def ready (s : State) (f sq : Nat) (o : Option FaceOp) : Bool := match o with
  | some x => fromSequencer s f sq x && (s.face f).pendingOp.isNone && canBegin (atBoundary s f x) f x
  | none => false

/-- The sequencer whose operation the Face takes: that of its turn, else the other; in deterministic mode a sequencer that has a chain
is waited for (R74). -/
def chooseTurn (s : State) (f : Nat) (r0 r1 : Option FaceOp) : Option (Nat × FaceOp) :=
  let mine := if (s.face f).turn then 1 else 0
  let op (sq : Nat) : Option FaceOp := if sq = 0 then r0 else r1
  let take (sq : Nat) : Option (Nat × FaceOp) := if ready s f sq (op sq) then (op sq).map (fun o => (sq, o)) else none
  match take mine with
  | some x => some x
  | none => if dieDet s (f / 2) && hasChain s f mine then none else take (1 - mine)

/-- The next number in the order in which the Faces of a die take operations (R71). -/
def nextStamp (s : State) (f : Nat) : State × Nat :=
  (s.modDie (f / 2) (fun d => { d with opStamp := d.opStamp + 1 }), (s.die (f / 2)).opStamp)

/-- A LOAD begins, once the tile's bytes are readable (R66, R72). -/
def beginLoad (s : State) (f : Nat) (p : FaceLoad) : State :=
  let from_ := (loadFrom s f p).getD (unitNow s f)
  let (s, k) := nextStamp s f
  s.modFace f (fun x => { x with loading := some p, loadStamp := k, loadAt := from_ + cyc (loadCycles p), state := .run })

/-- A STREAM is taken at its boundary: its rows enter as they can, the first of them with the swap (R63, R64). -/
def beginStream (s : State) (f : Nat) (p : FaceStream) : State :=
  let s := toBoundary s f
  match streamTile (s.face f) p with
  | none => s
  | some t =>
    let c := rowCycles (isT1 s p.item.ctx) p.fmt.val t.load.fmt.val
    let (s, k) := nextStamp s f
    enterDie (s.modFace f (fun y => { y with
      state := .run
      inFlight := y.inFlight ++ [{ stamp := k, stream := p, tile := t, takenUnit := unitNow s f, perRow := c, next := 0, entries := [] }] })) f

/-- An operation begins on a Face whose clock runs. -/
def beginOp (s : State) (f : Nat) : FaceOp → State
  | .load p => beginLoad s f p
  | .stream p => beginStream s f p

/-- The sequencer whose turn is next: a LOAD and the STREAM that swaps its tile in are one turn (R74, R121). -/
def turnAfter (sq : Nat) : FaceOp → Bool
  | .load _ => sq = 1
  | .stream _ => sq = 0

/-- An operation that a Face took while it could not run, and that then had to wait again, begins as soon as it can; one whose item has ended is
gone (R63, R78). -/
def beginPending (s : State) (f : Nat) : State := match (s.face f).pendingOp with
  | none => s
  | some o =>
    let clear (s : State) : State := s.modFace f (fun y => { y with pendingOp := none })
    match s.item (opItem o) with
    | some i => if i.over then clear s else if canBegin (atBoundary s f o) f o then beginOp (clear s) f o else s
    | none => clear s

/-- When what waits in or in front of a Face can go on: its next row, or the operation that it took. -/
def waitingReady (s : State) (f : Nat) : Option Nat := match nextEntry s f, (s.face f).pendingOp with
  | some (_, u), _ => some u
  | none, some o => if canBegin s f o then some (unitNow s f) else none
  | none, none => none

/-- A Face that has stopped with something that waited in front of it ramps up once that is ready; one that ramps down latches the restart (R75,
R78). -/
def wakeFace (s : State) (f : Nat) : State :=
  let s := cutEnded s f
  match (s.face f).state, waitingReady s f with
  | .stopped, some u =>
    let s := s.upTo ((s.die (f / 2)).nsAt u)
    s.modFace f (fun x => { x with state := .rampUp, rampAt := s.now, columns := 1 })
  | .rampDown, some _ => s.modFace f (fun x => { x with restartLatched := true })
  | _, _ => s

/-- FACE_OPERATION_ISSUE: at an operation boundary the Face takes the operation of the sequencer whose turn it is; r0 and r1 are what the
two sequencers have ready. A stopped Face ramps up first, one that ramps down latches the restart (R74, R78). -/
def execFaceOperationIssue (f : FaceIx) (r0 r1 : Option FaceOp) (s : State) : Host.Outcome State Fault Refusal :=
  .next (if live s ∧ (s.face f.val).fenced = false then
    let s := wakeFace (enterDie s f.val) f.val
    let s := if (s.face f.val).runs then beginPending s f.val else s
    match chooseTurn s f.val r0 r1 with
    | none => s
    | some (sq, o) =>
      let s := s.modFace f.val (fun x => { x with turn := turnAfter sq o })
      match (s.face f.val).state with
      | .run | .idleDummy => beginOp s f.val o
      | .stopped => s.modFace f.val (fun x => { x with state := .rampUp, rampAt := s.now, columns := 1, pendingOp := some o })
      | .rampUp => s.modFace f.val (fun x => { x with pendingOp := some o })
      | .rampDown => s.modFace f.val (fun x => { x with restartLatched := true, pendingOp := some o })
  else s)

/-- What a Face meets in ranges of its die's Pantry, as an item's operand: nothing, or poison or an error, with its code (R173, R212). -/
def facePoison (s : State) (r : ItemRef) (d : Nat) (ranges : List (Nat × Nat)) : State × Option Nat :=
  ranges.foldl (fun (acc : State × Option Nat) a => match acc.2 with
    | none => pantryMeets acc.1 r d a.1 a.2
    | some _ => acc) (s, none)

/-- The rows of a tile and its scales, as offset and length. -/
def tileRows (p : FaceLoad) : List (Nat × Nat) :=
  (List.range p.k).map (fun k => (p.base + k * p.stride, rowBytes p.fmt.val p.n))
    ++ (if fmtMX p.fmt.val then [(p.scaleBase, ceilDiv p.k 32 * p.n)] else [])

/-- LOAD_COMPLETE: the shadow tile is fully loaded (R63, R66). Rows that write the tile have emerged before (R71). -/
def execLoadComplete (f : FaceIx) (s : State) : Host.Outcome State Fault Refusal :=
  .next (match (s.face f.val).loading with
    | some p =>
      let d := f.val / 2
      let barred := (earlierStreams s d (s.face f.val).loadStamp p.item.ctx).any (fun y => (tileSpans p).any (y.willWrite y.next))
      if live s ∧ barred = false then
        let s := s.upTo ((s.die d).nsAt (s.face f.val).loadAt)
        let s := s.modFace f.val (fun x => { x with shadow := some (readTile s d p), loading := none })
        let s := (List.range p.k).foldl (fun s k =>
          countPantry s (Occ.ofItem s p.item d 0x020 (masterFace (f.val % 2)) s.now) d (p.base + k * p.stride) (rowBytes p.fmt.val p.n)) s
        match facePoison s p.item d (tileRows p) with
        | (s, some c) => failItem s p.item c none
        | (s, none) => s
      else s
    | none => s)

/-- One row's outputs: the narrow tile results with the array's errors, what leaves the Face, and the flags. -/
structure RowOut where
  tile : List (BitVec 40)
  out : List (BitVec 40)
  fl : BitVec 8

/-- The outputs of a row against its tile under a mode. -/
def rowOut (t1 int : Bool) (mode : AccMode) (ops : List Operands) (old : List (BitVec 40)) (bad : NarrowFaults) : RowOut :=
  let tiles := Fl.mapList (narrowOutput t1 int) ops
  let codes := (tiles.val.zip (List.range ops.length)).map (fun (x, n) => match bad.find? (fun b => b.1 == n) with
    | some b => b.2
    | none => accCode int x)
  let adds := mode == .add || mode == .addClose
  if adds then
    let sums := Fl.mapList (fun (q : Operands × BitVec 40 × BitVec 40) => (accumulate t1 int (accNum int q.2.1) q.1 (accNum int q.2.2)).map (accCode int))
      (ops.zip (old.zip codes))
    -- in T1-emulation the tile by itself is formed for the check only: each product joins the accumulator (R54)
    { tile := codes, out := sums.val, fl := if t1 && !int then sums.fl else tiles.fl ||| sums.fl }
  else { tile := codes, out := codes, fl := tiles.fl }

/-- The first mirrored output of a row that does not agree (R82, R397). DESIGN CHOICE: the column is that mirrored when the row emerges
(notes/assumptions/15.md). -/
def checkRow (f : Face) (t1 int : Bool) (ops : List Operands) (tile : List (BitVec 40)) (item : ItemRef) (row : Nat) : Option Mismatch :=
  let c := f.checkCol.val
  let outs := (List.range 64).map (· + 64 * c)
  (outs.filter (· < ops.length)).findSome? (fun n => match ops[n]? with
    | some o =>
      let (w, a) := wideFor t1 int o
      let v := tile.getD n 0
      if agree t1 int (accNum int v) w a then none
      else some { item := item, row := row, col := c, output := n, narrow := v, wide := w, a := a }
    | none => none)

/-- Quanta of a replay (R404). -/
def replayQuanta (fx : Nat) (p : FaceLoad) : Nat :=
  ceilDiv (p.k * p.n * (if prodKind fx p.fmt.val = .split then 3 else 1)) 65536

/-- The row is taken as a replay sample when the interval has passed and the replay buffer, which holds one, is free (R402; DESIGN CHOICE,
notes/assumptions/122.md). -/
def takeSample (s : State) (f run : Nat) (x : Sample) : State :=
  let y := s.face f
  let gap := if 0 < y.quick then 100000 else replayNs s
  if y.spareYield && !y.fenced && y.samples.isEmpty && y.lastSample + gap ≤ run then
    (s.modFace f (fun z => { z with samples := [x], lastSample := run, quick := z.quick - 1 })).modItem x.item (fun i => { i with replays := i.replays + 1 })
  else s

/-- The row that emerges next has gone: a stream whose last row it was leaves the Face. -/
def stepRow (f : Face) : Face := match f.inFlight with
  | x :: rest =>
    if x.next + 1 < x.stream.rows then { f with inFlight := { x with next := x.next + 1, entries := x.entries.drop 1 } :: rest }
    else { f with inFlight := rest }
  | [] => f

/-- A row's events: it entered, it was compared (Table 2 of 18_counters.md). -/
def rowEvents (s : State) (f : Nat) (x : InFlight) (enteredAt row : Nat) (compared : Bool) : State :=
  let o (e : Nat) : Occ := { Occ.ofItem s x.stream.item (f / 2) e (masterFace (f % 2)) enteredAt with stage := x.stream.stage, latency := faceLatency }
  let p := x.stream
  let s := count s { o 0x001 with pantry := some (p.base + row * p.stride) }
  let s := count s { o 0x003 with weight := x.perRow }
  let s := countPantry s (o 0x020) (f / 2) (p.base + row * p.stride) (rowBytes p.fmt.val x.tile.load.k)
  let acc := accRowBytes x.tile.load.n
  let s := if p.mode = .openAcc ∨ p.mode = .pass then s else countPantry s (o 0x020) (f / 2) (p.accBase + row * acc) acc
  let s := if p.mode = .openAcc ∨ p.mode = .add then countPantry s (o 0x020) (f / 2) (p.accBase + row * acc) acc else s
  if compared then count s (o 0x080) else s

/-- What leaves the Face goes to the accumulator row or to the stage units; what a row of an ended item gives goes nowhere (R68, R171). -/
def sendRow (s : State) (f : Nat) (x : InFlight) (unit : Nat) (r : RowOut) : State := match s.item x.stream.item with
  | none => s
  | some it =>
    if it.over then s
    else
      let s := addFlags s it.ref r.fl
      if x.writesAcc then storeAcc s it.ref (f / 2) (x.accRow x.next).1 unit r.out else sendClosed s f x.stream x.next unit r.out

/-- The next row of a Face emerges, having entered as e says. DESIGN CHOICE: its Pantry bytes are read here (notes/assumptions/14.md), and a row that
emerges before the spare has its column's weights is not checked (notes/assumptions/15.md). The check compares rows of ended items
too (R398). -/
def emergeRow (s : State) (f : Nat) (x : InFlight) (e : RowEntry) (bad : NarrowFaults) : State :=
  let d := f / 2
  let p := x.stream
  let i := x.next
  let out := e.unit + cyc faceLatency
  let s := noteWork (s.modFace f stepRow) p.item d
  let ended : Bool := match s.item p.item with
    | some it => it.over
    | none => true
  let fx := p.fmt.val
  let t := x.tile
  let a := p.base + i * p.stride
  let n := rowBytes fx t.load.k
  let operand := (a, n) :: (if x.groups = 0 then [] else [(p.scaleBase + i * x.groups, x.groups)])
  match if ended then (s, none) else facePoison s p.item d operand with
  | (s, some c) => failItem s p.item c none
  | (s, none) =>
    let t1 := isT1 s p.item.ctx
    let int := fx == 0
    let codes := unpackCodes (fmtWidth fx) t.load.k (pantryRead s d a n)
    let rowScales := if fmtMX fx then (pantryRead s d (p.scaleBase + i * x.groups) x.groups).map BitVec.toNat else []
    let ops := (List.range t.load.n).map (operands t1 fx codes rowScales t)
    let r := rowOut t1 int p.mode ops (readAcc s d (x.accRow i).1 t.load.n) bad
    let y := s.face f
    let compared := !y.spareYield && y.checkFrom ≤ out
    let s := rowEvents s f x e.ns i compared
    -- a spare that advanced without a swap holds weights it read itself (R83)
    let wide := match y.spare with
      | some v => if v.load = t.load then (List.range t.load.n).map (operands t1 fx codes rowScales v) else ops
      | none => ops
    match if compared then checkRow y t1 int wide r.tile p.item i else none with
    | some m => mismatched s f e.run codeFaceCheck 0x0E m (y.suspect && e.run < y.suspectAt + confirmNs s)
    | none =>
      let s := takeSample s f e.run
        { item := p.item, row := i, codes := codes, rowScales := rowScales, narrow := r.tile, load := t.load, fmt := p.fmt, t1 := t1,
          takenAt := s.now, quanta := 2 * replayQuanta fx t.load }
      sendRow s f x out r

/-- The next row of a Face: it has entered, or enters now if it can, and emerges 524 Face cycles later; the rows that can have entered by then
have (R69, R71). -/
def emerge (s : State) (f : Nat) (bad : NarrowFaults) : State :=
  let s := enterDie s f
  let s := match (s.face f).inFlight with
    | [x] => if x.entries.isEmpty && (s.face f).runs then enterSome 1 none s f else s
    | _ => s
  match (s.face f).inFlight with
  | x :: _ => match x.entries with
    | e :: _ =>
      if emergeWaits s f x then s
      else
        let s := enterDie (s.upTo ((s.die (f / 2)).nsAt (e.unit + cyc faceLatency))) f
        emergeRow s f ((s.face f).inFlight.headD x) e bad
    | [] => s
  | [] => s

/-- ROW_EMERGE: the next row of a Face emerges 524 Face cycles after it entered (R69, R70); bad gives the outputs that the array got
wrong. In front of a stopped Face a row that has become ready begins RAMP_UP (R75). -/
def execRowEmerge (f : FaceIx) (bad : NarrowFaults) (s : State) : Host.Outcome State Fault Refusal :=
  .next (if live s then emerge (wakeFace s f.val) f.val bad else s)

/-! ## The check's rotation (R83, R398) -/

/-- The check goes to the next column without a swap: the spare reads that column's weights from the Pantry tile over the LOAD path, after any
LOAD in progress, and checks nothing until it has them (R83). -/
def advanceCheck (s : State) (f run : Nat) : State :=
  let x := s.face f
  let from_ := if x.loading.isSome then Nat.max (unitNow s f) x.loadAt else unitNow s f
  let len := match x.active with
    | some t => cyc (checkReadCycles t.load)
    | none => 0
  s.modFace f (fun y => { nextColumn y s.now run with checkFrom := from_ + len, spare := x.active.map (fun t => readTile s (f / 2) t.load) })

/-- CONFIRM_WINDOW_EXPIRY: confirm_window of RUN time has passed without a second mismatch (R398). -/
def execConfirmWindowExpiry (f : FaceIx) (s : State) : Host.Outcome State Fault Refusal :=
  .next (let x := s.face f.val
    let run := x.suspectAt + confirmNs s
    if live s ∧ x.suspect ∧ x.spareYield = false ∧ x.fenced = false ∧ run ≤ x.runNs then
      advanceCheck ((s.upTo (runClock x run s.now)).modFace f.val (fun y => { y with suspect := false })) f.val run
    else s)

/-- Nanoseconds of RUN time after which the check leaves a column (R83). -/
def checkNs : Nat := 62500

/-- CHECK_ADVANCE: the column has been mirrored for 62.5 µs of RUN time (R83). A suspect side stays on its column (R398), and a spare used by
yield checks nothing (R84). -/
def execCheckAdvance (f : FaceIx) (s : State) : Host.Outcome State Fault Refusal :=
  .next (let x := s.face f.val
    let run := x.checkSince + checkNs
    if live s ∧ x.suspect = false ∧ x.spareYield = false ∧ x.fenced = false ∧ run ≤ x.runNs then
      advanceCheck (s.upTo (runClock x run s.now)) f.val run
    else s)

/-! ## Replays (R402 to R404) -/

/-- Nanoseconds of a quantum of 4,096 Bench cycles (R200). -/
def quantumNs : Nat := 2048

/-- The first output of a sample that the replay does not agree with. -/
def replayRow (s : State) (f : Nat) (x : Sample) : Option Mismatch :=
  let int := x.fmt.val == 0
  let t := readTile s (f / 2) x.load
  (List.range x.load.n).findSome? (fun n =>
    let o := operands x.t1 x.fmt.val x.codes x.rowScales t n
    let (w, a) := wideFor x.t1 int o
    let v := x.narrow.getD n 0
    if agree x.t1 int (accNum int v) w a then none
    else some { item := x.item, row := x.row, col := 0, output := n, narrow := v, wide := w, a := a })

/-- REPLAY_COMPLETE: the sample's replay has compared every output (R403, R404). On a spare core it takes its quanta from the moment of
the sample, twice as long while deep is on (R381); on core 31 it has had them when BENCH_QUANTUM has given them all. A fenced Face's
sample still counts (R403). -/
def execReplayComplete (f : FaceIx) (s : State) : Host.Outcome State Fault Refusal :=
  .next (match (s.face f.val).samples with
    | x :: rest =>
      let spare : Bool := 1 ≤ (s.die (f.val / 2)).sparesFree
      if live s ∧ (spare = true ∨ x.quanta = 0) then
        let s := if spare then s.upTo (x.takenAt + x.quanta * quantumNs / (if s.hearth.deep then 1 else 2)) else s
        let y := s.face f.val
        let s := s.modFace f.val (fun z => { z with samples := rest, watch := z.watch - 1 })
        let s := s.modItem x.item (fun i => { i with replays := i.replays - 1 })
        let s := if x.takenAt + 4000000 < s.now then s.modDie (f.val / 2) (fun d => { d with replayLate := satInc d.replayLate }) else s
        match replayRow s f.val x with
        | some m => mismatched s f.val y.runNs codeReplay 0x10 m (0 < y.watch)
        | none => s.modFace f.val (fun z => { z with lastRotation := s.now, suspect := z.suspect && z.watch != 0 })
      else s
    | [] => s)

/-! ## Ramps (R77, R78) -/

/-- gap_threshold in ns (FACE_IDLE_CFG). -/
def gapNs (s : State) : Nat := bits s.cfg.faceIdle 15 0 * 100

/-- Nanoseconds between the steps of a ramp, and of a whole ramp. -/
def rampStepNs : Nat := 400
def rampNs : Nat := 2000

/-- RAMP_DOWN_BEGIN: the idle time has reached gap_threshold, every row that entered has emerged and no LOAD is in progress (R77). A row that can
enter before that ends the idle time (R76). -/
def execRampDownBegin (f : FaceIx) (s : State) : Host.Outcome State Fault Refusal :=
  .next (let gone (s : State) : Bool := (s.face f.val).inFlight.all (fun x => x.entries.isEmpty) && (s.face f.val).loading.isNone
    let x := s.face f.val
    if live s ∧ x.runs = true ∧ gone s = true then
      let t := enterDie (s.upTo (x.idleFrom (s.die (f.val / 2)) + gapNs s)) f.val
      if gone t then t.modFace f.val (fun y => { y with state := .rampDown, rampAt := t.now, columns := 4 }) else t
    else s)

/-- RAMP_COLUMN_STEP: the next of the five physical block columns is disabled or enabled, 0.4 µs after the one before (R77). -/
def execRampColumnStep (f : FaceIx) (s : State) : Host.Outcome State Fault Refusal :=
  .next (let x := s.face f.val
    if s.up ∧ x.state = .rampDown ∧ 0 < x.columns then
      (s.upTo (x.rampAt + rampStepNs * (5 - x.columns))).modFace f.val (fun y => { y with columns := y.columns - 1 })
    else if s.up ∧ x.state = .rampUp ∧ x.columns < 5 then
      (s.upTo (x.rampAt + rampStepNs * x.columns)).modFace f.val (fun y => { y with columns := y.columns + 1 })
    else s)

/-- RAMP_DOWN_COMPLETE: 2.0 µs after it began the clock stops; a latched restart begins RAMP_UP at once (R77, R78). -/
def execRampDownComplete (f : FaceIx) (s : State) : Host.Outcome State Fault Refusal :=
  .next (let x := s.face f.val
    if s.up ∧ x.state = .rampDown then
      let s := s.upTo (x.rampAt + rampNs)
      s.modFace f.val (fun y =>
        if y.restartLatched then { y with state := .rampUp, restartLatched := false, rampAt := s.now, columns := 1 }
        else { y with state := .stopped, columns := 0 })
    else s)

/-- RAMP_UP_COMPLETE: 2.0 µs after the ready operation arrived the Face runs, and the operation that waited enters; one that cannot yet waits on
(R63, R77, R78). -/
def execRampUpComplete (f : FaceIx) (s : State) : Host.Outcome State Fault Refusal :=
  .next (let x := s.face f.val
    if live s ∧ x.state = .rampUp then
      let s := s.upTo (x.rampAt + rampNs)
      beginPending (enterDie (s.modFace f.val (fun y => { y with
        state := .run, columns := 5, freeAt := unitNow s f.val, idleSince := s.now })) f.val) f.val
    else s)

end Sys2Proof.Machine
end

