-- ==== Sys2Proof/Machine/Haul.lean ====
section
/-! DEFINITION. HAUL items (R237 to R239), the pieces of chain LOADs on the engines (R233 to R236), and the engines' clocks (R392). -/

namespace Sys2Proof.Machine

/-! ## Reading and writing for an item that runs whole -/

/-- Lines that an item both reads and writes, where no rule of its kind orders the two (R255). -/
def sharedLines (reads writes : List (Nat × Nat)) : List Nat :=
  if spansMeet reads writes then (rangeLines reads).filter (fun l => (rangeLines writes).contains l) else []

/-- Byte ranges that a list of writes covers. -/
def writeSpans (ws : List (Nat × List Byte)) : List (Nat × Nat) := ws.map (fun w => (w.1, w.2.length))

/-- What a running item reads before it writes: the byte lists of its ranges, a wait, or a failure. -/
inductive Got where
  | ok (s : State) (bss : List (List Byte))
  | wait (s : State)
  | fail (s : State) (code : Nat)

/-- Ranges read at their homes for an item that runs on engines: an engine has no cache partition of its own. -/
def getRanges (s : State) (r : ItemRef) (die : Option Nat) (rs : List (Nat × Nat)) : Got :=
  match itemReads s r die rs with
  | (t, _, some c) => .fail t c
  | (t, none, none) => .wait t
  | (t, some bss, none) => .ok t bss

/-- An item whose way is clear writes its result: bytes in lines it also reads in no fixed order are arbitrary (R255), and it is
issued when every write is on its way. -/
def putRanges (s : State) (r : ItemRef) (die : Option Nat) (reads : List (Nat × Nat)) (ws : List (Nat × List Byte)) (exempt : Bool) : State :=
  let (s, ws) := blurWrites s (sharedLines reads (writeSpans ws)) ws
  match writeRanges s r die ws exempt with
  | (s, some code) => failItem s r code none
  | (s, none) => issued s r

/-- The bytes read, with arbitrary ones in lines that the item also writes in no fixed order (R255). -/
def blurReads (s : State) (reads writes : List (Nat × Nat)) (bss : List (List Byte)) : State × List (List Byte) :=
  let lines := sharedLines reads writes
  if lines.isEmpty then (s, bss)
  else (reads.zip bss).foldl (fun (acc : State × List (List Byte)) p => let (t, b) := blur acc.1 lines p.1.1 p.2; (t, acc.2 ++ [b])) (s, [])

/-- Rows of a shape: address and length of each. -/
def rowRanges (base stride rows len : Nat) : List (Nat × Nat) := (List.range rows).map (fun r => (base + r * stride, len))

/-- Unsigned 32-bit entries of a byte list. -/
def words32 (bs : List Byte) : List Nat := (List.range (bs.length / 4)).map (fun k => leNat ((bs.drop (4 * k)).take 4))

/-! ## COPY, FILL, GATHER, SCATTER, TRANSPOSE (R238) -/

/-- A move of rows: what it reads, and the writes it makes of what it read. -/
def moveRows (s : State) (i : Item) (reads : List (Nat × Nat)) (dests : List (Nat × Nat)) (f : List (List Byte) → List (Nat × List Byte)) : State :=
  match getRanges s i.ref none reads with
  | .fail s c => failItem s i.ref c none
  | .wait s => s
  | .ok s bss =>
    let (s, bss) := blurReads s reads dests bss
    putRanges s i.ref none reads (f bss) false

/-- Destination rows of a HAUL. -/
def haulDests (d : HaulD) : List (Nat × Nat) :=
  let (_, db, _, dr) := d.rowShape
  rowRanges d.dst d.dstStride dr db

/-- A running HAUL of an op. -/
def haulItem (s : State) (c seq op : Nat) : Option (Item × HaulD) := match runningItem s c seq kHaul with
  | some i => if (haulD i.words).op = op then some (i, haulD i.words) else none
  | none => none

/-- Each source row to the destination row of the same number. -/
def runCopy (s : State) (i : Item) (d : HaulD) : State :=
  moveRows s i (rowRanges d.src d.srcStride d.rows d.cols) (haulDests d) (fun bss => (haulDests d).zip bss |>.map (fun (p, b) => (p.1, b)))

/-- COPY (R238). -/
def execCopy (c : CtxIx) (seq : Nat) (s : State) : Host.Outcome State Fault Refusal :=
  .next (match haulItem s c.val seq 0 with
    | some (i, d) => runCopy s i d
    | none => s)

/-- FILL: byte k of each row is byte k mod 8 of the pattern (R237, R238). -/
def runFill (s : State) (i : Item) (d : HaulD) : State :=
  let p := leBytes 8 d.pattern.toNat
  let row := (List.range d.cols).map (fun k => p.getD (k % 8) 0)
  moveRows s i [] (haulDests d) (fun _ => (haulDests d).map (fun x => (x.1, row)))

/-- FILL (R238). -/
def execFill (c : CtxIx) (seq : Nat) (s : State) : Host.Outcome State Fault Refusal :=
  .next (match haulItem s c.val seq 4 with
    | some (i, d) => runFill s i d
    | none => s)

/-- The rows of a matrix of elements turned: R rows of C elements become C rows of R elements (R236). -/
def turnRows (width rows cols : Nat) (bss : List (List Byte)) : List (List Byte) :=
  (turn 0 cols (bss.map (unpackCodes width cols))).map (packCodes width) |>.map (fun b => padTo ((width * rows + 7) / 8) b)

/-- TRANSPOSE: element (r, c) goes to (c, r); an MX tensor's scale matrix is turned with it (R236, R238). -/
def runTranspose (s : State) (i : Item) (d : HaulD) : State :=
  let w := fmtWidth d.fmt
  let groups := ceilDiv d.cols 32
  let src := rowRanges d.src d.srcStride d.rows (rowBytes d.fmt d.cols)
  let srcScales := if fmtMX d.fmt then rowRanges (d.src + d.srcScale) (roundUp groups 64) d.rows groups else []
  let dstScales := if fmtMX d.fmt then rowRanges (d.dst + d.dstScale) (roundUp d.rows 64) groups d.rows else []
  moveRows s i (src ++ srcScales) (haulDests d ++ dstScales) (fun bss =>
    (haulDests d).zip (turnRows w d.rows d.cols (bss.take d.rows)) |>.map (fun (p, b) => (p.1, b))
      |>.append ((dstScales.zip (turn 0 groups (bss.drop d.rows))).map (fun (p, b) => (p.1, b))))

/-- TRANSPOSE (R238). -/
def execTranspose (c : CtxIx) (seq : Nat) (s : State) : Host.Outcome State Fault Refusal :=
  .next (match haulItem s c.val seq 1 with
    | some (i, d) => runTranspose s i d
    | none => s)

/-- GATHER: source row idx r to destination row r; index 0xFFFFFFFF writes a row of zeros (R238). -/
def runGather (s : State) (i : Item) (d : HaulD) : State :=
  match getRanges s i.ref none [(d.aux, 4 * d.rows)] with
  | .fail s c => failItem s i.ref c none
  | .wait s => s
  | .ok s ix =>
    let (s, ix) := blurReads s [(d.aux, 4 * d.rows)] (haulDests d) ix
    let addrs := rowAddrs s.cfg.hostWindows d.src d.srcStride d.rows d.cols (some (words32 (ix.headD [])))
    match readRows s i.ref none addrs d.cols with
    | (s, _, some c) => failItem s i.ref c none
    | (s, none, none) => s
    | (s, some rows, none) =>
      let src := addrs.map (fun a => (a.getD 0, if a.isSome then d.cols else 0))
      let (s, rows) := blurReads s src (haulDests d) rows
      putRanges s i.ref none ((d.aux, 4 * d.rows) :: src) ((haulDests d).zip rows |>.map (fun (p, b) => (p.1, b))) false

/-- GATHER (R238). -/
def execGather (c : CtxIx) (seq : Nat) (s : State) : Host.Outcome State Fault Refusal :=
  .next (match haulItem s c.val seq 2 with
    | some (i, d) => runGather s i d
    | none => s)

/-- SCATTER: source row r to destination row idx r, in ascending r; index 0xFFFFFFFF skips the row (R238). -/
def runScatter (s : State) (i : Item) (d : HaulD) : State :=
  let reads := (d.aux, 4 * d.rows) :: rowRanges d.src d.srcStride d.rows d.cols
  match getRanges s i.ref none reads with
  | .fail s c => failItem s i.ref c none
  | .wait s => s
  | .ok s bss =>
    let dests (l : List Byte) : List (Nat × Nat) :=
      (rowAddrs s.cfg.hostWindows d.dst d.dstStride d.rows d.cols (some (words32 l))).map (fun a => (a.getD 0, if a.isSome then d.cols else 0))
    let (s, bss) := blurReads s reads (dests (bss.headD [])) bss
    let ws := ((bss.drop 1).zip (dests (bss.headD []))).filterMap (fun (b, p) => if p.2 = 0 then none else some (p.1, b))
    putRanges s i.ref none reads ws false

/-- SCATTER (R238). -/
def execScatter (c : CtxIx) (seq : Nat) (s : State) : Host.Outcome State Fault Refusal :=
  .next (match haulItem s c.val seq 3 with
    | some (i, d) => runScatter s i d
    | none => s)

/-! ## ATOMIC (R228 to R230, R238) -/

/-- Local lines that an item reads and updates with atomics in no fixed order end with arbitrary bytes (R255). -/
def scrambleShared (s : State) (r : ItemRef) (lines : List Nat) : State := lines.foldl (fun s l => scrambleAt s r.ctx (64 * l) 64) s

/-- Elements of an ATOMIC in row-major order: location, operand and compare value. -/
def atomicElems (d : HaulD) (bss : List (List Byte)) : List (Nat × Nat × Nat) :=
  let w := atomicBytes d.aop
  let cas := d.aop / 2 == 9
  let e := if cas then 2 * w else w
  (bss.zip (List.range d.rows)).flatMap (fun (b, r) => (List.range d.cols).map (fun c =>
    let x := (b.drop (c * e)).take e
    let a := d.dst + r * d.dstStride + c * w
    if cas then (a, leNat (x.drop w), leNat (x.take w)) else (a, leNat x, 0)))

/-- ATOMIC: aop applied to each element in ascending row-major order (R238). -/
def runAtomic (s : State) (i : Item) (d : HaulD) : State :=
  let w := atomicBytes d.aop
  let (sb, _, _, _) := d.rowShape
  let reads := rowRanges d.src d.srcStride d.rows sb
  match getRanges s i.ref none reads with
  | .fail s c => failItem s i.ref c none
  | .wait s => s
  | .ok s bss =>
    let targets := rowRanges d.dst d.dstStride d.rows (d.cols * w)
    let olds := if d.ret then [(d.aux, d.rows * d.cols * w)] else []
    let (s, bss) := blurReads s reads (targets ++ olds) bss
    let s := s.modItem i.ref (fun j => { j with blur := sharedLines (reads ++ targets) olds })
    let es := atomicElems d bss
    let (s, code) := (es.zip (List.range es.length)).foldl (fun (acc : State × Option Nat) (e, n) => match acc.2 with
      | some _ => acc
      | none => itemAtomic acc.1 i.ref e.1 d.aop e.2.1 e.2.2 (if d.ret then some (d.aux + n * w) else none)) (s, none)
    match code with
    | some c => failItem s i.ref c none
    | none => issued (scrambleShared s i.ref (sharedLines reads targets ++ sharedLines olds targets)) i.ref

/-- ATOMIC (R238). -/
def execAtomic (c : CtxIx) (seq : Nat) (s : State) : Host.Outcome State Fault Refusal :=
  .next (match haulItem s c.val seq 5 with
    | some (i, d) => runAtomic s i d
    | none => s)

/-! ## Pieces of chain LOADs (R234 to R236) -/

def modEngines (s : State) (l : Nat) (tipple : Bool) (f : List Engine → List Engine) : State :=
  { s with landings := s.landings.modify l (fun x => if tipple then { x with tipple := f x.tipple } else { x with haul := f x.haul }) }

def Landing.queue (l : Landing) (tipple : Bool) : List (Nat × Piece) := if tipple then l.tippleQueue else l.haulQueue

def modQueue (s : State) (l : Nat) (tipple : Bool) (f : List (Nat × Piece) → List (Nat × Piece)) : State :=
  { s with landings := s.landings.modify l (fun x => if tipple then { x with tippleQueue := f x.tippleQueue } else { x with haulQueue := f x.haulQueue }) }

/-- Bytes of a piece. -/
def pieceBytes (p : Piece) : Nat := p.rows * ((p.cols * p.elemBits + 7) / 8)

/-- Pieces of a LOAD that wait or run anywhere. -/
def piecesOf (s : State) (r : ItemRef) (load : Nat) : Nat :=
  ((s.landings.flatMap (fun l => (l.haulQueue ++ l.tippleQueue).map Prod.snd ++ (l.haul ++ l.tipple).filterMap Engine.piece)).filter
    (fun p => p.item == r && p.load == load)).length

/-- A transposed piece is one Face tile: 256 elements each way, and twice that along K for 4-bit elements (R60, R65, R235). -/
def tilePiece (c : ChainD) (p : Piece) : Bool :=
  let w := c.s p.load
  let k := if fmt4 (ldFmt w) then 512 else 256
  if ldUse w == useStat1 || ldUse w == useStat2 then p.rows ≤ 256 && p.cols ≤ k else p.rows ≤ k && p.cols ≤ 256

/-- The rows that a piece reads are rows of its LOAD's tensor, or of its scale array, or parts of them: at the tensor's row stride, and one at
a time where an index places them (R236). The buffer of a versioned tensor is named by its record. -/
def pieceInTensor (c : ChainD) (p : Piece) : Bool :=
  let e := c.entry p.load
  let h := c.loadShape p.load
  let width := (p.cols * p.elemBits + 7) / 8
  let within (base stride rows bytes bits : Nat) : Bool :=
    p.elemBits == bits && (p.rows ≤ 1 || (p.srcStride == stride && !h.indexed)) && (tnVersioned e || (base ≤ p.src
      && (p.src - base) % Nat.max 1 stride + width ≤ bytes && (h.indexed || (p.src - base) / Nat.max 1 stride + p.rows ≤ rows)))
  within (tnBase e) (tnStride e) h.rows h.bytes (fmtWidth (ldFmt (c.s p.load)))
    || (h.scaleRows != 0 && within (tnBase e + tnScale e) (roundUp h.scaleBytes 64) h.scaleRows h.scaleBytes 8)

/-- A piece that a LOAD of a running chain may send to an engine kind of a Landing: piece t of a LOAD on die n goes to Landing (n + t) mod 12;
a Haul engine takes transform NONE and a Tipple engine the others; a transpose is one Face tile, any other piece at most 64 KiB; and at most 4
of the LOAD are in flight (R235). -/
def pieceOk (s : State) (l : Nat) (tipple : Bool) (p : Piece) : Bool :=
  (p.transpose || pieceBytes p ≤ 65536) && 0 < p.elemBits
    && l == (p.dstDie.val + p.index) % 12
    && match s.item p.item with
      | some i =>
        let c := chainD i.words
        let transform := ldTransform (c.s p.load)
        !i.over && kindOf i.words == kChain && i.stage != .queued && i.die == some p.dstDie.val && c.loads.contains p.load
          && tipple == (transform != 0) && p.transpose == (transform == 1) && (!p.transpose || tilePiece c p) && pieceInTensor c p
          && piecesOf s p.item p.load < 4
      | none => false

/-- An item that wants engines of a Landing became ready before a time: it comes first where none of the kind is reserved for pieces (R234). -/
def itemBefore (s : State) (l : Nat) (tipple : Bool) (t : Nat) : Bool :=
  s.items.any (fun i => engineCandidate s l tipple i && readyAt s i < t && (namedLanding i == some l || bestLanding s tipple (readyAt s i) == l))

/-- The engine that a piece which arrived at a time takes: a free chain engine, or any free item engine where none of its kind is reserved and
no item was ready before it (R234). -/
def pieceEngine (s : State) (l : Nat) (tipple : Bool) (t : Nat) : Option Nat :=
  let free (m : Nat) : Option Nat := (List.range m).find? (fun e => (((s.landing l).engines tipple).getD e Engine.cold).busy.isNone)
  if chainEngines s tipple ≠ 0 then free (chainEngines s tipple)
  else if itemBefore s l tipple t then none
  else free (if tipple then 4 else 16)

/-- LOAD_PIECE_DISPATCH: a piece that arrives joins its Landing's queue, and the first waiting piece takes an engine (R234, R235). Pieces of
chains that have ended are forgotten (R171). -/
def execLoadPieceDispatch (l : LandIx) (k : EngineKind) (arrival : Option Piece) (s : State) : Host.Outcome State Fault Refusal :=
  .next (if live s then
    let tipple := k == .tipple
    let s := match arrival with
      | some p => if pieceOk s l.val tipple p then modQueue s l.val tipple (fun q => q ++ [(s.now, p)]) else s
      | none => s
    let s := modQueue s l.val tipple (fun q => q.filter (fun p => match s.item p.2.item with
      | some i => !i.over
      | none => false))
    match (s.landing l.val).queue tipple with
    | [] => s
    | (t, p) :: rest => match pieceEngine s l.val tipple t with
      | none => s
      | some e => modEngines (modQueue s l.val tipple (fun _ => rest)) l.val tipple (fun es => es.modify e (fun x => { x with busy := some p.item, piece := some p, clock := true }))
  else s)

/-- An engine's piece is over: the engine is free. -/
def freeEngine (s : State) (l : Nat) (tipple : Bool) (e : Nat) : State :=
  modEngines s l tipple (fun es => es.modify e (fun x => { x with busy := none, piece := none, idleSince := s.now }))

/-- The rows that a piece writes into its Pantry, from the rows it read. -/
def pieceRows (p : Piece) (bss : List (List Byte)) : List (List Byte) :=
  if p.transpose then turnRows p.elemBits p.rows p.cols bss else bss

/-- A piece's bytes moved: read at their homes, written into the Pantry of its die (R233, R236), once no replay still reads there (R402). -/
def movePiece (s : State) (l : Nat) (tipple : Bool) (e : Nat) (p : Piece) : State :=
  if tileHeld s p.dstDie.val p.item.ctx p.dst (if p.transpose then rowsLen p.cols p.dstStride ((p.rows * p.elemBits + 7) / 8)
      else rowsLen p.rows p.dstStride ((p.cols * p.elemBits + 7) / 8)) then s
  else match getRanges s p.item none (rowRanges p.src p.srcStride p.rows ((p.cols * p.elemBits + 7) / 8)) with
  | .fail s c => freeEngine (failItem s p.item c none) l tipple e
  | .wait s => s
  | .ok s bss =>
    let d := p.dstDie.val
    let rows := pieceRows p bss
    let s := s.modMem (fun m => (rows.zip (List.range rows.length)).foldl (fun m (b, r) => pantryPut m d (p.dst + r * p.dstStride) b) m)
    let ends := (List.range rows.length).map (fun r => p.dst + r * p.dstStride + (rows.getD r []).length)
    let s := s.modItem p.item (fun i => { i with areas := i.areas ++ [(p.dst, maxOf (p.dst :: ends))] })
    let o := { Occ.ofItem s p.item (76 + l) 0x036 (if tipple then masterTipple e else masterHaul e) s.now with
      lomium := some (s.deviceNumber * 2 ^ 48 + pantryBase + d * pantrySize + p.dst) }
    let s := (rows.zip (List.range rows.length)).foldl (fun s (b, r) => countPantry s { o with lomium := none } d (p.dst + r * p.dstStride) b.length) s
    freeEngine (count s o) l tipple e

/-- ENGINE_PIECE_COMPLETE: the piece on an engine is complete, and the engine is released (R234, R236). A piece whose chain has ended writes
nothing. -/
def execEnginePieceComplete (l : LandIx) (k : EngineKind) (engine : Nat) (s : State) : Host.Outcome State Fault Refusal :=
  .next (let tipple := k == .tipple
    if s.up ∧ s.boot.creset = none then
      match (((s.landing l.val).engines tipple).getD engine Engine.cold).piece with
      | some p => match s.item p.item with
        | some i => if i.over then freeEngine s l.val tipple engine else movePiece s l.val tipple engine p
        | none => freeEngine s l.val tipple engine
      | none => s
    else s)

/-- ENGINE_CLOCK_STOP: an engine that has been idle for 1 µs stops its clock in 0.05 µs (R392). -/
def execEngineClockStop (l : LandIx) (k : EngineKind) (engine : Nat) (s : State) : Host.Outcome State Fault Refusal :=
  .next (let tipple := k == .tipple
    let e := ((s.landing l.val).engines tipple).getD engine Engine.cold
    if s.up ∧ e.clock = true ∧ e.busy = none then
      modEngines (s.upTo (e.idleSince + 1050)) l.val tipple (fun es => es.modify engine (fun x => { x with clock := false }))
    else s)

end Sys2Proof.Machine
end

