-- ==== Sys2Proof/Machine/Bench.lean ====
section
/-! DEFINITION. The Bench: its functions as BENCH items call them (R123, R124, R194 to R197), its cores' clocks (R191) and quantum
boundaries (R200 to R204). -/

namespace Sys2Proof.Machine

/-! ## FP64 and FP32 on the Bench (R40, Table 3 of 02_arithmetic.md) -/

/-- A result rounded to a Bench format. A NaN operand propagates and sets nan_in; a NaN made here sets invalid. -/
def benchOp (f : FloatFmt) (ops : List Num) (x : Fl Num) : Fl Num := guardNan ops (x.map (fun v => v.toFmt f))

def add64 (a b : Num) : Fl Num := benchOp fmtFP64 [a, b] (Num.add a b)
def sub64 (a b : Num) : Fl Num := benchOp fmtFP64 [a, b] (Num.sub a b)
def mul64 (a b : Num) : Fl Num := benchOp fmtFP64 [a, b] (Num.mul a b)
def div64 (a b : Num) : Fl Num := benchOp fmtFP64 [a, b] (Num.div a b)
def sqrt64 (a : Num) : Fl Num := benchOp fmtFP64 [a] (Num.sqrt a)

def add32 (a b : Num) : Fl Num := benchOp fmtFP32 [a, b] (Num.add a b)
def mul32 (a b : Num) : Fl Num := benchOp fmtFP32 [a, b] (Num.mul a b)
def div32 (a b : Num) : Fl Num := benchOp fmtFP32 [a, b] (Num.div a b)
def sqrt32 (a : Num) : Fl Num := benchOp fmtFP32 [a] (Num.sqrt a)

/-- Fused multiply-add, unrounded between its multiply and add. -/
def fmaOp (f : FloatFmt) (a b c : Num) : Fl Num := benchOp f [a, b, c] ((Num.mul a b).bind fun p => Num.add p c)

/-- A sum in ascending order with one FP64 rounding per addition, beginning with the first element. -/
def sum64 (xs : List Num) : Fl Num := match xs with
  | [] => ⟨Num.zero, 0⟩
  | y :: ys => Fl.foldl add64 ⟨y, nanFlag [y]⟩ ys

/-- The FP64 sum divided by the count. -/
def mean64 (xs : List Num) : Fl Num := (sum64 xs).bind fun s => div64 s (Num.ofNat xs.length)

/-- A number from an FP32 code. -/
def fp32 (c : Nat) : Num := decodeFloat fmtFP32 c

/-! ## NORM_BWD (R123) -/

/-- What NORM_BWD keeps of one group of a row: rstd-scaled inputs and the gradient of each column. -/
structure NormBack where
  xhat : List Num
  dx : List Num

/-- One group of a row: x, dy and γ of its columns. -/
def normBack (layer : Bool) (eps : Num) (xs dys gs : List Num) : Fl NormBack :=
  (if layer then mean64 xs else ⟨Num.zero, 0⟩).bind fun mean =>
  (if layer then Fl.mapList (fun x => sub64 x mean) xs else ⟨xs, 0⟩).bind fun ds =>
  (Fl.mapList (fun d => mul64 d d) ds).bind fun qs => (mean64 qs).bind fun v => (add64 v eps).bind fun w =>
  (sqrt64 w).bind fun r => (div64 Num.one r).bind fun rstd =>
  (Fl.mapList (fun d => mul64 d rstd) ds).bind fun xhat =>
  (Fl.mapList (fun (p : Num × Num) => mul64 p.1 p.2) (gs.zip dys)).bind fun g =>
  (if layer then mean64 g else ⟨Num.zero, 0⟩).bind fun a =>
  (Fl.mapList (fun (p : Num × Num) => mul64 p.1 p.2) (g.zip xhat)).bind fun gx => (mean64 gx).bind fun b =>
  (Fl.mapList (fun (p : Num × Num) =>
    (if layer then sub64 p.1 a else ⟨p.1, 0⟩).bind fun u => (mul64 p.2 b).bind fun t => (sub64 u t).bind fun z => mul64 rstd z)
    (g.zip xhat)).map fun dx => { xhat := xhat, dx := dx }

/-- A whole row in groups of the given width. -/
def normBackRow (layer : Bool) (eps : Num) (width : Nat) (xs dys gs : List Num) : Fl NormBack :=
  let cut (l : List Num) := chunksOf (l.length + 1) width l
  (Fl.mapList (fun (p : List Num × List Num × List Num) => normBack layer eps p.1 p.2.1 p.2.2) ((cut xs).zip ((cut dys).zip (cut gs)))).map
    fun l => { xhat := l.flatMap NormBack.xhat, dx := l.flatMap NormBack.dx }

/-- Column sums in ascending row order. -/
def columnSums (cols : Nat) (rows : List (List Num)) : Fl (List Num) := Fl.mapList sum64 (turn Num.zero cols rows)

/-! ## SOFTMAX_BWD (R124) -/

/-- The exponential in FP64, within 2^-50. -/
def exp64 (x : Num) : Fl Num := if x.isNan then ⟨.nan, flNanIn⟩ else ⟨prim .exp64 x, 0⟩

/-- One row. -/
def softmaxBack (xs dys : List Num) : Fl (List Num) :=
  if xs.all (· == .inf true) then ⟨xs.map (fun _ => Num.zero), 0⟩
  else
    let m := extreme 2 xs
    (Fl.mapList (fun x => (sub64 x m).bind exp64) xs).bind fun es => (sum64 es).bind fun l =>
    (Fl.mapList (fun e => div64 e l) es).bind fun ps =>
    (Fl.mapList (fun (p : Num × Num) => mul64 p.1 p.2) (dys.zip ps)).bind fun ts => (sum64 ts).bind fun d =>
    Fl.mapList (fun (q : Num × Num × Num) =>
      if q.1 = .inf true then ⟨Num.zero, 0⟩ else (sub64 q.2.1 d).bind fun u => mul64 q.2.2 u) (xs.zip (dys.zip ps))

/-! ## ROW_STATS -/

/-- Words 0 to 5 of a record: sum, sumsq, max, min, amax, mean. -/
def rowStats (xs : List Num) : Fl (List Num) :=
  if xs.any Num.isNan then ⟨List.replicate 6 .nan, flNanIn⟩
  else
    (sum64 xs).bind fun s => (Fl.mapList (fun x => mul64 x x) xs).bind fun qs => (sum64 qs).bind fun q =>
    (div64 s (Num.ofNat xs.length)).map fun mean => [s, q, extreme 2 xs, extreme 3 xs, extreme 4 xs, mean]

/-- The 64 bytes of a record: six FP64 values, the column count, 0. -/
def statsBytes (cols : Nat) (vs : List Num) : List Byte :=
  wordsBytes (vs.map (fun v => BitVec.ofNat 64 (roundEncode fmtFP64 v)) ++ [BitVec.ofNat 64 cols, 0])

/-- inf_out where an FP64 value that is written is an infinity (R42). -/
def infFlag (vs : List Num) : BitVec 8 := flagIf (vs.any Num.isInf) flInfOut

/-! ## Running a BENCH -/

/-- A BENCH item of a function that has its cores, their clocks running. -/
def benchItem (s : State) (c seq fn : Nat) : Option (Item × BenchD) := match runningItem s c seq kBench with
  | some i => if (benchD i.words).fn = fn ∧ coresAwake s i then some (i, benchD i.words) else none
  | none => none

/-- Rows of an input in its format. An MX operand of a BENCH has no stated place for its scales: each block's is a free value. -/
def benchRows (s : State) (t1 : Bool) (fmt cols : Nat) (bss : List (List Byte)) : State × List (List Num) :=
  let codes := bss.map (unpackCodes (fmtWidth fmt) cols)
  let sc := if fmtMX fmt then freeScales bss bss.length (ceilDiv cols 32) else []
  (s, (codes.zip (List.range codes.length)).map (fun (r, j) => rowNums t1 fmt r (sc.getD j [])))

/-- A BENCH reads its ranges and writes what it computes of them. -/
def benchRun (s : State) (i : Item) (reads dests : List (Nat × Nat)) (f : State → List (List Byte) → State × Fl (List (Nat × List Byte))) : State :=
  match getRanges s i.ref i.die reads with
  | .fail s c => failItem s i.ref c none
  | .wait s => s
  | .ok s bss =>
    let (s, bss) := blurReads s reads dests bss
    let (s, out) := f s bss
    putRanges (addFlags s i.ref out.fl) i.ref i.die reads out.val false

/-- Rounding draws of a BENCH. -/
def benchSr (s : State) (i : Item) (d : BenchD) : Sr := ⟨d.sr, (s.partCfg i.partition).seed.toNat, d.stream, d.step⟩

/-- Rows of results converted into the destination format and packed. -/
def benchOut (s : State) (i : Item) (d : BenchD) (sr : Sr) (rows : List (List Num)) : Fl (List (Nat × List Byte)) :=
  Fl.mapList (fun (p : List Num × Nat) =>
    (convRow d.fmtOut sr d.nonsat (isT1 s i.ref.ctx) (d.indexBase + p.2 * d.cols) p.1).map (fun q =>
      (d.dst0 + p.2 * d.outStride, packCodes (fmtWidth d.fmtOut) q.1))) (rows.zip (List.range rows.length))

/-- One FP32 gradient array: its old values and the column sums added once (R123). -/
def gradOut (d : BenchD) (a : Nat) (old : List Byte) (sums : List Num) : Fl (Nat × List Byte) :=
  (Fl.mapList (fun (p : Nat × Num) =>
    let o := fp32 p.1
    (guardNan [o, p.2] (Num.add o p.2)).bind (convElem ⟨.nearest, d.nonsat, false⟩ 11)) ((words32 old).zip sums)).map
    (fun cs => (a, packCodes 32 cs))

/-- NORM_BWD on the bytes read: x rows, dy rows, γ, then the old gradient buffers. -/
def normBwdOut (s : State) (i : Item) (d : BenchD) (bss : List (List Byte)) : State × Fl (List (Nat × List Byte)) :=
  let (s, xs) := benchRows s false d.fmtIn d.cols (bss.take d.rows)
  let (s, dys) := benchRows s false d.fmtIn d.cols ((bss.drop d.rows).take d.rows)
  let rest := bss.drop (2 * d.rows)
  let gamma : List Num := if d.src2 = 0 then List.replicate d.cols Num.one else (words32 (rest.headD [])).map fp32
  let olds := if d.src2 = 0 then rest else rest.drop 1
  let back := Fl.mapList (fun (p : List Num × List Num) => normBackRow d.layer (fp32 d.p0) d.group p.1 p.2 gamma) (xs.zip dys)
  let out : Fl (List (Nat × List Byte)) := back.bind fun bs =>
    (benchOut s i d { benchSr s i d with on := false } (bs.map NormBack.dx)).bind fun dx =>
    if d.dst1 = 0 then ⟨dx, 0⟩
    else
      (Fl.mapList (fun (p : NormBack × List Num) => Fl.mapList (fun (q : Num × Num) => mul64 q.1 q.2) (p.2.zip p.1.xhat)) (bs.zip dys)).bind fun gx =>
      (columnSums d.cols gx).bind fun dg => (gradOut d d.dst1 (olds.headD []) dg).bind fun wg =>
      if d.layer then
        (columnSums d.cols dys).bind fun db =>
          (gradOut d (d.dst1 + roundUp (4 * d.cols) 64) ((olds.drop 1).headD []) db).map fun wb => dx ++ [wg, wb]
      else ⟨dx ++ [wg], 0⟩
  (s, out)

/-- Rows that a two-operand backward function reads. -/
def backReads (d : BenchD) : List (Nat × Nat) :=
  let n := rowBytes d.fmtIn d.cols
  rowRanges d.src0 d.inStride d.rows n ++ rowRanges d.src1 d.inStride d.rows n

/-- Destination rows. -/
def benchDests (d : BenchD) : List (Nat × Nat) := rowRanges d.dst0 d.outStride d.rows (rowBytes d.fmtOut d.cols)

/-- The gradient arrays of a NORM_BWD. -/
def gradRanges (d : BenchD) : List (Nat × Nat) :=
  if d.dst1 = 0 then [] else (d.dst1, 4 * d.cols) :: (if d.layer then [(d.dst1 + roundUp (4 * d.cols) 64, 4 * d.cols)] else [])

/-- NORM_BWD (R123). -/
def execNormBwd (c : CtxIx) (seq : Nat) (s : State) : Host.Outcome State Fault Refusal :=
  .next (match benchItem s c.val seq 1 with
    | some (i, d) =>
      let reads := backReads d ++ (if d.src2 = 0 then [] else [(d.src2, 4 * d.cols)])
      benchRun s i (reads ++ gradRanges d) (benchDests d) (fun s bss => normBwdOut s i d bss)
    | none => s)

/-- SOFTMAX_BWD on the bytes read. -/
def softmaxBwdOut (s : State) (i : Item) (d : BenchD) (bss : List (List Byte)) : State × Fl (List (Nat × List Byte)) :=
  let (s, xs) := benchRows s false d.fmtIn d.cols (bss.take d.rows)
  let (s, dys) := benchRows s false d.fmtIn d.cols (bss.drop d.rows)
  (s, (Fl.mapList (fun (p : List Num × List Num) => softmaxBack p.1 p.2) (xs.zip dys)).bind fun rows => benchOut s i d (benchSr s i d) rows)

/-- SOFTMAX_BWD (R124). -/
def execSoftmaxBwd (c : CtxIx) (seq : Nat) (s : State) : Host.Outcome State Fault Refusal :=
  .next (match benchItem s c.val seq 2 with
    | some (i, d) => benchRun s i (backReads d) (benchDests d) (fun s bss => softmaxBwdOut s i d bss)
    | none => s)

/-- ROW_STATS on the bytes read. -/
def rowStatsOut (s : State) (d : BenchD) (bss : List (List Byte)) : State × Fl (List (Nat × List Byte)) :=
  let (s, xs) := benchRows s false d.fmtIn d.cols bss
  (s, Fl.mapList (fun (p : List Num × Nat) => (rowStats p.1).bind (fun vs => ⟨(d.dst0 + 64 * p.2, statsBytes d.cols vs), infFlag vs⟩)) (xs.zip (List.range xs.length)))

/-- ROW_STATS (R194, R197). -/
def execRowStats (c : CtxIx) (seq : Nat) (s : State) : Host.Outcome State Fault Refusal :=
  .next (match benchItem s c.val seq 3 with
    | some (i, d) =>
      benchRun s i (rowRanges d.src0 d.inStride d.rows (rowBytes d.fmtIn d.cols)) (rowRanges d.dst0 64 d.rows 64) (fun s bss => rowStatsOut s d bss)
    | none => s)

/-- What an encoded chunk writes: its coded sectors, and its tag. -/
def encodedWrites (d : BenchD) (n : Nat) (bs : List Byte) : List (Nat × List Byte) :=
  let c := encodeChunk (rubbleFmt d.fmtIn) bs
  (match c with
    | .zero => []
    | .coded _ b => [(d.dst0 + 2048 * n, b)]
    | .raw => [(d.dst0 + 2048 * n, bs)]) ++ [(d.dst1 + n, [tagOf c])]

/-- RUBBLE_ENCODE (R149, R150, R197). -/
def execRubbleEncode (c : CtxIx) (seq : Nat) (s : State) : Host.Outcome State Fault Refusal :=
  .next (match benchItem s c.val seq 4 with
    | some (i, d) =>
      benchRun s i (rowRanges d.src0 2048 d.rows 2048) (rowRanges d.dst0 2048 d.rows 2048 ++ [(d.dst1, d.rows)]) (fun s bss =>
        (s, ⟨(bss.zip (List.range bss.length)).flatMap (fun (b, n) => encodedWrites d n b), 0⟩))
    | none => s)

/-- Bytes of a slot that a tag says are stored (R148). -/
def slotBytes64 (tag : Byte) : Nat := if tag.toNat / 64 = 1 then 64 * (tag.toNat % 32 + 1) else if tag.toNat / 64 = 2 then 2048 else 0

/-- RUBBLE_DECODE: tags first, then the sectors they name (R149, R197). -/
def runRubbleDecode (s : State) (i : Item) (d : BenchD) : State :=
  match getRanges s i.ref i.die [(d.src1, d.rows)] with
  | .fail s c => failItem s i.ref c none
  | .wait s => s
  | .ok s tags =>
    let ts := tags.headD []
    let reads := (ts.zip (List.range d.rows)).map (fun (t, n) => (d.src0 + 2048 * n, slotBytes64 t))
    benchRun s i ((d.src1, d.rows) :: reads) (rowRanges d.dst0 2048 d.rows 2048) (fun s bss =>
      (s, ⟨((bss.drop 1).zip (ts.zip (List.range d.rows))).map (fun (b, t, n) => (d.dst0 + 2048 * n, decodeChunk (rubbleFmt d.fmtOut) t b)), 0⟩))

/-- RUBBLE_DECODE (R149). -/
def execRubbleDecode (c : CtxIx) (seq : Nat) (s : State) : Host.Outcome State Fault Refusal :=
  .next (match benchItem s c.val seq 5 with
    | some (i, d) => runRubbleDecode s i d
    | none => s)

/-- A matrix in an MX format with its blocks along the columns (R46, R138): element codes by row, and scale bytes by row of blocks. -/
def convColumns (fmt : Nat) (sr : Sr) (t1 nonsat : Bool) (index0 cols : Nat) (rows : List (List Num)) : Fl (List (List Nat) × List (List Nat)) :=
  if fmtMX fmt then
    let modes := (rows.zip (List.range rows.length)).map (fun (r, j) => (r.zip (List.range r.length)).map (fun (x, k) => (x, sr.mode (index0 + j * cols + k))))
    (Fl.mapList (fun col => Fl.mapList (convBlock fmt) (chunksOf (rows.length + 1) 32 col)) (turn (Num.zero, RMode.nearest) cols modes)).map fun cs =>
      (turn 0 rows.length (cs.map (fun bs => bs.flatMap Prod.snd)), turn 0 (ceilDiv rows.length 32) (cs.map (fun bs => bs.map Prod.fst)))
  else (Fl.mapList (fun (p : List Num × Nat) => convRow fmt sr nonsat t1 (index0 + p.2 * cols) p.1) (rows.zip (List.range rows.length))).map
    fun rs => (rs.map Prod.fst, rs.map Prod.snd)

/-- A matrix converted for COPY_ROUND or a working copy: element codes and scale rows, blocks along rows or columns. -/
def convMatrix (fmt : Nat) (byColumn : Bool) (sr : Sr) (t1 nonsat : Bool) (index0 cols : Nat) (rows : List (List Num)) :
    Fl (List (List Nat) × List (List Nat)) :=
  if byColumn then convColumns fmt sr t1 nonsat index0 cols rows
  else (Fl.mapList (fun (p : List Num × Nat) => convRow fmt sr nonsat t1 (index0 + p.2 * cols) p.1) (rows.zip (List.range rows.length))).map
    fun rs => (rs.map Prod.fst, rs.map Prod.snd)

/-- Rows of codes and scales as writes at a base, a stride and a scale base. -/
def matrixWrites (fmt base stride scaleBase : Nat) (m : List (List Nat) × List (List Nat)) : List (Nat × List Byte) :=
  let (codes, scales) := m
  let elems := (codes.zip (List.range codes.length)).map (fun (c, r) => (base + r * stride, packCodes (fmtWidth fmt) c))
  let width := (scales.headD []).length
  elems ++ (if fmtMX fmt then (scales.zip (List.range scales.length)).map (fun (c, r) => (scaleBase + r * roundUp width 64, c.map (BitVec.ofNat 8))) else [])

/-- COPY_ROUND on the bytes read (R43 to R49, R53 to R56). -/
def copyRoundOut (s : State) (i : Item) (d : BenchD) (bss : List (List Byte)) : State × Fl (List (Nat × List Byte)) :=
  let t1 := isT1 s i.ref.ctx
  let (s, rows) := benchRows s t1 d.fmtIn d.cols bss
  let byColumn := d.p3 / 2 ^ 24 % 2 == 1
  (s, (convMatrix d.fmtOut byColumn (benchSr s i d) t1 d.nonsat d.indexBase d.cols rows).with (nanFlag (rows.flatMap id)) |>.map
    (matrixWrites d.fmtOut d.dst0 d.outStride (d.dst0 + 4096 * (d.p3 % 2 ^ 24))))

/-- COPY_ROUND (R194). -/
def execCopyRound (c : CtxIx) (seq : Nat) (s : State) : Host.Outcome State Fault Refusal :=
  .next (match benchItem s c.val seq 6 with
    | some (i, d) =>
      benchRun s i (rowRanges d.src0 d.inStride d.rows (rowBytes d.fmtIn d.cols)) (benchDests d) (fun s bss => copyRoundOut s i d bss)
    | none => s)

/-! ## Cores (R191) -/

def modCore (s : State) (d k : Nat) (f : Core → Core) : State := s.modDie d (fun x => { x with cores := x.cores.modify k f })

/-- BENCH_CORE_STOP: a core idle for idle_gap has stopped its clock, 0.2 µs later; a wake latched meanwhile begins (R191, R370). -/
def execBenchCoreStop (d core : DieIx) (s : State) : Host.Outcome State Fault Refusal :=
  .next (let k := (s.die d.val).core core.val
    if s.up ∧ k.awake = true ∧ (k.owner = .free ∨ k.wakeLatched = true) then
      modCore (s.upTo (k.idleSince + idleGapNs s + 200)) d.val core.val (fun x => { x with awake := false, waking := x.wakeLatched, wakeLatched := false })
    else s)

/-- BENCH_CORE_WAKE: a waking core's clock runs 1 µs later (R191). -/
def execBenchCoreWake (d core : DieIx) (s : State) : Host.Outcome State Fault Refusal :=
  .next (let k := (s.die d.val).core core.val
    if s.up ∧ k.awake = false ∧ k.waking = true then
      modCore (s.upTo (s.now + 1000)) d.val core.val (fun x => { x with awake := true, waking := false, idleSince := s.now + 1000 })
    else s)

/-! ## Quantum boundaries (R200 to R204) -/

/-- BENCH_PREEMPT counted. -/
def preempted (s : State) (d : Nat) (r : ItemRef) : State := count s (Occ.ofItem s r d 0x011 masterBench s.now)

/-- A core is taken from an item, which goes on with the cores it keeps, or pauses when it has none left (R201). -/
def takeFromItem (s : State) (d k : Nat) (r : ItemRef) (o : CoreOwner) : State :=
  let s := noteWork (s.modDie d (fun x => { x with lossOrder := x.lossOrder ++ [(r, k)] })) r d
  preempted ((modCore s d k (fun x => { x with owner := o })).modItem r (fun i => { i with
    cores := i.cores.filter (· != k), lost := i.lost ++ [k]
    stage := if i.cores.filter (· != k) = [] ∧ i.stage = .running then .waiting else i.stage
    waitFor := if i.cores.filter (· != k) = [] ∧ i.stage = .running then .cores else i.waitFor })) d r

/-- Cores of a die that collective work no longer needs are free again (R200, R201). -/
def collShed (s : State) (d : Nat) : State :=
  let ks := ((List.range 32).filter (fun k => ((s.die d).core k).owner == .collective)).drop (collNeed s d)
  giveBack (ks.foldl (fun s k => modCore s d k (fun x => x.release s.now)) s) d

/-- Additions and folds of a context's collectives have a core to run on, whose clock runs (R191, R200). -/
def collServed (s : State) (c : Nat) : Bool :=
  (s.die (collDie s c)).cores.any (fun k => k.owner == .collective && k.awake && !k.wakeLatched)

/-- At a boundary of a core collective work leaves what it no longer needs and takes idle cores, or this one from descriptor work when it
needs one and none is idle; never that in deterministic mode (R200, R202). -/
def collTake (s : State) (d k : Nat) : State :=
  let s := collGrab 32 (collShed s d) d
  match ((s.die d).core k).owner with
  | .item r => if collWants s d && !dieDet s d then takeFromItem s d k r .collective else s
  | _ => s

/-- A sample of a Face of the die that still takes quanta, and its Face. -/
def pendingSample (s : State) (d : Nat) : Option Nat :=
  [2 * d, 2 * d + 1].find? (fun f => match (s.face f).samples with
    | x :: _ => 0 < x.quanta
    | [] => false)

/-- The replay takes its one quantum of core 31 of the window of 16 that runs, from descriptor work, when no spare core is left; while collective
work holds the core it waits for that work to end (R203). -/
def replayTake (s : State) (d : Nat) : State :=
  let x := s.die d
  let taken (t : State) : State := t.modDie d (fun y => { y with replayDue := false })
  if x.sparesFree ≠ 0 ∨ x.replayDue = false ∨ (pendingSample s d).isNone then s
  else match (x.core 31).owner with
    | .free => taken (ownCores s d [31] (.replay none))
    | .item r => taken (takeFromItem s d 31 r (.replay (some r)))
    | _ => s

/-- A quantum of the replay is over: its sample needs two half quanta less, one while deep halves the core's rate, and core 31 goes back to
whoever lost it (R201, R203, R381, R404). -/
def replayGive (s : State) (d : Nat) : State :=
  let s := match pendingSample s d with
    | some f => s.modFace f (fun y => { y with samples := match y.samples with
        | x :: rest => { x with quanta := x.quanta - (if s.hearth.deep then 1 else 2) } :: rest
        | [] => [] })
    | none => s
  giveBack (modCore s d 31 (fun x => x.release s.now)) d

/-- A boundary of core 31: the next quantum of its window of 16 begins, and a new window brings the replay's next share. A window whose share is
still to be used does not end (R203). -/
def nextQuantum (x : Die) : Die :=
  let q := if x.replayDue && x.quanta31 = 15 then 15 else (x.quanta31 + 1) % 16
  { x with quanta31 := q, replayDue := x.replayDue || q == 0 }

/-- BENCH_QUANTUM: a quantum boundary of a core, 2.048 µs after the one before. Collective work may take or leave the core; the replay uses its
share of core 31 where replay is set, and at the latest at its window's last boundary (R200 to R203). -/
def execBenchQuantum (d core : DieIx) (replay : Bool) (s : State) : Host.Outcome State Fault Refusal :=
  .next (if live s then
    let s := s.upTo (s.now + quantumNs)
    let s := if core.val = 31 then s.modDie d.val nextQuantum else s
    match ((s.die d.val).core core.val).owner with
    | .replay _ => replayGive s d.val
    | _ =>
      let s := if core.val = 31 ∧ (replay = true ∨ (s.die d.val).quanta31 = 15) then replayTake s d.val else s
      match ((s.die d.val).core core.val).owner with
      | .replay _ => s
      | _ => collTake s d.val core.val
  else s)

end Sys2Proof.Machine
end

