-- ==== Sys2Proof/Machine/Train.lean ====
section
/-! DEFINITION. The weight update (R132 to R145): the norm cell and κ, the claim, the optimizers, masters and working copies, the
ratio watch and the commit. -/

namespace Sys2Proof.Machine

/-! ## Arithmetic of an UPDATE (R141) -/

/-- An FP32 result; in T1-emulation a subnormal one becomes zero (R40, R55). -/
def upd32 (t1 : Bool) (ops : List Num) (x : Fl Num) : Fl Num :=
  (benchOp fmtFP32 ops x).map (fun v => if t1 then flushSub fmtFP32 v else v)

/-- An FP32 result that is stored: in T1-emulation its rounding and its flush count as those of a store (R42, R55). -/
def updStored (t1 : Bool) (ops : List Num) (x : Fl Num) : Fl Num :=
  let r := upd32 t1 ops x
  if t1 then r.with (flagIf (r.val.isInf && !x.val.isInf && !x.val.isNan) flOverflow ||| flagIf (r.val.isZero && !x.val.isZero) flUnderflow) else r

def uMul (t1 : Bool) (a b : Num) : Fl Num := upd32 t1 [a, b] (Num.mul a b)
def uAdd (t1 : Bool) (a b : Num) : Fl Num := upd32 t1 [a, b] (Num.add a b)
def uSub (t1 : Bool) (a b : Num) : Fl Num := upd32 t1 [a, b] (Num.sub a b)
def uDiv (t1 : Bool) (a b : Num) : Fl Num := upd32 t1 [a, b] (Num.div a b)
def uSqrt (t1 : Bool) (a : Num) : Fl Num := upd32 t1 [a] (Num.sqrt a)

/-- Fused multiply-add, unrounded between its multiply and add. -/
def uFma (t1 : Bool) (a b c : Num) : Fl Num := upd32 t1 [a, b, c] ((Num.mul a b).bind fun p => Num.add p c)

/-- A mean: an FP64 sum in ascending index divided by the count and rounded to FP32. -/
def uMean (t1 : Bool) (xs : List Num) : Fl Num := (sum64 xs).bind fun s => upd32 t1 [s] (Num.div s (Num.ofNat xs.length))

/-- An FP32 parameter of the descriptor. -/
def uPar (t1 : Bool) (code : Nat) : Num := decodeElem t1 11 code

/-- What a shard's state arrays hold in one slot, as numbers. -/
structure TrainArrays where
  state1 : List Num
  state2 : List Num
  state3 : List Num

/-- The moments that an optimizer writes, and the step u of each element. -/
structure TrainStep where
  arrays : TrainArrays
  u : List Num

/-- A moment moved towards a value and stored: fma(beta, old, (1 − beta) × x), x already multiplied. -/
def moment (t1 : Bool) (beta : Num) (old x : List Num) : Fl (List Num) :=
  Fl.mapList (fun (p : Num × Num) => updStored t1 [beta, p.1, p.2] ((Num.mul beta p.1).bind fun q => Num.add q p.2)) (old.zip x)

/-- Every element multiplied by one factor on its left. -/
def uScale (t1 : Bool) (k : Num) (xs : List Num) : Fl (List Num) := Fl.mapList (fun x => uMul t1 k x) xs

/-- SGD_MOMENTUM. -/
def stepSgd (t1 : Bool) (d : UpdateD) (a : TrainArrays) (g : List Num) : Fl TrainStep :=
  (moment t1 (uPar t1 d.beta1) a.state1 g).map fun b => { arrays := { a with state1 := b }, u := b }

/-- ADAMW. -/
def stepAdamw (t1 : Bool) (d : UpdateD) (a : TrainArrays) (g : List Num) : Fl TrainStep :=
  (uSub t1 Num.one (uPar t1 d.beta1)).bind fun o1 => (uSub t1 Num.one (uPar t1 d.beta2)).bind fun o2 =>
  (uScale t1 o1 g).bind fun mg => (moment t1 (uPar t1 d.beta1) a.state1 mg).bind fun m =>
  (Fl.mapList (fun x => uMul t1 x x) g).bind fun gg => (uScale t1 o2 gg).bind fun vg =>
  (moment t1 (uPar t1 d.beta2) a.state2 vg).bind fun v =>
  (Fl.mapList (fun (p : Num × Num) =>
    (uMul t1 p.1 (uPar t1 d.c1)).bind fun n => (uMul t1 p.2 (uPar t1 d.c2)).bind fun q => (uSqrt t1 q).bind fun r =>
    (uAdd t1 r (uPar t1 d.eps)).bind fun e => uDiv t1 n e) (m.zip v)).map fun u =>
      { arrays := { a with state1 := m, state2 := v }, u := u }

/-- The greater of 1 and x, NaN for a NaN. -/
def atLeastOne (x : Num) : Num := if x.isNan then .nan else if Num.lt Num.one x then x else Num.one

/-- A moment as the other slot holds it and as later steps read it: rounded to the state's format (R141). -/
def stateRound (t1 : Bool) (d : UpdateD) (x : Num) : Num := decodeElem t1 d.stateFmt (convElem ⟨.nearest, true, t1⟩ d.stateFmt x).val

/-- FACTORED: one pass of row and column statistics over the shard first; u is formed from the moments as they are stored. -/
def stepFactored (t1 : Bool) (d : UpdateD) (a : TrainArrays) (g : List Num) : Fl TrainStep :=
  let cut (xs : List Num) := chunksOf (d.rows + 1) d.cols xs
  (uSub t1 Num.one (uPar t1 d.beta1)).bind fun o1 => (uSub t1 Num.one (uPar t1 d.beta2)).bind fun o2 =>
  (Fl.mapList (fun x => uFma t1 x x (uPar t1 d.eps)) g).bind fun q =>
  (Fl.mapList (uMean t1) (cut q)).bind fun rowMeans => (Fl.mapList (uMean t1) (turn Num.zero d.cols (cut q))).bind fun colMeans =>
  (uScale t1 o2 rowMeans).bind fun rm => (moment t1 (uPar t1 d.beta2) a.state2 rm).bind fun rFull =>
  (uScale t1 o2 colMeans).bind fun cm => (moment t1 (uPar t1 d.beta2) a.state3 cm).bind fun cFull =>
  let r := rFull.map (stateRound t1 d)
  let c := cFull.map (stateRound t1 d)
  (uMean t1 r).bind fun mr =>
  (Fl.mapList (fun (p : Num × List Num) => Fl.mapList (fun (w : Num × Num) =>
    (uMul t1 p.1 w.1).bind fun n => (uDiv t1 n mr).bind fun e => (uSqrt t1 e).bind fun z => uDiv t1 w.2 z) (c.zip p.2))
      (r.zip (cut g))).bind fun us =>
  let u0 := us.flatMap id
  (Fl.mapList (fun x => uMul t1 x x) u0).bind fun uu => (uMean t1 uu).bind fun mu => (uSqrt t1 mu).bind fun rms =>
  (uDiv t1 rms (uPar t1 d.rmsClip)).bind fun y => (Fl.mapList (fun x => uDiv t1 x (atLeastOne y)) u0).bind fun u1 =>
  if d.momentum then
    (uScale t1 o1 u1).bind fun mu1 => (moment t1 (uPar t1 d.beta1) a.state1 mu1).map fun m =>
      { arrays := { state1 := m, state2 := rFull, state3 := cFull }, u := m.map (stateRound t1 d) }
  else ⟨{ arrays := { a with state2 := rFull, state3 := cFull }, u := u1 }, 0⟩

/-- The step of the descriptor's optimizer on gradients already multiplied by κ. -/
def optimizerStep (t1 : Bool) (d : UpdateD) (a : TrainArrays) (g : List Num) : Fl TrainStep :=
  if d.opt = 0 then stepSgd t1 d a g else if d.opt = 1 then stepAdamw t1 d a g else stepFactored t1 d a g

/-- The new master before it is rounded into its slot: FP32, or FP64 when extended. -/
def newMaster (t1 extended : Bool) (d : UpdateD) (w u : Num) : Fl Num :=
  if extended then
    (fmaOp fmtFP64 (fp32 d.decay) w u).bind fun f => (mul64 (fp32 d.lr) f).bind fun p => sub64 w p
  else (uFma t1 (uPar t1 d.decay) w u).bind fun f => (uMul t1 (uPar t1 d.lr) f).bind fun p => updStored t1 [w, p] (Num.sub w p)

/-! ## Extended masters (R34) -/

/-- The number of an extended master; the tail of an infinity or a NaN is ignored. -/
def extNum (m t : Nat) : Num := match fp32 m with
  | .fin _ _ _ => decodeFloat fmtExt (m * 2 ^ 16 + t % 2 ^ 16)
  | x => x

/-- A master rounded once at 39 fraction bits: FP32 word, tail and the value itself. -/
def extSplit (x : Num) : Fl (Nat × Nat × Num) :=
  let y := x.toFmt fmtExt
  let code := encodeFloat fmtExt y
  ⟨(code / 2 ^ 16, code % 2 ^ 16, y), flagIf y.isInf flInfOut ||| flagIf (y.isInf && !x.isInf) flOverflow
    ||| flagIf (y.isZero && !x.isZero) flUnderflow⟩

/-- A master as it is stored: FP32 word, tail, and the value the working copy is made from. -/
def storeMaster (t1 extended : Bool) (x : Num) : Fl (Nat × Nat × Num) :=
  if extended then extSplit x
  else (convElem ⟨.nearest, true, t1⟩ 11 x).map fun c => (c, 0, decodeElem t1 11 c)

/-! ## The ratio watch (R145) -/

/-- ρ of the old and new masters, each taken exactly in FP64. -/
def ratioOf (old new : List Num) : Fl Num :=
  let sq (xs : List Num) : Fl Num := Fl.foldl (fun acc x => (mul64 x x).bind fun y => add64 acc y) ⟨Num.zero, 0⟩ xs
  (Fl.mapList (fun (p : Num × Num) => sub64 p.2 p.1) (old.zip new)).bind fun ds => (sq ds).bind fun diff => (sq old).bind fun base =>
  if diff.isZero ∧ base.isZero then ⟨Num.zero, 0⟩
  else if base.isZero ∧ diff.isNan = false then ⟨.inf false, 0⟩
  else (sqrt64 diff).bind fun x => (sqrt64 base).bind fun y => div64 x y

/-- ρ lies within the bounds; false when it is NaN. -/
def ratioOk (d : UpdateD) (rho : Num) : Bool := Num.le (fp32 d.ratioLo) rho && Num.le rho (fp32 d.ratioHi)

/-! ## The items -/

/-- An unended UPDATE. -/
def updateItem (s : State) (c seq : Nat) : Option Item := match s.item ⟨c, seq⟩ with
  | some i => if live s ∧ kindOf i.words = kUpdate ∧ i.over = false then some i else none
  | none => none

/-- κ from a finite norm: max_norm / max(norm, max_norm) in FP64, rounded once to FP32, and 1 when norm ≤ max_norm (R144). -/
def kappaOf (norm maxNorm : Num) : Fl Num :=
  if Num.le norm maxNorm then ⟨Num.one, 0⟩ else (div64 maxNorm (Num.max norm maxNorm)).map (fun x => x.toFmt fmtFP32)

/-- The norm cell is read: κ is kept as an FP32 code and the claim is next, or the item ends (R142, R144). -/
def takeNorm (s : State) (i : Item) (d : UpdateD) (bs : List Byte) : State :=
  let ws := bytesWords bs
  let norm := decodeFloat fmtFP64 (wd ws 1).toNat
  if bitAt (wd ws 2) 0 = false ∨ bits (wd ws 2) 63 32 ≠ d.step then readAgain s i.ref d.normCell 64
  else if norm.isNan ∨ norm.isInf then endItem s i.ref .quarantined 0x34 0
  else
    let kappa := kappaOf norm (fp32 d.maxNorm)
    (addFlags s i.ref kappa.fl).modItem i.ref (fun j => { j with
      waitFor := .claim, normFolded := some (BitVec.ofNat 64 (roundEncode fmtFP32 kappa.val)) })

/-- One acquire read of the norm cell (R142, R259). -/
def pollNorm (s : State) (i : Item) : State :=
  let d := updateD i.words
  match itemRead s i.ref none d.normCell 64 with
  | (t, .ok bs) => takeNorm (acquire t i.ref.ctx none) i d bs
  | (t, .fail c) => failItem t i.ref c none
  | (t, .wait) => t

/-- The record that an item claims a buffer of: an UPDATE's, or the full record of a versioned ALL_GATHER (R132, R312). -/
def claimRecord (i : Item) : Nat := if kindOf i.words = kUpdate then (updateD i.words).record else (collD i.words).dst

/-- A claim compare-swap of an item is outstanding. -/
def claimPending (s : State) (r : ItemRef) : Bool :=
  s.reqs.any (fun q => q.item == some r && match q.purpose with
    | .claim _ _ _ => true
    | _ => false)

/-- What an UPDATE writes: the arrays of the uncommitted slot, and the working copy with its scales in a buffer (R134, R137, R138). -/
def updateDests (d : UpdateD) (slot buffer : Nat) : List (Nat × Nat) :=
  d.arrays.map (fun (a, n) => (a + (1 - slot) * d.slotStride, n)) ++ rowRanges buffer d.copyStride d.rows (rowBytes d.copyFmt d.cols)
    ++ (if fmtMX d.copyFmt then rowRanges (buffer + d.copyScale) (roundUp d.scaleShape.2 64) d.scaleShape.1 d.scaleShape.2 else [])

/-- What an item that claims a buffer leaves arbitrary when it ends without its commit (R135, R312). -/
def claimDiscards (i : Item) (ws : List W64) (b : Nat) : List (Nat × Nat) :=
  if kindOf i.words = kUpdate then updateDests (updateD i.words) (recSlot (wd ws 0)) (recBuf ws b)
  else
    let d := collD i.words
    [(recBuf ws b, d.count), (recBuf ws b + d.scaleOff, d.scaleCount)]

/-- One read of the record, and the claim of its lowest claimable buffer (R132). -/
def tryClaim (s : State) (i : Item) : State :=
  let a := claimRecord i
  if claimPending s i.ref then s
  else match readRecord s i.ref a with
    | (t, .fail c) => failItem t i.ref c none
    | (t, .wait) => t
    | (t, .ok bs) =>
      let ws := bytesWords bs
      match claimable ws with
      | none => forgetLine t i.ref a
      | some b =>
        let t := t.modItem i.ref (fun j => { j with discard := claimDiscards i ws b })
        match casRecord t (some i.ref) (some i.ref.ctx) a (wd ws 0) (claimWord (wd ws 0) b) (.claim a (wd ws 0) b) with
        | (u, .done old) => if old = wd ws 0 then claimHeld u i.ref a b else forgetLine u i.ref a
        | (u, .sent) => u
        | (u, .fail c) => failItem u i.ref c none

/-- An UPDATE starts: it waits for its norm cell when it clips, else for its buffer (R133). -/
def startUpdate (s : State) (i : Item) : State :=
  let clip := (updateD i.words).clip
  let s := startItem s i.ref (fun j => j)
  let s := s.modItem i.ref (fun j => { j with stage := .waiting, waitFor := if clip then .normCell else .claim })
  if clip then pollNorm s i else tryClaim s i

/-- The device's own write to a version record (R125, R134): its requests join those of the item. -/
def recordWrite (s : State) (i : Item) (a : Nat) (bs : List Byte) : State × Option Nat :=
  if isLocal s a then
    let (t, ans) := reachHome s 61 .device (offOf a) (.write bs (List.replicate bs.length true)) .clean
    match ans with
    | .retry =>
      let (t, id) := t.request (some i.ref) (some i.ref.ctx) .write (writePacket s a bs)
      (t.modItem i.ref (fun j => { j with writes := j.writes ++ id.toList }), none)
    | ans => (t, ansCode ans)
  else match s.request (some i.ref) (some i.ref.ctx) .write (writePacket s a bs) with
    | (t, some id) => (t.modItem i.ref (fun j => { j with writes := j.writes ++ [id] }), none)
    | (t, none) => (t, some codeUnreachable)

/-- Address of the version number of a buffer (Table 2 of 05_training_passes.md). -/
def versionAddr (record buf : Nat) : Nat := record + 8 + 4 * buf

/-- What an UPDATE reads: the gradient, then the arrays of the committed slot. -/
def updateReads (d : UpdateD) (slot : Nat) : List (Nat × Nat) :=
  (d.grad, rowBytes d.gradFmt (d.rows * d.cols)) :: d.arrays.map (fun (a, n) => (a + slot * d.slotStride, n))

/-- Numbers of a packed array of a format. -/
def arrayNums (t1 : Bool) (fmt : Nat) (bs : List Byte) : List Num :=
  (unpackCodes (fmtWidth fmt) (8 * bs.length / fmtWidth fmt) bs).map (decodeElem t1 fmt)

/-- The state arrays among what was read, in the order of UpdateD.arrays. -/
def trainArrays (t1 : Bool) (d : UpdateD) (bss : List (List Byte)) : TrainArrays :=
  let rest := (bss.drop (if d.extended then 2 else 1)).map (arrayNums t1 d.stateFmt)
  let first := d.opt ≠ 2 ∨ d.momentum
  let s1 := if first then rest.headD [] else []
  let rest := if first then rest.drop 1 else rest
  { state1 := s1, state2 := rest.headD [], state3 := (rest.drop 1).headD [] }

/-- The masters among what was read. -/
def oldMasters (t1 : Bool) (d : UpdateD) (bss : List (List Byte)) : List Num :=
  let ms := words32 (bss.headD [])
  if d.extended then
    (ms.zip (unpackCodes 16 ms.length ((bss.drop 1).headD []))).map (fun p => extNum p.1 p.2)
  else ms.map (decodeElem t1 11)

/-- One state array converted into its format, to nearest even. -/
def stateBytes (t1 : Bool) (fmt : Nat) (xs : List Num) : Fl (List Byte) :=
  (Fl.mapList (convElem ⟨.nearest, true, t1⟩ fmt) xs).map (packCodes (fmtWidth fmt))

/-- What an UPDATE computes: the bytes of each array of the other slot, the working copy's writes, and ρ. -/
structure UpdateOut where
  arrays : List (List Byte)
  copy : List (Nat × List Byte)
  rho : Num

/-- The whole computation of R141, R138 and R145 on what was read. -/
def updateOut (t1 : Bool) (d : UpdateD) (sr : Sr) (kappa : Num) (buffer : Nat) (grad : List Byte) (bss : List (List Byte)) : Fl UpdateOut :=
  let olds := oldMasters t1 d bss
  (Fl.mapList (fun x => uMul t1 x kappa) (arrayNums t1 d.gradFmt grad)).bind fun g =>
  (optimizerStep t1 d (trainArrays t1 d bss) g).bind fun st =>
  (Fl.mapList (fun (p : Num × Num) => (newMaster t1 d.extended d p.1 p.2).bind (storeMaster t1 d.extended)) (olds.zip st.u)).bind fun ms =>
  let news := ms.map (fun m => m.2.2)
  let first : List (List Num) := if d.opt ≠ 2 ∨ d.momentum then [st.arrays.state1] else []
  let more : List (List Num) := if d.opt = 1 then [st.arrays.state2] else if d.opt = 2 then [st.arrays.state2, st.arrays.state3] else []
  (Fl.mapList (stateBytes t1 d.stateFmt) (first ++ more)).bind fun states =>
  (if d.watch then ratioOf olds news else ⟨Num.zero, 0⟩).bind fun rho =>
  (convMatrix d.copyFmt d.copyBlock sr t1 d.copyNonsat d.indexBase d.cols (chunksOf (d.rows + 1) d.cols news)).map fun m =>
    { arrays := [packCodes 32 (ms.map (fun m => m.1))] ++ (if d.extended then [packCodes 16 (ms.map (fun m => m.2.1))] else []) ++ states
      copy := matrixWrites d.copyFmt buffer d.copyStride (buffer + d.copyScale) m
      rho := rho }

/-- Version number of cur of a record, plus 1 (R134). -/
def nextVersion (ws : List W64) : Nat := (recVer ws (recCur (wd ws 0)) + 1) % 2 ^ 32

/-- The writes of a running UPDATE: the claimed buffer's version number first, then the other slot and the working copy. Lines of the
claimed buffer and the other slot are left by R172. Its record's aux is the version number it will commit (R183). -/
def writeUpdate (s : State) (i : Item) (d : UpdateD) (ws : List W64) (buf : Nat) (reads : List (Nat × Nat)) (o : UpdateOut) : State :=
  let slot := recSlot (wd ws 0)
  match recordWrite s i (versionAddr d.record buf) (leBytes 4 (nextVersion ws)) with
  | (t, some c) => failItem t i.ref c none
  | (t, none) =>
    let out := (d.arrays.zip o.arrays).map (fun (p, bs) => (p.1 + (1 - slot) * d.slotStride, bs)) ++ o.copy
    let (t, out) := blurWrites t (sharedLines reads (updateDests d slot (recBuf ws buf))) out
    match writeRanges t i.ref i.die out true with
    | (t, some c) => failItem t i.ref c none
    | (t, none) => t.modItem i.ref (fun j => { j with
        shipped := true, aux := BitVec.ofNat 32 (nextVersion ws), normFolded := some (BitVec.ofNat 64 (roundEncode fmtFP64 o.rho)) })

/-- An UPDATE that has its norm, its buffer and its cores runs. -/
def runUpdate (s : State) (i : Item) : State :=
  let d := updateD i.words
  let t1 := isT1 s i.ref.ctx
  match i.claim with
  | none => s
  | some (_, buf) => match readRecord s i.ref d.record with
    | (s, .fail c) => failItem s i.ref c none
    | (s, .wait) => s
    | (s, .ok bs) =>
      let ws := bytesWords bs
      let reads := updateReads d (recSlot (wd ws 0))
      match getRanges s i.ref i.die reads with
      | .fail s c => failItem s i.ref c none
      | .wait s => s
      | .ok s bss =>
        let kappa := match i.normFolded with
          | some k => fp32 k.toNat
          | none => Num.one
        let (s, bss) := blurReads s reads (updateDests d (recSlot (wd ws 0)) (recBuf ws buf)) bss
        let sr : Sr := ⟨d.copySr, (s.partCfg i.partition).seed.toNat, d.stream, d.step⟩
        let out := updateOut t1 d sr (if t1 then flushSub fmtFP32 kappa else kappa) (recBuf ws buf) (bss.headD []) (bss.drop 1)
        writeUpdate (addFlags s i.ref out.fl) i d ws buf reads out.val

/-- UPDATE: a candidate starts and waits for its norm cell or its buffer; one that has its cores, their clocks running, computes (R133,
R141). -/
def execUpdate (c : CtxIx) (seq : Nat) (s : State) : Host.Outcome State Fault Refusal :=
  .next (match updateItem s c.val seq with
    | some i =>
      if candidate s i then startUpdate s i
      else if i.stage = .running ∧ i.shipped = false ∧ coresAwake s i then runUpdate s i
      else s
    | none => s)

/-- NORM_CELL_POLL: the norm cell is read again (R142). -/
def execNormCellPoll (c : CtxIx) (seq : Nat) (s : State) : Host.Outcome State Fault Refusal :=
  .next (match updateItem s c.val seq with
    | some i => if i.stage = .waiting ∧ i.waitFor = .normCell then pollNorm s i else s
    | none => s)

/-- An item that waits to claim a buffer. -/
def claimWaiter (s : State) (c seq : Nat) : Option Item := match s.item ⟨c, seq⟩ with
  | some i => if live s ∧ i.over = false ∧ i.waitFor = .claim then some i else none
  | none => none

/-- UPDATE_CLAIM_POLL: 1 µs later the record is read again and its lowest claimable buffer claimed (R132, R312). -/
def execUpdateClaimPoll (c : CtxIx) (seq : Nat) (s : State) : Host.Outcome State Fault Refusal :=
  .next (match claimWaiter s c.val seq with
    | some i => tryClaim (s.upTo (s.now + 1000)) i
    | none => s)

/-! ## Commit -/

/-- Bytes that an item still holds dirty are written back, so that its commit can wait for their homes (R134). -/
def flushOwned (s : State) (i : Item) : State :=
  let w := writeBackAll s (s.memory.cache.filter (fun l => l.ctx == i.ref.ctx && l.dirty != 0 && l.owners.contains i.ref))
  let t := w.s.modItem i.ref (fun j => { j with writes := j.writes ++ w.ids })
  match w.code with
  | some c => failItem t i.ref c none
  | none => t

/-- A commit compare-swap of an item is outstanding. -/
def commitPending (s : State) (r : ItemRef) : Bool :=
  s.reqs.any (fun q => q.item == some r && match q.purpose with
    | .commit _ _ _ => true
    | _ => false)

/-- The commit of a claimed buffer by one compare-swap (R134, R312). -/
def commitBuffer (s : State) (i : Item) (a b : Nat) : State :=
  match readRecord s i.ref a with
  | (t, .fail c) => failItem t i.ref c none
  | (t, .wait) => t
  | (t, .ok bs) =>
    let w := wordAt bs 0
    match casRecord t (some i.ref) (some i.ref.ctx) a w (commitWordOf (kindOf i.words) w b) (.commit a w b) with
    | (u, .done old) => if old = w then committed u i.ref else forgetLine u i.ref a
    | (u, .sent) => u
    | (u, .fail c) => failItem u i.ref c none

/-- An UPDATE outside its ratio bounds: the error record and its end (R145). -/
def ratioFailed (s : State) (i : Item) (d : UpdateD) (rho : W64) : State :=
  let s := raiseError s { cls := 0x11, sev := sevItem, unit := i.die.getD 0xFF, item := some i.ref, ctx := none,
                          detail := [rho, wordOf [⟨32, 32, d.ratioHi⟩, ⟨0, 32, d.ratioLo⟩]] }
  endItem s i.ref .quarantined 0x35 0

/-- An UPDATE all of whose writes are acknowledged commits, unless the ratio watch quarantines it. -/
def tryCommit (s : State) (i : Item) : State :=
  let d := updateD i.words
  let rho := i.normFolded.getD 0
  match i.claim with
  | none => s
  | some (a, b) =>
    if outstanding s i ∨ i.staged.isEmpty = false ∨ commitPending s i.ref then s
    else if d.watch ∧ ratioOk d (decodeFloat fmtFP64 rho.toNat) = false then ratioFailed s i d rho
    else commitBuffer s i a b

/-- UPDATE_COMMIT (R134, R145). -/
def execUpdateCommit (c : CtxIx) (seq : Nat) (s : State) : Host.Outcome State Fault Refusal :=
  .next (match updateItem s c.val seq with
    | some i =>
      if i.shipped = true ∧ i.stage = .running then
        let t := flushOwned (goStaged s i.ref) i
        match updateItem t c.val seq with
        | some j => tryCommit t j
        | none => t
      else s
    | none => s)

end Sys2Proof.Machine
end

