-- ==== Sys2Proof/Machine/Coll.lean ====
section
/-! DEFINITION. Collectives: the flows of a member (R303, R306, R307), tag lines (R311), chunk credits (R314), backup substitution
(R315 to R318), gathers into version records (R312), the norm (R313), Crusher reductions (R319 to R323) and their messages. -/

namespace Sys2Proof.Machine

/-! ## Flows -/

/-- Where a flow takes a chunk from: byte ranges of the contribution, the sum of RING2D's first level at an offset, this device's own
finished shard, this device's own running scales, its own value, a source rank, or a slot that may be substituted. -/
inductive CollIn where
  | src (rs : List (Nat × Nat))
  | level1 (off : Nat)
  | finished
  | ownScale
  | maxScale
  | value
  | rank (k : Nat)
  | slot (k : Nat)
deriving DecidableEq, Repr

/-- Where a flow leaves a chunk at this device. -/
inductive CollOut where
  | nothing
  | level1
  | shard (rs : List (Nat × Nat))
  | bytes (rs : List (Nat × Nat))
  | maxScale
  | scales
  | value (k : Nat)
deriving DecidableEq, Repr

/-- One flow of a member: what it carries, how many bytes of it, the offset its tag lines start from, its sources in the order of
additions, the ranks it sends to, and what it leaves here. mine marks this device's own shard. -/
structure Flow where
  level : Nat
  key : CollKey
  total : Nat
  base : Nat
  ins : List CollIn
  dests : List Nat
  out : CollOut
  mine : Bool

/-- What the flows of an item are made of. -/
structure CollRun where
  i : Item
  d : CollD
  g : Group
  src : Nat
  dst : Nat

/-- Bytes of a chunk's data: 4,032 after each tag line (R309). -/
def CollD.chunkBytes (d : CollD) : Nat := 4032 * d.chunkPkts

/-- Part i of a shard on a ring: first index and size (R306). -/
def ringPart (d : CollD) (e i : Nat) : Nat × Nat := shardAt e d.rings i

/-- Index and size, within the whole tensor, of the part of shard j that ring i carries. -/
def shardPart (r : CollRun) (j i : Nat) : Nat × Nat :=
  let (a, e) := shardAt r.d.count r.g.n j
  let (b, l) := ringPart r.d e i
  (a + b, l)

/-- Offset of a ring's part within its shard. -/
def partBase (r : CollRun) (j i : Nat) : Nat := (ringPart r.d (shardAt r.d.count r.g.n j).2 i).1

/-- The rank before and after this one on a ring of n, in the direction of ring i: even rings ascend (R307). -/
def before (n i k : Nat) : Nat := if i % 2 = 0 then (k + n - 1) % n else (k + 1) % n
def after (n i k : Nat) : Nat := if i % 2 = 0 then (k + 1) % n else (k + n - 1) % n

/-- The contribution's bytes for a list of element ranges. -/
def contribution (r : CollRun) (ps : List (Nat × Nat)) : CollIn :=
  .src (ps.map (fun p => (r.src + p.1 * redBytes r.d.fmtIn, p.2 * redBytes r.d.fmtIn)))

/-- Where a finished shard's elements go: shard r alone for a REDUCE_SCATTER, their place in the tensor for an ALL_REDUCE. -/
def shardDst (r : CollRun) (i : Nat) : List (Nat × Nat) :=
  let (a, l) := shardPart r r.g.rank i
  let first := if r.d.op = 0 then partBase r r.g.rank i else a
  [(r.dst + first * redBytes r.d.fmtOut, l * redBytes r.d.fmtOut)]

/-- A reduction flow of shard j on ring i. -/
def reduceFlow (r : CollRun) (level j i : Nat) (ins : List CollIn) (dest : Option Nat) : Flow :=
  let mine : Bool := dest.isNone
  { level := level, key := ⟨0, j, i⟩, total := 4 * (shardPart r j i).2, base := 4 * partBase r j i, ins := ins, dests := dest.toList,
    out := if mine then .shard (shardDst r i) else .nothing, mine := mine }

/-- RING: the partial sum of shard j passes from rank j + 1 round to rank j (R307). -/
def ringReduce (r : CollRun) (j i : Nat) : Flow :=
  let n := r.g.n
  let me := r.g.rank
  let own := contribution r [shardPart r j i]
  let ins := if me = after n i j then [own] else [.rank (before n i me), own]
  reduceFlow r 0 j i ins (if me = j then none else some (after n i me))

/-- Children of this rank in the tree of shard or root j (R307). -/
def treeChildren (r : CollRun) (j : Nat) : List Nat :=
  let n := r.g.n
  let q := (r.g.rank + n - j) % n
  ((List.range r.d.fanIn).map (fun c => q * r.d.fanIn + 1 + c)).filter (· < n) |>.map (fun c => (c + j) % n)

/-- Parent of this rank in that tree. -/
def treeParent (r : CollRun) (j : Nat) : Option Nat :=
  let n := r.g.n
  let q := (r.g.rank + n - j) % n
  if q = 0 then none else some (((q - 1) / Nat.max 1 r.d.fanIn + j) % n)

/-- TREE: a node adds its children's sums to its own contribution in ascending relative rank; with backup set the collector takes one
contribution of each slot (R307, R315). -/
def treeReduce (r : CollRun) (j : Nat) : Flow :=
  let own := contribution r [shardPart r j 0]
  let kids := (treeChildren r j).map (fun k => if r.d.backup then CollIn.slot k else CollIn.rank k)
  reduceFlow r 0 j 0 (own :: kids) (treeParent r j)

/-- RING2D's column size b₂. -/
def rows2d (g : Group) : Nat := g.n / Nat.max 1 g.ring2dA

/-- Shards of part p. -/
def partShards (g : Group) (p : Nat) : List Nat := (List.range (rows2d g)).map (fun w => p * rows2d g + w)

/-- RING2D, first level: part p along the ring of equal row index (R307). -/
def level1Flow (r : CollRun) (p i : Nat) : Flow :=
  let a := r.g.ring2dA
  let b := rows2d r.g
  let col := r.g.rank / b
  let row := r.g.rank % b
  let ps := (partShards r.g p).map (fun k => shardPart r k i)
  let own := contribution r ps
  let ins := if col = after a i p then [own] else [.rank (before a i col * b + row), own]
  { level := 1, key := ⟨0, p, i⟩, total := 4 * (ps.map Prod.snd).sum, base := 0, ins := ins,
    dests := if col = p then [] else [after a i col * b + row], out := if col = p then .level1 else .nothing, mine := false }

/-- RING2D, second level: shard k of this column's part along the ring of equal column index (R307). -/
def level2Flow (r : CollRun) (k i : Nat) : Flow :=
  let b := rows2d r.g
  let col := r.g.rank / b
  let row := r.g.rank % b
  let off := 4 * (((partShards r.g col).takeWhile (· < k)).map (fun x => (shardPart r x i).2)).sum
  let own := CollIn.level1 off
  let ins := if row = after b i (k % b) then [own] else [.rank (col * b + before b i row), own]
  reduceFlow r 0 k i ins (if row = k % b then none else some (col * b + after b i row))

/-- Every ring of an item. -/
def ringsOf (r : CollRun) : List Nat := List.range r.d.rings

/-- The reduction flows of a member; a backup rank sends its contribution to every collector (R315). -/
def reduceFlows (r : CollRun) : List Flow :=
  let js := List.range r.g.n
  if r.g.n ≤ r.g.rank then
    if r.d.backup then js.map (fun j => { reduceFlow r 0 j 0 [contribution r [shardPart r j 0]] (some j) with mine := false }) else []
  else if r.d.crusher then []
  else if r.d.algo = 2 then js.map (treeReduce r)
  else if r.d.algo = 1 then
    (ringsOf r).flatMap (fun i => (List.range r.g.ring2dA).map (fun p => level1Flow r p i))
      ++ (ringsOf r).flatMap (fun i => (partShards r.g (r.g.rank / rows2d r.g)).map (fun k => level2Flow r k i))
  else (ringsOf r).flatMap (fun i => js.map (fun j => ringReduce r j i))

/-- Where a gather's shard k comes from and goes on to: along the ring in rank order, or for RING2D along the column of its owner and
from there along each row (R309). -/
def gatherHops (r : CollRun) (k : Nat) : Option Nat × List Nat :=
  let n := r.g.n
  let me := r.g.rank
  if r.d.algo = 1 then
    let a := r.g.ring2dA
    let b := rows2d r.g
    let col := me / b
    let row := me % b
    let right := (col + 1) % a * b + row
    if k / b = col then
      (if me = k then none else some (col * b + (row + b - 1) % b), (if (row + 1) % b = k % b then [] else [col * b + (row + 1) % b]) ++ [right])
    else (some ((col + a - 1) % a * b + row), if (col + 1) % a = k / b then [] else [right])
  else (if me = k then none else some ((me + n - 1) % n), if (me + 1) % n = k then [] else [(me + 1) % n])

/-- A gather flow of shard k. -/
def gatherFlow (r : CollRun) (k i total base : Nat) (own : CollIn) (out : List (Nat × Nat)) : Flow :=
  let (from_, to_) := gatherHops r k
  { level := 0, key := ⟨1, k, i⟩, total := total, base := base, ins := [match from_ with | some p => .rank p | none => own], dests := to_,
    out := if from_.isNone ∧ own = .finished then .nothing else .bytes out, mine := from_.isNone && r.d.op == 1 }

/-- The gather of an ALL_REDUCE, of finished shards in fmt_out. -/
def sumGather (r : CollRun) : List Flow :=
  let s := redBytes r.d.fmtOut
  (ringsOf r).flatMap (fun i => (List.range r.g.n).map (fun k =>
    let (a, l) := shardPart r k i
    gatherFlow r k i (s * l) (s * partBase r k i) .finished [(r.dst + s * a, s * l)]))

/-- The flows of an ALL_GATHER: the bytes of each shard, and with versioned its share of the scale array behind them (R312). -/
def gatherFlows (r : CollRun) : List Flow :=
  (ringsOf r).flatMap (fun i => (List.range r.g.n).map (fun k =>
    let (a, l) := shardPart r k i
    let (sa, se) := shardAt r.d.scaleCount r.g.n k
    let (sb, sl) := ringPart r.d se i
    let sc := if r.d.versioned then sl else 0
    let place (base a0 s0 : Nat) : List (Nat × Nat) := (base + a0, l) :: (if sc = 0 then [] else [(base + r.d.scaleOff + s0, sc)])
    gatherFlow r k i (l + sc) (partBase r k i + if r.d.versioned then sb else 0) (.src (place r.src (partBase r k i) sb)) (place r.dst a (sa + sb))))

/-- The flow of a BROADCAST: along the ring, or down the tree of the root. -/
def broadcastFlows (r : CollRun) : List Flow :=
  let n := r.g.n
  let me := r.g.rank
  let root := r.d.root
  (ringsOf r).map (fun i =>
    let (b, l) := ringPart r.d r.d.count i
    let (from_, to_) : Option Nat × List Nat :=
      if r.d.algo = 2 then (treeParent r root, treeChildren r root)
      else (if me = root then none else some ((me + n - 1) % n), if (me + 1) % n = root then [] else [(me + 1) % n])
    { level := 0, key := ⟨1, 0, i⟩, total := l, base := b, ins := [match from_ with | some p => .rank p | none => .src [(r.src + b, l)]],
      dests := to_, out := .bytes [(r.dst + b, l)], mine := true })

/-- The flows of an ALL_TO_ALL: this rank's segments to their ranks, and every other rank's segment to here. -/
def allToAllFlows (r : CollRun) : List Flow :=
  let c := r.d.count
  let me := r.g.rank
  (List.range r.g.n).map (fun k =>
      { level := 0, key := ⟨1, k, 0⟩, total := c, base := 0, ins := [.src [(r.src + k * c, c)]], dests := if k = me then [] else [k],
        out := if k = me then .bytes [(r.dst + k * c, c)] else .nothing, mine := k == me })
    ++ ((List.range r.g.n).filter (· != me)).map (fun k =>
      { level := 1 + k, key := ⟨1, me, 0⟩, total := c, base := 0, ins := [.rank k], dests := [], out := .bytes [(r.dst + k * c, c)], mine := false })

/-- The flows of a NORM_ALLREDUCE: each rank's 8 bytes round the ring, or down its own tree. -/
def normFlows (r : CollRun) : List Flow :=
  (List.range r.g.n).map (fun k =>
    let (from_, to_) := if r.d.algo = 2 then (treeParent r k, treeChildren r k) else gatherHops r k
    { level := 0, key := ⟨1, k, 0⟩, total := 8, base := 0, ins := [match from_ with | some p => .rank p | none => .value], dests := to_,
      out := .value k, mine := from_.isNone })

/-- The scale pass of a Crusher reduction: the running maximum in rank order to the last rank, and the agreed scales on from there
(R319). -/
def scaleFlows (r : CollRun) : List Flow :=
  let n := r.g.n
  let me := r.g.rank
  let total := r.d.count / 28
  [{ level := 0, key := ⟨2, 0, 0⟩, total := total, base := 0, ins := if me = 0 then [.ownScale] else [.rank (me - 1), .ownScale],
     dests := if me + 1 = n then [] else [me + 1], out := if me + 1 = n then .maxScale else .nothing, mine := false },
   { level := 0, key := ⟨2, 1, 0⟩, total := total, base := 0, ins := if me + 1 = n then [.maxScale] else [.rank ((me + n - 1) % n)],
     dests := if me + 2 = n then [] else [(me + 1) % n], out := .scales, mine := false }]

/-- Every flow of an item, in an order in which each depends on earlier ones only. -/
def flowsOf (r : CollRun) : List Flow :=
  let op := r.d.op
  let member : Bool := r.g.rank < r.g.n
  if r.d.reduces then
    (if r.d.crusher && member then scaleFlows r else []) ++ reduceFlows r ++ (if op == 2 && member then sumGather r else [])
  else if member = false then []
  else if op = 1 then gatherFlows r
  else if op = 3 then broadcastFlows r
  else if op = 4 then allToAllFlows r
  else normFlows r

/-- The lines that a member reads as its contribution and writes as its result with no rule that orders the two (R255): a result's own
contribution, at its own place, is read before it is written. -/
def sharedColl (r : CollRun) : List Nat :=
  let fs := flowsOf r
  let reads := fs.flatMap (fun f => f.ins.flatMap (fun i => match i with
    | .src rs => rs
    | _ => [])) ++ (if r.d.crusher then [(r.src, r.d.count * redBytes r.d.fmtIn)] else [])
  let writes := fs.flatMap (fun f => match f.out with
    | .shard rs => rs
    | .bytes rs => rs
    | _ => []) ++ (if r.d.crusher && decide (r.g.rank < r.g.n) then shardDst r 0 else [])
  if spansMeet reads writes then (reads.flatMap (fun a => writes.flatMap (fun w => if a = w then [] else sharedLines [a] [w]))).dedup else []

/-! ## Instances -/

/-- An instance of a group (R300). -/
def State.coll (s : State) (group number : Nat) : Option Coll := s.colls.find? (fun x => x.group == group && x.number == number)

/-- An instance changed. -/
def State.modColl (s : State) (group number : Nat) (f : Coll → Coll) : State :=
  { s with colls := s.colls.map (fun x => if x.group = group ∧ x.number = number then f x else x) }

/-- The instance of an item. -/
def collOf (s : State) (r : ItemRef) : Option Coll := s.colls.find? (fun x => !x.early && x.item == r)

/-- The instance of an item changed. -/
def modCollOf (s : State) (r : ItemRef) (f : Coll → Coll) : State :=
  { s with colls := s.colls.map (fun x => if x.early = false ∧ x.item = r then f x else x) }

/-- An instance of which nothing has happened here. -/
def freshColl (group number : Nat) : Coll := { (default : Coll) with group := group, number := number, early := true }

/-- What the flows of an item are made of, with the buffers of a versioned gather once it holds them. -/
def collRun (s : State) (i : Item) : Option CollRun :=
  let d := collD i.words
  (collGroup s i.partition d).map (fun g =>
    let buffer (h : Option Nat) : Nat := h.getD 0
    let held (a : Nat) (b : Option Nat) : Nat := match b with
      | some k => buffer ((deviceRead s (offOf a) 64).2.map (fun bs => recBuf (bytesWords bs) k))
      | none => 0
    { i := i, d := d, g := g
      src := if d.versioned then held d.src (i.ownPin.map (fun p => p.2.1)) else d.src
      dst := if d.versioned then held d.dst (i.claim.map Prod.snd) else d.dst })

/-- Device of a rank. -/
def rankDevice (g : Group) (k : Nat) : Nat := g.members.getD k 0

/-! ## Packets -/

/-- Ranges of a concatenation of ranges between two positions. -/
def subRanges : List (Nat × Nat) → Nat → Nat → List (Nat × Nat)
  | [], _, _ => []
  | (a, n) :: rest, lo, hi =>
    (if lo < n ∧ lo < hi then [(a + lo, Nat.min n hi - lo)] else []) ++ subRanges rest (lo - n) (hi - n)

/-- A tag line (Table 6 of 11_collectives.md). -/
def tagLine (r : CollRun) (number : Nat) (key : CollKey) (offset version chunk : Nat) : List W64 :=
  [wordOf [⟨54, 10, r.g.index⟩, ⟨50, 4, r.d.op⟩, ⟨48, 2, key.phase⟩, ⟨32, 16, r.g.rank⟩, ⟨0, 32, number⟩],
   wordOf [⟨48, 16, key.idx⟩, ⟨44, 4, key.ring⟩, ⟨0, 40, offset⟩],
   wordOf [⟨32, 32, version⟩, ⟨0, 32, chunk⟩], 0, 0, 0, 0, 0]

/-- One COLL_DATA packet to a rank. -/
def sendColl (s : State) (r : CollRun) (number dest : Nat) (key : CollKey) (offset version chunk seq : Nat) (bs : List Byte) : State :=
  let data := wordsBytes (tagLine r number key offset version chunk) ++ padTo (roundUp bs.length 64) bs
  s.sendPacket (mkPacket (rankDevice r.g dest) s.deviceNumber opCollData (hopLimit s) (seq % 65536) (data.length / 64) 0 0 0 data)

/-- The packets of a chunk. -/
def sendChunk (s : State) (r : CollRun) (number version : Nat) (o : CollOwed) : State :=
  let parts := chunksOf (o.bytes.length + 1) 4032 o.bytes
  (parts.zip (List.range parts.length)).foldl (fun s (p, k) =>
    sendColl s r number o.dest o.key (o.base + o.pos + 4032 * k) version o.chunk (o.chunk * r.d.chunkPkts + k) p) s

/-- Phase of a control packet: the acknowledgement of a chunk, which returns its credit, names that chunk and in offset its phase; shard
0xFFFF grants the first credits of a versioned gather (R310, R312, R314). -/
def phaseControl : Nat := 3
def grantIdx : Nat := 0xFFFF

/-- A chunk acknowledged to its source; that of a scale pass's chunk carries as its version the number this member gave the instance
(R319). -/
def sendAck (s : State) (r : CollRun) (number version dest : Nat) (key : CollKey) (m : Nat) : State :=
  sendColl s r number dest ⟨phaseControl, key.idx, key.ring⟩ key.phase (if key.phase = 2 then version else 0) m m []

/-- A fabric message of this device to another (R297). -/
def sendMsg (s : State) (dev typ : Nat) (words : List W64) (body : List Byte) : State :=
  let line := wordOf [⟨56, 8, typ⟩, ⟨32, 16, body.length⟩] :: (List.range 7).map (fun k => wd words k)
  let data := wordsBytes line ++ padTo (roundUp body.length 64) body
  s.sendPacket (mkPacket dev s.deviceNumber opMsg (hopLimit s) 0 (data.length / 64) 0 0 0 data)

/-- NOT_USED to the sender of a discarded chunk (R316). -/
def sendNotUsed (s : State) (r : CollRun) (number dest : Nat) (key : CollKey) (m : Nat) : State :=
  sendMsg s (rankDevice r.g dest) 0x01
    [wordOf [⟨54, 10, r.g.index⟩, ⟨50, 4, r.d.op⟩, ⟨32, 16, r.g.rank⟩, ⟨0, 32, number⟩],
     wordOf [⟨48, 16, key.idx⟩, ⟨44, 4, key.ring⟩, ⟨0, 32, m⟩]] []

/-! ## Chunks that have come -/

/-- Held packets of a chunk of a source, in order. -/
def heldParts (x : Coll) (key : CollKey) (src lo hi : Nat) : List CollPart :=
  sortOn CollPart.pos (x.held.filter (fun p => p.key == key && p.src == src && lo ≤ p.pos && p.pos < hi))

/-- A chunk's bytes, once all its packets have come. -/
def heldChunk (x : Coll) (key : CollKey) (src lo hi : Nat) : Option (List Byte) :=
  let bs := (heldParts x key src lo hi).flatMap CollPart.bytes
  if bs.length = hi - lo then some bs else none

/-- A chunk's packets are no longer held. -/
def dropChunk (s : State) (item : ItemRef) (key : CollKey) (src lo hi : Nat) : State :=
  modCollOf s item (fun x => { x with held := x.held.filter (fun p => !(p.key == key && p.src == src && lo ≤ p.pos && p.pos < hi)) })

/-! ## Backup substitution (R315 to R318) -/

/-- The backup rank of a primary. -/
def backupOf (g : Group) (k : Nat) : Option Nat := ((List.range g.b).find? (fun j => g.backupMap.getD j 65536 == k)).map (g.n + ·)

/-- The flow of this device's own shard at a collector. -/
def collectorFlow (r : CollRun) : Flow := treeReduce r r.g.rank

/-- A chunk of a source at the collector. -/
def atCollector (r : CollRun) (x : Coll) (src m : Nat) : Option (List Byte) :=
  let f := collectorFlow r
  let lo := m * r.d.chunkBytes
  heldChunk x f.key src lo (Nat.min f.total (lo + r.d.chunkBytes))

/-- Tick on which the last packet of a source's chunk came to the collector, once it has. -/
def cameTick (r : CollRun) (x : Coll) (src m : Nat) : Option Nat :=
  let f := collectorFlow r
  let lo := m * r.d.chunkBytes
  (atCollector r x src m).map (fun _ => ((heldParts x f.key src lo (lo + r.d.chunkBytes)).map (fun p => p.came / 10)).foldl Nat.max 0)

/-- Tick of a chunk's deadline, once it runs. -/
def deadlineTick (x : Coll) (m : Nat) : Option Nat := (x.deadlines.find? (fun d => d.1 == m)).map (fun d => d.2 / 10)

/-- The rank whose copy a slot's chunk is taken from at a tick, if any (R316): the current source's as it comes; from the deadline on the
other's too, when it came before the current one's and, after the deadline, its tick is over. This device's own slot is always its own. -/
def pickSource (r : CollRun) (x : Coll) (now k m : Nat) : Option Nat :=
  if k = r.g.rank then some k
  else
    let b := backupOf r.g k
    let cur : Nat := if x.switched.contains k then b.getD k else k
    let alt : Option Nat := if x.switched.contains k then some k else b
    let due := (deadlineTick x m).getD now
    let passed : Bool := x.passed.contains m || due < now
    let usable (a : Nat) : Option Nat := match cameTick r x a m with
      | some t => if passed && (t ≤ due || t < now) then some (Nat.max t due) else none
      | none => none
    match cameTick r x cur m, alt.bind usable with
    | some t, some u => if u < t then alt else some cur
    | some _, none => some cur
    | none, some _ => alt
    | none, none => none

/-- A choice recorded; taking the other source than the current one is a substitution and switches the slot for the rest of the
instance, once (R317). -/
def recordChoice (x : Coll) (k m src : Nat) (own : Bool) : Coll :=
  let isBackup := src != k
  let substituted := !own && isBackup != x.switched.contains k
  { x with
    chosen := x.chosen ++ [(k, m, src)]
    substitutions := if substituted then x.substitutions + 1 else x.substitutions
    switched := if substituted && !x.switched.contains k then x.switched ++ [k] else x.switched }

/-- The source chosen for a slot's chunk. -/
def chosenOf (x : Coll) (k m : Nat) : Option Nat := (x.chosen.find? (fun c => c.1 == k && c.2.1 == m)).map (fun c => c.2.2)

/-- A copy that was not chosen is discarded, its credit returned and its sender told (R314, R316). -/
def discardCopy (s : State) (r : CollRun) (x : Coll) (src m : Nat) : State :=
  if (atCollector r x src m).isNone then s
  else
    let f := collectorFlow r
    let lo := m * r.d.chunkBytes
    let s := modCollOf (dropChunk s r.i.ref f.key src lo (lo + r.d.chunkBytes)) r.i.ref (fun y => { y with refused := y.refused ++ [(src, m)] })
    sendAck (sendNotUsed s r x.number src f.key m) r x.number 0 src f.key m

/-- The choice for one slot's chunk, and the copies it leaves over. -/
def settleSlot (s : State) (r : CollRun) (k m : Nat) : State :=
  let copies := k :: (backupOf r.g k).toList
  let drop (s : State) (used : Nat) : State := copies.foldl (fun s c => if c = used then s else match collOf s r.i.ref with
    | some x => discardCopy s r x c m
    | none => s) s
  match collOf s r.i.ref with
  | none => s
  | some x => match chosenOf x k m with
    | some used => drop s used
    | none => match pickSource r x (s.now / 10) k m with
      | some src => drop (modCollOf s r.i.ref (fun y => recordChoice y k m src (k == r.g.rank))) src
      | none => s

/-- Chunks of a number of bytes. -/
def chunkCount (d : CollD) (total : Nat) : Nat := ceilDiv total (Nat.max 1 d.chunkBytes)

/-- Every slot of every chunk at a collector. -/
def settleSlots (s : State) (r : CollRun) : State :=
  if r.d.backup = false ∨ r.g.n ≤ r.g.rank then s
  else (List.range (chunkCount r.d (collectorFlow r).total)).foldl (fun s m => (List.range r.g.n).foldl (fun s k => settleSlot s r k m) s) s

/-! ## One chunk of one flow -/

/-- T1-emulation of the item's context: additions by R54 and R55. -/
def collT1 (s : State) (r : CollRun) : Bool := isT1 s r.i.ref.ctx

/-- FP32 numbers of a wire chunk. -/
def wireNums (t1 : Bool) (bs : List Byte) : List Num := (words32 bs).map (decodeElem t1 11)

/-- The FP32 bytes of partial sums that an addition has made; a NaN among them is the canonical one of the context (R41, R56). -/
def sumBytes (t1 : Bool) (xs : List Num) : List Byte := packCodes 32 (xs.map (fun x => if x.isNan then nanCode t1 11 else encodeFloat fmtFP32 x))

/-- A contribution's bytes on the wire, no bit changed: FP32 as they are, BF16 widened exactly, whose code is the upper half of the
FP32 code (R24, R307). -/
def widenWire (fmt : Nat) (bs : List Byte) : List Byte :=
  if fmt = 9 then (chunksOf (bs.length + 1) 2 bs).flatMap (fun p => [0, 0] ++ p) else bs

/-- Two partial sums added element by element on the Bench, the first operand first (R307). -/
def addChunks (t1 : Bool) (a b : List Num) : Fl (List Num) := Fl.mapList (fun (p : Num × Num) => uAdd t1 p.1 p.2) (a.zip b)

/-- The scale e_d of one block of a contribution, and whether a NaN or an infinity flags it (R319). -/
def blockScale (xs : List Num) : Int × Bool :=
  if xs.any (fun x => x.isNan || x.isInf) then (-128, true)
  else
    let fits (k : Int) : Bool := xs.all (fun x =>
      let v := (x.scale2 (-k)).nearestInt 0
      v ≤ 32767 && -32768 ≤ v)
    (((List.range 256).map (fun k => (k : Int) - 128)).find? fits |>.getD 127, false)

/-- A signed byte. -/
def sbyte (b : Byte) : Int := b.toInt

/-- Bytes of a signed byte. -/
def byteOfInt (v : Int) : Byte := BitVec.ofInt 8 v

/-- Byte ranges of a member's contribution read, with arbitrary bytes in lines that it also writes in no fixed order (R255). -/
def readSource (s : State) (r : CollRun) (rs : List (Nat × Nat)) : State × Option (List (List Byte)) × Option Nat :=
  match itemReads s r.i.ref none rs with
  | (t, some bss, c) =>
    let out := (rs.zip bss).foldl (fun (acc : State × List (List Byte)) p =>
      let (u, b) := blur acc.1 (blurLines acc.1 r.i.ref) p.1.1 p.2; (u, acc.2 ++ [b])) (t, [])
    (out.1, some out.2, c)
  | x => x

/-- Contribution elements from a list of byte ranges. -/
def readContribution (s : State) (r : CollRun) (rs : List (Nat × Nat)) : State × Option (List Num) × Option Nat :=
  match readSource s r rs with
  | (t, some bss, c) => (t, some ((unpackCodes (8 * redBytes r.d.fmtIn) ((bss.map List.length).sum / redBytes r.d.fmtIn) (bss.flatMap id)).map
      (decodeElem (collT1 s r) r.d.fmtIn)), c)
  | (t, none, c) => (t, none, c)

/-- A source of a flow as bytes between two positions: its bytes, nothing yet, or a fault's code. -/
def collBytes (s : State) (r : CollRun) (x : Coll) (f : Flow) (m lo hi : Nat) (src : CollIn) : State × Option (List Byte) × Option Nat :=
  match src with
  | .rank k => (s, heldChunk x f.key k lo hi, none)
  | .slot k => (s, match chosenOf x k m with
      | some c => heldChunk x f.key c lo hi
      | none => none, none)
  | .level1 off =>
    let bs := (x.level1.find? (fun p => p.1 == f.key.ring)).map Prod.snd |>.getD []
    (s, if off + hi ≤ bs.length then some ((bs.drop (off + lo)).take (hi - lo)) else none, none)
  | .finished =>
    let bs := (sortOn (fun p => p.2.1) (x.finished.filter (fun p => p.1 == f.key.ring))).flatMap (fun p => p.2.2)
    (s, if hi ≤ bs.length then some ((bs.drop lo).take (hi - lo)) else none, none)
  | .maxScale => (s, if hi ≤ x.runScale.length then some ((x.runScale.drop lo).take (hi - lo)) else none, none)
  | .value => (s, (x.values.find? (fun p => p.1 == r.g.rank)).map (fun p => leBytes 8 p.2.toNat), none)
  | .ownScale =>
    let z := redBytes r.d.fmtIn
    match readContribution s r [(r.src + 28 * lo * z, 28 * (hi - lo) * z)] with
    | (t, some xs, c) => (t, some ((chunksOf (hi - lo + 1) 28 xs).map (fun b => byteOfInt (blockScale b).1)), c)
    | (t, none, c) => (t, none, c)
  | .src rs =>
    if f.key.phase = 0 then
      let z := redBytes r.d.fmtIn
      match readSource s r (subRanges rs (lo / 4 * z) (hi / 4 * z)) with
      | (t, some bss, c) => (t, some (widenWire r.d.fmtIn (bss.flatMap id)), c)
      | (t, none, c) => (t, none, c)
    else match readSource s r (subRanges rs lo hi) with
      | (t, some bss, c) => (t, some (bss.flatMap id), c)
      | (t, none, c) => (t, none, c)

/-- All sources of a chunk. -/
def allBytes (s : State) (r : CollRun) (x : Coll) (f : Flow) (m lo hi : Nat) : State × Option (List (List Byte)) × Option Nat :=
  f.ins.foldl (fun (acc : State × Option (List (List Byte)) × Option Nat) i => match acc.2.1 with
    | none => acc
    | some bss => match collBytes acc.1 r x f m lo hi i with
      | (t, some bs, c) => (t, some (bss ++ [bs]), acc.2.2 <|> c)
      | (t, none, c) => (t, none, acc.2.2 <|> c)) (s, some [], none)

/-- The sources of a chunk combined in order: FP32 sums, the maximum scale, or the one source, whose bits no addition has changed (R24). -/
def combine (t1 : Bool) (phase : Nat) (bss : List (List Byte)) : Fl (List Byte) :=
  match bss with
  | [] => ⟨[], 0⟩
  | [b] => ⟨b, 0⟩
  | b :: rest =>
    if phase = 0 then (Fl.foldl (addChunks t1) ⟨wireNums t1 b, 0⟩ (rest.map (wireNums t1))).map (sumBytes t1)
    else if phase = 2 then ⟨rest.foldl (fun a c => (a.zip c).map (fun (p, q) => if sbyte p < sbyte q then q else p)) b, 0⟩
    else ⟨b, 0⟩

/-- Final sums rounded once into fmt_out, saturating, in T1-emulation too (R43, R44, R307). -/
def finalBytes (t1 : Bool) (fmt : Nat) (xs : List Num) : Fl (List Byte) :=
  (Fl.mapList (convFloatSat true ⟨.nearest, false, t1⟩ fmt) xs).map (packCodes (fmtWidth fmt))

/-- Bytes written to a list of ranges. -/
def writeAt (s : State) (i : Item) (rs : List (Nat × Nat)) (bs : List Byte) : State × Option Nat :=
  let (s, c, _) := rs.foldl (fun (acc : State × Option Nat × List Byte) p =>
    let (t, c) := itemWrite acc.1 i.ref none p.1 (acc.2.2.take p.2) false
    (t, acc.2.1 <|> c, acc.2.2.drop p.2)) (s, none, bs)
  (s, c)

/-- A version's write goes to a claimed buffer, which R172 leaves (R135). -/
def writeOut (s : State) (r : CollRun) (rs : List (Nat × Nat)) (bs : List Byte) : State × Option Nat :=
  let (t, c) := writeAt s r.i rs bs
  (if r.d.versioned then t.modItem r.i.ref (fun j => { j with written := r.i.written }) else t, c)

/-- What a flow leaves of a chunk at this device. -/
def leaveChunk (s : State) (r : CollRun) (f : Flow) (m lo hi : Nat) (bs : List Byte) : State × Option Nat :=
  let keep (g : Coll → Coll) : State × Option Nat := (modCollOf s r.i.ref g, none)
  match f.out with
  | .nothing => (s, none)
  | .level1 => keep (fun x =>
      let old := (x.level1.find? (fun p => p.1 == f.key.ring)).map Prod.snd |>.getD []
      { x with level1 := upsert (fun p => p.1 == f.key.ring) (f.key.ring, old ++ bs) x.level1 })
  | .shard rs =>
    let z := redBytes r.d.fmtOut
    let out := finalBytes (collT1 s r) r.d.fmtOut (wireNums (collT1 s r) bs)
    let (t, c) := writeOut (addFlags s r.i.ref out.fl) r (subRanges rs (lo / 4 * z) (hi / 4 * z)) out.val
    (modCollOf t r.i.ref (fun x => { x with finished := x.finished ++ [(f.key.ring, m, out.val)] }), c)
  | .bytes rs => writeOut s r (subRanges rs lo hi) bs
  | .maxScale => keep (fun x => { x with runScale := x.runScale ++ bs })
  | .scales => keep (fun x => { x with
      scales := x.scales ++ bs.map (fun b => byteOfInt (let v := sbyte b + r.d.headroom; if 127 < v then 127 else v)) })
  | .value k => keep (fun x => { x with values := upsert (fun p => p.1 == k) (k, wordAt bs 0) x.values })

/-- The next chunk of a flow. -/
def nextChunk (x : Coll) (f : Flow) : Nat := ((x.progress.find? (fun p => p.1 == f.level && p.2.1 == f.key)).map (fun p => p.2.2)).getD 0

/-- A destination has a chunk credit left for this source on a ring: 4, for which R305 sizes its buffer, and none before it grants them
(R312, R314). -/
def hasCredit (r : CollRun) (x : Coll) (dest ring : Nat) : Bool :=
  (x.unacked.filter (fun u => u.dest == dest && u.key.ring == ring)).length < 4 && (!r.d.versioned || x.granted.contains dest)

/-- Sources whose held chunk this one uses up. -/
def usedSources (x : Coll) (f : Flow) (m : Nat) : List Nat := f.ins.filterMap (fun i => match i with
  | .rank k => some k
  | .slot k => chosenOf x k m
  | _ => none)

/-- Chunks that wait for credits are sent as far as their credits go, in the order in which they were formed (R314). -/
def sendOwed (s : State) (r : CollRun) : State := match collOf s r.i.ref with
  | none => s
  | some x => x.owed.foldl (fun s o => match collOf s r.i.ref with
      | some y =>
        if hasCredit r y o.dest o.key.ring then
          modCollOf (sendChunk s r y.number y.version o) r.i.ref (fun z => { z with
            owed := z.owed.erase o, unacked := z.unacked ++ [{ dest := o.dest, key := o.key, chunk := o.chunk }] })
        else s
      | none => s) s

/-- A chunk that has been formed: left here, acknowledged to its sources, whose buffer space is free again, and sent on as credits allow
(R314). -/
def emitChunk (s : State) (r : CollRun) (x : Coll) (f : Flow) (m lo hi : Nat) (bs : List Byte) : State :=
  match leaveChunk s r f m lo hi bs with
  | (t, some c) => failItem t r.i.ref c none
  | (t, none) =>
    let t := (usedSources x f m).foldl (fun t k => sendAck (dropChunk t r.i.ref f.key k lo hi) r x.number x.crushNo k f.key m) t
    sendOwed (modCollOf t r.i.ref (fun y => { y with
      progress := upsert (fun p => p.1 == f.level && p.2.1 == f.key) (f.level, f.key, m + 1) y.progress
      owed := y.owed ++ f.dests.map (fun k => { dest := k, key := f.key, base := f.base, chunk := m, pos := lo, bytes := bs })
      chunksDone := if f.mine then y.chunksDone + 1 else y.chunksDone })) r

/-- A flow that starts here forms a chunk only when it can be sent: nothing of its ring still waits for the credit. -/
def startsHere (f : Flow) : Bool := (f.ins.all (fun i => match i with
  | .rank _ => false
  | .slot _ => false
  | _ => true))

/-- One chunk of a flow, when its sources are there, a core for its additions (R200), and, where the flow starts here, its credits; whether
it has gone on. A chunk that came is added without waiting for the next hop's credit, so that its own is returned (R314). -/
def stepFlow (s : State) (r : CollRun) (f : Flow) : State × Bool :=
  match collOf s r.i.ref with
  | none => (s, false)
  | some x =>
    let m := nextChunk x f
    let lo := m * r.d.chunkBytes
    let hi := Nat.min f.total (lo + r.d.chunkBytes)
    if f.total ≤ lo ∨ (startsHere f && f.dests.any (fun k => !hasCredit r x k f.key.ring
        || x.owed.any (fun o => o.dest == k && o.key.ring == f.key.ring))) = true then (s, false)
    else match allBytes s r x f m lo hi with
      | (t, _, some c) => (failItem t r.i.ref c none, true)
      | (t, none, none) => (t, false)
      | (t, some bss, none) =>
        if f.key.phase = 0 ∧ 1 < bss.length ∧ collServed t r.i.ref.ctx = false then (t, false) else
        let out := combine (collT1 s r) f.key.phase bss
        (emitChunk (addFlags t r.i.ref out.fl) r x f m lo hi out.val, true)

/-- The flows run as far as they can, one chunk of each in turn, one that has none ready passed over; the first argument bounds the turns
(R314). -/
def runFlows : Nat → State → CollRun → List Flow → State
  | 0, s, _, _ => s
  | n + 1, s, r, fs =>
    let (s, more) := fs.foldl (fun (acc : State × Bool) f => let (t, b) := stepFlow acc.1 r f; (t, acc.2 || b)) (sendOwed s r, false)
    if more then runFlows n s r fs else s

/-- Turns that the flows of an item can take. -/
def flowTurns (r : CollRun) (fs : List Flow) : Nat := (fs.map (fun f => chunkCount r.d f.total)).sum + 1

/-! ## The Crusher (R292, R293, R319 to R323) -/

/-- The 64 bytes of a block (Table 8 of 10_spejan.md). -/
def blockBytes (ovf : Bool) (scale : Int) (adds index : Nat) (vs : List Int) : List Byte :=
  leBytes 8 (wordOf [⟨63, 1, b2n ovf⟩, ⟨48, 8, (scale % 256).toNat⟩, ⟨40, 8, adds⟩, ⟨0, 32, index⟩]).toNat
    ++ vs.flatMap (fun v => leBytes 2 (v % 65536).toNat)

/-- Fields of a block. -/
def blkWord (b : List Byte) : W64 := wordAt b 0
def blkOvf (b : List Byte) : Bool := bitAt (blkWord b) 63
def blkScale (b : List Byte) : Int := sbits (blkWord b) 55 48
def blkIndex (b : List Byte) : Nat := bits (blkWord b) 31 0
def blkVals (b : List Byte) : List Int := (unpackCodes 16 28 (b.drop 8)).map (fun v => signedOf 16 v)

/-- A block with ovf set and nothing else changed. -/
def flagBlock (b : List Byte) : List Byte := leBytes 8 (blkWord b ||| BitVec.ofNat 64 (2 ^ 63)).toNat ++ b.drop 8

/-- The adder's result for an arriving block and the local one (R293). A local block that its own member flagged has no sum to add. -/
def crushAdd (inc loc : List Byte) : List Byte :=
  if blkOvf inc then inc
  else if blkScale loc ≠ blkScale inc ∨ blkOvf loc then flagBlock inc
  else
    let sums := (blkVals inc).zip (blkVals loc) |>.map (fun p => p.1 + p.2)
    if sums.all (fun v => -32768 ≤ v && v ≤ 32767) then
      blockBytes false (blkScale inc) (bits (blkWord inc) 47 40 + 1) (blkIndex inc) sums
    else flagBlock inc

/-- A member's contribution block at the agreed scale (R319). -/
def ownBlock (index : Nat) (scale : Int) (xs : List Num) : List Byte :=
  if (blockScale xs).2 then blockBytes true scale 0 index (List.replicate 28 0)
  else blockBytes false scale 1 index (xs.map (fun x => (x.scale2 (-scale)).nearestInt 0))

/-- Where the contribution blocks lie in buf: behind the chunk space (R305). -/
def crushBase (r : CollRun) : Nat := r.d.buf + 4 * r.d.chunkPkts * 4096 * r.d.sources r.g

/-- Blocks of each shard. -/
def shardBlocks (r : CollRun) : Nat := r.d.count / (28 * Nat.max 1 r.g.n)

/-- Blocks sent to the next rank, at most 64 in a packet, which carries in req_id the number that rank gave the instance (R292, R319). -/
def sendBlocks (s : State) (r : CollRun) (bs : List (List Byte)) : State :=
  match (collOf s r.i.ref).bind Coll.crushPeer with
  | some peer => (chunksOf (bs.length + 1) 64 bs).foldl (fun s p =>
      s.sendPacket (mkPacket (rankDevice r.g ((r.g.rank + 1) % r.g.n)) s.deviceNumber opCrushData (hopLimit s) peer
        p.length 0 0 0 (p.flatMap id))) s
  | none => s

/-- The final value of an unflagged element, converted as the Foburas T1 converts (R321). -/
def crushValue (scale v : Int) : Num := flushSub fmtFP32 ((Num.ofInt v).scale2 scale |>.toFmt fmtFP32)

/-- A finished block of this device's own shard: its result, or a re-run that is due (R321, R322). -/
def finishBlock (s : State) (r : CollRun) (b : List Byte) : State :=
  let k := blkIndex b
  if blkOvf b then modCollOf s r.i.ref (fun x => { x with rerun := x.rerun ++ [k], flaggedBlocks := x.flaggedBlocks + 1 })
  else
    let vs := (blkVals b).map (crushValue (blkScale b))
    let lost : Bool := ((blkVals b).zip vs).any (fun p => p.1 != 0 && p.2.isZero)
    let out := (finalBytes (collT1 s r) r.d.fmtOut vs).with (flagIf lost flUnderflow ||| flagIf (vs.any Num.isInf) flOverflow)
    modCollOf (addFlags s r.i.ref out.fl) r.i.ref (fun x => { x with blocks := x.blocks ++ [(k, out.val)] })

/-- Local contribution blocks read from buf. -/
def localBlock (s : State) (r : CollRun) (k : Nat) : State × Option (List Byte) :=
  match itemRead s r.i.ref none (crushBase r + 64 * k) 64 with
  | (t, .ok bs) => (t, some bs)
  | (t, _) => (t, none)

/-- Blocks that came by a port meet its adder: each is added to the local block, and forwarded or, in this device's own shard,
finished; the adder counts the blocks it flagged (R292, R293, R319). A block whose local block cannot be read yet waits. -/
def crushBlocks (s : State) (r : CollRun) (bs : List (Nat × List Byte)) : State :=
  let (s, out) := bs.foldl (fun (acc : State × List (List Byte)) (p, b) =>
    match localBlock acc.1 r (blkIndex b) with
    | (t, some l) =>
      let y := crushAdd b l
      let t := if blkOvf y && !blkOvf b then t.modPort p (fun q => { q with crushFlagged := q.crushFlagged + 1 }) else t
      if blkIndex b / Nat.max 1 (shardBlocks r) = r.g.rank then (finishBlock t r y, acc.2) else (t, acc.2 ++ [y])
    | (t, none) => (modCollOf t r.i.ref (fun x => { x with crushIn := x.crushIn ++ [(p, b)] }), acc.2)) (s, [])
  if out.isEmpty then s else sendBlocks s r out

/-- The blocks that wait for their local ones meet their adders. -/
def crushWaiting (s : State) (r : CollRun) : State := match collOf s r.i.ref with
  | some x =>
    if x.armed && !x.crushIn.isEmpty then crushBlocks (modCollOf s r.i.ref (fun y => { y with crushIn := [] })) r x.crushIn else s
  | none => s

/-- The contribution blocks are written into buf once the write's way is clear, the adders are armed, and the partial sums of the shard
before this rank's start here (R319). -/
def startCrush (s : State) (r : CollRun) (x : Coll) : State :=
  let z := redBytes r.d.fmtIn
  let (s, clear) := clearWay s r.i.ref none (crushBase r, 64 * (r.d.count / 28)) true
  if !clear then s
  else match readContribution s r [(r.src, r.d.count * z)] with
  | (t, _, some c) => failItem t r.i.ref c none
  | (t, none, none) => t
  | (t, some xs, none) =>
    let blocks := ((chunksOf (xs.length + 1) 28 xs).zip (List.range (r.d.count / 28))).map (fun (b, k) =>
      ownBlock k (sbyte (x.scales.getD k 0)) b)
    match itemWrite t r.i.ref none (crushBase r) (blocks.flatMap id) false with
    | (t, some c) => failItem t r.i.ref c none
    | (t, none) =>
      let n := r.g.n
      let first := (r.g.rank + n - 1) % n * shardBlocks r
      let t := sendBlocks (modCollOf t r.i.ref (fun y => { y with armed := true })) r ((blocks.drop first).take (shardBlocks r))
      crushWaiting t r

/-- One flagged block added again on the Bench of its owner from every member's src, in ring order (R322). Every member's src is taken to
lie at the same local offset. -/
def rerunBlock (s : State) (r : CollRun) (k : Nat) : State :=
  let n := r.g.n
  let z := redBytes r.d.fmtIn
  let t1 := collT1 s r
  let order := (List.range n).map (fun q => (r.g.rank + 1 + q) % n)
  let place (q : Nat) : Nat × Nat := ((if q = r.g.rank then r.src else rankDevice r.g q * 2 ^ 48 + offOf r.src) + 28 * k * z, 28 * z)
  match itemReads s r.i.ref none (order.map place) with
  | (t, _, some c) => failItem t r.i.ref c none
  | (t, none, none) => t
  | (t, some bss, none) =>
    let rows := bss.map (fun bs => (unpackCodes (8 * z) 28 bs).map (decodeElem t1 r.d.fmtIn))
    let sum : Fl (List Num) := match rows with
      | [] => ⟨[], 0⟩
      | a :: rest => Fl.foldl (addChunks t1) ⟨a, 0⟩ rest
    let out := sum.bind (finalBytes t1 r.d.fmtOut)
    modCollOf (addFlags t r.i.ref out.fl) r.i.ref (fun x => { x with blocks := x.blocks ++ [(k, out.val)], rerun := x.rerun.filter (· != k) })

/-- Completion of a shard's re-runs: CRUSH_DONE to every member, this one's own completion noted (R323). -/
def sendDone (s : State) (r : CollRun) (x : Coll) : State :=
  let s := ((List.range r.g.n).filter (· != r.g.rank)).foldl (fun s k =>
    sendMsg s (rankDevice r.g k) 0x02
      [wordOf [⟨54, 10, r.g.index⟩, ⟨50, 4, r.d.op⟩, ⟨32, 16, r.g.rank⟩, ⟨0, 32, x.number⟩],
       wordOf [⟨48, 16, r.g.rank⟩, ⟨0, 32, x.flaggedBlocks⟩]] []) s
  modCollOf s r.i.ref (fun y => { y with closed := true, completions := y.completions ++ [r.g.rank] })

/-- The shard's finished blocks written to dst, cut into chunks as a native reduction cuts them. -/
def closeCrush (s : State) (r : CollRun) (x : Coll) : State :=
  let z := redBytes r.d.fmtOut
  let bytes := (sortOn Prod.fst x.blocks).flatMap Prod.snd
  let size := r.d.chunkBytes / 4 * z
  let parts := chunksOf (bytes.length + 1) size bytes
  match writeOut s r (shardDst r 0) bytes with
  | (t, some c) => failItem t r.i.ref c none
  | (t, none) =>
    sendDone (modCollOf t r.i.ref (fun y => { y with
      finished := (parts.zip (List.range parts.length)).map (fun (p, m) => (0, m, p)), chunksDone := parts.length })) r x

/-- The Crusher steps of an item, as far as they can go; the re-runs follow the last addition of this device's own shard (R322). -/
def runCrush (s : State) (r : CollRun) : State :=
  if r.d.crusher = false ∨ r.g.n ≤ r.g.rank then s
  else match collOf s r.i.ref with
    | none => s
    | some x =>
      if x.closed then crushWaiting s r
      else if x.armed = false then (if x.scales.length = r.d.count / 28 ∧ (r.g.n ≤ 1 ∨ x.crushPeer.isSome) then startCrush s r x else s)
      else
        let s := crushWaiting s r
        let s := match collOf s r.i.ref with
          | some y =>
            if collServed s r.i.ref.ctx ∧ y.blocks.length + y.rerun.length = shardBlocks r then
              y.rerun.foldl (fun s k => rerunBlock s r k) s
            else s
          | none => s
        match collOf s r.i.ref with
        | some y => if y.rerun.isEmpty ∧ y.blocks.length = shardBlocks r then closeCrush s r y else s
        | none => s

/-! ## The life of a collective -/

/-- The fold of a finished shard: chunk sums of squares, added in chunk order (R143, R313). DESIGN CHOICE: with several rings the chunks of one
come after all those of the ring before it (notes/assumptions/112.md). -/
def foldValue (t1 : Bool) (d : CollD) (x : Coll) : Fl W64 :=
  let chunks := sortOn (fun p => p.1) (sortOn (fun p => p.2.1) x.finished)
  let sums := Fl.mapList (fun (p : Nat × Nat × List Byte) => (Fl.mapList (fun v => mul64 v v) (arrayNums t1 d.fmtOut p.2.2)).bind sum64) chunks
  (sums.bind sum64).map (fun v => BitVec.ofNat 64 (roundEncode fmtFP64 v))

/-- The aux of a collective that completes (R324). -/
def collAux (d : CollD) (x : Coll) : BitVec 32 :=
  if d.reduces then BitVec.ofNat 32 (Nat.min x.flaggedBlocks 0xFFFF * 65536 + Nat.min x.substitutions 0xFFFF)
  else if d.versioned then BitVec.ofNat 32 x.version else 0

/-- A primary told that its chunks were not used ends SUPERSEDED with BACKUP_REPLACED (R318, R324). -/
def outcomeOf (i : Item) (r : CollRun) (x : Coll) : Item :=
  if r.d.reduces ∧ x.notUsed ≠ 0 ∧ r.g.rank < r.g.n then
    { i with status := .superseded, code := BitVec.ofNat 8 codeBackup, aux := BitVec.ofNat 32 (Nat.min x.notUsed 0xFFFF) }
  else { i with aux := collAux r.d x }

/-- What the staging buffer holds after an instance is arbitrary: no rule states it. -/
def scrambleStaging (s : State) (r : CollRun) : State := scrambleAt s r.i.ref.ctx r.d.buf (r.d.bufBytes r.g)

/-- Every flow has carried all its chunks and every chunk sent is acknowledged; under CRUSHER every owner has reported completion, so that no
block is still to be added (R310, R323). -/
def collComplete (r : CollRun) (x : Coll) (fs : List Flow) : Bool :=
  x.unacked.isEmpty && x.owed.isEmpty && fs.all (fun f => f.total ≤ nextChunk x f * r.d.chunkBytes)
    && (!r.d.crusher || r.g.n ≤ r.g.rank || (x.closed && (List.range r.g.n).all (fun k => x.completions.contains k)))

/-- The global norm of the values gathered: an FP64 sum in ascending rank (R143, R313). -/
def normSum (r : CollRun) (x : Coll) : Fl Num :=
  sum64 ((List.range r.g.n).map (fun k => decodeFloat fmtFP64 (((x.values.find? (fun p => p.1 == k)).map (fun p => p.2.toNat)).getD 0)))

/-- Words 0 and 1 of the norm cell written, and word 2 made ready as the flagged final write (R142, R313). -/
def writeNorm (s : State) (r : CollRun) (x : Coll) : State :=
  let sum := normSum r x
  let root := sum.bind sqrt64
  let code (v : Num) : List Byte := leBytes 8 (roundEncode fmtFP64 v)
  match itemWrite (addFlags s r.i.ref (root.fl ||| infFlag [sum.val, root.val])) r.i.ref none r.d.normCell (code sum.val ++ code root.val) false with
  | (t, some c) => failItem t r.i.ref c none
  | (t, none) => addFlagged t r.i.ref (r.d.normCell + 16) (wordOf [⟨32, 32, r.d.step⟩, ⟨0, 1, 1⟩])

/-- The copies a collector's additions did not use that have not come in full (R315, R316). -/
def copiesOwed (r : CollRun) (x : Coll) : List LateCopy :=
  if r.d.backup = false ∨ r.g.n ≤ r.g.rank then []
  else
    let f := collectorFlow r
    (List.range (chunkCount r.d f.total)).flatMap (fun m => (List.range r.g.n).flatMap (fun k =>
      let lo := m * r.d.chunkBytes
      let hi := Nat.min f.total (lo + r.d.chunkBytes)
      let unused := ((if k = r.g.rank then [] else [k]) ++ (backupOf r.g k).toList).filter (fun c =>
        chosenOf x k m != some c && !x.refused.contains (c, m))
      unused.map (fun c => { item := r.i.ref, words := r.i.words, group := x.group, number := x.number, src := c, key := f.key, chunk := m,
                             left := ceilDiv (hi - lo) 4032 - (heldParts x f.key c lo hi).length })))

/-- A collective whose transfers are over: its outcome is fixed and only its own writes are left to settle; a versioned gather is left to
its commit (R310, R312). -/
def finishColl (s : State) (r : CollRun) (x : Coll) : State :=
  let s := scrambleStaging s r
  let s := { s with lateCopies := s.lateCopies ++ copiesOwed r x }
  let s := if r.d.op = 5 ∧ r.g.rank < r.g.n then writeNorm s r x else s
  let folds : Bool := r.d.reduces && r.d.fold
  let fold := foldValue (collT1 s r) r.d x
  let s := (if folds then addFlags s r.i.ref fold.fl else s).modItem r.i.ref (fun i => { outcomeOf i r x with
    normFolded := if folds then some fold.val else i.normFolded })
  if r.d.versioned ∧ r.g.rank < r.g.n then s.modItem r.i.ref (fun i => { i with shipped := true })
  else collShed (issued s r.i.ref) (collDie s r.i.ref.ctx)

/-- A fold or a norm's sum is still to be made on a core when the transfers are over (R200). -/
def closingWork (r : CollRun) : Bool := (r.d.reduces && r.d.fold) || (r.d.op == 5 && decide (r.g.rank < r.g.n))

/-- An instance that has begun goes on as far as it can. -/
def advanceColl (s : State) (item : ItemRef) : State :=
  match s.item item with
  | none => s
  | some i =>
    if i.stage ≠ .running ∨ i.shipped = true then s
    else match collRun s i with
      | none => s
      | some r =>
        let fs := flowsOf r
        let s := settleSlots s r
        let s := runFlows (flowTurns r fs) s r fs
        let s := runCrush s r
        let s := if r.d.crusher then runFlows (flowTurns r fs) s r fs else s
        match collOf s item, s.item item with
        | some x, some j => if j.stage = .running ∧ collComplete r x fs ∧ (closingWork r = false ∨ collServed s item.ctx = true) then finishColl s { r with i := j } x else s
        | _, _ => s

/-! ## Tag lines that arrive (R301, R311) -/

/-- A tag line and the data behind it. -/
structure CollTag where
  group : Nat
  op : Nat
  src : Nat
  number : Nat
  key : CollKey
  offset : Nat
  version : Nat
  chunk : Nat
  clean : Bool
  bytes : List Byte

def collTag (k : Packet) : CollTag :=
  let ws := bytesWords (k.data.take 64)
  { group := bits (wd ws 0) 63 54, op := bits (wd ws 0) 53 50, src := bits (wd ws 0) 47 32, number := bits (wd ws 0) 31 0
    key := ⟨bits (wd ws 0) 49 48, bits (wd ws 1) 63 48, bits (wd ws 1) 47 44⟩, offset := bits (wd ws 1) 39 0
    version := bits (wd ws 2) 63 32, chunk := bits (wd ws 2) 31 0
    clean := bits (wd ws 1) 43 40 == 0 && (List.range 5).all (fun i => wd ws (3 + i) == 0), bytes := k.data.drop 64 }

/-- Ranks a flow receives from; a slot's chunks come from its primary or its backup, and a backup's also stand behind this rank. -/
def flowSources (r : CollRun) (f : Flow) : List Nat :=
  f.ins.flatMap (fun i => match i with
    | .rank k => [k]
    | .slot k => k :: (backupOf r.g k).toList
    | _ => []) ++ (if r.d.backup && f.mine then (backupOf r.g r.g.rank).toList else [])

/-- The flow that a data packet belongs to: its key, its source, and an offset and a chunk number that agree (R301). -/
def flowOfTag (r : CollRun) (fs : List Flow) (t : CollTag) : Option Flow :=
  fs.find? (fun f => f.key == t.key && (flowSources r f).contains t.src && f.base ≤ t.offset && t.offset < f.base + f.total
    && (t.offset - f.base) % 4032 == 0 && (t.offset - f.base) / Nat.max 1 r.d.chunkBytes == t.chunk
    && t.bytes.length == roundUp (Nat.min 4032 (f.total - (t.offset - f.base))) 64)

/-- A tag line that disagrees with this member's item: the item ends and the error record names the instance (R301, R312). -/
def collMismatch (s : State) (r : CollRun) (t : CollTag) : State :=
  let err := s.nextError
  let s := raiseError s { cls := 0x12, sev := sevItem, unit := itemUnit r.i, item := some r.i.ref, ctx := none,
                          detail := [wordOf [⟨48, 10, t.group⟩, ⟨32, 16, t.src⟩, ⟨0, 32, t.number⟩]] }
  failItem s r.i.ref codeRemoteFault (some err)

/-- The deadline of a chunk at a collector starts at the first arrival of it from another device (R316). -/
def noteArrival (r : CollRun) (came : Nat) (t : CollTag) (x : Coll) : Coll :=
  if r.d.backup ∧ t.key.phase = 0 ∧ t.key.idx = r.g.rank ∧ x.deadlines.any (fun d => d.1 == t.chunk) = false then
    { x with deadlines := x.deadlines ++ [(t.chunk, came + 10 * r.d.chunkWait)] }
  else x

/-- A tag line checked against the item and taken: data is held, an acknowledgement returns its credit. -/
def takeTag (s : State) (r : CollRun) (came : Nat) (t : CollTag) : State :=
  match collOf s r.i.ref with
  | none => s
  | some x =>
    if t.op ≠ r.d.op ∨ t.clean = false then collMismatch s r t
    else if t.key.phase = phaseControl then
      if t.key.idx = grantIdx then modCollOf s r.i.ref (fun y => { y with granted := t.src :: y.granted })
      else
        let u : CollSent := { dest := t.src, key := ⟨t.offset, t.key.idx, t.key.ring⟩, chunk := t.chunk }
        if x.unacked.contains u then modCollOf s r.i.ref (fun y => { y with
          unacked := y.unacked.filter (· != u), crushPeer := if t.offset = 2 then some t.version else y.crushPeer })
        else collMismatch s r t
    else match flowOfTag r (flowsOf r) t with
      | none => collMismatch s r t
      | some f =>
        if r.d.versioned ∧ t.version ≠ x.version then collMismatch s r t
        else
          let pos := t.offset - f.base
          let p : CollPart := { key := t.key, src := t.src, pos := pos, bytes := t.bytes.take (Nat.min 4032 (f.total - pos)), chunk := t.chunk,
                                came := came, version := t.version }
          modCollOf s r.i.ref (fun y => noteArrival r came t { y with held := y.held ++ [p] })

/-- A packet held before its item began, as its tag line. -/
def partTag (op group number : Nat) (p : CollPart) : CollTag :=
  { group := group, op := op, src := p.src, number := number, key := p.key, offset := p.pos, version := p.version, chunk := p.chunk, clean := true,
    bytes := p.bytes }

/-- A packet of an instance whose item has not begun here is held as it came, with its offset and its time. A tag line whose op
differs from the others is told apart when the item begins. -/
def holdEarly (s : State) (t : CollTag) : State :=
  let s := if (s.coll t.group t.number).isSome then s else { s with colls := s.colls ++ [freshColl t.group t.number] }
  s.modColl t.group t.number (fun x => { x with
    held := x.held ++ [{ key := ⟨t.key.phase + 4 * t.op, t.key.idx, t.key.ring⟩, src := t.src, pos := t.offset, bytes := t.bytes, chunk := t.chunk, came := s.now, version := t.version }] })

/-- The instance of an item begins: what came early is checked and taken as it would have been (R301). -/
def beginColl (s : State) (r : CollRun) (number version : Nat) (value : Option W64) : State :=
  let early := ((s.coll r.g.index number).map Coll.held).getD []
  let x : Coll := { freshColl r.g.index number with
    item := r.i.ref, early := false, version := version, crushNo := s.crushNext.toNat, values := value.toList.map (fun v => (r.g.rank, v)) }
  let s := { s with
    colls := s.colls.filter (fun y => !(y.group == r.g.index && y.number == number)) ++ [x]
    crushNext := if r.d.crusher then s.crushNext + 1 else s.crushNext }
  early.foldl (fun s p =>
    takeTag s r p.came (partTag (p.key.phase / 4) r.g.index number { p with key := ⟨p.key.phase % 4, p.key.idx, p.key.ring⟩ })) s

/-- The credits of a versioned gather are granted to the ranks that send to this one (R312). -/
def grantCredits (s : State) (r : CollRun) (number : Nat) : State :=
  ((flowsOf r).flatMap (flowSources r)).dedup.foldl (fun s k => sendColl s r number k ⟨phaseControl, grantIdx, 0⟩ 0 0 0 0 []) s

/-! ## The commands of the items -/

/-- An own pin of an item is being taken. -/
def ownPinPending (s : State) (r : ItemRef) : Bool :=
  s.reqs.any (fun q => q.item == some r && match q.purpose with
    | .ownPin _ _ _ _ => true
    | _ => false)

/-- An item pins cur of a record for itself by one compare-swap (R312, R435). -/
def takeOwnPin (s : State) (i : Item) (a : Nat) : State :=
  if ownPinPending s i.ref then s
  else match readRecord s i.ref a with
    | (t, .fail c) => failItem t i.ref c none
    | (t, .wait) => t
    | (t, .ok bs) =>
      let w := wordAt bs 0
      let b := recCur w
      if recPins w b = 65535 then forgetLine t i.ref a
      else match casRecord t (some i.ref) (some i.ref.ctx) a w (pinWord w) (.ownPin a w b 0) with
        | (u, .done old) => if old = w then u.modItem i.ref (fun j => { j with ownPin := some (a, b, 0) }) else forgetLine u i.ref a
        | (u, .sent) => u
        | (u, .fail c) => failItem u i.ref c none

/-- The version that a gather's pinned buffer holds. -/
def pinnedVersion (s : State) (i : Item) : Nat := match i.ownPin with
  | some (a, b, _) => ((deviceRead s (offOf a) 64).2.map (fun bs => recVer (bytesWords bs) b)).getD 0
  | none => 0

/-- The value a NORM_ALLREDUCE takes from its accumulator, NaN when it is broken; the accumulator is cleared (R313). -/
def takeFold (s : State) (i : Item) (acc : Nat) : State × W64 :=
  let s := settleFolds s i.ref.ctx
  let f := (s.ctx i.ref.ctx).folds.getD acc ⟨0, false⟩
  (s.modCtx i.ref.ctx (fun x => { x with folds := x.folds.set acc ⟨0, false⟩ }),
    if f.broken then BitVec.ofNat 64 fmtFP64.nanBits else f.value)

/-- The claim of a versioned gather: the wait of R132. -/
def waitClaim (s : State) (i : Item) : State :=
  tryClaim (s.modItem i.ref (fun j => { j with stage := .waiting, waitFor := .claim })) i

/-- The instance begins with what it has taken, and runs. -/
def startColl (s : State) (i : Item) : State :=
  match collRun s i, i.collNo with
  | some r, some number =>
    let (s, value) : State × Option W64 := if r.d.op = 5 ∧ r.g.rank < r.g.n then (let p := takeFold s i r.d.acc; (p.1, some p.2)) else (s, none)
    let s := (beginColl s r number (pinnedVersion s i) value).modItem i.ref (fun j => { j with blur := sharedColl r })
    let s := if r.d.versioned ∧ r.g.rank < r.g.n then grantCredits s r number else s
    advanceColl (collGrab 32 s (collDie s i.ref.ctx)) i.ref
  | _, _ => s

/-- A COLLECTIVE that has its engines runs: a versioned gather pins its shard record and claims its buffer first
(R310, R312). -/
def runColl (s : State) (i : Item) : State :=
  if (collOf s i.ref).isSome then advanceColl s i.ref
  else
    let d := collD i.words
    let s := if d.versioned ∧ i.ownPin.isNone then takeOwnPin s i d.src else s
    match s.item i.ref with
    | none => s
    | some j =>
      if j.stage ≠ .running ∨ (d.versioned = true ∧ j.ownPin.isNone) then s
      else if d.versioned ∧ j.claim.isNone then
        let t := waitClaim s j
        match t.item i.ref with
        | some k => if k.stage = .running then startColl t k else t
        | none => t
      else startColl s j

/-- A running COLLECTIVE of an op. -/
def collItem (s : State) (c seq op : Nat) : Option Item := match runningItem s c seq kColl with
  | some i => if (collD i.words).op = op ∧ i.shipped = false then some i else none
  | none => none

/-- REDUCE_SCATTER (R307). -/
def execReduceScatter (c : CtxIx) (seq : Nat) (s : State) : Host.Outcome State Fault Refusal :=
  .next (match collItem s c.val seq 0 with
    | some i => runColl s i
    | none => s)

/-- ALL_GATHER (R309, R312). -/
def execAllGather (c : CtxIx) (seq : Nat) (s : State) : Host.Outcome State Fault Refusal :=
  .next (match collItem s c.val seq 1 with
    | some i => runColl s i
    | none => s)

/-- ALL_REDUCE (R308). -/
def execAllReduce (c : CtxIx) (seq : Nat) (s : State) : Host.Outcome State Fault Refusal :=
  .next (match collItem s c.val seq 2 with
    | some i => runColl s i
    | none => s)

/-- BROADCAST (R303). -/
def execBroadcast (c : CtxIx) (seq : Nat) (s : State) : Host.Outcome State Fault Refusal :=
  .next (match collItem s c.val seq 3 with
    | some i => runColl s i
    | none => s)

/-- ALL_TO_ALL (R303). -/
def execAllToAll (c : CtxIx) (seq : Nat) (s : State) : Host.Outcome State Fault Refusal :=
  .next (match collItem s c.val seq 4 with
    | some i => runColl s i
    | none => s)

/-- NORM_ALLREDUCE (R313). -/
def execNormAllreduce (c : CtxIx) (seq : Nat) (s : State) : Host.Outcome State Fault Refusal :=
  .next (match collItem s c.val seq 5 with
    | some i => runColl s i
    | none => s)

/-- The commit of a versioned gather: the buffer's version number becomes v, then one compare-swap (R312). -/
def gatherCommit (s : State) (i : Item) : State :=
  match i.claim, collOf s i.ref with
  | some (a, b), some x =>
    if outstanding s i ∨ commitPending s i.ref ∨ i.staged.isEmpty = false then s
    else match recordWrite s i (versionAddr a b) (leBytes 4 x.version) with
      | (t, some c) => failItem t i.ref c none
      | (t, none) => match t.item i.ref with
        | some j => if outstanding t j ∨ j.staged.isEmpty = false then t else commitBuffer t j a b
        | none => t
  | _, _ => s

/-- VERSIONED_GATHER_COMMIT (R312). -/
def execVersionedGatherCommit (c : CtxIx) (seq : Nat) (s : State) : Host.Outcome State Fault Refusal :=
  .next (match runningItem s c.val seq kColl with
    | some i => if (collD i.words).versioned = true ∧ i.shipped = true then gatherCommit s i else s
    | none => s)

/-- CHUNK_DEADLINE: the deadline of a chunk passes at a collector (R316). -/
def execChunkDeadline (c : CtxIx) (seq chunk : Nat) (s : State) : Host.Outcome State Fault Refusal :=
  .next (match runningItem s c.val seq kColl with
    | some i => match collOf s i.ref with
      | some x => match x.deadlines.find? (fun d => d.1 == chunk) with
        | some (_, at_) =>
          if x.passed.contains chunk then s
          else advanceColl (modCollOf (s.upTo at_) i.ref (fun y => { y with passed := y.passed ++ [chunk] })) i.ref
        | none => s
      | none => s
    | none => s)

/-! ## Packets and messages of collectives -/

/-- A number of an instance that this device has already ended or refused (R300). -/
def instanceOver (s : State) (group number : Nat) : Bool :=
  (s.coll group number).isNone && match s.cfg.groups.find? (fun g => g.index == group) with
    | some g => ((s.collNext.find? (fun x => x.1 == g.index)).map (fun x => x.2)).getD 0 > number
        && !s.items.any (fun i => kindOf i.words == kColl && i.collNo == some number && (collD i.words).group == group && !i.over)
    | none => true

/-- A packet of a copy that a completed collector did not use: with its last one the copy is discarded, its credit returned and its sender
told (R314, R316). -/
def lateArrive (s : State) (y : LateCopy) : State :=
  if 1 < y.left then { s with lateCopies := s.lateCopies.map (fun z => if z = y then { z with left := z.left - 1 } else z) }
  else
    let s := { s with lateCopies := s.lateCopies.filter (· != y) }
    match s.cfg.groups.find? (fun g => g.index == y.group) with
    | some g =>
      let r : CollRun := { i := default, d := collD y.words, g := g, src := 0, dst := 0 }
      sendAck (sendNotUsed s r y.number y.src y.key y.chunk) r y.number 0 y.src y.key y.chunk
    | none => s

/-- The copy owed that a tag line belongs to. -/
def lateCopy (s : State) (t : CollTag) : Option LateCopy :=
  s.lateCopies.find? (fun y => y.group == t.group && y.number == t.number && y.src == t.src && y.key == t.key && y.chunk == t.chunk)

/-- A COLL_DATA packet at its destination: held until its item begins, or checked and taken (R301, R311). -/
def collArrive (s : State) (k : Packet) : State :=
  let t := collTag k
  match lateCopy s t with
  | some y => lateArrive s y
  | none =>
  if instanceOver s t.group t.number then s
  else match s.coll t.group t.number with
    | some x =>
      if x.early then holdEarly s t
      else match s.item x.item with
        | some i => match collRun s i with
          | some r => advanceColl (takeTag s r s.now t) i.ref
          | none => s
        | none => s
    | none => holdEarly s t

/-- An instance of a Crusher reduction whose number a CRUSH_DATA packet carries. -/
def crushTakes (s : State) (n : Nat) (x : Coll) : Bool := !x.early && x.crushNo == n && match s.item x.item with
  | some i => (collD i.words).crusher
  | none => false

/-- The blocks of a CRUSH_DATA packet. -/
def packetBlocks (k : Packet) : List (List Byte) := chunksOf 65 64 k.data

/-- A CRUSH_DATA packet at its destination, which this device's own number of the instance names: its blocks meet the adder of the port it
came by when the reduction is armed, and wait for it when it is not (R292, R293, R319). -/
def crushArrive (s : State) (p : Nat) (k : Packet) : State :=
  match s.colls.find? (crushTakes s (pktReq k)) with
  | none => s
  | some x =>
    let s := s.modColl x.group x.number (fun y => { y with crushIn := y.crushIn ++ (packetBlocks k).map (fun b => (p, b)) })
    if x.armed then advanceColl s x.item else s

/-- The instance that a message names: its group, op and number. -/
def msgColl (s : State) (w : W64) : Option (Coll × Item) :=
  match s.coll (bits w 63 54) (bits w 31 0) with
  | some x => match s.item x.item with
    | some i => if x.early = false ∧ (collD i.words).op = bits w 53 50 then some (x, i) else none
    | none => none
  | none => none

/-- NOT_USED received: a primary that completes ends SUPERSEDED (R316, R318). -/
def notUsedArrive (s : State) (m : FabMsg) : State :=
  match msgColl s (wd m.line 1) with
  | some (_, i) =>
    let s := modCollOf s i.ref (fun x => { x with notUsed := x.notUsed + 1 })
    match collRun s i, collOf s i.ref with
    | some r, some x => if i.stage = .issued then s.modItem i.ref (fun j => outcomeOf j r x) else s
    | _, _ => s
  | none => s

/-- CRUSH_DONE received: a shard owner has completed its re-runs (R323). -/
def crushDoneArrive (s : State) (m : FabMsg) : State :=
  match msgColl s (wd m.line 1) with
  | some (x, i) =>
    let k := bits (wd m.line 1) 47 32
    if x.completions.contains k then s else advanceColl (modCollOf s i.ref (fun y => { y with completions := y.completions ++ [k] })) i.ref
  | none => s

end Sys2Proof.Machine
end

