-- ==== Sys2Proof/Machine/Hearth.lean ====
section
/-! DEFINITION. The Hearth: the steps of level changes (R378), the sustained limit and boost (R380 to R383), droop (R384, R385),
regulator alerts (R386, R387), the hint cap (R388), temperatures (R389 to R391) and the rails it senses. -/

namespace Sys2Proof.Machine

/-! ## Level changes (R378) -/

/-- GENERATOR_LOCK: a die's idle generator has locked to the frequency it heads to (R378). -/
def execGeneratorLock (d : DieIx) (s : State) : Host.Outcome State Fault Refusal :=
  .next (if s.up ∧ (s.die d.val).locking = true then
    moveLevels (s.modDie d.val (fun x => { x with locking := false, locked := true }))
  else s)

/-- One voltage step of 5 mV, 0.5 µs after the one before; dies of the group take up their newest targets and switch where the voltage
now allows (R378, R492). -/
def stepVoltage (s : State) (g : Nat) : State :=
  let p := s.powerGroup g
  let want := groupVid s g
  if p.held = true ∨ p.vid.toNat = want then s
  else
    let s := s.upTo (p.stepAt + 500)
    let s := modGroup s g (fun p => { p with stepAt := s.now, vid := if p.vid.toNat < want then p.vid + 1 else p.vid - 1 })
    moveLevels ((groupDies g).foldl (fun s d => s.modDie d (fun x => if x.level = x.target then x else takeTarget s x)) s)

/-- VOLTAGE_STEP (R378). -/
def execVoltageStep (g : Fin 8) (s : State) : Host.Outcome State Fault Refusal := .next (if s.up then stepVoltage s g.val else s)

/-! ## Droop (R384, R385) -/

/-- DROOP_DETECT: VDD_FACE has fallen mv below its target on a die. More than droop_mv stretches its clock twofold, more than twice that
fourfold; boost is withdrawn and the changes of the group wait (R382, R384, R385). -/
def execDroopDetect (d : DieIx) (mv : Nat) (s : State) : Host.Outcome State Fault Refusal :=
  .next (if s.up ∧ droopMv s < mv then
    withCaps s (fun s =>
      let s := s.modDie d.val (fun x => { x with
        stretch := if 2 * droopMv s < mv then 2 else 1, droopEvents := if x.stretch = 0 then x.droopEvents + 1 else x.droopEvents })
      (modGroup s (groupOf d.val) (fun p => { p with held := true })).modHearth (fun h => { h with lastDroop := some s.now, boostOk := false }))
  else s)

/-- DROOP_CLEAR: the fall is over and 32 further Face cycles have passed (R384). -/
def execDroopClear (d : DieIx) (s : State) : Host.Outcome State Fault Refusal :=
  .next (if s.up ∧ (s.die d.val).stretch ≠ 0 then
    withCaps s (fun s => (modGroup (s.modDie d.val (fun x => { x with stretch := 0 })) (groupOf d.val) (fun p => { p with clearedAt := s.now })).modHearth
      (fun h => { h with lastDroop := some s.now }))
  else s)

/-- DROOP_HOLD_EXPIRY: droop has stayed cleared on every die of a group for droop_hold, and its changes resume at the next Sill edge (R385;
notes/assumptions/120.md). -/
def execDroopHoldExpiry (g : Fin 8) (s : State) : Host.Outcome State Fault Refusal :=
  .next (let p := s.powerGroup g.val
    if s.up ∧ p.held = true ∧ (groupDies g.val).all (fun d => (s.die d).stretch == 0) = true then
      moveLevels (modGroup (s.upTo (roundUp (p.clearedAt + droopHoldNs s) 40)) g.val (fun p => { p with held := false }))
    else s)

/-! ## The control loop (R380 to R382) -/

/-- Average power of the last window in mW, of the ms that have been sensed. -/
def averageMw (s : State) (history : List Nat) : Nat :=
  let l := history.take (windowMs s)
  l.sum / Nat.max 1 l.length

/-- Highest temperature of a list of signed bytes, none where nothing has been read. -/
def maxTemp (ts : List Int) : Int := ts.foldl (fun a b => if a < b then b else a) (-128)

/-- Every Face die is below die_boost_temp. -/
def coolForBoost (s : State) : Bool := s.dies.all (fun d => d.temp.toInt < boostTemp s)

/-- Boost may be permitted (R382). -/
def boostPermitted (s : State) (avg : Nat) : Bool :=
  boostEn s && !fixedMode s && avg * 100 < 90 * powerLimit s * 1000 && coolForBoost s && s.dies.all (fun d => d.stretch == 0)
    && match s.hearth.lastDroop with
      | some t => t + 1000000 < s.now
      | none => true

/-- The sustained cap and deep after a tick (R380). -/
def sustainedStep (s : State) (avg recent : Nat) (h : Hearth) : Hearth :=
  let limit := powerLimit s * 1000
  let beyond : Bool := limit < avg || (!fixedMode s && 98 * limit < 100 * avg && limit < recent)
  if beyond then
    { h with deep := h.deep || (h.capSustained == 5 && limit < avg), capSustained := Nat.min 5 (h.capSustained + 1) }
  else if 100 * avg < 95 * limit ∧ 100 * recent < 95 * limit then
    if h.deep then { h with deep := false } else { h with capSustained := h.capSustained - 1 }
  else h

/-- The alert cap rises one level per tick once alert_hold is over (R386). -/
def alertStep (h : Hearth) : Hearth :=
  if h.alertRising then { h with capAlert := h.capAlert - 1, alertRising := 1 < h.capAlert } else h

/-- RAIL_SENSE: every 10 µs the Hearth reads every rail; the readings are kept and their power joins the averages (R380, R485). -/
def execRailSense (r : List RailReading) (s : State) : Host.Outcome State Fault Refusal :=
  .next (if s.up then
    let s := s.upTo (s.hearth.tickAt + 10000 * (s.hearth.senseCount + 1))
    s.modHearth (fun h => { h with
      senseSum := h.senseSum + (r.map (fun x => x.watts.toNat)).sum, senseCount := h.senseCount + 1
      senses := ((r.map (fun x => x.watts.toNat)).sum :: h.senses).take 100
      rails := (List.range 16).map (fun i => r[i]? <|> h.rails.getD i none) })
  else s)

/-! ## Regulator alerts (R386, R387) -/

/-- Bit i of a set of inputs. -/
def inputBit (i : Nat) : BitVec 16 := BitVec.ofNat 16 (2 ^ i)

/-- REG_ALERT_ASSERT: a monitored input has been low for 2 Sill cycles. Every Face die goes to its fixed 0.8 GHz generator, whatever change
is in progress (R386). -/
def execRegAlertAssert (i : PortIx) (s : State) : Host.Outcome State Fault Refusal :=
  .next (if s.up ∧ alertMask s i.val then
    withCaps s (fun s =>
      let drop : Die → Die := fun d => { d with level := 5, target := 5, generator := 2, locking := false, locked := false }
      let s := { s with dies := s.dies.map drop }
      s.modHearth (fun h =>
        let since := if h.alertNow &&& inputBit i.val = 0 then h.alertSince.set i.val s.now else h.alertSince
        { h with alertSince := since, alertNow := h.alertNow ||| inputBit i.val, alertSeen := h.alertSeen ||| inputBit i.val, capAlert := 5, alertHighAt := none, alertRising := false }))
  else s)

/-- REG_ALERT_DEASSERT: an input is high again (R386). -/
def execRegAlertDeassert (i : PortIx) (s : State) : Host.Outcome State Fault Refusal :=
  .next (if s.up ∧ s.hearth.alertNow &&& inputBit i.val ≠ 0 then
    s.modHearth (fun h =>
      let left := h.alertNow &&& ~~~(inputBit i.val)
      { h with alertNow := left, alertHighAt := if left = 0 then some s.now else none })
  else s)

/-- ALERT_HOLD_EXPIRY: every monitored input has been high for alert_hold; the alert cap rises from the next tick on (R386). -/
def execAlertHoldExpiry (s : State) : Host.Outcome State Fault Refusal :=
  .next (match s.hearth.alertHighAt with
    | some t => if s.up then (s.upTo (t + alertHoldNs s)).modHearth (fun h => { h with alertHighAt := none, alertRising := h.capAlert ≠ 0 }) else s
    | none => s)

/-- POWER_FAULT: a monitored input has stayed asserted for 1 s; the device enters the safe state (R387, R414). -/
def execPowerFault (i : PortIx) (s : State) : Host.Outcome State Fault Refusal :=
  .next (if s.up ∧ s.hearth.alertNow &&& inputBit i.val ≠ 0 then
    let s := s.upTo (s.hearth.alertSince.getD i.val 0 + 1000000000)
    enterSafe (raiseError s { cls := 0x0C, sev := sevDevice, unit := 0x5A, item := none, ctx := none,
                              detail := [BitVec.ofNat 64 s.hearth.alertNow.toNat] }) (fun _ => codeSafeState) s.nextError
  else s)

/-! ## Hints (R388) -/

/-- Frequencies of the levels in units of 0.1 GHz (Table 1 of 14_power.md). -/
def levelFreq : Nat → Nat := levelClock

/-- The hint cap for the phases in progress: the power of the last 1 ms is the exact average of its 100 readings. -/
def hintCap (s : State) : Nat :=
  let on := s.hearth.hints.filter HintPhase.active
  if fixedMode s ∨ on.isEmpty then 0
  else
    let p := (on.map HintPhase.power).sum
    let n := Nat.max 1 s.hearth.senses.length
    ((List.range 6).find? (fun l => s.hearth.senses.sum * 40 + p * levelFreq l * n ≤ powerLimit s * 40 * n)).getD 5

/-- The hint cap computed again at a phase's start or end. -/
def refreshHint (s : State) (f : Hearth → Hearth) : State :=
  withCaps s (fun s => let t := s.modHearth f; t.modHearth (fun h => { h with capHint := hintCap t }))

/-- A HINT recorded by the Hearth: its phase begins lead µs after the HINT's start (R165, R388). -/
def recordHint (s : State) (r : ItemRef) (duration power lead : Nat) : State :=
  let start := s.now + 1000 * lead
  s.modHearth (fun h => { h with
    hints := h.hints ++ [{ item := r, start := start, stop := start + 1000 * duration, power := power, active := false }] })

/-- The phase of a HINT. -/
def hintOf (s : State) (c seq : Nat) : Option HintPhase := s.hearth.hints.find? (fun h => h.item == ⟨c, seq⟩)

/-- HINT_PHASE_START (R388). -/
def execHintPhaseStart (c : CtxIx) (seq : Nat) (s : State) : Host.Outcome State Fault Refusal :=
  .next (match hintOf s c.val seq with
    | some p =>
      if s.up ∧ p.active = false then
        refreshHint (s.upTo p.start) (fun h => { h with hints := h.hints.map (fun x => if x.item = p.item then { x with active := true } else x) })
      else s
    | none => s)

/-- HINT_PHASE_END (R388). -/
def execHintPhaseEnd (c : CtxIx) (seq : Nat) (s : State) : Host.Outcome State Fault Refusal :=
  .next (match hintOf s c.val seq with
    | some p =>
      if s.up ∧ p.active = true then refreshHint (s.upTo p.stop) (fun h => { h with hints := h.hints.filter (fun x => x.item != p.item) }) else s
    | none => s)

/-! ## Temperatures (R389 to R391) -/

/-- Dies that count for a Face die: itself, and every die that is no Face die (R390). -/
def heatOf (d : Nat) : List Nat := d :: (List.range 68).map (· + 32)

/-- Dies that count for a Face die and are at or above die_throttle_temp. -/
def hotDies (s : State) (ts : List (Option Byte)) (d : Nat) : List Nat :=
  (heatOf d).filter (fun k => match ts.getD k none with
    | some t => throttleTemp s ≤ t.toInt
    | none => false)

/-- A die is below die_throttle_temp − 3 °C. -/
def dieCool (s : State) (ts : List (Option Byte)) (k : Nat) : Bool := match ts.getD k none with
  | some t => t.toInt < throttleTemp s - 3
  | none => true

/-- A die's temperature taken in: the crossing above the threshold, or the time for which every die whose heat lowered the cap is below it,
begins or goes on (R390). -/
def noteTemp (s : State) (ts : List (Option Byte)) (n : Nat) (d : Die) : Die :=
  let hot := hotDies s ts n
  let by_ := if d.capThermal = 0 then hot else d.hotBy ++ hot.filter (fun k => !d.hotBy.contains k)
  let d := { d with temp := (ts.getD n none).getD d.temp, hotBy := by_ }
  if hot.isEmpty then
    { d with hotSince := 0, hotSteps := 0, belowSince := if by_.all (dieCool s ts) then (if d.belowSince = 0 then s.now else d.belowSince) else 0 }
  else { d with hotSince := if d.hotSince = 0 then s.now else d.hotSince, belowSince := 0 }

/-- What a reading of a die's sensors gives: the hottest of the four of a Face die, the one of another die (R389). -/
def sensed (i : Nat) (bs : List Byte) : Option Byte :=
  (if i < 32 then bs.take 4 else bs.take 1).foldl (fun a b => match a with
    | some x => if x.toInt < b.toInt then some b else some x
    | none => some b) none

/-- DIE_TEMP_READ: the sensors of every die, every 20 µs: the bytes of each die index. A die at die_boost_temp ends boost at once (R382,
R389). -/
def execDieTempRead (t : List (List Byte)) (s : State) : Host.Outcome State Fault Refusal :=
  .next (if s.up then
    withCaps s (fun s =>
      let ts := (List.range 100).map (fun i => sensed i (t.getD i []) <|> s.hearth.temps.getD i none)
      let s := { s with dies := (s.dies.zip (List.range 32)).map (fun (d, n) => noteTemp s ts n d) }
      s.modHearth (fun h => { h with
        temps := ts, dieTempMax := BitVec.ofInt 8 (maxTemp (ts.filterMap (Option.map (fun b : Byte => b.toInt)))), boostOk := h.boostOk && coolForBoost s }))
  else s)

/-- THERMAL_CAP_STEP: 100 µs after the crossing, and every 100 µs while it lasts, a die's thermal cap falls, first to one level below its
effective level; each 1 ms below the threshold less 3 °C raises it one level (R390). -/
def execThermalCapStep (d : DieIx) (s : State) : Host.Outcome State Fault Refusal :=
  .next (let x := s.die d.val
    if s.up = false then s
    else if x.hotSince ≠ 0 then
      withCaps (s.upTo (x.hotSince + 100000 * (x.hotSteps + 1))) (fun s => s.modDie d.val (fun y => { y with
        capThermal := Nat.min 5 ((if y.hotSteps = 0 then effLevel s y else y.capThermal) + 1), hotSteps := y.hotSteps + 1 }))
    else if x.belowSince ≠ 0 ∧ x.capThermal ≠ 0 then
      withCaps (s.upTo (x.belowSince + 1000000)) (fun s => s.modDie d.val (fun y => { y with
        capThermal := y.capThermal - 1, belowSince := y.belowSince + 1000000 }))
    else s)

/-- A unit of an error record that is a stack. -/
def isStackUnit (u : Byte) : Bool := 0x60 ≤ u.toNat && u.toNat ≤ 0x77

/-- A temperature at which THERMTRIP_N is asserted: 115 °C on a die, 110 °C on a stack (R391). -/
def tripTemp (unit temp : Byte) : Bool := (if isStackUnit unit then (110 : Int) else 115) ≤ temp.toInt

/-- THERMAL_TRIP: a die has reached 115 °C or a stack 110 °C. THERMTRIP_N is asserted whenever the rails are up, and the device enters the safe
state: in NO_IMAGE and in a cold start that waits for a rail nothing runs that it could stop (R391, R414). -/
def execThermalTrip (unit temp : Byte) (s : State) : Host.Outcome State Fault Refusal :=
  .next (if tripTemp unit temp = false then s
  else
    let t := { s with boot := { s.boot with thermtripN := true } }
    match s.boot.phase with
    | .por => s
    | .running =>
      enterSafe (raiseError t { cls := 0x0B, sev := sevDevice, unit := unit.toNat, item := none, ctx := none,
                                detail := [BitVec.ofNat 64 temp.toNat] }) (fun _ => codeSafeState) s.nextError
    | .noImage | .railWait => enterSafe t (fun _ => codeSafeState) 0)

end Sys2Proof.Machine
end

