-- ==== Sys2Proof/Machine/Front.lean ====
section
/-! DEFINITION. Items that take no unit: FENCE (R164, R259 to R262), HINT (R165, R388) and MARK (R166). -/

namespace Sys2Proof.Machine

/-- A candidate of a kind, as its own command names it. -/
def frontItem (s : State) (c seq kind : Nat) : Option Item := match s.item ⟨c, seq⟩ with
  | some i => if live s ∧ candidate s i ∧ kindOf i.words = kind then some i else none
  | none => none

/-! ## FENCE -/

/-- Write-backs of a context that are under way and touch a byte range, or any line: a flush does not write their lines again (R210). -/
def writingBack (s : State) (c : Nat) (range : Option (Nat × Nat)) : List Nat :=
  (s.reqs.filter (fun q => q.ctx == some c && q.item.isNone && q.purpose == .write && q.qp.isNone
    && match range with
      | some r => spansMeet [(pktDst q.packet * 2 ^ 48 + pktOff q.packet, 64 * pktLines q.packet)] [r]
      | none => true)).map Req.id

/-- A range flush: the context's dirty lines of the range are written back on every die, and the FENCE waits for them (R210, R260,
R261). -/
def flushRange (s : State) (i : Item) : State :=
  let earlier := writingBack s i.ref.ctx (fenceRange i.words)
  let w := writeBackAll s (s.memory.cache.filter (fun l => inRange i.ref.ctx (fenceRange i.words) l && l.dirty != 0))
  w.s.modItem i.ref (fun j => { j with writes := j.writes ++ earlier ++ w.ids, code := BitVec.ofNat 8 (w.code.getD 0) })

/-- The invalidation of a FENCE: the clean lines of its range, on every die (R211, R259). -/
def acquireRange (s : State) (i : Item) : State := acquire s i.ref.ctx (fenceRange i.words)

/-- A FENCE of a type that can start. -/
def fenceItem (s : State) (c seq type : Nat) : Option Item := match frontItem s c seq kFence with
  | some i => if fenceType i.words = type then some i else none
  | none => none

/-- FENCE_WRITE (Table 5 of 09_lomium.md). -/
def execFenceWrite (c : CtxIx) (seq : Nat) (s : State) : Host.Outcome State Fault Refusal :=
  .next (match fenceItem s c.val seq 0 with
    | some i =>
      let s := startItem s i.ref id
      issued (if fenceFlush i.words then flushRange s i else s) i.ref
    | none => s)

/-- FENCE_ACQUIRE. -/
def execFenceAcquire (c : CtxIx) (seq : Nat) (s : State) : Host.Outcome State Fault Refusal :=
  .next (match fenceItem s c.val seq 1 with
    | some i => issued (acquireRange (startItem s i.ref id) i) i.ref
    | none => s)

/-- FENCE_FULL: the range is written back when flush is set, then its clean lines go. -/
def execFenceFull (c : CtxIx) (seq : Nat) (s : State) : Host.Outcome State Fault Refusal :=
  .next (match fenceItem s c.val seq 2 with
    | some i =>
      let s := startItem s i.ref id
      issued (acquireRange (if fenceFlush i.words then flushRange s i else s) i) i.ref
    | none => s)

/-! ## HINT -/

/-- HINT: the Hearth records the phase (R165, R388). -/
def execHint (c : CtxIx) (seq : Nat) (s : State) : Host.Outcome State Fault Refusal :=
  .next (match frontItem s c.val seq kHint with
    | some i =>
      issued (recordHint (startItem s i.ref id) i.ref (hintDuration i.words) (hintPower i.words) (hintLead i.words)) i.ref
    | none => s)

/-! ## MARK -/

/-- A MARK of an action that can start. -/
def markItem (s : State) (c seq action : Nat) : Option Item := match frontItem s c seq kMark with
  | some i => if markAction i.words = action then some i else none
  | none => none

/-- NOTE: it ends DONE at once, value[31:0] in aux. -/
def execNote (c : CtxIx) (seq : Nat) (s : State) : Host.Outcome State Fault Refusal :=
  .next (match markItem s c.val seq 0 with
    | some i => endItem (startItem s i.ref id) i.ref .done 0 (BitVec.ofNat 32 (bits (markValue i.words) 31 0))
    | none => s)

/-- PIN_RELEASE: every pin of the context is released (R131), and it ends DONE. -/
def execPinRelease (c : CtxIx) (seq : Nat) (s : State) : Host.Outcome State Fault Refusal :=
  .next (match markItem s c.val seq 1 with
    | some i => endItem (releasePins (startItem s i.ref id) c.val) i.ref .done 0 0
    | none => s)

/-- PUBLISH: its flagged final write becomes ready; FLAGGED_FINAL_WRITE_ISSUE issues it (R166, R258). -/
def execPublish (c : CtxIx) (seq : Nat) (s : State) : Host.Outcome State Fault Refusal :=
  .next (match markItem s c.val seq 2 with
    | some i => addFlagged (startItem s i.ref id) i.ref (markAddr i.words) (markValue i.words)
    | none => s)

/-- The comparison of a WAIT: EQ, GE unsigned, GE_WRAP. -/
def waitHolds (cmp : Nat) (w v : W64) : Bool :=
  if cmp = 0 then w == v else if cmp = 1 then v.toNat ≤ w.toNat else 0 ≤ (w - v).toInt

/-- One acquire read of a WAIT has returned its value: it ends DONE when the comparison holds, else the next poll reads again (R166,
R259). -/
def waitRead (s : State) (i : Item) (bs : List Byte) : State :=
  let t := acquire s i.ref.ctx none
  if waitHolds (markCmp i.words) (wordAt bs 0) (markValue i.words) then endItem t i.ref .done 0 0
  else forgetLine t i.ref (markAddr i.words / 64 * 64)

/-- One acquire read of a WAIT (R166). -/
def pollWait (s : State) (i : Item) : State :=
  match itemRead s i.ref none (markAddr i.words) 8 with
  | (t, .fail c) => failItem t i.ref c none
  | (t, .wait) => t
  | (t, .ok bs) => waitRead t i bs

/-- A started WAIT whose value has come from another home ends at that read when it satisfies the comparison (R166). -/
def waitCame (s : State) (r : ItemRef) : State := match s.item r with
  | some i =>
    if i.stage = .running ∧ kindOf i.words = kMark ∧ i.waitFor = .value ∧ inboundHas i (markAddr i.words) 8 then
      waitRead s i (inboundRead i (markAddr i.words) 8)
    else s
  | none => s

/-- WAIT: its first read. -/
def execWait (c : CtxIx) (seq : Nat) (s : State) : Host.Outcome State Fault Refusal :=
  .next (match markItem s c.val seq 3 with
    | some i => pollWait ((startItem s i.ref id).modItem i.ref (fun j => { j with waitFor := .value })) i
    | none => s)

/-- The next poll of a started item: every 1 µs from its start (R166). -/
def nextPollAt (now start : Nat) : Nat := start + 1000 * ((now - start) / 1000 + 1)

/-- MARK_WAIT_POLL: the word is read again. -/
def execMarkWaitPoll (c : CtxIx) (seq : Nat) (s : State) : Host.Outcome State Fault Refusal :=
  .next (match s.item ⟨c.val, seq⟩ with
    | some i =>
      if live s ∧ i.stage = .running ∧ kindOf i.words = kMark ∧ i.waitFor = .value then
        pollWait (s.upTo (nextPollAt s.now (i.startAt.getD s.now))) i
      else s
    | none => s)

end Sys2Proof.Machine
end

