-- ==== Sys2Proof/Machine/Attic.lean ====
section
/-! DEFINITION. SNAPSHOT items and the Attic (R420 to R440): rounds, mirror and parity copies, the closing of a round, the privileged
ring, evaluation snapshots, restores and re-forms. -/

namespace Sys2Proof.Machine

/-! ## Attic addresses and buffer headers (R421, R423) -/

/-- Lomium address of an Attic offset on a device; every member of a run has the same attic_base (R421). -/
def atticAddr (v : SurvivalCfg) (dev off : Nat) : Nat := dev * 2 ^ 48 + v.atticBase + off

/-- Methods of Table 3. -/
def methodMirror : Nat := 0
def methodParity : Nat := 1
def methodPriv : Nat := 2

/-- Word 0 of a buffer header. -/
def headWord (round tensor method : Nat) : W64 := wordOf [⟨32, 32, round⟩, ⟨16, 16, tensor⟩, ⟨14, 2, method⟩, ⟨0, 1, 1⟩]

/-- Words 1 to 7 of a buffer header. -/
def headRest (step version bytes : Nat) : List Byte :=
  wordsBytes [wordOf [⟨32, 32, step⟩, ⟨0, 32, version⟩], wordOf [⟨0, 48, bytes⟩], 0, 0, 0, 0, 0]

/-- A copy written: its data, then words 1 to 7 of its header, then word 0 as a flagged final write (R423, R258). -/
def writeCopy (s : State) (r : ItemRef) (head dataAt : Nat) (w0 : W64) (rest bs : List Byte) : State × Option Nat :=
  match writeRanges s r none [(dataAt, bs), (head + 8, rest)] false with
  | (t, some c) => (t, some c)
  | (t, none) => (addFlagged t r head w0, none)

/-- A running SNAPSHOT of an action, with the SURVIVAL record in force. -/
def snapItem (s : State) (c seq action : Nat) : Option (Item × SnapD × SurvivalCfg) := match runningItem s c seq kSnap, s.cfg.survival with
  | some i, some v => if (snapD i.words).action = action then some (i, snapD i.words, v) else none
  | _, _ => none

/-- The device of a rank of the group as the image gives it, and of the group's size then: a re-form leaves out the failed ranks (R439). -/
def oldRanks (g : Group) : List Nat := (List.range (g.n + g.failed.length)).filter (fun r => !g.failed.contains r)
def deviceOfRank (g : Group) (r : Nat) : Option Nat := ((oldRanks g).zip g.members).lookup r

/-- Cores of a die of the die set taken for PACK, once (R432, R199): the state, and whether the item has them with their clocks running. -/
def packCores (s : State) (i : Item) (n : Nat) : State × Bool :=
  let s := if i.cores.isEmpty && i.lost.isEmpty then
    (match grantDie s i.ref.ctx n with
      | some d => takeCores s d i.ref n
      | none => s) else s
  match s.item i.ref with
  | some j => (s, !j.cores.isEmpty && coresAwake s j)
  | none => (s, false)

/-! ## SECURE (R422 to R427) -/

/-- What a SECURE copies: the address of its data and the version number of a slotted array (R427). -/
inductive Source where
  | at_ (addr version : Nat)
  | wait
  | fail (code : Nat)

def secureSource (s : State) (i : Item) (d : SnapD) : State × Source :=
  if d.slotted = false then (s, .at_ d.src 0)
  else match readRecord s i.ref d.src with
    | (t, .fail c) => (t, .fail c)
    | (t, .wait) => (t, .wait)
    | (t, .ok bs) =>
      let ws := bytesWords bs
      (t, .at_ (d.mask + recSlot (wd ws 0) * d.slotStride) (recVer ws (recCur (wd ws 0))))

/-- Version advances since the tensor's local copy of round R_c; 0 with no valid one (R424), none while the read of its header is held
(R232). -/
def advOf (s : State) (v : SurvivalCfg) (d : SnapD) (version : Nat) : State × Option Nat :=
  let rc := lastRound s
  let (t, head) := heldRead s (v.atticBase + d.localOff + rc % 2 * copySize d.bytes) 16
  (t, head.map (fun h =>
    let bs := h.getD []
    let w := wordAt bs 0
    if d.slotted && bitAt w 0 && bits w 63 32 == rc && bits w 31 16 == d.tensor && rc != 0 then
      (version + 2 ^ 32 - bits (wordAt bs 8) 31 0) % 2 ^ 32
    else 0))

/-- The parity group of eight in force. -/
def parityIn (s : State) (v : SurvivalCfg) : Option Group := groupAt s (parityGroup v)

/-- PARITY is chosen; a re-formed group's tensors choose MIRROR when the image names a buddy (R424, R439). -/
def choosesParity (s : State) (v : SurvivalCfg) (d : SnapD) (adv : Nat) : Bool :=
  parityMin v ≤ d.bytes && adv ≤ parityMaxAdv v && match parityIn s v with
    | some g => !(g.reformed && buddyEn v)
    | none => true

/-- Rank that holds slice s of member m, and the slice of member m that holder h holds (R426). -/
def holderOf (m s : Nat) : Nat := if s < m then s else s + 1
def sliceFor (m h : Nat) : Nat := if h < m then h else h - 1

/-- aux of a SECURE: its method and adv, adv stopping at 0xFF (Table 8). -/
def secureAux (method adv : Nat) : BitVec 32 := BitVec.ofNat 32 (method * 2 ^ 30 + Nat.min adv 0xFF)

/-- Chunks of a slice, 64 KiB each. -/
def sliceChunks (d : SnapD) : Nat := ceilDiv d.slice 65536

/-- A MIRROR SECURE: the copy here, and on the buddy when the image names one (R425). -/
def secureMirror (s : State) (i : Item) (d : SnapD) (v : SurvivalCfg) (version adv : Nat) (bs : List Byte) : State :=
  let b := d.round % 2 * copySize d.bytes
  let w0 := headWord d.round d.tensor methodMirror
  let rest := headRest d.step version d.bytes
  let near := atticAddr v s.deviceNumber (d.localOff + b)
  let far := atticAddr v (buddyDevice v) (d.remoteOff + b)
  match writeCopy s i.ref near (near + 65536) w0 rest bs with
  | (t, some c) => failItem t i.ref c none
  | (t, none) => match (if buddyEn v then writeCopy t i.ref far (far + 65536) w0 rest bs else (t, none)) with
    | (t, some c) => failItem t i.ref c none
    | (t, none) => issued (t.modItem i.ref (fun j => { j with shipped := true, aux := secureAux methodMirror adv })) i.ref

/-- A PARITY SECURE begins: the copy here, then slices to the other seven members. In a re-formed group without a buddy its sends to the
lost device fail (R426, R439). -/
def secureParity (s : State) (i : Item) (d : SnapD) (v : SurvivalCfg) (g : Group) (version adv : Nat) (bs : List Byte) : State :=
  let b := d.round % 2 * copySize d.bytes
  let near := atticAddr v s.deviceNumber (d.localOff + b)
  match writeCopy s i.ref near (near + 65536) (headWord d.round d.tensor methodParity) (headRest d.step version d.bytes) bs with
  | (t, some c) => failItem t i.ref c none
  | (t, none) =>
    if g.reformed then failItem t i.ref codeUnreachable none
    else
      let sends : List SliceSend := ((List.range 8).filter (fun h => h != g.rank)).map (fun h => { dest := h, next := 0, acked := 0 })
      let t := t.modItem i.ref (fun j => { j with shipped := true, aux := secureAux methodParity adv })
      { t with attic := { t.attic with
          runs := t.attic.runs ++ [{ item := i.ref, sends := sends, folded := 0, headed := false, noticed := false }] } }

/-- The op code of a parity chunk's tag line. The spec gives parity chunks credits and checks of tag lines and no layout: they travel as
COLL_DATA with an op that no collective has, the round as instance and the tensor as shard (notes/assumptions/20.md). -/
def opParity : Nat := 0xF

/-- A tag line of the parity traffic: phase 0 for data, 3 for the return of a chunk's credit. -/
def parityTag (v : SurvivalCfg) (rank phase round tensor offset chunk : Nat) : List Byte :=
  wordsBytes [wordOf [⟨54, 10, parityGroup v⟩, ⟨50, 4, opParity⟩, ⟨48, 2, phase⟩, ⟨32, 16, rank⟩, ⟨0, 32, round⟩],
    wordOf [⟨48, 16, tensor⟩, ⟨0, 40, offset⟩], wordOf [⟨0, 32, chunk⟩], 0, 0, 0, 0, 0]

/-- A packet of the parity traffic to a device. -/
def sendParity (s : State) (dev req : Nat) (tag bs : List Byte) : State :=
  let data := tag ++ padTo (roundUp bs.length 64) bs
  s.sendPacket (mkPacket dev s.deviceNumber opCollData (hopLimit s) (req % 65536) (data.length / 64) 0 0 0 data)

/-- Bytes of slice n of a copy that lies in local memory, between two positions of the slice; bytes beyond the copy are zero (R426). -/
def sliceBytes (s : State) (r : ItemRef) (d : SnapD) (dataAt n lo hi : Nat) : State × Rd :=
  let a := n * d.slice + lo
  match itemRead s r none (dataAt + a) (Nat.min (hi - lo) (d.bytes - a)) with
  | (t, .ok bs) => (t, .ok (padTo (hi - lo) bs))
  | x => x

/-- Start of the data of a SECURE's local copy. -/
def copyData (s : State) (v : SurvivalCfg) (d : SnapD) : Nat := atticAddr v s.deviceNumber (d.localOff + d.round % 2 * copySize d.bytes + 65536)

/-- One chunk of a slice sent, once its bytes are read. -/
def sendSlice (s : State) (r : ItemRef) (d : SnapD) (v : SurvivalCfg) (g : Group) (h m : Nat) : State × Rd :=
  let lo := 65536 * m
  match sliceBytes s r d (copyData s v d) (sliceFor g.rank h) lo (Nat.min d.slice (lo + 65536)) with
  | (t, .ok bs) =>
    let parts := chunksOf 18 4032 bs
    ((parts.zip (List.range parts.length)).foldl (fun s (p, k) =>
      sendParity s (g.members.getD h 0) (17 * m + k) (parityTag v g.rank 0 d.round d.tensor (lo + 4032 * k) m) p) t, .ok [])
  | x => x

/-- Chunks that a send's credits allow, 4 ahead of those returned (R314); the first argument bounds their number. A code where a read
fails. -/
def pushSlice : Nat → State → ItemRef → SnapD → SurvivalCfg → Group → SliceSend → State × SliceSend × Option Nat
  | 0, s, _, _, _, _, x => (s, x, none)
  | n + 1, s, r, d, v, g, x =>
    if Nat.min (sliceChunks d) (x.acked + 4) ≤ x.next then (s, x, none)
    else match sendSlice s r d v g x.dest x.next with
      | (t, .ok _) => pushSlice n t r d v g { x with next := x.next + 1 }
      | (t, .wait) => (t, x, none)
      | (t, .fail c) => (t, x, some c)

/-- What every send of an item can carry now; nothing before the item's own copy is written. -/
def pushSlices (s : State) (i : Item) (d : SnapD) (v : SurvivalCfg) (g : Group) (xs : List SliceSend) : State × List SliceSend × Option Nat :=
  if outstanding s i ∨ i.staged.isEmpty = false then (s, xs, none)
  else xs.foldl (fun (acc : State × List SliceSend × Option Nat) y =>
    let (t, z, c) := pushSlice 4 acc.1 i.ref d v g y
    (t, acc.2.1 ++ [z], acc.2.2 <|> c)) (s, [], none)

/-- A chunk of a source's slice, once all its packets have come. -/
def parityChunk (s : State) (d : SnapD) (src m : Nat) : Option (List Byte) :=
  let lo := 65536 * m
  let hi := Nat.min d.slice (lo + 65536)
  let ps := sortOn ParityPart.pos (s.attic.parts.filter (fun p =>
    p.round == d.round && p.tensor == d.tensor && p.src == src && lo ≤ p.pos && p.pos < hi))
  let bs := ps.flatMap ParityPart.bytes
  if bs.length = hi - lo then some bs else none

/-- The XOR of byte lists of one length. -/
def xorAll (n : Nat) (l : List (List Byte)) : List Byte :=
  l.foldl (fun acc bs => (acc.zip bs).map (fun (a, b) => a ^^^ b)) (List.replicate n 0)

/-- Other ranks of the parity group of eight. -/
def otherRanks (rank : Nat) : List Nat := (List.range 8).filter (fun h => h != rank)

/-- Where a holder's parity buffer lies. -/
def parityHead (s : State) (v : SurvivalCfg) (d : SnapD) : Nat := atticAddr v s.deviceNumber (d.remoteOff + d.round % 2 * copySize d.slice)

/-- Chunks folded into the parity buffer by PACK while one is whole from every source; the first argument bounds their number. The
chunks' packets are forgotten and their credits go back (R426, R436, R314). -/
def foldChunks : Nat → State → ItemRef → SnapD → SurvivalCfg → Group → Nat → State × Nat
  | 0, s, _, _, _, _, m => (s, m)
  | n + 1, s, r, d, v, g, m =>
    let cs := (otherRanks g.rank).filterMap (fun k => parityChunk s d k m)
    let lo := 65536 * m
    let len := Nat.min d.slice (lo + 65536) - lo
    if cs.length < 7 ∨ sliceChunks d ≤ m then (s, m)
    else
      let (t, code) := itemWrite s r none (parityHead s v d + 65536 + lo) (xorAll len cs) false
      let t := match code with
        | some c => failItem t r c none
        | none => t
      let t := { t with attic := { t.attic with parts := t.attic.parts.filter (fun p =>
        !(p.round == d.round && p.tensor == d.tensor && lo ≤ p.pos && p.pos < lo + 65536)) } }
      let t := (otherRanks g.rank).foldl (fun t k =>
        sendParity t (g.members.getD k 0) m (parityTag v g.rank 3 d.round d.tensor lo m) []) t
      foldChunks n t r d v g (m + 1)

/-- A running PARITY SECURE changed. -/
def modRun (s : State) (r : ItemRef) (f : ParityRun → ParityRun) : State :=
  { s with attic := { s.attic with runs := s.attic.runs.map (fun x => if x.item = r then f x else x) } }

/-- Fold notices to the other members, and this device's own (R426). -/
def sendNotices (s : State) (d : SnapD) (v : SurvivalCfg) (g : Group) : State :=
  let w := wordOf [⟨32, 32, d.round⟩, ⟨16, 16, d.tensor⟩, ⟨13, 3, g.rank⟩, ⟨0, 10, parityGroup v⟩]
  let s := (otherRanks g.rank).foldl (fun s k => sendMsg s (g.members.getD k 0) 0x03 [w] []) s
  { s with attic := { s.attic with notices := s.attic.notices ++ [(d.round, d.tensor, g.rank)] } }

/-- What the staging area holds once its chunks are folded is arbitrary: no rule states it. -/
def scrambleParity (s : State) (r : ItemRef) (v : SurvivalCfg) (d : SnapD) : State :=
  scrambleAt s r.ctx (atticAddr v s.deviceNumber (d.remoteOff + 2 * copySize d.slice)) stagingBytes

/-- A PARITY SECURE moves on: it sends what its credits allow, folds what has come, writes its parity header, sends its notices, and is
issued when it holds all eight (R426). -/
def parityAdvance (s : State) (r : ItemRef) : State :=
  match s.item r, s.cfg.survival, s.attic.runs.find? (fun x => x.item == r) with
  | some i, some v, some x => match parityIn s v with
    | none => s
    | some g =>
      let d := snapD i.words
      let (s, sends, code) := pushSlices s i d v g x.sends
      let s := modRun s r (fun y => { y with sends := sends })
      let s := match code with
        | some c => failItem s r c none
        | none => s
      let ready := code.isNone && ((otherRanks g.rank).all (fun k => (parityChunk s d k x.folded).isSome)) && x.folded < sliceChunks d
      let (s, ok) := if ready then packCores s i d.cores else (s, false)
      let (s, folded) := if ok then foldChunks (sliceChunks d) s r d v g x.folded else (s, x.folded)
      let s := modRun s r (fun y => { y with folded := folded })
      if folded < sliceChunks d ∨ code.isSome then s
      else
        let head := parityHead s v d
        if x.headed = false then
          match writeRanges (modRun (scrambleParity s r v d) r (fun y => { y with headed := true })) r none [(head + 8, headRest d.step 0 d.slice)] false with
          | (t, some c) => failItem t r c none
          | (t, none) => addFlagged t r head (headWord d.round d.tensor methodParity)
        else match s.item r with
          | none => s
          | some j =>
            let s := if x.noticed = false ∧ j.flagged.any (fun f => f.addr == head) = false then
              modRun (sendNotices s d v g) r (fun y => { y with noticed := true }) else s
            if (List.range 8).all (fun k => s.attic.notices.contains (d.round, d.tensor, k)) ∧ j.flagged.isEmpty then issued s r else s
  | _, _, _ => s

/-- A SECURE starts: its round is checked again, and counted as begun (R422, R428). -/
def beginRound (s : State) (d : SnapD) : State :=
  if s.attic.round = d.round then s
  else { s with attic := { s.attic with round := d.round, firstAt := s.now, secured := 0 } }

/-- The bytes of a SECURE's tensor secured by the method its partition and its advance choose (R424). -/
def secureBytes (s : State) (i : Item) (d : SnapD) (v : SurvivalCfg) (version adv : Nat) (bs : List Byte) : State :=
  if choosesParity s v d adv then match parityIn s v with
    | some g => parityAdvance (secureParity s i d v g version adv bs) i.ref
    | none => secureMirror s i d v version adv bs
  else secureMirror s i d v version adv bs

/-- SECURE. -/
def runSecure (s : State) (i : Item) (d : SnapD) (v : SurvivalCfg) : State :=
  if i.shipped then parityAdvance s i.ref
  else if d.round ≠ lastRound s + 1 then endItem s i.ref .rejected 0x73 0
  else match secureSource (beginRound s d) i d with
    | (s, .fail c) => failItem s i.ref c none
    | (s, .wait) => s
    | (s, .at_ a version) => match getRanges s i.ref none [(a, d.bytes)] with
      | .fail s c => failItem s i.ref c none
      | .wait s => s
      | .ok s bss =>
        match advOf s v d version with
        | (s, some adv) => secureBytes s i d v version adv (bss.headD [])
        | (s, none) => s

/-- SECURE: a tensor's copy of the round (R422 to R427). -/
def execSecure (c : CtxIx) (seq : Nat) (s : State) : Host.Outcome State Fault Refusal :=
  .next (match snapItem s c.val seq 0 with
    | some (i, d, v) => runSecure s i d v
    | none => s)

/-! ## Parity traffic at its destination -/

/-- A COLL_DATA packet that carries parity traffic. -/
def isParity (s : State) (k : Packet) : Bool := match s.cfg.survival with
  | some v => (collTag k).op == opParity && (collTag k).group == parityGroup v
  | none => false

/-- The unended SECURE of a tensor for a round. -/
def secureOf (s : State) (round tensor : Nat) : Option Item :=
  s.items.find? (fun i => !i.over && kindOf i.words == kSnap && (let d := snapD i.words; d.action == 0 && d.round == round && d.tensor == tensor))

/-- A parity chunk for a tensor that this device secures by MIRROR, or one that disagrees with its slice: the packet is discarded, the
item ends and an error record is written (R301, R424). -/
def parityMismatch (s : State) (i : Item) (t : CollTag) : State :=
  let err := s.nextError
  let s := raiseError s { cls := 0x12, sev := sevItem, unit := itemUnit i, item := some i.ref, ctx := none,
                          detail := [wordOf [⟨48, 10, t.group⟩, ⟨32, 16, t.src⟩, ⟨0, 32, t.number⟩]] }
  failItem s i.ref codeRemoteFault (some err)

/-- A parity packet: data is held for its fold, the return of a credit lets the next chunk go (R426, R314). -/
def parityArrive (s : State) (k : Packet) : State :=
  let t := collTag k
  if t.number ≠ lastRound s + 1 then s
  else if t.key.phase = phaseControl then
    match secureOf s t.number t.key.idx with
    | some i => parityAdvance (modRun s i.ref (fun x => { x with
        sends := x.sends.map (fun y => if y.dest = t.src then { y with acked := Nat.max y.acked (t.chunk + 1) } else y) })) i.ref
    | none => s
  else
    let keep (slice : Nat) : State :=
      let n := Nat.min 4032 (Nat.min (65536 * (t.chunk + 1)) slice - t.offset)
      let p : ParityPart := { round := t.number, tensor := t.key.idx, src := t.src, pos := t.offset, bytes := t.bytes.take n }
      { s with attic := { s.attic with
          parts := s.attic.parts.filter (fun q => !(q.round == p.round && q.tensor == p.tensor && q.src == p.src && q.pos == p.pos)) ++ [p] } }
    match secureOf s t.number t.key.idx with
    | some i =>
      let d := snapD i.words
      if (i.shipped && !(s.attic.runs.any (fun x => x.item == i.ref))) || d.slice ≤ t.offset || t.chunk != t.offset / 65536 then
        parityMismatch s i t
      else parityAdvance (keep d.slice) i.ref
    | none => keep (t.offset + t.bytes.length)

/-- FOLD_NOTICE received (R426). -/
def foldNoticeArrive (s : State) (m : FabMsg) : State :=
  let w := wd m.line 1
  let n : Nat × Nat × Nat := (bits w 63 32, bits w 31 16, bits w 15 13)
  match s.cfg.survival with
  | some v =>
    if bits w 9 0 ≠ parityGroup v ∨ n.1 ≤ lastRound s ∨ s.attic.notices.contains n then s
    else
      let s := { s with attic := { s.attic with notices := s.attic.notices ++ [n] } }
      match secureOf s n.1 n.2.1 with
      | some i => parityAdvance s i.ref
      | none => s
  | none => s

/-! ## CLOSE (R428 to R430) -/

/-- The securing interval T in s from the largest cost in µs and the mean time between failures in s: √(2CM) rounded down to whole
seconds, within [t_min, t_max]. The FP64 root, correctly rounded, has the same whole part as the exact one at every value that the bounds do
not replace (notes/assumptions/21.md). -/
def securingInterval (v : SurvivalCfg) (cost mtbf : Nat) : Nat :=
  Nat.min (bits v.bounds 47 32) (Nat.max (bits v.bounds 63 48) (Nat.sqrt (2 * cost * mtbf / 1000000)))

/-- A report sent to the successor (Table 14 of 10_spejan.md). -/
def sendReport (s : State) (v : SurvivalCfg) (g : Group) (round rank cost step : Nat) : State :=
  sendMsg s (g.members.getD ((g.rank + 1) % g.n) 0) 0x04
    [wordOf [⟨32, 32, round⟩, ⟨16, 16, rank⟩, ⟨0, 10, runGroup v⟩], BitVec.ofNat 64 cost, BitVec.ofNat 64 (step % 2 ^ 32)] []

/-- A report kept. -/
def keepReport (s : State) (round rank cost : Nat) : State :=
  { s with attic := { s.attic with
      reports := s.attic.reports.filter (fun x => !(x.1 == round && x.2.1 == rank)) ++ [(round, rank, cost)] } }

/-- Costs of the reports of a round, one for each rank of a group; none while one is missing. -/
def allCosts (s : State) (g : Group) (round : Nat) : Option (List Nat) :=
  let cs := (List.range g.n).filterMap (fun r => (s.attic.reports.find? (fun x => x.1 == round && x.2.1 == r)).map (fun x => x.2.2))
  if cs.length = g.n then some cs else none

/-- The routing table in force as bytes, four for each device number (notes/assumptions/90.md). -/
def routeBytes (s : State) : List Byte := (List.range 32768).flatMap (fun d => leBytes 4 (routeEntry s d).toNat)

/-- The failed-rank mask of a re-formed group: a bit for each rank of the image's record. -/
def failedMask (g : Group) : List W64 :=
  (List.range (ceilDiv (g.n + g.failed.length) 64)).map (fun k =>
    BitVec.ofNat 64 (((g.failed.filter (fun r => r / 64 == k)).map (fun r => 2 ^ (r % 64))).sum))

/-- The group entries and masks of a manifest: the words of the entries, then the masks, each mask at its offset (Table 5). -/
def groupEntries (s : State) (first : Nat) : List Group → Nat → List W64 × List W64
  | [], _ => ([], [])
  | g :: gs, at_ =>
    let next := ((s.collNext.find? (fun x => x.1 == g.index)).map Prod.snd).getD 0
    let m := if g.reformed then failedMask g else []
    let (ws, ms) := groupEntries s first gs (at_ + 8 * m.length)
    (wordOf [⟨48, 10, g.index⟩, ⟨32, 16, g.n⟩, ⟨0, 32, next⟩]
      :: wordOf [⟨24, 20, if g.reformed then at_ else 0⟩, ⟨0, 1, b2n g.reformed⟩] :: ws, m ++ ms)

/-- Ports in a state, as the 16-bit mask of a manifest. -/
def portMask (s : State) (p : PortState) : Nat := ((List.range 16).map (fun k => b2n ((s.port k).state == p) * 2 ^ k)).sum

/-- Words 1 onward of the manifest of a round (Table 5). -/
def manifestRest (s : State) (step interval cost : Nat) : List W64 :=
  let groups := sortOn Group.index s.cfg.groups
  let (es, ms) := groupEntries s 0 groups (128 + 16 * groups.length)
  let m := Config.shake256 (routeBytes s)
  [wordOf [⟨32, 32, step⟩, ⟨0, 32, interval⟩], BitVec.ofNat 64 cost,
    wordOf [⟨32, 32, s.boot.imageVersion.toNat⟩, ⟨28, 4, s.boot.variant.toNat⟩]]
    ++ bytesWords (leBytes 64 m.toNat)
    ++ [wordOf [⟨16, 16, portMask s .up⟩, ⟨0, 16, portMask s .failed⟩], 0, 0, 0] ++ es ++ ms

/-- A CLOSE whose manifest words are on their way: the round word follows as its flagged write, and the interval is its aux. -/
def manifestWritten (s : State) (i : Item) (d : SnapD) (t a : Nat) : State :=
  issued ((addFlagged s i.ref a (wordOf [⟨32, 32, d.round⟩, ⟨0, 1, 1⟩])).modItem i.ref
    (fun j => { j with aux := BitVec.ofNat 32 t })) i.ref

/-- The manifest words of a CLOSE written at an Attic address. -/
def manifestOut (s : State) (i : Item) (d : SnapD) (t cost a : Nat) : State :=
  match writeRanges s i.ref none [(a + 8, wordsBytes (manifestRest s d.step t cost))] false with
  | (s, some c) => failItem s i.ref c none
  | (s, none) => manifestWritten s i d t a

/-- A CLOSE that has every report writes its manifest and is issued (R428 to R430). -/
def closeAdvance (s : State) (i : Item) (d : SnapD) (v : SurvivalCfg) : State :=
  match groupAt s (runGroup v) with
  | none => s
  | some g => match allCosts s g d.round with
    | none => s
    | some cs => manifestOut s i d (securingInterval v (maxOf cs) d.mtbf) (maxOf cs)
        (atticAddr v s.deviceNumber (d.round % 2 * 0x100000))

/-- CLOSE. -/
def runClose (s : State) (i : Item) (d : SnapD) (v : SurvivalCfg) : State :=
  if i.shipped then closeAdvance s i d v
  else if d.round ≠ lastRound s + 1 ∨ (if s.attic.round = d.round then s.attic.secured else 0) < d.count then
    endItem s i.ref .rejected 0x73 0
  else match groupAt s (runGroup v) with
    | none => s
    | some g =>
      let cost := if s.attic.round = d.round then (i.startAt.getD s.now - s.attic.firstAt) / 1000 else 0
      let s := keepReport (s.modItem i.ref (fun j => { j with shipped := true })) d.round g.rank cost
      let s := if 1 < g.n ∧ g.rank < g.n then sendReport s v g d.round g.rank cost d.step else s
      closeAdvance s i d v

/-- CLOSE: the round closes once every member of run_group has reported it (R428). -/
def execClose (c : CtxIx) (seq : Nat) (s : State) : Host.Outcome State Fault Refusal :=
  .next (match snapItem s c.val seq 2 with
    | some (i, d, v) => runClose s i d v
    | none => s)

/-- CLOSE_REPORT received: kept, forwarded unless it originated at the successor (R428, Table 14 of 10_spejan.md). -/
def closeReportArrive (s : State) (m : FabMsg) : State :=
  let w := wd m.line 1
  match s.cfg.survival with
  | none => s
  | some v => match groupAt s (runGroup v) with
    | none => s
    | some g =>
      let rank := bits w 31 16
      if bits w 9 0 ≠ runGroup v ∨ g.n ≤ rank then s
      else
        let s := keepReport s (bits w 63 32) rank (wd m.line 2).toNat
        let s := if rank = (g.rank + 1) % g.n ∨ g.n ≤ g.rank then s
          else sendReport s v g (bits w 63 32) rank (wd m.line 2).toNat (bits (wd m.line 3) 31 0)
        match s.items.find? (fun i => i.stage == .running && i.shipped && kindOf i.words == kSnap && (snapD i.words).action == 2) with
        | some i => closeAdvance s i (snapD i.words) v
        | none => s

/-! ## PRIV (R431) -/

def runPriv (s : State) (i : Item) (d : SnapD) (v : SurvivalCfg) : State :=
  match getRanges s i.ref none [(d.src, d.bytes)] with
  | .fail s c => failItem s i.ref c none
  | .wait s => s
  | .ok s bss =>
    let e := 8192 * (d.step % Nat.max 1 (privDepth v))
    let w0 := headWord (lastRound s) 0 methodPriv
    let rest := headRest d.step 0 d.bytes
    let near := atticAddr v s.deviceNumber (d.localOff + e)
    let far := atticAddr v (buddyDevice v) (d.remoteOff + e)
    match writeCopy s i.ref near (near + 64) w0 rest (bss.headD []) with
    | (t, some c) => failItem t i.ref c none
    | (t, none) => match (if buddyEn v then writeCopy t i.ref far (far + 64) w0 rest (bss.headD []) else (t, none)) with
      | (t, some c) => failItem t i.ref c none
      | (t, none) => issued t i.ref

/-- PRIV: an entry of the privileged ring. -/
def execPriv (c : CtxIx) (seq : Nat) (s : State) : Host.Outcome State Fault Refusal :=
  .next (match snapItem s c.val seq 1 with
    | some (i, d, v) => runPriv s i d v
    | none => s)

/-! ## EVAL (R435, R436) -/

/-- The header of a packed snapshot (Table 9). -/
def evalHead (d : SnapD) (version : Nat) : List Byte :=
  wordsBytes [0x30544E535432464B, wordOf [⟨48, 16, d.tensor⟩, ⟨44, 4, d.fmt⟩, ⟨0, 32, version⟩], wordOf [⟨32, 32, d.step⟩, ⟨0, 32, d.round⟩],
    wordOf [⟨32, 32, d.cols⟩, ⟨0, 32, d.rows⟩], BitVec.ofNat 64 d.packed, 0, 0, 0]

/-- Rows packed without padding between them (R436, R24). -/
def packRows (fmt cols : Nat) (bss : List (List Byte)) : List Byte :=
  packCodes (fmtWidth fmt) (bss.flatMap (unpackCodes (fmtWidth fmt) cols))

/-- The packed rows of an EVAL written to the Attic. -/
def packOut (s : State) (i : Item) (d : SnapD) (a version : Nat) (bss : List (List Byte)) : State :=
  match writeRanges s i.ref none [(a, evalHead d version ++ packRows d.fmt d.cols bss)] false with
  | (s, some c) => failItem s i.ref c none
  | (s, none) => releaseChain (s.modItem i.ref (fun j => { j with shipped := true, aux := BitVec.ofNat 32 version })) i.ref

/-- The rows of a version at an address read, packed and written to the Attic. -/
def packTo (s : State) (i : Item) (d : SnapD) (v : SurvivalCfg) (from_ version : Nat) : State :=
  match getRanges s i.ref none (rowRanges from_ d.rowStride d.rows (rowBytes d.fmt d.cols)) with
  | .fail s c => failItem s i.ref c none
  | .wait s => s
  | .ok s bss => packOut s i d (atticAddr v s.deviceNumber d.localOff) version bss

/-- The pinned working copy is packed into the staging area. -/
def packEval (s : State) (i : Item) (d : SnapD) (v : SurvivalCfg) (a b : Nat) : State :=
  match readRecord s i.ref a with
  | (s, .fail c) => failItem s i.ref c none
  | (s, .wait) => s
  | (s, .ok bs) => match packCores s i d.cores with
    | (s, false) => s
    | (s, true) => packTo s i d v (recBuf (bytesWords bs) b) (recVer (bytesWords bs) b)

/-- The packing is acknowledged: the pin is released, then the packed bytes are shipped. -/
def shipEval (s : State) (i : Item) (d : SnapD) (v : SurvivalCfg) : State :=
  if outstanding s i ∨ i.staged.isEmpty = false then s
  else
    let s := match i.ownPin with
      | some (a, b, _) => (issueRelease s i.ref.ctx a b).modItem i.ref (fun j => { j with ownPin := none })
      | none => s
    match getRanges s i.ref none [(atticAddr v s.deviceNumber d.localOff, 64 + d.packed)] with
    | .fail s c => failItem s i.ref c none
    | .wait s => s
    | .ok s bss => match writeRanges s i.ref none [(d.dst, bss.headD [])] false with
      | (s, some c) => failItem s i.ref c none
      | (s, none) => issued s i.ref

def runEval (s : State) (i : Item) (d : SnapD) (v : SurvivalCfg) : State :=
  if i.shipped then shipEval s i d v
  else match i.ownPin with
    | some (a, b, _) => packEval s i d v a b
    | none =>
      let s := takeOwnPin s i d.src
      match s.item i.ref with
      | some j => match j.ownPin with
        | some (a, b, _) => packEval s j d v a b
        | none => s
      | none => s

/-- EVAL: an evaluation snapshot. -/
def execEval (c : CtxIx) (seq : Nat) (s : State) : Host.Outcome State Fault Refusal :=
  .next (match snapItem s c.val seq 3 with
    | some (i, d, v) => runEval s i d v
    | none => s)

/-! ## RESTORE (R438) -/

/-- Where the data of a copy begins behind its header: at 64 bytes in an entry of the privileged ring (R423, R431). -/
def dataBehind (w0 : W64) : Nat := if bits w0 15 14 = methodPriv then 64 else 65536

/-- What the header of a copy gives: where its data begins and its bytes. -/
inductive CopyAt where
  | ok (dataAt bytes : Nat)
  | wait
  | fail (code : Nat)

/-- The buffer of a round in an area: for an odd round its place follows from the bytes that the area's first header names, and from the
range asked for where that header names none of this tensor. An entry of the privileged ring has one buffer (notes/assumptions/22.md). -/
def bufferAt (s : State) (r : ItemRef) (area round tensor reach : Nat) : State × CopyAt :=
  if round % 2 = 0 then (s, .ok area 0)
  else match itemRead s r none area 64 with
    | (s, .fail c) => (s, .fail c)
    | (s, .wait) => (s, .wait)
    | (s, .ok bs) =>
      let w := wordAt bs 0
      let n := if bitAt w 0 ∧ bits w 31 16 = tensor then bits (wordAt bs 16) 47 0 else reach
      (s, .ok (if bitAt w 0 ∧ bits w 15 14 = methodPriv then area else area + copySize n) 0)

/-- A copy's header checked: it must be valid for the round and name the tensor. -/
def findCopy (s : State) (r : ItemRef) (area round tensor reach : Nat) : State × CopyAt :=
  match bufferAt s r area round tensor reach with
  | (s, .ok head _) => match itemRead s r none head 64 with
    | (s, .fail c) => (s, .fail c)
    | (s, .wait) => (s, .wait)
    | (s, .ok bs) =>
      let w := wordAt bs 0
      if bitAt w 0 ∧ bits w 63 32 = round ∧ bits w 31 16 = tensor then (s, .ok (head + dataBehind w) (bits (wordAt bs 16) 47 0))
      else (s, .fail codeRemoteFault)
  | x => x

/-- The restored bytes written to dst. -/
def writeRestore (s : State) (i : Item) (d : SnapD) (bs : List Byte) : State :=
  match writeRanges s i.ref none [(d.dst, bs)] false with
  | (s, some c) => failItem s i.ref c none
  | (s, none) => issued (s.modItem i.ref (fun j => { j with aux := BitVec.ofNat 32 d.round })) i.ref

/-- Bytes that a RESTORE has read, arbitrary in the lines that it also writes, as what it writes there is (R255). -/
def restoreRead (s : State) (r : ItemRef) (d : SnapD) (a : Nat) (bs : List Byte) : State × List Byte :=
  let lines := sharedLines [(a, bs.length)] [(d.dst, d.bytes)]
  blur (s.modItem r (fun j => { j with blur := (j.blur ++ lines).dedup })) lines a bs

/-- RESTORE from one copy. -/
def restoreCopy (s : State) (i : Item) (d : SnapD) (area : Nat) : State :=
  match findCopy s i.ref area d.round d.tensor (d.offset + d.bytes) with
  | (s, .fail c) => failItem s i.ref c none
  | (s, .wait) => s
  | (s, .ok at_ _) => match getRanges s i.ref none [(at_ + d.offset, d.bytes)] with
    | .fail s c => failItem s i.ref c none
    | .wait s => s
    | .ok s bss =>
      let (s, bs) := restoreRead s i.ref d (at_ + d.offset) (bss.headD [])
      writeRestore s i d bs

/-- The sources of one slice of a lost member: the holder's parity buffer and the slices of the other surviving members, each as its area,
the position of the piece in it, whether it is a copy, and its length. -/
def sliceSources (v : SurvivalCfg) (g : Group) (d : SnapD) (m n : Nat) : List (Nat × Nat × Bool) :=
  let h := holderOf m n
  let dev (k : Nat) : Nat := (deviceOfRank g k).getD 0
  (atticAddr v (dev h) d.remoteOff, 0, false)
    :: ((otherRanks m).filter (fun k => k != h)).map (fun k => (atticAddr v (dev k) d.localOff, sliceFor k h * d.slice, true))

/-- The bytes of a piece of a slice from one source; bytes beyond a copy are zero. -/
def sourceBytes (s : State) (r : ItemRef) (d : SnapD) (src : Nat × Nat × Bool) (lo len : Nat) : State × Rd :=
  match findCopy s r src.1 d.round d.tensor (if src.2.2 then 7 * d.slice else d.slice) with
  | (s, .fail c) => (s, .fail c)
  | (s, .wait) => (s, .wait)
  | (s, .ok at_ bytes) =>
    let a := src.2.1 + lo
    let n := if src.2.2 then Nat.min len (bytes - a) else len
    match itemRead s r none (at_ + a) n with
    | (s, .ok bs) => let (s, bs) := restoreRead s r d (at_ + a) bs; (s, .ok (padTo len bs))
    | x => x

/-- One piece of a slice rebuilt. -/
def rebuildPiece (s : State) (r : ItemRef) (d : SnapD) (v : SurvivalCfg) (g : Group) (m n lo len : Nat) : State × Rd :=
  let (s, rd) := (sliceSources v g d m n).foldl (fun (acc : State × List (List Byte) × Rd) src =>
    let (t, x) := sourceBytes acc.1 r d src lo len
    (t, match x, acc.2.2 with
      | .ok bs, y => (acc.2.1 ++ [bs], y)
      | .fail c, .fail e => (acc.2.1, .fail (Nat.min c e))
      | .fail c, _ => (acc.2.1, .fail c)
      | .wait, .fail e => (acc.2.1, .fail e)
      | .wait, _ => (acc.2.1, .wait))) (s, [], .ok [])
  match rd with
  | (l, .ok _) => (s, .ok (xorAll len l))
  | (_, x) => (s, x)

/-- RESTORE from parity: every slice that the range touches. -/
def restoreParity (s : State) (i : Item) (d : SnapD) (v : SurvivalCfg) : State :=
  match parityIn s v with
  | none => failItem s i.ref codeRemoteFault none
  | some g => match packCores s i d.cores with
    | (s, false) => s
    | (s, true) =>
      let size := Nat.max 1 d.slice
      let first := d.offset / size
      let last := (d.offset + d.bytes - 1) / size
      let (s, rd) := (List.range (last + 1 - first)).foldl (fun (acc : State × Rd) k =>
        let n := first + k
        let lo := Nat.max d.offset (n * size) - n * size
        let len := Nat.min (d.offset + d.bytes) ((n + 1) * size) - n * size - lo
        let (t, x) := rebuildPiece acc.1 i.ref d v g (g.failed.headD 0) n lo len
        (t, match acc.2, x with
          | .fail e, .fail c => .fail (Nat.min e c)
          | .fail e, _ => .fail e
          | _, .fail c => .fail c
          | .ok a, .ok b => .ok (a ++ b)
          | _, _ => .wait)) (s, .ok [])
      match rd with
      | .fail c => failItem s i.ref c none
      | .wait => s
      | .ok bs => writeRestore s i d bs

def runRestore (s : State) (i : Item) (d : SnapD) (v : SurvivalCfg) : State :=
  if d.source = 0 then restoreCopy s i d (atticAddr v s.deviceNumber d.localOff)
  else if d.source = 1 then restoreCopy s i d (atticAddr v d.member d.localOff)
  else if d.source = 2 then restoreCopy s i d (atticAddr v d.via d.remoteOff)
  else restoreParity s i d v

/-- RESTORE. -/
def execRestore (c : CtxIx) (seq : Nat) (s : State) : Host.Outcome State Fault Refusal :=
  .next (match snapItem s c.val seq 4 with
    | some (i, d, v) => runRestore s i d v
    | none => s)

/-! ## REFORM (R439, R440) -/

/-- The record that a re-form derives: the survivors in ascending old rank, b 0, ring2d_a kept while it divides n. Failed ranks are those
of the image's record (notes/assumptions/23.md). -/
def reformGroup (g : Group) (failed : List Nat) : Group :=
  let stays := (List.range g.n).filter (fun r => !failed.contains r)
  let members := stays.map (fun r => g.members.getD r 0)
  let n := members.length
  { g with
    n := n, rank := if stays.contains g.rank then (stays.takeWhile (fun r => r != g.rank)).length else n, b := 0
    ring2dA := if g.ring2dA ≠ 0 ∧ n % g.ring2dA = 0 then g.ring2dA else 0
    members := members, backupMap := [], reformed := true
    failed := sortOn id (g.failed ++ failed.map (fun r => (oldRanks g).getD r 0)) }

def runReform (s : State) (i : Item) (d : SnapD) : State :=
  match groupAt s d.group with
  | none => endItem s i.ref .rejected 0x75 0
  | some g => match itemRead s i.ref none d.mask (maskBytes s d.group) with
    | (s, .fail c) => failItem s i.ref c none
    | (s, .wait) => s
    | (s, .ok bs) =>
      let h := reformGroup g (maskRanks g.n bs)
      if h.n < 2 then endItem s i.ref .rejected 0x75 0
      else
        let s := { s with
          cfg := { s.cfg with groups := s.cfg.groups.map (fun x => if x.index = g.index then h else x) }
          collNext := s.collNext.filter (fun x => x.1 != g.index), colls := s.colls.filter (fun x => x.group != g.index),
          lateCopies := s.lateCopies.filter (fun x => x.group != g.index) }
        endItem s i.ref .done 0 (BitVec.ofNat 32 h.n)

/-- A REFORM that can start, or has started and waits for its mask. -/
def reformItem (s : State) (c seq : Nat) : Option Item := match s.item ⟨c, seq⟩ with
  | some i =>
    if live s ∧ kindOf i.words = kSnap ∧ (snapD i.words).action = 5 ∧ (candidate s i ∨ i.stage = .running) then some i else none
  | none => none

/-- REFORM: the group record in force is derived from the failed ranks. -/
def execReform (c : CtxIx) (seq : Nat) (s : State) : Host.Outcome State Fault Refusal :=
  .next (match reformItem s c.val seq with
    | some i => runReform (startItem s i.ref id) i (snapD i.words)
    | none => s)

end Sys2Proof.Machine
end

