-- ==== Sys2Proof/Machine/Serve.lean ====
section
/-! DEFINITION. Requests at their home and the answers they get (R205, R232, R247 to R250, R273, R503), and what an answer settles at its
requester (R125, R171, R250, R275). -/

namespace Sys2Proof.Machine

/-! ## Requests performed at their home -/

/-- What a home answers to a whole request (Table 5 of 10_spejan.md). -/
inductive Reply where
  | data (bs : List Byte)
  | ack
  | old (width v : Nat) (fl : BitVec 8)
  | fault (status : Nat)
  | retry
deriving DecidableEq, Repr

/-- The accesses of a request, one to each line it spans. -/
def lineOps (k : Packet) : List (Nat × AccOp) :=
  let n := pktLines k
  let line (i : Nat) : Nat := pktOff k + 64 * i
  let all : List Bool := List.replicate 64 true
  let mask (i : Nat) : List Bool := if i = 0 then maskBits k.w2 else if i + 1 = n then maskBits k.w3 else all
  if pktOp k = opRead then (List.range n).map (fun i => (line i, .read 64))
  else if pktOp k = opWrite then (List.range n).map (fun i => (line i, .write (padTo 64 (k.data.drop (64 * i))) (mask i)))
  else if pktOp k = opPoison then (List.range n).map (fun i => (line i, .poison))
  else
    let code := bits k.w2 4 0
    let w := atomicBytes code
    let cas := code / 2 = 9
    let word (i : Nat) : Nat := leNat ((k.data.drop (w * i)).take w)
    [(pktOff k, .atomic code (if cas then word 1 else word 0) (if cas then word 0 else 0))]

/-- A request that its home can take: whole lines of one 4,096-byte block, or a naturally aligned location of a defined atomic (R228,
R273, R503). -/
def requestOk (k : Packet) : Bool :=
  if pktOp k = opAtomic then bits k.w2 4 0 < 0x18 && pktOff k % atomicBytes (bits k.w2 4 0) == 0
  else pktOff k % 64 == 0 && pktOff k % 4096 + 64 * pktLines k ≤ 4096

/-- The home can serve an access now (R232). -/
def servesNow (s : State) (off : Nat) (op : AccOp) : Bool := match locOf off with
  | .hbm => hbmServes s.cfg s.memory off op
  | _ => true

/-- Answers of the lines joined: the first that is no success stands. -/
def joinReply : Option Reply → Ans → Option Reply
  | some (.data bs), .data cs => some (.data (bs ++ cs))
  | none, .data cs => some (.data cs)
  | none, .ack => some .ack
  | none, .old v fl => some (.old 8 v fl)
  | some (.fault c), _ => some (.fault c)
  | _, .refused => some (.fault 1)
  | _, .poisoned => some (.fault 2)
  | _, .uncorrectable p => some (.fault (if p then 4 else 3))
  | _, .retry => some .retry
  | x, _ => x

/-- A request that its home permits is charged once, with its bytes (R222). -/
def chargePacket (s : State) (who : Who) (k : Packet) : State := match lineOps k with
  | o :: _ => chargeRequest s who (accKind o.2) (pktOff k) (if pktOp k = opAtomic then opBytes o.2 else 64 * pktLines k)
  | [] => s

/-- A whole request that a source brings (R227), performed at its home: refused when a line is not permitted, answered RETRY when a line cannot be served, else
performed line by line; no answer from a unit whose clock is lost (R205, R232, R248, R417). -/
def serve (s : State) (src : Nat) (who : Who) (k : Packet) : State × Option Reply :=
  let ops := lineOps k
  if ops.any (fun o => homeStopped s o.1) then (s, none)
  else if requestOk k = false ∨ ops.any (fun o => !homePermits s who (accKind o.2) o.1) then (s, some (.fault 1))
  else if ops.any (fun o => !servesNow s o.1 o.2) then (chargePacket s who k, some .retry)
  else
    let (t, r) := ops.foldl (fun (acc : State × Option Reply) o =>
      let (t, a) := reachHome acc.1 src who o.1 o.2 .clean
      (t, joinReply acc.2 a)) (chargePacket s who k, none)
    (t, match r with
      | some (.old _ v fl) => some (.old (atomicBytes (bits k.w2 4 0)) v fl)
      | x => x)

/-- The packet of an answer. -/
def replyPacket (s : State) (k : Packet) (r : Reply) : Packet :=
  let mk (op lines : Nat) (w2 : W64) (bs : List Byte) : Packet :=
    mkPacket (pktSrc k) s.deviceNumber op (hopLimit s) (pktReq k) lines (pktOff k) w2 0 bs
  match r with
  | .data bs => mk opReadRsp (pktLines k) 0 bs
  | .ack => mk opWriteAck (pktLines k) 0 []
  | .old w v fl => mk opAtomicRsp 1 (BitVec.ofNat 64 fl.toNat) (leBytes w v)
  | .fault c => mk opFault (pktLines k) (BitVec.ofNat 64 c) []
  | .retry => mk opRetry (pktLines k) 0 []

/-! ## Answers at their requester -/

/-- Ledger code of a FAULT status (Table 5 of 10_spejan.md). -/
def faultCode (status : Nat) : Option Nat :=
  if status = 1 then some codeRemoteFault else if status = 2 then some codePoison else if status = 3 then some codeHbm
  else if status = 4 then some codePantry else none

/-- Data of a read arrives: with its item, or with the context whose intake waits for a version record (R126, R273). -/
def readDone (s : State) (q : Req) (bs : List Byte) : State :=
  let s := s.dropReq q.id
  match q.purpose, q.item, q.ctx with
  | .read a n, some r, _ =>
    s.modItem r (fun i => if i.over then i else { i with
      inbound := i.inbound.filter (fun c => !(a ≤ c.1 && c.1 < a + n)) ++ (List.range n).map (fun j => (a + j, bs.getD j 0)) }) |> (waitCame · r)
  | .read a _, none, some c => resumeIntake (s.modCtx c (fun x => { x with fetched := x.fetched ++ [(a, some (bytesWords bs))] })) c
  | _, _, _ => s

/-- A request that fails with a code; a version record that cannot be read is refused at admission (R126), and a FENCE whose write-back it
was fails with it (R261). -/
def failRequest (s : State) (q : Req) (code : Nat) : State :=
  match q.purpose, q.item, q.ctx with
  | .read a _, none, some c => resumeIntake ((s.dropReq q.id).modCtx c (fun x => { x with fetched := x.fetched ++ [(a, none)] })) c
  | _, _, _ => fenceFailed (requestFailed s q code) q.id code

/-- A request that was answered RETRY is to be reissued (R232), but for the commit of an item that has ended without it (R135). -/
def markRetry (s : State) (q : Req) : State :=
  let ended := match q.purpose, q.item with
    | .commit _ _ _, some r => (s.item r).elim true Item.over
    | _, _ => false
  if ended then lateNoCommit (s.dropReq q.id) (q.item.getD default)
  else { s with reqs := s.reqs.map (fun x => if x.id = q.id then { x with retry := true } else x) }

/-- A request that reads. -/
def Purpose.reads : Purpose → Bool
  | .read _ _ => true
  | _ => false

/-- A request that is an atomic: a HAUL's, or a compare-swap on a version record. -/
def Purpose.swaps : Purpose → Bool
  | .atomic _ _ => true
  | p => p.onRecord

/-- Requests for which no route was left when they were to leave are reported unreachable (R282); the first argument bounds their number. -/
def failLost : Nat → State → State
  | 0, s => s
  | n + 1, s => match s.reqs.find? Req.lost with
    | some q => failLost n (failRequest s q codeUnreachable)
    | none => s

/-- An answer settles its request; one that does not fit it is discarded. -/
def settleOne (s : State) (q : Req) (r : Reply) : State :=
  match r with
  | .data bs => if q.purpose.reads then readDone s q bs else s
  | .ack => if q.purpose.reads ∨ q.purpose.swaps then s else writeDone s q
  | .old _ v fl => if q.purpose.swaps then afterSettle (atomicDone (s.dropReq q.id) q (BitVec.ofNat 64 v) fl) q else s
  | .fault c => match faultCode c with
    | some code => failRequest s q code
    | none => s
  | .retry => markRetry s q

/-- An answer settles its request, and a request that could not leave in its place is reported. -/
def settle (s : State) (q : Req) (r : Reply) : State := let t := settleOne s q r; failLost t.reqs.length t

/-- A request fails with a code, and one that could not leave in its place is reported. -/
def endRequest (s : State) (q : Req) (code : Nat) : State := let t := failRequest s q code; failLost t.reqs.length t

/-- The outstanding Spejan request that an answer names (R275). -/
def requestOf (s : State) (id : Nat) : Option Req := s.reqs.find? (fun r => onSpejan s r && pktReq r.packet == id)

/-- A held access of this device to its own memory, for whom its home takes it: the device itself for version records, poison and Ledger records (R246). -/
def heldWho (q : Req) : Who :=
  match q.purpose with
  | .poison | .held => .device
  | .atomic _ _ => .item (q.item.getD ⟨q.ctx.getD 0, 0⟩)
  | p => if p.swaps then .device else .item (q.item.getD ⟨q.ctx.getD 0, 0⟩)

/-- One access that was answered RETRY is reissued: at this device's own home, or by its packet, whose timer starts again (R232, R275). -/
def reissue (s : State) (q : Req) : State :=
  if pktDst q.packet = s.deviceNumber then
    match serve s (sourceOf s (heldWho q)) (heldWho q) q.packet with
    | (t, some r) => settle t q r
    | (t, none) => t
  else
    let t := sendFor s q.id q.packet
    failLost t.reqs.length t

end Sys2Proof.Machine
end

