-- ==== Sys2Proof/Machine/Larder.lean ====
section
/-! DEFINITION. The Cellars: the fair queues of lines (R227), the regulators (R222 to R224), reissues (R232), patrol scrub (R221),
temperatures and throttle steps (R231), retrains (R364, R365), and the release of Pantry bytes (R213). -/

namespace Sys2Proof.Machine

/-! ## Answers of an access -/

/-- The request that an access of a peer was, for its answer. -/
def accessPacket (s : State) (dev id off : Nat) : AccOp → Packet
  | .read n => mkPacket s.deviceNumber dev opRead 0 id (Nat.max 1 (ceilDiv n 64)) off 0 0 []
  | .write _ _ => mkPacket s.deviceNumber dev opWrite 0 id 1 off 0 0 []
  | .atomic code _ _ => mkPacket s.deviceNumber dev opAtomic 0 id 1 off (BitVec.ofNat 64 code) 0 []
  | .poison => mkPacket s.deviceNumber dev opPoison 0 id 1 off 0 0 []

/-- The reply that a home's answer is. -/
def replyOf (op : AccOp) : Ans → Reply
  | .data bs => .data bs
  | .ack => .ack
  | .old v fl => .old (match op with | .atomic code _ _ => atomicBytes code | _ => 8) v fl
  | .refused => .fault 1
  | .poisoned => .fault 2
  | .uncorrectable p => .fault (if p then 4 else 3)
  | .retry => .retry

/-- The packet by which an access of this device is held for reissue (R232). -/
def heldPacket (s : State) (off : Nat) (op : AccOp) (req : Nat) : Packet :=
  let a := s.deviceNumber * 2 ^ 48 + off
  match op with
  | .read _ => readPacket s a 1 req
  | .write bs mask => maskedPacket s (a / 64 * 64) (List.replicate (off % 64) 0 ++ bs)
      (maskWord ((List.range 64).map (fun i => off % 64 ≤ i && mask.getD (i - off % 64) false))) req
  | .atomic code v c => atomicPacket s a code v c req
  | .poison => poisonPacket s a req

/-- What an answer does for its caller: an item is failed, gets the flags of its atomic, or holds its access for reissue; a peer gets its
answer packet; the host's and the device's own accesses are answered where they are made, and wait again after a RETRY (R205, R220, R229,
R232). -/
def deliver (s : State) (x : Access) (a : Ans) : State :=
  match x.who with
  | .item r => match a with
    | .old _ fl => addFlags s r fl
    | .retry => -- an item's access is held for reissue
      let p : Purpose := match x.op with
        | .read n => .read (s.deviceNumber * 2 ^ 48 + x.off) n
        | .atomic _ _ _ => .atomic none 8
        | _ => .write
      (s.request (some r) (some r.ctx) p (heldPacket s x.off x.op)).1
    | a => match ansCode a with
      | some c => failItem s r c none
      | none => s
  | .remote dev id => s.sendPacket (replyPacket s (accessPacket s dev id x.off x.op) (replyOf x.op a))
  | _ => if a = .retry then joinLine s x else s

/-- One access whose turn it is performed and answered; nothing answers at a home whose clock is lost (R417). -/
def performAccess (s : State) (x : Access) (ecc : Ecc) : State :=
  if homeStopped s x.off then s
  else
    let (t, a) := performHome (chargeRequest s x.who (accKind x.op) x.off (opBytes x.op)) x.who x.off x.op ecc
    deliver t x a

/-- One access that comes to its home takes its turn in its line's queue, and is answered (R227). -/
def bringAccess (s : State) (x : Access) : State :=
  if homeStopped s x.off then s
  else
    let (t, a) := reachHome (chargeRequest s x.who (accKind x.op) x.off (opBytes x.op)) x.source.val x.who x.off x.op .clean
    deliver t x a

/-- The answers of accesses that were performed ahead of others reach their callers (R227). -/
def deliverServed (s : State) : State :=
  s.memory.served.foldl (fun s x => deliver s x.1 x.2) (s.modMem (fun m => { m with served := [] }))

/-! ## The fair queue of a line (R227) -/

/-- Accesses that their home refuses are answered on arrival and enter no queue (R205). -/
def refused (s : State) (x : Access) : Bool := !homePermits s x.who (accKind x.op) x.off

/-- An access arrives at its line. -/
def arriveLine (s : State) (x : Access) : State :=
  if refused s x then performAccess s x .clean else joinLine s x

/-- The next source of a queue, round-robin. -/
def nextSource (q : LineQueue) : Option Nat := nextAfter 62 q.last.val (fun k => q.waiting.any (fun x => x.source.val == k))

/-- LARDER_ACCESS: accesses arrive at their lines, and one line serves the access whose turn it is (R205, R227, R228). -/
def execLarderAccess (arrivals : List Access) (line : Nat) (ecc : Ecc) (s : State) : Host.Outcome State Fault Refusal :=
  .next (if s.up then
    let s := arrivals.foldl arriveLine (deliverServed s)
    let q := lineQueue s.memory line
    match nextSource q with
    | some k => match q.waiting.find? (fun x => x.source.val == k) with
      | some x =>
        performAccess (s.modMem (fun m => takeTurn m line x)) x ecc
      | none => s
    | none => s
  else s)

/-! ## Regulators (R222 to R224) -/

/-- Regulator of a partition at a Cellar. -/
def regAt (s : State) (k p : Nat) : Regulator := (s.memory.regulators.getD k []).getD p Regulator.cold

/-- A request arrives at its Cellar: refused ones and the device's own are not charged (R205, R222). -/
def arriveCellar (k : Nat) (s : State) (x : Access) : State :=
  if locOf x.off ≠ .hbm ∨ cellarOf s.cfg x.off ≠ k then s
  else match chargedTo s x.who x.off, refused s x with
    | some p, false =>
      let n := s.memory.stamp
      (modRegs s k (fun q r => if q = p then { r with waiting := r.waiting ++ [(n, x)] } else r)).modMem (fun m => { m with stamp := m.stamp + 1 })
    | _, _ => bringAccess s x

/-- A bucket holds the charge of the head request. -/
def holdsCharge (r : Regulator) (bucket : Nat) : Bool := match r.waiting with
  | x :: _ => 1000 * charge x.2.op ≤ bucket
  | [] => false

/-- Guaranteed class, and at least spare class (R224). -/
def isGuaranteed (r : Regulator) : Bool := holdsCharge r r.guarantee && holdsCharge r r.ceiling
def isSpare (r : Regulator) : Bool := holdsCharge r r.ceiling

/-- Arrival number of a regulator's head. -/
def headStamp (r : Regulator) : Nat := match r.waiting with
  | x :: _ => x.1
  | [] => 0

/-- The partition that a Cellar serves next, and the regulators' credits after it: guaranteed-class requests in arrival order, then
spare-class ones by smooth weighted round-robin (R224, R178). -/
def nextGrant (s : State) (k : Nat) : Option Nat × List Int :=
  let ps := List.range 8
  let credits := ps.map (fun p => (regAt s k p).credit)
  match minOn (fun p => headStamp (regAt s k p)) (ps.filter (fun p => isGuaranteed (regAt s k p))) with
  | some p => (some p, credits)
  | none => wrr (fun p => (s.partCfg p).weight) (ps.filter (fun p => isSpare (regAt s k p))) credits

/-- Nanoseconds until the ceiling bucket of a waiting partition holds its head's charge. -/
def waitFor (s : State) (p : Nat) (r : Regulator) : Option Nat := match r.waiting with
  | x :: _ => some (ceilDiv (1000 * charge x.2.op - r.ceiling) (Nat.max 1 (regCeiling s p * 250 * headQuarters s r)))
  | [] => none

/-- One grant: the head request of a partition is performed, which takes its charge from both buckets. -/
def grant (s : State) (k : Nat) (s0 : Option Nat × List Int) : State :=
  match s0.1 with
  | none => s
  | some p => match (regAt s k p).waiting with
    | [] => s
    | x :: rest =>
      let s := modRegs s k (fun q r =>
        let r := { r with credit := s0.2.getD q 0 }
        if q = p then { r with waiting := rest } else r)
      bringAccess s x.2

/-- REGULATOR_GRANT: requests arrive at a Cellar, and one is served. When every waiting request lacks its charge, time passes until one
has it (R224). -/
def execRegulatorGrant (k : LandIx) (arrivals : List Access) (s : State) : Host.Outcome State Fault Refusal :=
  .next (if s.up then
    let s := modRegs (arrivals.foldl (arriveCellar k.val) (deliverServed s)) k.val (fillBuckets s)
    match nextGrant s k.val with
    | (some p, cs) => grant s k.val (some p, cs)
    | (none, _) => match minOn id ((List.range 8).filterMap (fun p => waitFor s p (regAt s k.val p))) with
      | some dt =>
        let s := s.upTo (s.now + dt)
        let s := modRegs s k.val (fillBuckets s)
        grant s k.val (nextGrant s k.val)
      | none => s
  else s)

/-! ## Patrol scrub (R221) -/

/-- Blocks of a stack: 96 GiB. -/
def stackBlocks : Nat := 96 * 2 ^ 30 / 64

/-- Local offset of a block of a stack, blocks numbered from 0 in ascending offset (R216). -/
def blockOffset (c : Cfg) (st i : Nat) : Nat :=
  let g := i / 4
  let wide := wideBytes c / 24 / 256
  let within := i % 4 * 64
  if g < wide then ((g / 32) * 768 + 24 * (g % 32) + 12 * (st % 2) + st / 2) * 256 + within
  else wideBytes c + st / 2 * nearBytes c + (2 * (g - wide) + st % 2) * 256 + within

/-- The scrub position moves on; a completed pass is counted. -/
def scrubNext (k : Stack) : Stack :=
  if k.scrubAt + 1 < stackBlocks then { k with scrubAt := k.scrubAt + 1 } else { k with scrubAt := 0, scrubPass := k.scrubPass + 1 }

/-- What scrub does with a block: one that the Larder holds is skipped, poison is left alone, errors are corrected or poisoned (R220,
R221). -/
def scrubBlock (s : State) (off : Nat) (ecc : Ecc) : State :=
  if (larderFind s.memory (off / 64)).isSome ∨ linePoisoned s.memory off then s
  else match stackFinds s.memory off ecc with
    | .clean => s
    | .corrected => foundCorrected s off
    | .uncorrectable => drainDue (foundUncorrectable s .device off true true)
    | .poison => s.modMem (fun m => setPoison s.cfg m off true)
    | .other counted _ => if counted then foundCorrected s off else s

/-- The next block of a stack is scrubbed; a stack that is not in service keeps its position. -/
def scrubStack (s : State) (st : StackIx) (ecc : Ecc) : State :=
  if stackUp s.memory st.val then
    let off := blockOffset s.cfg st.val (s.memory.hbmStacks.getD st.val Stack.cold).scrubAt
    (scrubBlock s off ecc).modMem (fun m => modStack m st.val scrubNext)
  else s

/-- PATROL_SCRUB_READ. With it come the double-bit errors that have arisen in the arrays since the last one (notes/assumptions/5.md, 116.md). -/
def execPatrolScrubRead (st : StackIx) (x : ScrubRead) (s : State) : Host.Outcome State Fault Refusal :=
  .next (if s.up then scrubStack (x.upsets.foldl hitUpset s) st x.ecc else s)

/-! ## Stack temperatures (R231) -/

def stackThrottleTemp (s : State) : Int := bits s.cfg.memCfg 23 16

/-- The step that a temperature enters (Table 8 of 08_memory.md). -/
def stepEntered (s : State) (t : Int) : Nat :=
  let x := stackThrottleTemp s
  if x + 6 ≤ t then 3 else if x + 3 ≤ t then 2 else if x ≤ t then 1 else 0

/-- A temperature is below the threshold at which a step is left. -/
def belowLeave (s : State) (step : Nat) (t : Int) : Bool := step != 0 && t < stackThrottleTemp s + 3 * (step : Int) - 5

/-- STACK_TEMP_READ: the reading is kept; a rising step applies at once, a falling one when it has lasted 1 ms. -/
def execStackTempRead (st : StackIx) (temp : Byte) (s : State) : Host.Outcome State Fault Refusal :=
  .next (if s.up then
    withCaps s (fun s => s.modMem (fun m => modStack m st.val (fun k =>
      let step := Nat.max k.throttle (stepEntered s temp.toInt)
      { k with
        temp := temp, throttle := step
        belowSince := if belowLeave s step temp.toInt then (if k.belowSince = 0 then s.now else k.belowSince) else 0 })))
  else s)

/-- STACK_THROTTLE_STEP_DOWN: 1 ms below the leave threshold, and the step falls by one. -/
def execStackThrottleStepDown (st : StackIx) (s : State) : Host.Outcome State Fault Refusal :=
  .next (let k := s.memory.hbmStacks.getD st.val Stack.cold
    if s.up ∧ k.throttle ≠ 0 ∧ k.belowSince ≠ 0 then
      withCaps (s.upTo (k.belowSince + 1000000)) (fun s => s.modMem (fun m => modStack m st.val (fun k =>
        { k with throttle := k.throttle - 1, belowSince := if belowLeave s (k.throttle - 1) k.temp.toInt then s.now else 0 })))
    else s)

/-! ## Retrains (R364, R365) -/

/-- DATA_EYE_LOCK_LOSS: a stack in service begins to retrain. -/
def execDataEyeLockLoss (st : StackIx) (s : State) : Host.Outcome State Fault Refusal :=
  .next (if s.up ∧ stackUp s.memory st.val then s.modMem (fun m => modStack m st.val (fun k => k.retrain s.now)) else s)

/-- STACK_RETRAIN_COMPLETE: the stack is in service again; the rows that the retrain repaired through its IEEE 1500 port join those of its
fuses and earlier trainings (Table 11 of 13_startup.md, R221). -/
def execStackRetrainComplete (x : StackRetrain) (s : State) : Host.Outcome State Fault Refusal :=
  .next (if s.up ∧ (s.memory.hbmStacks.getD x.stack.val Stack.cold).service = 1 then
    s.modMem (fun m => modStack m x.stack.val (fun k => { k with
      service := 0, attempts := 0, rowsTrained := BitVec.ofNat 16 (Nat.min 65535 (k.rowsTrained.toNat + x.repaired)) }))
  else s)

/-- STACK_RETRAIN_TIMEOUT: 300 ms without completion; it starts again, and after the third attempt the stack is out of service. -/
def execStackRetrainTimeout (st : StackIx) (s : State) : Host.Outcome State Fault Refusal :=
  .next (let k := s.memory.hbmStacks.getD st.val Stack.cold
    if s.up ∧ k.service = 1 then
      let s := s.upTo (k.retrainAt + 300000000)
      if k.attempts < 3 then s.modMem (fun m => modStack m st.val (fun k => { k with attempts := k.attempts + 1, retrainAt := s.now }))
      else
        raiseError (s.modMem (fun m => modStack m st.val (fun k => { k with service := 2 })))
          { cls := 0x08, sev := sevUnit, unit := 0x60 + st.val, item := none, ctx := none, detail := [BitVec.ofNat 64 k.attempts] }
    else s)

/-! ## Released Pantry bytes (R213) -/

/-- PANTRY_RELEASE_COMPLETE: the zeroing of a die's released bytes is complete; a latched allocation is then made, which zeroes what it
releases in its turn. -/
def execPantryReleaseComplete (d : DieIx) (s : State) : Host.Outcome State Fault Refusal :=
  .next (let r := s.memory.releasing.getD d.val (0, false)
    if s.up ∧ r.1 ≠ 0 then
      let s := s.upTo r.1
      s.modMem (fun m => { m with releasing := m.releasing.set d.val (if r.2 then (s.now + 1048576, false) else (0, false)) })
    else s)

end Sys2Proof.Machine
end

