-- ==== Sys2Proof/Machine/Control.lean ====
section
/-! DEFINITION. Control space (R11 to R13, R464, R469, R477 to R488): the value of every register, who reads it, and who writes it. -/

namespace Sys2Proof.Machine

/-! ## The map (Table 1 of 20_control_space.md) -/

/-- What a control-space offset lies in, with its index and the offset within it. -/
inductive Block where
  | device (off : Nat)
  | faceDie (d off : Nat)
  | stack (k off : Nat)
  | port (p off : Nat)
  | context (c off : Nat)
  | queuePair (q : Nat)
  | error (slot off : Nat)
  | counter (die off : Nat)
  | program (cls program off : Nat)
  | ring (die slot off : Nat)
  | ledger (c off : Nat)
  | echo (off : Nat)
  | none
deriving DecidableEq, Repr

/-- The block of an offset (R479). -/
def blockOf (o : Nat) : Block :=
  if o < 0x1000 then .device o
  else if 0x10000 ≤ o ∧ o < 0x10000 + 32 * 64 then .faceDie ((o - 0x10000) / 64) (o % 64)
  else if 0x20000 ≤ o ∧ o < 0x20000 + 24 * 16 then .stack ((o - 0x20000) / 16) (o % 16)
  else if 0x30000 ≤ o ∧ o < 0x30000 + 16 * 16 then .port ((o - 0x30000) / 16) (o % 16)
  else if 0x40000 ≤ o ∧ o < 0x40000 + 48 * 64 then .context ((o - 0x40000) / 64) (o % 64)
  else if 0x100000 ≤ o ∧ o < 0x100000 + 4096 * 8 then .queuePair ((o - 0x100000) / 8)
  else if 0x200000 ≤ o ∧ o < 0x200000 + 1024 * 64 then .error ((o - 0x200000) / 64) (o % 64)
  else if 0x1000000 ≤ o ∧ o < 0x1000000 + 100 * 256 then .counter ((o - 0x1000000) / 256) (o % 256)
  else if 0x2000000 ≤ o ∧ o < 0x2000000 + 8 * 0x800 then .program ((o - 0x2000000) / 0x800) (o % 0x800 / 0x100) (o % 0x100)
  else if 0x10000000 ≤ o ∧ o < 0x10000000 + 100 * 0x40000 then
    .ring ((o - 0x10000000) / 0x40000) (o % 0x40000 / 64) (o % 64)
  else if 0x100000000 ≤ o ∧ o < 0x100000000 + 48 * 0x200000 then .ledger ((o - 0x100000000) / 0x200000) (o % 0x200000)
  else if 0x1000000000 ≤ o ∧ o < 0x1000000000 + 64 * 2 ^ 20 then .echo (o - 0x1000000000)
  else .none

/-! ## Values of the status registers -/

/-- BOOT_STATUS (R350). -/
def bootStatus (s : State) : W64 :=
  let b := s.boot
  wordOf [⟨32, 32, b.imageVersion.toNat⟩, ⟨28, 4, b.variant.toNat⟩, ⟨25, 3, b.boardPos.toNat⟩, ⟨24, 1, b2n b.slot⟩,
    ⟨23, 1, b2n b.fallback⟩, ⟨16, 4, b.step.toNat⟩, ⟨8, 8, b.failCode.toNat⟩, ⟨0, 8, b.computeResets.toNat⟩]

/-- SECURITY_STATUS (Table 10 of 17_security.md). -/
def securityStatus (s : State) : W64 :=
  let keys := (List.range 8).foldl (fun acc k => acc + b2n (s.fuses.ownerKeys.getD k none).isSome * 2 ^ k) 0
  wordOf [⟨32, 32, s.gate.lastCounter.toNat⟩, ⟨24, 8, keys⟩, ⟨16, 8, s.fuses.ownerRevoked.toNat⟩,
    ⟨12, 4, s.fuses.kenviradRevoked.toNat⟩]

/-- ERROR_STATUS (R411). -/
def errorStatus (s : State) : W64 :=
  wordOf [⟨48, 16, s.nextError⟩, ⟨32, 16, s.errors.count - s.errors.drained⟩, ⟨0, 1, b2n s.boot.safe⟩]

/-- CROSSING_STATUS (R373). -/
def crossingStatus (s : State) : W64 := wordOf [⟨32, 32, s.boot.crossingDiscarded.toNat⟩, ⟨16, 16, s.boot.crossingResyncs.toNat⟩]

/-- A signed byte as the eight bits of a field. -/
def tempBits (t : Int) : Nat := (BitVec.ofInt 8 t).toNat

/-- HEARTH_STATUS (R395). -/
def hearthStatus (s : State) : W64 :=
  let h := s.hearth
  let hot := maxTemp (s.memory.hbmStacks.map (fun k => k.temp.toInt))
  let why := ((reasons s).zip (List.range 6)).foldl (fun acc x => acc + b2n x.1 * 2 ^ x.2) 0
  wordOf [⟨48, 16, h.powerAvg⟩, ⟨32, 16, h.powerRecent⟩, ⟨24, 8, h.dieTempMax.toNat⟩, ⟨16, 8, tempBits hot⟩, ⟨13, 3, h.capSustained⟩,
    ⟨10, 3, h.capHint⟩, ⟨9, 1, b2n h.deep⟩, ⟨8, 1, b2n h.boostOk⟩, ⟨0, 6, why⟩]

/-- ALERT_STATUS (R386). -/
def alertStatus (s : State) : W64 := wordOf [⟨16, 16, s.hearth.alertSeen.toNat⟩, ⟨0, 16, s.hearth.alertNow.toNat⟩]

/-- PORCH_STATUS (Table 10 of 12_porch.md). -/
def porchStatus (s : State) : W64 :=
  let p := s.porch
  wordOf [⟨48, 16, p.framesDiscarded.toNat⟩, ⟨40, 8, p.downCount.toNat⟩, ⟨32, 8, p.qpErrors.toNat⟩, ⟨0, 2, p.link⟩]

/-- THROTTLE_TIME of a reason, up to now (R393). -/
def throttleTime (s : State) (n : Nat) : W64 := (throttleNow s n).setWidth 64

/-- ROLLBACK_FLOOR of a floor (R446). -/
def rollbackFloor (s : State) (n : Nat) : W64 :=
  wordOf [⟨32, 5, (s.fuses.floors.getD n []).length⟩, ⟨0, 32, (floorValue s.fuses n).toNat⟩]

/-- PARTITION_CFG (R472). -/
def partitionReg (k : PartitionCfg) : W64 :=
  wordOf [⟨48, 8, k.weight⟩, ⟨6, 1, b2n k.detSched⟩, ⟨5, 1, b2n k.backupEn⟩, ⟨4, 1, b2n k.crusherEn⟩, ⟨3, 1, b2n k.extendedEn⟩,
    ⟨2, 1, b2n k.srEn⟩, ⟨1, 1, b2n k.rubbleEn⟩]

/-- RAIL_TELEMETRY of a rail (R485). -/
def railReg (s : State) (i : Nat) : W64 := match s.hearth.rails.getD i none with
  | some r => wordOf [⟨48, 16, r.mv.toNat⟩, ⟨32, 16, r.ma100.toNat⟩, ⟨16, 16, r.watts.toNat⟩, ⟨0, 1, 1⟩]
  | none => 0

/-- DIE_TEMP of a die index (R485). -/
def dieTempReg (s : State) (d : Nat) : W64 := match s.hearth.temps.getD d none with
  | some t => wordOf [⟨8, 1, 1⟩, ⟨0, 8, t.toNat⟩]
  | none => 0

/-- Code of a Face state (Table 8 of 03_faces.md). -/
def faceStateCode : FaceState → Nat
  | .stopped => 0
  | .rampUp => 1
  | .run => 2
  | .idleDummy => 3
  | .rampDown => 4

/-- FACE_STATUS of a Face (R85). -/
def faceStatus (s : State) (f : Nat) : W64 :=
  let x := s.face f
  let check : Bool := !x.spareYield
  wordOf [⟨16, 32, if check then x.rotations.toNat else 0⟩, ⟨13, 3, faceStateCode (faceStateNow s f)⟩, ⟨12, 1, b2n x.restartLatched⟩,
    ⟨10, 2, b2n x.spareYield⟩, ⟨7, 3, x.excluded.val⟩, ⟨5, 2, if check then x.checkCol.toNat else 0⟩]

/-- BENCH_STATUS of a die (R193): the replay runs on a spare core where a Face without its column check has one. -/
def benchStatus (s : State) (d : Nat) : W64 :=
  let x := s.die d
  let awake := (x.cores.zip (List.range 32)).foldl (fun acc c => acc + b2n c.1.awake * 2 ^ c.2) 0
  let replays := (s.face (2 * d)).spareYield || (s.face (2 * d + 1)).spareYield
  wordOf [⟨34, 1, b2n (replays && 1 ≤ x.sparesFree)⟩, ⟨32, 2, x.sparesFree⟩, ⟨0, 32, awake⟩]

/-- DEFECT_DIE of a die (R363). -/
def defectDie (s : State) (d : Nat) : W64 :=
  let x := s.die d
  wordOf [⟨45, 1, b2n x.retiredE⟩, ⟨44, 1, b2n x.retiredW⟩, ⟨34, 10, (s.fuses.pantryRemap.getD d 0).toNat⟩,
    ⟨0, 34, (s.fuses.benchExcluded.getD d 0).toNat⟩]

/-- INTEGRITY_STATUS of a die (R419). -/
def integrityStatus (s : State) (d : Nat) : W64 :=
  let x := s.die d
  let w := s.face (2 * d)
  let e := s.face (2 * d + 1)
  wordOf [⟨48, 16, x.mismatchW.toNat⟩, ⟨32, 16, x.mismatchE.toNat⟩, ⟨24, 8, x.replayLate.toNat⟩, ⟨3, 1, b2n e.fenced⟩,
    ⟨2, 1, b2n w.fenced⟩, ⟨1, 1, b2n e.suspect⟩, ⟨0, 1, b2n w.suspect⟩]

/-- FACE_CLOCK of a die (R395): a change that waits for a droop of its group is paused (R385). -/
def faceClock (s : State) (d : Nat) : W64 :=
  let x := s.die d
  let eff := if s.up then effLevel s x else 0
  let g := groupOf d
  let changing : Bool := x.level != x.target
  let waits : Bool := (s.powerGroup g).held && (changing || (s.powerGroup g).vid.toNat != groupVid s g)
  wordOf [⟨32, 32, x.droopEvents.toNat⟩, ⟨24, 8, x.temp.toNat⟩, ⟨16, 3, x.capThermal⟩, ⟨13, 3, eff⟩,
    ⟨10, 3, if changing then x.target else eff⟩, ⟨9, 1, b2n waits⟩,
    ⟨7, 2, x.stretch⟩]

/-- STACK_STATUS of a stack (R221). -/
def stackStatus (s : State) (k : Nat) : W64 :=
  let x := s.memory.hbmStacks.getD k Stack.cold
  wordOf [⟨48, 16, x.ueCount.toNat⟩, ⟨32, 16, x.ceCount.toNat⟩, ⟨24, 8, x.scrubPass.toNat⟩, ⟨16, 8, x.temp.toNat⟩, ⟨8, 2, x.throttle⟩,
    ⟨4, 2, x.service⟩]

/-- DEFECT_STACK of a stack (R363). -/
def defectStack (s : State) (k : Nat) : W64 :=
  wordOf [⟨16, 16, (s.memory.hbmStacks.getD k Stack.cold).rowsTrained.toNat⟩, ⟨0, 16, (s.fuses.stackRows.getD k 0).toNat⟩]

/-- Code of a port state (Table 11 of 10_spejan.md). -/
def portStateCode : PortState → Nat
  | .off => 0
  | .training => 1
  | .up => 2
  | .down => 3
  | .disabling => 4
  | .failed => 5

/-- SPEJAN_PORT_STATUS of a port (R295). -/
def portStatus (s : State) (p : Nat) : W64 :=
  let x := s.port p
  wordOf [⟨49, 15, x.seenDevice.toNat⟩, ⟨45, 4, x.seenPort.toNat⟩, ⟨32, 13, x.replayCount.toNat⟩, ⟨24, 8, x.fecUncorrectable.toNat⟩,
    ⟨20, 4, x.downCount.toNat⟩, ⟨16, 4, x.pktDiscards.toNat⟩, ⟨12, 4, x.stallDiscards.toNat⟩, ⟨9, 3, portStateCode x.state⟩,
    ⟨8, 1, b2n x.reenableLatched⟩, ⟨7, 1, b2n x.wiringError⟩, ⟨5, 2, x.attempts⟩]

/-- CTX_STATUS of a context (R484). -/
def ctxStatus (s : State) (c : Nat) : W64 :=
  let x := s.ctx c
  wordOf [⟨48, 16, x.gen.toNat⟩, ⟨39, 1, b2n x.staleGen⟩, ⟨38, 1, b2n x.publishError⟩, ⟨37, 1, b2n (ctxResetting s c)⟩,
    ⟨36, 1, b2n x.readFault⟩, ⟨0, 32, x.head.toNat⟩]

/-- CTX_LEDGER of a context (R484). -/
def ctxLedger (s : State) (c : Nat) : W64 := wordOf [⟨32, 32, (s.ctx c).appended.toNat⟩, ⟨0, 32, (s.ctx c).drained.toNat⟩]

/-- PORCH_QP_STATUS of a queue-pair record (Table 11 of 12_porch.md). -/
def qpStatus (s : State) (q : Nat) : W64 := match s.qp q with
  | some x => wordOf [⟨62, 2, b2n x.error⟩, ⟨58, 4, x.cause.toNat⟩, ⟨48, 10, x.rate / 2000000⟩, ⟨24, 24, x.txPsn.toNat⟩,
      ⟨0, 24, x.rxPsn.toNat⟩]
  | none => wordOf [⟨62, 2, 2⟩]

/-- A counter bank's registers (Table 1 of 20_control_space.md). -/
def bankReg (b : Bank) (off : Nat) : W64 :=
  if off < 0x80 then wordOf [⟨48, 1, b2n (b.ovf.getD (off / 8) false)⟩, ⟨0, 48, (b.values.getD (off / 8) 0).toNat⟩]
  else if off = 0x80 then wordOf [⟨7, 1, b2n b.running⟩, ⟨4, 3, b.program⟩]
  else if off = 0x88 then wordOf [⟨32, 32, b.written.toNat⟩, ⟨16, 16, b.lost.toNat⟩]
  else 0

/-- A counter program's registers: CPROG_EVT, CPROG_FILT, CPROG_BASE and CPROG_LIMIT. -/
def cprogReg (s : State) (cls program off : Nat) : W64 := if off ≤ 0x90 then programReg s.cfg cls program off else 0

/-- A register of the device block (Table 2 of 20_control_space.md). -/
def deviceReg (s : State) (o : Nat) : W64 :=
  if o = 0x000 then wordOf [⟨56, 8, 0xB0⟩, ⟨40, 16, 2⟩]
  else if o = 0x008 then s.fuses.serial
  else if o = 0x010 then bootStatus s
  else if o = 0x018 then s.gate.bootNonce
  else if o = 0x020 then securityStatus s
  else if o = 0x028 then s.cfg.lomium
  else if o = 0x030 then errorStatus s
  else if o = 0x038 then crossingStatus s
  else if o = 0x040 then hearthStatus s
  else if o = 0x048 then alertStatus s
  else if o = 0x050 then porchStatus s
  else if 0x058 ≤ o ∧ o ≤ 0x080 then throttleTime s ((o - 0x058) / 8)
  else if 0x100 ≤ o ∧ o ≤ 0x148 then rollbackFloor s ((o - 0x100) / 8)
  else if o = 0x200 then s.cfg.faceIdle
  else if o = 0x208 then s.cfg.bench
  else if o = 0x210 then s.cfg.memCfg
  else if o = 0x218 then s.cfg.spejan
  else if o = 0x220 then s.cfg.porch
  else if o = 0x228 then s.cfg.porchCc
  else if o = 0x230 then s.cfg.power
  else if o = 0x238 then s.cfg.thermal
  else if o = 0x240 then s.cfg.safety
  else if o = 0x248 then match s.cfg.survival with | some x => x.cfg | none => 0
  else if o = 0x250 then match s.cfg.survival with | some x => x.bounds | none => 0
  else if 0x300 ≤ o ∧ o ≤ 0x338 then match s.cfg.partitions[(o - 0x300) / 8]? with | some k => partitionReg k | none => 0
  else if 0x340 ≤ o ∧ o ≤ 0x378 then s.cfg.regCfg.getD ((o - 0x340) / 8) 0
  else if 0x400 ≤ o ∧ o ≤ 0x478 then railReg s ((o - 0x400) / 8)
  else if 0x480 ≤ o ∧ o ≤ 0x798 then dieTempReg s ((o - 0x480) / 8)
  else 0

/-- A register of a Face die block (Table 3 of 20_control_space.md). -/
def faceDieReg (s : State) (d o : Nat) : W64 :=
  if o = 0x00 then faceStatus s (2 * d)
  else if o = 0x08 then faceStatus s (2 * d + 1)
  else if o = 0x10 then benchStatus s d
  else if o = 0x18 then defectDie s d
  else if o = 0x20 then integrityStatus s d
  else if o = 0x28 then faceClock s d
  else 0

/-- A register of a context block (R484). -/
def contextReg (s : State) (c o : Nat) : W64 :=
  if o = 0x00 then match s.ctxCfg c with | some k => k.pantryAlloc | none => 0
  else if o = 0x08 then ctxStatus s c
  else if o = 0x10 then ctxLedger s c
  else 0

/-- The record in a slot of the error window, the newest of those that share it (R410). -/
def errorSlot (s : State) (slot : Nat) : List W64 :=
  match s.errors.window.reverse.find? (fun w => w.1 % 1024 == slot) with
  | some w => w.2
  | none => []

/-- The record in a slot of a sample ring (R468). -/
def ringSlot (b : Bank) (slot : Nat) : List W64 := match b.ring.find? (fun p => p.1 == slot) with
  | some p => p.2
  | none => []

/-- A word of a Ledger window: the device Ledger buffer, 0 beyond it (R484). DESIGN CHOICE: a word of a line that gives no data, poisoned or
uncorrectable, reads as the bytes stored there (notes/assumptions/113.md). -/
def ledgerWord (s : State) (c off : Nat) : W64 := match s.ctxCfg c with
  | some k => if off < 32 * 2 ^ k.ledgerLog2 then wordAt ((deviceRead s (k.ledgerBase + off) 8).2.getD (rawRead s.memory (k.ledgerBase + off) 8)) 0 else 0
  | none => 0

/-- The 8-byte word at a control-space offset: 0 where nothing is assigned (R477, R479). -/
def regRead (s : State) (o : Nat) : W64 := match blockOf o with
  | .device off => deviceReg s off
  | .faceDie d off => faceDieReg s d off
  | .stack k off => if off = 0 then stackStatus s k else defectStack s k
  | .port p off => if off = 0 then portCfg s p else portStatus s p
  | .context c off => contextReg s c off
  | .queuePair q => qpStatus s q
  | .error slot off => wd (errorSlot s slot) (off / 8)
  | .counter die off => bankReg (s.banks.getD die Bank.cold) off
  | .program cls program off => cprogReg s cls program off
  | .ring die slot off => wd (ringSlot (s.banks.getD die Bank.cold) slot) (off / 8)
  | .ledger c off => ledgerWord s c off
  | .echo off => wordAt (slotBytes s.gate.echo off 8) 0
  | .none => 0

/-! ## Readers (R481) -/

/-- Who reads control space (Table 4 of 20_control_space.md). -/
inductive Reader where
  | mgmt
  | pair (supervisor : Bool) (partition : Nat)
  | i3c
deriving DecidableEq, Repr

/-- The reader that a queue pair's record makes it. -/
def readerOf (k : QpCfg) : Reader := if k.mgmt then .mgmt else .pair k.supervisor k.partition

/-- Owner of a counter program: program 0 is anyone's, another's is that of its CPROG_FILT (R464, R469). -/
def programOwned (s : State) (cls program p : Nat) : Bool :=
  program == 0 || bits (programReg s.cfg cls program 0x80) 63 60 == p

/-- The program in force of a die's bank is owned by a partition (R469). -/
def bankOwned (s : State) (die p : Nat) : Bool := programOwned s (dieClass die) (s.banks.getD die Bank.cold).program p

/-- A context of a partition. -/
def ctxOwned (s : State) (c p : Nat) : Bool := match s.ctxCfg c with
  | some k => k.partition == p
  | none => false

/-- A reader's class permits a block (Table 4 of 20_control_space.md). -/
def mayRead (s : State) : Reader → Block → Bool
  | .mgmt, _ => true
  | .i3c, .device _ => true
  | .i3c, _ => false
  | .pair _ p, .context c _ => ctxOwned s c p
  | .pair _ p, .ledger c _ => ctxOwned s c p
  | .pair _ p, .queuePair q => match s.qpCfg q with
    | some k => k.partition == p
    | none => false
  | .pair _ p, .counter die _ => bankOwned s die p
  | .pair _ p, .ring die _ _ => bankOwned s die p
  | .pair sup _, .error _ _ => sup
  | .pair sup _, .echo _ => sup
  | .pair _ _, _ => true

/-- A read of one word by a reader: zero where its class does not permit it (R481). -/
def readAs (s : State) (who : Reader) (o : Nat) : W64 := if mayRead s who (blockOf o) then regRead s o else 0

/-- The lines of memory that a reader's read of control space takes words of Ledger windows from (R187, R484). -/
def ledgerLines (s : State) (who : Reader) (o n : Nat) : List (Nat × Nat) :=
  ((List.range (n / 8 + 2)).filterMap (fun i => if 8 * (o / 8 + i) < o + n then
      (match blockOf (8 * (o / 8 + i)) with
        | .ledger c off => match s.ctxCfg c with
          | some k => if mayRead s who (.ledger c off) ∧ off < 32 * 2 ^ k.ledgerLog2 then some ((k.ledgerBase + off) / 64 * 64, 64) else none
          | none => none
        | _ => none)
    else none)).dedup

/-- Those lines read at their homes: a Ledger window bypasses no slice (R217). -/
def touchLedger (s : State) (who : Reader) (o n : Nat) : State := (ledgerLines s who o n).foldl (fun s p => (deviceRead s p.1 p.2).1) s

/-- Bytes of control space as a reader gets them, word by word in ascending offset (R480). -/
def controlBytes (s : State) (who : Reader) (o n : Nat) : List Byte :=
  ((wordsBytes ((List.range (n / 8 + 2)).map (fun i => readAs s who (8 * (o / 8 + i))))).drop (o % 8)).take n

/-! ## Writers (R13, R464, R482) -/

/-- The partition a writer may write for: none for a queue pair that is no supervisor; the Gatehouse writes for all. -/
inductive Authority where
  | all
  | partition (p : Nat)
  | nobody
deriving DecidableEq, Repr

/-- What a writer may do (R13). -/
def authorityOf (s : State) : Writer → Authority
  | .gatehouse => .all
  | .host q => match s.qpCfg q.val with
    | some k => if k.supervisor then .partition k.partition else .nobody
    | none => .nobody

/-- A writer may write what is no partition's own. -/
def Authority.some_ : Authority → Bool
  | .nobody => false
  | _ => true

/-- A writer may write the fields of a context (Table 5 of 20_control_space.md). -/
def Authority.ctx (s : State) (c : Nat) : Authority → Bool
  | .all => true
  | .partition p => ctxOwned s c p
  | .nobody => false

/-- A writer may write a bank whose running program is in force, and that selects another (R464). -/
def Authority.bank (s : State) (die : Nat) (selected : Option Nat) : Authority → Bool
  | .all => true
  | .partition p => bankOwned s die p && match selected with
    | some n => programOwned s (dieClass die) n p
    | none => true
  | .nobody => false

/-- CTX_CTL.reset written: the context resets, or joins the reset that runs (R176, R484). -/
def writeCtxReset (s : State) (c : Nat) : State :=
  if (s.ctxCfg c).isSome ∧ s.boot.creset.isNone then resetContext s c codeContextReset none else s

/-- A bank's values, ovf bits and sample buffer cleared (R465, Table 5 of 18_counters.md). -/
def bankClear (b : Bank) : Bank :=
  { b with values := List.replicate 16 0, ovf := List.replicate 16 false, written := 0, ring := [] }

/-- A bank stopped, with a program put in force, and started by run (R464). DESIGN CHOICE: the count of matching occurrences since the last
sample begins anew, which a stop or a clear leaves (notes/assumptions/97.md). -/
def bankSelect (program : Nat) (run : Bool) (b : Bank) : Bank := { b with running := run, program := program, matched := 0 }

/-- A bank started (R464). -/
def bankRun (b : Bank) : Bank := { b with running := true }

/-- The banks that a compute-domain reset holds: those of Face and Pantry dies (R460, R483). -/
def bankHeld (s : State) (die : Nat) : Bool := s.boot.creset.isSome && decide (die < 64)

/-- A bank changed by a write to its COUNTER_CTL, unless a compute-domain reset holds it (R483). -/
def modBank (s : State) (die : Nat) (f : Bank → Bank) : State :=
  if bankHeld s die then s else { s with banks := s.banks.modify die f }

/-- COUNTER_CTL written whole (Table 5 of 18_counters.md): clear, and select or run. -/
def writeCounterCtl (s : State) (die : Nat) (v : W64) : State :=
  let act (b : Bank) : Bank :=
    let b := if bitAt v 3 then bankClear b else b
    if bitAt v 1 then bankSelect (bits v 6 4) (bitAt v 2) b else if bitAt v 2 then bankRun b else b
  modBank s die act

/-- A register written with a value: only the fields of Table 5 of 20_control_space.md take it, each from the writers named there; every
other write is discarded (R13, R482). -/
def regWrite (s : State) (a : Authority) (o : Nat) (v : W64) : State := match blockOf o with
  | .device off =>
    if off = 0x048 ∧ a.some_ then
      s.modHearth (fun h => { h with alertSeen := h.alertSeen &&& ~~~(BitVec.ofNat 16 (bits v 31 16)) })
    else s
  | .context c off =>
    if a.ctx s c = false then s
    else if off = 0x08 then
      s.modCtx c (fun x => { x with
        staleGen := x.staleGen && !bitAt v 39, publishError := x.publishError && !bitAt v 38, readFault := x.readFault && !bitAt v 36 })
    else if off = 0x18 ∧ bitAt v 0 then writeCtxReset s c
    else s
  | .counter die off =>
    if off < 0x80 then
      if a.bank s die none ∧ bitAt v 48 then { s with banks := s.banks.modify die (fun b => { b with ovf := b.ovf.set (off / 8) false }) }
      else s
    else if off = 0x80 ∧ a.bank s die (if bitAt v 1 then some (bits v 6 4) else none) then writeCounterCtl s die v
    else s
  | _ => s

/-- Bytes written to control space: every aligned whole word among them, in ascending offset (R482). -/
def controlBytesWrite (s : State) (a : Authority) (o : Nat) (bs : List Byte) : State :=
  let skip := (8 - o % 8) % 8
  ((List.range ((bs.length - skip) / 8)).foldl (fun s i => regWrite s a (o + skip + 8 * i) (wordAt bs (skip + 8 * i))) s)

/-! ## Commands -/

/-- Writes reach control space only while the device runs. -/
def controlOpen (s : State) : Bool := s.up

/-- CTX_CTL_RESET: a writer sets reset in a context's CTX_CTL (R484). -/
def execCtxCtlReset (w : Writer) (c : CtxIx) (s : State) : Host.Outcome State Fault Refusal :=
  .next (if controlOpen s ∧ (authorityOf s w).ctx s c.val then writeCtxReset s c.val else s)

/-- COUNTER_CLEAR: a writer sets clear in a die's COUNTER_CTL (R465). -/
def execCounterClear (w : Writer) (die : Fin 100) (s : State) : Host.Outcome State Fault Refusal :=
  .next (if controlOpen s ∧ (authorityOf s w).bank s die.val none then modBank s die.val bankClear else s)

/-- COUNTER_RUN: a writer sets run with select clear (R464). -/
def execCounterRun (w : Writer) (die : Fin 100) (s : State) : Host.Outcome State Fault Refusal :=
  .next (if controlOpen s ∧ (authorityOf s w).bank s die.val none then modBank s die.val bankRun else s)

/-- COUNTER_SELECT: a writer puts a program in force, and starts or stops the bank by run (R464). -/
def execCounterSelect (w : Writer) (die : Fin 100) (program : Fin 8) (run : Bool) (s : State) : Host.Outcome State Fault Refusal :=
  .next (if controlOpen s ∧ (authorityOf s w).bank s die.val (some program.val) then
    modBank s die.val (bankSelect program.val run)
  else s)

/-- CONTROL_SPACE_WRITE: an 8-byte word that a queue pair writes at a control-space offset (R482). An offset that is not 8-byte aligned is
discarded. -/
def execControlSpaceWrite (q : QpIx) (offset : BitVec 40) (value : W64) (s : State) : Host.Outcome State Fault Refusal :=
  .next (if controlOpen s ∧ offset.toNat % 8 = 0 then regWrite s (authorityOf s (.host q)) offset.toNat value else s)

/-- I3C_OFFSET_WRITE: the register offset within the device block (R488). -/
def execI3cOffsetWrite (offset : BitVec 16) (s : State) : Host.Outcome State Fault Refusal :=
  .next (if s.boot.phase = .por then s else { s with gate := { s.gate with i3cOffset := offset } })

/-- What the I3C target answers at an offset: a register of the device block, 0 beyond 0x798 or at an offset that is no register's. -/
def i3cValue (s : State) (o : Nat) : W64 := if o ≤ 0x798 ∧ o % 8 = 0 then deviceReg s o else 0

/-- I3C_READ: the register at the offset, which advances by 8 (R488). -/
def execI3cRead (s : State) : Host.Outcome State Fault Refusal :=
  .next (if s.boot.phase = .por then s
  else { s with gate := { s.gate with i3cData := i3cValue s s.gate.i3cOffset.toNat, i3cOffset := s.gate.i3cOffset + 8 } })

end Sys2Proof.Machine
end

