-- ==== Sys2Proof/Machine/Porch.lean ====
section
/-! DEFINITION. The Porch (R325 to R343): host requests and their answers, what the host answers to the device, ERROR, congestion control, PFC,
and its link. -/

namespace Sys2Proof.Machine

/-! ## Queue pairs -/

/-- Frames reach the Porch while the device runs, its link is up, and the hub of one of Landings 0 and 11, to
which the Porch is attached, has its clock (R20, R326, R343, R417). -/
def porchOpen (s : State) : Bool := s.up && s.porch.link == 2 && !(hubStopped s 0 && hubStopped s 11)

/-- An occurrence at the Porch, of a queue pair's partition. -/
def porchOcc (s : State) (q event weight : Nat) : Occ := { occWho s (.host q) 96 event with weight := weight }

/-- A frame discarded and counted (R327, R329). -/
def discardFrame (s : State) : State :=
  { s with porch := { s.porch with framesDiscarded := satInc s.porch.framesDiscarded } }

/-- The requests of a queue pair, oldest first. -/
def qpReqs (s : State) (q : Nat) : List Req := s.reqs.filter (fun r => r.qp == some q)

/-- Every device request still unacknowledged on a queue pair is reported unreachable (R331, R337). -/
def reportUnreachable (s : State) (q : Nat) : State :=
  (qpReqs s q).foldl (fun s r => if s.reqs.any (fun x => x.id == r.id) then endRequest s r codeUnreachable else s) s

/-! ## The receive buffer (R335, R340) -/

/-- Bytes that a held access occupies in the receive buffer; one that has been performed occupies none. -/
def HeldHost.size (h : HeldHost) : Nat := if h.answer.isSome then 0 else match h.msg with
  | some m => m.sendLength
  | none => h.bytes.length

/-- Bytes of the receive buffer that the queue pairs of a priority hold, of all priorities when none is named. -/
def bufferShare (s : State) (prio : Option Nat) : Nat :=
  (s.porch.qps.map (fun k => match s.qpCfg k.index, prio with
    | some c, some p => if c.pcp = p then (k.held.map HeldHost.size).sum else 0
    | some _, none => (k.held.map HeldHost.size).sum
    | none, _ => 0)).sum

/-- A PFC priority that PORCH_CFG enables (R340). -/
def pfcEnabled (s : State) (p : Nat) : Bool :=
  (bitAt s.cfg.porch 50 && bits s.cfg.porch 53 51 == p) || (bitAt s.cfg.porch 54 && bits s.cfg.porch 57 55 == p)

/-- XOFF above 12 MiB of a priority's share, XON below 8 MiB (R340). -/
def pfcUpdate (s : State) : State :=
  (List.range 8).foldl (fun s p =>
    if pfcEnabled s p = false then s
    else
      let share := bufferShare s (some p)
      let sent := s.porch.xoffSent.getLsbD p
      let bit : BitVec 8 := BitVec.ofNat 8 (2 ^ p)
      let set (s : State) (v : BitVec 8) : State := { s with porch := { s.porch with xoffSent := v } }
      if sent = false ∧ 12 * 2 ^ 20 < share then set (s.porchOut (.pause p true)) (s.porch.xoffSent ||| bit)
      else if sent = true ∧ share < 8 * 2 ^ 20 then set (s.porchOut (.pause p false)) (s.porch.xoffSent &&& ~~~bit)
      else s) s

/-- A queue pair enters ERROR with a cause: it neither sends nor accepts anything, but for the NAK that puts it there (R331, R337). What it
held leaves the receive buffer (R340). -/
def qpError (s : State) (q : Nat) (cause : Nat) : State :=
  if s.qpUp q then
    let s := s.modQp q (fun k => { k with error := true, cause := BitVec.ofNat 4 cause, held := [] })
    let s := { s with porch := { s.porch with waiting := s.porch.waiting.filter (fun w => w.out.qp != some q || w.out.fatal) } }
    pfcUpdate (reportUnreachable { s with porch := { s.porch with qpErrors := satInc s.porch.qpErrors } } q)
  else s

/-- Causes of ERROR (Table 11 of 12_porch.md). -/
def causeRetries : Nat := 1
def causeRnr : Nat := 2
def causeNakReceived : Nat := 3
def causeNakSent : Nat := 4

/-- A NAK of a class that puts the queue pair in ERROR is sent (R331). -/
def nakFatal (s : State) (q : Nat) (o : PorchOut) : State := qpError (s.porchOut o) q causeNakSent

/-! ## Messages of the Gatehouse on their way (R342, R451, R454) -/

/-- The command of a message (Table 6 of 17_security.md). -/
def cmdOf (m : GhMsg) : Nat := bits (wd m.hdr 0) 63 48

/-- The status of an undefined command (Table 7 of 17_security.md). -/
def stUnknown : Nat := 0x01

/-- A defined command. -/
def cmdDefined (c : Nat) : Bool := (1 ≤ c && c ≤ 3) || (0x10 ≤ c && c ≤ 0x1C)

/-- A reply: a Send on the queue pair that carried the message (R342, R451). -/
def ghReply (s : State) (m : GhMsg) (status : Nat) (body : List W64) (data : List Byte) : State :=
  let r : GhReply := { qp := m.qp, command := BitVec.ofNat 16 (cmdOf m), status := BitVec.ofNat 8 status,
                       tag := BitVec.ofNat 32 (bits (wd m.hdr 4) 63 32), body := body, data := data }
  if s.qpUp m.qp.val then s.sendHost m.qp.val none none .held r.size (.reply r) none else s

/-- The Gatehouses take messages: they run, agree, the hubs of Landings 5 and 6, to which they are attached, have their clocks, and no earlier
message waits for its reply (R20, R417, R454). -/
def gateOpen (s : State) : Bool :=
  s.up && !s.boot.comparatorStopped && s.gate.forwarding.isNone && !hubStopped s 5 && !hubStopped s 6

/-- A queue pair that carries Gatehouse messages (R342). -/
def isMgmt (s : State) (q : Nat) : Bool := match s.qpCfg q with
  | some k => k.mgmt
  | none => false

/-- Messages at the head of the queue whose command is undefined are answered UNKNOWN; the first argument bounds their number. -/
def answerUnknown : Nat → State → State
  | 0, s => s
  | n + 1, s => match gateOpen s, s.gate.queue with
    | true, h :: rest =>
      if cmdDefined (cmdOf h) then s
      else answerUnknown n (ghReply { s with gate := { s.gate with queue := rest } } h stUnknown [] [])
    | _, _ => s

/-- Undefined commands at the head of the queue answered. -/
def clearUnknown (s : State) : State := answerUnknown s.gate.queue.length s

/-! ## Requests of the host (R332 to R334) -/

/-- The window that admits an access: R_Key, device field, range and partition (R332, R333). -/
def admittedBy (s : State) (k : QpCfg) (r : HostReq) (len : Nat) : Option DevWindow :=
  let va := r.va.toNat
  s.cfg.devWindows.find? (fun w => w.rkey == r.rkey && devOf va == s.deviceNumber && w.base ≤ offOf va
    && offOf va + len ≤ w.base + w.size && w.partitions.getLsbD k.partition)

/-- A piece of a host access waits: its home cannot serve it, has lost its clock, or is a Pantry in a compute-domain reset (R232, R333,
R343, R417). -/
def mustHold (s : State) (off : Nat) (op : AccOp) : Bool :=
  homeStopped s off || !servesNow s off op || match locOf off with
    | .pantry _ _ => s.boot.creset.isSome
    | _ => false

/-- Bytes read line by line up to the first line that gives none; ecc is what the codes find in each (R333). -/
def hostRead (s : State) (q : Nat) (ps : List (Nat × Nat)) (ecc : List Ecc) : State × List Byte × Bool :=
  let s := chargeRequest s (.host q) .rd (ps.headD (0, 0)).1 (ps.map Prod.snd).sum
  (ps.zip (List.range ps.length)).foldl (fun (acc : State × List Byte × Bool) p =>
    if acc.2.2 then
      match reachHome acc.1 60 (.host q) p.1.1 (.read p.1.2) (ecc.getD p.2 .clean) with
      | (t, .data bs) => (t, acc.2.1 ++ bs, true)
      | (t, _) => (t, acc.2.1, false)
    else acc) (s, [], true)

/-- Bytes written line by line. -/
def hostWrite (s : State) (q off : Nat) (bs : List Byte) : State :=
  (cutLines off bs.length).foldl (fun s p =>
    (reachHome s 60 (.host q) p.1 (.write ((bs.drop (p.1 - off)).take p.2) (List.replicate p.2 true)) .clean).1)
    (chargeRequest s (.host q) .wr off bs.length)

/-- A NAK that puts the queue pair in ERROR, as an answer. -/
def nakWith (o : PorchOut) : HostAnswer := { outs := [o], fatal := true }

/-- A message that ends nothing, as an answer. -/
def answerWith (o : PorchOut) : HostAnswer := { outs := [o], fatal := false }

/-- A host access as Table 5 of 12_porch.md answers it, with the state after it: none where it is held. A Send joins the Gatehouse's queue
(R342). -/
def hostTry (s : State) (k : QpCfg) (h : HeldHost) : Option (State × HostAnswer) :=
  let q := k.index
  let psn := h.req.psn
  let len := h.readLen.getD h.bytes.length
  let off := offOf h.req.va.toNat
  let pieces := cutLines off len
  match h.msg, admittedBy s k h.req len, h.readLen with
  | some m, _, _ => some ({ s with gate := { s.gate with queue := s.gate.queue ++ [m] } }, answerWith (.ack q psn))
  | none, none, _ => some (s, nakWith (.nakAccess q psn))
  | none, some _, some n =>
    if controlBase ≤ off then
      if (ledgerLines s (readerOf k) (off - controlBase) n).any (fun p => mustHold s p.1 (.read p.2)) then none
      else some (touchLedger s (readerOf k) (off - controlBase) n,
        answerWith (.readResponse q psn (controlBytes s (readerOf k) (off - controlBase) n)))
    else if pieces.any (fun p => !homePermits s (.host q) .rd p.1) then some (s, nakWith (.nakAccess q psn))
    else if pieces.any (fun p => mustHold s p.1 (.read p.2)) then none
    else
      let (t, bs, whole) := hostRead s q pieces h.ecc
      if whole then some (t, answerWith (.readResponse q psn bs))
      else
        let sent := bs.length / Nat.max 1 (s.pmtu q)
        some (drainDue t, { nakWith (.nakOperational q (psn + BitVec.ofNat 24 sent)) with
          outs := (if sent = 0 then [] else [.readResponse q psn (bs.take (sent * s.pmtu q))]) ++ [.nakOperational q (psn + BitVec.ofNat 24 sent)] })
  | none, some _, none =>
    if controlBase ≤ off then
      some (controlBytesWrite s (authorityOf s (.host h.req.qp)) (off - controlBase) h.bytes, answerWith (.ack q psn))
    else
      let part (p : Nat × Nat) : AccOp := .write ((h.bytes.drop (p.1 - off)).take p.2) (List.replicate p.2 true)
      if pieces.any (fun p => !homePermits s (.host q) (accKind (part p)) p.1) then some (s, nakWith (.nakAccess q psn))
      else if pieces.any (fun p => mustHold s p.1 (part p)) then none
      else some (hostWrite s q off h.bytes, answerWith (.ack q psn))

/-- Bytes that an access of the host touches. -/
def HeldHost.span (h : HeldHost) : Nat × Nat := (offOf h.req.va.toNat, h.readLen.getD h.bytes.length)

/-- An access may be performed before those held in front of it: a flagged write and a Send wait for all of them, another access for those of
its lines, and everything for a NAK that ends the queue pair (R334, R343). -/
def mayPass (before : List HeldHost) (h : HeldHost) : Bool :=
  let waiting := before.filter (fun b => b.answer.isNone)
  before.all (fun b => match b.answer with
    | some a => !a.fatal
    | none => true)
    && if h.imm || h.msg.isSome then waiting.isEmpty else waiting.all (fun b => b.msg.isSome || !spansMeet [b.span] [h.span])

/-- A held access of a queue pair is tried; what codes find counts for its first try alone. -/
def serveOne (k : QpCfg) (s : State) (i : Nat) : State := match s.qp k.index with
  | some x => match x.held[i]? with
    | some h =>
      if h.answer.isNone && mayPass (x.held.take i) h then match hostTry s k h with
        | some (t, a) => t.modQp k.index (fun y => { y with held := y.held.modify i (fun g => { g with answer := some a }) })
        | none => s.modQp k.index (fun y => { y with held := y.held.modify i (fun g => { g with ecc := [] }) })
      else s
    | none => s
  | none => s

/-- Answers leave in PSN order: nothing is sent for an access before the earlier ones are performed (R330, R333); the first argument bounds their
number. -/
def sendAnswers : Nat → State → Nat → State
  | 0, s, _ => s
  | n + 1, s, q => match (s.qp q).bind (fun x => x.held.head?) with
    | some h => match h.answer with
      | some a =>
        let s := s.modQp q (fun y => { y with held := y.held.drop 1 })
        let s := a.outs.foldl State.porchOut s
        if a.fatal then qpError s q causeNakSent else sendAnswers n s q
      | none => s
    | none => s

/-- Held accesses of a queue pair reissued (R333, R334). -/
def serveHeld (s : State) (q : Nat) : State := match s.qp q, s.qpCfg q with
  | some x, some k => sendAnswers x.held.length ((List.range x.held.length).foldl (serveOne k) s) q
  | _, _ => s

/-- A CNP for a packet marked CE, at most one per cnp_interval and queue pair (R338). -/
def noteCe (s : State) (q : Nat) (ce : Bool) : State :=
  match ce, s.qp q with
  | true, some x =>
    let due : Bool := match x.cnpSentAt with
      | some t => decide (t + bits s.cfg.porchCc 47 40 * 1000 ≤ s.now)
      | none => true
    if due then (s.porchOut (.cnp q)).modQp q (fun y => { y with cnpSentAt := some s.now }) else s
  | _, _ => s

/-- A RoCEv2 message of the host for a queue pair: frames longer than 9,216 bytes or with two tags, and messages for an undefined queue pair,
are discarded and counted; one whose ICRC is wrong is dropped, as is all that reaches a queue pair in ERROR (R327, R329 to R331); a CE
mark is answered with a CNP (R338). -/
def hostMessage (s : State) (q : Nat) (x : HostFrame) (use : State → State) : State :=
  if porchOpen s = false then s
  else if 9216 < x.bytes || 1 < x.tags || (s.qp q).isNone || (s.qpCfg q).isNone then discardFrame s
  else if x.icrcOk && s.qpUp q then use (noteCe s q x.ce)
  else s

/-- An access taken up in PSN order: performed at once when nothing of its queue pair held before it bars it, held otherwise (R333, R334). -/
def takeAccess (s : State) (k : QpCfg) (h : HeldHost) : State :=
  pfcUpdate (serveHeld (s.modQp k.index (fun x => { x with held := x.held ++ [h] })) k.index)

/-- A read of the host waits in a queue pair's receive buffer. -/
def heldReads (x : Qp) : Nat := (x.held.filter (fun h => h.readLen.isSome)).length

/-- Bytes of a host message, or of the answer of a read. -/
def HeldHost.length (h : HeldHost) : Nat := match h.msg with
  | some m => m.sendLength
  | none => h.readLen.getD h.bytes.length

/-- A request with this PSN is held: nothing is sent for it until it is performed (R333). -/
def psnHeld (s : State) (x : Qp) (psn : BitVec 24) : Bool :=
  x.held.any (fun h => (psn - h.req.psn).toNat < psnCount (s.pmtu x.index) h.length)

/-- NAK PSN Sequence Error for a packet that the receive buffer cannot take, at most once per 10 µs and queue pair (R335). -/
def nakNoRoom (s : State) (q : Nat) (psn : BitVec 24) : State :=
  let due : Bool := match (s.qp q).bind Qp.seqNakAt with
    | some t => decide (t + 10000 ≤ s.now)
    | none => true
  if due then (s.porchOut (.nakSequence q psn)).modQp q (fun y => { y with seqNakAt := some s.now }) else s

/-- Room of the receive buffer (R335). -/
def bufferRoom (s : State) : Nat := 16 * 2 ^ 20 - bufferShare s none

/-- A message passes through the receive buffer packet by packet: nothing of its queue pair is held before it and its home takes it at once. -/
def passesThrough (s : State) (k : QpCfg) (x : Qp) (h : HeldHost) : Bool :=
  x.held.isEmpty && (hostTry s k h).isSome && Nat.min (s.pmtu k.index) h.bytes.length ≤ bufferRoom s

/-- A request taken up: all of it where the receive buffer can hold its packets or need not; else the packets that fit, and the next one is
discarded (R335). -/
def takeRequest (s : State) (k : QpCfg) (x : Qp) (h : HeldHost) : State :=
  let q := k.index
  let advance (s : State) (n : Nat) : State := s.modQp q (fun y => { y with rxPsn := y.rxPsn + BitVec.ofNat 24 n })
  if h.bytes.length ≤ bufferRoom s || passesThrough s k x h then takeAccess (advance s (psnCount (s.pmtu q) h.length)) k h
  else
    let fit := bufferRoom s / Nat.max 1 (s.pmtu q)
    let psn := h.req.psn + BitVec.ofNat 24 fit
    if fit = 0 then nakNoRoom s q psn
    else nakNoRoom (takeAccess (advance s fit) k { h with bytes := h.bytes.take (fit * s.pmtu q) }) q psn

/-- What a request meets before its window (R330, R334, R335): a PSN out of order, a duplicate, a seventeenth read, a receive buffer without
room; otherwise it is taken up. The last argument is what a Write with Immediate has to obey. -/
def hostRequest (s : State) (h : HeldHost) (wellFormed : Bool) : State :=
  let q := h.req.qp.val
  hostMessage s q h.req.frame (fun s => match s.qp q, s.qpCfg q with
    | some x, some k =>
      let s := count s (porchOcc s q 0x090 (if h.readLen.isSome then 1 else psnCount (s.pmtu q) h.bytes.length))
      if h.req.psn = x.rxPsn then
        if wellFormed = false ∨ (h.readLen.isSome ∧ 16 ≤ heldReads x) then nakFatal s q (.nakInvalid q h.req.psn)
        else takeRequest s k x h
      else if (x.rxPsn - h.req.psn).toNat < 2 ^ 23 then
        if psnHeld s x h.req.psn then s
        else if h.readLen.isSome then takeAccess s k h else s.porchOut (.ack q h.req.psn)
      else s.porchOut (.nakSequence q x.rxPsn)
    | _, _ => s)

/-- Messages of a queue pair that the Gatehouse's queue holds, or that wait to join it (R342). -/
def queuedSends (s : State) (q : Nat) : Nat :=
  (s.gate.queue.filter (fun h => h.qp.val == q)).length
    + ((s.qp q).elim 0 (fun x => (x.held.filter (fun h => h.msg.isSome && h.answer.isNone)).length))

/-- SEND: on a management queue pair the message joins the Gatehouse's queue, of at most 8 for each queue pair, once every earlier access of the
queue pair is performed (R334, R342); on another it is answered with NAK Invalid Request. -/
def execSend (m : GhMsg) (h : HostHead) (s : State) : Host.Outcome State Fault Refusal :=
  let q := m.qp.val
  let psn := h.psn
  .next (hostMessage s q h.frame (fun s => match s.qp q, s.qpCfg q with
    | some y, some k =>
      let packets := psnCount (s.pmtu q) m.sendLength
      let s := count s (porchOcc s q 0x090 packets)
      if psn = y.rxPsn then
        if k.mgmt = false ∨ 65536 < m.sendLength then nakFatal s q (.nakInvalid q psn)
        else if 8 ≤ queuedSends s q then s.porchOut (.rnrNak q psn)
        else
          let s := s.modQp q (fun z => { z with rxPsn := z.rxPsn + BitVec.ofNat 24 packets })
          clearUnknown (takeAccess s k { req := { qp := m.qp, frame := h.frame, psn := psn, rkey := 0, va := 0 }, bytes := [], readLen := none, imm := false,
                                         ecc := [], msg := some m, answer := none })
      else if (y.rxPsn - psn).toNat < 2 ^ 23 then (if psnHeld s y psn then s else s.porchOut (.ack q psn))
      else s.porchOut (.nakSequence q y.rxPsn)
    | _, _ => s))

/-- Drains and intake that a RETRY has held go on (R186, R232). -/
def goOnHeld (s : State) : State :=
  (List.range 48).foldl (fun s c => resumeIntake (if (s.ctx c).drainHeld then drain s c else s) c) s

/-- RETRY_REISSUE: 1 µs later every access answered RETRY is issued again, those of items first, then drains and intake, then those that the
Porch holds (R232, R333). -/
def execRetryReissue (s : State) : Host.Outcome State Fault Refusal :=
  .next (if s.up then
    let again := s.reqs.filter (fun q => q.qp.isNone && (q.retry || pktDst q.packet == s.deviceNumber))
    let s := again.foldl (fun s q => if s.reqs.any (fun x => x.id == q.id) then reissue s q else s) (s.upTo (s.now + 1000))
    let s := goOnHeld s
    clearUnknown (State.transmit (pfcUpdate ((s.porch.qps.filter (fun x => !x.held.isEmpty)).foldl (fun s x => serveHeld s x.index) s)))
  else s)

/-- RDMA_WRITE (R333, R334). -/
def execRdmaWrite (r : HostReq) (bytes : List Byte) (s : State) : Host.Outcome State Fault Refusal :=
  .next (hostRequest s { req := r, bytes := bytes, readLen := none, imm := false, ecc := [], msg := none, answer := none } true)

/-- RDMA_WRITE_WITH_IMMEDIATE: the host's flagged final write, of 8 aligned bytes, performed after every earlier access of its queue pair; the
immediate is ignored (R334). -/
def execRdmaWriteWithImmediate (r : HostReq) (bytes : List Byte) (_imm : BitVec 32) (s : State) : Host.Outcome State Fault Refusal :=
  .next (hostRequest s { req := r, bytes := bytes, readLen := none, imm := true, ecc := [], msg := none, answer := none } (bytes.length == 8 && r.va.toNat % 8 == 0))

/-- RDMA_READ (R333, R334). -/
def execRdmaRead (r : HostReq) (a : ReadAsk) (s : State) : Host.Outcome State Fault Refusal :=
  .next (hostRequest s { req := r, bytes := [], readLen := some a.len, imm := false, ecc := a.ecc, msg := none, answer := none } true)

/-- INVALID_REQUEST: an operation that Table 2 of 12_porch.md does not carry from the host is answered with NAK Invalid Request (R328). -/
def execInvalidRequest (q : QpIx) (h : HostHead) (s : State) : Host.Outcome State Fault Refusal :=
  .next (hostMessage s q.val h.frame (fun s => nakFatal (count s (porchOcc s q.val 0x090 1)) q.val (.nakInvalid q.val h.psn)))

/-! ## Answers of the host (R186, R336, R337, R411) -/

/-- A drain of records is written: their slots are freed, so that a held intake goes on, and a drain that fell due meanwhile begins
(R185, R186). -/
def drainWritten (s : State) (q : Req) (c : Nat) (upTo : BitVec 32) : State :=
  let s := (s.dropReq q.id).modCtx c (fun x =>
    let left := x.appendTimes.drop (upTo - x.drained).toNat
    { x with drained := upTo, appendTimes := left, oldestAt := left.headD x.oldestAt })
  match s.ctxCfg c with
  | some k =>
    let again : Bool := k.drainBatch ≤ undrained (s.ctx c) || (s.ctx c).drainHeld || s.boot.safe
    goOnIntake (if again then drain s c else s) c
  | none => s

/-- The time of an error record that waits: word 1 counts Sill cycles (R408). -/
def errorTime (s : State) (n : Nat) : Option Nat := (s.errors.window.find? (fun w => w.1 == n)).map (fun w => 40 * (wd w.2 1).toNat)

/-- Error records written to the host ring; the oldest that still waits is the next one (R411). -/
def errorsWritten (s : State) (q : Req) (upTo : Nat) : State :=
  let s := s.dropReq q.id
  let s := { s with errors := { s.errors with drained := upTo, oldestAt := (errorTime s upTo).getD s.errors.oldestAt } }
  if s.boot.safe then drainErrors s else drainDue s

/-- The host acknowledges a request, or returns its bytes (R336). -/
def hostSettle (s : State) (q : Req) (bytes : List Byte) : State :=
  match q.purpose with
  | .read _ n => if bytes.length = n then readDone s q bytes else s
  | .drain c upTo => drainWritten s q c upTo
  | .errorDrain upTo => errorsWritten s q upTo
  | .held => s.dropReq q.id
  | _ => writeDone s q

/-- A PSN stands at or before another one (R330). -/
def psnLe (a b : BitVec 24) : Bool := (b - a).toNat < 2 ^ 23

/-- The last PSN of a request. -/
def Req.lastPsn (r : Req) : BitVec 24 := r.psn + BitVec.ofNat 24 (r.psns - 1)

/-- The requests of a queue pair are sent again from the oldest unacknowledged one on, and its timer starts again: go-back-N (R330). -/
def retransmit (s : State) (q : Nat) : State :=
  let s := { s with
    porch := { s.porch with waiting := s.porch.waiting.filter (fun w => !dataOf q w) }
    reqs := s.reqs.map (fun r => if r.qp = some q then { r with issued := s.now } else r) }
  (qpReqs s q).foldl (fun s r => match r.out with
    | some o => s.readyOut o (some r.id)
    | none => s) s

/-- The requests of a queue pair that an answer up to a PSN covers are settled, oldest first: an acknowledgement settles every write before it
(coalesced acknowledgements), and read data the read it belongs to. An answer beyond a read whose data have not come makes the
queue pair go back to that read (R330). The first argument bounds the requests. -/
def settleUpTo : Nat → State → Nat → BitVec 24 → List Byte → State
  | 0, s, _, _, _ => s
  | n + 1, s, q, psn, bytes => match qpReqs s q with
    | r :: _ =>
      let done (bs : List Byte) : State := hostSettle ((s.sentRequest r.id).modQp q (fun k => { k with retries := 0, rnrs := 0 })) r bs
      match r.purpose with
      | .read _ len =>
        if psnLe r.psn psn && psnLe psn r.lastPsn && bytes.length == len then settleUpTo n (done bytes) q psn []
        else if psnLe r.lastPsn psn && r.lastPsn != psn then retransmit s q
        else s
      | _ => if psnLe r.lastPsn psn then settleUpTo n (done []) q psn bytes else s
    | [] => s

/-- HOST_ACK: the host's acknowledgement up to a PSN, or a read response that ends with it, settles the requests of a queue pair that it
covers. -/
def execHostAck (q : QpIx) (a : HostAck) (s : State) : Host.Outcome State Fault Refusal :=
  .next (hostMessage s q.val a.frame (fun s =>
    let s := count s (porchOcc s q.val 0x090 (psnCount (s.pmtu q.val) a.bytes.length))
    State.transmit (settleUpTo (qpReqs s q.val).length s q.val a.psn a.bytes)))

/-- A retry of a queue pair: sent again, or ERROR once retry_cnt retransmissions are used (R330, R331). -/
def retryQp (s : State) (k : QpCfg) (x : Qp) : State :=
  if k.retryCnt ≤ x.retries then qpError s k.index causeRetries
  else retransmit (s.modQp k.index (fun y => { y with retries := y.retries + 1 })) k.index

/-- HOST_NAK for a PSN: the requests before it are acknowledged; then the queue pair goes back to it, or enters ERROR (R330, R331, R337). -/
def execHostNak (q : QpIx) (n : HostNak) (s : State) : Host.Outcome State Fault Refusal :=
  .next (hostMessage s q.val n.frame (fun s =>
    let s := count s (porchOcc s q.val 0x090 1)
    let s := settleUpTo (qpReqs s q.val).length s q.val (n.psn - 1) []
    match s.qp q.val, s.qpCfg q.val with
    | some y, some c =>
      if (qpReqs s q.val).isEmpty then s
      else match n.kind with
        | .sequenceError => retryQp s c y
        | .rnr =>
          if c.rnrRetry ≠ 7 ∧ c.rnrRetry ≤ y.rnrs then qpError s q.val causeRnr
          else retransmit (s.modQp q.val (fun z => { z with rnrs := z.rnrs + 1 })) q.val
        | _ => qpError s q.val causeNakReceived
    | _, _ => s))

/-- Nanoseconds of a queue pair's acknowledgement timeout: 4.096 µs × 2^v (R329). -/
def ackTimeoutNs (c : QpCfg) : Nat := 4096 * 2 ^ c.ackTimeout

/-- ACK_TIMEOUT: the oldest request of a queue pair has waited its timeout (R330, R331). -/
def execAckTimeout (q : QpIx) (s : State) : Host.Outcome State Fault Refusal :=
  .next (match s.qp q.val, s.qpCfg q.val, qpReqs s q.val with
    | some x, some c, r :: _ => if s.up ∧ x.error = false then retryQp (s.upTo (r.issued + ackTimeoutNs c)) c x else s
    | _, _, _ => s)

/-! ## Congestion control (R339) and PFC (R340) -/

/-- Nanoseconds of rec_interval. -/
def recNs (s : State) : Nat := bits s.cfg.porchCc 23 16 * 1000

/-- CNP: it cuts the queue pair's rate unless one has acted within the last rec_interval (R339). -/
def execCnp (q : QpIx) (s : State) : Host.Outcome State Fault Refusal :=
  .next (match s.qp q.val with
    | some x =>
      let acts : Bool := match x.cnpAt with
        | some t => decide (t + recNs s ≤ s.now)
        | none => true
      if porchOpen s ∧ x.error = false ∧ acts = true then
        let low := bits s.cfg.porchCc 15 0 * 100000
        let cut := x.rate * (256 - bits s.cfg.porchCc 39 32) / 256
        s.modQp q.val (fun y => { y with rate := Nat.max low cut, cnpAt := some s.now, recoverAt := s.now })
      else s
    | none => s)

/-- REC_INTERVAL_EXPIRY: a full rec_interval without a CNP that acted (R339). -/
def execRecIntervalExpiry (q : QpIx) (s : State) : Host.Outcome State Fault Refusal :=
  .next (match s.qp q.val with
    | some x =>
      if s.up ∧ x.error = false then
        let s := s.upTo (x.recoverAt + recNs s)
        let step := (lineRate s.cfg - x.rate) * bits s.cfg.porchCc 31 24 / 256
        State.transmit (s.modQp q.val (fun y => { y with rate := y.rate + step, recoverAt := s.now }))
      else s
    | none => s)

/-- PFC_PAUSE: a pause frame of an enabled priority stops or resumes its transmission; others are ignored (R340). -/
def execPfcPause (prio : Fin 8) (xoff : Bool) (s : State) : Host.Outcome State Fault Refusal :=
  .next (if porchOpen s ∧ pfcEnabled s prio.val then
    let bit : BitVec 8 := BitVec.ofNat 8 (2 ^ prio.val)
    State.transmit { s with porch := { s.porch with paused := if xoff then s.porch.paused ||| bit else s.porch.paused &&& ~~~bit } }
  else s)

/-! ## Other frames (R327) -/

/-- ARP: a request for the Porch's IPv4 address is answered; one for another address is discarded and counted. -/
def execArp (ip : BitVec 32) (mac : BitVec 48) (s : State) : Host.Outcome State Fault Refusal :=
  .next (if porchOpen s then (if ip = s.cfg.ipv4 then s.porchOut (.arpReply ip mac) else discardFrame s) else s)

/-- NEIGHBOR_SOLICITATION: as ARP, for the IPv6 address. -/
def execNeighborSolicitation (ip : BitVec 128) (mac : BitVec 48) (s : State) : Host.Outcome State Fault Refusal :=
  .next (if porchOpen s then (if ip = s.cfg.ipv6 then s.porchOut (.neighborAdvertisement ip mac) else discardFrame s) else s)

/-- FRAME_DISCARD: any other frame that is not RoCEv2 on UDP port 4791. -/
def execFrameDiscard (s : State) : Host.Outcome State Fault Refusal := .next (if porchOpen s then discardFrame s else s)

/-! ## The link (R326) -/

/-- The Porch link is declared down and trains (R326). -/
def porchDown (s : State) : State :=
  if s.porch.link = 2 then
    { s with porch := { s.porch with link := 1, downCount := satInc s.porch.downCount, trainAt := s.now } }
  else s

/-- PORCH_LINK_DOWN: 10 µs of lost lock or a fault. -/
def execPorchLinkDown (s : State) : Host.Outcome State Fault Refusal := .next (if s.up then porchDown s else s)

/-- PORCH_RETRAIN_ATTEMPT: 300 ms after the last attempt. -/
def execPorchRetrainAttempt (s : State) : Host.Outcome State Fault Refusal :=
  .next (if s.up ∧ s.porch.link = 1 then
    let s := s.upTo (s.porch.trainAt + 300000000)
    { s with porch := { s.porch with trainAt := s.now } }
  else s)

/-- PORCH_LINK_UP: training succeeds and traffic resumes. -/
def execPorchLinkUp (s : State) : Host.Outcome State Fault Refusal :=
  .next (if s.up ∧ s.porch.link = 1 then State.transmit { s with porch := { s.porch with link := 2 } } else s)

end Sys2Proof.Machine
end

