-- ==== Sys2Proof/Machine/Gate.lean ====
section
/-! DEFINITION. The Gatehouse pair's messages (R441 to R457): their checks, the measurement chain and quotes, image writes and forwarding
(R353, R362, R455), fuses, and the commands that act on other units. -/

namespace Sys2Proof.Machine

/-! ## Messages (R451, R452) -/

/-- Further fields of a message header (Table 6 of 17_security.md). -/
def keyIdOf (m : GhMsg) : Nat := bits (wd m.hdr 1) 63 48
def counterOf (m : GhMsg) : BitVec 32 := BitVec.ofNat 32 (bits (wd m.hdr 1) 31 0)

/-- The bytes of a message that its signature covers. -/
def signedBytes (m : GhMsg) : List Byte := wordsBytes m.hdr ++ wordsBytes m.body

/-- Statuses of Table 7 of 17_security.md. -/
def stOk : Nat := 0x00
def stFormat : Nat := 0x02
def stSignature : Nat := 0x03
def stKey : Nat := 0x04
def stStale : Nat := 0x05
def stTarget : Nat := 0x06
def stBusy : Nat := 0x07
def stRefused : Nat := 0x08
def stVerify : Nat := 0x09
def stExhausted : Nat := 0x0A
def stMeasurement : Nat := 0x0B

/-- Command codes (Table 8 of 17_security.md). -/
def cmdGetIdentity : Nat := 0x01
def cmdGetNonce : Nat := 0x02
def cmdQuote : Nat := 0x03
def cmdSelectVariant : Nat := 0x10
def cmdImageWrite : Nat := 0x11
def cmdImageData : Nat := 0x12
def cmdQpReset : Nat := 0x13
def cmdComputeReset : Nat := 0x14
def cmdContextReset : Nat := 0x15
def cmdStackRetrain : Nat := 0x16
def cmdFenceClear : Nat := 0x17
def cmdSafeState : Nat := 0x18
def cmdRollbackRaise : Nat := 0x19
def cmdKeyEnroll : Nat := 0x1A
def cmdKeyRevoke : Nat := 0x1B
def cmdControlWrite : Nat := 0x1C

/-- A command: its code, the key that a message needs (none for an unauthenticated one), whether its body has the layout of Table 12, and its own
conditions, as a status. -/
structure Cmd where
  code : Nat
  key : Option (Fuses → GhMsg → Option (BitVec 512))
  layout : List W64 → Bool
  own : State → GhMsg → Nat

/-- An owner key that a message names (R456). -/
def byOwner : Option (Fuses → GhMsg → Option (BitVec 512)) := some (fun f m => ownerKey f (keyIdOf m))

/-- Check 2 of Table 7: lengths, reserved fields and the body. -/
def formatOk (c : Cmd) (m : GhMsg) : Bool :=
  let w := wd m.hdr
  m.hdr.length == 8 && bits (w 0) 47 32 == 0 && bits (w 0) 31 0 == m.sendLength
    && m.sendLength == 64 + 8 * m.body.length + m.sig.length && bits (w 1) 47 32 == 0 && bits (w 4) 31 0 == 0
    && w 5 == 0 && w 6 == 0 && w 7 == 0 && c.layout m.body
    && if c.key.isSome then m.sig.length == sigBlock else m.sig.isEmpty && w 1 == 0 && w 2 == 0 && w 3 == 0

/-- The checks of Table 7 in table order: the status of the first that fails, 0 when none does. -/
def checkMsg (s : State) (c : Cmd) (m : GhMsg) : Nat :=
  if formatOk c m = false then stFormat
  else match c.key with
    | none => c.own s m
    | some key => match key s.fuses m with
      | none => stKey
      | some k =>
        if wd m.hdr 3 ≠ s.fuses.serial ∨ wd m.hdr 2 ≠ s.gate.bootNonce then stTarget
        else if blockValid (some k) (keyIdOf m) m.sig (Config.shake256 (signedBytes m)) = false then stSignature
        else if (counterOf m).toNat ≤ s.gate.lastCounter.toNat then stStale
        else c.own s m

/-- A message of a command is taken up: the one at the head of the queue, or one that arrives at an empty queue (R454). -/
def takeMsg (s : State) (m : GhMsg) (code : Nat) : Option State :=
  if gateOpen s = false ∨ cmdOf m ≠ code then none
  else match s.gate.queue with
    | [] => if isMgmt s m.qp.val && s.qpUp m.qp.val then some s else none
    | h :: rest => if h = m then some { s with gate := { s.gate with queue := rest } } else none

/-- An accepted message counts; an authenticated one sets last_counter and joins the measurement chain (R448, R453). -/
def accept (s : State) (c : Cmd) (m : GhMsg) : State :=
  let s := count (count s (Occ.firmware 97 0x0A0 s.now)) (Occ.firmware 98 0x0A0 s.now)
  if c.key.isSome then
    chainAdd { s with gate := { s.gate with lastCounter := counterOf m } } s.now 0x06 c.code (Config.shake256 (signedBytes m ++ m.sig))
  else s

/-- A message of a command: taken up, checked, and either answered with the status of its first failed check and no effect, or accepted and carried
out (R452). The effect sends the reply. -/
def runMsg (s : State) (c : Cmd) (m : GhMsg) (effect : State → State) : State := match takeMsg s m c.code with
  | none => s
  | some t =>
    let st := checkMsg t c m
    clearUnknown (if st = 0 then effect (accept t c m) else ghReply t m st [] [])

/-- A command that replies OK without a body once its effect has begun. -/
def thenOk (m : GhMsg) (f : State → State) (s : State) : State := ghReply (f s) m stOk [] []

/-- A command that replies OK before its effect. -/
def okThen (m : GhMsg) (f : State → State) (s : State) : State := f (ghReply s m stOk [] [])

/-- A body of n words with the bits that a list of masks assigns, 0 elsewhere (R457). -/
def bodyIs (masks : List Nat) (b : List W64) : Bool :=
  b.length == masks.length && (b.zip masks).all (fun p => p.1.toNat &&& p.2 == p.1.toNat)

/-- No conditions of its own. -/
def noOwn : State → GhMsg → Nat := fun _ _ => 0

/-- REFUSED where a condition fails. -/
def refusedUnless (b : Bool) : Nat := if b then stOk else stRefused

def all64 : Nat := 2 ^ 64 - 1

/-! ## Identity and attestation (R443, R449, R450, R453) -/

/-- GET_IDENTITY: the certificate (R443). -/
def execGetIdentity (m : GhMsg) (s : State) : Host.Outcome State Fault Refusal :=
  .next (runMsg s { code := cmdGetIdentity, key := none, layout := bodyIs [], own := noOwn } m
    (fun s => ghReply s m stOk [] (padTo 29984 s.fuses.certificate)))

/-- GET_NONCE: BOOT_NONCE, last_counter and the serial (R453, R457). -/
def execGetNonce (m : GhMsg) (s : State) : Host.Outcome State Fault Refusal :=
  .next (runMsg s { code := cmdGetNonce, key := none, layout := bodyIs [], own := noOwn } m
    (fun s => ghReply s m stOk [s.gate.bootNonce, s.gate.lastCounter.setWidth 64, s.fuses.serial, 0] []))

/-- Number of the oldest chain entry held (R449). -/
def chainFirst (g : Gatehouse) : Nat := g.chainTotal - g.chain.length

/-- The signature block of a quote: algorithm 0x0002 under the identity key (R444, R450). -/
def quoteBlock (f : Fuses) (bytes : List Byte) : List Byte :=
  wordsBytes ([0x304749533254464B, wordOf [⟨48, 16, 2⟩, ⟨32, 16, 0xFFFF⟩, ⟨0, 32, 49856⟩]] ++ List.replicate 6 0)
    ++ padTo 49856 (Config.slhSign f.seed (measureBytes (Config.shake256 bytes)))

/-- The bytes of a quote of the entries from a start index on, 128 at most (Table 5 of 17_security.md). -/
def quoteBytes (s : State) (nonce : List W64) (start : Nat) : List Byte :=
  let g := s.gate
  let k := start - chainFirst g
  let carried := (g.chain.drop k).take 128
  let before := (g.chain.take k).foldl chainStep g.chainBefore
  let head := wordsBytes [0x304F55513254464B, s.fuses.serial, g.bootNonce, wordOf [⟨32, 32, start⟩, ⟨0, 32, carried.length⟩],
    wordOf [⟨32, 32, g.chainTotal⟩], BitVec.ofNat 64 (s.now / 40), 0, 0]
  let bytes := head ++ wordsBytes nonce ++ measureBytes before ++ measureBytes (carried.foldl chainStep before)
    ++ carried.flatMap chainBytes
  bytes ++ quoteBlock s.fuses bytes

/-- The start index of a QUOTE. -/
def quoteStart (m : GhMsg) : Nat := bits (wd m.body 8) 31 0

/-- QUOTE: refused where the start index names no held entry (R450). -/
def execQuote (m : GhMsg) (s : State) : Host.Outcome State Fault Refusal :=
  .next (runMsg s
    { code := cmdQuote, key := none, layout := bodyIs (List.replicate 8 all64 ++ [2 ^ 32 - 1] ++ List.replicate 7 0)
      own := fun s m => refusedUnless (chainFirst s.gate ≤ quoteStart m && quoteStart m < s.gate.chainTotal) } m
    (fun s => ghReply s m stOk [] (quoteBytes s (m.body.take 8) (quoteStart m))))

/-! ## Resets, stacks and queue pairs -/

/-- variants_m1 of the applied image. -/
def variantsM1 (s : State) : Nat := match readHeader s.gate.echo with
  | .ok h => h.variantsM1
  | .error _ => 0

/-- SELECT_VARIANT: carried out as a compute-domain reset (R359). -/
def execSelectVariant (m : GhMsg) (s : State) : Host.Outcome State Fault Refusal :=
  let v := bits (wd m.body 0) 3 0
  .next (runMsg s { code := cmdSelectVariant, key := byOwner, layout := bodyIs [0xF]
                    own := fun s _ => refusedUnless (v ≤ variantsM1 s && !s.boot.safe) } m
    (okThen m (fun s => startCReset s false (some (BitVec.ofNat 4 v)))))

/-- COMPUTE_RESET (R366). -/
def execComputeReset (m : GhMsg) (s : State) : Host.Outcome State Fault Refusal :=
  .next (runMsg s { code := cmdComputeReset, key := byOwner, layout := bodyIs [], own := fun s _ => refusedUnless (!s.boot.safe) } m
    (okThen m (fun s => startCReset s false none)))

/-- CONTEXT_RESET (R176). -/
def execContextReset (m : GhMsg) (s : State) : Host.Outcome State Fault Refusal :=
  let c := bits (wd m.body 0) 5 0
  .next (runMsg s { code := cmdContextReset, key := byOwner, layout := bodyIs [0x3F], own := fun s _ => refusedUnless (s.ctxCfg c).isSome } m
    (thenOk m (fun s => writeCtxReset s c)))

/-- STACK_RETRAIN: a trigger during a retrain joins the running attempt (R365, R370). -/
def execStackRetrain (m : GhMsg) (s : State) : Host.Outcome State Fault Refusal :=
  let st := bits (wd m.body 0) 4 0
  .next (runMsg s { code := cmdStackRetrain, key := byOwner, layout := bodyIs [0x1F], own := fun _ _ => refusedUnless (st < 24) } m
    (thenOk m (fun s => s.modMem (fun mem => modStack mem st (fun k => if k.service = 1 then k else k.retrain s.now)))))

/-- The Ledger and error-record drains of a queue pair that has left ERROR go on (R337). -/
def resumeDrains (s : State) (q : Nat) : State :=
  let s := (s.cfg.ctxs.filter (fun k => k.hostQp == q)).foldl (fun s k => if undrained (s.ctx k.index) = 0 then s else drain s k.index) s
  if bits s.cfg.safety 51 40 = q then drainErrors s else s

/-- A queue pair reset: what it still has outstanding is reported, then it takes its new PSNs; what it held leaves the receive buffer (R331,
R340). -/
def resetQp (s : State) (k : QpCfg) (tx rx : BitVec 24) : State :=
  let s := reportUnreachable s k.index
  let s := { s with porch := { s.porch with waiting := s.porch.waiting.filter (fun w => w.out.qp != some k.index) } }
  pfcUpdate <| resumeDrains (s.modQp k.index (fun _ => qpFresh s.cfg k tx rx)) k.index

/-- QP_RESET (R331). -/
def execQpReset (m : GhMsg) (s : State) : Host.Outcome State Fault Refusal :=
  let q := bits (wd m.body 0) 11 0
  let tx : BitVec 24 := BitVec.ofNat 24 (bits (wd m.body 1) 63 40)
  let rx : BitVec 24 := BitVec.ofNat 24 (bits (wd m.body 1) 39 16)
  .next (runMsg s { code := cmdQpReset, key := byOwner, layout := bodyIs [0xFFF, 2 ^ 64 - 2 ^ 16], own := fun s _ => refusedUnless (s.qpCfg q).isSome } m
    (thenOk m (fun s => match s.qpCfg q with
      | some k => resetQp s k tx rx
      | none => s)))

/-- FENCE_CLEAR: the fence entry of a Face is marked cleared in the log; it takes effect at the next release (R401). -/
def execFenceClear (m : GhMsg) (s : State) : Host.Outcome State Fault Refusal :=
  let f := bits (wd m.body 0) 5 0
  .next (runMsg s { code := cmdFenceClear, key := byOwner, layout := bodyIs [0x3F], own := fun s _ => refusedUnless (!(fenceEntries s f).isEmpty) } m
    (thenOk m (fun s => { s with gate := { s.gate with
      log := s.gate.log.map (fun e => if e.kind = 3 ∧ e.face = f then { e with cleared := true } else e) } })))

/-- SAFE_STATE: the reply leaves before entry, an error record is written, and every item that has not ended ends with SAFE_STATE (R412,
R414). -/
def execSafeState (m : GhMsg) (s : State) : Host.Outcome State Fault Refusal :=
  .next (runMsg s { code := cmdSafeState, key := byOwner, layout := bodyIs [], own := noOwn } m
    (okThen m (fun s => enterSafe
      (raiseError s { cls := 0x14, sev := sevDevice, unit := 0xFF, item := none, ctx := none, detail := [] }) (fun _ => codeSafeState) s.nextError)))

/-! ## Fuses (R446, R447, R456) -/

/-- The version applied now that a floor is raised to: image_version for floor 0, the fw_version of its class for the others (R447). -/
def appliedVersion (s : State) (n : Nat) : BitVec 32 :=
  if n = 0 then s.boot.imageVersion
  else match s.cfg.fwVersions.find? (fun v => v.1 == n) with
    | some v => v.2
    | none => 0

/-- Floors of a mask that need a burn. -/
def floorsToBurn (s : State) (mask : Nat) : List Nat :=
  (List.range 10).filter (fun n => mask.testBit n && floorValue s.fuses n != appliedVersion s n)

/-- One entry burned on each floor of a list. -/
def burnFloors (s : State) (ns : List Nat) : State :=
  ns.foldl (fun s n => { s with fuses := { s.fuses with
    floors := s.fuses.floors.modify n (fun l => l ++ [appliedVersion s n]) } }) s

/-- ROLLBACK_RAISE: EXHAUSTED where a floor that needs a burn has its 16 entries used, and nothing changes (R446, R447). -/
def execRollbackRaise (m : GhMsg) (s : State) : Host.Outcome State Fault Refusal :=
  let mask := bits (wd m.body 0) 9 0
  .next (runMsg s { code := cmdRollbackRaise, key := byOwner, layout := bodyIs [0x3FF]
                    own := fun s _ => if (floorsToBurn s mask).any (fun n => 16 ≤ (s.fuses.floors.getD n []).length) then stExhausted else stOk } m
    (thenOk m (fun s => burnFloors s (floorsToBurn s mask))))

/-- The lowest empty owner slot. -/
def emptySlot (f : Fuses) : Option Nat := (List.range 8).find? (fun n => (f.ownerKeys.getD n none).isNone)

/-- KEY_ENROLL: the key is burned into the lowest empty owner slot (R456). -/
def execKeyEnroll (m : GhMsg) (s : State) : Host.Outcome State Fault Refusal :=
  let key : BitVec 512 := BitVec.ofNat 512 (leNat (wordsBytes m.body))
  .next (runMsg s { code := cmdKeyEnroll, key := byOwner, layout := bodyIs (List.replicate 8 all64)
                    own := fun s _ => if (emptySlot s.fuses).isSome then stOk else stExhausted } m
    (thenOk m (fun s => match emptySlot s.fuses with
      | some n => { s with fuses := { s.fuses with ownerKeys := s.fuses.ownerKeys.set n (some key) } }
      | none => s)))

/-- The key a KEY_REVOKE names. -/
def revoked (m : GhMsg) : Nat := bits (wd m.body 0) 15 0

/-- The key that has to sign a KEY_REVOKE: a different Kenvirad key for a Kenvirad key, else an owner key (R456). -/
def byRevoker : Option (Fuses → GhMsg → Option (BitVec 512)) := some (fun f m =>
  if revoked m < 4 then (if keyIdOf m = revoked m then none else kenviradKey f (keyIdOf m)) else ownerKey f (keyIdOf m))

/-- The revoke fuse of a key burned (R441, R445). -/
def burnRevoke (f : Fuses) (k : Nat) : Fuses :=
  if k < 4 then { f with kenviradRevoked := f.kenviradRevoked ||| BitVec.ofNat 4 (2 ^ k) }
  else { f with ownerRevoked := f.ownerRevoked ||| BitVec.ofNat 8 (2 ^ (k - 0x100)) }

/-- Some owner key is usable. -/
def hasOwnerKey (f : Fuses) : Bool := (List.range 8).any (fun n => (ownerKey f (0x100 + n)).isSome)

/-- KEY_REVOKE: refused for a key_id that no key has, and where no owner key would stay usable (R441, R456). -/
def execKeyRevoke (m : GhMsg) (s : State) : Host.Outcome State Fault Refusal :=
  let k := revoked m
  let valid : Bool := k < 4 || (0x100 ≤ k && k ≤ 0x107)
  .next (runMsg s { code := cmdKeyRevoke, key := byRevoker, layout := bodyIs [0xFFFF]
                    own := fun s _ => refusedUnless (valid && hasOwnerKey (burnRevoke s.fuses k)) } m
    (thenOk m (fun s => { s with fuses := burnRevoke s.fuses k })))

/-- CONTROL_WRITE: one register written for the Gatehouse (R13, R482). -/
def execControlWrite (m : GhMsg) (s : State) : Host.Outcome State Fault Refusal :=
  let o := bits (wd m.body 0) 47 0
  .next (runMsg s { code := cmdControlWrite, key := byOwner, layout := bodyIs [2 ^ 48 - 1, all64], own := noOwn } m
    (thenOk m (fun s => if o % 8 = 0 then regWrite s .all o (wd m.body 1) else s)))

/-! ## Image writes (R353, R455) -/

/-- The slot that was not applied. -/
def otherSlot (s : State) : SlotImage := if s.boot.slot then s.gate.slotA else s.gate.slotB

/-- That slot changed. -/
def modOther (s : State) (f : SlotImage → SlotImage) : State :=
  { s with gate := if s.boot.slot then { s.gate with slotA := f s.gate.slotA } else { s.gate with slotB := f s.gate.slotB } }

/-- A write begins: the header of the unapplied slot is erased (R455). -/
def beginWrite (s : State) (qp : Option QpIx) (port length : Nat) (measure : BitVec 512) : State :=
  let s := modOther s eraseHeader
  { s with gate := { s.gate with
      writing := some { qp := qp, port := port, length := length, measure := measure, head := [], covered := [], last := s.now } } }

/-- What an image write meets on its own: BUSY while another one runs, REFUSED where the slot cannot hold it (R351, R455). -/
def writeStatus (s : State) (length : Nat) : Nat :=
  if s.gate.writing.isSome then stBusy else refusedUnless (64 ≤ length && length ≤ slotSize)

/-- IMAGE_WRITE (R455). -/
def execImageWrite (m : GhMsg) (s : State) : Host.Outcome State Fault Refusal :=
  let n := bits (wd m.body 0) 31 0
  .next (runMsg s { code := cmdImageWrite, key := byOwner, layout := bodyIs ((2 ^ 32 - 1) :: List.replicate 8 all64)
                    own := fun s _ => writeStatus s n } m
    (thenOk m (fun s => beginWrite s (some m.qp) 0 n (BitVec.ofNat 512 (leNat (wordsBytes (m.body.drop 1)))))))

/-- Data of an image put into the slot; the bytes of its header are held until every byte has arrived, and bytes beyond the image are ignored
(R455). -/
def putData (s : State) (w : ImageWrite) (at_ : Nat) (bs : List Byte) : State :=
  let bs := bs.take (w.length - at_)
  let blocks := (List.range (ceilDiv bs.length 64)).map (fun i => at_ / 64 + i)
  let w := { w with
    covered := w.covered ++ blocks.filter (fun b => !w.covered.contains b), last := s.now
    head := if at_ = 0 ∧ bs ≠ [] then bs.take 64 else w.head }
  let s := modOther s (fun f => if at_ = 0 then slotWrite f 64 (bs.drop 64) else slotWrite f at_ bs)
  { s with gate := { s.gate with writing := some w } }

/-- Every byte of a write has arrived. -/
def writeWhole (w : ImageWrite) : Bool := decide (w.covered.length = ceilDiv w.length 64)

/-- A whole write checked: its header written, the slot's measurement compared and the slot verified against the fuses of that moment (R353,
R455). It answers a status and a fail_code. -/
def finishWrite (s : State) (w : ImageWrite) : State × Nat × Nat :=
  let s := modOther s (fun f => slotWrite f 0 w.head)
  let s := { s with gate := { s.gate with writing := none } }
  if Config.shake256 (slotBytes (otherSlot s) 0 w.length) ≠ w.measure then (s, stMeasurement, 0)
  else match verifyImage s.fuses (otherSlot s) with
    | .error e => (s, stVerify, e)
    | .ok im => (chainAdd s s.now 0x07 (b2n (!s.boot.slot) * 2 ^ 23) im.measure, stOk, 0)

/-! ## Forwarding (R297, R362) -/

/-- The message packet of a type to the peer at a port. -/
def fwdPacket (s : State) (p typ word1 : Nat) (body : List Byte) : Packet :=
  let peer := bits (portCfg s p) 63 49
  mkPacket peer s.deviceNumber opMsg (hopLimit s) 0 (1 + ceilDiv body.length 64) 0 0 0
    (wordsBytes ([wordOf [⟨56, 8, typ⟩, ⟨32, 16, body.length⟩], BitVec.ofNat 64 word1] ++ List.replicate 6 0) ++ body)

/-- A message to the peer at a port, on that port. -/
def sendFwd (s : State) (p typ word1 : Nat) (body : List Byte) : State := 
  enqueue s p { cls := 3, lane := 0, source := 16, inLane := 0, epoch := 0, mesh := none, since := s.now, packet := hopped (fwdPacket s p typ word1 body) }

/-- The board ports an image is forwarded over: those of the mask that are UP (R362). -/
def forwardPorts (s : State) : List Nat := (List.range 7).filter (fun p => s.cfg.forward.getLsbD p && s.portUp p)

/-- An image and its signature block leave for the peer at a port, in pieces of 4,032 bytes. -/
def forwardImage (s : State) (w : ImageWrite) (p : Nat) : State :=
  let bytes := slotBytes (otherSlot s) 0 (roundUp w.length 64)
  let s := sendFwd s p 0x05 w.length (measureBytes w.measure)
  (List.range (ceilDiv bytes.length 4032)).foldl (fun s i => sendFwd s p 0x06 (4032 * i) ((bytes.drop (4032 * i)).take 4032)) s

/-- The body of the last reply to an IMAGE_DATA: fail_code, and the result of each board port (R457). -/
def writeReply (fail : Nat) (results : List Nat) : List W64 :=
  [BitVec.ofNat 64 fail, wordOf ((results.zip (List.range 7)).map (fun x => ⟨4 * x.2, 4, x.1⟩))]

/-- The last reply once every forwarding result is in (R362). -/
def settleForwarding (s : State) : State := match s.gate.forwarding with
  | some f =>
    if f.results.all Option.isSome then
      clearUnknown (ghReply { s with gate := { s.gate with forwarding := none } } f.msg stOk (writeReply 0 (f.results.map (fun r => r.getD 0))) [])
    else s
  | none => s

/-- A whole and verified image goes to the peers, and its last reply waits for them. -/
def startForwarding (s : State) (w : ImageWrite) (m : GhMsg) : State :=
  let ps := forwardPorts s
  let s := ps.foldl (fun s p => forwardImage s w p) s
  settleForwarding { s with gate := { s.gate with
    forwarding := some { qp := m.qp, msg := m, results := (List.range 7).map (fun p => if ps.contains p then none else some 0), lastData := s.now } } }

/-- The byte offset and the data of an IMAGE_DATA. -/
def dataOffset (m : GhMsg) : Nat := (wd m.body 0).toNat
def dataBytes (m : GhMsg) : List Byte := wordsBytes (m.body.drop 1)

/-- An IMAGE_DATA body: an offset that is a multiple of 64, and data of a nonzero multiple of 64 bytes, at most 65,408 (R457). -/
def dataLayout (b : List W64) : Bool :=
  let n := 8 * (b.length - 1)
  (wd b 0).toNat % 64 == 0 && n != 0 && n % 64 == 0 && n ≤ 65408

/-- IMAGE_DATA from the queue pair that sent the IMAGE_WRITE, within the image; the last one carries the result (R353, R362, R455). -/
def execImageData (m : GhMsg) (s : State) : Host.Outcome State Fault Refusal :=
  .next (runMsg s { code := cmdImageData, key := none, layout := dataLayout
                    own := fun s m => refusedUnless (match s.gate.writing with
                      | some w => w.qp == some m.qp && decide (dataOffset m < w.length)
                      | none => false) } m
    (fun s => match s.gate.writing with
      | none => s
      | some w =>
        let s := putData s w (dataOffset m) (dataBytes m)
        match s.gate.writing with
        | some w =>
          if writeWhole w then
            let (s, st, e) := finishWrite s w
            if st = stOk then startForwarding s w m else ghReply s m st (writeReply e []) []
          else ghReply s m stOk (writeReply 0 []) []
        | none => s))

/-- IMAGE_WRITE_ABANDON: no data for 10 s; the slot header stays erased (R455). -/
def execImageWriteAbandon (s : State) : Host.Outcome State Fault Refusal :=
  .next (match s.gate.writing with
    | some w => if s.up then
        let s := s.upTo (w.last + 10000000000)
        { s with gate := { s.gate with writing := none } }
      else s
    | none => s)

/-! ## Fabric messages (R297) -/

/-- The fields of a fabric message's line. -/
def msgType (m : FabMsg) : Nat := bits (wd m.line 0) 63 56
def msgWord (m : FabMsg) (i : Nat) : W64 := wd m.line i

/-- The bits that words 1 to 3 of a message line may hold, by type (Table 14 of 10_spejan.md); words 4 to 7 are 0 in every type. -/
def msgMasks : Nat → Option (Nat × Nat × Nat)
  | 0x01 => some (0xFFFCFFFFFFFFFFFF, 0xFFFFF000FFFFFFFF, 0)
  | 0x02 => some (0xFFFCFFFFFFFFFFFF, 0xFFFF0000FFFFFFFF, 0)
  | 0x03 => some (0xFFFFFFFFFFFFE3FF, 0, 0)
  | 0x04 => some (0xFFFFFFFFFFFF03FF, all64, 0xFFFFFFFF)
  | 0x05 => some (0xFFFFFFFF, 0, 0)
  | 0x06 => some (all64, 0, 0)
  | 0x07 => some (0xFFFF, 0, 0)
  | _ => none

/-- Body lengths that a type allows. -/
def msgBodyOk (typ n : Nat) : Bool :=
  if typ = 0x05 then n == 64 else if typ = 0x06 then n != 0 && n % 64 == 0 && n ≤ 4032 else n == 0

/-- A message that its receiver takes: a defined type, no reserved field, a body length its type allows (R297). -/
def msgOk (m : FabMsg) : Bool :=
  let zero (i mask : Nat) : Bool := (msgWord m i).toNat &&& mask == (msgWord m i).toNat
  match msgMasks (msgType m) with
  | none => false
  | some (a, b, c) =>
    m.line.length == 8 && bits (msgWord m 0) 55 48 == 0 && bits (msgWord m 0) 31 0 == 0 && bits (msgWord m 0) 47 32 == m.body.length
      && zero 1 a && zero 2 b && zero 3 c && (m.line.drop 4).all (· == 0) && msgBodyOk (msgType m) m.body.length

/-- A message of a type that arrives at a port: one that R297 discards is counted there. -/
def takeFabMsg (s : State) (p typ : Nat) (m : FabMsg) (f : State → State) : State :=
  if s.up = false then s
  else if msgOk m = false then s.modPort p (fun q => { q with pktDiscards := satInc q.pktDiscards })
  else if msgType m ≠ typ then s
  else f s

/-! ## The peer of a forwarding Gatehouse (R353, R362) -/

/-- The result of a forwarded image, to the port it came from. -/
def sendResult (s : State) (p status fail : Nat) : State := sendFwd s p 0x07 (256 * status + fail) []

/-- An IMAGE_FWD_START that arrives at a port: the write begins, or the result says why it does not. -/
def fwdStartArrive (s : State) (p : Nat) (m : FabMsg) : State :=
  takeFabMsg s p 0x05 m (fun s =>
    let n := bits (msgWord m 1) 31 0
    if s.boot.comparatorStopped then s
    else
      let st := writeStatus s n
      if st = stOk then beginWrite s none p n (BitVec.ofNat 512 (leNat m.body)) else sendResult s p st 0)

/-- An IMAGE_FWD_DATA that arrives at a port: the last one is answered with the result, and the image goes no further (R362). -/
def fwdDataArrive (s : State) (p : Nat) (m : FabMsg) : State :=
  takeFabMsg s p 0x06 m (fun s => match s.gate.writing with
    | some w =>
      let at_ := (msgWord m 1).toNat
      if w.qp.isSome ∨ w.port ≠ p ∨ at_ % 64 ≠ 0 ∨ w.length ≤ at_ ∨ s.boot.comparatorStopped then s
      else
        let s := putData s w at_ m.body
        match s.gate.writing with
        | some w =>
          if writeWhole w then
            let (s, st, e) := finishWrite s w
            sendResult s p st e
          else s
        | none => s
    | none => s)

/-- A forwarding port's result recorded, and the reply sent once it was the last. -/
def fwdResult (s : State) (p r : Nat) : State := match s.gate.forwarding with
  | some f =>
    if f.results.getD p (some 0) = none then
      settleForwarding { s with gate := { s.gate with forwarding := some { f with results := f.results.set p (some r) } } }
    else s
  | none => s

/-- An IMAGE_FWD_RESULT that arrives at a port. -/
def fwdResultArrive (s : State) (p : Nat) (m : FabMsg) : State :=
  takeFabMsg s p 0x07 m (fun s =>
    if s.boot.comparatorStopped then s else fwdResult s p (if bits (msgWord m 1) 15 8 = stOk then 1 else 2))

/-- IMAGE_FWD_START. -/
def execImageFwdStart (p : PortIx) (m : FabMsg) (s : State) : Host.Outcome State Fault Refusal :=
  .next (if s.portUp p.val then fwdStartArrive s p.val m else s)

/-- IMAGE_FWD_DATA. -/
def execImageFwdData (p : PortIx) (m : FabMsg) (s : State) : Host.Outcome State Fault Refusal :=
  .next (if s.portUp p.val then fwdDataArrive s p.val m else s)

/-- IMAGE_FWD_RESULT. -/
def execImageFwdResult (p : PortIx) (m : FabMsg) (s : State) : Host.Outcome State Fault Refusal :=
  .next (if s.portUp p.val then fwdResultArrive s p.val m else s)

/-- IMAGE_FWD_TIMEOUT: 500 ms after the last data of a port without a result (R362). -/
def execImageFwdTimeout (p : PortIx) (s : State) : Host.Outcome State Fault Refusal :=
  .next (match s.gate.forwarding with
    | some f =>
      if s.up ∧ s.boot.comparatorStopped = false ∧ f.results.getD p.val (some 0) = none then
        fwdResult (s.upTo (f.lastData + 500000000)) p.val 3
      else s
    | none => s)

end Sys2Proof.Machine
end

