-- ==== Sys2Proof/Machine/Spejan.lean ====
section
/-! DEFINITION. Spejan ports (R267 to R297): flits as they arrive, replay, training, failures and disables, packets at their destination and in
transit, escapes, stalls and response timeouts. -/

namespace Sys2Proof.Machine

/-! ## Packets that have come whole -/

/-- A packet discarded at a port and counted (R274, R276, R282). -/
def discardPacket (s : State) (p : Nat) : State := s.modPort p (fun q => { q with pktDiscards := satInc q.pktDiscards })

/-- The record of a discarded packet: 0 for its hops, 1 for a stall (R276, R285). -/
def discardRecord (s : State) (p : Nat) (k : Packet) (stall : Bool) : State :=
  raiseError s { cls := 0x07, sev := sevInfo, unit := 0x40 + p, item := none, ctx := none,
                 detail := [wordOf [⟨24, 1, b2n stall⟩, ⟨16, 6, pktOp k⟩, ⟨0, 16, pktDst k⟩]] }

/-- What a response packet answers, where it fits its request (Table 5 of 10_spejan.md). -/
def replyOf? (q : Req) (k : Packet) : Option Reply :=
  let op := pktOp k
  let w := atomicBytes (bits q.packet.w2 4 0)
  if op = opReadRsp then (if k.data.length = 64 * pktLines q.packet then some (.data k.data) else none)
  else if op = opWriteAck then some .ack
  else if op = opAtomicRsp then some (.old w (leNat (k.data.take w)) (BitVec.ofNat 8 (bits k.w2 7 0)))
  else if op = opRetry then some .retry
  else if op = opFault then some (.fault (bits k.w2 7 0))
  else none

/-- A response at its requester: one whose request is gone, or that comes from another device, is discarded (R275). -/
def answerArrive (s : State) (k : Packet) : State := match requestOf s (pktReq k) with
  | some q =>
    if pktDst q.packet = pktSrc k then
      match replyOf? q k with
      | some r => settle s q r
      | none => s
    else s
  | none => s

/-- A request at its home: checked, performed and answered (R205, R274). -/
def requestArrive (s : State) (p : Nat) (k : Packet) : State := match serve s (44 + p) (.remote (pktSrc k) (pktReq k)) k with
  | (t, some r) => drainDue (t.sendPacket (replyPacket t k r))
  | (t, none) => t

/-- The fabric message of a MSG packet (R297). -/
def fabMsgOf (k : Packet) : FabMsg :=
  let line := bytesWords (padTo 64 k.data)
  { src := pktSrc k, line := line, body := (k.data.drop 64).take (bits (wd line 0) 47 32) }

/-- A fabric message at its destination (Table 14 of 10_spejan.md); one that R297 discards is counted at its port. -/
def msgArrive (s : State) (p : Nat) (m : FabMsg) : State :=
  let t := msgType m
  if msgOk m = false then discardPacket s p
  else if t = 0x01 then (if live s then notUsedArrive s m else s)
  else if t = 0x02 then (if live s then crushDoneArrive s m else s)
  else if t = 0x03 then (if live s then foldNoticeArrive s m else s)
  else if t = 0x04 then (if live s then closeReportArrive s m else s)
  else if t = 0x05 then fwdStartArrive s p m
  else if t = 0x06 then fwdDataArrive s p m
  else fwdResultArrive s p m

/-- Collective and parity data at its destination (R311, R426). -/
def collPacketArrive (s : State) (k : Packet) : State :=
  if live s = false then s else if isParity s k then parityArrive s k else collArrive s k

/-- Crusher blocks at the adder of their port, each counted (R292). -/
def crushPacketArrive (s : State) (p : Nat) (k : Packet) : State :=
  if live s then crushArrive (count s (spejanOcc s p 0x053 (pktLines k))) p k else s

/-- A packet whose destination this device is. -/
def ownArrive (s : State) (p : Nat) (k : Packet) : State :=
  if dieCut s p then s
  else if pktClass k = 0 then requestArrive s p k
  else if pktClass k = 1 then answerArrive s k
  else if pktOp k = opCollData then collPacketArrive s k
  else if pktOp k = opCrushData then crushPacketArrive s p k
  else msgArrive s p (fabMsgOf k)

/-- A packet for another device: discarded at hops 0, else routed on with one hop fewer; it stays in its input lane until its output lane has
credit (R276, R279, R282). -/
def transit (s : State) (p lane : Nat) (k : Packet) : State :=
  let gone (t : State) : State := owe t p (pktClass k) lane (flitCount k)
  if pktHops k = 0 then gone (discardRecord (discardPacket s p) p k false)
  else (routePacket s (some (p, lane)) k).getD (gone (discardPacket s p))

/-- A packet that has arrived whole on a lane of a class (R274). The flits of one that is delivered or discarded leave their lane, whose
credits go back (R277). -/
def packetArrive (s : State) (p cls lane : Nat) (k : Packet) : State :=
  if pktValid k = false ∨ cls ≠ pktClass k ∨ 2 < lane then owe (discardPacket s p) p cls lane (flitCount k)
  else if pktDst k = s.deviceNumber then owe (ownArrive s p k) p cls lane (flitCount k)
  else transit s p lane k

/-! ## Flits (R270, R271) -/

/-- Fields of a link word (Table 3 of 10_spejan.md). -/
def flitType (f : Flit) : Nat := bits f.link 63 60
def flitSeq (f : Flit) : BitVec 12 := BitVec.ofNat 12 (bits f.link 47 36)
def flitAck (f : Flit) : BitVec 12 := BitVec.ofNat 12 (bits f.link 35 24)

/-- A flit with a good CRC in codewords that the decoder could correct. -/
def flitGood (f : Flit) : Bool := f.fecOk && f.crc == flitCrc f.link f.body

/-- A port that exchanges flits: in service, or being disabled. -/
def portLinked (s : State) (p : Nat) : Bool := s.up && ((s.port p).state == .up || (s.port p).state == .disabling)

/-- A discarded flit: counted when its codeword failed; a port that exchanges flits sends one NAK, and another only when the DATA flit it
awaits has failed again (R271). -/
def badFlit (s : State) (p : Nat) (f : Flit) : State :=
  let q := s.port p
  let s := if f.fecOk then s else s.modPort p (fun x => { x with fecUncorrectable := satInc x.fecUncorrectable })
  if portLinked s p ∧ (q.nakSent = false ∨ (flitType f = 1 ∧ flitSeq f = q.expect)) then
    s.modPort p (fun x => { x.sendNak with nakSent := true, replayCount := satInc x.replayCount })
  else s

/-- Flits that an ack covers leave the replay buffer; progress starts the count of replays anew (R271, R272). -/
def ackFlits (q : Port) (ack : BitVec 12) : Port :=
  let left := q.replay.filter (fun e => !decide ((ack - e.1).toNat < 1024))
  { q with replay := left, replays := if left.length = q.replay.length then q.replays else 0 }

/-- Credits that a flit returns (R277). -/
def takeCredits (q : Port) (f : Flit) : Port :=
  let lane := bits f.link 21 20
  if lane = 3 then q
  else { q with credits := q.credits.modify (laneIx (bits f.link 23 22) lane) (fun c => c + bits f.link 19 12) }

/-- A disabled port sends TRAIN with intent DISABLE, turns its lanes off, and trains if a re-enable waits (R291, R296). Packets it has not
sent take other routes. -/
def finishDisable (s : State) (p : Nat) : State :=
  let again := (s.port p).reenableLatched
  let s := (sendTrain s p 1).modPort p (fun q => { q with state := .off, replay := [], reenableLatched := false })
  let s := rerouteQueue s p
  if again then s.modPort p (fun q => q.train s.now 1) else s

/-- A disable that has sent everything and had it acknowledged is complete. -/
def disableDone (s : State) (p : Nat) : State :=
  let q := s.port p
  if q.state = .disabling ∧ q.queue.isEmpty ∧ q.replay.isEmpty then finishDisable s p else s

/-- What every good flit brings: the link is alive, an ack, and credits unless the flit is a DATA flit out of order, which comes again; the
port sends what it now can (R271, R277). -/
def goodFlit (s : State) (p : Nat) (f : Flit) : State :=
  let kept : Bool := flitType f != 1 || flitSeq f == (s.port p).expect
  let heed : Port → Port := fun q => if kept then takeCredits (ackFlits q (flitAck f)) f else ackFlits q (flitAck f)
  disableDone ((s.modPort p (fun q => { (heed q) with lastGood := s.now })).pump p) p

/-- The flit time after a flit has been dealt with: IDLE carries the ack and a credit return (R270). DESIGN CHOICE: one IDLE stands for those
until the next flit comes (notes/assumptions/99.md). -/
def flitTime (s : State) (p : Nat) : State := if portLinked s p then s.modPort p Port.sendIdle else s

/-- A port that can receive a flit at all: linked, or training with its FEC locked. -/
def portHears (s : State) (p : Nat) : Bool := portLinked s p || (s.up && (s.port p).state == .training && (s.port p).fecLocked)

/-- IDLE: its ack and its credit return. -/
def execIdle (p : PortIx) (f : Flit) (s : State) : Host.Outcome State Fault Refusal :=
  .next (if portHears s p.val = false then s
  else if flitGood f = false then badFlit s p.val f
  else if flitType f = 0 ∧ portLinked s p.val then flitTime (goodFlit s p.val f) p.val
  else s)

/-- The bytes that the valid slots of a DATA flit carry. -/
def flitBytes (f : Flit) : List Byte := (padTo 240 f.body).take (16 * (bits f.link 51 48 + 1))

/-- A DATA flit joins the packet that its lane assembles; a last flit completes it. -/
def joinFlit (s : State) (p : Nat) (f : Flit) : State :=
  let cls := bits f.link 57 56
  let lane := bits f.link 55 54
  let ix := laneIx cls lane
  let bs := flitBytes f
  let (hdr, data) := if bitAt f.link 59 then (bytesWords (padTo 32 bs), bs.drop 32)
    else let a := (s.port p).assembly.getD ix ([], []); (a.1, a.2 ++ bs)
  if lane = 3 then (if bitAt f.link 58 then discardPacket s p else s)
  else if bitAt f.link 58 then
    let s := s.modPort p (fun q => { q with assembly := q.assembly.set ix ([], []) })
    if hdr.isEmpty then owe (discardPacket s p) p cls lane (ceilDiv data.length 240)
    else packetArrive s p cls lane { w0 := wd hdr 0, w1 := wd hdr 1, w2 := wd hdr 2, w3 := wd hdr 3, data := data }
  else s.modPort p (fun q => { q with assembly := q.assembly.set ix (hdr, data) })

/-- A good DATA flit: accepted when it is the one awaited, discarded otherwise (R271). -/
def dataFlit (s : State) (p : Nat) (f : Flit) : State :=
  let s := goodFlit s p f
  if flitSeq f = (s.port p).expect then
    joinFlit (s.modPort p (fun q => { q with expect := q.expect + 1, nakSent := false })) p f
  else s

/-- DATA: a flit of this type, or one whose type is undefined, which is discarded with a NAK (R271). -/
def execData (p : PortIx) (f : Flit) (s : State) : Host.Outcome State Fault Refusal :=
  .next (if portHears s p.val = false then s
  else if flitGood f = false ∨ 3 < flitType f then badFlit s p.val f
  else if flitType f = 1 ∧ portLinked s p.val then flitTime (dataFlit s p.val f) p.val
  else s)

/-- A NAK: every unacknowledged flit is sent again in order; the sixteenth replay in a row of one sequence number declares the link down
(R271, R272). -/
def nakFlit (s : State) (p : Nat) (f : Flit) : State :=
  let s := goodFlit s p f
  let q := s.port p
  if q.replay.isEmpty then s
  else
    let s := count (s.modPort p (fun x => { x with replays := x.replays + 1 })) (spejanOcc s p 0x051 q.replay.length)
    if 16 ≤ q.replays + 1 ∧ s.portUp p then linkDown s p 1 else s

/-- NAK. -/
def execNak (p : PortIx) (f : Flit) (s : State) : Host.Outcome State Fault Refusal :=
  .next (if portHears s p.val = false then s
  else if flitGood f = false then badFlit s p.val f
  else if flitType f = 2 ∧ portLinked s p.val then flitTime (nakFlit s p.val f) p.val
  else s)

/-! ## Training (R288, R290, R291, R296) -/

/-- The first word of a TRAIN flit's body (Table 12 of 10_spejan.md). -/
def trainWord (f : Flit) : W64 := wordAt (padTo 240 f.body) 0
def trainIntent (f : Flit) : Nat := bits (trainWord f) 44 43

/-- A TRAIN flit that its receiver takes: a defined intent and no reserved bit set. -/
def trainOk (f : Flit) : Bool :=
  trainIntent f < 2 && bits (trainWord f) 41 0 == 0 && (padTo 240 f.body).drop 8 == List.replicate 232 0 && bits f.link 59 48 == 0
    && bits f.link 11 0 == 0 && f.tail == 0

/-- Intent DISABLE: the port goes to OFF without a record and keeps its receivers listening (R296). -/
def farDisable (s : State) (p : Nat) : State :=
  let q := s.port p
  if q.state = .disabling then finishDisable s p
  else rerouteQueue (s.modPort p (fun x => { x with state := .off, listening := true, replay := [] })) p

/-- The identity check of a port in training: a mismatch is recorded once an attempt, a match lets the port be ready, and it comes UP
once the other end is ready too (R288, R296). -/
def identityCheck (s : State) (p : Nat) (f : Flit) : State :=
  let w := trainWord f
  let q := s.port p
  let dev := bits w 63 49
  let port := bits w 48 45
  let seen : Port → Port := fun x => { x with seenDevice := BitVec.ofNat 15 dev, seenPort := BitVec.ofNat 4 port }
  if dev = bits (portCfg s p) 63 49 ∧ port = bits (portCfg s p) 48 45 then
    let s := sendTrain (s.modPort p (fun x => { (seen x) with wiringError := false, ready := true })) p 0
    if bitAt w 42 then (s.modPort p (fun x => x.enter s.now)).pump p else s
  else if q.checkFailed then s.modPort p seen
  else
    let s := s.modPort p (fun x => { (seen x) with wiringError := true, ready := false, checkFailed := true })
    raiseError s { cls := 0x06, sev := sevUnit, unit := 0x40 + p, item := none, ctx := none,
                   detail := [wordOf [⟨16, 4, port⟩, ⟨0, 15, dev⟩]] }

/-- TRAIN. -/
def execTrain (p : PortIx) (f : Flit) (s : State) : Host.Outcome State Fault Refusal :=
  .next (if portHears s p.val = false then s
  else if flitGood f = false ∨ (flitType f = 3 ∧ trainOk f = false) then badFlit s p.val f
  else if flitType f ≠ 3 then s
  else if trainIntent f = 1 then farDisable s p.val
  else if s.portUp p.val then linkDown s p.val 2
  else if (s.port p.val).state = .training then identityCheck s p.val f
  else s)

/-- LINK_DOWN_TIMEOUT: no flit with a good CRC for 8 µs on a port in service (R272). -/
def execLinkDownTimeout (p : PortIx) (s : State) : Host.Outcome State Fault Refusal :=
  .next (if s.up ∧ s.portUp p.val then linkDown (s.upTo ((s.port p.val).lastGood + 8000)) p.val 0 else s)

/-- PORT_RETRAIN_TIMEOUT: an attempt has not reached UP within 300 ms; after the third the port is FAILED, with a record (R290). -/
def execPortRetrainTimeout (p : PortIx) (s : State) : Host.Outcome State Fault Refusal :=
  .next (
    let q := s.port p.val
    if s.up ∧ (q.state = .training ∨ q.state = .down) then
      let s := s.upTo (q.downAt + 300000000)
      if q.attempts < 3 then s.modPort p.val (fun x => x.train s.now (x.attempts + 1))
      else
        raiseError (s.modPort p.val (fun x => { x with state := .failed, fecLocked := false, ready := false }))
          { cls := 0x05, sev := sevUnit, unit := 0x40 + p.val, item := none, ctx := none, detail := [BitVec.ofNat 64 q.attempts] }
    else s)

/-- PORT_DISABLE_TIMEOUT: a disabling port has waited 20 µs for its acks (R291). -/
def execPortDisableTimeout (p : PortIx) (s : State) : Host.Outcome State Fault Refusal :=
  .next (if s.up ∧ (s.port p.val).state = .disabling then finishDisable (s.upTo ((s.port p.val).downAt + 20000)) p.val else s)

/-- FEC_LOCK: the receiver of a training port has adapted and locked, and TRAIN flits begin (Table 7 of 10_spejan.md). -/
def execFecLock (p : PortIx) (s : State) : Host.Outcome State Fault Refusal :=
  .next (if s.up ∧ ((s.port p.val).state = .training ∨ (s.port p.val).state = .down) then
    sendTrain (s.modPort p.val (fun q => { q with state := .training, fecLocked := true })) p.val 0
  else s)

/-- TRAINING_PATTERN_RECEIVED: the other end of a port that a DISABLE took to OFF begins training again (R296). -/
def execTrainingPatternReceived (p : PortIx) (s : State) : Host.Outcome State Fault Refusal :=
  .next (if s.up ∧ (s.port p.val).state = .off ∧ (s.port p.val).listening ∧ portRole s p.val ≠ 0 then
    s.modPort p.val (fun q => q.train s.now 1)
  else s)

/-! ## Whole packets (R273, R274) -/

/-- A packet of an opcode arrives whole on the main lane of its class, on a port in service. -/
def opArrive (s : State) (p : Nat) (k : Packet) (op : Nat) : State :=
  if portLinked s p ∧ pktOp k = op then packetArrive s p (opClass op) 0 k else s

/-- READ. -/
def execRead (p : PortIx) (k : Packet) (s : State) : Host.Outcome State Fault Refusal := .next (opArrive s p.val k opRead)

/-- WRITE. -/
def execWrite (p : PortIx) (k : Packet) (s : State) : Host.Outcome State Fault Refusal := .next (opArrive s p.val k opWrite)

/-- ATOMIC_REQUEST. -/
def execAtomicRequest (p : PortIx) (k : Packet) (s : State) : Host.Outcome State Fault Refusal := .next (opArrive s p.val k opAtomic)

/-- POISON (R503). -/
def execPoison (p : PortIx) (k : Packet) (s : State) : Host.Outcome State Fault Refusal := .next (opArrive s p.val k opPoison)

/-- READ_RSP. -/
def execReadRsp (p : PortIx) (k : Packet) (s : State) : Host.Outcome State Fault Refusal := .next (opArrive s p.val k opReadRsp)

/-- WRITE_ACK. -/
def execWriteAck (p : PortIx) (k : Packet) (s : State) : Host.Outcome State Fault Refusal := .next (opArrive s p.val k opWriteAck)

/-- ATOMIC_RSP (R229). -/
def execAtomicRsp (p : PortIx) (k : Packet) (s : State) : Host.Outcome State Fault Refusal := .next (opArrive s p.val k opAtomicRsp)

/-- RETRY (R232). -/
def execRetry (p : PortIx) (k : Packet) (s : State) : Host.Outcome State Fault Refusal := .next (opArrive s p.val k opRetry)

/-- FAULT (R273). -/
def execFault (p : PortIx) (k : Packet) (s : State) : Host.Outcome State Fault Refusal := .next (opArrive s p.val k opFault)

/-- COLL_DATA (R311). -/
def execCollData (p : PortIx) (k : Packet) (s : State) : Host.Outcome State Fault Refusal := .next (opArrive s p.val k opCollData)

/-- CRUSH_DATA (R293). -/
def execCrushData (p : PortIx) (k : Packet) (s : State) : Host.Outcome State Fault Refusal := .next (opArrive s p.val k opCrushData)

/-! ## Fabric messages by type (R297) -/

/-- The port at which a message's discard is counted when the command names none: the one that leads to its sender, port 0 where none does
(DESIGN CHOICE, notes/assumptions/99.md). -/
def msgPort (s : State) (m : FabMsg) : Nat := ((mainChoice s none m.src 3) <|> (escapeChoice s none m.src)).getD 0

/-- A message of a type at its destination. -/
def typeArrive (s : State) (m : FabMsg) (typ : Nat) (f : State → FabMsg → State) : State :=
  if s.up = false then s
  else if msgOk m = false then discardPacket s (msgPort s m)
  else if msgType m = typ ∧ live s then f s m
  else s

/-- NOT_USED (R316). -/
def execNotUsed (m : FabMsg) (s : State) : Host.Outcome State Fault Refusal := .next (typeArrive s m 0x01 notUsedArrive)

/-- CRUSH_DONE (R323). -/
def execCrushDone (m : FabMsg) (s : State) : Host.Outcome State Fault Refusal := .next (typeArrive s m 0x02 crushDoneArrive)

/-- FOLD_NOTICE (R426). -/
def execFoldNotice (m : FabMsg) (s : State) : Host.Outcome State Fault Refusal := .next (typeArrive s m 0x03 foldNoticeArrive)

/-- CLOSE_REPORT (R428). -/
def execCloseReport (m : FabMsg) (s : State) : Host.Outcome State Fault Refusal := .next (typeArrive s m 0x04 closeReportArrive)

/-! ## Escapes, stalls and timeouts -/

/-- Heads of a lane that have no credit for their whole length, the one that has waited longest first. -/
def stalledHeads (q : Port) (cls lane : Nat) : List LanePacket :=
  sortOn LanePacket.since (((List.range 17).filterMap (laneHead q cls lane)).filter (fun x =>
    q.credits.getD (laneIx cls lane) 0 < flitCount x.packet))

/-- A packet taken out of the queue of a port; the next of its source heads the lane from now on. -/
def unqueue (s : State) (p : Nat) (x : LanePacket) : State :=
  let renew : LanePacket → LanePacket := fun y => if y.cls = x.cls ∧ y.lane = x.lane ∧ y.source = x.source then { y with since := s.now } else y
  s.modPort p (fun q => { q with queue := (eraseFirst (fun y => y == x) q.queue).map renew })

/-- The port that a waiting packet arrived on. -/
def arrivedOn (x : LanePacket) : Option Nat := if x.source = 16 then none else some x.source

/-- Another main choice of a packet's route with credit for its whole length. -/
def otherMain (s : State) (p : Nat) (x : LanePacket) : Option Nat :=
  let e := routeEntry s (pktDst x.packet)
  (List.range 16).find? (fun n => n != p && e.getLsbD (16 + n) && usable s (arrivedOn x) n
    && decide ((flitCount x.packet : Int) ≤ freeCredits (s.port n) x.cls 0))

/-- A packet that has waited escape_wait on its main lane takes another main choice that has credit, else the escape lane of its class
(R280, R283). -/
def leaveMain (s : State) (p : Nat) (x : LanePacket) : State := match otherMain s p x with
  | some n => enqueue (unqueue s p x) n { x with lane := 0 }
  | none => match escapeChoice s (arrivedOn x) (pktDst x.packet) with
    | some n => enqueue (unqueue s p x) n { x with lane := escapeLane s none n }
    | none => s

/-- ESCAPE_WAIT_EXPIRY (R280). -/
def execEscapeWaitExpiry (p : PortIx) (cls : Fin 4) (s : State) : Host.Outcome State Fault Refusal :=
  .next (if s.up ∧ s.portUp p.val then
    match stalledHeads (s.port p.val) cls.val 0 with
    | x :: _ => leaveMain (s.upTo (x.since + bits s.cfg.spejan 23 12 * 100)) p.val x
    | [] => s
  else s)

/-- STALL_LIMIT_EXPIRY: an escape lane's head that has waited stall_limit without credit is discarded and recorded (R285). -/
def execStallLimitExpiry (p : PortIx) (cls : Fin 4) (lane : Fin 3) (s : State) : Host.Outcome State Fault Refusal :=
  .next (if s.up ∧ s.portUp p.val ∧ lane.val ≠ 0 then
    match stalledHeads (s.port p.val) cls.val lane.val with
    | x :: _ =>
      let s := unqueue (s.upTo (x.since + bits s.cfg.spejan 39 24 * 1000)) p.val x
      let s := s.modPort p.val (fun q => { q with stallDiscards := satInc q.stallDiscards })
      (discardRecord (owePacket s x) p.val x.packet true).pump p.val
    | [] => s
  else s)

/-- RESP_TIMEOUT: a request has had no response within resp_timeout of its issue or its last reissue (R250, R275). -/
def execRespTimeout (reqId : BitVec 16) (s : State) : Host.Outcome State Fault Refusal :=
  .next (match requestOf s reqId.toNat with
    | some q =>
      if s.up ∧ q.retry = false ∧ pktDst q.packet ≠ s.deviceNumber then
        endRequest (s.upTo (q.issued + bits s.cfg.spejan 55 40 * 10000)) q codeUnreachable
      else s
    | none => s)

end Sys2Proof.Machine
end

