-- ==== Sys2Proof/Machine/Integrity.lean ====
section
/-! DEFINITION. The clock monitor, the Gatehouse comparator and the error drain (R405 to R418). -/

namespace Sys2Proof.Machine

/-! ## The clock monitor (R406, R417) -/

/-- When a clock's window last passed. -/
def lastPassed (s : State) (k : ClockId) : Nat := match s.hearth.clockPassed.find? (fun p => p.1 == k) with
  | some p => p.2
  | none => 0

/-- An item has a row, stage or Bench work on a die now: a row in the array or on its way through the stage units, a chain without products, a core
of its own, or collective work on the cores that collectives hold there. -/
def worksOn (s : State) (d : Nat) (i : Item) : Bool :=
  let faces := [s.face (2 * d), s.face (2 * d + 1)]
  faces.any (fun f => f.inFlight.any (fun x => x.stream.item == i.ref && !x.entries.isEmpty) || f.closed.any (fun c => c.item == i.ref))
    || (i.die == some d && i.sequencer.isSome && (chainD i.words).matmuls.isEmpty)
    || (s.die d).cores.any (fun c => c.owner == .item i.ref)
    || (collWorks s d i && 0 < collHeld s d)

/-- Items that have not ended and have had a row, stage or Bench work on a die since a clock's window last passed (Table 4 of
15_integrity.md). -/
def dieItems (s : State) (d : Nat) (k : ClockId) : List Item :=
  s.items.filter (fun i => !i.over && (worksOn s d i || i.work.any (fun w => w.1 == d && lastPassed s k ≤ w.2)))

/-- A die leaves its lost generator: for its other adjustable one when that is locked, for the fixed 0.8 GHz one otherwise (R406), and never
to a level above its group's voltage (R376). A generator
that the die does not run on only fails to lock. -/
def leaveGenerator (s : State) (d g : Nat) : State :=
  let x := s.die d
  if x.generator ≠ g then s.modDie d (fun y => if y.target = y.level then y else { y with locked := false, locking := true })
  else if x.locked = true ∧ x.target ≠ 5 ∧ levelVid x.target ≤ (s.powerGroup (groupOf d)).vid.toNat then
    s.modDie d (fun y => { y with level := y.target, locked := false, locking := false, generator := 1 - g })
  else s.modDie d (fun y => { y with level := 5, target := 5, locked := false, locking := false, generator := 2 })

/-- Unit and severity of a clock loss's record (R409). -/
def clockUnit : ClockId → Nat
  | .faceGen d _ | .pantry d | .bench d => d.val
  | .mesh n => dieUnit n
  | .cellar k => 0x30 + k.val
  | .gatehouse b => if b then 0x59 else 0x58
  | .linkPort p => 0x40 + p.val
  | .linkPorch => 0x50
  | .refCore | .refSerdes | .sill => 0xFF

/-- A clock whose loss sends the device to the safe state (R406). -/
def clockFatal : ClockId → Bool
  | .faceGen _ _ | .refSerdes | .linkPort _ | .linkPorch => false
  | _ => true

/-- The code with which an item ends when a clock loss sends the device to the safe state: CLOCK_LOSS for those it reaches (R412). -/
def clockCode (s : State) (k : ClockId) (i : Item) : Nat :=
  let reached : Bool := match k with
    | .refCore => true
    | .mesh n => decide (n < 64) && (dieItems s (n % 32) k).any (fun j => j.ref == i.ref)
    | .pantry d | .bench d => (dieItems s d.val k).any (fun j => j.ref == i.ref)
    | _ => false
  if reached then codeClockLoss else codeSafeState

/-- What a clock loss does after its record (R406, R417). -/
def clockLost (s : State) (k : ClockId) (err : Nat) : State := match k with
  | .faceGen d g =>
    if g.val = 2 then s
    else
      let hit := if (s.die d.val).generator = g.val then dieItems s d.val k else []
      let s := withCaps s (fun s => leaveGenerator s d.val g.val)
      endMany s (hit.map (fun i => (i.ref, .failedFault, codeClockLoss, failAux i (some err))))
  | .refSerdes => porchDown ((List.range 16).foldl (fun s p => if s.portUp p then linkDown s p 0 else s) s)
  | .linkPort p => if s.portUp p.val then linkDown s p.val 0 else s
  | .linkPorch => porchDown s
  | _ =>
    let gone : Bool := match k with
      | .refCore | .gatehouse _ => true
      | _ => false
    let s := s.modHearth (fun h => { h with stopped := h.stopped ++ [k] })
    let code := clockCode s k
    let s := { s with boot := { s.boot with comparatorStopped := s.boot.comparatorStopped || gone } }
    enterSafe s code err

/-- A count outside clock_tol percent of the expected one (R406, SAFETY_CFG). -/
def clockOffBy (s : State) (count expected : Nat) : Bool :=
  let apart := (count - expected) + (expected - count)
  decide (bits s.cfg.safety 15 8 * expected < 100 * apart)

/-- CLOCK_MONITOR_WINDOW: a clock's edges in a window of 1 µs; two windows in a row outside the tolerance are a clock loss (R406). A clock that has
stopped is lost once. -/
def execClockMonitorWindow (k : ClockId) (number : Byte) (count expected : Nat) (s : State) : Host.Outcome State Fault Refusal :=
  .next (if s.up = false ∨ s.hearth.stopped.contains k then s
  else if clockOffBy s count expected = false then
    s.modHearth (fun h => { h with
      clockOff := h.clockOff.filter (· != k), clockPassed := upsert (fun p => p.1 == k) (k, s.now) h.clockPassed })
  else if s.hearth.clockOff.contains k = false then s.modHearth (fun h => { h with clockOff := h.clockOff ++ [k] })
  else
    let n := s.nextError
    let t := raiseError s
      { cls := 0x09, sev := if clockFatal k then sevDevice else sevUnit, unit := clockUnit k, item := none, ctx := none,
        detail := [BitVec.ofNat 64 number.toNat, BitVec.ofNat 64 count] }
    clockLost (t.modHearth (fun h => { h with clockOff := h.clockOff.filter (· != k) })) k n)

/-! ## The Gatehouse comparator (R407) -/

/-- GATEHOUSE_MISMATCH: an output of one Gatehouse has stayed unmatched for 10 µs; the comparator releases nothing more and the device
enters the safe state (R407, R412). -/
def execGatehouseMismatch (seq : W64) (s : State) : Host.Outcome State Fault Refusal :=
  .next (if s.up ∧ s.boot.comparatorStopped = false then
    let t := raiseError s { cls := 0x0A, sev := sevDevice, unit := 0xFF, item := none, ctx := none, detail := [seq] }
    enterSafe { t with boot := { t.boot with comparatorStopped := true } } (fun _ => codeMismatch) s.nextError
  else s)

/-! ## Draining error records (R411) -/

/-- ERROR_DRAIN_TIMER: the oldest waiting error record is 50 µs old. -/
def execErrorDrainTimer (s : State) : Host.Outcome State Fault Refusal :=
  .next (if s.up ∧ s.errors.drained < s.errors.count ∧ errorDrainInFlight s = false then drainErrors (s.upTo (s.errors.oldestAt + 50000)) else s)

end Sys2Proof.Machine
end

