-- ==== Sys2Proof/Machine/Release.lean ====
section
/-! DEFINITION. The release of compute-domain resets and the variants applied at it (R359, R361, R367, R368, R370, R373). -/

namespace Sys2Proof.Machine

/-- Queue pairs whose records change are reset to their new PSNs once what they held is reported; the others keep their state (R331, R359,
R370). -/
def changeQps (s : State) (old new : Cfg) : State :=
  let same (x : Nat) : Bool := old.qps.find? (fun k => k.index == x) == new.qps.find? (fun k => k.index == x)
  let changed := s.porch.qps.filter (fun q => !same q.index)
  let s := changed.foldl (fun s q => reportUnreachable s q.index) s
  { s with porch := { s.porch with
      waiting := s.porch.waiting.filter (fun w => match w.out.qp with
        | some q => same q
        | none => true)
      qps := new.qps.map (fun k => match s.porch.qps.find? (fun q => q.index == k.index), same k.index with
        | some q, true => q
        | _, _ => qpFresh new k k.txPsn k.rxPsn) } }

/-- The regulators with full buckets of a new depth; what waits in them goes on waiting (R223, R224). -/
def refilled (s : State) (c : Cfg) : List (List Regulator) :=
  (s.memory.regulators.zip (regulatorsOf c s.now)).map (fun (o, n) => (o.zip n).map (fun (x, y) => { y with waiting := x.waiting, credit := x.credit }))

/-- Pantry dies on which an allocation or a resident region moves or shrinks (R213). -/
def pantryMoves (old new : Cfg) : List Nat :=
  (List.range 32).filter (fun d =>
    let allocs (c : Cfg) := (c.ctxs.filter (fun x => x.dieSet.getLsbD d)).map (fun x => (x.index, x.pantryAlloc))
    let res (c : Cfg) := (c.regions.filter (fun r => pantryBase ≤ r.base && (r.base - pantryBase) / pantrySize ≤ d
      && d ≤ (r.base + r.size - 1 - pantryBase) / pantrySize)).map (fun r => (r.base, r.size))
    allocs old != allocs new || res old != res new)

/-- The resident regions of a die's Pantry that a new configuration leaves as they were. -/
def keptRanges (old new : Cfg) (d : Nat) : List (Nat × Nat) :=
  residentRanges { old with regions := old.regions.filter (fun r => new.regions.contains r) } d

/-- The Pantries of the given dies with every byte zeroed but those of resident regions that stay as they were: it is zeroed before
another owner has it (R213). -/
def zeroReleased (old new : Cfg) (dies : List Nat) (m : Memory) : Memory :=
  { m with
    pantry := (m.pantry.zip (List.range 32)).map (fun (p, d) => if dies.contains d then bytesIn (keptRanges old new d) p else p)
    stale := (List.range 32).flatMap (fun d =>
      if dies.contains d then staleIn m.stale d (keptRanges old new d) else m.stale.filter (fun r => r.die == d)) }

/-- The records of a variant applied in every domain (R359): the routing table swaps, changed ports are disabled and retrained, a
FAILED one trains again (R290), changed queue pairs take their new PSNs, released Pantry bytes are zeroed. A port mode or medium of the Porch
that changes takes effect as its link trains anew (R325; notes/assumptions/119.md). -/
def applyVariant (s : State) (v : BitVec 4) : State :=
  let old := s.cfg
  let new := echoConfig s.gate.echo s.boot.boardPos.toNat v.toNat
  let moves := pantryMoves old new
  let s := changeQps s old new
  let s := { s with
    cfg := new
    boot := { s.boot with variant := v }
    porch := if bits old.porch 49 48 = bits new.porch 49 48 ∨ s.porch.link = 0 then s.porch
      else { s.porch with link := 1, trainAt := s.now }
    memory := { zeroReleased old new moves s.memory with
      releasing := (s.memory.releasing.zip (List.range 32)).map (fun (r, d) =>
        if moves.contains d then (if r.1 = 0 then (s.now + 1048576, false) else (r.1, true)) else r)
      regulators := if old.regCfg = new.regCfg then s.memory.regulators else refilled s new } }
  pfcUpdate <|
  (List.range 16).foldl (fun s p =>
    if old.portCfg.getD p 0 = new.portCfg.getD p 0 then
      if (s.ports.getD p Port.cold).state = .failed ∧ bits (new.portCfg.getD p 0) 35 34 ≠ 0 then enablePort s p else s
    else
      let t := disablePort s p
      if bits (new.portCfg.getD p 0) 35 34 = 0 then t else enablePort t p) s

/-- The contexts reopen with a new generation: gen and head by R156, pins released, period 0 to come (R154, R367, R368). -/
def reopenContexts (s : State) : State :=
  let s := (List.range 48).foldl (fun s c => if (s.ctxCfg c).isSome then releasePins s c else s) s
  { s with ctxs := s.ctxs.map (fun x =>
      { advanceGen x with resetting := false, period := 0, periodAt := 0, started := false, polls := 0, readPending := false,
                          firstReturned := false, intakeClosed := false }) }

/-- Firmware classes whose cores the compute domain holds: Bench cores, chain sequencers and die managers (R18, R344, R360). -/
def computeClasses : List Nat := [1, 2, 3]

/-- The firmware classes of which a core still differs after the third delivery at the next release. -/
def State.releaseBad (s : State) : List Nat := (s.boot.inputs.elim [] ColdInputs.releaseBad).headD []

/-- A release is under way: the next one has deliveries of its own. -/
def State.takeRelease (s : State) : State :=
  { s with boot := { s.boot with inputs := s.boot.inputs.map (fun i => { i with releaseBad := i.releaseBad.drop 1 }) } }

/-- The release of a compute-domain reset at a time: write-backs abandoned, the variant applied, the defect map and the firmware
check, crossings resynchronised, contexts and the Ledger reopened 270 ms later (R367, R368, R373). A core whose firmware still differs after
the third delivery puts the device in NO_IMAGE (R349, R361). How many crossings
resynchronise, and how many entries of no item they discard, is not stated: free values, at least 1 crossing (notes/assumptions/58.md). -/
def releaseCReset (s : State) (r : CReset) (at_ : Nat) : State :=
  let bad := s.releaseBad
  let s := resetPantries (abandonWriteBacks ((s.upTo at_).takeRelease))
  let s := match r.variant with
    | some v => withCaps s (fun s => applyVariant s v)
    | none => s
  let s := applyDefectMap s (s.now + 20000000)
  if bad.any (fun c => computeClasses.contains c && s.cfg.fwVersions.any (fun v => v.1 == c)) then enterNoImage s (s.now + 250000000) 0x0A
  else
  let (f, s) := s.takeFree
  let (g, s) := s.takeFree
  let s := { s with
    boot := { s.boot with creset := none, crossingResyncs := satAdd s.boot.crossingResyncs (1 + (Config.arbitrary f).toNat),
                          crossingDiscarded := satAdd s.boot.crossingDiscarded (Config.arbitrary g).toNat }
    banks := (s.banks.zip (List.range 100)).map (fun (b, i) => if i < 64 then Bank.cold else b)
    colls := [], collNext := [], lateCopies := [] }
  let s := reopenContexts s
  let s := s.upTo (s.now + 270000000)
  { s with t0 := s.now / 10 }

/-- COMPUTE_RST_N_DEASSERT: release at 150 ms, or now when that is later (R367, R370). -/
def execComputeRstDeassert (s : State) : Host.Outcome State Fault Refusal :=
  .next (match s.boot.phase, s.boot.creset with
    | .railWait, _ => { s with boot := { s.boot with cresetLatched := s.boot.cresetLatched.map (fun _ => false) } }
    | .running, some r =>
      if r.pin ∧ s.boot.safe = false then releaseCReset s r (r.since + 150000000) else s
    | _, _ => s)

/-- GATEHOUSE_RESET_RELEASE: a reset that the Gatehouse issued releases itself at 150 ms (R366). -/
def execGatehouseResetRelease (s : State) : Host.Outcome State Fault Refusal :=
  .next (match s.boot.phase, s.boot.creset with
    | .running, some r => if r.pin = false ∧ s.boot.safe = false then releaseCReset s r (r.since + 150000000) else s
    | _, _ => s)

end Sys2Proof.Machine
end

