-- ==== Sys2Proof/Machine/Rerun.lean ====
section
/-! DEFINITION. An access that waited on an earlier item's span proceeds (R253). -/

namespace Sys2Proof.Machine

/-- The state of an outcome; the state before it where there is none. -/
def nextOr (s : State) : Host.Outcome State Fault Refusal → State
  | .next t => t
  | _ => s

/-- The commands that issue the accesses of an item of a kind: the one of its operation acts, the others leave the state. -/
def issuers (kind : Nat) : List (CtxIx → Nat → State → Host.Outcome State Fault Refusal) :=
  if kind = kChain then [execChain]
  else if kind = kHaul then [execCopy, execTranspose, execGather, execScatter, execFill, execAtomic]
  else if kind = kColl then [execReduceScatter, execAllGather, execAllReduce, execBroadcast, execAllToAll, execNormAllreduce]
  else if kind = kBench then [execNormBwd, execSoftmaxBwd, execRowStats, execRubbleEncode, execRubbleDecode, execCopyRound]
  else if kind = kUpdate then [execUpdate, execUpdateCommit]
  else if kind = kSnap then [execSecure, execPriv, execClose, execEval, execRestore]
  else []

/-- The accesses of an item that its spans no longer hold back go on. -/
def goOn (s : State) (c : CtxIx) (seq : Nat) (i : Item) : State :=
  let s := (issuers (kindOf i.words)).foldl (fun s f => nextOr s (f c seq s)) s
  nextOr s (execFlaggedFinalWriteIssue c seq s)

/-- SPAN_CONFLICT_CLEARED: the item's accesses that no earlier item of its context holds back any longer go on (R253). -/
def execSpanConflictCleared (c : CtxIx) (seq : Nat) (s : State) : Host.Outcome State Fault Refusal :=
  .next (match s.item ⟨c.val, seq⟩ with
    | some i => if live s ∧ i.over = false then goOn (goStaged s i.ref) c seq i else s
    | none => s)

end Sys2Proof.Machine
end

