-- ==== Sys2Proof/Machine/Tick.lean ====
section
/-! DEFINITION. The tick of the control loop (R380 to R382). -/

namespace Sys2Proof.Machine

/-- Stacks that start-up left out of service begin to retrain (R348). -/
def startRetrains (s : State) : State :=
  s.modMem (fun m => { m with hbmStacks := m.hbmStacks.map (fun k =>
    if k.service = 2 ∧ k.attempts = 1 then { k with service := 1, retrainAt := s.now } else k) })

/-- CONTROL_TICK: once per ms (R380). With it come the answers that waited (notes/assumptions/118.md). -/
def execControlTick (s : State) : Host.Outcome State Fault Refusal :=
  .next (if s.up then
    let s := startRetrains (deliverServed s)
    let s := s.upTo (s.hearth.tickAt + 1000000)
    withCaps s (fun s =>
      let h := s.hearth
      let recent := h.senseSum * 1000 / Nat.max 1 h.senseCount
      let history := (recent :: h.history).take (windowMs s)
      let avg := averageMw s history
      let h := alertStep (sustainedStep s avg recent { h with
        history := history, senseSum := 0, senseCount := 0, tickAt := s.now, powerAvg := avg / 1000, powerRecent := recent / 1000 })
      let t := { s with hearth := { h with boostOk := boostPermitted s avg } }
      count t (Occ.firmware 99 0x071 t.now))
  else s)

end Sys2Proof.Machine
end

