-- ==== Sys2Proof/Machine/Dispatch.lean ====
section
/-! DEFINITION. exec: one arm for each command, each a direct call of its meaning. -/

namespace Sys2Proof.Machine

/-- The effect of a command on everything but the queue. -/
def exec (i : Instr) (s : State) : Host.Outcome State Fault Refusal :=
  match i with
  | .porAssert => Sys2Proof.Machine.execPorAssert s
  | .coldStart inp => Sys2Proof.Machine.execColdStart inp s
  | .xspiRelease => Sys2Proof.Machine.execXspiRelease s
  | .computeRstAssert => Sys2Proof.Machine.execComputeRstAssert s
  | .computeRstDeassert => Sys2Proof.Machine.execComputeRstDeassert s
  | .gatehouseResetRelease => Sys2Proof.Machine.execGatehouseResetRelease s
  | .periodStart c => Sys2Proof.Machine.execPeriodStart c s
  | .periodEnd c => Sys2Proof.Machine.execPeriodEnd c s
  | .poll c => Sys2Proof.Machine.execPoll c s
  | .controlBlockReadReturn c => Sys2Proof.Machine.execControlBlockReadReturn c s
  | .schedulerRound u => Sys2Proof.Machine.execSchedulerRound u s
  | .deterministicRound u => Sys2Proof.Machine.execDeterministicRound u s
  | .chain c seq => Sys2Proof.Machine.execChain c seq s
  | .faceOperationIssue f r0 r1 => Sys2Proof.Machine.execFaceOperationIssue f r0 r1 s
  | .loadComplete f => Sys2Proof.Machine.execLoadComplete f s
  | .rowEmerge f bad => Sys2Proof.Machine.execRowEmerge f bad s
  | .confirmWindowExpiry f => Sys2Proof.Machine.execConfirmWindowExpiry f s
  | .checkAdvance f => Sys2Proof.Machine.execCheckAdvance f s
  | .replayComplete f => Sys2Proof.Machine.execReplayComplete f s
  | .rampDownBegin f => Sys2Proof.Machine.execRampDownBegin f s
  | .rampColumnStep f => Sys2Proof.Machine.execRampColumnStep f s
  | .rampDownComplete f => Sys2Proof.Machine.execRampDownComplete f s
  | .rampUpComplete f => Sys2Proof.Machine.execRampUpComplete f s
  | .loadPieceDispatch l k arrival => Sys2Proof.Machine.execLoadPieceDispatch l k arrival s
  | .enginePieceComplete l k engine => Sys2Proof.Machine.execEnginePieceComplete l k engine s
  | .engineClockStop l k engine => Sys2Proof.Machine.execEngineClockStop l k engine s
  | .pinRetry c seq => Sys2Proof.Machine.execPinRetry c seq s
  | .pinReleaseRetry c => Sys2Proof.Machine.execPinReleaseRetry c s
  | .update c seq => Sys2Proof.Machine.execUpdate c seq s
  | .normCellPoll c seq => Sys2Proof.Machine.execNormCellPoll c seq s
  | .updateClaimPoll c seq => Sys2Proof.Machine.execUpdateClaimPoll c seq s
  | .updateCommit c seq => Sys2Proof.Machine.execUpdateCommit c seq s
  | .copy c seq => Sys2Proof.Machine.execCopy c seq s
  | .transpose c seq => Sys2Proof.Machine.execTranspose c seq s
  | .gather c seq => Sys2Proof.Machine.execGather c seq s
  | .scatter c seq => Sys2Proof.Machine.execScatter c seq s
  | .fill c seq => Sys2Proof.Machine.execFill c seq s
  | .atomic c seq => Sys2Proof.Machine.execAtomic c seq s
  | .normBwd c seq => Sys2Proof.Machine.execNormBwd c seq s
  | .softmaxBwd c seq => Sys2Proof.Machine.execSoftmaxBwd c seq s
  | .rowStats c seq => Sys2Proof.Machine.execRowStats c seq s
  | .rubbleEncode c seq => Sys2Proof.Machine.execRubbleEncode c seq s
  | .rubbleDecode c seq => Sys2Proof.Machine.execRubbleDecode c seq s
  | .copyRound c seq => Sys2Proof.Machine.execCopyRound c seq s
  | .benchCoreStop d core => Sys2Proof.Machine.execBenchCoreStop d core s
  | .benchCoreWake d core => Sys2Proof.Machine.execBenchCoreWake d core s
  | .benchQuantum d core replay => Sys2Proof.Machine.execBenchQuantum d core replay s
  | .reduceScatter c seq => Sys2Proof.Machine.execReduceScatter c seq s
  | .allGather c seq => Sys2Proof.Machine.execAllGather c seq s
  | .allReduce c seq => Sys2Proof.Machine.execAllReduce c seq s
  | .broadcast c seq => Sys2Proof.Machine.execBroadcast c seq s
  | .allToAll c seq => Sys2Proof.Machine.execAllToAll c seq s
  | .normAllreduce c seq => Sys2Proof.Machine.execNormAllreduce c seq s
  | .versionedGatherCommit c seq => Sys2Proof.Machine.execVersionedGatherCommit c seq s
  | .chunkDeadline c seq chunk => Sys2Proof.Machine.execChunkDeadline c seq chunk s
  | .fenceWrite c seq => Sys2Proof.Machine.execFenceWrite c seq s
  | .fenceAcquire c seq => Sys2Proof.Machine.execFenceAcquire c seq s
  | .fenceFull c seq => Sys2Proof.Machine.execFenceFull c seq s
  | .hint c seq => Sys2Proof.Machine.execHint c seq s
  | .hintPhaseStart c seq => Sys2Proof.Machine.execHintPhaseStart c seq s
  | .hintPhaseEnd c seq => Sys2Proof.Machine.execHintPhaseEnd c seq s
  | .note c seq => Sys2Proof.Machine.execNote c seq s
  | .pinRelease c seq => Sys2Proof.Machine.execPinRelease c seq s
  | .publish c seq => Sys2Proof.Machine.execPublish c seq s
  | .wait c seq => Sys2Proof.Machine.execWait c seq s
  | .markWaitPoll c seq => Sys2Proof.Machine.execMarkWaitPoll c seq s
  | .secure c seq => Sys2Proof.Machine.execSecure c seq s
  | .priv c seq => Sys2Proof.Machine.execPriv c seq s
  | .close c seq => Sys2Proof.Machine.execClose c seq s
  | .eval c seq => Sys2Proof.Machine.execEval c seq s
  | .restore c seq => Sys2Proof.Machine.execRestore c seq s
  | .reform c seq => Sys2Proof.Machine.execReform c seq s
  | .spanConflictCleared c seq => Sys2Proof.Machine.execSpanConflictCleared c seq s
  | .flaggedFinalWriteIssue c seq => Sys2Proof.Machine.execFlaggedFinalWriteIssue c seq s
  | .itemEnd c seq => Sys2Proof.Machine.execItemEnd c seq s
  | .drainIntervalExpiry c => Sys2Proof.Machine.execDrainIntervalExpiry c s
  | .dropPoisonComplete c seq => Sys2Proof.Machine.execDropPoisonComplete c seq s
  | .larderAccess arrivals line ecc => Sys2Proof.Machine.execLarderAccess arrivals line ecc s
  | .regulatorGrant k arrivals => Sys2Proof.Machine.execRegulatorGrant k arrivals s
  | .retryReissue => Sys2Proof.Machine.execRetryReissue s
  | .patrolScrubRead st x => Sys2Proof.Machine.execPatrolScrubRead st x s
  | .stackTempRead st temp => Sys2Proof.Machine.execStackTempRead st temp s
  | .stackThrottleStepDown st => Sys2Proof.Machine.execStackThrottleStepDown st s
  | .dataEyeLockLoss st => Sys2Proof.Machine.execDataEyeLockLoss st s
  | .stackRetrainComplete x => Sys2Proof.Machine.execStackRetrainComplete x s
  | .stackRetrainTimeout st => Sys2Proof.Machine.execStackRetrainTimeout st s
  | .pantryReleaseComplete d => Sys2Proof.Machine.execPantryReleaseComplete d s
  | .idle p f => Sys2Proof.Machine.execIdle p f s
  | .data p f => Sys2Proof.Machine.execData p f s
  | .nak p f => Sys2Proof.Machine.execNak p f s
  | .train p f => Sys2Proof.Machine.execTrain p f s
  | .linkDownTimeout p => Sys2Proof.Machine.execLinkDownTimeout p s
  | .portRetrainTimeout p => Sys2Proof.Machine.execPortRetrainTimeout p s
  | .portDisableTimeout p => Sys2Proof.Machine.execPortDisableTimeout p s
  | .read p k => Sys2Proof.Machine.execRead p k s
  | .write p k => Sys2Proof.Machine.execWrite p k s
  | .atomicRequest p k => Sys2Proof.Machine.execAtomicRequest p k s
  | .poison p k => Sys2Proof.Machine.execPoison p k s
  | .readRsp p k => Sys2Proof.Machine.execReadRsp p k s
  | .writeAck p k => Sys2Proof.Machine.execWriteAck p k s
  | .atomicRsp p k => Sys2Proof.Machine.execAtomicRsp p k s
  | .retry p k => Sys2Proof.Machine.execRetry p k s
  | .fault p k => Sys2Proof.Machine.execFault p k s
  | .collData p k => Sys2Proof.Machine.execCollData p k s
  | .crushData p k => Sys2Proof.Machine.execCrushData p k s
  | .escapeWaitExpiry p cls => Sys2Proof.Machine.execEscapeWaitExpiry p cls s
  | .stallLimitExpiry p cls lane => Sys2Proof.Machine.execStallLimitExpiry p cls lane s
  | .respTimeout reqId => Sys2Proof.Machine.execRespTimeout reqId s
  | .notUsed m => Sys2Proof.Machine.execNotUsed m s
  | .crushDone m => Sys2Proof.Machine.execCrushDone m s
  | .foldNotice m => Sys2Proof.Machine.execFoldNotice m s
  | .closeReport m => Sys2Proof.Machine.execCloseReport m s
  | .imageFwdStart p m => Sys2Proof.Machine.execImageFwdStart p m s
  | .imageFwdData p m => Sys2Proof.Machine.execImageFwdData p m s
  | .imageFwdResult p m => Sys2Proof.Machine.execImageFwdResult p m s
  | .imageFwdTimeout p => Sys2Proof.Machine.execImageFwdTimeout p s
  | .rdmaWrite r bytes => Sys2Proof.Machine.execRdmaWrite r bytes s
  | .rdmaWriteWithImmediate r bytes imm => Sys2Proof.Machine.execRdmaWriteWithImmediate r bytes imm s
  | .rdmaRead r a => Sys2Proof.Machine.execRdmaRead r a s
  | .send m h => Sys2Proof.Machine.execSend m h s
  | .invalidRequest q h => Sys2Proof.Machine.execInvalidRequest q h s
  | .hostAck q a => Sys2Proof.Machine.execHostAck q a s
  | .hostNak q n => Sys2Proof.Machine.execHostNak q n s
  | .ackTimeout q => Sys2Proof.Machine.execAckTimeout q s
  | .cnp q => Sys2Proof.Machine.execCnp q s
  | .recIntervalExpiry q => Sys2Proof.Machine.execRecIntervalExpiry q s
  | .pfcPause prio xoff => Sys2Proof.Machine.execPfcPause prio xoff s
  | .arp ip mac => Sys2Proof.Machine.execArp ip mac s
  | .neighborSolicitation ip mac => Sys2Proof.Machine.execNeighborSolicitation ip mac s
  | .frameDiscard => Sys2Proof.Machine.execFrameDiscard s
  | .porchLinkDown => Sys2Proof.Machine.execPorchLinkDown s
  | .porchRetrainAttempt => Sys2Proof.Machine.execPorchRetrainAttempt s
  | .getIdentity m => Sys2Proof.Machine.execGetIdentity m s
  | .getNonce m => Sys2Proof.Machine.execGetNonce m s
  | .quote m => Sys2Proof.Machine.execQuote m s
  | .selectVariant m => Sys2Proof.Machine.execSelectVariant m s
  | .imageWrite m => Sys2Proof.Machine.execImageWrite m s
  | .imageData m => Sys2Proof.Machine.execImageData m s
  | .imageWriteAbandon => Sys2Proof.Machine.execImageWriteAbandon s
  | .qpReset m => Sys2Proof.Machine.execQpReset m s
  | .computeReset m => Sys2Proof.Machine.execComputeReset m s
  | .contextReset m => Sys2Proof.Machine.execContextReset m s
  | .stackRetrain m => Sys2Proof.Machine.execStackRetrain m s
  | .fenceClear m => Sys2Proof.Machine.execFenceClear m s
  | .safeState m => Sys2Proof.Machine.execSafeState m s
  | .rollbackRaise m => Sys2Proof.Machine.execRollbackRaise m s
  | .keyEnroll m => Sys2Proof.Machine.execKeyEnroll m s
  | .keyRevoke m => Sys2Proof.Machine.execKeyRevoke m s
  | .controlWrite m => Sys2Proof.Machine.execControlWrite m s
  | .ctxCtlReset w c => Sys2Proof.Machine.execCtxCtlReset w c s
  | .counterClear w die => Sys2Proof.Machine.execCounterClear w die s
  | .counterRun w die => Sys2Proof.Machine.execCounterRun w die s
  | .counterSelect w die program run => Sys2Proof.Machine.execCounterSelect w die program run s
  | .controlSpaceWrite q offset value => Sys2Proof.Machine.execControlSpaceWrite q offset value s
  | .i3cOffsetWrite offset => Sys2Proof.Machine.execI3cOffsetWrite offset s
  | .i3cRead => Sys2Proof.Machine.execI3cRead s
  | .extest => Sys2Proof.Machine.execExtest s
  | .controlTick => Sys2Proof.Machine.execControlTick s
  | .railSense r => Sys2Proof.Machine.execRailSense r s
  | .generatorLock d => Sys2Proof.Machine.execGeneratorLock d s
  | .voltageStep g => Sys2Proof.Machine.execVoltageStep g s
  | .droopDetect d mv => Sys2Proof.Machine.execDroopDetect d mv s
  | .droopClear d => Sys2Proof.Machine.execDroopClear d s
  | .droopHoldExpiry g => Sys2Proof.Machine.execDroopHoldExpiry g s
  | .regAlertAssert inp => Sys2Proof.Machine.execRegAlertAssert inp s
  | .alertHoldExpiry => Sys2Proof.Machine.execAlertHoldExpiry s
  | .powerFault inp => Sys2Proof.Machine.execPowerFault inp s
  | .dieTempRead t => Sys2Proof.Machine.execDieTempRead t s
  | .thermalCapStep d => Sys2Proof.Machine.execThermalCapStep d s
  | .thermalTrip unit temp => Sys2Proof.Machine.execThermalTrip unit temp s
  | .clockMonitorWindow k number count expected => Sys2Proof.Machine.execClockMonitorWindow k number count expected s
  | .gatehouseMismatch seq => Sys2Proof.Machine.execGatehouseMismatch seq s
  | .errorDrainTimer => Sys2Proof.Machine.execErrorDrainTimer s
  | .regAlertDeassert inp => Sys2Proof.Machine.execRegAlertDeassert inp s
  | .porchLinkUp => Sys2Proof.Machine.execPorchLinkUp s
  | .fecLock p => Sys2Proof.Machine.execFecLock p s
  | .trainingPatternReceived p => Sys2Proof.Machine.execTrainingPatternReceived p s
  | .railsInRange => Sys2Proof.Machine.execRailsInRange s

end Sys2Proof.Machine
end

