-- ==== Sys2Proof/Safety.lean ====
section
/-! DEFINITION. What has to hold of the machine whatever it is told to do: memory in canonical form, the counts of its
units, fuses that only ever burn, the safe state that only a cold start leaves, and a queue that only a step takes from. -/

namespace Sys2Proof.Machine

/-- Every byte memory of the device is in canonical form: the HBM3E, the Rubble tags and the 32 Pantries. -/
def Memory.Canon (m : Memory) : Prop :=
  m.hbm.Canonical ∧ m.tags.Canonical ∧ ∀ p ∈ m.pantry, p.Canonical

/-- The device has its units, whatever happens: 48 contexts (R153), 64 Faces and 32 Face dies (R17), 12 Landings, 16 Spejan
ports, 100 counter banks (R459) and one Pantry for each die. -/
def State.HasUnits (s : State) : Prop :=
  s.ctxs.length = 48 ∧ s.faces.length = 64 ∧ s.dies.length = 32 ∧ s.landings.length = 12 ∧ s.ports.length = 16 ∧
    s.banks.length = 100 ∧ s.memory.pantry.length = 32

/-- What every command leaves behind when it finds it. -/
def State.Sound (s : State) : Prop := s.memory.Canon ∧ s.HasUnits

/-- The floors of b are those of a with entries burned after them (R446). -/
def FloorsRise (a b : List (List (BitVec 32))) : Prop := ∀ n : Nat, (a.getD n []) <+: (b.getD n [])

/-- An owner slot that holds a key holds it for good (R456). -/
def KeysStay (a b : List (Option (BitVec 512))) : Prop := ∀ n k, a.getD n none = some k → b.getD n none = some k

/-- The fuses of b come from those of a by burning: identity and defect fuses are the same, no revoke bit clears, no floor
falls, no enrolled key changes (R81, R363, R441, R443, R446, R456). -/
structure FuseLe (a b : Fuses) : Prop where
  identity : b.serial = a.serial ∧ b.seed = a.seed ∧ b.certificate = a.certificate
  defects : b.faceExcluded = a.faceExcluded ∧ b.benchExcluded = a.benchExcluded ∧ b.pantryRemap = a.pantryRemap ∧ b.stackRows = a.stackRows
  owners : a.ownerRevoked &&& b.ownerRevoked = a.ownerRevoked
  kenvirad : a.kenviradRevoked &&& b.kenviradRevoked = a.kenviradRevoked
  floors : FloorsRise a.floors b.floors
  keys : KeysStay a.ownerKeys b.ownerKeys

/-- What an operation of the machine leaves of a state: the queue, the units and the form of memory; fuses only burn, and a
device in the safe state stays in it (R412). -/
structure Keeps (a b : State) : Prop where
  queue : b.pending = a.pending
  fuses : FuseLe a.fuses b.fuses
  canon : a.memory.Canon → b.memory.Canon
  units : a.HasUnits → b.HasUnits
  latched : a.boot.safe = true → b.boot.safe = true

/-- What work leaves of a device: boot and safe state, configuration, fuses, power and clocks, the Gatehouse but for its log, and the
origins of device time; time does not go back. -/
structure Calm (a b : State) : Prop where
  boot : b.boot = a.boot
  cfg : b.cfg = a.cfg
  fuses : b.fuses = a.fuses
  hearth : b.hearth = a.hearth
  gate : { b.gate with log := [] } = { a.gate with log := [] }
  t0 : b.t0 = a.t0
  stampAt : b.stampAt = a.stampAt
  clock : a.now ≤ b.now

/-- The commands that end a device's life in the safe state: POR_N, and the cold start that follows it (R346, R412). -/
def restarts : Instr → Bool
  | .porAssert => true
  | .coldStart _ => true
  | .railsInRange => true
  | _ => false

/-- The commands that do work, move data or answer traffic, and never reach the device's boot, configuration, power or security state. -/
def worksOnly : Instr → Bool
  | .periodStart _ => true
  | .periodEnd _ => true
  | .poll _ => true
  | .controlBlockReadReturn _ => true
  | .schedulerRound _ => true
  | .deterministicRound _ => true
  | .chain _ _ => true
  | .faceOperationIssue _ _ _ => true
  | .loadComplete _ => true
  | .rowEmerge _ _ => true
  | .confirmWindowExpiry _ => true
  | .checkAdvance _ => true
  | .replayComplete _ => true
  | .rampDownBegin _ => true
  | .rampColumnStep _ => true
  | .rampDownComplete _ => true
  | .rampUpComplete _ => true
  | .loadPieceDispatch _ _ _ => true
  | .enginePieceComplete _ _ _ => true
  | .engineClockStop _ _ _ => true
  | .pinRetry _ _ => true
  | .pinReleaseRetry _ => true
  | .update _ _ => true
  | .normCellPoll _ _ => true
  | .updateClaimPoll _ _ => true
  | .updateCommit _ _ => true
  | .copy _ _ => true
  | .transpose _ _ => true
  | .gather _ _ => true
  | .scatter _ _ => true
  | .fill _ _ => true
  | .atomic _ _ => true
  | .normBwd _ _ => true
  | .softmaxBwd _ _ => true
  | .rowStats _ _ => true
  | .rubbleEncode _ _ => true
  | .rubbleDecode _ _ => true
  | .copyRound _ _ => true
  | .benchCoreStop _ _ => true
  | .benchCoreWake _ _ => true
  | .benchQuantum _ _ _ => true
  | .reduceScatter _ _ => true
  | .allGather _ _ => true
  | .allReduce _ _ => true
  | .broadcast _ _ => true
  | .allToAll _ _ => true
  | .normAllreduce _ _ => true
  | .versionedGatherCommit _ _ => true
  | .chunkDeadline _ _ _ => true
  | .fenceWrite _ _ => true
  | .fenceAcquire _ _ => true
  | .fenceFull _ _ => true
  | .note _ _ => true
  | .pinRelease _ _ => true
  | .publish _ _ => true
  | .wait _ _ => true
  | .markWaitPoll _ _ => true
  | .secure _ _ => true
  | .priv _ _ => true
  | .close _ _ => true
  | .eval _ _ => true
  | .restore _ _ => true
  | .flaggedFinalWriteIssue _ _ => true
  | .itemEnd _ _ => true
  | .drainIntervalExpiry _ => true
  | .dropPoisonComplete _ _ => true
  | .larderAccess _ _ _ => true
  | .regulatorGrant _ _ => true
  | .patrolScrubRead _ _ => true
  | .dataEyeLockLoss _ => true
  | .stackRetrainComplete _ => true
  | .stackRetrainTimeout _ => true
  | .pantryReleaseComplete _ => true
  | .idle _ _ => true
  | .nak _ _ => true
  | .train _ _ => true
  | .linkDownTimeout _ => true
  | .portRetrainTimeout _ => true
  | .portDisableTimeout _ => true
  | .escapeWaitExpiry _ _ => true
  | .stallLimitExpiry _ _ _ => true
  | .respTimeout _ => true
  | .notUsed _ => true
  | .crushDone _ => true
  | .foldNotice _ => true
  | .closeReport _ => true
  | .invalidRequest _ _ => true
  | .hostAck _ _ => true
  | .hostNak _ _ => true
  | .ackTimeout _ => true
  | .cnp _ => true
  | .recIntervalExpiry _ => true
  | .pfcPause _ _ => true
  | .arp _ _ => true
  | .neighborSolicitation _ _ => true
  | .frameDiscard => true
  | .porchLinkDown => true
  | .porchRetrainAttempt => true
  | .ctxCtlReset _ _ => true
  | .counterClear _ _ => true
  | .counterRun _ _ => true
  | .counterSelect _ _ _ _ => true
  | .errorDrainTimer => true
  | .porchLinkUp => true
  | .fecLock _ => true
  | .trainingPatternReceived _ => true
  | _ => false

/-- NO_IMAGE, entered at a cold start with a fail_code: step 0xF, FAULT_N asserted, SO fields 0 (R349, R350). -/
def State.InNoImage (t : State) (code : Nat) : Prop :=
  t.boot.phase = .noImage ∧ t.boot.step = 0xF ∧ t.boot.failCode = BitVec.ofNat 8 code ∧ t.boot.faultN = true ∧ t.cfg = Cfg.empty

/-- The Gatehouses disagree at a step of a cold start up to the k-th (R349). -/
def coldDiffer (i : ColdInputs) (k : Nat) : Bool := match i.disagreeAt with
  | some n => n.val ≤ k
  | none => false

/-- What a cold start from a time, with the given fuses and flash slots, leaves (R347 to R352): NO_IMAGE when the Gatehouses disagree at a step, when
no slot verifies, or when a firmware measurement stays wrong; otherwise the selected image in force and the Ledger open 5.0 s later. -/
def ColdOutcome (i : ColdInputs) (fuses : Fuses) (a b : SlotImage) (start : Nat) (t : State) : Prop :=
  t.gate.slotA = a ∧ t.gate.slotB = b ∧ t.gate.bootNonce = i.entropyA ^^^ i.entropyB ∧ t.boot.boardPos = i.boardPos ∧
  let sel := selectSlot fuses a b i.answersA i.answersB
  if coldDiffer i 4 then t.InNoImage 0x0B
  else match sel.image with
    | none => t.InNoImage sel.failCode ∧ t.boot.fallback = sel.fallback
    | some (isB, im) =>
      let cfg := configOf (applying im.recs i.boardPos.toNat im.header.defaultVariant)
      if coldDiffer i 5 then t.InNoImage 0x0B
      else if i.firmwareBad.any (fun c => c ≤ 8 && cfg.fwVersions.any (fun v => v.1 == c)) then t.InNoImage 0x0A
      else if coldDiffer i 15 then t.InNoImage 0x0B
      else t.boot.phase = .running ∧ t.boot.step = 9 ∧ t.boot.imageVersion = im.header.version ∧ t.boot.slot = isB ∧
        t.boot.fallback = sel.fallback ∧ t.cfg = cfg ∧ t.boot.creset = none ∧ t.boot.faultN = false ∧
        t.now = start + 5000000000 ∧ t.t0 = t.now / 10

/-- A message that passes every check of Table 7 of 17_security.md up to the counter with an owner key: its format, its key, the device and
boot it names, its signature and its counter (R452, R453, R456). -/
structure SignedOk (t : State) (m : GhMsg) (code : Nat) (layout : List W64 → Bool) : Prop where
  format : formatOk { code := code, key := byOwner, layout := layout, own := noOwn } m = true
  key : ∃ k, ownerKey t.fuses (keyIdOf m) = some k ∧ blockValid (some k) (keyIdOf m) m.sig (Config.shake256 (signedBytes m)) = true
  target : wd m.hdr 3 = t.fuses.serial ∧ wd m.hdr 2 = t.gate.bootNonce
  fresh : t.gate.lastCounter.toNat < (counterOf m).toNat

/-- A signed command once it is accepted: its counter is the last, and the measurement chain has an entry for it (R448, R453). -/
def accepted (t : State) (m : GhMsg) (code : Nat) : State :=
  accept t { code := code, key := byOwner, layout := fun _ => true, own := noOwn } m

/-- A command without a signature once it is accepted: only counters count. -/
def heard (t : State) (m : GhMsg) : State :=
  accept t { code := 0, key := none, layout := fun _ => true, own := noOwn } m

end Sys2Proof.Machine
end

