-- ==== Sys2Proof/Certificates/Slice0/Obligations.lean ====
section
/-! DEFINITION. The statements about the model. Most come from the numbered rules of the spec; a statement that rests on a choice
of the model says so and names its log entry. -/

set_option linter.unusedVariables false

open Sys2Proof Sys2Proof.Machine

/-- For every command c and state s whose queue holds c in front of rest, step s is exec c on s with rest as its queue. The queue and its
order are the model's (log entry 4). (00_scope.md, 20_control_space.md) -/
def Obligations.StepRunsFrontCommand : Prop :=
  ∀ (c : Instr) (rest : List Instr) (s : State), s.pending = c :: rest → step s = exec c { s with pending := rest }

/-- For every state whose queue is empty, step answers the same state. That the block idles is the model's choice (log entry 4).
(00_scope.md) -/
def Obligations.EmptyQueueIdles : Prop :=
  ∀ s : State, s.pending = [] → step s = .next s

/-- State.reset has 48 contexts, 64 Faces, 32 Face dies, 12 Landings, 16 ports, 100 counter banks and 32 Pantries, and every byte memory
lists rising addresses and no zero byte. The canonical form is the model's way to hold memory. (R17, R153, R233, R347, R459) -/
def Obligations.ResetIsSound : Prop :=
  State.reset.Sound

/-- For every state s, if step s answers a next state t and s has its 48 contexts, 64 Faces, 32 dies, 12 Landings, 16 ports, 100 banks and
32 Pantries with every byte memory in canonical form, then t has them too, whatever the command. (R17, R153, R233, R347, R459) -/
def Obligations.EveryStepKeepsSound : Prop :=
  ∀ s t : State, step s = .next t → s.Sound → t.Sound

/-- For every state s, if step s answers t then the fuses of t come from those of s by burning: serial, identity seed, certificate and the
four defect fuse banks are the same, no revoke bit of an owner or Kenvirad key clears, every rollback floor's entries are a prefix of the
new ones, and no owner key slot that holds a key changes. (R81, R363, R441, R443, R446, R456) -/
def Obligations.FusesOnlyBurn : Prop :=
  ∀ s t : State, step s = .next t → FuseLe s.fuses t.fuses

/-- For every command c other than POR_N_ASSERT, COLD_START and RAILS_IN_RANGE, and every state s in the safe state, if exec c s answers t
then t is in the safe state. (R414) -/
def Obligations.SafeStateLasts : Prop :=
  ∀ (c : Instr) (s t : State), restarts c = false → exec c s = .next t → s.boot.safe = true → t.boot.safe = true

/-- For every command c and state s, exec c s answers a next state t (never a fault, never a refusal), and the queue of t is the queue of
s. The queue is the model's (log entry 4). (00_scope.md) -/
def Obligations.CommandsLeaveQueue : Prop :=
  ∀ (c : Instr) (s : State), ∃ t, exec c s = .next t ∧ t.pending = s.pending

/-- At reset every field of BOOT_STATUS is 0 and FAULT_N and THERMTRIP_N are not asserted; every context has gen 0x0001 and head 0; every
Face is STOPPED; no Bench core is awake; every port is OFF with its status fields 0; every stack's status fields are 0; every counter bank
is stopped with program 0 and its values 0; no item, request or error record exists; HBM3E, tags, poison and Larder are empty. (R75, R156,
R193, R221, R295, R347, R350, R368, R395, R419, R460) -/
def Obligations.ResetValues : Prop :=
  State.reset.boot.imageVersion = 0 ∧ State.reset.boot.variant = 0 ∧ State.reset.boot.boardPos = 0 ∧
  State.reset.boot.slot = false ∧ State.reset.boot.fallback = false ∧ State.reset.boot.step = 0 ∧
  State.reset.boot.failCode = 0 ∧ State.reset.boot.computeResets = 0 ∧ State.reset.boot.faultN = false ∧
  State.reset.boot.thermtripN = false ∧
  (∀ x ∈ State.reset.ctxs, x.gen = 1 ∧ x.head = 0) ∧
  (∀ f ∈ State.reset.faces, f.state = .stopped) ∧
  (∀ d ∈ State.reset.dies, (∀ k ∈ d.cores, k.awake = false) ∧ d.mismatchW = 0 ∧ d.mismatchE = 0 ∧ d.replayLate = 0) ∧
  (∀ p ∈ State.reset.ports, p.state = .off ∧ p.seenDevice = 0 ∧ p.seenPort = 0 ∧ p.replayCount = 0 ∧ p.downCount = 0) ∧
  (∀ k ∈ State.reset.memory.hbmStacks, k.ueCount = 0 ∧ k.ceCount = 0 ∧ k.scrubPass = 0 ∧ k.throttle = 0) ∧
  (∀ b ∈ State.reset.banks, b.running = false ∧ b.program = 0 ∧ ∀ v ∈ b.values, v = 0) ∧
  State.reset.items = [] ∧ State.reset.reqs = [] ∧ State.reset.errors.count = 0 ∧ State.reset.memory.hbm = [] ∧
  State.reset.memory.tags = [] ∧ State.reset.memory.poison = [] ∧ State.reset.memory.larder = []

/-- In every state POR_N_ASSERT completes: the next state is the reset state but for the queue, the fuses, the two flash slots, the
Gatehouse log and the model's free-value counter; so no item, request, Ledger count or error record of before is left and nothing is
drained. (R346, R368, R344, R410) -/
def Obligations.PorAssertResets : Prop :=
  ∀ s : State, ∃ t, exec .porAssert s = .next t ∧
    t.fuses = s.fuses ∧ t.gate.slotA = s.gate.slotA ∧ t.gate.slotB = s.gate.slotB ∧ t.gate.log = s.gate.log ∧
    t.boot = Boot.por ∧ t.items = [] ∧ t.reqs = [] ∧ t.porch = Porch.cold ∧ t.errors = Errors.cold ∧
    t.ctxs = List.replicate 48 Ctx.cold ∧
    t = { State.reset with pending := s.pending, free := s.free, fuses := s.fuses, gate := t.gate } ∧
    t.gate = { Gatehouse.cold with slotA := s.gate.slotA, slotB := s.gate.slotB, log := s.gate.log }

/-- With POR_N asserted COLD_START completes with fuses kept, contexts and HBM3E cold and no item. With a rail out of range it is held
with step 0; RAILS_IN_RANGE (with no latched reset, outside the safe state) and a COLD_START with good rails give BOOT_NONCE from the
entropy draws and either NO_IMAGE (step 0xF, FAULT_N; fail_code 0x0B where the Gatehouses disagree at a step up to slot selection's, that
of slot selection, 0x0B at the defect map's, 0x0A for firmware that stays wrong, 0x0B at a later step) or a running device: step 9,
version, slot and fallback of the selected image, the configuration of its records for the sampled position and default variant, the
Ledger open 5.0 s later. Times follow the model's clock (log entry 2). (R347, R349, R350, R352, R358, R361, R363, R368, R448, R486, R494) -/
def Obligations.ColdStartOpensLedger : Prop :=
  (∀ (i : ColdInputs) (s : State), s.boot.phase = .por → ∃ t, exec (.coldStart i) s = .next t ∧ t.fuses = s.fuses ∧
    t.items = [] ∧ t.ctxs = List.replicate 48 Ctx.cold ∧ t.memory.hbm = [] ∧
    if i.railsInRange = false then t.boot.phase = .railWait ∧ t.boot.step = 0 ∧ t.boot.inputs = some i ∧ t.boot.boardPos = i.boardPos
    else ColdOutcome i s.fuses (match i.programmed with | some p => p.1 | none => s.gate.slotA)
      (match i.programmed with | some p => p.2 | none => s.gate.slotB) 0 t) ∧
  (∀ (i : ColdInputs) (s : State), s.boot.phase = .railWait → s.boot.safe = false → s.boot.inputs = some i → s.boot.cresetLatched = none →
    ∃ t, exec .railsInRange s = .next t ∧ t.fuses = s.fuses ∧ t.items = s.items ∧ t.ctxs = s.ctxs ∧ t.memory.hbm = s.memory.hbm ∧
      ColdOutcome i s.fuses (match i.programmed with | some p => p.1 | none => s.gate.slotA)
        (match i.programmed with | some p => p.2 | none => s.gate.slotB) s.now t)

/-- In NO_IMAGE with the pins not yet released, XSPI_RELEASE sets them in high impedance at 1 ms after entry and changes nothing else.
EXTEST is accepted while POR_N is asserted; at any other time the state is unchanged. (R349, R497) -/
def Obligations.XspiReleaseAndExtest : Prop :=
  (∀ s : State, s.boot.phase = .noImage → s.boot.xspiHighZ = false →
    exec .xspiRelease s = .next { s with now := Nat.max s.now (s.boot.noImageAt + 1000000), boot := { s.boot with xspiHighZ := true } }) ∧
  (∀ s : State, s.boot.phase = .por → exec .extest s = .next { s with boot := { s.boot with tapExtest := true } }) ∧
  (∀ s : State, s.boot.phase ≠ .por → exec .extest s = .next s)

/-- In a running device out of the safe state with no reset in progress COMPUTE_RST_N_ASSERT completes: a reset that began now and that
the pin holds is in progress, compute_resets counts it and stops at 0xFF, and the rest of the boot state, configuration, fuses and power
state stay; where no item is unended and no cache line held, every Face is STOPPED with no tile, row or LOAD. With a reset in progress it
joins it and changes only that reset's record; during a held cold start it is latched. (R344, R350, R366, R367, R370, R448) -/
def Obligations.ComputeResetBegins : Prop :=
  (∀ s : State, s.boot.phase = .running → s.boot.safe = false → s.boot.creset = none →
    ∃ t, exec .computeRstAssert s = .next t ∧
      t.boot = { s.boot with creset := some { since := s.now, pin := true, variant := none },
                             computeResets := if s.boot.computeResets = 0xFF then 0xFF else s.boot.computeResets + 1 } ∧
      t.cfg = s.cfg ∧ t.fuses = s.fuses ∧ t.hearth = s.hearth ∧
      ((∀ i ∈ s.items, i.over = true) → s.memory.cache = [] →
        ∀ f ∈ t.faces, f.state = .stopped ∧ f.active = none ∧ f.shadow = none ∧ f.inFlight = [] ∧ f.loading = none)) ∧
  (∀ (s : State) (r : CReset), s.boot.phase = .running → s.boot.safe = false → s.boot.creset = some r →
    exec .computeRstAssert s = .next { s with boot := { s.boot with creset := some { r with pin := true } } }) ∧
  (∀ s : State, s.boot.phase = .railWait →
    exec .computeRstAssert s = .next { s with boot := { s.boot with cresetLatched := some true } })

/-- In a running device out of the safe state, COMPUTE_RST_N_DEASSERT for a reset the pin holds, and GATEHOUSE_RESET_RELEASE for one the
Gatehouse issued, complete: release is at 150 ms after the start or now if later. Where no firmware of the compute domain (classes 1 to 3)
stays wrong the Ledger reopens no sooner than 270 ms after it; no reset is in progress, a waiting variant is the active one, every context
is open and in no period. Where nothing is outstanding, no pin is held and no variant waits, the Ledger reopens exactly then, each context
has the next gen with its head at the last tail taken, no Face has a tile, the caches are empty and instance numbers start again. Firmware
of such a class that stays wrong puts the device in NO_IMAGE with 0x0A no sooner than 250 ms after the release. A deassertion for a
Gatehouse reset, and the Gatehouse release of a pin's reset, change nothing. (R156, R300, R349, R361, R366, R367, R368, R370) -/
def Obligations.ComputeResetReleases : Prop :=
  (∀ (s : State) (r : CReset) (cmd : Instr), s.boot.phase = .running → s.boot.safe = false → s.boot.creset = some r →
    (cmd = .computeRstDeassert ∧ r.pin = true ∨ cmd = .gatehouseResetRelease ∧ r.pin = false) → s.Sound →
    let bad := (s.boot.inputs.elim [] ColdInputs.releaseBad).headD []
    ((∀ c ∈ bad, c = 0 ∨ 3 < c) →
      ∃ t, exec cmd s = .next t ∧ Nat.max s.now (r.since + 150000000) + 270000000 ≤ t.now ∧ t.t0 = t.now / 10 ∧
        t.boot.creset = none ∧ (∀ v, r.variant = some v → t.boot.variant = v) ∧
        (∀ x ∈ t.ctxs, x.started = false ∧ x.intakeClosed = false ∧ x.readPending = false ∧ x.resetting = false) ∧
        (r.variant = none → s.reqs = [] → (∀ x ∈ s.ctxs, x.pins = []) →
          t.now = Nat.max s.now (r.since + 150000000) + 270000000 ∧
          (∀ c : Nat, c < 48 → (t.ctx c).gen = nextGen (s.ctx c).gen ∧ (t.ctx c).head = (s.ctx c).lastTail) ∧
          (∀ f ∈ t.faces, f.state = .stopped ∧ f.active = none ∧ f.shadow = none) ∧ t.memory.cache = [] ∧
          t.colls = [] ∧ t.collNext = [])) ∧
    (∀ c ∈ bad, 1 ≤ c → c ≤ 3 → r.variant = none → (∃ v ∈ s.cfg.fwVersions, v.1 = c) → ∃ t, exec cmd s = .next t ∧ t.InNoImage 0x0A ∧
      Nat.max s.now (r.since + 150000000) + 250000000 ≤ t.now)) ∧
  (∀ (s : State) (r : CReset), s.boot.phase = .running → s.boot.creset = some r → r.pin = false →
    exec .computeRstDeassert s = .next s) ∧
  (∀ (s : State) (r : CReset), s.boot.phase = .running → s.boot.creset = some r → r.pin = true →
    exec .gatehouseResetRelease s = .next s)

/-- For each of 106 commands (periods, rounds, chains and Faces, HAUL, Bench, UPDATE, collectives, fences, pins, marks, snapshots but
REFORM, ends of items, Larder and regulators, link and Porch events, context and counter writes), if it answers t on s then the boot
state, the configuration, the fuses, the Hearth, the Gatehouse but for its log and the origins of device time are those of s, and time has
not gone back. (06_work.md, 13_startup.md, 14_power.md, 17_security.md) -/
def Obligations.WorkLeavesDevice : Prop :=
  ∀ (c : Instr) (s t : State), worksOnly c = true → exec c s = .next t → Calm s t

/-- In a live device, PERIOD_START of a defined context that is in no period completes: the clock reaches the period's start (t0 + offset
for the first, else one period after the last), the context is in its period with that start, no poll yet and a control-block read
pending, and only the clock, items and contexts change. POLL completes in a period with poll_interval nonzero while (polls + 1) x
poll_interval is below the period: the clock reaches that time, polls counts it and a read is pending; nothing else changes. The clock is
the model's (log entry 2). (R154, R155, R177) -/
def Obligations.PeriodStartAndPoll : Prop :=
  (∀ (c : CtxIx) (k : CtxCfg) (s : State), live s = true → s.ctxCfg c.val = some k → (s.ctx c.val).started = false → s.ctxs.length = 48 →
    ∃ t, exec (.periodStart c) s = .next t ∧
      t.now = Nat.max s.now (if (s.ctx c.val).periodAt = 0 then 10 * (s.t0 + k.offset) else (s.ctx c.val).periodAt) ∧
      (t.ctx c.val).started = true ∧ (t.ctx c.val).readPending = true ∧ (t.ctx c.val).polls = 0 ∧ (t.ctx c.val).intakeClosed = false ∧
      (t.ctx c.val).periodAt = (if (s.ctx c.val).periodAt = 0 then 10 * (s.t0 + k.offset) else (s.ctx c.val).periodAt) ∧
      t = { s with now := t.now, items := t.items, ctxs := t.ctxs }) ∧
  (∀ (c : CtxIx) (k : CtxCfg) (s : State), live s = true → s.ctxCfg c.val = some k → (s.ctx c.val).started = true → k.poll ≠ 0 →
    ((s.ctx c.val).polls + 1) * k.poll < k.period →
    exec (.poll c) s = .next { s with
      now := Nat.max s.now ((s.ctx c.val).periodAt + 10 * (((s.ctx c.val).polls + 1) * k.poll))
      ctxs := s.ctxs.modify c.val (fun y => { y with polls := y.polls + 1, readPending := true }) })

/-- In a live device with a read of a context's control block pending: a read that is held for reissue leaves it pending; one that returns
no data sets read_fault and takes nothing in. Data first drop the clean lines of the cache partition, give a held-back drain its
ledger_ack and mark the read as returned; then, while a reset of the context runs, nothing is taken in, and a differing gen sets
stale_gen; one whose gen differs from the context's sets stale_gen; one whose tail is more than ring_records past head sets publish_error;
these three change nothing else but that intake stops. Otherwise the tail is accepted and intake runs from head. (R155, R157, R176, R259) -/
def Obligations.ControlBlockReadIsActedOn : Prop :=
  ∀ (c : CtxIx) (k : CtxCfg) (s : State), live s = true → s.ctxCfg c.val = some k → (s.ctx c.val).started = true →
    (s.ctx c.val).readPending = true → s.ctxs.length = 48 →
    (∀ u, readBlock s k.ctlBlock = (u, none) → exec (.controlBlockReadReturn c) s = .next u) ∧
    (∀ u, readBlock s k.ctlBlock = (u, some none) → u.ctxs.length = 48 → ∃ t, exec (.controlBlockReadReturn c) s = .next t ∧
      (t.ctx c.val).readFault = true ∧ (t.ctx c.val).firstReturned = true ∧ (t.ctx c.val).head = (u.ctx c.val).head ∧ t.items = u.items ∧
      t = { u with ctxs := t.ctxs }) ∧
    (∀ u ws, readBlock s k.ctlBlock = (u, some (some ws)) →
      let ack : BitVec 32 := BitVec.ofNat 32 (bits (wd ws 1) 31 0)
      let gen : BitVec 16 := BitVec.ofNat 16 (bits (wd ws 0) 63 48)
      let tail : BitVec 32 := BitVec.ofNat 32 (bits (wd ws 0) 31 0)
      let a := acquire u c.val none
      let b := if (a.ctx c.val).drainHeld then drain (a.modCtx c.val (fun y => { y with ledgerAck := ack })) c.val else a
      let w := b.modCtx c.val (fun y => { y with readPending := false, firstReturned := true, ledgerAck := ack })
      let tooFar : Bool := decide (2 ^ k.ringLog2 < (tail - (s.ctx c.val).head).toNat)
      (ctxResetting w c.val = true → exec (.controlBlockReadReturn c) s = .next (w.modCtx c.val (fun y =>
        { y with staleGen := y.staleGen || gen != (s.ctx c.val).gen, taking := false, intakeClosed := y.intakeClosed || lastRead y k }))) ∧
      (ctxResetting w c.val = false → gen ≠ (s.ctx c.val).gen → exec (.controlBlockReadReturn c) s = .next (w.modCtx c.val (fun y =>
        { y with staleGen := true, taking := false, intakeClosed := y.intakeClosed || lastRead y k }))) ∧
      (ctxResetting w c.val = false → gen = (s.ctx c.val).gen → tooFar = true → exec (.controlBlockReadReturn c) s = .next (w.modCtx c.val (fun y =>
        { y with publishError := true, taking := false, intakeClosed := y.intakeClosed || lastRead y k }))) ∧
      (ctxResetting w c.val = false → gen = (s.ctx c.val).gen → tooFar = false → exec (.controlBlockReadReturn c) s = .next (runIntake
        (w.modCtx c.val (fun y => { y with lastTail := tail, taking := true })) c.val k)))

/-- Taking a descriptor in adds one item at the end of the item list with the context's next number, which then grows by one; at cold
start and at each new generation the next number is 0 in its 64 bits (the numbers above bit 63 tell generations apart: the model's, log
entry 25); word 0 of an item's Ledger record is its number in 64 bits. (R163) -/
def Obligations.IntakeNumbersItems : Prop :=
  (Ctx.cold.nextSeq = 0) ∧ (∀ x : Ctx, (advanceGen x).nextSeq % 2 ^ 64 = 0) ∧
  (∀ (s : State) (c : Nat) (k : CtxCfg) (ws : List W64) (rs : List (Nat × Option (List W64))), c < s.ctxs.length →
    ∃ i, (takeIn s c k ws rs).items = s.items ++ [i] ∧ i.ref = ⟨c, (s.ctx c).nextSeq⟩ ∧
      ((takeIn s c k ws rs).ctx c).nextSeq = (s.ctx c).nextSeq + 1) ∧
  (∀ i : Item, (recordWords i).head? = some (BitVec.ofNat 64 i.ref.seq))

/-- In a live device, PERIOD_END of a context in its period completes at the start of the next one. Where every item of the device has
ended and is recorded, no record waits to be drained, the publish read has returned and fewer than 16 error records wait, only the clock
and the context change: its period number grows by 1, modulo 2^32, it starts one period later, and no read or intake is under way.
Otherwise, where a watchdog check fails, the settled items end with their own status and the context is reset before anything is late;
then the settled items of the period end with their own status, the others DROPPED_LATE with their late code, and the records drain.
(R154, R169, R170, R176, R177, R186) -/
def Obligations.PeriodEndLeavesPeriod : Prop :=
  (∀ (c : CtxIx) (k : CtxCfg) (s : State), live s = true → s.ctxCfg c.val = some k → (s.ctx c.val).started = true →
    (∀ i ∈ s.items, i.stage = .recorded ∧ i.over = true) → undrained (s.ctx c.val) = 0 → (s.ctx c.val).firstReturned = true →
    s.errors.count - s.errors.drained < 16 →
    exec (.periodEnd c) s = .next { s with
      now := Nat.max s.now ((s.ctx c.val).periodAt + 10 * k.period)
      ctxs := s.ctxs.modify c.val (fun y => { y with
        period := y.period + 1, periodAt := (s.ctx c.val).periodAt + 10 * k.period, started := false, readPending := false,
        awaiting := false, taking := false, fetched := [] }) }) ∧
  (∀ (c : CtxIx) (k : CtxCfg) (s u v : State), live s = true → s.ctxCfg c.val = some k → (s.ctx c.val).started = true →
    u = s.upTo ((s.ctx c.val).periodAt + 10 * k.period) →
    v = (if recordsIncomplete u c.val ∨ (u.ctx c.val).firstReturned = false
      then watchdog (endMany u (((periodItems u c.val).filter (settled u)).map endOf)) c.val else u) →
    exec (.periodEnd c) s = .next ((drain (endMany v (((periodItems v c.val).filter (settled v)).map endOf ++
      ((periodItems v c.val).filter (fun i => !settled v i)).map (fun i =>
        (i.ref, Status.droppedLate, lateCode v i, lateAux v i)))) c.val).modCtx c.val (fun y => { y with
        period := y.period + 1, periodAt := (s.ctx c.val).periodAt + 10 * k.period, started := false, readPending := false,
        awaiting := false, taking := false, fetched := [] })))

/-- SCHEDULER_ROUND on a free sequencer, the Benches or the engines of a live device completes: the item that the weighted round-robin and
R178's order select starts on that unit, with the credits the selection leaves; a Bench round first gives lost cores back and lets
collective work take the idle cores that it needs; with no startable candidate, no lost core and no such work the state is unchanged.
DETERMINISTIC_ROUND on a sequencer or the Benches of a die of deterministic contexts starts the first unstarted item of the context whose
turn it is when it can start. (R116, R178, R179, R181, R182, R199, R200, R239) -/
def Obligations.RoundsStartWhatTheySelect : Prop :=
  (∀ (d : DieIx) (sq : Fin 2) (s t : State) (cs : List Int) (i : Item), live s = true → dieDet s d.val = false → sequencerFree s d.val sq.val = true →
    runRound s (offerOf s (chainCandidate s d.val) (chainStartable s d.val)) (s.die d.val).credits = (t, cs, some i) →
    exec (.schedulerRound (.sequencer d sq)) s = .next (chainStart (t.modDie d.val (fun x => { x with credits := cs })) d.val sq.val i)) ∧
  (∀ (d : DieIx) (s u t : State) (cs : List Int) (i : Item), live s = true → dieDet s d.val = false → u = collGrab 32 (giveBack s d.val) d.val →
    runRound u (offerOf u (benchCandidate u d.val) (benchStartable u d.val)) (u.die d.val).benchCredits = (t, cs, some i) →
    exec (.schedulerRound (.bench d)) s = .next (benchStart (t.modDie d.val (fun x => { x with benchCredits := cs })) d.val i)) ∧
  (∀ (l : LandIx) (k : EngineKind) (s t : State) (cs : List Int) (i : Item), live s = true →
    runRound s (offerOf s (engineCandidate s l.val (k == .tipple)) (engineStartable s l.val))
      (if k = .tipple then (s.landing l.val).tippleCredits else (s.landing l.val).haulCredits) = (t, cs, some i) →
    exec (.schedulerRound (.engines l k)) s = .next (engineStart { t with landings := t.landings.modify l.val (fun y =>
      if k = .tipple then { y with tippleCredits := cs } else { y with haulCredits := cs }) } l.val i)) ∧
  (∀ (u : RoundUnit) (s : State), live s = true → (∀ i ∈ s.items, i.stage ≠ .queued ∧ i.waitFor ≠ .cores) → (∀ d, (s.die d).lossOrder = [] ∧ collNeed s d = 0) →
    exec (.schedulerRound u) s = .next s) ∧
  (∀ (d : DieIx) (sq : Fin 2) (s : State) (c : Nat) (i : Item), live s = true → dieDet s d.val = true → sequencerFree s d.val sq.val = true →
    detTurn s d.val (s.die d.val).detNext unstartedChain = some c → detHead s c unstartedChain = some i →
    chainCandidate s d.val i = true → chainStartable s d.val i = true →
    exec (.deterministicRound (.sequencer d sq)) s = .next (chainStart (s.modDie d.val (fun x => { x with detNext := (c + 1) % 48 })) d.val sq.val i)) ∧
  (∀ (d : DieIx) (s u : State) (c : Nat) (i : Item), live s = true → dieDet s d.val = true → u = collGrab 32 (giveBack s d.val) d.val →
    detTurn u d.val (u.die d.val).detBenchNext unstartedBench = some c → detHead u c unstartedBench = some i →
    benchCandidate u d.val i = true → benchStartable u d.val i = true →
    exec (.deterministicRound (.bench d)) s = .next (benchStart (u.modDie d.val (fun x => { x with detBenchNext := (c + 1) % 48 })) d.val i))

/-- Among candidates none of which is aged, the item selected is one of them, and no other of them has a better priority code, or with
equal priority an earlier period end, or with these equal an earlier intake, or a lower context, or a lower seq. The priority field's
lower code stands for the higher priority. (R178) -/
def Obligations.SelectedItemIsFirst : Prop :=
  ∀ (s : State) (l : List Item) (i : Item), (∀ j ∈ l, j.aged = none) → selectItem s l = some i → i ∈ l ∧ ∀ j ∈ l,
    let p (x : Item) : Nat := match s.ctxCfg x.ref.ctx with | some k => k.priority | none => 0
    p i < p j ∨ (p i = p j ∧ (i.deadline < j.deadline ∨ (i.deadline = j.deadline ∧ (i.intake < j.intake ∨ (i.intake = j.intake ∧
      (i.ref.ctx < j.ref.ctx ∨ (i.ref.ctx = j.ref.ctx ∧ i.ref.seq ≤ j.ref.seq)))))))

/-- A settled item ends with its status, code and aux (a FENCE with a failed write-back FAILED_FAULT); the staged writes of its context
and held intake go on. An item in its drop sequence whose poison writes are settled is ended, its context's records are appended and
staged writes go on. With undrained records and no drain in flight the drain runs when the oldest is drain_interval old. The oldest
flagged final write of an item with nothing staged or outstanding, whose waits are settled and whose way is clear, is issued. An item that
ends takes its status, code, aux and end time, holds no core, engine, Pantry cost or claim, and ends once only, but for an outcome of the
same tick that R413 puts first. (R168, R171, R172, R174, R183, R184, R186, R258, R261, R413) -/
def Obligations.ItemsEnd : Prop :=
  (∀ (c : CtxIx) (seq : Nat) (s : State) (i : Item), s.item ⟨c.val, seq⟩ = some i → settled s i = true →
    exec (.itemEnd c seq) s = .next (goOnIntake (goStagedAll (if i.code ≠ 0 ∧ kindOf i.words = kFence then failItem s i.ref i.code.toNat none
      else endItem s i.ref i.status i.code.toNat i.aux) c.val) c.val)) ∧
  (∀ (c : CtxIx) (seq : Nat) (s : State) (i : Item), s.item ⟨c.val, seq⟩ = some i → i.stage = .dropping → i.poisonSent = true →
    outstanding s i = false →
    exec (.dropPoisonComplete c seq) s = .next (goStagedAll (appendRecords (s.modItem i.ref (fun j => { j with stage := .ended })) c.val) c.val)) ∧
  (∀ (c : CtxIx) (k : CtxCfg) (s : State), s.ctxCfg c.val = some k → s.up = true → 0 < undrained (s.ctx c.val) →
    drainInFlight s c.val = false →
    exec (.drainIntervalExpiry c) s = .next (drain (s.upTo ((s.ctx c.val).oldestAt + 1000 * k.drainUs)) c.val)) ∧
  (∀ (c : CtxIx) (seq : Nat) (s u : State) (i : Item) (f : Flagged), s.item ⟨c.val, seq⟩ = some i → i.flagged.find? (fun f => !f.issued) = some f →
    i.over = false → i.staged = [] → outstanding s i = false → (∀ id ∈ f.waits, ∀ q ∈ s.reqs, q.id ≠ id) → poisonPending s i.ref = false →
    (clearWay s i.ref none (f.addr, 8) true = (u, true) → exec (.flaggedFinalWriteIssue c seq) s = .next (issueFlagged u i f)) ∧
    (clearWay s i.ref none (f.addr, 8) true = (u, false) → exec (.flaggedFinalWriteIssue c seq) s = .next u)) ∧
  (∀ (s : State) (r : ItemRef) (i : Item) (st : Status) (code : Nat) (aux : BitVec 32), s.item r = some i → i.over = false → st.poisons = false →
    i.claim = none → i.ownPin = none → ∃ j, (endOne s r st code aux).item r = some j ∧ j.stage = .ended ∧ j.status = st ∧
      j.code = BitVec.ofNat 8 code ∧ j.aux = aux ∧ j.endAt = s.now ∧ j.cores = [] ∧ j.engines = [] ∧ j.scratch = 0 ∧ j.accum = 0 ∧ j.claim = none) ∧
  (∀ (s : State) (r : ItemRef) (i : Item) (st : Status) (code : Nat) (aux : BitVec 32), s.item r = some i → i.over = true →
    i.overruled s.now st code = false → endOne s r st code aux = s)

/-- Appending an item's record writes its 32 bytes at ledger_base + 32 x (n mod ledger_records), n being the context's count of appended
records, which then grows by one, and starts no drain while fewer than drain_batch wait, the period runs and the device is not in the safe
state, where one starts at once; the words hold seq, tag, flags, code, status, kind, context, partition, unit, detail, the ticks of end
and start from the period's start, the period and aux; the item is recorded. (R183, R184, R415) -/
def Obligations.RecordGoesToItsSlot : Prop :=
  (∀ i : Item, recordWords i =
    [BitVec.ofNat 64 i.ref.seq,
     wordOf [⟨48, 16, tagOfItem i.words⟩, ⟨40, 8, i.flags.toNat⟩, ⟨32, 8, i.code.toNat⟩, ⟨28, 4, statusCode i.status⟩,
       ⟨24, 4, kindOf i.words⟩, ⟨18, 6, i.ref.ctx⟩, ⟨15, 3, i.partition⟩, ⟨8, 7, itemUnit i⟩, ⟨0, 8, i.detail.toNat⟩],
     wordOf [⟨32, 32, (i.endAt - i.periodAt) / 10⟩, ⟨0, 32, (i.startAt.getD i.intake - i.periodAt) / 10⟩],
     wordOf [⟨32, 32, i.period.toNat⟩, ⟨0, 32, i.aux.toNat⟩]]) ∧
  (∀ (s : State) (i : Item) (k : CtxCfg), s.ctxCfg i.ref.ctx = some k → i.ref.ctx < s.ctxs.length →
    undrained (s.ctx i.ref.ctx) + 1 < k.drainBatch → undrained (s.ctx i.ref.ctx) + 1 < 2 ^ 32 → i.period = (s.ctx i.ref.ctx).period →
    i.gen = (s.ctx i.ref.ctx).gen →
    ∀ w, w = deviceWrite s (k.ledgerBase + 32 * ((s.ctx i.ref.ctx).appended.toNat % 2 ^ k.ledgerLog2)) (wordsBytes (recordWords i)) →
    w.ctxs = s.ctxs → w.boot.safe = false →
    appendRecord s i = (w.modItem i.ref (fun j => { j with stage := .recorded, slot := (s.ctx i.ref.ctx).appended.toNat })).modCtx i.ref.ctx (fun y =>
        { y with appended := y.appended + 1, oldestAt := if y.appended = y.drained then w.now else y.oldestAt,
                 appendTimes := y.appendTimes ++ [w.now] })) ∧
  (∀ (s : State) (i : Item) (k : CtxCfg), s.ctxCfg i.ref.ctx = some k → s.boot.safe = true → i.ref.ctx < s.ctxs.length →
    ∀ w, w = deviceWrite s (k.ledgerBase + 32 * ((s.ctx i.ref.ctx).appended.toNat % 2 ^ k.ledgerLog2)) (wordsBytes (recordWords i)) →
    w.boot.safe = true →
    appendRecord s i = drain ((w.modItem i.ref (fun j => { j with stage := .recorded, slot := (s.ctx i.ref.ctx).appended.toNat })).modCtx i.ref.ctx (fun y =>
        { y with appended := y.appended + 1, oldestAt := if y.appended = y.drained then w.now else y.oldestAt,
                 appendTimes := y.appendTimes ++ [w.now] })) i.ref.ctx)

/-- In a live device an unended item's staged writes, the accesses of its kind and its flagged writes go on, each as far as its way is
clear; one that has ended changes nothing. An access whose range meets a span of an earlier unended item of its context in the way of
R253, or that a FENCE before it bars, stays held and changes nothing. (R253, R262) -/
def Obligations.SpanConflictLetsItemGoOn : Prop :=
  (∀ (c : CtxIx) (seq : Nat) (s : State) (i : Item), s.item ⟨c.val, seq⟩ = some i → live s = true → i.over = false →
    exec (.spanConflictCleared c seq) s = .next (goOn (goStaged s i.ref) c seq i)) ∧
  (∀ (c : CtxIx) (seq : Nat) (s : State) (i : Item), s.item ⟨c.val, seq⟩ = some i → i.over = true →
    exec (.spanConflictCleared c seq) s = .next s) ∧
  (∀ (s : State) (i : Item) (die : Option Nat) (range : Nat × Nat) (writes : Bool), s.item i.ref = some i →
    (conflicts s i range writes = true ∨ barredBy s i writes = true) → clearWay s i.ref die range writes = (s, false))

/-- For each of the formats E4M3, E5M2, E3M2, E2M3, E2M1, BF16, FP16, FP32, FP64, A40 and the extended FP32 master, and every code of its
width: the code decodes to NaN, or encoding what it decodes to gives the code back, sign of zero, subnormals and infinities included.
(R28, R29, R34) -/
def Obligations.FloatCodesRoundTrip : Prop :=
  ∀ f ∈ [fmtE4M3, fmtE5M2, fmtE3M2, fmtE2M3, fmtE2M1, fmtBF16, fmtFP16, fmtFP32, fmtFP64, fmtA40, fmtExt],
    ∀ code : Nat, code < 2 ^ (1 + f.expBits + f.fracBits) → decodeFloat f code = .nan ∨ encodeFloat f (decodeFloat f code) = code

/-- A NaN is stored as 0 with the invalid flag. Any other value is stored as the two's-complement byte of its nearest integer clamped to
[-128, 127], and int_sat is set exactly when the clamp changed it. The nearest integer of a finite m x 2^-k is one whose distance is at
most one half, the even one at a tie; of m x 2^k it is the value; an INT40 value is its own; an infinity saturates. (R45) -/
def Obligations.Int8DestinationSaturates : Prop :=
  convInt8 .nan = ⟨0, flInvalid⟩ ∧
  (∀ x : Machine.Num, x ≠ .nan →
    (convInt8 x).val = ((if x.nearestInt 1000 < -128 then -128 else if 127 < x.nearestInt 1000 then 127 else x.nearestInt 1000) % 256).toNat ∧
    ((convInt8 x).fl &&& flIntSat ≠ 0 ↔ x.nearestInt 1000 < -128 ∨ 127 < x.nearestInt 1000)) ∧
  (∀ (neg : Bool) (m k : Nat), ∃ r : Nat, (Machine.Num.fin neg m (-(k : Int))).nearestInt 1000 = signedMag neg r ∧
    2 * (r * 2 ^ k) ≤ 2 * m + 2 ^ k ∧ 2 * m ≤ 2 * (r * 2 ^ k) + 2 ^ k ∧
    ((2 * (r * 2 ^ k) = 2 * m + 2 ^ k ∨ 2 * m = 2 * (r * 2 ^ k) + 2 ^ k) → r % 2 = 0)) ∧
  (∀ (neg : Bool) (m k : Nat), (Machine.Num.fin neg m (k : Int)).nearestInt 1000 = signedMag neg (m * 2 ^ k)) ∧
  (∀ v : Int, (Machine.Num.ofInt v).nearestInt 1000 = v) ∧
  (∀ neg : Bool, (Machine.Num.inf neg).nearestInt 1000 = if neg then -1000 else 1000)

/-- The tile result of INT8 operands is the exact sum of their products, and a Face row passed on carries it in 40 bits. Accumulation adds
exactly; a sum outside [-2^39, 2^39 - 1] becomes the nearer bound and sets int_sat, any other sets no flag. With at most 2^25 - 1 terms of
INT8 operands the exact sum lies inside the bounds. (R38) -/
def Obligations.Int8ProductsAreExact : Prop :=
  (∀ xs ws : List Int, intOutput (xs.map Machine.Num.ofInt) (ws.map Machine.Num.ofInt) = ((xs.zip ws).map (fun q => q.1 * q.2)).sum) ∧
  (∀ ops : List Operands, (rowOut false true .pass ops [] []).out = ops.map (fun o => BitVec.ofInt 40 (intOutput o.xs o.ws))) ∧
  (∀ (a b : Int) (o : Operands), accumulate false true (Machine.Num.ofInt a) o (Machine.Num.ofInt b) =
    if 2 ^ 39 - 1 < a + b then ⟨Machine.Num.ofInt (2 ^ 39 - 1), flIntSat⟩
    else if a + b < -2 ^ 39 then ⟨Machine.Num.ofInt (-2 ^ 39), flIntSat⟩ else ⟨Machine.Num.ofInt (a + b), 0⟩) ∧
  (∀ xs ws : List Int, (∀ x ∈ xs, -128 ≤ x ∧ x ≤ 127) → (∀ w ∈ ws, -128 ≤ w ∧ w ≤ 127) → xs.length ≤ 2 ^ 25 - 1 →
    -2 ^ 39 ≤ intOutput (xs.map Machine.Num.ofInt) (ws.map Machine.Num.ofInt) ∧ intOutput (xs.map Machine.Num.ofInt) (ws.map Machine.Num.ofInt) ≤ 2 ^ 39 - 1)

/-- In a live device, for a Face that is not fenced, rows of its die that can have entered by now enter first, a Face that has stopped or
ramps down with something that waited in front of it wakes, and a running one begins an operation that it holds and that can begin (with
nothing held and no row in flight on the die the state is the same). Of the operation whose turn it then is: a running Face begins a LOAD,
once its tile's bytes are readable, that fills the shadow tile after its Face cycles, or at the stream boundary takes a STREAM, whose rows
enter as they can; a stopped Face begins to ramp up and keeps the operation; a ramping Face keeps it, and one that ramps down latches the
restart. With no operation whose turn it is nothing more changes; a running Face whose held operation must still wait takes none. The
first row of a stream with swap makes the shadow tile the active one as it enters and takes its Face cycles. (R59, R63, R64, R66, R71,
R72, R74, R78, R121) -/
def Obligations.FacesTakeOperations : Prop :=
  ∀ (f : FaceIx) (r0 r1 : Option FaceOp) (s w0 w : State), live s = true → (s.face f.val).fenced = false → s.faces.length = 64 →
    w0 = wakeFace (enterDie s f.val) f.val → w = (if (w0.face f.val).runs then beginPending w0 f.val else w0) →
    ((s.face f.val).inFlight = [] → (s.face (f.val / 2 * 2 + (1 - f.val % 2))).inFlight = [] → (s.face f.val).pendingOp = none → w = s) ∧
    (chooseTurn w f.val r0 r1 = none → exec (.faceOperationIssue f r0 r1) s = .next w) ∧
    (∀ o i, (w0.face f.val).pendingOp = some o → w0.item (opItem o) = some i → i.over = false → (w0.face f.val).runs = true →
      (canBegin (atBoundary w0 f.val o) f.val o = false → exec (.faceOperationIssue f r0 r1) s = .next w0) ∧
      (canBegin (atBoundary w0 f.val o) f.val o = true → w = beginOp (w0.modFace f.val (fun y => { y with pendingOp := none })) f.val o)) ∧
    (∀ sq o v, chooseTurn w f.val r0 r1 = some (sq, o) → v = w.modFace f.val (fun x => { x with turn := turnAfter sq o }) →
      (∀ p, o = .load p → ((w.face f.val).state = .run ∨ (w.face f.val).state = .idleDummy) →
        exec (.faceOperationIssue f r0 r1) s = .next { v with
          dies := v.dies.modify (f.val / 2) (fun d => { d with opStamp := d.opStamp + 1 }),
          faces := v.faces.modify f.val (fun x => { x with
            loading := some p, loadStamp := (v.die (f.val / 2)).opStamp, state := .run,
            loadAt := (loadFrom v f.val p).getD (unitNow v f.val) + 40 * loadCycles p }) }) ∧
      (∀ p b tile, o = .stream p → ((w.face f.val).state = .run ∨ (w.face f.val).state = .idleDummy) → b = toBoundary v f.val →
        streamTile (b.face f.val) p = some tile →
        exec (.faceOperationIssue f r0 r1) s = .next (enterDie { b with
          dies := b.dies.modify (f.val / 2) (fun d => { d with opStamp := d.opStamp + 1 }),
          faces := b.faces.modify f.val (fun y => { y with
            state := .run,
            inFlight := y.inFlight ++ [{
              stamp := (b.die (f.val / 2)).opStamp, stream := p, tile := tile, takenUnit := unitNow b f.val,
              perRow := rowCycles (isT1 b p.item.ctx) p.fmt.val tile.load.fmt.val, next := 0, entries := [] }] }) } f.val)) ∧
      ((w.face f.val).state = .stopped → exec (.faceOperationIssue f r0 r1) s = .next { v with faces := v.faces.modify f.val (fun x => { x with
        state := .rampUp, rampAt := v.now, columns := 1, pendingOp := some o }) }) ∧
      ((w.face f.val).state = .rampUp → exec (.faceOperationIssue f r0 r1) s = .next { v with faces := v.faces.modify f.val (fun x => { x with
        pendingOp := some o }) }) ∧
      ((w.face f.val).state = .rampDown → exec (.faceOperationIssue f r0 r1) s = .next { v with faces := v.faces.modify f.val (fun x => { x with
        restartLatched := true, pendingOp := some o }) })) ∧
    (∀ (x : InFlight) (unit : Nat), x.stream.swap = true → x.entries = [] → x.next = 0 →
      ((enterRow s f.val x unit).face f.val).active = some x.tile ∧ ((enterRow s f.val x unit).face f.val).shadow = none ∧
      ((enterRow s f.val x unit).face f.val).freeAt = unit + 40 * x.perRow)

/-- RAMP_DOWN_BEGIN of a live running Face in whose array no row is and that has no LOAD completes when the idle time has reached
gap_threshold: RAMP_DOWN with one of its five columns off; a row that can enter before that enters and ends the idle time.
RAMP_COLUMN_STEP disables or enables the next column 0.4 us after the one before. RAMP_DOWN_COMPLETE, 2.0 us after the beginning, stops
the Face, or begins RAMP_UP at once when a restart is latched. RAMP_UP_COMPLETE, 2.0 us after the beginning, runs the Face with all five
columns; rows that waited enter as they can, and a held operation of an unended item begins if it can and is held on where it cannot. With
no row in flight on the die and no held operation only that Face and the clock change. (R75, R76, R77, R78) -/
def Obligations.FaceRampsStepThroughColumns : Prop :=
  (∀ (f : FaceIx) (s : State) (at_ : Nat), live s = true → (s.face f.val).runs = true → (s.face f.val).loading = none →
    at_ = Nat.max s.now ((s.face f.val).idleFrom (s.die (f.val / 2)) + bits s.cfg.faceIdle 15 0 * 100) →
    ((s.face f.val).inFlight = [] → (s.face (f.val / 2 * 2 + (1 - f.val % 2))).inFlight = [] →
      exec (.rampDownBegin f) s = .next { s with
        now := at_, faces := s.faces.modify f.val (fun y => { y with state := .rampDown, rampAt := at_, columns := 4 }) }) ∧
    ((∀ x ∈ (s.face f.val).inFlight, x.entries = []) → ∀ t, t = enterDie { s with now := at_ } f.val →
      ((∀ x ∈ (t.face f.val).inFlight, x.entries = []) → (t.face f.val).loading = none → exec (.rampDownBegin f) s = .next
        { t with faces := t.faces.modify f.val (fun y => { y with state := .rampDown, rampAt := t.now, columns := 4 }) }) ∧
      ((∃ x ∈ (t.face f.val).inFlight, x.entries ≠ []) → exec (.rampDownBegin f) s = .next t))) ∧
  (∀ (f : FaceIx) (s : State), s.up = true → (s.face f.val).state = .rampDown → 0 < (s.face f.val).columns →
    exec (.rampColumnStep f) s = .next { s with
      now := Nat.max s.now ((s.face f.val).rampAt + 400 * (5 - (s.face f.val).columns))
      faces := s.faces.modify f.val (fun y => { y with columns := y.columns - 1 }) }) ∧
  (∀ (f : FaceIx) (s : State), s.up = true → (s.face f.val).state = .rampUp → (s.face f.val).columns < 5 →
    exec (.rampColumnStep f) s = .next { s with
      now := Nat.max s.now ((s.face f.val).rampAt + 400 * (s.face f.val).columns)
      faces := s.faces.modify f.val (fun y => { y with columns := y.columns + 1 }) }) ∧
  (∀ (f : FaceIx) (s : State), s.up = true → (s.face f.val).state = .rampDown → (s.face f.val).restartLatched = false → s.faces.length = 64 →
    ∃ t, exec (.rampDownComplete f) s = .next t ∧ t.now = Nat.max s.now ((s.face f.val).rampAt + 2000) ∧
      t.face f.val = { s.face f.val with state := .stopped, columns := 0 } ∧ t = { s with now := t.now, faces := t.faces } ∧
      ∀ g : Nat, g ≠ f.val → t.faces[g]? = s.faces[g]?) ∧
  (∀ (f : FaceIx) (s : State), s.up = true → (s.face f.val).state = .rampDown → (s.face f.val).restartLatched = true → s.faces.length = 64 →
    ∃ t, exec (.rampDownComplete f) s = .next t ∧ t.now = Nat.max s.now ((s.face f.val).rampAt + 2000) ∧
      t.face f.val = { s.face f.val with state := .rampUp, restartLatched := false, rampAt := t.now, columns := 1 } ∧
      t = { s with now := t.now, faces := t.faces } ∧ ∀ g : Nat, g ≠ f.val → t.faces[g]? = s.faces[g]?) ∧
  (∀ (f : FaceIx) (s : State), live s = true → (s.face f.val).state = .rampUp → (s.face f.val).pendingOp = none →
    (s.face f.val).inFlight = [] → (s.face (f.val / 2 * 2 + (1 - f.val % 2))).inFlight = [] →
    exec (.rampUpComplete f) s = .next { s with
      now := Nat.max s.now ((s.face f.val).rampAt + 2000)
      faces := s.faces.modify f.val (fun y => { y with
        state := .run, columns := 5, freeAt := (s.die (f.val / 2)).unitsAt (Nat.max s.now ((s.face f.val).rampAt + 2000))
        idleSince := Nat.max s.now ((s.face f.val).rampAt + 2000) }) }) ∧
  (∀ (f : FaceIx) (s u : State) (o : FaceOp) (i : Item), live s = true → (s.face f.val).state = .rampUp →
    u = enterDie { s with
      now := Nat.max s.now ((s.face f.val).rampAt + 2000)
      faces := s.faces.modify f.val (fun y => { y with
        state := .run, columns := 5, freeAt := (s.die (f.val / 2)).unitsAt (Nat.max s.now ((s.face f.val).rampAt + 2000))
        idleSince := Nat.max s.now ((s.face f.val).rampAt + 2000) }) } f.val →
    (u.face f.val).pendingOp = some o → u.item (opItem o) = some i → i.over = false →
    exec (.rampUpComplete f) s = .next (if canBegin (atBoundary u f.val o) f.val o
      then beginOp (u.modFace f.val (fun y => { y with pendingOp := none })) f.val o else u))

/-- LOAD_COMPLETE of a live Face with a LOAD in progress, once no earlier row is still to write its tile, completes at the load's end: the
shadow tile holds the K rows as they stand in the die's Pantry; a line without data fails the item by its code, otherwise only the Face,
the clock and the counters change. With no row in flight ROW_EMERGE changes nothing. A row that entered emerges 524 Face cycles later,
once rows of the other Face that it follows have: on a poisoned line it fails its item; otherwise, of an ended item too, it is compared
where the check has its weights on a Face whose spare is not used by yield; a mirrored output that disagrees takes the mismatch path;
otherwise the flags join an unended item, a row on a Face whose spare is used by yield may become a replay sample, and its outputs go to
the accumulator row (OPEN, ADD) or to the stage units (ADD_CLOSE, PASS); those of an ended item go nowhere. (R60, R63, R66, R68, R69, R70,
R71, R82, R83, R397, R398, R402) -/
def Obligations.RowsAndTilesArrive : Prop :=
  (∀ (f : FaceIx) (p : FaceLoad) (s u : State), live s = true → (s.face f.val).loading = some p →
    let at_ := Nat.max s.now ((s.die (f.val / 2)).nsAt (s.face f.val).loadAt)
    let barred := (earlierStreams s (f.val / 2) (s.face f.val).loadStamp p.item.ctx).any (fun y => (tileSpans p).any (y.willWrite y.next))
    (barred = true → exec (.loadComplete f) s = .next s) ∧
    (barred = false →
      u = { s with now := at_, faces := s.faces.modify f.val (fun x => { x with shadow := some (readTile { s with now := at_ } (f.val / 2) p), loading := none }) } →
      let v := (List.range p.k).foldl (fun s k => countPantry s (Occ.ofItem s p.item (f.val / 2) 0x020 (masterFace (f.val % 2)) s.now)
        (f.val / 2) (p.base + k * p.stride) (rowBytes p.fmt.val p.n)) u
      (∀ w c, facePoison v p.item (f.val / 2) (tileRows p) = (w, some c) → exec (.loadComplete f) s = .next (failItem w p.item c none)) ∧
      (∀ w, facePoison v p.item (f.val / 2) (tileRows p) = (w, none) → exec (.loadComplete f) s = .next w))) ∧
  (∀ (f : FaceIx) (bad : NarrowFaults) (s : State), s.faces.length = 64 → (s.face f.val).inFlight = [] →
    (s.face (f.val / 2 * 2 + (1 - f.val % 2))).inFlight = [] → (s.face f.val).pendingOp = none → exec (.rowEmerge f bad) s = .next s) ∧
  (∀ (f : FaceIx) (bad : NarrowFaults) (x : InFlight) (e : RowEntry) (rest : List InFlight) (es : List RowEntry) (s w : State), live s = true →
    w = enterDie (wakeFace s f.val) f.val → (w.face f.val).inFlight = x :: rest → x.entries = e :: es →
    (emergeWaits w f.val x = true → exec (.rowEmerge f bad) s = .next w) ∧
    (emergeWaits w f.val x = false → ∀ u y,
      u = enterDie { w with now := Nat.max w.now ((w.die (f.val / 2)).nsAt (e.unit + 40 * 524)) } f.val → y = (u.face f.val).inFlight.headD x →
      exec (.rowEmerge f bad) s = .next (emergeRow u f.val y e bad))) ∧
  (∀ (f : FaceIx) (bad : NarrowFaults) (x : InFlight) (e : RowEntry) (s u : State),
    let d := f.val / 2
    let p := x.stream
    let k := x.tile.load.k
    let n := x.tile.load.n
    let groups := if fmtMX p.fmt.val then ceilDiv k 32 else 0
    u = noteWork (s.modFace f.val stepRow) p.item d →
    let ended : Prop := u.item p.item = none ∨ ∃ it, u.item p.item = some it ∧ it.over = true
    let met := facePoison u p.item d ((p.base + x.next * p.stride, rowBytes p.fmt.val k) ::
      (if groups = 0 then [] else [(p.scaleBase + x.next * groups, groups)]))
    (∀ w c, ¬ ended → met = (w, some c) → emergeRow s f.val x e bad = failItem w p.item c none) ∧
    (∀ v0, (ended ∧ v0 = u ∨ ¬ ended ∧ met = (v0, none)) →
      let t1 := isT1 v0 p.item.ctx
      let int := p.fmt.val == 0
      let codes := unpackCodes (fmtWidth p.fmt.val) k (pantryRead v0 d (p.base + x.next * p.stride) (rowBytes p.fmt.val k))
      let scales := if fmtMX p.fmt.val then (pantryRead v0 d (p.scaleBase + x.next * groups) groups).map BitVec.toNat else []
      let ops := (List.range n).map (operands t1 p.fmt.val codes scales x.tile)
      let wide := match (v0.face f.val).spare with
        | some t => if t.load = x.tile.load then (List.range n).map (operands t1 p.fmt.val codes scales t) else ops
        | none => ops
      let acc := p.accBase + x.next * roundUp (5 * n) 64
      let r := rowOut t1 int p.mode ops (readAcc v0 d acc n) bad
      let compared := !(v0.face f.val).spareYield && decide ((v0.face f.val).checkFrom ≤ e.unit + 40 * 524)
      let v := rowEvents v0 f.val x e.ns x.next compared
      (∀ m, compared = true → checkRow (v0.face f.val) t1 int wide r.tile p.item x.next = some m → emergeRow s f.val x e bad =
        mismatched v f.val e.run codeFaceCheck 0x0E m ((v0.face f.val).suspect && decide (e.run < (v0.face f.val).suspectAt + confirmNs v))) ∧
      ((compared = false ∨ checkRow (v0.face f.val) t1 int wide r.tile p.item x.next = none) → emergeRow s f.val x e bad =
        sendRow (takeSample v f.val e.run {
          item := p.item, row := x.next, codes := codes, rowScales := scales, narrow := r.tile, load := x.tile.load,
          fmt := p.fmt, t1 := t1, takenAt := v.now, quanta := 2 * replayQuanta p.fmt.val x.tile.load }) f.val x (e.unit + 40 * 524) r))) ∧
  (∀ (s : State) (f run : Nat) (x : Sample), (s.face f).spareYield = false → takeSample s f run x = s) ∧
  (∀ (s : State) (f unit : Nat) (x : InFlight) (r : RowOut),
    ((s.item x.stream.item = none ∨ ∃ it, s.item x.stream.item = some it ∧ it.over = true) → sendRow s f x unit r = s) ∧
    (∀ it, s.item x.stream.item = some it → it.over = false → sendRow s f x unit r = match x.stream.mode with
      | .openAcc | .add => storeAcc (addFlags s it.ref r.fl) it.ref (f / 2) (x.stream.accBase + x.next * roundUp (5 * x.tile.load.n) 64) unit r.out
      | .addClose | .pass => sendClosed (addFlags s it.ref r.fl) f x.stream x.next unit r.out))

/-- CHECK_ADVANCE of a live Face that is neither suspect, fenced nor short of its spare completes once the check has mirrored its column
for 62.5 us of RUN time, and CONFIRM_WINDOW_EXPIRY of a suspect one once confirm_window of RUN time has passed, which also ends the
suspicion: the check moves to the next of the four columns, counting a full rotation at the wrap, and the spare reads the new column's
weights from the Pantry. REPLAY_COMPLETE takes the oldest sample off: an agreeing replay notes the time, and a disagreeing one takes the
mismatch path, also on a Face that is fenced already. (R83, R84, R398, R402, R403, R404) -/
def Obligations.ChecksRotate : Prop :=
  (∀ (f : FaceIx) (s : State), live s = true → (s.face f.val).suspect = false → (s.face f.val).spareYield = false → (s.face f.val).fenced = false →
    (s.face f.val).checkSince + 62500 ≤ (s.face f.val).runNs → s.faces.length = 64 →
    ∃ t, exec (.checkAdvance f) s = .next t ∧ (t.face f.val).checkCol = (s.face f.val).checkCol + 1 ∧
      (t.face f.val).rotations = (if (s.face f.val).checkCol = 3 then (s.face f.val).rotations + 1 else (s.face f.val).rotations) ∧
      (t.face f.val).checkSince = (s.face f.val).checkSince + 62500 ∧ (t.face f.val).suspect = false ∧
      (t.face f.val).spare = (s.face f.val).active.map (fun v => readTile s (f.val / 2) v.load) ∧
      t = { s with now := t.now, faces := t.faces } ∧ ∀ g : Nat, g ≠ f.val → t.faces[g]? = s.faces[g]?) ∧
  (∀ (f : FaceIx) (s : State), live s = true → (s.face f.val).suspect = true → (s.face f.val).spareYield = false → (s.face f.val).fenced = false →
    (s.face f.val).suspectAt + bits s.cfg.safety 23 16 * 100000 ≤ (s.face f.val).runNs → s.faces.length = 64 →
    ∃ t, exec (.confirmWindowExpiry f) s = .next t ∧ (t.face f.val).suspect = false ∧
      (t.face f.val).checkCol = (s.face f.val).checkCol + 1 ∧ t = { s with now := t.now, faces := t.faces } ∧
      ∀ g : Nat, g ≠ f.val → t.faces[g]? = s.faces[g]?) ∧
  (∀ (f : FaceIx) (x : Sample) (rest : List Sample) (s u : State), live s = true → (s.face f.val).samples = x :: rest → s.faces.length = 64 →
    (s.die (f.val / 2)).sparesFree = 0 → x.quanta = 0 → s.now ≤ x.takenAt + 4000000 →
    u = { s with faces := s.faces.modify f.val (fun z => { z with samples := rest, watch := z.watch - 1 })
                 items := s.items.map (fun i => if i.ref = x.item then { i with replays := i.replays - 1 } else i) } →
    (replayRow u f.val x = none → exec (.replayComplete f) s = .next { u with faces := u.faces.modify f.val (fun z => { z with
      lastRotation := s.now, suspect := z.suspect && z.watch != 0 }) }) ∧
    (∀ m, replayRow u f.val x = some m → exec (.replayComplete f) s = .next
      (mismatched u f.val (s.face f.val).runNs codeReplay 0x10 m (0 < (s.face f.val).watch))))

/-- For a write of bytes bs under a mask of the same length, performed at local offset off within one line and acknowledged, where the
code of a block that it reads from a stack does not take an error for other data: in HBM3E byte a then reads as bs[a - off] where off <= a
< off + length and the mask has it, and as before everywhere else, and no Pantry changes; in Pantry d byte a reads so from the Pantry's
own offset, every other byte of it as before, HBM3E and the other Pantries unchanged. A write of all 64 bytes of a line clears its poison;
a part write leaves it where no further error has come to the line. The map and the queue of the device do not change. (R173, R205, R220,
R247, R248) -/
def Obligations.HomeWritesStoreExactly : Prop :=
  ∀ (s t : State) (who : Who) (off : Nat) (bs : List Byte) (mask : List Bool) (ecc : Ecc),
    performHome s who off (.write bs mask) ecc = (t, .ack) → mask.length = bs.length → off % 64 + bs.length ≤ 64 →
    (∀ counted flip, stackFinds s.memory off ecc ≠ .other counted flip) →
    (locOf off = .hbm →
      (∀ a, t.memory.hbm.read a = if off ≤ a ∧ a < off + bs.length ∧ mask.getD (a - off) false = true then bs.getD (a - off) 0 else s.memory.hbm.read a) ∧
      t.memory.pantry = s.memory.pantry) ∧
    (∀ d o, locOf off = .pantry d o → d < s.memory.pantry.length →
      (∀ a, pantryBytes t.memory d a 1 =
        if o ≤ a ∧ a < o + bs.length ∧ mask.getD (a - o) false = true then [bs.getD (a - o) 0] else pantryBytes s.memory d a 1) ∧
      (∀ e, e ≠ d → t.memory.pantry.getD e [] = s.memory.pantry.getD e []) ∧ t.memory.hbm = s.memory.hbm) ∧
    (coversLine off (.write bs mask) = true → linePoisoned t.memory off = false) ∧
    (linePoisoned s.memory off = true → ecc.errors = [] → coversLine off (.write bs mask) = false → linePoisoned t.memory off = true) ∧
    t.cfg = s.cfg ∧ t.pending = s.pending

/-- At local offset off: a read that answers data answers the bytes then stored there, and where the code does not take an error for other
data these are the bytes that stood there and no byte of HBM3E or a Pantry changes; an atomic that answers its old value then answered the
bytes stored there, and that many bytes at off are atomicNew of the code, the old value and the operands cut to their width, every other
byte as before; an access answered refused, RETRY, poisoned or uncorrectable changes no byte. For a 4-byte ADD atomicNew is the sum modulo
2^32; for a CAS it is the operand where the old value equals the compare value and the old value otherwise. (R205, R226, R228, R229, R230,
R232, R247) -/
def Obligations.HomeReadsAndAtomics : Prop :=
  (∀ (s t : State) (who : Who) (off n : Nat) (ecc : Ecc) (bs : List Byte), performHome s who off (.read n) ecc = (t, .data bs) →
    bs = rawRead t.memory off n ∧ ((∀ counted flip, stackFinds s.memory off ecc ≠ .other counted flip) →
      bs = rawRead s.memory off n ∧ t.memory.hbm = s.memory.hbm ∧ t.memory.pantry = s.memory.pantry)) ∧
  (∀ (s t : State) (who : Who) (off code v c o : Nat) (fl : BitVec 8) (ecc : Ecc), performHome s who off (.atomic code v c) ecc = (t, .old o fl) →
    locOf off = .hbm → (∀ counted flip, stackFinds s.memory off ecc ≠ .other counted flip) →
    o = leNat (rawRead s.memory off (atomicBytes code)) ∧
    fl = (atomicNew code o (v % 2 ^ (8 * atomicBytes code)) (c % 2 ^ (8 * atomicBytes code))).fl ∧
    t.memory.hbm = s.memory.hbm.writeBytes off
      (leBytes (atomicBytes code) (atomicNew code o (v % 2 ^ (8 * atomicBytes code)) (c % 2 ^ (8 * atomicBytes code))).val) ∧
    t.memory.pantry = s.memory.pantry) ∧
  (∀ (s t : State) (who : Who) (off : Nat) (op : AccOp) (ecc : Ecc) (ans : Ans), performHome s who off op ecc = (t, ans) →
    (ans = .refused ∨ ans = .retry ∨ ans = .poisoned ∨ ∃ p, ans = .uncorrectable p) →
    t.memory.hbm = s.memory.hbm ∧ t.memory.pantry = s.memory.pantry) ∧
  (∀ o v c : Nat, (atomicNew 0 o v c).val = (o + v) % 2 ^ 32) ∧
  (∀ o v c : Nat, (atomicNew 18 o v c).val = if o = c then v else o)

/-- For every state in which no access waits at a line, every item and list of (address, bytes) that the item writes from engines, after
the writes every HBM3E byte of the device whose address lies in none of the written ranges, and in no line that the context held dirty in
a Pantry cache, reads as before, also where a home refuses or answers RETRY or a write stays held. A FILL that has issued all its accesses
has written only the rows of its descriptor: bytes outside those rows and outside lines that the context held dirty in a Pantry cache read
as before. (R237, R238, R247, R248, R255) -/
def Obligations.ItemWritesStayInside : Prop :=
  (∀ (s : State) (r : ItemRef) (ws : List (Nat × List Byte)) (exempt : Bool) (a : Nat), a < 2 ^ 48 → s.memory.queues = [] →
    (∀ w ∈ ws, ¬ (w.1 ≤ s.deviceNumber * 2 ^ 48 + a ∧ s.deviceNumber * 2 ^ 48 + a < w.1 + w.2.length)) →
    (∀ l ∈ s.memory.cache, l.ctx = r.ctx → l.dirty ≠ 0 → l.line ≠ (s.deviceNumber * 2 ^ 48 + a) / 64) →
    (writeRanges s r none ws exempt).1.memory.hbm.read a = s.memory.hbm.read a) ∧
  (∀ (s t : State) (c : CtxIx) (seq : Nat) (i : Item) (a : Nat), exec (.fill c seq) s = .next t → s.item ⟨c.val, seq⟩ = some i → a < 2 ^ 48 →
    s.memory.queues = [] →
    (∃ j, t.item ⟨c.val, seq⟩ = some j ∧ j.stage = .issued) →
    (∀ l ∈ s.memory.cache, l.ctx = i.ref.ctx → l.dirty ≠ 0 → l.line ≠ (s.deviceNumber * 2 ^ 48 + a) / 64) →
    (∀ p ∈ haulDests (haulD i.words), ¬ (p.1 ≤ s.deviceNumber * 2 ^ 48 + a ∧ s.deviceNumber * 2 ^ 48 + a < p.1 + (haulD i.words).cols)) →
    t.memory.hbm.read a = s.memory.hbm.read a)

/-- A running chain whose cores' clocks do not all run does nothing yet; one that a pin refuses waits for the pin; one whose loads or
accumulated rows are not all there waits, as does one whose stores a replay still holds, and a code of a load or a store fails it;
PIN_RETRY lets 1 us pass and runs it again; PIN_RELEASE_RETRY lets 1 us pass before it issues the waiting releases. With its pins taken,
its loads read, its accumulated rows read and no line both read and stored to, CHAIN adds the flags of its results, counts its tile-rows,
writes the bytes of its stores and has all its accesses issued; its bank and cores go once none of its writes is held. (R97, R116, R128,
R131, R168, R191, R402) -/
def Obligations.ChainsAndPins : Prop :=
  (∀ (c : CtxIx) (seq : Nat) (s : State) (i : Item), live s = true → s.item ⟨c.val, seq⟩ = some i → i.stage = .running → kindOf i.words = kChain →
    (coresAwake s i = false → exec (.chain c seq) s = .next s) ∧ (coresAwake s i = true →
    let d := chainD i.words
    (∀ v, takePins s i.ref (((d.loads.map d.entry).filter tnVersioned).map tnBase).dedup = (v, .wait) →
      exec (.chain c seq) s = .next (v.modItem i.ref (fun j => { j with waitFor := .pin }))) ∧
    (∀ v code, takePins s i.ref (((d.loads.map d.entry).filter tnVersioned).map tnBase).dedup = (v, .fail code) →
      exec (.chain c seq) s = .next (failItem v i.ref code none)) ∧
    (∀ v bases l, takePins s i.ref (((d.loads.map d.entry).filter tnVersioned).map tnBase).dedup = (v, .ok bases) →
      l = readLoads (v.modItem i.ref (fun j => { j with waitFor := .none })) d i.ref i.die bases →
      (∀ code, l.code = some code → exec (.chain c seq) s = .next (failItem l.s i.ref code none)) ∧
      (l.code = none → l.raw = none → exec (.chain c seq) s = .next l.s) ∧
      (l.code = none → l.raw.isSome = true →
        d.sharedBy l = [] →
        ∀ (e : Env) rows, e = {
            c := d, t1 := isT1 l.s i.ref.ctx, seed := (l.s.partCfg i.partition).seed.toNat, hosts := l.s.cfg.hostWindows,
            loads := loadVals d (isT1 l.s i.ref.ctx) l } → rows = d.storeRows e e.results.val →
          (∀ x olds code, readOlds l.s i.ref i.die d e.t1 rows = (x, olds, some code) → exec (.chain c seq) s = .next (failItem x i.ref code none)) ∧
          (∀ x, readOlds l.s i.ref i.die d e.t1 rows = (x, none, none) → exec (.chain c seq) s = .next x) ∧
          (∀ y olds ws, readOlds l.s i.ref i.die d e.t1 rows = (y, some olds, none) → ws = d.allBytes e olds rows →
            (storesHeld y i.ref.ctx ws.val = true → exec (.chain c seq) s = .next y) ∧
            (storesHeld y i.ref.ctx ws.val = false →
              (∀ z, writeRanges (countTileRows (addFlags y i.ref (e.results.fl ||| ws.fl)) i d) i.ref i.die ws.val false = (z, none) →
                exec (.chain c seq) s = .next (releaseIssued (issued
                  ((noteStores z (i.die.getD 0) ws.val).modItem i.ref (fun j => { j with rowBlocks := d.blocks.length })) i.ref) i.ref)) ∧
              (∀ z code, writeRanges (countTileRows (addFlags y i.ref (e.results.fl ||| ws.fl)) i d) i.ref i.die ws.val false = (z, some code) →
                exec (.chain c seq) s = .next (failItem z i.ref code none))))))) ) ∧
  (∀ (c : CtxIx) (seq : Nat) (s : State) (i : Item), live s = true → s.item ⟨c.val, seq⟩ = some i → i.stage = .running → kindOf i.words = kChain →
    i.waitFor = .pin → coresAwake s i = true → exec (.pinRetry c seq) s = .next (runChain { s with now := Nat.max s.now (s.now + 1000) } i)) ∧
  (∀ (c : CtxIx) (s : State), s.up = true → (s.ctx c.val).releases ≠ [] →
    exec (.pinReleaseRetry c) s = .next (retryReleases { s with now := Nat.max s.now (s.now + 1000) } c.val))

/-- For a running HAUL whose reads are there: COPY writes each source row to the row of its number, TRANSPOSE the turned rows and scale
rows, SCATTER each source row to the row its index names in ascending order but for index 0xFFFFFFFF, GATHER the rows its indices name
with zeros for 0xFFFFFFFF, FILL the pattern repeated over each row, ATOMIC one atomic per element in row-major order, each issued or,
where its way is not clear, staged. Lines read and written in no fixed order get arbitrary bytes (R255). Where the accesses raise no code
every access is issued; a code ends the item. A read that is not there waits. Indexed rows keep inside their device or host window. (R168,
R236, R237, R238, R253, R254, R255) -/
def Obligations.HaulItemsMove : Prop :=
  (∀ (c : CtxIx) (seq : Nat) (s : State) (i : Item), live s = true → s.item ⟨c.val, seq⟩ = some i → i.stage = .running → kindOf i.words = kHaul →
    let d := haulD i.words
    let rows := rowRanges d.src d.srcStride d.rows d.cols
    let put (t : State) (reads dests : List (Nat × Nat)) (bss : List (List Byte)) (f : List (List Byte) → List (Nat × List Byte)) : State :=
      putRanges (blurReads t reads dests bss).1 i.ref none reads (f (blurReads t reads dests bss).2) false
    let named (base stride : Nat) (ix : List Byte) : List (Nat × Nat) :=
      (rowAddrs s.cfg.hostWindows base stride d.rows d.cols (some (words32 ix))).map (fun a => (a.getD 0, if a.isSome then d.cols else 0))
    (d.op = 0 → ∀ t bss, itemReads s i.ref none rows = (t, some bss, none) →
      exec (.copy c seq) s = .next (put t rows (haulDests d) bss (fun b => ((haulDests d).zip b).map (fun p => (p.1.1, p.2))))) ∧
    (d.op = 0 → ∀ t, itemReads s i.ref none rows = (t, none, none) → exec (.copy c seq) s = .next t) ∧
    (d.op = 0 → ∀ t x code, itemReads s i.ref none rows = (t, x, some code) → exec (.copy c seq) s = .next (failItem t i.ref code none)) ∧
    (d.op = 1 → ∀ t bss,
      let scales := if fmtMX d.fmt then rowRanges (d.src + d.srcScale) (roundUp (ceilDiv d.cols 32) 64) d.rows (ceilDiv d.cols 32) else []
      let turned := if fmtMX d.fmt then rowRanges (d.dst + d.dstScale) (roundUp d.rows 64) (ceilDiv d.cols 32) d.rows else []
      let reads := rowRanges d.src d.srcStride d.rows (rowBytes d.fmt d.cols) ++ scales
      itemReads s i.ref none reads = (t, some bss, none) →
      exec (.transpose c seq) s = .next (put t reads (haulDests d ++ turned) bss (fun b =>
        ((haulDests d).zip (turnRows (fmtWidth d.fmt) d.rows d.cols (b.take d.rows))).map (fun p => (p.1.1, p.2))
          ++ (turned.zip (turn 0 (ceilDiv d.cols 32) (b.drop d.rows))).map (fun p => (p.1.1, p.2))))) ∧
    (d.op = 2 → ∀ t ix w jx v bss, itemReads s i.ref none [(d.aux, 4 * d.rows)] = (t, some ix, none) →
      blurReads t [(d.aux, 4 * d.rows)] (haulDests d) ix = (w, jx) → w.cfg = s.cfg →
      readRows w i.ref none (rowAddrs s.cfg.hostWindows d.src d.srcStride d.rows d.cols (some (words32 (jx.headD [])))) d.cols = (v, some bss, none) →
      exec (.gather c seq) s = .next (putRanges (blurReads v (named d.src d.srcStride (jx.headD [])) (haulDests d) bss).1 i.ref none
        ((d.aux, 4 * d.rows) :: named d.src d.srcStride (jx.headD []))
        (((haulDests d).zip (blurReads v (named d.src d.srcStride (jx.headD [])) (haulDests d) bss).2).map (fun p => (p.1.1, p.2))) false)) ∧
    (d.op = 3 → ∀ t bss, itemReads s i.ref none ((d.aux, 4 * d.rows) :: rows) = (t, some bss, none) → t.cfg = s.cfg →
      exec (.scatter c seq) s = .next (put t ((d.aux, 4 * d.rows) :: rows) (named d.dst d.dstStride (bss.headD [])) bss (fun b =>
        ((b.drop 1).zip (named d.dst d.dstStride (b.headD []))).filterMap (fun p => if p.2.2 = 0 then none else some (p.2.1, p.1))))) ∧
    (d.op = 4 → exec (.fill c seq) s = .next (putRanges s i.ref none []
      ((haulDests d).map (fun x => (x.1, (List.range d.cols).map (fun k => (leBytes 8 d.pattern.toNat).getD (k % 8) 0)))) false)) ∧
    (d.op = 5 →
      let reads := rowRanges d.src d.srcStride d.rows d.rowShape.1
      let targets := rowRanges d.dst d.dstStride d.rows (d.cols * atomicBytes d.aop)
      let results := if d.ret then [(d.aux, d.rows * d.cols * atomicBytes d.aop)] else []
      ∀ t bss w ass v code, itemReads s i.ref none reads = (t, some bss, none) → blurReads t reads (targets ++ results) bss = (w, ass) →
        ((atomicElems d ass).zip (List.range (atomicElems d ass).length)).foldl (fun acc e => match acc.2 with
            | some _ => acc
            | none => itemAtomic acc.1 i.ref e.1.1 d.aop e.1.2.1 e.1.2.2 (if d.ret then some (d.aux + e.2 * atomicBytes d.aop) else none))
          (w.modItem i.ref (fun j => { j with blur := sharedLines (reads ++ targets) results }), none) = (v, code) →
        (code = none → exec (.atomic c seq) s = .next (issued (scrambleShared v i.ref (sharedLines reads targets ++ sharedLines results targets)) i.ref)) ∧
        (∀ k, code = some k → exec (.atomic c seq) s = .next (failItem v i.ref k none)))) ∧
  (∀ (s u : State) (r : ItemRef) (a code v cmp : Nat) (ret : Option Nat),
    (writeWay s r none (a, atomicBytes code) = (u, true) → itemAtomic s r a code v cmp ret = issueAtomic u r a code v cmp ret) ∧
    (writeWay s r none (a, atomicBytes code) = (u, false) →
      (itemAtomic s r a code v cmp ret).1 = u.modItem r (fun i => { i with
        staged := i.staged ++ [⟨none, a, List.replicate (atomicBytes code) 0, false, some (code, v, cmp, ret)⟩] }))) ∧
  (∀ (t v : State) (r : ItemRef) (reads : List (Nat × Nat)) (ws : List (Nat × List Byte)), sharedLines reads (writeSpans ws) = [] →
    (writeRanges t r none ws false = (v, none) → putRanges t r none reads ws false = issued v r) ∧
    (∀ code, writeRanges t r none ws false = (v, some code) → putRanges t r none reads ws false = failItem v r code none))

/-- In a live device LOAD_PIECE_DISPATCH puts a piece that arrives and may be sent at the end of the Landing's queue, drops the waiting
pieces whose chains have ended, and gives the first of the rest to the engine that pieceEngine names, which becomes busy with its clock
running: the lowest free engine of those that serve pieces, and, where none is reserved for them, only when no item that was ready before
waits for an engine. With none waiting or no engine only the queue changes. ENGINE_PIECE_COMPLETE of a piece whose chain goes on reads its
source, stores its rows in the Pantry of its die, notes them as the item's, counts the accesses and frees the engine; it waits while a
read is not there or a replay still reads what it would write, a code ends the item and frees the engine; one whose chain has ended only
frees it. ENGINE_CLOCK_STOP of an idle engine whose clock runs stops the clock 1.05 us after it became idle, and leaves any other alone.
(R171, R233, R234, R235, R236, R392) -/
def Obligations.PiecesAndEngines : Prop :=
  (∀ (l : LandIx) (k : EngineKind) (arrival : Option Piece) (s : State), live s = true → l.val < s.landings.length →
    let tipple : Bool := k == .tipple
    let came : List (Nat × Piece) := match arrival with
      | some p => if pieceOk s l.val tipple p then [(s.now, p)] else []
      | none => []
    let alive (q : Nat × Piece) : Bool := match s.item q.2.item with
      | some i => !i.over
      | none => false
    let q := ((s.landing l.val).queue tipple ++ came).filter alive
    let with_ (q : List (Nat × Piece)) : State := { s with landings := s.landings.modify l.val (fun x =>
      if tipple then { x with tippleQueue := q } else { x with haulQueue := q }) }
    (q = [] → exec (.loadPieceDispatch l k arrival) s = .next (with_ [])) ∧
    (∀ t p rest, q = (t, p) :: rest →
      (pieceEngine (with_ q) l.val tipple t = none → exec (.loadPieceDispatch l k arrival) s = .next (with_ q)) ∧
      (∀ e, pieceEngine (with_ q) l.val tipple t = some e → exec (.loadPieceDispatch l k arrival) s = .next { s with
        landings := s.landings.modify l.val (fun x =>
          if tipple then { x with tippleQueue := rest, tipple := x.tipple.modify e (fun y => { y with busy := some p.item, piece := some p, clock := true }) }
          else { x with haulQueue := rest, haul := x.haul.modify e (fun y => { y with busy := some p.item, piece := some p, clock := true }) }) }))) ∧
  (∀ (s : State) (l t e : Nat) (tipple : Bool), pieceEngine s l tipple t = some e →
    (((s.landing l).engines tipple).getD e Engine.cold).busy = none ∧
    (∀ d < e, (((s.landing l).engines tipple).getD d Engine.cold).busy ≠ none) ∧
    e < (if chainEngines s tipple ≠ 0 then chainEngines s tipple else if tipple then 4 else 16) ∧
    (chainEngines s tipple = 0 → itemBefore s l tipple t = false)) ∧
  (∀ (l : LandIx) (k : EngineKind) (engine : Nat) (s : State) (p : Piece), s.up = true → s.boot.creset = none →
    (((s.landing l.val).engines (k == .tipple)).getD engine Engine.cold).piece = some p →
    let tipple : Bool := k == .tipple
    let d := p.dstDie.val
    let reads := rowRanges p.src p.srcStride p.rows ((p.cols * p.elemBits + 7) / 8)
    let held := tileHeld s d p.item.ctx p.dst (if p.transpose then rowsLen p.cols p.dstStride ((p.rows * p.elemBits + 7) / 8)
      else rowsLen p.rows p.dstStride ((p.cols * p.elemBits + 7) / 8))
    ((s.item p.item = none ∨ ∃ i, s.item p.item = some i ∧ i.over = true) →
      exec (.enginePieceComplete l k engine) s = .next (freeEngine s l.val tipple engine)) ∧
    (∀ i, s.item p.item = some i → i.over = false → held = true → exec (.enginePieceComplete l k engine) s = .next s) ∧
    (∀ i, s.item p.item = some i → i.over = false → held = false →
      (∀ u, itemReads s p.item none reads = (u, none, none) → exec (.enginePieceComplete l k engine) s = .next u) ∧
      (∀ u x c, itemReads s p.item none reads = (u, x, some c) →
        exec (.enginePieceComplete l k engine) s = .next (freeEngine (failItem u p.item c none) l.val tipple engine)) ∧
      (∀ u bss, itemReads s p.item none reads = (u, some bss, none) →
        let rows := (pieceRows p bss).zip (List.range (pieceRows p bss).length)
        let ends := (List.range (pieceRows p bss).length).map (fun r => p.dst + r * p.dstStride + ((pieceRows p bss).getD r []).length)
        ∀ v o, v = { u with
            memory := rows.foldl (fun m q => pantryPut m d (p.dst + q.2 * p.dstStride) q.1) u.memory
            items := u.items.map (fun j => if j.ref = p.item then { j with areas := j.areas ++ [(p.dst, maxOf (p.dst :: ends))] } else j) } →
          o = { Occ.ofItem v p.item (76 + l.val) 0x036 (if tipple then masterTipple engine else masterHaul engine) v.now with
            lomium := some (v.deviceNumber * 2 ^ 48 + pantryBase + d * pantrySize + p.dst) } →
          exec (.enginePieceComplete l k engine) s = .next (freeEngine (count (rows.foldl
            (fun t q => countPantry t { o with lomium := none } d (p.dst + q.2 * p.dstStride) q.1.length) v) o) l.val tipple engine)))) ∧
  (∀ (l : LandIx) (k : EngineKind) (engine : Nat) (s : State),
    (((s.landing l.val).engines (k == .tipple)).getD engine Engine.cold).piece = none → exec (.enginePieceComplete l k engine) s = .next s) ∧
  (∀ (l : LandIx) (k : EngineKind) (engine : Nat) (s : State),
    let e := ((s.landing l.val).engines (k == .tipple)).getD engine Engine.cold
    (e.clock = true → e.busy = none → s.up = true → exec (.engineClockStop l k engine) s = .next (modEngines
      { s with now := Nat.max s.now (e.idleSince + 1050) } l.val (k == .tipple) (fun es => es.modify engine (fun x => { x with clock := false })))) ∧
    ((e.clock = false ∨ e.busy ≠ none) → exec (.engineClockStop l k engine) s = .next s))

/-- For a running BENCH item with its cores' clocks running and its ranges read: NORM_BWD, SOFTMAX_BWD, ROW_STATS, RUBBLE_ENCODE and
COPY_ROUND compute their results from the bytes read, add the flags these raise to the item and write the result's bytes; RUBBLE_DECODE
reads the tags first and then the slots it needs. A read that is not there waits, one that fails ends the item. A BENCH whose cores'
clocks do not all run does nothing yet. (R123, R124, R149, R168, R194, R197) -/
def Obligations.BenchItemsCompute : Prop :=
  (∀ (c : CtxIx) (seq : Nat) (s : State) (i : Item), live s = true → s.item ⟨c.val, seq⟩ = some i → i.stage = .running → kindOf i.words = kBench →
    let d := benchD i.words
    let done (reads dests : List (Nat × Nat)) (f : State → List (List Byte) → State × Fl (List (Nat × List Byte))) (t : State) (bss : List (List Byte)) : State :=
      putRanges (addFlags (f (blurReads t reads dests bss).1 (blurReads t reads dests bss).2).1 i.ref
        (f (blurReads t reads dests bss).1 (blurReads t reads dests bss).2).2.fl) i.ref i.die reads
        (f (blurReads t reads dests bss).1 (blurReads t reads dests bss).2).2.val false
    let gives (e : Instr) (reads dests : List (Nat × Nat)) (f : State → List (List Byte) → State × Fl (List (Nat × List Byte))) : Prop :=
      (∀ t bss, itemReads s i.ref i.die reads = (t, some bss, none) → exec e s = .next (done reads dests f t bss)) ∧
      (∀ t, itemReads s i.ref i.die reads = (t, none, none) → exec e s = .next t) ∧
      (∀ t x code, itemReads s i.ref i.die reads = (t, x, some code) → exec e s = .next (failItem t i.ref code none))
    (coresAwake s i = false → ∀ e ∈ [Instr.normBwd c seq, .softmaxBwd c seq, .rowStats c seq, .rubbleEncode c seq, .rubbleDecode c seq, .copyRound c seq],
      exec e s = .next s) ∧
    (coresAwake s i = true →
      (d.fn = 1 → gives (.normBwd c seq) (backReads d ++ (if d.src2 = 0 then [] else [(d.src2, 4 * d.cols)]) ++ gradRanges d) (benchDests d)
        (fun s bss => normBwdOut s i d bss)) ∧
      (d.fn = 2 → gives (.softmaxBwd c seq) (backReads d) (benchDests d) (fun s bss => softmaxBwdOut s i d bss)) ∧
      (d.fn = 3 → gives (.rowStats c seq) (rowRanges d.src0 d.inStride d.rows (rowBytes d.fmtIn d.cols)) (rowRanges d.dst0 64 d.rows 64)
        (fun s bss => rowStatsOut s d bss)) ∧
      (d.fn = 4 → gives (.rubbleEncode c seq) (rowRanges d.src0 2048 d.rows 2048) (rowRanges d.dst0 2048 d.rows 2048 ++ [(d.dst1, d.rows)])
        (fun s bss => (s, ⟨(bss.zip (List.range bss.length)).flatMap (fun x => encodedWrites d x.2 x.1), 0⟩))) ∧
      (d.fn = 6 → gives (.copyRound c seq) (rowRanges d.src0 d.inStride d.rows (rowBytes d.fmtIn d.cols)) (benchDests d)
        (fun s bss => copyRoundOut s i d bss))) ∧
    (coresAwake s i = true → d.fn = 5 → exec (.rubbleDecode c seq) s = .next (runRubbleDecode s i d)))

/-- BENCH_CORE_STOP of a core whose clock runs and that is free, or that has a wake latched, completes 0.2 us after it has been idle for
idle_gap: its clock is stopped, a latched wake begins and is no longer latched. BENCH_CORE_WAKE of a stopped core with a wake under way
completes 1 us later: its clock runs. Only the clock and that core change. BENCH_QUANTUM lets 2.048 us pass in a live device; a core owned
by an item, where no collective work is under way or holds a core, no lost core waits to be given back and no replay sample waits, keeps
its owner, and core 31's quantum count grows by 1 modulo 16, a replay falling due as it wraps, or stays at 15 while one is due. On a die
with a waiting sample and no spare core a free core 31 goes to the replay that is due when the command says so or the count has reached
15; a core that replays gives its quantum to the sample and goes back. (R191, R200, R201, R203, R370, R404) -/
def Obligations.BenchCoresStopAndWake : Prop :=
  (∀ (d core : DieIx) (s : State), s.up = true → ((s.die d.val).core core.val).awake = true →
    (((s.die d.val).core core.val).owner = .free ∨ ((s.die d.val).core core.val).wakeLatched = true) →
    exec (.benchCoreStop d core) s = .next { s with
      now := Nat.max s.now (((s.die d.val).core core.val).idleSince + bits s.cfg.bench 39 24 * 100 + 200)
      dies := s.dies.modify d.val (fun x => { x with cores := x.cores.modify core.val (fun k =>
        { k with awake := false, waking := k.wakeLatched, wakeLatched := false }) }) }) ∧
  (∀ (d core : DieIx) (s : State), s.up = true → ((s.die d.val).core core.val).awake = false → ((s.die d.val).core core.val).waking = true →
    exec (.benchCoreWake d core) s = .next { s with
      now := s.now + 1000
      dies := s.dies.modify d.val (fun x => { x with cores := x.cores.modify core.val (fun k =>
        { k with awake := true, waking := false, idleSince := s.now + 1000 }) }) }) ∧
  (∀ (d core : DieIx) (s : State) (r : ItemRef), live s = true → ((s.die d.val).core core.val).owner = .item r →
    (∀ i ∈ s.items, kindOf i.words ≠ kColl) → (s.die d.val).lossOrder = [] → (∀ k ∈ (s.die d.val).cores, k.owner ≠ .collective) →
    pendingSample s d.val = none → ∀ replay, exec (.benchQuantum d core replay) s = .next (if core.val = 31 then
        { s with now := s.now + 2048, dies := s.dies.modify d.val nextQuantum } else { s with now := s.now + 2048 })) ∧
  (∀ x : Die, (x.replayDue = false → nextQuantum x = { x with quanta31 := (x.quanta31 + 1) % 16, replayDue := (x.quanta31 + 1) % 16 == 0 }) ∧
    (x.replayDue = true → nextQuantum x = { x with quanta31 := if x.quanta31 = 15 then 15 else (x.quanta31 + 1) % 16 })) ∧
  (∀ (d : DieIx) (replay : Bool) (s u : State) (o : Option ItemRef), live s = true → d.val < s.dies.length →
    u = { s with now := s.now + 2048, dies := s.dies.modify d.val nextQuantum } →
    (((s.die d.val).core 31).owner = .replay o → exec (.benchQuantum d 31 replay) s = .next (replayGive u d.val)) ∧
    (((s.die d.val).core 31).owner = .free → (s.die d.val).sparesFree = 0 → (pendingSample s d.val).isSome = true →
      (nextQuantum (s.die d.val)).replayDue = true → (replay = true ∨ (nextQuantum (s.die d.val)).quanta31 = 15) →
      (s.die d.val).cores.length = 32 →
      exec (.benchQuantum d 31 replay) s = .next ((ownCores u d.val [31] (.replay none)).modDie d.val (fun y => { y with replayDue := false }))))

/-- In a live device: UPDATE of a queued candidate starts it; of a running one whose cores' clocks run and that has not shipped its writes
it computes and writes; a running one without its cores' clocks waits. NORM_CELL_POLL of an item that waits for its norm cell reads it
again; a cell that is not valid for the step is read again later, a norm that is no finite number ends the item QUARANTINED 0x34, any
other gives kappa, which is 1 for a norm of at most max_norm, and the claim comes next. UPDATE_CLAIM_POLL of an item that waits for a
buffer lets 1 us pass and tries the claim. UPDATE_COMMIT of a running item that has shipped lets its held writes go on, writes back its
own dirty bytes and tries the commit. Each leaves an item it does not apply to alone. (R132, R133, R134, R141, R142, R145) -/
def Obligations.UpdatesStartAndCommit : Prop :=
  (∀ (c : CtxIx) (seq : Nat) (s : State) (i : Item), updateItem s c.val seq = some i →
    (candidate s i = true → exec (.update c seq) s = .next (startUpdate s i)) ∧
    (i.stage = .running → i.shipped = false → coresAwake s i = true → exec (.update c seq) s = .next (runUpdate s i)) ∧
    (i.stage = .running → coresAwake s i = false → exec (.update c seq) s = .next s) ∧
    (i.stage = .waiting → i.waitFor = .normCell → exec (.normCellPoll c seq) s = .next (pollNorm s i)) ∧
    (i.waitFor ≠ .normCell → exec (.normCellPoll c seq) s = .next s) ∧
    (i.shipped = true → i.stage = .running → ∀ j, updateItem (flushOwned (goStaged s i.ref) i) c.val seq = some j →
      exec (.updateCommit c seq) s = .next (tryCommit (flushOwned (goStaged s i.ref) i) j)) ∧
    (i.shipped = false → exec (.updateCommit c seq) s = .next s)) ∧
  (∀ (c : CtxIx) (seq : Nat) (s : State) (i : Item), claimWaiter s c.val seq = some i →
    exec (.updateClaimPoll c seq) s = .next (tryClaim { s with now := s.now + 1000 } i)) ∧
  (∀ (s : State) (i : Item) (d : UpdateD) (bs : List Byte),
    let norm := decodeFloat fmtFP64 (wd (bytesWords bs) 1).toNat
    let valid := bitAt (wd (bytesWords bs) 2) 0 && bits (wd (bytesWords bs) 2) 63 32 == d.step
    (valid = false → takeNorm s i d bs = readAgain s i.ref d.normCell 64) ∧
    (valid = true → (norm.isNan = true ∨ norm.isInf = true) → takeNorm s i d bs = endItem s i.ref .quarantined 0x34 0) ∧
    (valid = true → norm.isNan = false → norm.isInf = false → Machine.Num.le norm (fp32 d.maxNorm) = true →
      takeNorm s i d bs = (addFlags s i.ref 0).modItem i.ref (fun j => { j with
        waitFor := .claim, normFolded := some (BitVec.ofNat 64 (roundEncode fmtFP32 Machine.Num.one)) }))) ∧
  ((ratioOf [] []).val = Machine.Num.zero) ∧ (∀ d : UpdateD, ratioOk d .nan = false)

/-- For a running COLLECTIVE of any of the six ops that has not finished its transfers: where its instance has begun it advances; where it
has not begun and is not versioned it begins: what came early is checked, a NORM_ALLREDUCE takes its accumulator's value, and it advances.
A versioned gather first pins its shard record. VERSIONED_GATHER_COMMIT of one whose transfers are over writes the version number and
commits. CHUNK_DEADLINE of a chunk whose deadline runs and has not passed reaches it and advances with it passed. (R303, R307, R308, R309,
R310, R312, R313, R316) -/
def Obligations.CollectivesBeginAndAdvance : Prop :=
  (∀ (c : CtxIx) (seq : Nat) (s : State) (i : Item), live s = true → s.item ⟨c.val, seq⟩ = some i → i.stage = .running → kindOf i.words = kColl →
    i.shipped = false →
    ∀ e ∈ [(Instr.reduceScatter c seq, 0), (.allGather c seq, 1), (.allReduce c seq, 2), (.broadcast c seq, 3), (.allToAll c seq, 4), (.normAllreduce c seq, 5)],
      (collD i.words).op = e.2 →
      ((collOf s i.ref).isSome = true → exec e.1 s = .next (advanceColl s i.ref)) ∧
      (collOf s i.ref = none → (collD i.words).versioned = false → exec e.1 s = .next (startColl s i)) ∧
      (collOf s i.ref = none → (collD i.words).versioned = true → i.ownPin = none →
        ∀ j, (takeOwnPin s i (collD i.words).src).item i.ref = some j → j.ownPin = none →
        exec e.1 s = .next (takeOwnPin s i (collD i.words).src))) ∧
  (∀ (c : CtxIx) (seq : Nat) (s : State) (i : Item), live s = true → s.item ⟨c.val, seq⟩ = some i → i.stage = .running → kindOf i.words = kColl →
    (collD i.words).versioned = true → i.shipped = true → exec (.versionedGatherCommit c seq) s = .next (gatherCommit s i)) ∧
  (∀ (c : CtxIx) (seq chunk at_ : Nat) (s : State) (i : Item) (x : Coll), live s = true → s.item ⟨c.val, seq⟩ = some i → i.stage = .running →
    kindOf i.words = kColl → collOf s i.ref = some x → x.deadlines.find? (fun d => d.1 == chunk) = some (chunk, at_) →
    (chunk ∉ x.passed → exec (.chunkDeadline c seq chunk) s = .next (advanceColl
      (modCollOf { s with now := Nat.max s.now at_ } i.ref (fun y => { y with passed := y.passed ++ [chunk] })) i.ref)) ∧
    (chunk ∈ x.passed → exec (.chunkDeadline c seq chunk) s = .next s))

/-- In a live device, for a FENCE candidate of a context: FENCE_WRITE without flush only starts and is issued; with flush it also writes
back the context's dirty lines of its range. After FENCE_ACQUIRE or FENCE_FULL no clean line of the context that its range touches is in
any cache partition, and every line that is left of the range keeps only its dirty bytes; FENCE_ACQUIRE changes no byte of HBM3E or of a
Pantry. With base and length 0 the range is every line of the context's cache partition. (R164, R210, R211, R259, R260, R261) -/
def Obligations.FencesStart : Prop :=
  ∀ (c : CtxIx) (seq : Nat) (s : State) (i : Item), live s = true → s.item ⟨c.val, seq⟩ = some i → candidate s i = true → kindOf i.words = kFence →
    (fenceType i.words = 0 → exec (.fenceWrite c seq) s = .next (issued
      (if fenceFlush i.words then flushRange (startItem s i.ref id) i else startItem s i.ref id) i.ref)) ∧
    (fenceType i.words = 1 → ∃ t, exec (.fenceAcquire c seq) s = .next t ∧
      (∀ l ∈ t.memory.cache, inRange i.ref.ctx (fenceRange i.words) l = true → l.valid = l.dirty ∧ l.dirty ≠ 0) ∧
      (∀ l ∈ (startItem s i.ref id).memory.cache, inRange i.ref.ctx (fenceRange i.words) l = false → l ∈ t.memory.cache) ∧
      t.memory.hbm = (startItem s i.ref id).memory.hbm ∧ t.memory.pantry = (startItem s i.ref id).memory.pantry) ∧
    (fenceType i.words = 2 → ∃ t, exec (.fenceFull c seq) s = .next t ∧
      (∀ l ∈ t.memory.cache, inRange i.ref.ctx (fenceRange i.words) l = true → l.valid = l.dirty ∧ l.dirty ≠ 0) ∧
      t = issued (acquireRange (if fenceFlush i.words then flushRange (startItem s i.ref id) i else startItem s i.ref id) i) i.ref) ∧
    (fenceBase i.words = 0 → fenceLen i.words = 0 → ∀ l : CacheLine, inRange i.ref.ctx (fenceRange i.words) l = (l.ctx == i.ref.ctx))

/-- In a live device, for a MARK candidate: NOTE ends DONE with value[31:0] in aux; PIN_RELEASE releases the context's pins and ends DONE;
PUBLISH starts with value to address as its flagged final write; WAIT reads address. MARK_WAIT_POLL of a WAIT that runs reads again at the
next whole microsecond from its start. A read that satisfies cmp against value ends it DONE, as does a word of another home when it comes;
another is forgotten and read again at the next poll; EQ compares bits, GE unsigned, GE_WRAP by the sign of the 64-bit difference. HINT of
a candidate starts it, records a phase from its start + lead to its start + lead + duration in microseconds with its power, and has its
accesses issued. HINT_PHASE_START of a recorded phase not in progress reaches the phase's start and puts it in progress; HINT_PHASE_END of
one in progress reaches its end and removes it; the hint cap is then recomputed. Neither applies to a phase in the other state. (R131,
R165, R166, R258, R259, R388) -/
def Obligations.MarksAndHintsActAsTold : Prop :=
  (∀ (c : CtxIx) (seq : Nat) (s : State) (i : Item), live s = true → s.item ⟨c.val, seq⟩ = some i → candidate s i = true → kindOf i.words = kMark →
    (markAction i.words = 0 → exec (.note c seq) s =
      .next (endItem (startItem s i.ref id) i.ref .done 0 (BitVec.ofNat 32 (bits (markValue i.words) 31 0)))) ∧
    (markAction i.words = 1 → exec (.pinRelease c seq) s = .next (endItem (releasePins (startItem s i.ref id) c.val) i.ref .done 0 0)) ∧
    (markAction i.words = 2 → exec (.publish c seq) s = .next (addFlagged (startItem s i.ref id) i.ref (markAddr i.words) (markValue i.words))) ∧
    (markAction i.words = 3 → exec (.wait c seq) s =
      .next (pollWait ((startItem s i.ref id).modItem i.ref (fun j => { j with waitFor := .value })) i))) ∧
  (∀ (c : CtxIx) (seq t0 : Nat) (s : State) (i : Item), live s = true → s.item ⟨c.val, seq⟩ = some i → i.stage = .running → kindOf i.words = kMark →
    i.waitFor = .value → i.startAt = some t0 → t0 ≤ s.now →
    exec (.markWaitPoll c seq) s = .next (pollWait { s with now := t0 + 1000 * ((s.now - t0) / 1000 + 1) } i)) ∧
  (∀ (s v : State) (i : Item) (bs : List Byte), itemRead s i.ref none (markAddr i.words) 8 = (v, .ok bs) →
    (waitHolds (markCmp i.words) (wordAt bs 0) (markValue i.words) = true → pollWait s i = endItem (acquire v i.ref.ctx none) i.ref .done 0 0) ∧
    (waitHolds (markCmp i.words) (wordAt bs 0) (markValue i.words) = false →
      pollWait s i = forgetLine (acquire v i.ref.ctx none) i.ref (markAddr i.words / 64 * 64))) ∧
  (∀ (s : State) (i : Item), s.item i.ref = some i → i.stage = .running → kindOf i.words = kMark → i.waitFor = .value →
    inboundHas i (markAddr i.words) 8 = true → waitHolds (markCmp i.words) (wordAt (inboundRead i (markAddr i.words) 8) 0) (markValue i.words) = true →
    waitCame s i.ref = endItem (acquire s i.ref.ctx none) i.ref .done 0 0) ∧
  (∀ w v : W64, waitHolds 0 w v = (w == v) ∧ waitHolds 1 w v = decide (v.toNat ≤ w.toNat) ∧ waitHolds 2 w v = decide (0 ≤ (w - v).toInt)) ∧
  (∀ (c : CtxIx) (seq : Nat) (s : State) (i : Item), live s = true → s.item ⟨c.val, seq⟩ = some i → candidate s i = true → kindOf i.words = kHint →
    let u := startItem s i.ref id
    let t0 := u.now + 1000 * hintLead i.words
    let p : HintPhase := { item := i.ref, start := t0, stop := t0 + 1000 * hintDuration i.words, power := hintPower i.words, active := false }
    exec (.hint c seq) s = .next (issued { u with hearth := { u.hearth with hints := u.hearth.hints ++ [p] } } i.ref)) ∧
  (∀ (c : CtxIx) (seq : Nat) (s : State) (p : HintPhase), s.up = true → hintOf s c.val seq = some p →
    (p.active = false → exec (.hintPhaseStart c seq) s = .next (refreshHint { s with now := Nat.max s.now p.start }
      (fun h => { h with hints := h.hints.map (fun x => if x.item = p.item then { x with active := true } else x) }))) ∧
    (p.active = true → exec (.hintPhaseEnd c seq) s = .next (refreshHint { s with now := Nat.max s.now p.stop }
      (fun h => { h with hints := h.hints.filter (fun x => x.item != p.item) }))) ∧
    (p.active = true → exec (.hintPhaseStart c seq) s = .next s) ∧ (p.active = false → exec (.hintPhaseEnd c seq) s = .next s))

/-- With a SURVIVAL record, a running SECURE or CLOSE whose round is not the last closed round + 1 ends REJECTED 0x73; a SECURE of the
right round begins it and, its tensor read, secures the bytes by the method chosen, once the read of the last copy is there; a shipped one
advances its parity. CLOSE of the right round keeps its report and goes on. PRIV copies its bytes to entry step mod priv_depth here and on
the buddy. RESTORE from LOCAL, MEMBER or MIRROR copies from local_off here, local_off on the member or remote_off on via; PARITY rebuilds.
EVAL packs, then ships. A REFORM that leaves fewer than two ranks ends REJECTED 0x75, else the group is re-formed and its numbers start
anew. (R422, R428, R431, R435, R436, R438, R439) -/
def Obligations.SnapshotsActAsTold : Prop :=
  (∀ (c : CtxIx) (seq : Nat) (s : State) (i : Item) (v : SurvivalCfg), live s = true → s.item ⟨c.val, seq⟩ = some i → i.stage = .running →
    kindOf i.words = kSnap → s.cfg.survival = some v →
    let d := snapD i.words
    (d.action = 0 → i.shipped = true → exec (.secure c seq) s = .next (parityAdvance s i.ref)) ∧
    (d.action = 0 → i.shipped = false → d.round ≠ lastRound s + 1 → exec (.secure c seq) s = .next (endItem s i.ref .rejected 0x73 0)) ∧
    (d.action = 0 → i.shipped = false → d.round = lastRound s + 1 →
      ∀ x a version, secureSource (beginRound s d) i d = (x, .at_ a version) → ∀ y bss, itemReads x i.ref none [(a, d.bytes)] = (y, some bss, none) →
      (∀ z adv, advOf y v d version = (z, some adv) → exec (.secure c seq) s = .next (secureBytes z i d v version adv (bss.headD []))) ∧
      (∀ z, advOf y v d version = (z, none) → exec (.secure c seq) s = .next z)) ∧
    (d.action = 1 → ∀ t bss, itemReads s i.ref none [(d.src, d.bytes)] = (t, some bss, none) →
      ∀ x, writeCopy t i.ref (atticAddr v t.deviceNumber (d.localOff + 8192 * (d.step % Nat.max 1 (privDepth v))))
          (atticAddr v t.deviceNumber (d.localOff + 8192 * (d.step % Nat.max 1 (privDepth v))) + 64)
          (headWord (lastRound t) 0 methodPriv) (headRest d.step 0 d.bytes) (bss.headD []) = (x, none) →
      (buddyEn v = false → exec (.priv c seq) s = .next (issued x i.ref)) ∧
      (buddyEn v = true → ∀ y, writeCopy x i.ref (atticAddr v (buddyDevice v) (d.remoteOff + 8192 * (d.step % Nat.max 1 (privDepth v))))
          (atticAddr v (buddyDevice v) (d.remoteOff + 8192 * (d.step % Nat.max 1 (privDepth v))) + 64)
          (headWord (lastRound t) 0 methodPriv) (headRest d.step 0 d.bytes) (bss.headD []) = (y, none) →
        exec (.priv c seq) s = .next (issued y i.ref))) ∧
    (d.action = 2 → i.shipped = true → exec (.close c seq) s = .next (closeAdvance s i d v)) ∧
    (d.action = 2 → i.shipped = false → d.round ≠ lastRound s + 1 → exec (.close c seq) s = .next (endItem s i.ref .rejected 0x73 0)) ∧
    (d.action = 2 → i.shipped = false → d.round = lastRound s + 1 → d.count ≤ (if s.attic.round = d.round then s.attic.secured else 0) →
      ∀ g, groupAt s (runGroup v) = some g →
      let cost := if s.attic.round = d.round then (i.startAt.getD s.now - s.attic.firstAt) / 1000 else 0
      let k := keepReport (s.modItem i.ref (fun j => { j with shipped := true })) d.round g.rank cost
      exec (.close c seq) s = .next (closeAdvance (if 1 < g.n ∧ g.rank < g.n then sendReport k v g d.round g.rank cost d.step else k) i d v)) ∧
    (d.action = 3 → i.shipped = true → exec (.eval c seq) s = .next (shipEval s i d v)) ∧
    (d.action = 3 → i.shipped = false → ∀ a b x, i.ownPin = some (a, b, x) → exec (.eval c seq) s = .next (packEval s i d v a b)) ∧
    (d.action = 4 →
      (d.source = 0 → exec (.restore c seq) s = .next (restoreCopy s i d (atticAddr v s.deviceNumber d.localOff))) ∧
      (d.source = 1 → exec (.restore c seq) s = .next (restoreCopy s i d (atticAddr v d.member d.localOff))) ∧
      (d.source = 2 → exec (.restore c seq) s = .next (restoreCopy s i d (atticAddr v d.via d.remoteOff))) ∧
      (d.source = 3 → exec (.restore c seq) s = .next (restoreParity s i d v)))) ∧
  (∀ (c : CtxIx) (seq : Nat) (s u t : State) (i : Item) (g : Group) (bs : List Byte), reformItem s c.val seq = some i →
    u = startItem s i.ref id → groupAt u (snapD i.words).group = some g →
    itemRead u i.ref none (snapD i.words).mask (maskBytes u (snapD i.words).group) = (t, .ok bs) →
    ((reformGroup g (maskRanks g.n bs)).n < 2 → exec (.reform c seq) s = .next (endItem t i.ref .rejected 0x75 0)) ∧
    (¬ (reformGroup g (maskRanks g.n bs)).n < 2 → exec (.reform c seq) s = .next (endItem { t with
      cfg := { t.cfg with groups := t.cfg.groups.map (fun x => if x.index = g.index then reformGroup g (maskRanks g.n bs) else x) },
      collNext := t.collNext.filter (fun x => x.1 != g.index), colls := t.colls.filter (fun x => x.group != g.index),
      lateCopies := t.lateCopies.filter (fun x => x.group != g.index) }
      i.ref .done 0 (BitVec.ofNat 32 (reformGroup g (maskRanks g.n bs)).n))))

/-- For a group whose members list has its n ranks and a list of failed ranks: the re-formed group has n = the number of ranks below n
that are not failed, as many members, b = 0, no backups and the reformed mark; its members are the old members of those ranks in ascending
order; a surviving device's new rank names itself in the new list; the ring2d_a is kept where it divides the new n and is 0 otherwise.
(R439) -/
def Obligations.ReformKeepsSurvivorsInOrder : Prop :=
  ∀ (g : Group) (failed : List Nat), g.members.length = g.n →
    (reformGroup g failed).n = ((List.range g.n).filter (fun r => !failed.contains r)).length ∧
    (reformGroup g failed).members.length = (reformGroup g failed).n ∧
    (reformGroup g failed).b = 0 ∧ (reformGroup g failed).backupMap = [] ∧ (reformGroup g failed).reformed = true ∧
    (reformGroup g failed).members.Sublist g.members ∧
    (g.rank < g.n → g.rank ∉ failed → (reformGroup g failed).rank < (reformGroup g failed).n ∧
      (reformGroup g failed).members.getD (reformGroup g failed).rank 0 = g.members.getD g.rank 0) ∧
    ((reformGroup g failed).ring2dA = 0 ∨ (reformGroup g failed).n % (reformGroup g failed).ring2dA = 0)

/-- Where no answer waits for its caller: LARDER_ACCESS on a line with a waiting access takes the first one of the source whose turn is
next out of the line's queue and performs it; on a line with nothing waiting and no arrival it changes nothing; arrivals that their homes
permit join their lines' queues first, and a refused one is answered at once. REGULATOR_GRANT fills the buckets up to now and serves the
partition that nextGrant names; where nothing waits only the buckets change. RETRY_REISSUE lets 1 us pass and issues again what was
answered RETRY; with no such request, drain, intake or host access only the clock, the pause state and the Porch's transmitter move.
(R205, R222, R224, R227, R232) -/
def Obligations.LarderServesFairly : Prop :=
  (∀ (line k : Nat) (ecc : Ecc) (s : State) (x : Access), s.up = true → s.memory.served = [] → nextSource (lineQueue s.memory line) = some k →
    (lineQueue s.memory line).waiting.find? (fun y => y.source.val == k) = some x →
    let q : LineQueue := { lineQueue s.memory line with last := x.source, waiting := eraseFirst (fun y => y == x) (lineQueue s.memory line).waiting }
    exec (.larderAccess [] line ecc) s = .next (performAccess { s with memory := putQueue s.memory q } x ecc)) ∧
  (∀ (line : Nat) (ecc : Ecc) (s : State), s.up = true → s.memory.served = [] → (lineQueue s.memory line).waiting = [] → exec (.larderAccess [] line ecc) s = .next s) ∧
  (∀ (arrivals : List Access) (line : Nat) (ecc : Ecc) (s : State), s.up = true → s.memory.served = [] →
    (∀ x ∈ arrivals, homePermits s x.who (accKind x.op) x.off = true) →
    exec (.larderAccess arrivals line ecc) s = exec (.larderAccess [] line ecc) (arrivals.foldl joinLine s)) ∧
  (∀ (s : State) (x : Access), homePermits s x.who (accKind x.op) x.off = false → arriveLine s x = performAccess s x .clean) ∧
  (∀ (k : LandIx) (s : State) (p : Nat) (cs : List Int), s.up = true → s.memory.served = [] → nextGrant (modRegs s k.val (fillBuckets s)) k.val = (some p, cs) →
    exec (.regulatorGrant k []) s = .next (grant (modRegs s k.val (fillBuckets s)) k.val (some p, cs))) ∧
  (∀ (k : LandIx) (s : State), s.up = true → s.memory.served = [] → (∀ p, (regAt (modRegs s k.val (fillBuckets s)) k.val p).waiting = []) →
    exec (.regulatorGrant k []) s = .next (modRegs s k.val (fillBuckets s))) ∧
  (∀ s : State, s.up = true → (∀ q ∈ s.reqs, q.qp.isNone = true → q.retry = false ∧ pktDst q.packet ≠ s.deviceNumber) →
    (∀ x ∈ s.porch.qps, x.held = []) → (∀ c, (s.ctx c).drainHeld = false ∧ (s.ctx c).awaiting = false) →
    exec .retryReissue s = .next (clearUnknown (State.transmit (pfcUpdate { s with now := s.now + 1000 }))))

/-- Performing an access of an item, a peer, the host or the device at a home whose clock runs charges its regulator and gives the home's
answer to the caller: an item is failed by a code, gets the flags of its atomic or holds its access for reissue; a peer's request is
answered by its packet; one of the device or the host that is answered RETRY waits at its line again; an access to a home whose clock is
lost changes nothing. (R205, R220, R229, R232, R247, R417) -/
def Obligations.AccessesArePerformedAtTheirHome : Prop :=
  (∀ (s : State) (x : Access) (ecc : Ecc), homeStopped s x.off = true → performAccess s x ecc = s) ∧
  (∀ (s t : State) (x : Access) (ecc : Ecc) (a : Ans), homeStopped s x.off = false →
    performHome (chargeRequest s x.who (accKind x.op) x.off (opBytes x.op)) x.who x.off x.op ecc = (t, a) →
    (x.who = .device → a ≠ .retry → performAccess s x ecc = t) ∧
    ((x.who = .device ∨ ∃ q, x.who = .host q) → a = .retry → performAccess s x ecc = joinLine t x) ∧
    (∀ r v fl, x.who = .item r → a = .old v fl → performAccess s x ecc = addFlags t r fl) ∧
    (∀ r, x.who = .item r → (a = .ack ∨ ∃ bs, a = .data bs) → performAccess s x ecc = t) ∧
    (∀ r, x.who = .item r → a = .refused → performAccess s x ecc = failItem t r 0x84 none) ∧
    (∀ r, x.who = .item r → a = .poisoned → performAccess s x ecc = failItem t r 0x82 none) ∧
    (∀ r p, x.who = .item r → a = .uncorrectable p → performAccess s x ecc = failItem t r (if p then 0x81 else 0x80) none) ∧
    (∀ dev id, x.who = .remote dev id → performAccess s x ecc = t.sendPacket (replyPacket t (accessPacket t dev id x.off x.op) (replyOf x.op a))))

/-- STACK_TEMP_READ keeps the reading and raises the step to that of Table 8 where it is higher; STACK_THROTTLE_STEP_DOWN of a stack that
has been below its leave threshold lowers the step by one 1 ms after it fell below. DATA_EYE_LOCK_LOSS sets a stack in service to
retraining, first attempt; STACK_RETRAIN_COMPLETE puts a retraining one in service and adds the rows it repaired to rows_trained;
STACK_RETRAIN_TIMEOUT starts it again 300 ms after it began, or after the third attempt sets it out of service with an error record of
class 0x08. PATROL_SCRUB_READ moves the stack's position on and counts a pass at its end. No byte of memory changes. For a die whose
release of Pantry bytes is under way, PANTRY_RELEASE_COMPLETE reaches the release's time; with no latched allocation nothing is releasing
any more; a latched one is made and releases its own bytes for another 1,048,576 ns (512 MiB at 512 GB/s; the model's reading). A die with
no release under way is left alone. (R213, R221, R231, R364, R365) -/
def Obligations.StacksAndPantriesAreKept : Prop :=
  (∀ (st : StackIx) (temp : Byte) (s : State), s.up = true → st.val < s.memory.hbmStacks.length →
    ∃ t k, exec (.stackTempRead st temp) s = .next t ∧ k = t.memory.hbmStacks.getD st.val Stack.cold ∧ k.temp = temp ∧
      k.throttle = Nat.max (s.memory.hbmStacks.getD st.val Stack.cold).throttle (stepEntered s temp.toInt) ∧
      t = { s with hearth := t.hearth, faces := t.faces, dies := t.dies, banks := t.banks, free := t.free, memory := { s.memory with hbmStacks := t.memory.hbmStacks } }) ∧
  (∀ (st : StackIx) (s : State), s.up = true → st.val < s.memory.hbmStacks.length →
    (s.memory.hbmStacks.getD st.val Stack.cold).throttle ≠ 0 → (s.memory.hbmStacks.getD st.val Stack.cold).belowSince ≠ 0 →
    ∃ t, exec (.stackThrottleStepDown st) s = .next t ∧
      t.now = Nat.max s.now ((s.memory.hbmStacks.getD st.val Stack.cold).belowSince + 1000000) ∧
      (t.memory.hbmStacks.getD st.val Stack.cold).throttle = (s.memory.hbmStacks.getD st.val Stack.cold).throttle - 1 ∧
      t = { s with now := t.now, hearth := t.hearth, faces := t.faces, dies := t.dies, banks := t.banks, free := t.free, memory := { s.memory with hbmStacks := t.memory.hbmStacks } }) ∧
  (∀ (st : StackIx) (s : State), s.up = true → (s.memory.hbmStacks.getD st.val Stack.cold).service = 0 →
    exec (.dataEyeLockLoss st) s = .next { s with memory := { s.memory with hbmStacks := s.memory.hbmStacks.modify st.val (fun k =>
      { k with service := 1, attempts := 1, retrainAt := s.now, recentUe := [] }) } }) ∧
  (∀ (st : StackIx) (s : State), s.up = true → (s.memory.hbmStacks.getD st.val Stack.cold).service = 1 →
    ∀ n : Nat, exec (.stackRetrainComplete ⟨st, n⟩) s = .next { s with memory := { s.memory with hbmStacks := s.memory.hbmStacks.modify st.val (fun k =>
      { k with service := 0, attempts := 0, rowsTrained := BitVec.ofNat 16 (Nat.min 65535 (k.rowsTrained.toNat + n)) }) } }) ∧
  (∀ (st : StackIx) (s : State), s.up = true → (s.memory.hbmStacks.getD st.val Stack.cold).service = 1 →
    let at_ := Nat.max s.now ((s.memory.hbmStacks.getD st.val Stack.cold).retrainAt + 300000000)
    ((s.memory.hbmStacks.getD st.val Stack.cold).attempts < 3 → exec (.stackRetrainTimeout st) s = .next { s with
      now := at_, memory := { s.memory with hbmStacks := s.memory.hbmStacks.modify st.val (fun k => { k with attempts := k.attempts + 1, retrainAt := at_ }) } }) ∧
    (3 ≤ (s.memory.hbmStacks.getD st.val Stack.cold).attempts → exec (.stackRetrainTimeout st) s = .next (raiseError { s with
      now := at_, memory := { s.memory with hbmStacks := s.memory.hbmStacks.modify st.val (fun k => { k with service := 2 }) } }
      { cls := 0x08, sev := sevUnit, unit := 0x60 + st.val, item := none, ctx := none,
        detail := [BitVec.ofNat 64 (s.memory.hbmStacks.getD st.val Stack.cold).attempts] }))) ∧
  (∀ (st : StackIx) (s : State), s.up = true → (s.memory.hbmStacks.getD st.val Stack.cold).service = 0 →
    exec (.patrolScrubRead st ⟨.clean, []⟩) s = .next { s with memory := { s.memory with hbmStacks := s.memory.hbmStacks.modify st.val (fun k =>
      if k.scrubAt + 1 < 96 * 2 ^ 30 / 64 then { k with scrubAt := k.scrubAt + 1 } else { k with scrubAt := 0, scrubPass := k.scrubPass + 1 }) } }) ∧
  (∀ (st : StackIx) (ecc : Ecc) (us : List Upset) (s t : State), exec (.patrolScrubRead st ⟨ecc, us⟩) s = .next t →
    (let f := stackFinds s.memory (blockOffset s.cfg st.val (s.memory.hbmStacks.getD st.val Stack.cold).scrubAt) ecc;
      f ≠ .uncorrectable ∧ f ≠ .poison) →
    t.memory.hbm = s.memory.hbm ∧ t.memory.pantry = s.memory.pantry ∧ t.memory.poison = s.memory.poison) ∧
  (∀ (d : DieIx) (s : State), s.up = true →
    let r := s.memory.releasing.getD d.val (0, false)
    (r.1 ≠ 0 → exec (.pantryReleaseComplete d) s = .next { s with
      now := Nat.max s.now r.1,
      memory := { s.memory with releasing := s.memory.releasing.set d.val (if r.2 then (Nat.max s.now r.1 + 1048576, false) else (0, false)) } }) ∧
    (r.1 = 0 → exec (.pantryReleaseComplete d) s = .next s))

/-- For every port, class, lane below 3 and packet of at most 4,096 bytes of data in whole 16-byte slots, the flits that the port forms
for the packet's bodies number 1 + ceil((data - 208) / 240) with consecutive sequence numbers from its next one, which moves by as many;
each has a good CRC and the type DATA, its own number in seq, the last good number in ack, its class and lane; only the first has head set
and only the last has last; each returns at most 255 flits of credit; and the bytes of their valid slots, joined in order, are the 32
header bytes followed by the data. A receiver that joins them therefore has the packet that was sent. (R270, R271, R273, R277) -/
def Obligations.FlitsCarryPackets : Prop :=
  ∀ (q : Port) (cls lane : Nat) (k : Packet), cls < 4 → lane < 3 → k.data.length % 16 = 0 → k.data.length ≤ 4096 →
    let out := bodyFlits cls lane true q (flitBodies k)
    out.1.length = flitCount k ∧ out.2.txSeq = q.txSeq + BitVec.ofNat 12 (flitCount k) ∧ out.2.expect = q.expect ∧
    out.1.flatMap (fun e => flitBytes e.2) = wordsBytes [k.w0, k.w1, k.w2, k.w3] ++ k.data ∧
    (∀ i e, out.1[i]? = some e →
      e.1 = q.txSeq + BitVec.ofNat 12 i ∧ flitGood e.2 = true ∧ flitType e.2 = 1 ∧ flitSeq e.2 = e.1 ∧ flitAck e.2 = q.expect - 1 ∧
      bits e.2.link 57 56 = cls ∧ bits e.2.link 55 54 = lane ∧
      bitAt e.2.link 59 = (i == 0) ∧ bitAt e.2.link 58 = (i + 1 == flitCount k) ∧ bits e.2.link 19 12 ≤ 255)

/-- A flit on a port in service with nothing queued: a good IDLE lets the flits its ack covers leave the replay buffer, returns credits
and renews the link; a DATA flit with the awaited number is taken, any other is discarded with the credits it names; a NAK on an empty
replay buffer does no more than an IDLE; each leaves a flit time for an IDLE with the port's ack and credit return. A bad flit is
discarded, counted where its codeword failed, and sends one NAK; with that NAK sent, another bad flit sends none unless it is the awaited
DATA flit. A good TRAIN with intent TRAIN on a port in service declares the link down; one with intent DISABLE takes it OFF. In training,
a TRAIN that names the expected device and port with the other end ready is answered by a ready TRAIN and takes the port UP. FEC_LOCK sets
the lock of a training or DOWN port, which sends TRAIN. TRAINING_PATTERN_RECEIVED lets a listening OFF port with a role train. (R270,
R271, R272, R277, R288, R290, R291, R296) -/
def Obligations.FlitsDriveALink : Prop :=
  (∀ (p : PortIx) (f : Flit) (s : State), s.up = true → (s.port p.val).state = .up → flitGood f = true → (s.port p.val).queue = [] →
    let u : State := { s with ports := s.ports.modify p.val (fun q => { takeCredits (ackFlits q (flitAck f)) f with lastGood := s.now }) }
    let rest (t : State) : State := { t with ports := t.ports.modify p.val Port.sendIdle }
    (flitType f = 0 → exec (.idle p f) s = .next (rest u)) ∧
    (flitType f = 1 → flitSeq f = (s.port p.val).expect → exec (.data p f) s = .next (flitTime (joinFlit
      { u with ports := u.ports.modify p.val (fun q => { q with expect := q.expect + 1, nakSent := false }) } p.val f) p.val)) ∧
    (flitType f = 1 → flitSeq f ≠ (s.port p.val).expect → exec (.data p f) s = .next (rest
      { s with ports := s.ports.modify p.val (fun q => { ackFlits q (flitAck f) with lastGood := s.now }) })) ∧
    (flitType f = 2 → (s.port p.val).replay = [] → exec (.nak p f) s = .next (rest u))) ∧
  (∀ (p : PortIx) (f : Flit) (s : State), s.up = true → (s.port p.val).state = .up → flitGood f = false → (s.port p.val).nakSent = false →
    ∀ e ∈ [Instr.idle p f, .data p f, .nak p f, .train p f], exec e s = .next { s with ports := s.ports.modify p.val (fun q =>
      { q.sendNak with
        fecUncorrectable := (if f.fecOk then q.fecUncorrectable else satInc q.fecUncorrectable), nakSent := true, replayCount := satInc q.replayCount }) }) ∧
  (∀ (p : PortIx) (f : Flit) (s : State), s.up = true → (s.port p.val).state = .up → f.fecOk = true → flitGood f = false → (s.port p.val).nakSent = true →
    ¬ (flitType f = 1 ∧ flitSeq f = (s.port p.val).expect) → ∀ e ∈ [Instr.idle p f, .data p f, .nak p f, .train p f], exec e s = .next s) ∧
  (∀ (p : PortIx) (f : Flit) (s : State), s.up = true → (s.port p.val).state = .up → flitGood f = true → flitType f = 3 → trainOk f = true →
    (trainIntent f = 0 → exec (.train p f) s = .next (linkDown s p.val 2)) ∧
    (trainIntent f = 1 → (s.port p.val).queue = [] →
      exec (.train p f) s = .next { s with ports := s.ports.modify p.val (fun q => { q with state := .off, listening := true, replay := [], queue := [] }) })) ∧
  (∀ (p : PortIx) (f : Flit) (s : State), s.up = true → (s.port p.val).state = .training → (s.port p.val).fecLocked = true → flitGood f = true →
    flitType f = 3 → trainOk f = true → trainIntent f = 0 → (s.port p.val).queue = [] → p.val < s.ports.length →
    bits (trainWord f) 63 49 = bits (portCfg s p.val) 63 49 → bits (trainWord f) 48 45 = bits (portCfg s p.val) 48 45 → bitAt (trainWord f) 42 = true →
    ∃ t, exec (.train p f) s = .next t ∧ (t.port p.val).state = .up ∧ (t.port p.val).txSeq = 0 ∧ (t.port p.val).expect = 0 ∧
      (t.port p.val).replay = [] ∧ (t.port p.val).lastGood = s.now ∧ (t.port p.val).attempts = 0 ∧
      (t.port p.val).control = some (controlFlit (s.port p.val) 3 (trainBody s p.val 0 true)) ∧ t = { s with ports := t.ports }) ∧
  (∀ (p : PortIx) (s : State), s.up = true → ((s.port p.val).state = .training ∨ (s.port p.val).state = .down) →
    exec (.fecLock p) s = .next { s with ports := s.ports.modify p.val (fun q =>
      { q.sendControl 3 (trainBody s p.val 0 q.ready) with state := .training, fecLocked := true }) }) ∧
  (∀ (p : PortIx) (s : State), s.up = true → (s.port p.val).state = .off → (s.port p.val).listening = true → portRole s p.val ≠ 0 →
    exec (.trainingPatternReceived p) s = .next { s with ports := s.ports.modify p.val (fun q => q.train s.now 1) })

/-- LINK_DOWN_TIMEOUT on a port in service declares it down 8 us after its last good flit. PORT_RETRAIN_TIMEOUT of a port in training or
DOWN, 300 ms after the attempt began, starts the next attempt, or after the third sets it FAILED with a record of class 0x05.
PORT_DISABLE_TIMEOUT completes a disable 20 us after it began, with TRAIN flits of intent DISABLE. ESCAPE_WAIT_EXPIRY moves the longest
stalled head of a class's main lane after escape_wait; STALL_LIMIT_EXPIRY discards the longest stalled head of an escape lane after
stall_limit, counts and records it, and returns the credit of the input lane it came by, unless that link has trained anew since.
RESP_TIMEOUT fails a request as unreachable resp_timeout after its issue. Each reaches its deadline's time first. (R250, R272, R275, R280,
R283, R285, R289, R290, R291) -/
def Obligations.LinkTimersExpire : Prop :=
  (∀ (p : PortIx) (s : State), s.up = true → (s.port p.val).state = .up →
    exec (.linkDownTimeout p) s = .next (linkDown { s with now := Nat.max s.now ((s.port p.val).lastGood + 8000) } p.val 0)) ∧
  (∀ (p : PortIx) (s : State), s.up = true → ((s.port p.val).state = .training ∨ (s.port p.val).state = .down) →
    let u : State := { s with now := Nat.max s.now ((s.port p.val).downAt + 300000000) }
    ((s.port p.val).attempts < 3 → exec (.portRetrainTimeout p) s = .next { u with ports := u.ports.modify p.val (fun q => q.train u.now (q.attempts + 1)) }) ∧
    (3 ≤ (s.port p.val).attempts → exec (.portRetrainTimeout p) s = .next (raiseError
      { u with ports := u.ports.modify p.val (fun q => { q with state := .failed, fecLocked := false, ready := false }) }
      { cls := 0x05, sev := sevUnit, unit := 0x40 + p.val, item := none, ctx := none, detail := [BitVec.ofNat 64 (s.port p.val).attempts] }))) ∧
  (∀ (p : PortIx) (s : State), s.up = true → (s.port p.val).state = .disabling → p.val < s.ports.length → (s.port p.val).queue = [] →
    ∃ t, exec (.portDisableTimeout p) s = .next t ∧ t.now = Nat.max s.now ((s.port p.val).downAt + 20000) ∧
      (t.port p.val).state = (if (s.port p.val).reenableLatched then .training else .off) ∧ (t.port p.val).replay = [] ∧
      (t.port p.val).reenableLatched = false ∧ (t.port p.val).control = some (controlFlit (s.port p.val) 3 (trainBody s p.val 1 false)) ∧
      t = { s with now := t.now, ports := t.ports }) ∧
  (∀ (p : PortIx) (cls : Fin 4) (s : State) (x : LanePacket) (rest : List LanePacket), s.up = true → (s.port p.val).state = .up →
    stalledHeads (s.port p.val) cls.val 0 = x :: rest →
    exec (.escapeWaitExpiry p cls) s = .next (leaveMain { s with now := Nat.max s.now (x.since + bits s.cfg.spejan 23 12 * 100) } p.val x)) ∧
  (∀ (p : PortIx) (cls : Fin 4) (s : State), stalledHeads (s.port p.val) cls.val 0 = [] → exec (.escapeWaitExpiry p cls) s = .next s) ∧
  (∀ (p : PortIx) (cls : Fin 4) (lane : Fin 3) (s : State) (x : LanePacket) (rest : List LanePacket), s.up = true → (s.port p.val).state = .up →
    lane ≠ 0 → stalledHeads (s.port p.val) cls.val lane.val = x :: rest →
    let u : State := (unqueue { s with now := Nat.max s.now (x.since + bits s.cfg.spejan 39 24 * 1000) } p.val x).modPort p.val
      (fun q => { q with stallDiscards := satInc q.stallDiscards })
    (x.source < 16 → (u.port x.source).epoch = x.epoch → exec (.stallLimitExpiry p cls lane) s =
      .next ((discardRecord (owe u x.source x.cls x.inLane (flitCount x.packet)) p.val x.packet true).pump p.val)) ∧
    ((16 ≤ x.source ∨ (u.port x.source).epoch ≠ x.epoch) → exec (.stallLimitExpiry p cls lane) s = .next ((discardRecord u p.val x.packet true).pump p.val))) ∧
  (∀ (reqId : BitVec 16) (s : State) (q : Req), s.up = true → requestOf s reqId.toNat = some q → q.retry = false → pktDst q.packet ≠ s.deviceNumber →
    exec (.respTimeout reqId) s = .next (endRequest { s with now := Nat.max s.now (q.issued + bits s.cfg.spejan 55 40 * 10000) } q 0x83))

/-- A packet of its command's opcode that comes whole by a linked port: one with an invalid header is discarded and counted; one for
another device with hops 0 is discarded, counted and recorded, and with hops left is routed on with one hop fewer and every other field as
it came, or counted where no route remains; the flits of one that leaves its input lane are owed to the sender as credit; one for this
device whose way over the mesh no lost clock cuts is served at its home (READ, WRITE, ATOMIC, POISON), settles its request (READ_RSP,
WRITE_ACK, ATOMIC_RSP, RETRY, FAULT), or is collective data (COLL_DATA, CRUSH_DATA). A command whose packet has another opcode changes
nothing. A valid fabric message of its type is taken in a live device. (R205, R273, R274, R275, R276, R277, R282, R297, R417) -/
def Obligations.PacketsAreServedOrRouted : Prop :=
  (∀ (p : PortIx) (k : Packet) (s : State) (e : Instr) (op : Nat),
    (e, op) ∈ [(Instr.read p k, 0x01), (.write p k, 0x02), (.atomicRequest p k, 0x03), (.poison p k, 0x04), (.readRsp p k, 0x10), (.writeAck p k, 0x11),
      (.atomicRsp p k, 0x12), (.retry p k, 0x13), (.fault p k, 0x14), (.collData p k, 0x20), (.crushData p k, 0x21)] →
    (pktOp k ≠ op → exec e s = .next s) ∧
    (s.up = true → ((s.port p.val).state = .up ∨ (s.port p.val).state = .disabling) → pktOp k = op →
      let gone : State := { s with ports := s.ports.modify p.val (fun q => { q with pktDiscards := satInc q.pktDiscards }) }
      let back (t : State) : State := { t with ports := t.ports.modify p.val (fun q => { q with owed := q.owed.modify (3 * opClass op) (fun n => n + flitCount k) }) }
      (pktValid k = false → exec e s = .next (back gone)) ∧
      (pktValid k = true → pktDst k ≠ s.deviceNumber → pktHops k = 0 → exec e s = .next (back (raiseError gone
        { cls := 0x07, sev := sevInfo, unit := 0x40 + p.val, item := none, ctx := none, detail := [wordOf [⟨24, 1, 0⟩, ⟨16, 6, op⟩, ⟨0, 16, pktDst k⟩]] }))) ∧
      (pktValid k = true → pktDst k ≠ s.deviceNumber → pktHops k ≠ 0 →
        exec e s = .next ((routeLane s (some (p.val, 0)) false (hopped k)).getD (back gone))) ∧
      (pktValid k = true → pktDst k = s.deviceNumber → dieCut s p.val = true → exec e s = .next (back s)) ∧
      (pktValid k = true → pktDst k = s.deviceNumber → dieCut s p.val = false →
        (op < 0x10 → exec e s = .next (back (requestArrive s p.val k))) ∧
        (0x10 ≤ op → op < 0x20 → exec e s = .next (back (answerArrive s k))) ∧
        (op = 0x20 → live s = true → isParity s k = false → exec e s = .next (back (collArrive s k))) ∧
        (op = 0x20 → live s = true → isParity s k = true → exec e s = .next (back (parityArrive s k))) ∧
        (op = 0x21 → live s = true → exec e s = .next (back (crushArrive (count s (spejanOcc s p.val 0x053 (pktLines k))) p.val k)))))) ∧
  (∀ k : Packet, pktHops k ≠ 0 → pktHops (hopped k) = pktHops k - 1 ∧ pktDst (hopped k) = pktDst k ∧ pktSrc (hopped k) = pktSrc k ∧
    pktClass (hopped k) = pktClass k ∧ pktOp (hopped k) = pktOp k ∧ pktReq (hopped k) = pktReq k ∧
    (hopped k).w1 = k.w1 ∧ (hopped k).w2 = k.w2 ∧ (hopped k).w3 = k.w3 ∧ (hopped k).data = k.data) ∧
  (∀ (s : State) (k : Packet) (q : Req) (r : Reply), requestOf s (pktReq k) = some q → pktDst q.packet = pktSrc k → replyOf? q k = some r →
    answerArrive s k = settle s q r) ∧
  (∀ (m : FabMsg) (s : State), live s = true → msgOk m = true →
    (msgType m = 0x01 → exec (.notUsed m) s = .next (notUsedArrive s m)) ∧
    (msgType m = 0x02 → exec (.crushDone m) s = .next (crushDoneArrive s m)) ∧
    (msgType m = 0x03 → exec (.foldNotice m) s = .next (foldNoticeArrive s m)) ∧
    (msgType m = 0x04 → exec (.closeReport m) s = .next (closeReportArrive s m)))

/-- With the Porch link up, a frame of at most 9,216 bytes with one tag at most and a good ICRC, and a queue pair that is defined and not
in ERROR: a well-formed RDMA_WRITE, RDMA_READ or RDMA_WRITE_WITH_IMMEDIATE whose PSN is the next, with room in the receive buffer (or, for
a write, nothing before it so that it passes through) and at most 15 reads held, moves the PSN by its packets and joins the pair's held
accesses. A Write with Immediate of other than 8 aligned bytes, a further read, a SEND on a pair for no management or longer than 64 KiB,
and an INVALID_REQUEST is answered NAK Invalid Request, which puts the pair in ERROR. Of a write without room the packets that fit are
taken, the next is answered NAK PSN Sequence Error, at most once each 10 us. Of a PSN repeated from up to 2^23 back, nothing is sent while
its request is held, else a write is answered ACK again and a read is performed again; one ahead is answered NAK PSN Sequence Error. A
longer frame, one with two tags or for an undefined pair is discarded and counted; a wrong ICRC, a pair in ERROR and a link that is down
take nothing. A SEND on a management pair with fewer than 8 messages queued joins the pair's held accesses; with 8 it is answered RNR NAK.
A CE mark is noted first. (R327, R328, R330, R331, R334, R335, R338, R342) -/
def Obligations.HostRequestsAreTakenInOrder : Prop :=
  (∀ (r : HostReq) (bytes : List Byte) (len : Nat) (ecc : List Ecc) (imm : BitVec 32) (s : State) (x : Qp) (k : QpCfg), porchOpen s = true →
    s.qp r.qp.val = some x → s.qpCfg r.qp.val = some k → x.error = false → r.frame.bytes ≤ 9216 → r.frame.tags ≤ 1 → r.frame.icrcOk = true →
    let w := noteCe s r.qp.val r.frame.ce
    let u (n : Nat) : State := count w (porchOcc w r.qp.val 0x090 n)
    let pw := psnCount (s.pmtu r.qp.val) bytes.length
    let pr := psnCount (s.pmtu r.qp.val) len
    let write (b : Bool) : HeldHost := { req := r, bytes := bytes, readLen := none, imm := b, ecc := [], msg := none, answer := none }
    let read : HeldHost := { req := r, bytes := [], readLen := some len, imm := false, ecc := ecc, msg := none, answer := none }
    let advance (t : State) (n : Nat) : State := t.modQp r.qp.val (fun y => { y with rxPsn := y.rxPsn + BitVec.ofNat 24 n })
    let fits (b : Bool) : Prop := bytes.length ≤ bufferRoom (u pw) ∨ passesThrough (u pw) k x (write b) = true
    (r.psn = x.rxPsn →
      (fits false → exec (.rdmaWrite r bytes) s = .next (takeAccess (advance (u pw) pw) k (write false))) ∧
      (bytes.length = 8 → r.va.toNat % 8 = 0 → fits true →
        exec (.rdmaWriteWithImmediate r bytes imm) s = .next (takeAccess (advance (u pw) pw) k (write true))) ∧
      (¬ (bytes.length = 8 ∧ r.va.toNat % 8 = 0) →
        exec (.rdmaWriteWithImmediate r bytes imm) s = .next (qpError ((u pw).porchOut (.nakInvalid r.qp.val r.psn)) r.qp.val 4)) ∧
      (¬ fits false → ∀ fit, fit = bufferRoom (u pw) / Nat.max 1 (s.pmtu r.qp.val) →
        (fit = 0 → exec (.rdmaWrite r bytes) s = .next (nakNoRoom (u pw) r.qp.val r.psn)) ∧
        (fit ≠ 0 → exec (.rdmaWrite r bytes) s = .next (nakNoRoom
          (takeAccess (advance (u pw) fit) k { write false with bytes := bytes.take (fit * s.pmtu r.qp.val) }) r.qp.val
          (r.psn + BitVec.ofNat 24 fit)))) ∧
      (heldReads x < 16 → exec (.rdmaRead r ⟨len, ecc⟩) s = .next (takeAccess (advance (u 1) pr) k read)) ∧
      (16 ≤ heldReads x → exec (.rdmaRead r ⟨len, ecc⟩) s = .next (qpError ((u 1).porchOut (.nakInvalid r.qp.val r.psn)) r.qp.val 4))) ∧
    (r.psn ≠ x.rxPsn → (x.rxPsn - r.psn).toNat < 2 ^ 23 →
      (∀ e ∈ [Instr.rdmaWrite r bytes, .rdmaWriteWithImmediate r bytes imm],
        (psnHeld (u pw) x r.psn = false → exec e s = .next ((u pw).porchOut (.ack r.qp.val r.psn))) ∧
        (psnHeld (u pw) x r.psn = true → exec e s = .next (u pw))) ∧
      (psnHeld (u 1) x r.psn = false → exec (.rdmaRead r ⟨len, ecc⟩) s = .next (takeAccess (u 1) k read)) ∧
      (psnHeld (u 1) x r.psn = true → exec (.rdmaRead r ⟨len, ecc⟩) s = .next (u 1))) ∧
    (r.psn ≠ x.rxPsn → 2 ^ 23 ≤ (x.rxPsn - r.psn).toNat →
      (∀ e ∈ [Instr.rdmaWrite r bytes, .rdmaWriteWithImmediate r bytes imm], exec e s = .next ((u pw).porchOut (.nakSequence r.qp.val x.rxPsn))) ∧
      exec (.rdmaRead r ⟨len, ecc⟩) s = .next ((u 1).porchOut (.nakSequence r.qp.val x.rxPsn)))) ∧
  (∀ (s : State) (q : Nat) (psn : BitVec 24) (x : Qp), s.qp q = some x →
    ((x.seqNakAt = none ∨ ∃ t, x.seqNakAt = some t ∧ t + 10000 ≤ s.now) →
      nakNoRoom s q psn = (s.porchOut (.nakSequence q psn)).modQp q (fun y => { y with seqNakAt := some s.now })) ∧
    (∀ t, x.seqNakAt = some t → s.now < t + 10000 → nakNoRoom s q psn = s)) ∧
  (∀ (r : HostReq) (m : GhMsg) (q : QpIx) (x : HostFrame) (psn : BitVec 24) (kind : NakKind) (bytes : List Byte) (len : Nat) (ecc : List Ecc)
      (imm : BitVec 32) (s : State), r.qp = q → r.frame = x → m.qp = q →
    ∀ e ∈ [Instr.rdmaWrite r bytes, .rdmaWriteWithImmediate r bytes imm, .rdmaRead r ⟨len, ecc⟩, .invalidRequest q ⟨psn, x⟩, .send m ⟨psn, x⟩,
        .hostAck q ⟨psn, x, bytes⟩, .hostNak q ⟨kind, psn, x⟩],
      (porchOpen s = false → exec e s = .next s) ∧
      (porchOpen s = true → (9216 < x.bytes ∨ 1 < x.tags ∨ s.qp q.val = none ∨ s.qpCfg q.val = none) → exec e s = .next (discardFrame s)) ∧
      (∀ y k, porchOpen s = true → x.bytes ≤ 9216 → x.tags ≤ 1 → s.qp q.val = some y → s.qpCfg q.val = some k →
        (x.icrcOk = false ∨ y.error = true) → exec e s = .next s)) ∧
  (∀ (q : QpIx) (psn : BitVec 24) (x : HostFrame) (s : State) (y : Qp) (k : QpCfg), porchOpen s = true → s.qp q.val = some y →
    s.qpCfg q.val = some k → y.error = false → x.bytes ≤ 9216 → x.tags ≤ 1 → x.icrcOk = true →
    let w := noteCe s q.val x.ce
    exec (.invalidRequest q ⟨psn, x⟩) s = .next (qpError ((count w (porchOcc w q.val 0x090 1)).porchOut (.nakInvalid q.val psn)) q.val 4)) ∧
  (∀ (m : GhMsg) (psn : BitVec 24) (x : HostFrame) (s : State) (y : Qp) (k : QpCfg), porchOpen s = true → s.qp m.qp.val = some y →
    s.qpCfg m.qp.val = some k → y.error = false → x.bytes ≤ 9216 → x.tags ≤ 1 → x.icrcOk = true → psn = y.rxPsn →
    let n := psnCount (s.pmtu m.qp.val) m.sendLength
    let w := noteCe s m.qp.val x.ce
    let u : State := count w (porchOcc w m.qp.val 0x090 n)
    (k.mgmt = true → m.sendLength ≤ 65536 → queuedSends u m.qp.val < 8 → exec (.send m ⟨psn, x⟩) s = .next (clearUnknown (takeAccess
      (u.modQp m.qp.val (fun z => { z with rxPsn := z.rxPsn + BitVec.ofNat 24 n })) k {
        req := { qp := m.qp, frame := x, psn := psn, rkey := 0, va := 0 }, bytes := [], readLen := none, imm := false, ecc := [], msg := some m, answer := none }))) ∧
    (k.mgmt = true → m.sendLength ≤ 65536 → 8 ≤ queuedSends u m.qp.val → exec (.send m ⟨psn, x⟩) s = .next (u.porchOut (.rnrNak m.qp.val psn))) ∧
    ((k.mgmt = false ∨ 65536 < m.sendLength) → exec (.send m ⟨psn, x⟩) s = .next (qpError (u.porchOut (.nakInvalid m.qp.val psn)) m.qp.val 4)))

/-- For a host access taken up: one that no window of its R_Key, device, range and partition admits, and one that the map refuses, changes
nothing and is answered NAK Remote Access Error; one that a home cannot serve now is held; a permitted write that every home serves is
performed and answered ACK; a permitted read that every home answers gives its bytes in a read response, and one that meets a line without
data gives the whole packets before it and then NAK Remote Operational Error; a message of a Send joins the Gatehouse's queue and is
answered ACK. Answers leave in order: the oldest access without one holds the later ones back, and a NAK of this kind puts the pair in
ERROR. A flagged write and a message are tried only once every earlier access of the pair has its answer. A write that is performed where
no access waits at a line changes no HBM3E byte outside the range it names. (R13, R330, R331, R332, R333, R334, R342, R343) -/
def Obligations.HostAccessesFollowTable5 : Prop :=
  (∀ (s : State) (k : QpCfg) (h : HeldHost), h.msg = none → admittedBy s k h.req (h.readLen.getD h.bytes.length) = none →
    hostTry s k h = some (s, { outs := [.nakAccess k.index h.req.psn], fatal := true })) ∧
  (∀ (s : State) (k : QpCfg) (h : HeldHost) (w : DevWindow), h.msg = none → admittedBy s k h.req h.bytes.length = some w → h.readLen = none →
    offOf h.req.va.toNat < controlBase →
    let ps := cutLines (offOf h.req.va.toNat) h.bytes.length
    ((∃ p ∈ ps, homePermits s (.host k.index) .wr p.1 = false) →
      hostTry s k h = some (s, { outs := [.nakAccess k.index h.req.psn], fatal := true })) ∧
    ((∀ p ∈ ps, homePermits s (.host k.index) .wr p.1 = true) →
      (∃ p ∈ ps, mustHold s p.1 (.write ((h.bytes.drop (p.1 - offOf h.req.va.toNat)).take p.2) (List.replicate p.2 true)) = true) → hostTry s k h = none) ∧
    ((∀ p ∈ ps, homePermits s (.host k.index) .wr p.1 = true) →
      (∀ p ∈ ps, mustHold s p.1 (.write ((h.bytes.drop (p.1 - offOf h.req.va.toNat)).take p.2) (List.replicate p.2 true)) = false) →
      hostTry s k h = some (hostWrite s k.index (offOf h.req.va.toNat) h.bytes, { outs := [.ack k.index h.req.psn], fatal := false }))) ∧
  (∀ (s : State) (k : QpCfg) (h : HeldHost) (w : DevWindow) (n : Nat), h.msg = none → admittedBy s k h.req n = some w → h.readLen = some n →
    offOf h.req.va.toNat < controlBase →
    let ps := cutLines (offOf h.req.va.toNat) n
    ((∃ p ∈ ps, homePermits s (.host k.index) .rd p.1 = false) →
      hostTry s k h = some (s, { outs := [.nakAccess k.index h.req.psn], fatal := true })) ∧
    ((∀ p ∈ ps, homePermits s (.host k.index) .rd p.1 = true) → (∀ p ∈ ps, mustHold s p.1 (.read p.2) = false) →
      (∀ t bs, hostRead s k.index ps h.ecc = (t, bs, true) →
        hostTry s k h = some (t, { outs := [.readResponse k.index h.req.psn bs], fatal := false })) ∧
      (∀ t bs sent, hostRead s k.index ps h.ecc = (t, bs, false) → sent = bs.length / Nat.max 1 (t.pmtu k.index) → t.pmtu k.index = s.pmtu k.index →
        hostTry s k h = some (drainDue t, {
          outs := (if sent = 0 then [] else [.readResponse k.index h.req.psn (bs.take (sent * t.pmtu k.index))])
            ++ [.nakOperational k.index (h.req.psn + BitVec.ofNat 24 sent)]
          fatal := true }))) ∧
    ((∀ p ∈ ps, homePermits s (.host k.index) .rd p.1 = true) → (∃ p ∈ ps, mustHold s p.1 (.read p.2) = true) → hostTry s k h = none)) ∧
  (∀ (s : State) (k : QpCfg) (h : HeldHost) (m : GhMsg), h.msg = some m → hostTry s k h =
    some ({ s with gate := { s.gate with queue := s.gate.queue ++ [m] } }, { outs := [.ack k.index h.req.psn], fatal := false })) ∧
  (∀ (n : Nat) (s : State) (q : Nat) (x : Qp) (h : HeldHost) (rest : List HeldHost), s.qp q = some x → x.held = h :: rest →
    let u := s.modQp q (fun y => { y with held := y.held.drop 1 })
    (h.answer = none → sendAnswers (n + 1) s q = s) ∧
    (∀ a, h.answer = some a → a.fatal = false → sendAnswers (n + 1) s q = sendAnswers n (a.outs.foldl State.porchOut u) q) ∧
    (∀ a, h.answer = some a → a.fatal = true → sendAnswers (n + 1) s q = qpError (a.outs.foldl State.porchOut u) q 4)) ∧
  (∀ (before : List HeldHost) (h : HeldHost), mayPass before h = true → (h.imm = true ∨ h.msg.isSome = true) → ∀ b ∈ before, b.answer.isSome = true) ∧
  (∀ (s : State) (q off : Nat) (bs : List Byte) (a : Nat), s.memory.queues = [] → (a < off ∨ off + bs.length ≤ a) →
    (hostWrite s q off bs).memory.hbm.read a = s.memory.hbm.read a)

/-- HOST_ACK on an open pair settles, oldest first, the requests that an answer up to its PSN covers: each write up to it, and a read
whose data it is; one beyond a read whose data have not come makes the pair send again from that read; each settled one waits no more and
clears the retry counts, and the transmitter goes on. HOST_NAK first settles what lies before its PSN; then, with a request left, a PSN
sequence error, as ACK_TIMEOUT does, sends the pair's requests again and counts a retry while fewer than retry_cnt are used, else puts it
in ERROR with cause 1; an RNR NAK sends again while rnr_retry is 7 or more than the RNRs counted, else ERROR with cause 2; any other NAK
is ERROR with cause 3. ACK_TIMEOUT reaches 4.096 us x 2^ack_timeout after the oldest request's issue. ERROR drops what the pair holds and
the messages it has not sent but the NAK that put it there, counts it, reports its requests unreachable and brings the pause state up to
date. (R186, R329, R330, R331, R336, R337, R340, R411) -/
def Obligations.HostAnswersSettleRequests : Prop :=
  (∀ (q : QpIx) (psn : BitVec 24) (bytes : List Byte) (x : HostFrame) (s : State) (y : Qp) (c : QpCfg), porchOpen s = true → s.qp q.val = some y →
    s.qpCfg q.val = some c → y.error = false → x.bytes ≤ 9216 → x.tags ≤ 1 → x.icrcOk = true →
    let w := noteCe s q.val x.ce
    let u (n : Nat) : State := count w (porchOcc w q.val 0x090 n)
    let a := u (psnCount (s.pmtu q.val) bytes.length)
    exec (.hostAck q ⟨psn, x, bytes⟩) s = .next (State.transmit (settleUpTo (qpReqs a q.val).length a q.val psn bytes)) ∧
    (∀ v z, v = settleUpTo (qpReqs (u 1) q.val).length (u 1) q.val (psn - 1) [] → v.qp q.val = some z → v.qpCfg q.val = some c →
      (qpReqs v q.val = [] → ∀ k, exec (.hostNak q ⟨k, psn, x⟩) s = .next v) ∧
      (qpReqs v q.val ≠ [] →
        (z.retries < c.retryCnt → exec (.hostNak q ⟨.sequenceError, psn, x⟩) s =
          .next (retransmit (v.modQp c.index (fun y => { y with retries := y.retries + 1 })) c.index)) ∧
        (c.retryCnt ≤ z.retries → exec (.hostNak q ⟨.sequenceError, psn, x⟩) s = .next (qpError v c.index 1)) ∧
        (c.rnrRetry = 7 ∨ z.rnrs < c.rnrRetry → exec (.hostNak q ⟨.rnr, psn, x⟩) s =
          .next (retransmit (v.modQp q.val (fun y => { y with rnrs := y.rnrs + 1 })) q.val)) ∧
        (c.rnrRetry ≠ 7 → c.rnrRetry ≤ z.rnrs → exec (.hostNak q ⟨.rnr, psn, x⟩) s = .next (qpError v q.val 2)) ∧
        (∀ k : NakKind, k ≠ .sequenceError → k ≠ .rnr → exec (.hostNak q ⟨k, psn, x⟩) s = .next (qpError v q.val 3))))) ∧
  (∀ (n : Nat) (s : State) (q : Nat) (psn : BitVec 24) (bytes : List Byte), qpReqs s q = [] → settleUpTo n s q psn bytes = s) ∧
  (∀ (n : Nat) (s : State) (q : Nat) (psn : BitVec 24) (bytes : List Byte) (r : Req) (rest : List Req), qpReqs s q = r :: rest →
    let done (bs : List Byte) : State := hostSettle ((s.sentRequest r.id).modQp q (fun k => { k with retries := 0, rnrs := 0 })) r bs
    ((∀ a len, r.purpose ≠ .read a len) →
      (psnLe r.lastPsn psn = true → settleUpTo (n + 1) s q psn bytes = settleUpTo n (done []) q psn bytes) ∧
      (psnLe r.lastPsn psn = false → settleUpTo (n + 1) s q psn bytes = s)) ∧
    (∀ a len, r.purpose = .read a len →
      (psnLe r.psn psn = true → psnLe psn r.lastPsn = true → bytes.length = len → settleUpTo (n + 1) s q psn bytes = settleUpTo n (done bytes) q psn []) ∧
      (psnLe psn r.lastPsn = false → psnLe r.lastPsn psn = true → settleUpTo (n + 1) s q psn bytes = retransmit s q))) ∧
  (∀ (q : QpIx) (s : State) (x : Qp) (c : QpCfg) (r : Req) (rest : List Req), s.up = true → s.qp q.val = some x → s.qpCfg q.val = some c →
    x.error = false → qpReqs s q.val = r :: rest →
    let v : State := { s with now := Nat.max s.now (r.issued + 4096 * 2 ^ c.ackTimeout) }
    (x.retries < c.retryCnt → exec (.ackTimeout q) s = .next (retransmit (v.modQp c.index (fun y => { y with retries := y.retries + 1 })) c.index)) ∧
    (c.retryCnt ≤ x.retries → exec (.ackTimeout q) s = .next (qpError v c.index 1))) ∧
  (∀ (s : State) (q cause : Nat), s.qpUp q = true →
    let t := s.modQp q (fun k => { k with error := true, cause := BitVec.ofNat 4 cause, held := [] })
    qpError s q cause = pfcUpdate (reportUnreachable { t with porch := { t.porch with
      waiting := s.porch.waiting.filter (fun w => w.out.qp != some q || w.out.fatal), qpErrors := satInc s.porch.qpErrors } } q))

/-- A CNP that acts sets the rate to max(min_rate, rate x (256 - dec) / 256); one within rec_interval of the last that acted does nothing.
A full rec_interval raises it by (line rate - rate) x inc / 256. A pause frame of an enabled priority stops or resumes it; one of another
is ignored. An ARP request or solicitation for the Porch's address is answered, for another discarded and counted, as is any other frame.
PORCH_LINK_DOWN takes an up link to training and counts it; PORCH_RETRAIN_ATTEMPT tries again 300 ms after the last attempt; PORCH_LINK_UP
ends training. Queue pairs keep their state. After a rate, a pause or the link has changed for the better the transmitter goes on. (R326,
R327, R339, R340) -/
def Obligations.PorchFramesAndRates : Prop :=
  (∀ (q : QpIx) (s : State) (x : Qp), porchOpen s = true → s.qp q.val = some x → x.error = false →
    ((x.cnpAt = none ∨ ∃ t, x.cnpAt = some t ∧ t + bits s.cfg.porchCc 23 16 * 1000 ≤ s.now) → exec (.cnp q) s = .next (s.modQp q.val (fun y => { y with
      rate := Nat.max (bits s.cfg.porchCc 15 0 * 100000) (x.rate * (256 - bits s.cfg.porchCc 39 32) / 256), cnpAt := some s.now, recoverAt := s.now }))) ∧
    (∀ t, x.cnpAt = some t → s.now < t + bits s.cfg.porchCc 23 16 * 1000 → exec (.cnp q) s = .next s)) ∧
  (∀ (q : QpIx) (s : State) (x : Qp), s.up = true → s.qp q.val = some x → x.error = false →
    let at_ := Nat.max s.now (x.recoverAt + bits s.cfg.porchCc 23 16 * 1000)
    exec (.recIntervalExpiry q) s = .next (State.transmit (State.modQp { s with now := at_ } q.val (fun y => { y with
      rate := y.rate + (lineRate s.cfg - x.rate) * bits s.cfg.porchCc 31 24 / 256, recoverAt := at_ })))) ∧
  (∀ (prio : Fin 8) (xoff : Bool) (s : State), porchOpen s = true →
    (pfcEnabled s prio.val = true → ∃ v, exec (.pfcPause prio xoff) s = .next (State.transmit { s with porch := { s.porch with paused := v } }) ∧
      v.getLsbD prio.val = xoff ∧ ∀ n, n ≠ prio.val → v.getLsbD n = s.porch.paused.getLsbD n) ∧
    (pfcEnabled s prio.val = false → exec (.pfcPause prio xoff) s = .next s)) ∧
  (∀ (ip : BitVec 32) (mac : BitVec 48) (s : State), porchOpen s = true →
    (ip = s.cfg.ipv4 → exec (.arp ip mac) s = .next (s.porchOut (.arpReply ip mac))) ∧ (ip ≠ s.cfg.ipv4 → exec (.arp ip mac) s = .next (discardFrame s))) ∧
  (∀ (ip : BitVec 128) (mac : BitVec 48) (s : State), porchOpen s = true →
    (ip = s.cfg.ipv6 → exec (.neighborSolicitation ip mac) s = .next (s.porchOut (.neighborAdvertisement ip mac))) ∧
    (ip ≠ s.cfg.ipv6 → exec (.neighborSolicitation ip mac) s = .next (discardFrame s))) ∧
  (∀ s : State, porchOpen s = true → exec .frameDiscard s = .next { s with porch := { s.porch with framesDiscarded := satInc s.porch.framesDiscarded } }) ∧
  (∀ s : State, s.up = true → s.porch.link = 2 → exec .porchLinkDown s = .next { s with porch := { s.porch with
    link := 1, downCount := satInc s.porch.downCount, trainAt := s.now } }) ∧
  (∀ s : State, s.up = true → s.porch.link = 1 → exec .porchRetrainAttempt s = .next { s with
    now := Nat.max s.now (s.porch.trainAt + 300000000), porch := { s.porch with trainAt := Nat.max s.now (s.porch.trainAt + 300000000) } }) ∧
  (∀ s : State, s.up = true → s.porch.link = 1 → exec .porchLinkUp s = .next (State.transmit { s with porch := { s.porch with link := 2 } }))

/-- For each of the eleven commands that an owner key signs, a message taken up (from the head of the Gatehouse's queue, or at an empty
queue on a management queue pair) with a wrong length, reserved field or body is answered FORMAT; else with a key_id of no usable owner
key KEY; else with another serial or boot nonce TARGET; else with a signature that does not verify SIGNATURE; else with a counter that is
not above last_counter STALE. The reply has no body, and nothing but the reply and the answers to unknown commands behind it changes.
(R452, R453, R456) -/
def Obligations.GatehouseChecksInOrder : Prop :=
  ∀ (m : GhMsg) (s t : State), ∀ e ∈ ([(Instr.selectVariant m, cmdSelectVariant, bodyIs [0xF]),
      (.imageWrite m, cmdImageWrite, bodyIs ((2 ^ 32 - 1) :: List.replicate 8 all64)), (.qpReset m, cmdQpReset, bodyIs [0xFFF, 2 ^ 64 - 2 ^ 16]),
      (.computeReset m, cmdComputeReset, bodyIs []), (.contextReset m, cmdContextReset, bodyIs [0x3F]),
      (.stackRetrain m, cmdStackRetrain, bodyIs [0x1F]), (.fenceClear m, cmdFenceClear, bodyIs [0x3F]), (.safeState m, cmdSafeState, bodyIs []),
      (.rollbackRaise m, cmdRollbackRaise, bodyIs [0x3FF]), (.keyEnroll m, cmdKeyEnroll, bodyIs (List.replicate 8 all64)),
      (.controlWrite m, cmdControlWrite, bodyIs [2 ^ 48 - 1, all64])] : List (Instr × Nat × (List W64 → Bool))),
    takeMsg s m e.2.1 = some t →
    let fmt := formatOk { code := e.2.1, key := byOwner, layout := e.2.2, own := noOwn } m
    (fmt = false → exec e.1 s = .next (clearUnknown (ghReply t m 0x02 [] []))) ∧
    (fmt = true → ownerKey t.fuses (keyIdOf m) = none → exec e.1 s = .next (clearUnknown (ghReply t m 0x04 [] []))) ∧
    (∀ k, fmt = true → ownerKey t.fuses (keyIdOf m) = some k →
      (wd m.hdr 3 ≠ t.fuses.serial ∨ wd m.hdr 2 ≠ t.gate.bootNonce → exec e.1 s = .next (clearUnknown (ghReply t m 0x06 [] []))) ∧
      (wd m.hdr 3 = t.fuses.serial → wd m.hdr 2 = t.gate.bootNonce →
        (blockValid (some k) (keyIdOf m) m.sig (Config.shake256 (signedBytes m)) = false → exec e.1 s = .next (clearUnknown (ghReply t m 0x03 [] []))) ∧
        (blockValid (some k) (keyIdOf m) m.sig (Config.shake256 (signedBytes m)) = true → (counterOf m).toNat ≤ t.gate.lastCounter.toNat →
          exec e.1 s = .next (clearUnknown (ghReply t m 0x05 [] [])))))

/-- GET_IDENTITY answers the padded certificate; GET_NONCE the boot nonce, last counter and serial; QUOTE a signed list of held chain
entries, refused where its start index names none. Signed and accepted: COMPUTE_RESET and SELECT_VARIANT reply and start a compute-domain
reset, refused in the safe state (a variant above variants_m1 also); CONTEXT_RESET of a defined context resets it and replies;
STACK_RETRAIN retrains a stack that is not retraining; QP_RESET gives a defined queue pair its PSNs; FENCE_CLEAR marks the Face's fence
entries; SAFE_STATE replies, records an error and enters the safe state; CONTROL_WRITE writes an aligned register. A refusal answers 0x08.
(R366, R331, R359, R365, R370, R401, R414, R443, R450, R453, R482, R484) -/
def Obligations.GatehouseCommandsAct : Prop :=
  ∀ (m : GhMsg) (s t : State),
  (takeMsg s m 0x01 = some t → formatOk ⟨0x01, none, bodyIs [], noOwn⟩ m = true →
    exec (.getIdentity m) s = .next (clearUnknown (ghReply (heard t m) m 0 [] (padTo 29984 t.fuses.certificate)))) ∧
  (takeMsg s m 0x02 = some t → formatOk ⟨0x02, none, bodyIs [], noOwn⟩ m = true →
    exec (.getNonce m) s = .next (clearUnknown (ghReply (heard t m) m 0 [t.gate.bootNonce, t.gate.lastCounter.setWidth 64, t.fuses.serial, 0] []))) ∧
  (takeMsg s m 0x03 = some t → formatOk ⟨0x03, none, bodyIs (List.replicate 8 all64 ++ [2 ^ 32 - 1] ++ List.replicate 7 0), noOwn⟩ m = true →
    (chainFirst t.gate ≤ quoteStart m → quoteStart m < t.gate.chainTotal →
      exec (.quote m) s = .next (clearUnknown (ghReply (heard t m) m 0 [] (quoteBytes (heard t m) (m.body.take 8) (quoteStart m))))) ∧
    (quoteStart m < chainFirst t.gate ∨ t.gate.chainTotal ≤ quoteStart m → exec (.quote m) s = .next (clearUnknown (ghReply t m 0x08 [] [])))) ∧
  (takeMsg s m 0x14 = some t → SignedOk t m 0x14 (bodyIs []) →
    (t.boot.safe = false → exec (.computeReset m) s = .next (clearUnknown (startCReset (ghReply (accepted t m 0x14) m 0 [] []) false none))) ∧
    (t.boot.safe = true → exec (.computeReset m) s = .next (clearUnknown (ghReply t m 0x08 [] [])))) ∧
  (takeMsg s m 0x10 = some t → SignedOk t m 0x10 (bodyIs [0xF]) →
    (bits (wd m.body 0) 3 0 ≤ variantsM1 t → t.boot.safe = false → exec (.selectVariant m) s = .next (clearUnknown (startCReset
      (ghReply (accepted t m 0x10) m 0 [] []) false (some (BitVec.ofNat 4 (bits (wd m.body 0) 3 0)))))) ∧
    (variantsM1 t < bits (wd m.body 0) 3 0 ∨ t.boot.safe = true → exec (.selectVariant m) s = .next (clearUnknown (ghReply t m 0x08 [] [])))) ∧
  (takeMsg s m 0x15 = some t → SignedOk t m 0x15 (bodyIs [0x3F]) →
    ((t.ctxCfg (bits (wd m.body 0) 5 0)).isSome = true → exec (.contextReset m) s = .next (clearUnknown
      (ghReply (writeCtxReset (accepted t m 0x15) (bits (wd m.body 0) 5 0)) m 0 [] []))) ∧
    ((t.ctxCfg (bits (wd m.body 0) 5 0)) = none → exec (.contextReset m) s = .next (clearUnknown (ghReply t m 0x08 [] [])))) ∧
  (takeMsg s m 0x16 = some t → SignedOk t m 0x16 (bodyIs [0x1F]) → bits (wd m.body 0) 4 0 < 24 →
    exec (.stackRetrain m) s = .next (clearUnknown (ghReply ((accepted t m 0x16).modMem
      (fun y => modStack y (bits (wd m.body 0) 4 0) (fun k => if k.service = 1 then k else k.retrain (accepted t m 0x16).now))) m 0 [] []))) ∧
  (∀ k, takeMsg s m 0x13 = some t → SignedOk t m 0x13 (bodyIs [0xFFF, 2 ^ 64 - 2 ^ 16]) → t.qpCfg (bits (wd m.body 0) 11 0) = some k →
    (accepted t m 0x13).qpCfg (bits (wd m.body 0) 11 0) = some k →
    exec (.qpReset m) s = .next (clearUnknown (ghReply (resetQp (accepted t m 0x13) k (BitVec.ofNat 24 (bits (wd m.body 1) 63 40))
      (BitVec.ofNat 24 (bits (wd m.body 1) 39 16))) m 0 [] []))) ∧
  (takeMsg s m 0x17 = some t → SignedOk t m 0x17 (bodyIs [0x3F]) → fenceEntries t (bits (wd m.body 0) 5 0) ≠ [] →
    ∃ u, exec (.fenceClear m) s = .next (clearUnknown (ghReply u m 0 [] [])) ∧ u.gate.log = (accepted t m 0x17).gate.log.map
      (fun e => if e.kind = 3 ∧ e.face = bits (wd m.body 0) 5 0 then { e with cleared := true } else e)) ∧
  (takeMsg s m 0x18 = some t → SignedOk t m 0x18 (bodyIs []) →
    exec (.safeState m) s = .next (clearUnknown (enterSafe (raiseError (ghReply (accepted t m 0x18) m 0 [] [])
      { cls := 0x14, sev := sevDevice, unit := 0xFF, item := none, ctx := none, detail := [] }) (fun _ => codeSafeState) (accepted t m 0x18).nextError))) ∧
  (takeMsg s m 0x1C = some t → SignedOk t m 0x1C (bodyIs [2 ^ 48 - 1, all64]) →
    exec (.controlWrite m) s = .next (clearUnknown (ghReply (if bits (wd m.body 0) 47 0 % 8 = 0
      then regWrite (accepted t m 0x1C) .all (bits (wd m.body 0) 47 0) (wd m.body 1) else accepted t m 0x1C) m 0 [] [])))

/-- Signed and accepted, ROLLBACK_RAISE burns the floors it needs (EXHAUSTED where one has 16 entries), KEY_ENROLL the lowest empty owner
slot (EXHAUSTED with none), KEY_REVOKE a revoke fuse unless no owner key would stay; IMAGE_WRITE erases the other slot's header and
begins, BUSY while a write runs, refused for a length the slot cannot hold. IMAGE_DATA from that queue pair is put in its place, the last
block ends the write: MEASUREMENT, VERIFY or forwarding to the peers. A forwarded start, data or result from an UP port acts on the peer's
write or this device's wait; 500 ms without a result is result 3; 10 s without data abandons a write. (R297, R353, R362, R446, R447, R455,
R456, R457) -/
def Obligations.FusesAndImagesAreWritten : Prop :=
  (∀ (m : GhMsg) (s t : State),
    (takeMsg s m 0x19 = some t → SignedOk t m 0x19 (bodyIs [0x3FF]) →
      let ns := floorsToBurn t (bits (wd m.body 0) 9 0)
      ((∃ n ∈ ns, 16 ≤ (t.fuses.floors.getD n []).length) → exec (.rollbackRaise m) s = .next (clearUnknown (ghReply t m 0x0A [] []))) ∧
      ((∀ n ∈ ns, (t.fuses.floors.getD n []).length < 16) → exec (.rollbackRaise m) s = .next (clearUnknown
        (ghReply (burnFloors (accepted t m 0x19) (floorsToBurn (accepted t m 0x19) (bits (wd m.body 0) 9 0))) m 0 [] [])))) ∧
    (takeMsg s m 0x1A = some t → SignedOk t m 0x1A (bodyIs (List.replicate 8 all64)) →
      (emptySlot t.fuses = none → exec (.keyEnroll m) s = .next (clearUnknown (ghReply t m 0x0A [] []))) ∧
      (∀ n, emptySlot t.fuses = some n → ∃ u, exec (.keyEnroll m) s = .next (clearUnknown (ghReply u m 0 [] [])) ∧
        u.fuses = { t.fuses with ownerKeys := t.fuses.ownerKeys.set n (some (BitVec.ofNat 512 (leNat (wordsBytes m.body)))) })) ∧
    (takeMsg s m 0x1B = some t → 0x100 ≤ revoked m → revoked m ≤ 0x107 → SignedOk t m 0x1B (bodyIs [0xFFFF]) →
      (hasOwnerKey (burnRevoke t.fuses (revoked m)) = true → ∃ u, exec (.keyRevoke m) s = .next (clearUnknown (ghReply u m 0 [] [])) ∧
        u.fuses = burnRevoke t.fuses (revoked m)) ∧
      (hasOwnerKey (burnRevoke t.fuses (revoked m)) = false → exec (.keyRevoke m) s = .next (clearUnknown (ghReply t m 0x08 [] [])))) ∧
    (takeMsg s m 0x11 = some t → SignedOk t m 0x11 (bodyIs ((2 ^ 32 - 1) :: List.replicate 8 all64)) →
      let n := bits (wd m.body 0) 31 0
      (t.gate.writing.isSome = true → exec (.imageWrite m) s = .next (clearUnknown (ghReply t m 0x07 [] []))) ∧
      (t.gate.writing = none → (n < 64 ∨ slotSize < n) → exec (.imageWrite m) s = .next (clearUnknown (ghReply t m 0x08 [] []))) ∧
      (t.gate.writing = none → 64 ≤ n → n ≤ slotSize → exec (.imageWrite m) s = .next (clearUnknown (ghReply
        (beginWrite (accepted t m 0x11) (some m.qp) 0 n (BitVec.ofNat 512 (leNat (wordsBytes (m.body.drop 1))))) m 0 [] [])))) ∧
    (∀ w, takeMsg s m 0x12 = some t → formatOk ⟨0x12, none, dataLayout, noOwn⟩ m = true → t.gate.writing = some w →
      (w.qp ≠ some m.qp ∨ w.length ≤ dataOffset m → exec (.imageData m) s = .next (clearUnknown (ghReply t m 0x08 [] []))) ∧
      (w.qp = some m.qp → dataOffset m < w.length → ∀ v x, putData (heard t m) w (dataOffset m) (dataBytes m) = v → v.gate.writing = some x →
        (writeWhole x = false → exec (.imageData m) s = .next (clearUnknown (ghReply v m 0 (writeReply 0 []) []))) ∧
        (writeWhole x = true → (finishWrite v x).2.1 = 0 → exec (.imageData m) s = .next (clearUnknown (startForwarding (finishWrite v x).1 x m))) ∧
        (writeWhole x = true → (finishWrite v x).2.1 ≠ 0 → exec (.imageData m) s = .next (clearUnknown
          (ghReply (finishWrite v x).1 m (finishWrite v x).2.1 (writeReply (finishWrite v x).2.2 []) [])))))) ∧
  (∀ (s : State) (w : ImageWrite), s.gate.writing = some w → s.up = true → ∃ t, exec .imageWriteAbandon s = .next t ∧ t.gate.writing = none ∧
    t.now = Nat.max s.now (w.last + 10000000000) ∧ t.gate.slotA = s.gate.slotA ∧ t.gate.slotB = s.gate.slotB) ∧
  (∀ (p : PortIx) (m : FabMsg) (s : State), s.portUp p.val = true → s.up = true → msgOk m = true → s.boot.comparatorStopped = false →
    (msgType m = 0x05 → writeStatus s (bits (msgWord m 1) 31 0) = 0 → exec (.imageFwdStart p m) s = .next
      (beginWrite s none p.val (bits (msgWord m 1) 31 0) (BitVec.ofNat 512 (leNat m.body)))) ∧
    (msgType m = 0x05 → writeStatus s (bits (msgWord m 1) 31 0) ≠ 0 → exec (.imageFwdStart p m) s = .next
      (sendResult s p.val (writeStatus s (bits (msgWord m 1) 31 0)) 0)) ∧
    (∀ w x v, msgType m = 0x06 → s.gate.writing = some w → w.qp = none → w.port = p.val → (msgWord m 1).toNat % 64 = 0 → (msgWord m 1).toNat < w.length →
      putData s w (msgWord m 1).toNat m.body = v → v.gate.writing = some x →
      (writeWhole x = false → exec (.imageFwdData p m) s = .next v) ∧
      (writeWhole x = true → exec (.imageFwdData p m) s = .next (sendResult (finishWrite v x).1 p.val (finishWrite v x).2.1 (finishWrite v x).2.2))) ∧
    (msgType m = 0x07 → exec (.imageFwdResult p m) s = .next (fwdResult s p.val (if bits (msgWord m 1) 15 8 = 0 then 1 else 2)))) ∧
  (∀ (p : PortIx) (s : State) (f : Forwarding), s.gate.forwarding = some f → s.up = true → s.boot.comparatorStopped = false →
    f.results.getD p.val (some 0) = none → exec (.imageFwdTimeout p) s = .next (fwdResult (s.upTo (f.lastData + 500000000)) p.val 3))

/-- While the device runs: an allowed writer's CTX_CTL reset of a defined context outside a compute reset resets that context; COUNTER_CTL
clears, runs or selects the bank of a die, and only it, where no compute reset holds it; a writer without authority changes nothing. A
control-space write at an aligned offset acts through regWrite, an unaligned one not; I3C_OFFSET_WRITE sets the offset, I3C_READ reads
there and adds 8. A lock lets the die switch where its group is not held and has the voltage, else it waits locked. A voltage step moves
its group's code by one towards the group's voltage 0.5 us after the last; a held group waits. A fall beyond droop_mv stretches the die's
clock by 2, beyond twice droop_mv by 4, counts an event and holds the group; its clearing ends the stretch; droop_hold later, rounded up
to a Sill edge, the hold ends. The control tick moves the sustained cap and deep as R380 says and begins a new ms; rail readings join the
sums and die readings the temperatures; a hot die's thermal cap falls by one level each 100 us, a cooled one's rises by one after 1 ms.
Effects on other fields are not stated here. (R378, R380, R384, R385, R389, R390, R464, R465, R482, R484, R485, R488) -/
def Obligations.ControlAndHearthAct : Prop :=
  (∀ (w : Writer) (c : CtxIx) (s : State), s.up = true →
    ((authorityOf s w).ctx s c.val = true → (s.ctxCfg c.val).isSome = true → s.boot.creset = none →
      exec (.ctxCtlReset w c) s = .next (resetContext s c.val codeContextReset none)) ∧
    ((authorityOf s w).ctx s c.val = false ∨ s.ctxCfg c.val = none ∨ s.boot.creset.isSome = true → exec (.ctxCtlReset w c) s = .next s)) ∧
  (∀ (w : Writer) (d : Fin 100) (s : State), s.up = true →
    ((authorityOf s w).bank s d.val none = false → exec (.counterClear w d) s = .next s ∧ exec (.counterRun w d) s = .next s) ∧
    ((authorityOf s w).bank s d.val none = true → (s.boot.creset = none ∨ 64 ≤ d.val) → ∀ b : Bank, s.banks[d.val]? = some b →
      (∃ t, exec (.counterClear w d) s = .next t ∧ t.banks[d.val]? = some { b with
        values := List.replicate 16 0, ovf := List.replicate 16 false, written := 0, ring := [] } ∧
        (∀ n, n ≠ d.val → t.banks[n]? = s.banks[n]?) ∧ t = { s with banks := t.banks }) ∧
      (∃ t, exec (.counterRun w d) s = .next t ∧ t.banks[d.val]? = some { b with running := true } ∧
        (∀ n, n ≠ d.val → t.banks[n]? = s.banks[n]?) ∧ t = { s with banks := t.banks })) ∧
    (∀ (p : Fin 8) (run : Bool),
      ((authorityOf s w).bank s d.val (some p.val) = false → exec (.counterSelect w d p run) s = .next s) ∧
      ((authorityOf s w).bank s d.val (some p.val) = true → (s.boot.creset = none ∨ 64 ≤ d.val) → ∀ b : Bank, s.banks[d.val]? = some b →
        ∃ t, exec (.counterSelect w d p run) s = .next t ∧ t.banks[d.val]? = some { b with running := run, program := p.val, matched := 0 } ∧
          (∀ n, n ≠ d.val → t.banks[n]? = s.banks[n]?) ∧ t = { s with banks := t.banks }))) ∧
  (∀ (q : QpIx) (o : BitVec 40) (v : W64) (s : State), s.up = true →
    (o.toNat % 8 = 0 → exec (.controlSpaceWrite q o v) s = .next (regWrite s (authorityOf s (.host q)) o.toNat v)) ∧
    (o.toNat % 8 ≠ 0 → exec (.controlSpaceWrite q o v) s = .next s)) ∧
  (∀ (o : BitVec 16) (s : State), s.boot.phase ≠ .por → exec (.i3cOffsetWrite o) s = .next { s with gate := { s.gate with i3cOffset := o } } ∧
    exec .i3cRead s = .next { s with gate := { s.gate with
      i3cData := i3cValue s s.gate.i3cOffset.toNat, i3cOffset := s.gate.i3cOffset + 8 } }) ∧
  (∀ (d : DieIx) (s : State), s.up = true →
    ((s.die d.val).locking = false → exec (.generatorLock d) s = .next s) ∧
    (∀ x, s.dies[d.val]? = some x → x.locking = true → x.level ≠ x.target → ∃ t y, exec (.generatorLock d) s = .next t ∧ t.now = s.now ∧
      t.dies[d.val]? = some y ∧
      ((s.powerGroup (groupOf d.val)).held = false → levelVid x.target ≤ (s.powerGroup (groupOf d.val)).vid.toNat → y.level = x.target) ∧
      ((s.powerGroup (groupOf d.val)).held = true ∨ (s.powerGroup (groupOf d.val)).vid.toNat < levelVid x.target →
        y.level = x.level ∧ y.target = x.target ∧ y.locked = true ∧ y.locking = false)) ∧
    (∀ x, s.dies[d.val]? = some x → x.locking = true → x.level = x.target → exec (.generatorLock d) s =
      .next (moveLevels (s.modDie d.val (fun y => { y with locking := false, locked := true }))))) ∧
  (∀ (g : Fin 8) (s : State), s.up = true →
    ((s.powerGroup g.val).held = true ∨ (s.powerGroup g.val).vid.toNat = groupVid s g.val → exec (.voltageStep g) s = .next s) ∧
    (∀ p, s.hearth.groups[g.val]? = some p → p.held = false → p.vid.toNat ≠ groupVid s g.val → ∃ t, exec (.voltageStep g) s = .next t ∧
      t.now = Nat.max s.now (p.stepAt + 500) ∧ t.hearth.groups = s.hearth.groups.set g.val
        { p with stepAt := t.now, vid := if p.vid.toNat < groupVid s g.val then p.vid + 1 else p.vid - 1 })) ∧
  (∀ (d : DieIx) (mv : Nat) (s : State), s.up = true →
    (mv ≤ droopMv s → exec (.droopDetect d mv) s = .next s) ∧
    (∀ x, s.dies[d.val]? = some x → droopMv s < mv → ∃ t y, exec (.droopDetect d mv) s = .next t ∧ t.now = s.now ∧ t.hearth.boostOk = false ∧
      t.hearth.lastDroop = some s.now ∧ t.hearth.groups = s.hearth.groups.modify (groupOf d.val) (fun p => { p with held := true }) ∧
      t.dies[d.val]? = some y ∧ y.stretch = (if 2 * droopMv s < mv then 2 else 1) ∧
      y.droopEvents = if x.stretch = 0 then x.droopEvents + 1 else x.droopEvents)) ∧
  (∀ (d : DieIx) (s : State), s.up = true →
    ((s.die d.val).stretch = 0 → exec (.droopClear d) s = .next s) ∧
    (∀ x, s.dies[d.val]? = some x → x.stretch ≠ 0 → ∃ t y, exec (.droopClear d) s = .next t ∧ t.now = s.now ∧ t.hearth.lastDroop = some s.now ∧
      t.hearth.groups = s.hearth.groups.modify (groupOf d.val) (fun p => { p with clearedAt := s.now }) ∧
      t.dies[d.val]? = some y ∧ y.stretch = 0)) ∧
  (∀ (g : Fin 8) (s : State), s.up = true →
    ((s.powerGroup g.val).held = false ∨ (∃ d ∈ groupDies g.val, (s.die d).stretch ≠ 0) → exec (.droopHoldExpiry g) s = .next s) ∧
    (∀ p, s.hearth.groups[g.val]? = some p → p.held = true → (∀ d ∈ groupDies g.val, (s.die d).stretch = 0) →
      ∃ t, exec (.droopHoldExpiry g) s = .next t ∧ t.now = Nat.max s.now (roundUp (p.clearedAt + droopHoldNs s) 40) ∧
        t.hearth.groups = s.hearth.groups.set g.val { p with held := false })) ∧
  (∀ s : State, s.up = true →
    let w := startRetrains (deliverServed s)
    let recent := w.hearth.senseSum * 1000 / Nat.max 1 w.hearth.senseCount
    let avg := averageMw w ((recent :: w.hearth.history).take (windowMs w))
    let above : Prop := powerLimit w * 1000 < avg ∨ (fixedMode w = false ∧ 98 * (powerLimit w * 1000) < 100 * avg ∧ powerLimit w * 1000 < recent)
    let below : Prop := 100 * avg < 95 * (powerLimit w * 1000) ∧ 100 * recent < 95 * (powerLimit w * 1000)
    ∃ t, exec .controlTick s = .next t ∧ t.now = Nat.max w.now (w.hearth.tickAt + 1000000) ∧ t.hearth.tickAt = t.now ∧
      t.hearth.senseSum = 0 ∧ t.hearth.senseCount = 0 ∧ t.hearth.history = (recent :: w.hearth.history).take (windowMs w) ∧
      t.hearth.powerRecent = recent / 1000 ∧ t.hearth.powerAvg = avg / 1000 ∧
      (above → t.hearth.capSustained = Nat.min 5 (w.hearth.capSustained + 1) ∧
        t.hearth.deep = (w.hearth.deep || decide (w.hearth.capSustained = 5 ∧ powerLimit w * 1000 < avg))) ∧
      (¬ above → below → t.hearth.deep = false ∧
        t.hearth.capSustained = if w.hearth.deep = true then w.hearth.capSustained else w.hearth.capSustained - 1) ∧
      (¬ above → ¬ below → t.hearth.deep = w.hearth.deep ∧ t.hearth.capSustained = w.hearth.capSustained)) ∧
  (∀ (r : List RailReading) (s : State), s.up = true → ∃ t, exec (.railSense r) s = .next t ∧
    t.now = Nat.max s.now (s.hearth.tickAt + 10000 * (s.hearth.senseCount + 1)) ∧ t.hearth.senseCount = s.hearth.senseCount + 1 ∧
    t.hearth.senseSum = s.hearth.senseSum + (r.map (fun x => (RailReading.watts x).toNat)).sum ∧
    (∀ i x, i < 16 → r[i]? = some x → t.hearth.rails.getD i none = some x) ∧
    (∀ i, i < 16 → r[i]? = none → t.hearth.rails.getD i none = s.hearth.rails.getD i none)) ∧
  (∀ (b : List (List Byte)) (s : State), s.up = true → ∃ t, exec (.dieTempRead b) s = .next t ∧ t.now = s.now ∧
    t.hearth.temps = (List.range 100).map (fun i => sensed i (b.getD i []) <|> s.hearth.temps.getD i none) ∧
    (∀ n x v, n < 32 → s.dies[n]? = some x → sensed n (b.getD n []) = some v → ∃ y, t.dies[n]? = some y ∧ y.temp = v ∧
      (hotDies s t.hearth.temps n = [] → y.hotSince = 0) ∧
      (hotDies s t.hearth.temps n ≠ [] → y.hotSince = (if x.hotSince = 0 then s.now else x.hotSince)))) ∧
  (∀ (d : DieIx) (x : Die) (s : State), s.up = true → s.dies[d.val]? = some x →
    (x.hotSince ≠ 0 → ∀ u, u = accrue (s.upTo (x.hotSince + 100000 * (x.hotSteps + 1))) → ∃ t y, exec (.thermalCapStep d) s = .next t ∧
      t.now = Nat.max s.now (x.hotSince + 100000 * (x.hotSteps + 1)) ∧ t.dies[d.val]? = some y ∧ y.hotSteps = x.hotSteps + 1 ∧
      y.capThermal = Nat.min 5 ((if x.hotSteps = 0 then effLevel u (u.die d.val) else x.capThermal) + 1)) ∧
    (x.hotSince = 0 → x.belowSince ≠ 0 → x.capThermal ≠ 0 → ∃ t y, exec (.thermalCapStep d) s = .next t ∧
      t.now = Nat.max s.now (x.belowSince + 1000000) ∧ t.dies[d.val]? = some y ∧ y.capThermal = x.capThermal - 1) ∧
    (x.hotSince = 0 → (x.belowSince = 0 ∨ x.capThermal = 0) → exec (.thermalCapStep d) s = .next s))

/-- While the device runs: a monitored alert input sets the alert cap to level 5 and puts every Face die on its fixed generator at that
level, an unmonitored one nothing; its release clears its bit and, with none left, starts alert_hold, after which the cap is set to rise.
An input asserted for 1 s writes the power fault's record and enters the safe state with FAULT_N. A die at 115 or a stack at 110 degrees
asserts THERMTRIP_N and enters the safe state in every phase after POR, with its record while the device runs; a lower reading does
nothing. A Gatehouse mismatch writes its record, stops the comparator and enters the safe state. A clock window within tolerance passes,
the first outside it is noted, the second in a row writes the record of a clock loss and acts as clockLost says; a stopped clock's windows
do nothing. With an undrained error record and no drain under way the drain begins 50 us after the oldest; else nothing happens. (R386,
R387, R391, R405, R406, R407, R409, R411, R412, R414, R415, R417) -/
def Obligations.AlertsAndLossesAct : Prop :=
  (∀ (i : PortIx) (s : State), s.up = true →
    (alertMask s i.val = false → exec (.regAlertAssert i) s = .next s) ∧
    (alertMask s i.val = true → ∃ t, exec (.regAlertAssert i) s = .next t ∧ t.now = s.now ∧ t.hearth.capAlert = 5 ∧ t.hearth.alertHighAt = none ∧
      t.hearth.alertNow = s.hearth.alertNow ||| inputBit i.val ∧ t.hearth.alertSeen = s.hearth.alertSeen ||| inputBit i.val ∧
      t.dies.length = Nat.min s.dies.length 32 ∧ ∀ x ∈ t.dies, x.level = 5 ∧ x.generator = 2) ∧
    (s.hearth.alertNow &&& inputBit i.val = 0 → exec (.regAlertDeassert i) s = .next s ∧ exec (.powerFault i) s = .next s) ∧
    (s.hearth.alertNow &&& inputBit i.val ≠ 0 → ∃ t, exec (.regAlertDeassert i) s = .next t ∧
      t.hearth.alertNow = s.hearth.alertNow &&& ~~~(inputBit i.val) ∧
      (t.hearth.alertNow = 0 → t.hearth.alertHighAt = some s.now) ∧ (t.hearth.alertNow ≠ 0 → t.hearth.alertHighAt = none) ∧
      t = { s with hearth := t.hearth }) ∧
    (s.hearth.alertNow &&& inputBit i.val ≠ 0 → s.boot.safe = false → ∃ u t, u = s.upTo (s.hearth.alertSince.getD i.val 0 + 1000000000) ∧
      exec (.powerFault i) s = .next t ∧ t = enterSafe (raiseError u {
        cls := 0x0C, sev := sevDevice, unit := 0x5A, item := none, ctx := none,
        detail := [BitVec.ofNat 64 s.hearth.alertNow.toNat] }) (fun _ => codeSafeState) s.nextError ∧ t.boot.safe = true ∧ t.boot.faultN = true)) ∧
  (∀ (s : State) (a : Nat), s.up = true → s.hearth.alertHighAt = some a → ∃ t, exec .alertHoldExpiry s = .next t ∧ t.hearth.alertHighAt = none ∧
    t.now = Nat.max s.now (a + alertHoldNs s) ∧ (t.hearth.alertRising = true ↔ s.hearth.capAlert ≠ 0)) ∧
  (∀ s : State, s.hearth.alertHighAt = none → exec .alertHoldExpiry s = .next s) ∧
  (∀ (unit temp : Byte) (s : State), s.boot.phase ≠ .por →
    (temp.toInt < (if isStackUnit unit then (110 : Int) else 115) → exec (.thermalTrip unit temp) s = .next s) ∧
    ((if isStackUnit unit then (110 : Int) else 115) ≤ temp.toInt → ∃ t, exec (.thermalTrip unit temp) s = .next t ∧ t.boot.thermtripN = true ∧
      t.boot.safe = true ∧ (s.boot.safe = false → t.boot.faultN = true ∧ t.boot.safeAt = s.now) ∧
      (s.up = true → t = enterSafe (raiseError { s with boot := { s.boot with thermtripN := true } } {
        cls := 0x0B, sev := sevDevice, unit := unit.toNat, item := none, ctx := none, detail := [BitVec.ofNat 64 temp.toNat] }) (fun _ => codeSafeState) s.nextError))) ∧
  (∀ (seq : W64) (s : State), s.up = true →
    (s.boot.comparatorStopped = true → exec (.gatehouseMismatch seq) s = .next s) ∧
    (s.boot.comparatorStopped = false → s.boot.safe = false → ∃ u t, u = raiseError s {
        cls := 0x0A, sev := sevDevice, unit := 0xFF, item := none,
        ctx := none, detail := [seq] } ∧ exec (.gatehouseMismatch seq) s = .next t ∧
      t = enterSafe { u with boot := { u.boot with comparatorStopped := true } } (fun _ => codeMismatch) s.nextError ∧ t.boot.safe = true ∧
      t.boot.faultN = true ∧ t.boot.comparatorStopped = true)) ∧
  (∀ (k : ClockId) (number : Byte) (c e : Nat) (s : State), s.up = true →
    (k ∈ s.hearth.stopped → exec (.clockMonitorWindow k number c e) s = .next s) ∧
    (k ∉ s.hearth.stopped →
      (clockOffBy s c e = false → exec (.clockMonitorWindow k number c e) s = .next (s.modHearth (fun h => { h with
        clockOff := h.clockOff.filter (· != k), clockPassed := upsert (fun p => p.1 == k) (k, s.now) h.clockPassed }))) ∧
      (clockOffBy s c e = true → k ∉ s.hearth.clockOff → exec (.clockMonitorWindow k number c e) s = .next (s.modHearth (fun h => { h with
        clockOff := h.clockOff ++ [k] }))) ∧
      (clockOffBy s c e = true → k ∈ s.hearth.clockOff → exec (.clockMonitorWindow k number c e) s = .next (clockLost (State.modHearth (raiseError s (ErrInfo.mk 0x09
        (if clockFatal k then sevDevice else sevUnit) (clockUnit k) none none [BitVec.ofNat 64 number.toNat, BitVec.ofNat 64 c]))
        (fun h => { h with clockOff := h.clockOff.filter (· != k) })) k s.nextError)))) ∧
  (∀ s : State, s.up = true →
    (s.errors.drained < s.errors.count → errorDrainInFlight s = false → exec .errorDrainTimer s = .next (drainErrors (s.upTo (s.errors.oldestAt + 50000)))) ∧
    (s.errors.count ≤ s.errors.drained ∨ errorDrainInFlight s = true → exec .errorDrainTimer s = .next s))
end

