-- ==== Sys2Proof/Laws/Mem.lean ====
section
/-! SUPPORT. The laws of byte memories: what a write leaves to be read, and that every operation on memory keeps its
canonical form. -/

namespace Sys2Proof.Machine

/-! ## One byte memory -/

theorem find_filter_of_imp {α : Type} (p q : α → Bool) (l : List α) (h : ∀ x ∈ l, q x = true → p x = true) :
    (l.filter p).find? q = l.find? q := by
  induction l with
  | nil => rfl
  | cons x l ih =>
    have ih := ih (fun y hy => h y (by simp [hy]))
    by_cases hp : p x = true
    · simp [hp, List.find?_cons, ih]
    · have hq : q x = false := by
        cases hq : q x
        · rfl
        · exact absurd (h x (by simp) hq) hp
      simp [hp, hq, ih]

theorem cellsAt_addr (bs : List Byte) : ∀ a, ∀ c ∈ cellsAt a bs, a ≤ c.1 ∧ c.1 < a + bs.length := by
  induction bs with
  | nil => intro a c hc; simp [cellsAt] at hc
  | cons b bs ih =>
    intro a c hc
    have h := ih (a + 1) c
    unfold cellsAt at hc
    split at hc
    · have := h hc; simp; omega
    · rcases List.mem_cons.mp hc with rfl | hc
      · simp
      · have := h hc; simp; omega

theorem cellsAt_ne (bs : List Byte) : ∀ a, ∀ c ∈ cellsAt a bs, c.2 ≠ 0 := by
  induction bs with
  | nil => intro a c hc; simp [cellsAt] at hc
  | cons b bs ih =>
    intro a c hc
    unfold cellsAt at hc
    split at hc
    · exact ih _ c hc
    · rcases List.mem_cons.mp hc with rfl | hc
      · assumption
      · exact ih _ c hc

theorem cellsAt_rising (bs : List Byte) : ∀ a, (cellsAt a bs).Pairwise (fun x y => x.1 < y.1) := by
  induction bs with
  | nil => intro a; simp [cellsAt]
  | cons b bs ih =>
    intro a
    unfold cellsAt
    split
    · exact ih _
    · refine List.pairwise_cons.mpr ⟨fun c hc => ?_, ih _⟩
      have := cellsAt_addr bs (a + 1) c hc
      omega

/-- A write keeps the canonical form. -/
theorem Mem.writeBytes_canonical {m : Mem} (h : m.Canonical) (a : Nat) (bs : List Byte) : (m.writeBytes a bs).Canonical := by
  obtain ⟨hr, hn⟩ := h
  unfold Mem.writeBytes
  refine ⟨?_, ?_⟩
  · refine List.pairwise_append.mpr ⟨hr.filter _, List.pairwise_append.mpr ⟨cellsAt_rising bs a, hr.filter _, ?_⟩, ?_⟩
    · intro x hx y hy
      have h1 := cellsAt_addr bs a x hx
      have h2 := (List.mem_filter.mp hy).2
      simp at h2; omega
    · intro x hx y hy
      have h1 := (List.mem_filter.mp hx).2
      simp at h1
      rcases List.mem_append.mp hy with hy | hy
      · have := cellsAt_addr bs a y hy; omega
      · have h2 := (List.mem_filter.mp hy).2
        simp at h2; omega
  · intro c hc
    rcases List.mem_append.mp hc with hc | hc
    · exact hn c (List.mem_filter.mp hc).1
    · rcases List.mem_append.mp hc with hc | hc
      · exact cellsAt_ne bs a c hc
      · exact hn c (List.mem_filter.mp hc).1

theorem find_eq_none_of_addr {m : Mem} {x : Nat} (h : ∀ c ∈ m, c.1 ≠ x) : m.find? (fun c => c.1 == x) = none := by
  rw [List.find?_eq_none]
  intro c hc
  simpa using h c hc

/-- A byte outside the bytes written reads as before. -/
theorem Mem.read_writeBytes_out (m : Mem) (a : Nat) (bs : List Byte) (x : Nat) (h : x < a ∨ a + bs.length ≤ x) :
    (m.writeBytes a bs).read x = m.read x := by
  have hc : (cellsAt a bs).find? (fun c => c.1 == x) = none := by
    apply find_eq_none_of_addr
    intro c hc; have := cellsAt_addr bs a c hc; omega
  unfold Mem.writeBytes Mem.read
  rw [List.find?_append, List.find?_append, hc]
  rcases h with h | h
  · have h1 : (m.filter (fun c => c.1 < a)).find? (fun c => c.1 == x) = m.find? (fun c => c.1 == x) :=
      find_filter_of_imp _ _ _ (by intro c _ hq; simp at hq; simp [hq, h])
    have h2 : (m.filter (fun c => a + bs.length ≤ c.1)).find? (fun c => c.1 == x) = none := by
      apply find_eq_none_of_addr
      intro c hc; have := (List.mem_filter.mp hc).2; simp at this; omega
    rw [h1, h2]; simp
  · have h1 : (m.filter (fun c => a + bs.length ≤ c.1)).find? (fun c => c.1 == x) = m.find? (fun c => c.1 == x) :=
      find_filter_of_imp _ _ _ (by intro c _ hq; simp at hq; simp [hq, h])
    have h2 : (m.filter (fun c => c.1 < a)).find? (fun c => c.1 == x) = none := by
      apply find_eq_none_of_addr
      intro c hc; have := (List.mem_filter.mp hc).2; simp at this; omega
    rw [h1, h2]; simp

theorem cellsAt_find (bs : List Byte) : ∀ a i, (hi : i < bs.length) →
    (cellsAt a bs).find? (fun c => c.1 == a + i) = if bs[i] = 0 then none else some (a + i, bs[i]) := by
  induction bs with
  | nil => intro a i hi; simp at hi
  | cons b bs ih =>
    intro a i hi
    cases i with
    | zero =>
      have hn : (cellsAt (a + 1) bs).find? (fun c => c.1 == a) = none := by
        apply find_eq_none_of_addr
        intro c hc; have := cellsAt_addr bs (a + 1) c hc; omega
      unfold cellsAt
      by_cases hb : b = 0#8
      · simp [hb, hn]
      · simp [hb]
    | succ i =>
      have := ih (a + 1) i (by simpa using hi)
      have e : a + 1 + i = a + (i + 1) := by omega
      rw [e] at this
      unfold cellsAt
      by_cases hb : b = 0#8
      · simpa [hb] using this
      · simpa [hb] using this

/-- A byte that was written reads as it was written. -/
theorem Mem.read_writeBytes_in (m : Mem) (a : Nat) (bs : List Byte) (i : Nat) (hi : i < bs.length) :
    (m.writeBytes a bs).read (a + i) = bs[i] := by
  have h1 : (m.filter (fun c => c.1 < a)).find? (fun c => c.1 == a + i) = none := by
    apply find_eq_none_of_addr
    intro c hc; have := (List.mem_filter.mp hc).2; simp at this; omega
  have h2 : (m.filter (fun c => a + bs.length ≤ c.1)).find? (fun c => c.1 == a + i) = none := by
    apply find_eq_none_of_addr
    intro c hc; have := (List.mem_filter.mp hc).2; simp at this; omega
  unfold Mem.writeBytes Mem.read
  rw [List.find?_append, List.find?_append, h1, h2, cellsAt_find bs a i hi]
  by_cases hb : bs[i] = 0#8
  · simp [hb]
  · simp [hb]

/-! ## The memories of the device -/

/-- What an operation on memory leaves: canonical memories stay canonical, and no Pantry appears or goes. -/
def MemKeeps (a b : Memory) : Prop := (a.Canon → b.Canon) ∧ b.pantry.length = a.pantry.length

theorem MemKeeps.refl (a : Memory) : MemKeeps a a := ⟨id, rfl⟩

theorem MemKeeps.trans {a b c : Memory} (h : MemKeeps a b) (k : MemKeeps b c) : MemKeeps a c :=
  ⟨fun x => k.1 (h.1 x), k.2.trans h.2⟩

/-- An operation that leaves the three byte memories alone. -/
theorem MemKeeps.put {a m b : Memory} (h : MemKeeps a m) (h1 : b.hbm = m.hbm := by rfl) (h2 : b.tags = m.tags := by rfl)
    (h3 : b.pantry = m.pantry := by rfl) : MemKeeps a b := by
  refine ⟨fun x => ?_, by rw [h3]; exact h.2⟩
  simpa only [Memory.Canon, h1, h2, h3] using h.1 x

theorem MemKeeps.fold {a : Memory} {β : Type} {f : Memory → β → Memory} {l : List β} {m : Memory} (h : MemKeeps a m)
    (hf : ∀ m x, MemKeeps a m → MemKeeps a (f m x)) : MemKeeps a (l.foldl f m) := by
  induction l generalizing m with
  | nil => exact h
  | cons x l ih => exact ih (hf _ _ h)

/-- One Pantry changed by an operation that keeps the canonical form. -/
theorem MemKeeps.pantryOne {a m : Memory} (h : MemKeeps a m) (d : Nat) (g : Mem → Mem)
    (hg : ∀ p : Mem, p.Canonical → (g p).Canonical) : MemKeeps a { m with pantry := m.pantry.modify d g } := by
  refine ⟨fun x => ?_, by simpa using h.2⟩
  obtain ⟨h1, h2, h3⟩ := h.1 x
  refine ⟨h1, h2, fun p hp => ?_⟩
  obtain ⟨i, hi, rfl⟩ := List.mem_iff_getElem.mp hp
  rw [List.getElem_modify]
  have hi' : i < m.pantry.length := by simpa using hi
  split
  · exact hg _ (h3 _ (List.getElem_mem hi'))
  · exact h3 _ (List.getElem_mem hi')

/-- Bytes written to a Pantry. -/
theorem MemKeeps.pantryWrite {a m : Memory} (h : MemKeeps a m) (d o : Nat) (bs : List Byte) :
    MemKeeps a { m with pantry := m.pantry.modify d (fun p => p.writeBytes o bs) } :=
  h.pantryOne d _ (fun _ hp => Mem.writeBytes_canonical hp _ _)

theorem Mem.fold_canonical {β : Type} {f : Mem → β → Mem} (hf : ∀ (m : Mem) x, m.Canonical → (f m x).Canonical) (l : List β) :
    ∀ {m : Mem}, m.Canonical → Mem.Canonical (l.foldl f m) := by
  induction l with
  | nil => exact fun h => h
  | cons x l ih => exact fun h => ih (hf _ x h)

/-- Bytes written to a Pantry, by the one operation that writes them. -/
theorem pantryPut_keeps {a m : Memory} (h : MemKeeps a m) (d o : Nat) (bs : List Byte) : MemKeeps a (pantryPut m d o bs) :=
  (h.pantryWrite d o bs).put

theorem retag_keeps {a m : Memory} (h : MemKeeps a m) (c : Cfg) (off : Nat) : MemKeeps a (retag c m off) := by
  unfold retag
  split
  · refine ⟨fun x => ?_, h.2⟩
    obtain ⟨h1, h2, h3⟩ := h.1 x
    exact ⟨h1, Mem.writeBytes_canonical h2 _ _, h3⟩
  · exact h

theorem rawWrite_keeps {a m : Memory} (h : MemKeeps a m) (off : Nat) (bs : List Byte) : MemKeeps a (rawWrite m off bs) := by
  unfold rawWrite
  split
  · refine ⟨fun x => ?_, h.2⟩
    obtain ⟨h1, h2, h3⟩ := h.1 x
    exact ⟨Mem.writeBytes_canonical h1 _ _, h2, h3⟩
  · exact pantryPut_keeps h _ _ _
  · exact h

theorem toStack_keeps {a m : Memory} (h : MemKeeps a m) (c : Cfg) (line : Nat) : MemKeeps a (toStack c m line) := by
  unfold toStack
  split
  · refine retag_keeps ?_ _ _
    exact h.put
  · exact h

theorem clearUpset_keeps {a m : Memory} (h : MemKeeps a m) (off : Nat) : MemKeeps a (clearUpset m off) := by
  unfold clearUpset
  split
  · exact h.put
  · exact h.put
  · exact h

theorem setPoison_keeps {a m : Memory} (h : MemKeeps a m) (c : Cfg) (off : Nat) (on : Bool) : MemKeeps a (setPoison c m off on) := by
  unfold setPoison
  extract_lets u rest n
  have h : MemKeeps a u := clearUpset_keeps h off
  have k : MemKeeps a n := h.put
  clear_value n rest u
  split
  · split
    · exact retag_keeps k _ _
    · exact k
  · exact h.put
  · exact h

theorem lineWrite_keeps {a m : Memory} (h : MemKeeps a m) (c : Cfg) (off : Nat) (bs : List Byte) (mask : List Bool) :
    MemKeeps a (lineWrite c m off bs mask) := by
  unfold lineWrite
  extract_lets m1 m2
  have k : MemKeeps a m1 := rawWrite_keeps h _ _
  have k2 : MemKeeps a m2 := by
    unfold m2
    split
    · exact k
    · exact k.put
  split
  · exact setPoison_keeps k2 _ _ _
  · exact k2

theorem flipLine_keeps {a m : Memory} (h : MemKeeps a m) (off : Nat) (flip : BitVec 512) : MemKeeps a (flipLine m off flip) :=
  rawWrite_keeps h _ _

theorem unpoison_keeps {a m : Memory} (h : MemKeeps a m) (c : Cfg) (off : Nat) : MemKeeps a (unpoison c m off) := by
  unfold unpoison
  split
  · exact setPoison_keeps h _ _ _
  · exact h

theorem miscorrected_keeps {a m : Memory} (h : MemKeeps a m) (c : Cfg) (off : Nat) (flip : BitVec 512) :
    MemKeeps a (miscorrected c m off flip) := flipLine_keeps (unpoison_keeps h _ _) _ _

theorem upsetMemory_keeps {a m : Memory} (h : MemKeeps a m) (u : Upset) : MemKeeps a (upsetMemory m u) := by
  unfold upsetMemory
  split
  · split
    · exact h.put
    · exact h
  · exact h.put
  · exact h.put

theorem modStack_keeps {a m : Memory} (h : MemKeeps a m) (st : Nat) (f : Stack → Stack) : MemKeeps a (modStack m st f) := h.put

theorem larderTouch_keeps {a m : Memory} (h : MemKeeps a m) (c : Cfg) (line : Nat) (dirty : Bool) :
    MemKeeps a (larderTouch c m line dirty) := by
  unfold larderTouch
  extract_lets fresh m1
  have k : MemKeeps a m1 := h.put
  clear_value m1
  split
  · exact k.put
  · split
    · exact k.put
    · split
      · extract_lets m2
        have k2 : MemKeeps a m2 := by
          unfold m2
          split
          · exact toStack_keeps k _ _
          · exact k
        clear_value m2
        exact k2.put
      · split
        · exact toStack_keeps k _ _
        · exact k

theorem putCache_keeps {a m : Memory} (h : MemKeeps a m) (x : CacheLine) : MemKeeps a (putCache m x) := h.put

theorem dropCache_keeps {a m : Memory} (h : MemKeeps a m) (x : CacheLine) : MemKeeps a (dropCache m x) := h.put

theorem putQueue_keeps {a m : Memory} (h : MemKeeps a m) (q : LineQueue) : MemKeeps a (putQueue m q) := h.put

end Sys2Proof.Machine
end

