-- ==== Sys2Proof/Laws/Keeps.lean ====
section
/-! SUPPORT. How to show what an operation leaves of a state: the queue, the units, memory's form, fuses that only burn and
the safe state. The lemmas about each operation stand in Laws/Left*.lean, in the order of the files of the model. -/

namespace Sys2Proof.Machine

theorem FuseLe.refl (a : Fuses) : FuseLe a a :=
  ⟨⟨rfl, rfl, rfl⟩, ⟨rfl, rfl, rfl, rfl⟩, by simp, by simp, fun _ => List.prefix_rfl, fun _ _ h => h⟩

theorem FuseLe.trans {a b c : Fuses} (h : FuseLe a b) (k : FuseLe b c) : FuseLe a c := by
  obtain ⟨⟨h1, h2, h3⟩, ⟨h4, h5, h6, h7⟩, h8, h9, h10, h11⟩ := h
  obtain ⟨⟨k1, k2, k3⟩, ⟨k4, k5, k6, k7⟩, k8, k9, k10, k11⟩ := k
  refine ⟨⟨k1.trans h1, k2.trans h2, k3.trans h3⟩, ⟨k4.trans h4, k5.trans h5, k6.trans h6, k7.trans h7⟩, ?_, ?_,
    fun n => (h10 n).trans (k10 n), fun n x hx => k11 n x (h11 n x hx)⟩
  · rw [← h8, BitVec.and_assoc, k8]
  · rw [← h9, BitVec.and_assoc, k9]

theorem Keeps.refl (a : State) : Keeps a a := ⟨rfl, .refl _, id, id, id⟩

theorem Keeps.trans {a b c : State} (h : Keeps a b) (k : Keeps b c) : Keeps a c :=
  ⟨k.queue.trans h.queue, h.fuses.trans k.fuses, fun x => k.canon (h.canon x), fun x => k.units (h.units x),
    fun x => k.latched (h.latched x)⟩

/-- A change of other fields, or of these in ways that keep their counts. -/
theorem Keeps.put {a s b : State} (h : Keeps a s) (hp : b.pending = s.pending := by rfl) (hf : b.fuses = s.fuses := by rfl)
    (hm : b.memory = s.memory := by rfl) (hs : b.boot.safe = s.boot.safe := by rfl)
    (h1 : b.ctxs.length = s.ctxs.length := by first | rfl | simp) (h2 : b.faces.length = s.faces.length := by first | rfl | simp)
    (h3 : b.dies.length = s.dies.length := by first | rfl | simp) (h4 : b.landings.length = s.landings.length := by first | rfl | simp)
    (h5 : b.ports.length = s.ports.length := by first | rfl | simp)
    (h6 : b.banks.length = s.banks.length := by first | rfl | simp) : Keeps a b := by
  obtain ⟨k1, k2, k3, k4, k5⟩ := h
  refine ⟨hp.trans k1, hf ▸ k2, hm ▸ k3, ?_, hs ▸ k5⟩
  simpa only [State.HasUnits, h1, h2, h3, h4, h5, h6, hm] using k4

/-- A change of other fields, or of the lists of units in ways that keep their counts when they are right. -/
theorem Keeps.put' {a s b : State} (h : Keeps a s) (hu : s.HasUnits → b.HasUnits) (hp : b.pending = s.pending := by rfl)
    (hf : b.fuses = s.fuses := by rfl) (hm : b.memory = s.memory := by rfl) (hs : b.boot.safe = s.boot.safe := by rfl) :
    Keeps a b := by
  obtain ⟨k1, k2, k3, k4, k5⟩ := h
  exact ⟨hp.trans k1, hf ▸ k2, hm ▸ k3, fun x => hu (k4 x), hs ▸ k5⟩

/-- A change of memory that leaves what an operation on memory leaves. -/
theorem Keeps.mem {a s : State} (h : Keeps a s) {m : Memory} (hm : MemKeeps s.memory m) : Keeps a { s with memory := m } := by
  obtain ⟨k1, k2, k3, k4, k5⟩ := h
  refine ⟨k1, k2, fun x => hm.1 (k3 x), fun x => ?_, k5⟩
  have := k4 x
  simpa only [State.HasUnits, hm.2] using this

theorem Keeps.ofFst {a s : State} {β : Type} {p : State × β} {y : β} (h : p = (s, y)) (k : Keeps a p.1) : Keeps a s := by
  rw [h] at k; exact k

theorem Keeps.ofSnd {a s : State} {β : Type} {p : β × State} {y : β} (h : p = (y, s)) (k : Keeps a p.2) : Keeps a s := by
  rw [h] at k; exact k

/-- The state that reading ranges left. -/
def Got.st : Got → State
  | .ok s _ => s
  | .wait s => s
  | .fail s _ => s

theorem Keeps.ofGot {a : State} {g h : Got} {s : State} (e : g = h) (k : Keeps a g.st) (hs : h.st = s := by rfl) : Keeps a s := by
  subst e; subst hs; exact k

theorem Keeps.elim {a s : State} {β : Type} {o : Option β} {f : β → State} (h : Keeps a s) (hf : ∀ x, Keeps a (f x)) :
    Keeps a (o.elim s f) := by
  cases o with
  | none => exact h
  | some x => exact hf x

theorem Keeps.fold {a : State} {β : Type} {f : State → β → State} {l : List β} {s : State} (h : Keeps a s)
    (hf : ∀ s x, Keeps a s → Keeps a (f s x)) : Keeps a (l.foldl f s) := by
  induction l generalizing s with
  | nil => exact h
  | cons x l ih => exact ih (hf _ _ h)

theorem Keeps.foldOf {a : State} {β γ : Type} (π : γ → State) {f : γ → β → γ} {l : List β} {p : γ} (h : Keeps a (π p))
    (hf : ∀ p x, Keeps a (π p) → Keeps a (π (f p x))) : Keeps a (π (l.foldl f p)) := by
  induction l generalizing p with
  | nil => exact h
  | cons x l ih => exact ih (hf _ _ h)

theorem Keeps.foldFst {a : State} {β γ : Type} {f : State × γ → β → State × γ} {l : List β} {p : State × γ} (h : Keeps a p.1)
    (hf : ∀ p x, Keeps a p.1 → Keeps a (f p x).1) : Keeps a (l.foldl f p).1 := by
  induction l generalizing p with
  | nil => exact h
  | cons x l ih => exact ih (hf _ _ h)

/-- What an operation leaves that may find nothing to do. -/
def OptKeeps (a : State) (o : Option State) : Prop := ∀ t, o = some t → Keeps a t

theorem OptKeeps.none {a : State} : OptKeeps a none := fun _ h => by simp at h

theorem OptKeeps.some {a s : State} (h : Keeps a s) : OptKeeps a (some s) := fun t k => by
  obtain rfl : s = t := by simpa using k
  exact h

theorem OptKeeps.of {a s : State} {o : Option State} (h : o = Option.some s) (k : OptKeeps a o) : Keeps a s := k s h

theorem OptKeeps.getD {a s : State} {o : Option State} (k : OptKeeps a o) (h : Keeps a s) : Keeps a (o.getD s) := by
  cases o with
  | none => exact h
  | some t => exact k t rfl

theorem OptKeeps.map {a : State} {β : Type} {f : β → State} {o : Option β} (k : ∀ x, Keeps a (f x)) : OptKeeps a (o.map f) := by
  cases o with
  | none => exact .none
  | some x => exact .some (k x)

/-- What a command leaves when it answers a next state. -/
def OutKeeps (a : State) (o : Host.Outcome State Fault Refusal) : Prop := ∀ t, o = .next t → Keeps a t

theorem OutKeeps.next {a s : State} (h : Keeps a s) : OutKeeps a (.next s) := fun t k => by
  cases k
  exact h

theorem State.modMem_keeps {a s : State} (h : Keeps a s) (f : Memory → Memory) (hf : ∀ m, MemKeeps m (f m)) : Keeps a (s.modMem f) :=
  h.mem (hf _)

end Sys2Proof.Machine
end

