-- ==== Sys2Proof/Laws/Calm.lean ====
section
/-! SUPPORT. How to show that an operation leaves a device's boot state, configuration, power and security state. The lemmas about each
operation stand in Laws/Calm*.lean, in the order of the files of the model. -/

namespace Sys2Proof.Machine

theorem Calm.refl (a : State) : Calm a a := ⟨rfl, rfl, rfl, rfl, rfl, rfl, rfl, Nat.le_refl _⟩

theorem Calm.trans {a b c : State} (h : Calm a b) (k : Calm b c) : Calm a c :=
  ⟨k.boot.trans h.boot, k.cfg.trans h.cfg, k.fuses.trans h.fuses, k.hearth.trans h.hearth, k.gate.trans h.gate, k.t0.trans h.t0,
    k.stampAt.trans h.stampAt, Nat.le_trans h.clock k.clock⟩

/-- A change of other fields. -/
theorem Calm.put {a s b : State} (h : Calm a s) (h1 : b.boot = s.boot := by rfl) (h2 : b.cfg = s.cfg := by rfl)
    (h3 : b.fuses = s.fuses := by rfl) (h4 : b.hearth = s.hearth := by rfl)
    (h5 : { b.gate with log := [] } = { s.gate with log := [] } := by first | rfl | (dsimp only; split <;> rfl))
    (h6 : b.t0 = s.t0 := by rfl) (h7 : b.stampAt = s.stampAt := by rfl)
    (h8 : s.now ≤ b.now := by first | exact Nat.le_refl _ | exact Nat.le_max_left _ _) : Calm a b :=
  h.trans ⟨h1, h2, h3, h4, h5, h6, h7, h8⟩

theorem Calm.ofFst {a s : State} {β : Type} {p : State × β} {y : β} (h : p = (s, y)) (k : Calm a p.1) : Calm a s := by
  rw [h] at k; exact k

theorem Calm.ofSnd {a s : State} {β : Type} {p : β × State} {y : β} (h : p = (y, s)) (k : Calm a p.2) : Calm a s := by
  rw [h] at k; exact k

theorem Calm.ofGot {a : State} {g h : Got} {s : State} (e : g = h) (k : Calm a g.st) (hs : h.st = s := by rfl) : Calm a s := by
  subst e; subst hs; exact k

theorem Calm.elim {a s : State} {β : Type} {o : Option β} {f : β → State} (h : Calm a s) (hf : ∀ x, Calm a (f x)) :
    Calm a (o.elim s f) := by
  cases o with
  | none => exact h
  | some x => exact hf x

theorem Calm.fold {a : State} {β : Type} {f : State → β → State} {l : List β} {s : State} (h : Calm a s)
    (hf : ∀ s x, Calm a s → Calm a (f s x)) : Calm a (l.foldl f s) := by
  induction l generalizing s with
  | nil => exact h
  | cons x l ih => exact ih (hf _ _ h)

theorem Calm.foldOf {a : State} {β γ : Type} (π : γ → State) {f : γ → β → γ} {l : List β} {p : γ} (h : Calm a (π p))
    (hf : ∀ p x, Calm a (π p) → Calm a (π (f p x))) : Calm a (π (l.foldl f p)) := by
  induction l generalizing p with
  | nil => exact h
  | cons x l ih => exact ih (hf _ _ h)

theorem Calm.foldFst {a : State} {β γ : Type} {f : State × γ → β → State × γ} {l : List β} {p : State × γ} (h : Calm a p.1)
    (hf : ∀ p x, Calm a p.1 → Calm a (f p x).1) : Calm a (l.foldl f p).1 := by
  induction l generalizing p with
  | nil => exact h
  | cons x l ih => exact ih (hf _ _ h)

/-- What an operation leaves that may find nothing to do. -/
def OptCalm (a : State) (o : Option State) : Prop := ∀ t, o = some t → Calm a t

theorem OptCalm.none {a : State} : OptCalm a none := fun _ h => by simp at h

theorem OptCalm.some {a s : State} (h : Calm a s) : OptCalm a (some s) := fun t k => by
  obtain rfl : s = t := by simpa using k
  exact h

theorem OptCalm.of {a s : State} {o : Option State} (h : o = Option.some s) (k : OptCalm a o) : Calm a s := k s h

theorem OptCalm.getD {a s : State} {o : Option State} (k : OptCalm a o) (h : Calm a s) : Calm a (o.getD s) := by
  cases o with
  | none => exact h
  | some t => exact k t rfl

theorem OptCalm.map {a : State} {β : Type} {f : β → State} {o : Option β} (k : ∀ x, Calm a (f x)) : OptCalm a (o.map f) := by
  cases o with
  | none => exact .none
  | some x => exact .some (k x)

/-- What a command leaves when it answers a next state. -/
def OutCalm (a : State) (o : Host.Outcome State Fault Refusal) : Prop := ∀ t, o = .next t → Calm a t

theorem OutCalm.next {a s : State} (h : Calm a s) : OutCalm a (.next s) := fun t k => by
  cases k
  exact h

theorem State.modMem_calm {a s : State} (h : Calm a s) (f : Memory → Memory) : Calm a (s.modMem f) := .put h

end Sys2Proof.Machine
end

