-- ==== Sys2Proof/Laws/CalmOps.lean ====
section
/-! SUPPORT. What each operation leaves of the device (Calm): the shared operations: memory, the fabric, accesses, versions, the end of an item. -/

set_option Elab.async false
set_option linter.unusedVariables false

namespace Sys2Proof.Machine

/-! ## Machine/Parts.lean -/

theorem State.upTo_calm {a0 s : State} (h0 : Calm a0 s) (t : Nat) : Calm a0 (State.upTo s t) := by
  unfold State.upTo
  exact Calm.put h0

theorem State.takeFree_calm {a0 s : State} (h0 : Calm a0 s) : Calm a0 (State.takeFree s).2 := by
  unfold State.takeFree
  dsimp only
  exact Calm.put h0

theorem State.modCtx_calm {a0 s : State} (h0 : Calm a0 s) (c : Nat) (f : Ctx → Ctx) : Calm a0 (State.modCtx s c f) := by
  unfold State.modCtx
  exact Calm.put h0

theorem State.modItem_calm {a0 s : State} (h0 : Calm a0 s) (r : ItemRef) (f : Item → Item) : Calm a0 (State.modItem s r f) := by
  unfold State.modItem
  exact Calm.put h0

/-! ## Machine/Counters.lean -/

theorem count_calm {a0 s : State} (h0 : Calm a0 s) (o : Occ) : Calm a0 (count s o) := by
  unfold count
  split
  · rename_i z0
    exact Calm.put h0
  · rename_i z1
    exact h0

/-! ## Machine/Errors.lean -/

theorem writeError_calm {a0 s : State} (h0 : Calm a0 s) (e : ErrInfo) : Calm a0 (writeError s e) := by
  unfold writeError
  split
  · exact h0
  · refine count_calm (count_calm (Calm.put (s := s) h0 (h5 := ?_)) _) _
    dsimp only
    split <;> rfl

theorem State.modQp_calm {a0 s : State} (h0 : Calm a0 s) (q : Nat) (f : Qp → Qp) : Calm a0 (State.modQp s q f) := by
  unfold State.modQp
  exact Calm.put h0

theorem State.sentOut_calm {a0 s : State} (h0 : Calm a0 s) (o : PorchOut) : Calm a0 (State.sentOut s o) := by
  unfold State.sentOut
  apply count_calm
  exact Calm.put h0

theorem chargeRate_calm {a0 s : State} (h0 : Calm a0 s) (w : PorchWait) : Calm a0 (chargeRate s w) := by
  unfold chargeRate
  split
  · rename_i z0 z1 z2 z3 z4
    split
    · rename_i z5 z6 z7
      extract_lets x8 x9 x10 x11
      clear_value x8
      clear_value x9
      clear_value x10
      clear_value x11
      apply State.modQp_calm
      exact h0
    · rename_i z12 z13
      exact h0
  · rename_i z14 z15 z16
    exact h0

theorem sendPart_calm {a0 s : State} (h0 : Calm a0 s) (p : PorchWait → Bool) (w : PorchWait) : Calm a0 (sendPart s p w) := by
  unfold sendPart
  extract_lets x0 x1 x2
  clear_value x0
  clear_value x1
  have k3 : Calm a0 x2 := by
    unfold x2
    apply chargeRate_calm
    exact Calm.put h0
  clear_value x2
  split
  · rename_i z4
    apply State.sentOut_calm
    exact k3
  · rename_i z5
    exact k3

theorem sendFirst_calm {a0 v1 : State} (h0 : Calm a0 v1) (v0 : Nat) : Calm a0 (sendFirst v0 v1) := by
  induction v0 generalizing v1 with
  | zero =>
    unfold sendFirst
    exact h0
  | succ n ih =>
    unfold sendFirst
    split
    · rename_i z0 z1 z2
      apply ih
      apply sendPart_calm
      exact h0
    · rename_i z3 z4
      exact h0

theorem sendPacketOf_calm {a0 s : State} (h0 : Calm a0 s) (q : Nat) : Calm a0 (sendPacketOf s q) := by
  unfold sendPacketOf
  split
  · rename_i z0 z1
    exact h0
  · rename_i z2 z3 z4
    apply sendPart_calm
    exact h0

theorem sendData_calm {a0 v1 : State} (h0 : Calm a0 v1) (v0 : Nat) : Calm a0 (sendData v0 v1) := by
  induction v0 generalizing v1 with
  | zero =>
    unfold sendData
    exact h0
  | succ n ih =>
    unfold sendData
    split
    · rename_i z0 z1 z2 z3
      apply ih
      apply sendPacketOf_calm
      exact Calm.put h0
    · rename_i z4 z5 z6
      exact h0

theorem State.transmit_calm {a0 s : State} (h0 : Calm a0 s) : Calm a0 (State.transmit s) := by
  unfold State.transmit
  split
  · rename_i z0
    extract_lets x1
    have k2 : Calm a0 x1 := by
      unfold x1
      apply sendFirst_calm
      exact h0
    clear_value x1
    apply sendData_calm
    exact k2
  · rename_i z3
    exact h0

theorem State.readyOut_calm {a0 s : State} (h0 : Calm a0 s) (o : PorchOut) (req : Option Nat) : Calm a0 (State.readyOut s o req) := by
  unfold State.readyOut
  split
  · rename_i z0
    exact h0
  · rename_i z1
    apply State.transmit_calm
    exact Calm.put h0

theorem State.porchOut_calm {a0 s : State} (h0 : Calm a0 s) (o : PorchOut) : Calm a0 (State.porchOut s o) := by
  unfold State.porchOut
  apply State.readyOut_calm
  exact h0

theorem State.sentRequest_calm {a0 s : State} (h0 : Calm a0 s) (id : Nat) : Calm a0 (State.sentRequest s id) := by
  unfold State.sentRequest
  split
  · rename_i z0 z1 z2
    apply State.sentOut_calm
    exact Calm.put h0
  · rename_i z3 z4
    exact h0

theorem State.sendHost_calm {a0 s : State} (h0 : Calm a0 s) (q : Nat) (item : Option ItemRef) (ctx : Option Nat) (p : Purpose) (len : Nat) (mk : BitVec 24 → PorchOut) (imm : Option (BitVec 32)) : Calm a0 (State.sendHost s q item ctx p len mk imm) := by
  unfold State.sendHost
  extract_lets x0 x1 x2 x3
  clear_value x0
  clear_value x1
  clear_value x2
  have k4 : Calm a0 x3 := by
    unfold x3
    apply State.modQp_calm
    apply State.readyOut_calm
    exact h0
  clear_value x3
  exact Calm.put k4

/-! ## Machine/Home.lean -/

theorem foundUncorrectable_calm {a0 s : State} (h0 : Calm a0 s) (who : Who) (off : Nat) (stack : Bool) (scrub : Bool) : Calm a0 (foundUncorrectable s who off stack scrub) := by
  unfold foundUncorrectable
  split
  · rename_i z0 z1 z2 z3
    apply writeError_calm
    apply State.modMem_calm
    exact h0
  · rename_i z4 z5
    split
    · rename_i z6
      apply writeError_calm
      apply State.modMem_calm
      exact h0
    · rename_i z7
      extract_lets x8 x9
      clear_value x8
      have k10 : Calm a0 x9 := by
        unfold x9
        apply State.modMem_calm
        exact h0
      clear_value x9
      apply writeError_calm
      exact k10
  · rename_i z11 z12
    exact h0

theorem foundCorrected_calm {a0 s : State} (h0 : Calm a0 s) (off : Nat) : Calm a0 (foundCorrected s off) := by
  unfold foundCorrected
  apply State.modMem_calm
  exact h0

theorem applyOp_calm {a0 s : State} (h0 : Calm a0 s) (off : Nat) (op : AccOp) : Calm a0 (applyOp s off op).1 := by
  unfold applyOp
  split
  · rename_i z0 z1
    exact h0
  · rename_i z2 z3 z4
    dsimp only
    apply State.modMem_calm
    exact h0
  · rename_i z5 z6 z7 z8
    extract_lets x9 x10 x11
    clear_value x9
    clear_value x10
    clear_value x11
    dsimp only
    apply State.modMem_calm
    exact h0
  · rename_i z12
    dsimp only
    apply State.modMem_calm
    exact h0

theorem applyPoisoned_calm {a0 s : State} (h0 : Calm a0 s) (off : Nat) (op : AccOp) : Calm a0 (applyPoisoned s off op).1 := by
  unfold applyPoisoned
  split
  · rename_i z0 z1
    exact h0
  · rename_i z2 z3 z4 z5
    exact h0
  · rename_i z6 z7 z8
    apply applyOp_calm
    exact h0

theorem applyUncorrectable_calm {a0 s : State} (h0 : Calm a0 s) (who : Who) (off : Nat) (stack : Bool) (op : AccOp) : Calm a0 (applyUncorrectable s who off stack op).1 := by
  unfold applyUncorrectable
  extract_lets x0
  have k1 : Calm a0 x0 := by
    unfold x0
    apply foundUncorrectable_calm
    exact h0
  clear_value x0
  split
  · rename_i z2 z3 z4
    apply applyOp_calm
    exact k1
  · rename_i z5 z6
    exact k1

theorem applyFound_calm {a0 s : State} (h0 : Calm a0 s) (who : Who) (off : Nat) (op : AccOp) (v0 : Found) : Calm a0 (applyFound s who off op v0).1 := by
  unfold applyFound
  split
  · rename_i z0
    apply applyPoisoned_calm
    apply State.modMem_calm
    exact h0
  · rename_i z1
    apply applyUncorrectable_calm
    exact h0
  · rename_i z2
    apply applyOp_calm
    apply State.modMem_calm
    exact h0
  · rename_i z3
    apply applyOp_calm
    apply foundCorrected_calm
    apply State.modMem_calm
    exact h0
  · rename_i z4 z5 z6
    extract_lets x7
    have k8 : Calm a0 x7 := by
      unfold x7
      apply State.modMem_calm
      exact h0
    clear_value x7
    apply applyOp_calm
    split
    · rename_i z9
      apply foundCorrected_calm
      exact k8
    · rename_i z10
      exact k8

theorem applyArray_calm {a0 s : State} (h0 : Calm a0 s) (who : Who) (off : Nat) (op : AccOp) : Calm a0 (applyArray s who off op).1 := by
  unfold applyArray
  split
  · rename_i z0
    apply applyPoisoned_calm
    exact h0
  · rename_i z1
    split
    · rename_i z2
      apply applyUncorrectable_calm
      exact h0
    · rename_i z3
      apply applyOp_calm
      exact h0

theorem hitUpset_calm {a0 s : State} (h0 : Calm a0 s) (u : Upset) : Calm a0 (hitUpset s u) := by
  unfold hitUpset
  apply State.modMem_calm
  exact h0

theorem performAt_calm {a0 s : State} (h0 : Calm a0 s) (who : Who) (off : Nat) (op : AccOp) (ecc : Ecc) : Calm a0 (performAt s who off op ecc).1 := by
  unfold performAt
  split
  · rename_i z0
    exact h0
  · rename_i z1
    split
    · rename_i z2 z3
      exact h0
    · rename_i z4 z5 z6 z7
      apply applyArray_calm
      exact h0
    · rename_i z8 z9
      split
      · rename_i z10
        exact h0
      · rename_i z11
        split
        · rename_i z12 z13 z14 z15
          have k16 := Calm.ofFst z15 (a := a0) (by
              split
              · rename_i z17
                apply applyFound_calm
                exact h0
              · rename_i z18
                apply applyArray_calm
                exact h0)
          dsimp only
          apply State.modMem_calm
          exact k16

theorem evictUpset_calm {a0 s : State} (h0 : Calm a0 s) (off : Nat) : Calm a0 (evictUpset s off) := by
  unfold evictUpset
  split
  · rename_i z0 z1 z2
    split
    · rename_i z3
      apply foundUncorrectable_calm
      exact h0
    · rename_i z4
      exact h0
  · rename_i z5 z6
    exact h0

theorem countPantry_calm {a0 s : State} (h0 : Calm a0 s) (o : Occ) (d : Nat) (a : Nat) (n : Nat) : Calm a0 (countPantry s o d a n) := by
  unfold countPantry
  apply Calm.fold
  · exact h0
  · intro y0 y1 y2
    apply count_calm
    exact y2

theorem modRegs_calm {a0 s : State} (h0 : Calm a0 s) (k : Nat) (f : Nat → Regulator → Regulator) : Calm a0 (modRegs s k f) := by
  unfold modRegs
  apply State.modMem_calm
  exact h0

theorem chargeCellar_calm {a0 s : State} (h0 : Calm a0 s) (who : Who) (off : Nat) (n : Nat) : Calm a0 (chargeCellar s who off n) := by
  unfold chargeCellar
  split
  · rename_i z0 z1 z2
    apply modRegs_calm
    exact h0
  · rename_i z3 z4
    exact h0

theorem chargeRequest_calm {a0 s : State} (h0 : Calm a0 s) (who : Who) (k : AccKind) (off : Nat) (n : Nat) : Calm a0 (chargeRequest s who k off n) := by
  unfold chargeRequest
  apply Calm.fold
  · exact h0
  · intro y0 y1 y2
    apply chargeCellar_calm
    exact y2

theorem performHome_calm {a0 s : State} (h0 : Calm a0 s) (who : Who) (off : Nat) (op : AccOp) (ecc : Ecc) : Calm a0 (performHome s who off op ecc).1 := by
  unfold performHome
  extract_lets x0
  have k1 : Calm a0 x0 := by
    unfold x0
    split
    · rename_i z2
      apply evictUpset_calm
      exact h0
    · rename_i z3
      exact h0
  clear_value x0
  split
  · rename_i z4 z5 z6 z7
    have k8 := Calm.ofFst z7 (a := a0) (by
        apply performAt_calm
        exact k1)
    split
    · rename_i z9 z10 z11
      have k12 := Calm.ofFst z7 (a := a0) (by
          apply performAt_calm
          exact k1)
      exact k8
    · rename_i z13 z14 z15
      have k16 := Calm.ofFst z7 (a := a0) (by
          apply performAt_calm
          exact k1)
      exact k8
    · rename_i z17 z18 z19 z20 z21 z22
      have k23 := Calm.ofFst z7 (a := a0) (by
          apply performAt_calm
          exact k1)
      dsimp only
      apply Calm.fold
      · exact k8
      · intro y24 y25 y26
        apply count_calm
        exact y26
    · rename_i z27 z28 z29 z30 z31
      have k32 := Calm.ofFst z7 (a := a0) (by
          apply performAt_calm
          exact k1)
      exact k8
    · rename_i z33 z34 z35 z36 z37 z38 z39
      have k40 := Calm.ofFst z7 (a := a0) (by
          apply performAt_calm
          exact k1)
      dsimp only
      apply countPantry_calm
      exact k8
    · rename_i z41 z42 z43 z44 z45 z46 z47 z48
      have k49 := Calm.ofFst z7 (a := a0) (by
          apply performAt_calm
          exact k1)
      exact k8

theorem joinLine_calm {a0 s : State} (h0 : Calm a0 s) (x : Access) : Calm a0 (joinLine s x) := by
  unfold joinLine
  apply State.modMem_calm
  exact h0

theorem awaitLine_calm {a0 v1 : State} (h0 : Calm a0 v1) (v0 : Nat) (v2 : Nat) (v3 : Nat) : Calm a0 (awaitLine v0 v1 v2 v3) := by
  induction v0 generalizing v1 v2 v3 with
  | zero =>
    unfold awaitLine
    exact h0
  | succ n ih =>
    unfold awaitLine
    extract_lets x0 x1
    clear_value x0
    clear_value x1
    split
    · rename_i z2 z3 z4
      split
      · rename_i z5
        apply State.modMem_calm
        exact h0
      · rename_i z6
        split
        · rename_i z7 z8 z9
          split
          · rename_i z10 z11 z12 z13
            have k14 := Calm.ofFst z13 (a := a0) (by
                apply performHome_calm
                apply chargeRequest_calm
                apply State.modMem_calm
                exact h0)
            apply ih
            apply State.modMem_calm
            exact k14
        · rename_i z15 z16
          exact h0
    · rename_i z17 z18
      exact h0

theorem reachHome_calm {a0 s : State} (h0 : Calm a0 s) (src : Nat) (who : Who) (off : Nat) (op : AccOp) (ecc : Ecc) : Calm a0 (reachHome s src who off op ecc).1 := by
  unfold reachHome
  extract_lets x0 x1
  clear_value x0
  have k2 : Calm a0 x1 := by
    unfold x1
    split
    · rename_i z3
      exact h0
    · rename_i z4
      apply awaitLine_calm
      exact h0
  clear_value x1
  apply performHome_calm
  exact k2

theorem deviceRead_calm {a0 s : State} (h0 : Calm a0 s) (off : Nat) (n : Nat) : Calm a0 (deviceRead s off n).1 := by
  unfold deviceRead
  apply Calm.foldFst
  · exact h0
  · intro y0 y1 y2
    split
    · rename_i z3 z4 z5 z6
      have k7 := Calm.ofFst z6 (a := a0) (by
          apply reachHome_calm
          exact y2)
      exact k7

/-! ## Machine/Fabric.lean -/

theorem State.modPort_calm {a0 s : State} (h0 : Calm a0 s) (p : Nat) (f : Port → Port) : Calm a0 (State.modPort s p f) := by
  unfold State.modPort
  exact Calm.put h0

theorem owe_calm {a0 s : State} (h0 : Calm a0 s) (p : Nat) (cls : Nat) (lane : Nat) (flits : Nat) : Calm a0 (owe s p cls lane flits) := by
  unfold owe
  apply State.modPort_calm
  exact h0

theorem owePacket_calm {a0 s : State} (h0 : Calm a0 s) (x : LanePacket) : Calm a0 (owePacket s x) := by
  unfold owePacket
  split
  · rename_i z0
    apply owe_calm
    exact h0
  · rename_i z1
    exact h0

theorem oweMoved_calm {a0 s : State} (h0 : Calm a0 s) (before : List LanePacket) (after : List LanePacket) : Calm a0 (oweMoved s before after) := by
  unfold oweMoved
  apply Calm.foldFst
  · exact h0
  · intro y0 y1 y2
    split
    · rename_i z3
      exact y2
    · rename_i z4
      dsimp only
      apply owePacket_calm
      exact y2

theorem State.pump_calm {a0 s : State} (h0 : Calm a0 s) (p : Nat) : Calm a0 (State.pump s p) := by
  unfold State.pump
  split
  · rename_i z0
    extract_lets x1 x2 x3
    have k4 : Calm a0 x1 := by
      unfold x1
      apply State.modPort_calm
      exact h0
    clear_value x1
    clear_value x2
    have k5 : Calm a0 x3 := by
      unfold x3
      apply oweMoved_calm
      exact k4
    clear_value x3
    split
    · rename_i z6
      exact k4
    · rename_i z7
      apply count_calm
      exact k5
  · rename_i z8
    exact h0

theorem enqueue_calm {a0 s : State} (h0 : Calm a0 s) (p : Nat) (x : LanePacket) : Calm a0 (enqueue s p x) := by
  unfold enqueue
  apply State.pump_calm
  apply State.modPort_calm
  exact h0

theorem routeSince_calm {a0 s : State} (h0 : Calm a0 s) (arrival : Option (Nat × Nat)) (epoch : Nat) (escaped : Bool) (k : Packet) : OptCalm a0 (routeSince s arrival epoch escaped k) := by
  unfold routeSince
  extract_lets x0 x1 x2
  clear_value x0
  clear_value x1
  clear_value x2
  apply OptCalm.map
  intro y3
  split
  · rename_i z4 z5 z6
    extract_lets x7
    clear_value x7
    split
    · rename_i z8
      apply owePacket_calm
      exact h0
    · rename_i z9
      apply enqueue_calm
      exact h0

theorem routeLane_calm {a0 s : State} (h0 : Calm a0 s) (arrival : Option (Nat × Nat)) (escaped : Bool) (k : Packet) : OptCalm a0 (routeLane s arrival escaped k) := by
  unfold routeLane
  apply routeSince_calm
  exact h0

theorem routePacket_calm {a0 s : State} (h0 : Calm a0 s) (arrival : Option (Nat × Nat)) (k : Packet) : OptCalm a0 (routePacket s arrival k) := by
  unfold routePacket
  apply routeLane_calm
  exact h0

theorem discardAt_calm {a0 s : State} (h0 : Calm a0 s) (p : Nat) : Calm a0 (discardAt s p) := by
  unfold discardAt
  apply State.modPort_calm
  exact h0

theorem State.sendPacket_calm {a0 s : State} (h0 : Calm a0 s) (k : Packet) : Calm a0 (State.sendPacket s k) := by
  unfold State.sendPacket
  split
  · rename_i z0 z1 z2
    have k3 := OptCalm.of z2 (a := a0) (by
        apply routePacket_calm
        exact h0)
    exact k3
  · rename_i z4 z5
    apply discardAt_calm
    exact h0

/-! ## Machine/Access.lean -/

theorem State.request_calm {a0 s : State} (h0 : Calm a0 s) (item : Option ItemRef) (ctx : Option Nat) (p : Purpose) (mk : Nat → Packet) : Calm a0 (State.request s item ctx p mk).1 := by
  unfold State.request
  extract_lets x0 x1
  clear_value x0
  split
  · rename_i z2
    dsimp only
    dsimp only [x1]
    exact Calm.put h0
  · rename_i z3
    split
    · rename_i z4
      exact h0
    · rename_i z5
      split
      · rename_i z6 z7 z8
        split
        · rename_i z9 z10 z11
          have k12 := OptCalm.of z11 (a := a0) (by
              apply routePacket_calm
              exact h0)
          dsimp only
          dsimp only [x1]
          exact Calm.put k12
        · rename_i z13 z14
          exact h0
      · rename_i z15 z16
        dsimp only
        dsimp only [x1]
        exact Calm.put h0

theorem sendFor_calm {a0 s : State} (h0 : Calm a0 s) (id : Nat) (k : Packet) : Calm a0 (sendFor s id k) := by
  unfold sendFor
  extract_lets x0
  split
  · rename_i z1 z2 z3
    have k4 := OptCalm.of z3 (a := a0) (by
        apply routePacket_calm
        exact h0)
    dsimp only [x0]
    exact Calm.put k4
  · rename_i z5 z6
    dsimp only [x0]
    refine Calm.put (s := discardAt s 0) ?_
    apply discardAt_calm
    exact h0

theorem State.dropReq_calm {a0 s : State} (h0 : Calm a0 s) (id : Nat) : Calm a0 (State.dropReq s id) := by
  unfold State.dropReq
  extract_lets x0
  have k1 : Calm a0 x0 := by
    unfold x0
    exact Calm.put h0
  clear_value x0
  split
  · rename_i z2 z3 z4 z5 z6 z7
    apply sendFor_calm
    exact k1
  · rename_i z8 z9 z10
    exact k1

theorem issueWrite_calm {a0 s : State} (h0 : Calm a0 s) (item : Option ItemRef) (ctx : Nat) (p : Purpose) (a : Nat) (bs : List Byte) : Calm a0 (issueWrite s item ctx p a bs).s := by
  unfold issueWrite
  extract_lets x0 x1
  clear_value x0
  have k2 : Calm a0 x1 := by
    unfold x1
    apply chargeRequest_calm
    exact h0
  clear_value x1
  split
  · rename_i z3
    apply Calm.foldOf Issued.s
    · exact k2
    · intro y4 y5 y6
      extract_lets x7
      clear_value x7
      split
      · rename_i z8 z9 z10 z11
        have k12 := Calm.ofFst z11 (a := a0) (by
            apply reachHome_calm
            exact y6)
        split
        · rename_i z13
          have k14 := Calm.ofFst z11 (a := a0) (by
              apply reachHome_calm
              exact y6)
          split
          · rename_i z15 z16 z17 z18
            have k19 := Calm.ofFst z18 (a := a0) (by
                apply State.request_calm
                exact k12)
            exact k19
        · rename_i z20 z21
          exact k12
  · rename_i z22
    split
    · rename_i z23
      exact h0
    · rename_i z24
      split
      · rename_i z25
        split
        · rename_i z26 z27 z28
          split
          · rename_i z29
            exact h0
          · rename_i z30
            split
            · rename_i z31
              dsimp only
              apply State.sendHost_calm
              exact h0
            · rename_i z32
              exact h0
        · rename_i z33 z34
          exact h0
      · rename_i z35
        apply Calm.foldOf Issued.s
        · exact h0
        · intro y36 y37 y38
          split
          · rename_i z39 z40 z41 z42
            have k43 := Calm.ofFst z42 (a := a0) (by
                apply State.request_calm
                exact y38)
            exact k43
          · rename_i z44 z45 z46
            have k47 := Calm.ofFst z46 (a := a0) (by
                apply State.request_calm
                exact y38)
            exact k47

theorem issueMasked_calm {a0 s : State} (h0 : Calm a0 s) (die : Nat) (ctx : Nat) (a : Nat) (bs : List Byte) (mask : W64) : Calm a0 (issueMasked s die ctx a bs mask).s := by
  unfold issueMasked
  split
  · rename_i z0
    extract_lets x1
    clear_value x1
    split
    · rename_i z2 z3 z4 z5
      have k6 := Calm.ofFst z5 (a := a0) (by
          apply reachHome_calm
          apply chargeRequest_calm
          exact h0)
      split
      · rename_i z7
        have k8 := Calm.ofFst z5 (a := a0) (by
            apply reachHome_calm
            apply chargeRequest_calm
            exact h0)
        split
        · rename_i z9 z10 z11 z12
          have k13 := Calm.ofFst z12 (a := a0) (by
              apply State.request_calm
              exact k6)
          exact k13
      · rename_i z14 z15
        exact k6
  · rename_i z16
    split
    · rename_i z17 z18 z19 z20
      have k21 := Calm.ofFst z20 (a := a0) (by
          apply State.request_calm
          exact h0)
      exact k21
    · rename_i z22 z23 z24
      have k25 := Calm.ofFst z24 (a := a0) (by
          apply State.request_calm
          exact h0)
      exact k25

theorem holdWrite_calm {a0 s : State} (h0 : Calm a0 s) (a : Nat) (bs : List Byte) : Calm a0 (holdWrite s a bs) := by
  unfold holdWrite
  apply State.request_calm
  exact h0

theorem deviceWrite_calm {a0 s : State} (h0 : Calm a0 s) (off : Nat) (bs : List Byte) : Calm a0 (deviceWrite s off bs) := by
  unfold deviceWrite
  apply Calm.fold
  · exact h0
  · intro y0 y1 y2
    extract_lets x3
    clear_value x3
    split
    · rename_i z4 z5 z6
      have k7 := Calm.ofFst z6 (a := a0) (by
          apply reachHome_calm
          exact y2)
      apply holdWrite_calm
      exact k7
    · rename_i z8 z9 z10 z11 z12
      have k13 := Calm.ofFst z12 (a := a0) (by
          apply reachHome_calm
          exact y2)
      exact k13

theorem issuePoison_calm {a0 s : State} (h0 : Calm a0 s) (item : Option ItemRef) (ctx : Nat) (a : Nat) : Calm a0 (issuePoison s item ctx a).s := by
  unfold issuePoison
  split
  · rename_i z0
    exact h0
  · rename_i z1
    split
    · rename_i z2
      split
      · rename_i z3 z4 z5
        have k6 := Calm.ofFst z5 (a := a0) (by
            apply reachHome_calm
            exact h0)
        split
        · rename_i z7 z8 z9 z10
          have k11 := Calm.ofFst z10 (a := a0) (by
              apply State.request_calm
              exact k6)
          exact k11
      · rename_i z12 z13 z14 z15 z16
        have k17 := Calm.ofFst z16 (a := a0) (by
            apply reachHome_calm
            exact h0)
        exact k17
    · rename_i z18
      split
      · rename_i z19 z20 z21 z22
        have k23 := Calm.ofFst z22 (a := a0) (by
            apply State.request_calm
            exact h0)
        exact k23
      · rename_i z24 z25 z26
        have k27 := Calm.ofFst z26 (a := a0) (by
            apply State.request_calm
            exact h0)
        exact k27

theorem foundCached_calm {a0 s : State} (h0 : Calm a0 s) (item : Option ItemRef) (l : CacheLine) : Calm a0 (foundCached s item l).1 := by
  unfold foundCached
  split
  · rename_i z0 z1 z2 z3
    have k4 := Calm.ofSnd z3 (a := a0) (by
        apply State.takeFree_calm
        exact h0)
    extract_lets x5
    clear_value x5
    dsimp only
    apply writeError_calm
    apply State.modMem_calm
    exact k4

theorem writeBack_calm {a0 s : State} (h0 : Calm a0 s) (l : CacheLine) : Calm a0 (writeBack s l).s := by
  unfold writeBack
  split
  · rename_i z0 z1 z2 z3
    have k4 := Calm.ofFst z3 (a := a0) (by
        split
        · rename_i z5
          apply foundCached_calm
          exact h0
        · rename_i z6
          exact h0)
    extract_lets x7 x8 x9 x10
    clear_value x7
    have k11 : Calm a0 x8 := by
      unfold x8
      apply State.modMem_calm
      exact k4
    clear_value x8
    have k12 : Calm a0 x9.s := by
      unfold x9
      apply issueMasked_calm
      exact k11
    clear_value x9
    have k13 : Calm a0 x10.s := by
      unfold x10
      apply issuePoison_calm
      exact k12
    clear_value x10
    split
    · rename_i z14
      exact k13
    · rename_i z15
      exact k12

theorem writeBackAll_calm {a0 s : State} (h0 : Calm a0 s) (ls : List CacheLine) : Calm a0 (writeBackAll s ls).s := by
  unfold writeBackAll
  apply Calm.foldOf Issued.s
  · exact h0
  · intro y0 y1 y2
    extract_lets x3
    have k4 : Calm a0 x3.s := by
      unfold x3
      apply writeBack_calm
      exact y2
    clear_value x3
    exact k4

theorem makeRoom_calm {a0 s : State} (h0 : Calm a0 s) (d : Nat) (c : Nat) (line : Nat) : Calm a0 (makeRoom s d c line) := by
  unfold makeRoom
  extract_lets x0
  clear_value x0
  split
  · rename_i z1
    exact h0
  · rename_i z2
    split
    · rename_i z3 z4 z5
      extract_lets x6
      have k7 : Calm a0 x6 := by
        unfold x6
        split
        · rename_i z8
          exact h0
        · rename_i z9
          apply writeBack_calm
          exact h0
      clear_value x6
      apply State.modMem_calm
      exact k7
    · rename_i z10 z11
      exact h0

theorem invalidateClean_calm {a0 s : State} (h0 : Calm a0 s) (p : CacheLine → Bool) : Calm a0 (invalidateClean s p) := by
  unfold invalidateClean
  apply State.modMem_calm
  exact h0

theorem acquire_calm {a0 s : State} (h0 : Calm a0 s) (c : Nat) (range : Option (Nat × Nat)) : Calm a0 (acquire s c range) := by
  unfold acquire
  apply invalidateClean_calm
  exact h0

theorem fetchLine_calm {a0 s : State} (h0 : Calm a0 s) (r : ItemRef) (a : Nat) : Calm a0 (fetchLine s r a).1 := by
  unfold fetchLine
  extract_lets x0
  clear_value x0
  split
  · rename_i z1 z2
    exact h0
  · rename_i z3 z4 z5
    split
    · rename_i z6
      exact h0
    · rename_i z7
      split
      · rename_i z8
        split
        · rename_i z9 z10 z11 z12
          have k13 := Calm.ofFst z12 (a := a0) (by
              apply reachHome_calm
              exact h0)
          split
          · rename_i z14 z15
            have k16 := Calm.ofFst z12 (a := a0) (by
                apply reachHome_calm
                exact h0)
            dsimp only
            apply State.modItem_calm
            exact k13
          · rename_i z17
            have k18 := Calm.ofFst z12 (a := a0) (by
                apply reachHome_calm
                exact h0)
            dsimp only
            apply State.request_calm
            exact k13
          · rename_i z19 z20 z21
            split
            · rename_i z22 z23 z24
              exact k13
            · rename_i z25 z26
              exact k13
      · rename_i z27
        exact h0

theorem hostPart_calm {a0 s : State} (h0 : Calm a0 s) (r : ItemRef) (a : Nat) (n : Nat) : Calm a0 (hostPart s r a n).1 := by
  unfold hostPart
  split
  · rename_i z0 z1 z2
    exact h0
  · rename_i z3 z4
    exact h0

theorem countCache_calm {a0 s : State} (h0 : Calm a0 s) (r : ItemRef) (d : Nat) (line : Nat) (hit : Bool) : Calm a0 (countCache s r d line hit) := by
  unfold countCache
  apply count_calm
  exact h0

theorem readLine_calm {a0 s : State} (h0 : Calm a0 s) (r : ItemRef) (die : Option Nat) (a : Nat) (n : Nat) : Calm a0 (readLine s r die a n).1 := by
  unfold readLine
  extract_lets x0 x1 x2 x3
  clear_value x0
  clear_value x1
  clear_value x2
  split
  · rename_i z4
    apply hostPart_calm
    exact h0
  · rename_i z5
    split
    · rename_i z6
      split
      · rename_i z7 z8 z9 z10
        have k11 := Calm.ofFst z10 (a := a0) (by
            apply fetchLine_calm
            exact h0)
        exact k11
    · rename_i z12 z13
      split
      · rename_i z14 z15 z16
        split
        · rename_i z17
          exact h0
        · rename_i z18
          split
          · rename_i z19
            dsimp only
            apply foundCached_calm
            exact h0
          · rename_i z20
            split
            · rename_i z21
              split
              · rename_i z22 z23 z24 z25
                have k26 := Calm.ofFst z25 (a := a0) (by
                    apply fetchLine_calm
                    apply State.modMem_calm
                    exact h0)
                exact k26
            · rename_i z27
              split
              · rename_i z28
                dsimp only
                apply countCache_calm
                apply State.modMem_calm
                exact h0
              · rename_i z29
                split
                · rename_i z30 z31 z32 z33
                  have k34 := Calm.ofFst z33 (a := a0) (by
                      apply fetchLine_calm
                      exact h0)
                  split
                  · rename_i z35 z36
                    have k37 := Calm.ofFst z33 (a := a0) (by
                        apply fetchLine_calm
                        exact h0)
                    extract_lets x38 x39
                    clear_value x38
                    clear_value x39
                    dsimp only
                    apply countCache_calm
                    apply State.modMem_calm
                    exact k34
                  · rename_i z40 z41
                    exact k34
      · rename_i z42 z43
        split
        · rename_i z44 z45 z46 z47
          have k48 := Calm.ofFst z47 (a := a0) (by
              apply fetchLine_calm
              exact h0)
          split
          · rename_i z49 z50
            have k51 := Calm.ofFst z47 (a := a0) (by
                apply fetchLine_calm
                exact h0)
            split
            · rename_i z52
              exact k48
            · rename_i z53
              extract_lets x54
              have k55 : Calm a0 x54 := by
                unfold x54
                apply makeRoom_calm
                exact k48
              clear_value x54
              dsimp only
              apply countCache_calm
              apply State.modMem_calm
              exact k55
          · rename_i z56 z57
            exact k48

theorem requestLines_calm {a0 s : State} (h0 : Calm a0 s) (r : ItemRef) (a : Nat) (n : Nat) : Calm a0 (requestLines s r a n).1 := by
  unfold requestLines
  split
  · rename_i z0
    exact h0
  · rename_i z1
    split
    · rename_i z2
      exact h0
    · rename_i z3
      split
      · rename_i z4
        split
        · rename_i z5 z6 z7 z8 z9 z10
          split
          · rename_i z11
            exact h0
          · rename_i z12
            split
            · rename_i z13
              exact h0
            · rename_i z14
              split
              · rename_i z15
                dsimp only
                apply State.sendHost_calm
                exact h0
              · rename_i z16
                exact h0
        · rename_i z17 z18 z19
          exact h0
      · rename_i z20
        apply Calm.foldFst
        · exact h0
        · intro y21 y22 y23
          split
          · rename_i z24 z25 z26
            split
            · rename_i z27
              exact y23
            · rename_i z28
              split
              · rename_i z29 z30 z31 z32
                have k33 := Calm.ofFst z32 (a := a0) (by
                    apply State.request_calm
                    exact y23)
                exact k33
              · rename_i z34 z35 z36
                have k37 := Calm.ofFst z36 (a := a0) (by
                    apply State.request_calm
                    exact y23)
                exact k37
          · rename_i z38 z39
            exact y23

theorem forgetLocal_calm {a0 s : State} (h0 : Calm a0 s) (r : ItemRef) (a : Nat) (n : Nat) : Calm a0 (forgetLocal s r a n) := by
  unfold forgetLocal
  split
  · rename_i z0
    apply State.modItem_calm
    exact h0
  · rename_i z1
    exact h0

theorem chargeReads_calm {a0 s : State} (h0 : Calm a0 s) (r : ItemRef) (x : Nat × Nat) : Calm a0 (chargeReads s r x) := by
  unfold chargeReads
  extract_lets x0
  split
  · rename_i z1
    apply chargeRequest_calm
    exact h0
  · rename_i z2
    exact h0

theorem rawItemRead_calm {a0 s : State} (h0 : Calm a0 s) (r : ItemRef) (die : Option Nat) (a : Nat) (n : Nat) : Calm a0 (rawItemRead s r die a n).1 := by
  unfold rawItemRead
  split
  · rename_i z0 z1 z2 z3
    have k4 := Calm.ofFst z3 (a := a0) (by
        apply Calm.foldFst
        · exact h0
        · intro y5 y6 y7
          split
          · rename_i z8 z9 z10 z11
            have k12 := Calm.ofFst z11 (a := a0) (by
                apply requestLines_calm
                apply chargeReads_calm
                exact y7)
            exact k12)
    exact k4
  · rename_i z13 z14 z15
    have k16 := Calm.ofFst z15 (a := a0) (by
        apply Calm.foldFst
        · exact h0
        · intro y17 y18 y19
          split
          · rename_i z20 z21 z22 z23
            have k24 := Calm.ofFst z23 (a := a0) (by
                apply requestLines_calm
                apply chargeReads_calm
                exact y19)
            exact k24)
    extract_lets x25
    have k26 : Calm a0 x25.1 := by
      unfold x25
      apply Calm.foldFst
      · exact k16
      · intro y27 y28 y29
        split
        · rename_i z30 z31 z32
          exact y29
        · rename_i z33 z34
          split
          · rename_i z35 z36 z37 z38
            have k39 := Calm.ofFst z38 (a := a0) (by
                apply readLine_calm
                exact y29)
            exact k39
    clear_value x25
    split
    · rename_i z40 z41 z42
      dsimp only
      apply forgetLocal_calm
      exact k26
    · rename_i z43 z44
      exact k26

theorem dropOtherCopies_calm {a0 s : State} (h0 : Calm a0 s) (c : Nat) (die : Option Nat) (line : Nat) : Calm a0 (dropOtherCopies s c die line) := by
  unfold dropOtherCopies
  apply invalidateClean_calm
  exact h0

theorem writeLine_calm {a0 s : State} (h0 : Calm a0 s) (r : ItemRef) (die : Option Nat) (a : Nat) (bs : List Byte) (p : Purpose) : Calm a0 (writeLine s r die a bs p).s := by
  unfold writeLine
  extract_lets x0 x1 x2
  clear_value x0
  clear_value x1
  have k3 : Calm a0 x2 := by
    unfold x2
    apply dropOtherCopies_calm
    exact h0
  clear_value x2
  split
  · rename_i z4 z5 z6 z7
    extract_lets x8 x9
    have k10 : Calm a0 x8 := by
      unfold x8
      apply makeRoom_calm
      exact k3
    clear_value x8
    clear_value x9
    dsimp only
    apply State.modMem_calm
    exact k10
  · rename_i z11 z12 z13 z14
    extract_lets x15
    have k16 : Calm a0 x15 := by
      unfold x15
      split
      · rename_i z17 z18 z19
        apply State.modMem_calm
        exact k3
      · rename_i z20 z21
        exact k3
    clear_value x15
    apply issueWrite_calm
    exact k16
  · rename_i z22 z23 z24 z25 z26
    extract_lets x27
    have k28 : Calm a0 x27 := by
      unfold x27
      split
      · rename_i z29 z30 z31
        split
        · rename_i z32
          apply State.modMem_calm
          exact k3
        · rename_i z33
          exact k3
      · rename_i z34 z35
        exact k3
    clear_value x27
    apply issueWrite_calm
    exact k28
  · rename_i z36 z37
    apply issueWrite_calm
    exact k3

theorem clearWay_calm {a0 s : State} (h0 : Calm a0 s) (r : ItemRef) (die : Option Nat) (range : Nat × Nat) (writes : Bool) : Calm a0 (clearWay s r die range writes).1 := by
  unfold clearWay
  split
  · rename_i z0 z1
    exact h0
  · rename_i z2 z3 z4
    split
    · rename_i z5
      exact h0
    · rename_i z6
      extract_lets x7
      have k8 : Calm a0 x7.s := by
        unfold x7
        apply writeBackAll_calm
        exact h0
      clear_value x7
      exact k8

theorem fetchAhead_calm {a0 s : State} (h0 : Calm a0 s) (r : ItemRef) (die : Option Nat) (c : Nat × Nat) : Calm a0 (fetchAhead s r die c).1 := by
  unfold fetchAhead
  split
  · rename_i z0
    exact h0
  · rename_i z1
    split
    · rename_i z2 z3 z4 z5
      have k6 := Calm.ofFst z5 (a := a0) (by
          apply requestLines_calm
          apply chargeReads_calm
          exact h0)
      exact k6
    · rename_i z7 z8 z9
      have k10 := Calm.ofFst z9 (a := a0) (by
          apply requestLines_calm
          apply chargeReads_calm
          exact h0)
      split
      · rename_i z11
        split
        · rename_i z12 z13 z14 z15
          have k16 := Calm.ofFst z15 (a := a0) (by
              apply fetchLine_calm
              exact k10)
          exact k16
        · rename_i z17 z18 z19 z20 z21
          have k22 := Calm.ofFst z21 (a := a0) (by
              apply fetchLine_calm
              exact k10)
          exact k22
      · rename_i z23
        exact k10

theorem itemRead_calm {a0 s : State} (h0 : Calm a0 s) (r : ItemRef) (die : Option Nat) (a : Nat) (n : Nat) : Calm a0 (itemRead s r die a n).1 := by
  unfold itemRead
  split
  · rename_i z0 z1 z2
    have k3 := Calm.ofFst z2 (a := a0) (by
        apply clearWay_calm
        exact h0)
    apply rawItemRead_calm
    exact k3
  · rename_i z4 z5 z6
    have k7 := Calm.ofFst z6 (a := a0) (by
        apply clearWay_calm
        exact h0)
    split
    · rename_i z8 z9 z10 z11
      have k12 := Calm.ofFst z11 (a := a0) (by
          apply Calm.foldFst
          · exact k7
          · intro y13 y14 y15
            split
            · rename_i z16 z17 z18
              have k19 := Calm.ofFst z18 (a := a0) (by
                  apply clearWay_calm
                  exact y15)
              split
              · rename_i z20 z21 z22 z23
                have k24 := Calm.ofFst z23 (a := a0) (by
                    apply fetchAhead_calm
                    exact k19)
                exact k24
            · rename_i z25 z26 z27
              have k28 := Calm.ofFst z27 (a := a0) (by
                  apply clearWay_calm
                  exact y15)
              exact k28)
      exact k12
    · rename_i z29 z30 z31
      have k32 := Calm.ofFst z31 (a := a0) (by
          apply Calm.foldFst
          · exact k7
          · intro y33 y34 y35
            split
            · rename_i z36 z37 z38
              have k39 := Calm.ofFst z38 (a := a0) (by
                  apply clearWay_calm
                  exact y35)
              split
              · rename_i z40 z41 z42 z43
                have k44 := Calm.ofFst z43 (a := a0) (by
                    apply fetchAhead_calm
                    exact k39)
                exact k44
            · rename_i z45 z46 z47
              have k48 := Calm.ofFst z47 (a := a0) (by
                  apply clearWay_calm
                  exact y35)
              exact k48)
      exact k32

theorem itemReads_calm {a0 s : State} (h0 : Calm a0 s) (r : ItemRef) (die : Option Nat) (rs : List (Nat × Nat)) : Calm a0 (itemReads s r die rs).1 := by
  unfold itemReads
  apply Calm.foldFst
  · exact h0
  · intro y0 y1 y2
    split
    · rename_i z3 z4 z5 z6
      have k7 := Calm.ofFst z6 (a := a0) (by
          apply itemRead_calm
          exact y2)
      split
      · rename_i z8 z9
        have k10 := Calm.ofFst z6 (a := a0) (by
            apply itemRead_calm
            exact y2)
        exact k7
      · rename_i z11
        have k12 := Calm.ofFst z6 (a := a0) (by
            apply itemRead_calm
            exact y2)
        exact k7
      · rename_i z13 z14
        have k15 := Calm.ofFst z6 (a := a0) (by
            apply itemRead_calm
            exact y2)
        exact k7

theorem blur_calm {a0 s : State} (h0 : Calm a0 s) (lines : List Nat) (a : Nat) (bs : List Byte) : Calm a0 (blur s lines a bs).1 := by
  unfold blur
  split
  · rename_i z0
    exact h0
  · rename_i z1
    extract_lets x2
    clear_value x2
    dsimp only
    exact Calm.put h0

theorem writeNow_calm {a0 s : State} (h0 : Calm a0 s) (r : ItemRef) (die : Option Nat) (a : Nat) (bs : List Byte) (exempt : Bool) : Calm a0 (writeNow s r die a bs exempt).1 := by
  unfold writeNow
  split
  · rename_i z0 z1 z2 z3
    have k4 := Calm.ofFst z3 (a := a0) (by
        apply blur_calm
        exact h0)
    extract_lets x5 x6 x7
    clear_value x5
    clear_value x6
    have k8 : Calm a0 x7.s := by
      unfold x7
      apply Calm.foldOf Issued.s
      · exact k4
      · intro y9 y10 y11
        extract_lets x12
        have k13 : Calm a0 x12.s := by
          unfold x12
          apply writeLine_calm
          exact y11
        clear_value x12
        exact k13
    clear_value x7
    dsimp only
    apply State.modItem_calm
    exact k8

theorem stageWrite_calm {a0 s : State} (h0 : Calm a0 s) (r : ItemRef) (w : StagedWrite) : Calm a0 (stageWrite s r w) := by
  unfold stageWrite
  apply State.modItem_calm
  exact h0

theorem writeWay_calm {a0 s : State} (h0 : Calm a0 s) (r : ItemRef) (die : Option Nat) (range : Nat × Nat) : Calm a0 (writeWay s r die range).1 := by
  unfold writeWay
  split
  · rename_i z0
    exact h0
  · rename_i z1
    apply clearWay_calm
    exact h0

theorem pantryMeets_calm {a0 s : State} (h0 : Calm a0 s) (r : ItemRef) (d : Nat) (a : Nat) (n : Nat) : Calm a0 (pantryMeets s r d a n).1 := by
  unfold pantryMeets
  split
  · rename_i z0
    exact h0
  · rename_i z1
    split
    · rename_i z2 z3 z4
      dsimp only
      apply foundUncorrectable_calm
      exact h0
    · rename_i z5 z6
      exact h0

theorem itemWrite_calm {a0 s : State} (h0 : Calm a0 s) (r : ItemRef) (die : Option Nat) (a : Nat) (bs : List Byte) (exempt : Bool) : Calm a0 (itemWrite s r die a bs exempt).1 := by
  unfold itemWrite
  split
  · rename_i z0
    exact h0
  · rename_i z1
    split
    · rename_i z2 z3 z4
      have k5 := Calm.ofFst z4 (a := a0) (by
          apply writeWay_calm
          exact h0)
      apply writeNow_calm
      exact k5
    · rename_i z6 z7 z8
      have k9 := Calm.ofFst z8 (a := a0) (by
          apply writeWay_calm
          exact h0)
      apply Calm.foldFst
      · exact k9
      · intro y10 y11 y12
        extract_lets x13
        clear_value x13
        split
        · rename_i z14 z15 z16
          have k17 := Calm.ofFst z16 (a := a0) (by
              apply writeWay_calm
              exact y12)
          split
          · rename_i z18 z19 z20 z21
            have k22 := Calm.ofFst z21 (a := a0) (by
                apply writeNow_calm
                exact k17)
            exact k22
        · rename_i z23 z24 z25
          have k26 := Calm.ofFst z25 (a := a0) (by
              apply writeWay_calm
              exact y12)
          dsimp only
          apply stageWrite_calm
          exact k26

/-! ## Machine/Versions.lean -/

theorem casRecord_calm {a0 s : State} (h0 : Calm a0 s) (item : Option ItemRef) (ctx : Option Nat) (a : Nat) (expect : W64) (new : W64) (p : Purpose) : Calm a0 (casRecord s item ctx a expect new p).1 := by
  unfold casRecord
  split
  · rename_i z0
    split
    · rename_i z1 z2 z3 z4
      have k5 := Calm.ofFst z4 (a := a0) (by
          apply reachHome_calm
          exact h0)
      split
      · rename_i z6 z7 z8
        have k9 := Calm.ofFst z4 (a := a0) (by
            apply reachHome_calm
            exact h0)
        exact k5
      · rename_i z10
        have k11 := Calm.ofFst z4 (a := a0) (by
            apply reachHome_calm
            exact h0)
        dsimp only
        apply State.request_calm
        exact k5
      · rename_i z12 z13 z14
        exact k5
  · rename_i z15
    split
    · rename_i z16 z17 z18 z19
      have k20 := Calm.ofFst z19 (a := a0) (by
          apply State.request_calm
          exact h0)
      exact k20
    · rename_i z21 z22 z23
      have k24 := Calm.ofFst z23 (a := a0) (by
          apply State.request_calm
          exact h0)
      exact k24

theorem readRecord_calm {a0 s : State} (h0 : Calm a0 s) (r : ItemRef) (a : Nat) : Calm a0 (readRecord s r a).1 := by
  unfold readRecord
  split
  · rename_i z0
    split
    · rename_i z1 z2 z3 z4
      have k5 := Calm.ofFst z4 (a := a0) (by
          apply reachHome_calm
          exact h0)
      split
      · rename_i z6 z7
        have k8 := Calm.ofFst z4 (a := a0) (by
            apply reachHome_calm
            exact h0)
        exact k5
      · rename_i z9 z10
        split
        · rename_i z11 z12 z13
          exact k5
        · rename_i z14 z15
          exact k5
  · rename_i z16
    apply rawItemRead_calm
    exact h0

theorem forgetLine_calm {a0 s : State} (h0 : Calm a0 s) (r : ItemRef) (a : Nat) : Calm a0 (forgetLine s r a) := by
  unfold forgetLine
  apply State.modItem_calm
  exact h0

theorem recordPin_calm {a0 s : State} (h0 : Calm a0 s) (c : Nat) (a : Nat) (buf : Nat) (owner : Nat) : Calm a0 (recordPin s c a buf owner) := by
  unfold recordPin
  apply State.modCtx_calm
  exact h0

theorem pinFor_calm {a0 s : State} (h0 : Calm a0 s) (r : ItemRef) (a : Nat) : Calm a0 (pinFor s r a).1 := by
  unfold pinFor
  split
  · rename_i z0 z1 z2 z3
    have k4 := Calm.ofFst z3 (a := a0) (by
        apply readRecord_calm
        exact h0)
    exact k4
  · rename_i z5 z6 z7
    have k8 := Calm.ofFst z7 (a := a0) (by
        apply readRecord_calm
        exact h0)
    exact k8
  · rename_i z9 z10 z11 z12
    have k13 := Calm.ofFst z12 (a := a0) (by
        apply readRecord_calm
        exact h0)
    extract_lets x14 x15 x16
    clear_value x14
    clear_value x15
    clear_value x16
    split
    · rename_i z17 z18 z19 z20 z21
      exact k13
    · rename_i z22 z23
      split
      · rename_i z24
        exact k13
      · rename_i z25
        split
        · rename_i z26
          dsimp only
          apply forgetLine_calm
          exact k13
        · rename_i z27
          split
          · rename_i z28 z29 z30 z31
            have k32 := Calm.ofFst z31 (a := a0) (by
                apply casRecord_calm
                exact k13)
            split
            · rename_i z33
              dsimp only
              apply recordPin_calm
              exact k32
            · rename_i z34
              dsimp only
              apply forgetLine_calm
              exact k32
          · rename_i z35 z36 z37
            have k38 := Calm.ofFst z37 (a := a0) (by
                apply casRecord_calm
                exact k13)
            exact k38
          · rename_i z39 z40 z41 z42
            have k43 := Calm.ofFst z42 (a := a0) (by
                apply casRecord_calm
                exact k13)
            exact k43

theorem pinReleaseLost_calm {a0 s : State} (h0 : Calm a0 s) (c : Nat) (a : Nat) (buf : Nat) : Calm a0 (pinReleaseLost s c a buf) := by
  unfold pinReleaseLost
  apply writeError_calm
  exact h0

theorem keepRelease_calm {a0 s : State} (h0 : Calm a0 s) (c : Nat) (a : Nat) (buf : Nat) : Calm a0 (keepRelease s c a buf) := by
  unfold keepRelease
  apply State.modCtx_calm
  exact h0

theorem issueRelease_calm {a0 s : State} (h0 : Calm a0 s) (c : Nat) (a : Nat) (buf : Nat) : Calm a0 (issueRelease s c a buf) := by
  unfold issueRelease
  split
  · rename_i z0
    split
    · rename_i z1 z2 z3 z4
      have k5 := Calm.ofFst z4 (a := a0) (by
          apply reachHome_calm
          exact h0)
      split
      · rename_i z6 z7
        have k8 := Calm.ofFst z4 (a := a0) (by
            apply reachHome_calm
            exact h0)
        extract_lets x9
        clear_value x9
        split
        · rename_i z10 z11 z12 z13
          have k14 := Calm.ofFst z13 (a := a0) (by
              apply casRecord_calm
              exact k5)
          apply pinReleaseLost_calm
          exact k14
        · rename_i z15 z16 z17 z18 z19
          have k20 := Calm.ofFst z19 (a := a0) (by
              apply casRecord_calm
              exact k5)
          exact k20
      · rename_i z21
        have k22 := Calm.ofFst z4 (a := a0) (by
            apply reachHome_calm
            exact h0)
        apply keepRelease_calm
        exact k5
      · rename_i z23 z24 z25
        apply pinReleaseLost_calm
        exact k5
  · rename_i z26
    split
    · rename_i z27 z28 z29 z30
      have k31 := Calm.ofFst z30 (a := a0) (by
          apply State.request_calm
          exact h0)
      exact k31
    · rename_i z32 z33 z34
      have k35 := Calm.ofFst z34 (a := a0) (by
          apply State.request_calm
          exact h0)
      apply keepRelease_calm
      exact k35

theorem releasePins_calm {a0 s : State} (h0 : Calm a0 s) (c : Nat) : Calm a0 (releasePins s c) := by
  unfold releasePins
  extract_lets x0
  clear_value x0
  apply Calm.fold
  · apply State.modCtx_calm
    exact h0
  · intro y1 y2 y3
    apply issueRelease_calm
    exact y3

theorem retryReleases_calm {a0 s : State} (h0 : Calm a0 s) (c : Nat) : Calm a0 (retryReleases s c) := by
  unfold retryReleases
  apply Calm.fold
  · apply State.modCtx_calm
    exact h0
  · intro y0 y1 y2
    apply issueRelease_calm
    exact y2

theorem giveUpClaim_calm {a0 s : State} (h0 : Calm a0 s) (c : Nat) (a : Nat) (buf : Nat) : Calm a0 (giveUpClaim s c a buf) := by
  unfold giveUpClaim
  split
  · rename_i z0
    split
    · rename_i z1 z2 z3 z4
      have k5 := Calm.ofFst z4 (a := a0) (by
          apply reachHome_calm
          exact h0)
      split
      · rename_i z6 z7
        have k8 := Calm.ofFst z4 (a := a0) (by
            apply reachHome_calm
            exact h0)
        extract_lets x9
        clear_value x9
        apply casRecord_calm
        exact k5
      · rename_i z10
        have k11 := Calm.ofFst z4 (a := a0) (by
            apply reachHome_calm
            exact h0)
        apply State.request_calm
        exact k5
      · rename_i z12 z13 z14
        exact k5
  · rename_i z15
    apply State.request_calm
    exact h0

/-! ## Machine/Ops.lean -/

theorem ledgerRecords_calm {a0 s : State} (h0 : Calm a0 s) (k : CtxCfg) (first : Nat) (n : Nat) : Calm a0 (ledgerRecords s k first n).1 := by
  unfold ledgerRecords
  apply Calm.foldFst
  · exact h0
  · intro y0 y1 y2
    extract_lets x3
    clear_value x3
    split
    · rename_i z4
      exact y2
    · rename_i z5
      split
      · rename_i z6 z7 z8 z9
        have k10 := Calm.ofFst z9 (a := a0) (by
            apply deviceRead_calm
            exact y2)
        exact k10

theorem holdDrain_calm {a0 s : State} (h0 : Calm a0 s) (c : Nat) : Calm a0 (holdDrain s c) := by
  unfold holdDrain
  apply State.modCtx_calm
  exact h0

theorem sendDrain_calm {a0 s : State} (h0 : Calm a0 s) (c : Nat) (k : CtxCfg) (first : Nat) (done : BitVec 32) (rs : List (List Byte)) : Calm a0 (sendDrain s c k first done rs) := by
  unfold sendDrain
  extract_lets x0 x1 x2 x3 x4 x5 x6
  clear_value x1
  clear_value x2
  have k7 : Calm a0 x4 := by
    unfold x4
    apply Calm.fold
    · exact h0
    · intro y8 y9 y10
      apply State.sendHost_calm
      exact y10
  clear_value x4
  clear_value x5
  clear_value x6
  apply State.sendHost_calm
  exact k7

theorem drain_calm {a0 s : State} (h0 : Calm a0 s) (c : Nat) : Calm a0 (drain s c) := by
  unfold drain
  split
  · rename_i z0 z1
    exact h0
  · rename_i z2 z3 z4
    extract_lets x5 x6 x7
    clear_value x5
    clear_value x6
    clear_value x7
    split
    · rename_i z8
      exact h0
    · rename_i z9
      split
      · rename_i z10
        apply holdDrain_calm
        exact h0
      · rename_i z11
        split
        · rename_i z12 z13 z14 z15
          have k16 := Calm.ofFst z15 (a := a0) (by
              apply ledgerRecords_calm
              exact h0)
          apply sendDrain_calm
          apply State.modCtx_calm
          exact k16
        · rename_i z17 z18 z19
          have k20 := Calm.ofFst z19 (a := a0) (by
              apply ledgerRecords_calm
              exact h0)
          apply holdDrain_calm
          exact k20

theorem drainErrors_calm {a0 s : State} (h0 : Calm a0 s) : Calm a0 (drainErrors s) := by
  unfold drainErrors
  extract_lets x0 x1 x2 x3 x4 x5 x6 x7 x8 x9 x10
  clear_value x0
  clear_value x1
  clear_value x2
  clear_value x3
  clear_value x6
  clear_value x7
  have k11 : Calm a0 x8 := by
    unfold x8
    apply Calm.fold
    · exact h0
    · intro y12 y13 y14
      apply State.sendHost_calm
      exact y14
  clear_value x8
  clear_value x9
  clear_value x10
  split
  · rename_i z15
    exact h0
  · rename_i z16
    apply State.sendHost_calm
    exact k11

theorem drainDue_calm {a0 s : State} (h0 : Calm a0 s) : Calm a0 (drainDue s) := by
  unfold drainDue
  split
  · rename_i z0
    apply drainErrors_calm
    exact h0
  · rename_i z1
    exact h0

theorem raiseError_calm {a0 s : State} (h0 : Calm a0 s) (e : ErrInfo) : Calm a0 (raiseError s e) := by
  unfold raiseError
  apply drainDue_calm
  apply writeError_calm
  exact h0

theorem appendRecord_calm {a0 s : State} (h0 : Calm a0 s) (i : Item) : Calm a0 (appendRecord s i) := by
  unfold appendRecord
  split
  · rename_i z0 z1
    apply State.modItem_calm
    exact h0
  · rename_i z2 z3 z4
    extract_lets x5 x6 x7 x8
    clear_value x5
    clear_value x6
    have k9 : Calm a0 x7 := by
      unfold x7
      apply deviceWrite_calm
      exact h0
    clear_value x7
    have k10 : Calm a0 x8 := by
      unfold x8
      apply State.modCtx_calm
      apply State.modItem_calm
      exact k9
    clear_value x8
    split
    · rename_i z11
      apply drain_calm
      exact k10
    · rename_i z12
      exact k10

theorem appendReady_calm {a0 v1 : State} (h0 : Calm a0 v1) (v0 : Nat) (v2 : Nat) : Calm a0 (appendReady v0 v1 v2) := by
  induction v0 generalizing v1 v2 with
  | zero =>
    unfold appendReady
    exact h0
  | succ n ih =>
    unfold appendReady
    split
    · rename_i z0 z1 z2
      apply ih
      apply appendRecord_calm
      exact h0
    · rename_i z3 z4
      exact h0

theorem appendRecords_calm {a0 s : State} (h0 : Calm a0 s) (c : Nat) : Calm a0 (appendRecords s c) := by
  unfold appendRecords
  apply appendReady_calm
  exact h0

theorem itemEvent_calm {a0 s : State} (h0 : Calm a0 s) (r : ItemRef) (event : Nat) : Calm a0 (itemEvent s r event) := by
  unfold itemEvent
  split
  · rename_i z0 z1 z2
    split
    · rename_i z3 z4 z5 z6
      apply count_calm
      exact h0
    · rename_i z7 z8 z9 z10 z11
      apply count_calm
      exact h0
    · rename_i z12 z13 z14 z15
      exact h0
  · rename_i z16 z17
    exact h0

theorem noteWork_calm {a0 s : State} (h0 : Calm a0 s) (r : ItemRef) (d : Nat) : Calm a0 (noteWork s r d) := by
  unfold noteWork
  apply State.modItem_calm
  exact h0

theorem releaseUnits_calm {a0 s : State} (h0 : Calm a0 s) (r : ItemRef) : Calm a0 (releaseUnits s r) := by
  unfold releaseUnits
  extract_lets x0 x1
  exact Calm.put h0

theorem releaseChain_calm {a0 s : State} (h0 : Calm a0 s) (r : ItemRef) : Calm a0 (releaseChain s r) := by
  unfold releaseChain
  extract_lets x0 x1 x2 x3
  have k4 : Calm a0 x0 := by
    unfold x0
    split
    · rename_i z5 z6 z7
      apply noteWork_calm
      exact h0
    · rename_i z8 z9
      exact h0
  clear_value x0
  have k10 : Calm a0 x3 := by
    unfold x3
    exact Calm.put k4
  clear_value x3
  apply State.modItem_calm
  exact k10

theorem releaseIssued_calm {a0 s : State} (h0 : Calm a0 s) (r : ItemRef) : Calm a0 (releaseIssued s r) := by
  unfold releaseIssued
  split
  · rename_i z0 z1 z2
    split
    · rename_i z3
      apply releaseChain_calm
      exact h0
    · rename_i z4
      exact h0
  · rename_i z5 z6
    exact h0

theorem poisonItem_calm {a0 s : State} (h0 : Calm a0 s) (i : Item) : Calm a0 (poisonItem s i) := by
  unfold poisonItem
  extract_lets x0 x1 x2
  clear_value x0
  have k3 : Calm a0 x1 := by
    unfold x1
    apply State.modMem_calm
    exact h0
  clear_value x1
  have k4 : Calm a0 x2.s := by
    unfold x2
    apply Calm.foldOf Issued.s
    · exact k3
    · intro y5 y6 y7
      extract_lets x8
      have k9 : Calm a0 x8.s := by
        unfold x8
        apply issuePoison_calm
        exact y7
      clear_value x8
      exact k9
  clear_value x2
  apply State.modItem_calm
  exact k4

theorem dropAdvance_calm {a0 s : State} (h0 : Calm a0 s) (r : ItemRef) : Calm a0 (dropAdvance s r) := by
  unfold dropAdvance
  split
  · rename_i z0 z1 z2
    split
    · rename_i z3
      apply poisonItem_calm
      exact h0
    · rename_i z4
      exact h0
  · rename_i z5 z6
    exact h0

theorem scrambleAt_calm {a0 s : State} (h0 : Calm a0 s) (c : Nat) (a : Nat) (n : Nat) : Calm a0 (scrambleAt s c a n) := by
  unfold scrambleAt
  split
  · rename_i z0
    apply State.modMem_calm
    exact Calm.put h0
  · rename_i z1
    exact h0

theorem discardRanges_calm {a0 s : State} (h0 : Calm a0 s) (i : Item) : Calm a0 (discardRanges s i) := by
  unfold discardRanges
  apply Calm.fold
  · exact h0
  · intro y0 y1 y2
    apply scrambleAt_calm
    exact y2

theorem discardDirty_calm {a0 s : State} (h0 : Calm a0 s) (r : ItemRef) : Calm a0 (discardDirty s r) := by
  unfold discardDirty
  extract_lets x0
  clear_value x0
  apply State.modMem_calm
  apply State.modItem_calm
  exact h0

theorem staleAreas_calm {a0 s : State} (h0 : Calm a0 s) (i : Item) : Calm a0 (staleAreas s i) := by
  unfold staleAreas
  split
  · rename_i z0 z1 z2
    apply Calm.fold
    · exact h0
    · intro y3 y4 y5
      apply State.modMem_calm
      exact Calm.put y5
  · rename_i z6 z7
    exact h0

theorem endClaim_calm {a0 s : State} (h0 : Calm a0 s) (i : Item) (a : Nat) (b : Nat) : Calm a0 (endClaim s i a b) := by
  unfold endClaim
  extract_lets x0 x1 x2
  have k3 : Calm a0 x0 := by
    unfold x0
    exact Calm.put h0
  clear_value x0
  clear_value x1
  have k4 : Calm a0 x2 := by
    unfold x2
    apply giveUpClaim_calm
    exact k3
  clear_value x2
  split
  · rename_i z5
    exact k4
  · rename_i z6
    apply State.modItem_calm
    apply discardRanges_calm
    exact k4

theorem lateNoCommit_calm {a0 s : State} (h0 : Calm a0 s) (r : ItemRef) : Calm a0 (lateNoCommit s r) := by
  unfold lateNoCommit
  split
  · rename_i z0 z1 z2
    split
    · rename_i z3
      apply State.modItem_calm
      apply discardRanges_calm
      exact h0
    · rename_i z4
      exact h0
  · rename_i z5 z6
    exact h0

theorem rewriteRecord_calm {a0 s : State} (h0 : Calm a0 s) (r : ItemRef) : Calm a0 (rewriteRecord s r) := by
  unfold rewriteRecord
  split
  · rename_i z0 z1 z2 z3 z4 z5
    split
    · rename_i z6
      apply deviceWrite_calm
      exact h0
    · rename_i z7
      exact h0
  · rename_i z8 z9 z10
    exact h0

theorem silence_calm {a0 s : State} (h0 : Calm a0 s) (r : ItemRef) (st : Status) : Calm a0 (silence s r st) := by
  unfold silence
  split
  · rename_i z0
    exact h0
  · rename_i z1
    exact Calm.put h0

theorem overrule_calm {a0 s : State} (h0 : Calm a0 s) (i : Item) (st : Status) (code : Nat) (aux : BitVec 32) : Calm a0 (overrule s i st code aux) := by
  unfold overrule
  extract_lets x0 x1 x2 x3 x4
  have k5 : Calm a0 x0 := by
    unfold x0
    apply silence_calm
    apply State.modItem_calm
    exact h0
  clear_value x0
  clear_value x1
  have k6 : Calm a0 x2 := by
    unfold x2
    split
    · rename_i z7
      apply discardDirty_calm
      exact k5
    · rename_i z8
      exact k5
  clear_value x2
  clear_value x3
  have k9 : Calm a0 x4 := by
    unfold x4
    apply rewriteRecord_calm
    exact k6
  clear_value x4
  split
  · rename_i z10 z11
    split
    · rename_i z12
      apply dropAdvance_calm
      apply State.modItem_calm
      exact k6
    · rename_i z13
      exact k6
  · rename_i z14 z15
    split
    · rename_i z16 z17 z18
      split
      · rename_i z19
        apply poisonItem_calm
        exact k9
      · rename_i z20
        exact k9
    · rename_i z21 z22
      exact k9
  · rename_i z23 z24 z25
    exact k6

theorem endOne_calm {a0 s : State} (h0 : Calm a0 s) (r : ItemRef) (st : Status) (code : Nat) (aux : BitVec 32) : Calm a0 (endOne s r st code aux) := by
  unfold endOne
  split
  · rename_i z0 z1
    exact h0
  · rename_i z2 z3 z4
    split
    · rename_i z5
      split
      · rename_i z6
        apply overrule_calm
        exact h0
      · rename_i z7
        exact h0
    · rename_i z8
      extract_lets x9 x10 x11 x12 x13 x14 x15
      clear_value x9
      have k16 : Calm a0 x10 := by
        unfold x10
        apply silence_calm
        apply releaseUnits_calm
        exact h0
      clear_value x10
      have k17 : Calm a0 x11 := by
        unfold x11
        split
        · rename_i z18
          apply staleAreas_calm
          apply discardDirty_calm
          exact k16
        · rename_i z19
          exact k16
      clear_value x11
      have k20 : Calm a0 x12 := by
        unfold x12
        split
        · rename_i z21 z22 z23 z24
          split
          · rename_i z25
            exact k17
          · rename_i z26
            apply endClaim_calm
            exact k17
        · rename_i z27 z28
          exact k17
      clear_value x12
      have k29 : Calm a0 x13 := by
        unfold x13
        split
        · rename_i z30 z31 z32 z33 z34
          apply issueRelease_calm
          exact k20
        · rename_i z35 z36
          exact k20
      clear_value x13
      have k37 : Calm a0 x14 := by
        unfold x14
        apply State.modItem_calm
        exact k29
      clear_value x14
      have k38 : Calm a0 x15 := by
        unfold x15
        exact Calm.put k37
      clear_value x15
      apply dropAdvance_calm
      apply itemEvent_calm
      exact k38

theorem cascade_calm {a0 v1 : State} (h0 : Calm a0 v1) (v0 : Nat) (v2 : Nat) : Calm a0 (cascade v0 v1 v2) := by
  induction v0 generalizing v1 v2 with
  | zero =>
    unfold cascade
    exact h0
  | succ n ih =>
    unfold cascade
    split
    · rename_i z0 z1 z2
      extract_lets x3
      have k4 : Calm a0 x3 := by
        unfold x3
        apply endOne_calm
        exact h0
      clear_value x3
      apply ih
      split
      · rename_i z5
        apply State.modItem_calm
        exact k4
      · rename_i z6
        exact k4
    · rename_i z7 z8
      exact h0

theorem endItem_calm {a0 s : State} (h0 : Calm a0 s) (r : ItemRef) (st : Status) (code : Nat) (aux : BitVec 32) : Calm a0 (endItem s r st code aux) := by
  unfold endItem
  extract_lets x0
  have k1 : Calm a0 x0 := by
    unfold x0
    apply endOne_calm
    exact h0
  clear_value x0
  apply drainDue_calm
  apply appendRecords_calm
  apply cascade_calm
  exact k1

theorem failItem_calm {a0 s : State} (h0 : Calm a0 s) (r : ItemRef) (code : Nat) (err : Option Nat) : Calm a0 (failItem s r code err) := by
  unfold failItem
  split
  · rename_i z0 z1 z2
    apply endItem_calm
    exact h0
  · rename_i z3 z4
    exact h0

theorem readAgain_calm {a0 s : State} (h0 : Calm a0 s) (r : ItemRef) (a : Nat) (n : Nat) : Calm a0 (readAgain s r a n) := by
  unfold readAgain
  extract_lets x0
  have k1 : Calm a0 x0 := by
    unfold x0
    apply forgetLine_calm
    exact h0
  clear_value x0
  split
  · rename_i z2
    exact k1
  · rename_i z3
    split
    · rename_i z4 z5 z6 z7
      have k8 := Calm.ofFst z7 (a := a0) (by
          apply itemRead_calm
          exact k1)
      apply failItem_calm
      exact k8
    · rename_i z9 z10 z11 z12 z13
      have k14 := Calm.ofFst z13 (a := a0) (by
          apply itemRead_calm
          exact k1)
      exact k14

theorem endMany_calm {a0 s : State} (h0 : Calm a0 s) (rs : List (ItemRef × Status × Nat × BitVec 32)) : Calm a0 (endMany s rs) := by
  unfold endMany
  extract_lets x0
  have k1 : Calm a0 x0 := by
    unfold x0
    apply Calm.fold
    · exact h0
    · intro y2 y3 y4
      apply endOne_calm
      exact y4
  clear_value x0
  apply drainDue_calm
  apply Calm.fold
  · exact k1
  · intro y5 y6 y7
    apply appendRecords_calm
    apply cascade_calm
    exact y7

theorem addFlags_calm {a0 s : State} (h0 : Calm a0 s) (r : ItemRef) (f : BitVec 8) : Calm a0 (addFlags s r f) := by
  unfold addFlags
  apply State.modItem_calm
  exact h0

theorem issueAtomic_calm {a0 s : State} (h0 : Calm a0 s) (r : ItemRef) (a : Nat) (code : Nat) (v : Nat) (cmp : Nat) (ret : Option Nat) : Calm a0 (issueAtomic s r a code v cmp ret).1 := by
  unfold issueAtomic
  extract_lets x0 x1 x2 x3
  clear_value x0
  have k4 : Calm a0 x1 := by
    unfold x1
    apply invalidateClean_calm
    exact h0
  clear_value x1
  have k5 : Calm a0 x2 := by
    unfold x2
    apply State.modItem_calm
    exact k4
  clear_value x2
  split
  · rename_i z6
    exact k5
  · rename_i z7
    split
    · rename_i z8
      split
      · rename_i z9 z10 z11 z12 z13
        have k14 := Calm.ofFst z13 (a := a0) (by
            apply reachHome_calm
            apply chargeRequest_calm
            exact k5)
        extract_lets x15
        have k16 : Calm a0 x15 := by
          unfold x15
          apply addFlags_calm
          exact k14
        clear_value x15
        split
        · rename_i z17 z18
          apply itemWrite_calm
          exact k16
        · rename_i z19
          exact k16
      · rename_i z20 z21 z22
        have k23 := Calm.ofFst z22 (a := a0) (by
            apply reachHome_calm
            apply chargeRequest_calm
            exact k5)
        dsimp only [x3]
        split
        · rename_i z24 z25 z26 z27
          have k28 := Calm.ofFst z27 (a := a0) (by
              apply State.request_calm
              exact k23)
          dsimp only
          apply State.modItem_calm
          exact k28
        · rename_i z29 z30 z31
          have k32 := Calm.ofFst z31 (a := a0) (by
              apply State.request_calm
              exact k23)
          exact k32
      · rename_i z33 z34 z35 z36 z37 z38
        have k39 := Calm.ofFst z38 (a := a0) (by
            apply reachHome_calm
            apply chargeRequest_calm
            exact k5)
        exact k39
    · rename_i z40
      dsimp only [x3]
      split
      · rename_i z41 z42 z43 z44
        have k45 := Calm.ofFst z44 (a := a0) (by
            apply State.request_calm
            exact k5)
        dsimp only
        apply State.modItem_calm
        exact k45
      · rename_i z46 z47 z48
        have k49 := Calm.ofFst z48 (a := a0) (by
            apply State.request_calm
            exact k5)
        exact k49

theorem itemAtomic_calm {a0 s : State} (h0 : Calm a0 s) (r : ItemRef) (a : Nat) (code : Nat) (v : Nat) (cmp : Nat) (ret : Option Nat) : Calm a0 (itemAtomic s r a code v cmp ret).1 := by
  unfold itemAtomic
  split
  · rename_i z0 z1 z2
    have k3 := Calm.ofFst z2 (a := a0) (by
        apply writeWay_calm
        exact h0)
    apply issueAtomic_calm
    exact k3
  · rename_i z4 z5 z6
    have k7 := Calm.ofFst z6 (a := a0) (by
        apply writeWay_calm
        exact h0)
    dsimp only
    apply stageWrite_calm
    exact k7

theorem issueStaged_calm {a0 s : State} (h0 : Calm a0 s) (r : ItemRef) : Calm a0 (issueStaged s r).1 := by
  unfold issueStaged
  split
  · rename_i z0 z1 z2
    apply Calm.foldFst
    · dsimp only
      apply State.modItem_calm
      exact h0
    · intro y3 y4 y5
      split
      · rename_i z6 z7 z8 z9
        have k10 := Calm.ofFst z9 (a := a0) (by
            split
            · rename_i z11 z12 z13 z14 z15 z16
              apply itemAtomic_calm
              exact y5
            · rename_i z17 z18
              apply itemWrite_calm
              exact y5)
        exact k10
  · rename_i z19 z20
    exact h0

theorem failWaiters_calm {a0 s : State} (h0 : Calm a0 s) (id : Nat) (code : Nat) : Calm a0 (failWaiters s id code) := by
  unfold failWaiters
  extract_lets x0
  clear_value x0
  apply Calm.fold
  · exact h0
  · intro y1 y2 y3
    apply failItem_calm
    exact y3

theorem flaggedDone_calm {a0 s : State} (h0 : Calm a0 s) (r : ItemRef) (id : Nat) : Calm a0 (flaggedDone s r id) := by
  unfold flaggedDone
  split
  · rename_i z0 z1 z2
    extract_lets x3 x4
    clear_value x3
    have k5 : Calm a0 x4 := by
      unfold x4
      apply State.modItem_calm
      exact h0
    clear_value x4
    split
    · rename_i z6
      apply endItem_calm
      exact k5
    · rename_i z7
      exact k5
  · rename_i z8 z9
    exact h0

theorem repeatCas_calm {a0 s : State} (h0 : Calm a0 s) (q : Req) (a : Nat) (old : W64) (new : W64) (p : Purpose) : Calm a0 (repeatCas s q a old new p) := by
  unfold repeatCas
  split
  · rename_i z0 z1 z2 z3
    have k4 := Calm.ofFst z3 (a := a0) (by
        apply casRecord_calm
        exact h0)
    exact k4

theorem claimHeld_calm {a0 s : State} (h0 : Calm a0 s) (r : ItemRef) (a : Nat) (buf : Nat) : Calm a0 (claimHeld s r a buf) := by
  unfold claimHeld
  apply State.modItem_calm
  exact h0

theorem committed_calm {a0 s : State} (h0 : Calm a0 s) (r : ItemRef) : Calm a0 (committed s r) := by
  unfold committed
  apply State.modItem_calm
  exact h0

theorem atomicDone_calm {a0 s : State} (h0 : Calm a0 s) (q : Req) (old : W64) (fl : BitVec 8) : Calm a0 (atomicDone s q old fl) := by
  unfold atomicDone
  split
  · rename_i z0 z1 z2 z3 z4 z5 z6
    extract_lets x7
    have k8 : Calm a0 x7 := by
      unfold x7
      apply addFlags_calm
      exact h0
    clear_value x7
    split
    · rename_i z9 z10
      apply itemWrite_calm
      exact k8
    · rename_i z11
      exact k8
  · rename_i z12 z13 z14 z15 z16 z17 z18 z19
    split
    · rename_i z20
      apply recordPin_calm
      exact h0
    · rename_i z21
      apply forgetLine_calm
      exact h0
  · rename_i z22 z23 z24 z25 z26 z27 z28 z29 z30
    split
    · rename_i z31
      split
      · rename_i z32 z33 z34
        split
        · rename_i z35
          apply issueRelease_calm
          exact h0
        · rename_i z36
          apply State.modItem_calm
          exact h0
      · rename_i z37 z38
        exact h0
    · rename_i z39
      apply forgetLine_calm
      exact h0
  · rename_i z40 z41 z42 z43 z44 z45 z46 z47
    split
    · rename_i z48
      split
      · rename_i z49 z50 z51
        split
        · rename_i z52
          apply giveUpClaim_calm
          exact h0
        · rename_i z53
          apply claimHeld_calm
          exact h0
      · rename_i z54 z55
        exact h0
    · rename_i z56
      apply forgetLine_calm
      exact h0
  · rename_i z57 z58 z59 z60 z61 z62 z63 z64
    split
    · rename_i z65
      apply committed_calm
      exact h0
    · rename_i z66
      split
      · rename_i z67
        apply lateNoCommit_calm
        exact h0
      · rename_i z68
        apply repeatCas_calm
        exact h0
  · rename_i z69 z70 z71 z72 z73 z74
    split
    · rename_i z75
      exact h0
    · rename_i z76
      apply repeatCas_calm
      exact h0
  · rename_i z77 z78 z79 z80 z81 z82
    split
    · rename_i z83
      exact h0
    · rename_i z84
      apply repeatCas_calm
      exact h0
  · rename_i z85 z86 z87 z88 z89 z90 z91 z92 z93
    exact h0

theorem afterSettle_calm {a0 s : State} (h0 : Calm a0 s) (q : Req) : Calm a0 (afterSettle s q) := by
  unfold afterSettle
  split
  · rename_i z0 z1 z2
    apply dropAdvance_calm
    exact h0
  · rename_i z3 z4
    exact h0

theorem writeDone_calm {a0 s : State} (h0 : Calm a0 s) (q : Req) : Calm a0 (writeDone s q) := by
  unfold writeDone
  extract_lets x0 x1
  have k2 : Calm a0 x0 := by
    unfold x0
    apply State.dropReq_calm
    exact h0
  clear_value x0
  have k3 : Calm a0 x1 := by
    unfold x1
    split
    · rename_i z4 z5 z6 z7 z8
      apply flaggedDone_calm
      exact k2
    · rename_i z9 z10 z11
      exact k2
  clear_value x1
  apply afterSettle_calm
  exact k3

theorem requestFailed_calm {a0 s : State} (h0 : Calm a0 s) (q : Req) (code : Nat) : Calm a0 (requestFailed s q code) := by
  unfold requestFailed
  extract_lets x0 x1
  have k2 : Calm a0 x0 := by
    unfold x0
    split
    · rename_i z3 z4 z5 z6
      apply State.dropReq_calm
      exact h0
    · rename_i z7 z8
      split
      · rename_i z9
        apply State.dropReq_calm
        exact h0
      · rename_i z10
        apply failWaiters_calm
        apply State.dropReq_calm
        exact h0
  clear_value x0
  have k11 : Calm a0 x1 := by
    unfold x1
    split
    · rename_i z12 z13 z14 z15 z16 z17 z18 z19
      split
      · rename_i z20
        apply keepRelease_calm
        exact k2
      · rename_i z21
        apply pinReleaseLost_calm
        exact k2
    · rename_i z22 z23 z24 z25 z26 z27
      exact k2
    · rename_i z28 z29 z30
      exact k2
    · rename_i z31 z32 z33 z34 z35
      split
      · rename_i z36 z37 z38
        apply failItem_calm
        split
        · rename_i z39 z40 z41 z42 z43
          apply lateNoCommit_calm
          exact k2
        · rename_i z44 z45
          exact k2
      · rename_i z46 z47
        exact k2
  clear_value x1
  apply afterSettle_calm
  exact k11

theorem fenceFailed_calm {a0 s : State} (h0 : Calm a0 s) (id : Nat) (code : Nat) : Calm a0 (fenceFailed s id code) := by
  unfold fenceFailed
  apply Calm.fold
  · exact h0
  · intro y0 y1 y2
    apply State.modItem_calm
    exact y2

theorem resetContext_calm {a0 s : State} (h0 : Calm a0 s) (c : Nat) (code : Nat) (err : Option Nat) : Calm a0 (resetContext s c code err) := by
  unfold resetContext
  split
  · rename_i z0
    exact h0
  · rename_i z1
    extract_lets x2 x3
    have k4 : Calm a0 x2 := by
      unfold x2
      apply endMany_calm
      exact h0
    clear_value x2
    clear_value x3
    apply State.modCtx_calm
    apply releasePins_calm
    exact k4

end Sys2Proof.Machine
end

