-- ==== Sys2Proof/Laws/CalmSched.lean ====
section
/-! SUPPORT. What each operation leaves of the device (Calm): admission, intake, scheduling, contexts, links and resets. -/

set_option Elab.async false
set_option linter.unusedVariables false

namespace Sys2Proof.Machine

/-! ## Machine/Admit.lean -/

theorem heldRead_calm {a0 s : State} (h0 : Calm a0 s) (off : Nat) (n : Nat) : Calm a0 (heldRead s off n).1 := by
  unfold heldRead
  apply Calm.foldFst
  · exact h0
  · intro y0 y1 y2
    split
    · rename_i z3 z4 z5
      have k6 := Calm.ofFst z5 (a := a0) (by
          apply reachHome_calm
          exact y2)
      exact k6
    · rename_i z7 z8 z9 z10 z11
      have k12 := Calm.ofFst z11 (a := a0) (by
          apply reachHome_calm
          exact y2)
      exact k12

theorem Calm.pair {a : State} {α β : Type} {p : State × α} {b : β} (h : Calm a p.1) : Calm a (p.1, b).1 := h

theorem manifestRead_calm {a0 s : State} (h0 : Calm a0 s) (v : SurvivalCfg) : Calm a0 (manifestRead s v).1 := by
  unfold manifestRead
  exact Calm.foldFst h0 (fun p x h => Calm.pair (heldRead_calm h _ _))

theorem keepRound_calm {a0 s : State} (h0 : Calm a0 s) : Calm a0 (keepRound s).1 := by
  unfold keepRound
  split
  · rename_i z0
    exact h0
  · rename_i z1
    split
    · rename_i z2 z3 z4 z5
      have k6 := Calm.ofFst z5 (a := a0) (by
          split
          · rename_i z7 z8 z9
            apply manifestRead_calm
            exact h0
          · rename_i z10 z11
            exact h0)
      split
      · rename_i z12 z13
        have k14 := Calm.ofFst z5 (a := a0) (by
            split
            · rename_i z15 z16 z17
              apply manifestRead_calm
              exact h0
            · rename_i z18 z19
              exact h0)
        dsimp only
        exact Calm.put k6
      · rename_i z20
        have k21 := Calm.ofFst z5 (a := a0) (by
            split
            · rename_i z22 z23 z24
              apply manifestRead_calm
              exact h0
            · rename_i z25 z26
              exact h0)
        exact k6

/-! ## Machine/Intake.lean -/

theorem readBlock_calm {a0 s : State} (h0 : Calm a0 s) (off : Nat) : Calm a0 (readBlock s off).1 := by
  unfold readBlock
  split
  · rename_i z0 z1 z2 z3
    have k4 := Calm.ofFst z3 (a := a0) (by
        apply reachHome_calm
        exact h0)
    split
    · rename_i z5 z6
      have k7 := Calm.ofFst z3 (a := a0) (by
          apply reachHome_calm
          exact h0)
      exact k4
    · rename_i z8
      have k9 := Calm.ofFst z3 (a := a0) (by
          apply reachHome_calm
          exact h0)
      exact k4
    · rename_i z10 z11 z12
      exact k4

theorem readRecordOnce_calm {a0 s : State} (h0 : Calm a0 s) (c : Nat) (k : CtxCfg) (i : Nat) : Calm a0 (readRecordOnce s c k i).1 := by
  unfold readRecordOnce
  split
  · rename_i z0 z1 z2
    exact h0
  · rename_i z3 z4
    split
    · rename_i z5 z6 z7 z8
      have k9 := Calm.ofFst z8 (a := a0) (by
          apply readBlock_calm
          exact h0)
      dsimp only
      apply State.modCtx_calm
      exact k9
    · rename_i z10 z11
      apply readBlock_calm
      exact h0

theorem readRing_calm {a0 s : State} (h0 : Calm a0 s) (c : Nat) (k : CtxCfg) (i : Nat) (n : Nat) : Calm a0 (readRing s c k i n).1 := by
  unfold readRing
  apply Calm.foldFst
  · exact h0
  · intro y0 y1 y2
    split
    · rename_i z3 z4 z5
      split
      · rename_i z6 z7 z8 z9
        have k10 := Calm.ofFst z9 (a := a0) (by
            apply readRecordOnce_calm
            exact y2)
        exact k10
    · rename_i z11 z12
      exact y2

theorem fetchRecords_calm {a0 s : State} (h0 : Calm a0 s) (c : Nat) (as_ : List Nat) : Calm a0 (fetchRecords s c as_).1 := by
  unfold fetchRecords
  apply Calm.foldFst
  · exact h0
  · intro y0 y1 y2
    split
    · rename_i z3
      exact y2
    · rename_i z4
      split
      · rename_i z5
        split
        · rename_i z6 z7 z8 z9
          have k10 := Calm.ofFst z9 (a := a0) (by
              apply readBlock_calm
              exact y2)
          exact k10
        · rename_i z11 z12 z13
          have k14 := Calm.ofFst z13 (a := a0) (by
              apply readBlock_calm
              exact y2)
          exact k14
      · rename_i z15
        split
        · rename_i z16 z17 z18
          exact y2
        · rename_i z19 z20
          split
          · rename_i z21
            exact y2
          · rename_i z22
            split
            · rename_i z23 z24 z25 z26
              have k27 := Calm.ofFst z26 (a := a0) (by
                  apply State.request_calm
                  exact y2)
              exact k27
            · rename_i z28 z29 z30
              have k31 := Calm.ofFst z30 (a := a0) (by
                  apply State.request_calm
                  exact y2)
              exact k31

theorem takeCollNo_calm {a0 s : State} (h0 : Calm a0 s) (c : Nat) (ws : List W64) : Calm a0 (takeCollNo s c ws).1 := by
  unfold takeCollNo
  split
  · rename_i z0
    exact h0
  · rename_i z1
    split
    · rename_i z2 z3
      exact h0
    · rename_i z4 z5 z6
      extract_lets x7
      clear_value x7
      dsimp only
      exact Calm.put h0

theorem takeIn_calm {a0 s : State} (h0 : Calm a0 s) (c : Nat) (k : CtxCfg) (ws : List W64) (rs : Recs) : Calm a0 (takeIn s c k ws rs) := by
  unfold takeIn
  extract_lets x0 x1 x2 x3 x4
  clear_value x0
  clear_value x1
  clear_value x2
  clear_value x3
  clear_value x4
  split
  · rename_i z5 z6 z7 z8
    have k9 := Calm.ofFst z8 (a := a0) (by
        apply takeCollNo_calm
        exact h0)
    extract_lets x10 x11 x12
    clear_value x10
    clear_value x11
    clear_value x12
    apply State.modCtx_calm
    exact Calm.put k9

theorem intakeLoop_calm {a0 v1 : State} (h0 : Calm a0 v1) (v0 : Nat) (v2 : Nat) (v3 : CtxCfg) : Calm a0 (intakeLoop v0 v1 v2 v3) := by
  induction v0 generalizing v1 v2 v3 with
  | zero =>
    unfold intakeLoop
    exact h0
  | succ n ih =>
    unfold intakeLoop
    extract_lets x0 x1
    clear_value x0
    clear_value x1
    split
    · rename_i z2
      exact h0
    · rename_i z3
      split
      · rename_i z4 z5 z6
        have k7 := Calm.ofFst z6 (a := a0) (by
            apply readRing_calm
            exact h0)
        apply State.modCtx_calm
        exact k7
      · rename_i z8 z9 z10
        have k11 := Calm.ofFst z10 (a := a0) (by
            apply readRing_calm
            exact h0)
        apply State.modCtx_calm
        exact k11
      · rename_i z12 z13 z14 z15
        have k16 := Calm.ofFst z15 (a := a0) (by
            apply readRing_calm
            exact h0)
        extract_lets x17
        clear_value x17
        split
        · rename_i z18
          exact k16
        · rename_i z19
          split
          · rename_i z20 z21 z22
            have k23 := Calm.ofFst z22 (a := a0) (by
                apply readRing_calm
                exact k16)
            apply State.modCtx_calm
            exact k23
          · rename_i z24 z25 z26
            have k27 := Calm.ofFst z26 (a := a0) (by
                apply readRing_calm
                exact k16)
            apply State.modCtx_calm
            exact k27
          · rename_i z28 z29 z30 z31
            have k32 := Calm.ofFst z31 (a := a0) (by
                apply readRing_calm
                exact k16)
            split
            · rename_i z33 z34 z35
              have k36 := Calm.ofFst z35 (a := a0) (by
                  apply fetchRecords_calm
                  exact k32)
              apply State.modCtx_calm
              exact k36
            · rename_i z37 z38 z39 z40
              have k41 := Calm.ofFst z40 (a := a0) (by
                  apply fetchRecords_calm
                  exact k32)
              split
              · rename_i z42 z43 z44
                have k45 := Calm.ofFst z44 (a := a0) (by
                    split
                    · rename_i z46
                      apply keepRound_calm
                      exact k41
                    · rename_i z47
                      exact k41)
                apply ih
                apply takeIn_calm
                exact k45
              · rename_i z48 z49 z50
                have k51 := Calm.ofFst z50 (a := a0) (by
                    split
                    · rename_i z52
                      apply keepRound_calm
                      exact k41
                    · rename_i z53
                      exact k41)
                apply State.modCtx_calm
                exact k51

theorem intakeTurns_calm {a0 v1 : State} (h0 : Calm a0 v1) (v0 : Nat) (v2 : Nat) (v3 : CtxCfg) : Calm a0 (intakeTurns v0 v1 v2 v3) := by
  induction v0 generalizing v1 v2 v3 with
  | zero =>
    unfold intakeTurns
    exact h0
  | succ n ih =>
    unfold intakeTurns
    extract_lets x0 x1 x2
    have k3 : Calm a0 x0 := by
      unfold x0
      apply intakeLoop_calm
      exact h0
    clear_value x0
    have k4 : Calm a0 x1 := by
      unfold x1
      apply appendRecords_calm
      apply cascade_calm
      exact k3
    clear_value x1
    clear_value x2
    split
    · rename_i z5
      apply ih
      exact k4
    · rename_i z6
      exact k4

theorem runIntake_calm {a0 s : State} (h0 : Calm a0 s) (c : Nat) (k : CtxCfg) : Calm a0 (runIntake s c k) := by
  unfold runIntake
  extract_lets x0 x1 x2
  have k3 : Calm a0 x0 := by
    unfold x0
    apply intakeTurns_calm
    exact h0
  clear_value x0
  clear_value x1
  clear_value x2
  split
  · rename_i z4
    exact k3
  · rename_i z5
    apply State.modCtx_calm
    exact k3

theorem resumeIntake_calm {a0 s : State} (h0 : Calm a0 s) (c : Nat) : Calm a0 (resumeIntake s c) := by
  unfold resumeIntake
  split
  · rename_i z0 z1 z2
    split
    · rename_i z3
      apply runIntake_calm
      apply State.modCtx_calm
      exact h0
    · rename_i z4
      exact h0
  · rename_i z5 z6
    exact h0

theorem goOnIntake_calm {a0 s : State} (h0 : Calm a0 s) (c : Nat) : Calm a0 (goOnIntake s c) := by
  unfold goOnIntake
  split
  · rename_i z0 z1 z2
    extract_lets x3
    clear_value x3
    split
    · rename_i z4
      apply runIntake_calm
      exact h0
    · rename_i z5
      exact h0
  · rename_i z6 z7
    exact h0

/-! ## Machine/Sched.lean -/

theorem startItem_calm {a0 s : State} (h0 : Calm a0 s) (r : ItemRef) (f : Item → Item) : Calm a0 (startItem s r f) := by
  unfold startItem
  extract_lets x0
  have k1 : Calm a0 x0 := by
    unfold x0
    apply State.modItem_calm
    exact h0
  clear_value x0
  apply goOnIntake_calm
  split
  · rename_i z2
    exact k1
  · rename_i z3
    apply itemEvent_calm
    exact k1

theorem State.modDie_calm {a0 s : State} (h0 : Calm a0 s) (d : Nat) (f : Die → Die) : Calm a0 (State.modDie s d f) := by
  unfold State.modDie
  exact Calm.put h0

theorem ownCores_calm {a0 s : State} (h0 : Calm a0 s) (d : Nat) (ks : List Nat) (o : CoreOwner) : Calm a0 (ownCores s d ks o) := by
  unfold ownCores
  apply State.modDie_calm
  exact h0

theorem giveBackOne_calm {a0 s : State} (h0 : Calm a0 s) (d : Nat) (x : ItemRef × Nat) : Calm a0 (giveBackOne s d x) := by
  unfold giveBackOne
  extract_lets x0
  split
  · rename_i z1
    dsimp only [x0]
    apply State.modDie_calm
    exact h0
  · rename_i z2
    split
    · rename_i z3
      dsimp only [x0]
      apply State.modDie_calm
      apply State.modItem_calm
      apply ownCores_calm
      exact h0
    · rename_i z4
      exact h0

theorem giveBack_calm {a0 s : State} (h0 : Calm a0 s) (d : Nat) : Calm a0 (giveBack s d) := by
  unfold giveBack
  apply Calm.fold
  · exact h0
  · intro y0 y1 y2
    apply giveBackOne_calm
    exact y2

theorem collGrab_calm {a0 v1 : State} (h0 : Calm a0 v1) (v0 : Nat) (v2 : Nat) : Calm a0 (collGrab v0 v1 v2) := by
  induction v0 generalizing v1 v2 with
  | zero =>
    unfold collGrab
    exact h0
  | succ n ih =>
    unfold collGrab
    split
    · rename_i z0
      split
      · rename_i z1 z2 z3
        apply ih
        apply ownCores_calm
        exact h0
      · rename_i z4 z5
        exact h0
    · rename_i z6
      exact h0

theorem takeCores_calm {a0 s : State} (h0 : Calm a0 s) (d : Nat) (r : ItemRef) (n : Nat) : Calm a0 (takeCores s d r n) := by
  unfold takeCores
  extract_lets x0
  clear_value x0
  apply State.modItem_calm
  apply ownCores_calm
  exact h0

theorem benchStart_calm {a0 s : State} (h0 : Calm a0 s) (d : Nat) (i : Item) : Calm a0 (benchStart s d i) := by
  unfold benchStart
  split
  · rename_i z0 z1 z2
    apply startItem_calm
    apply takeCores_calm
    exact h0
  · rename_i z3 z4
    exact h0

theorem chainStart_calm {a0 s : State} (h0 : Calm a0 s) (d : Nat) (sq : Nat) (i : Item) : Calm a0 (chainStart s d sq i) := by
  unfold chainStart
  extract_lets x0 x1 x2 x3
  clear_value x0
  clear_value x1
  have k4 : Calm a0 x2 := by
    unfold x2
    apply takeCores_calm
    exact h0
  clear_value x2
  have k5 : Calm a0 x3 := by
    unfold x3
    apply State.modDie_calm
    exact k4
  clear_value x3
  apply startItem_calm
  exact k5

theorem engineStart_calm {a0 s : State} (h0 : Calm a0 s) (l : Nat) (i : Item) : Calm a0 (engineStart s l i) := by
  unfold engineStart
  split
  · rename_i z0 z1
    exact h0
  · rename_i z2 z3 z4 z5
    extract_lets x6 x7 x8
    clear_value x6
    have k9 : Calm a0 x8 := by
      unfold x8
      exact Calm.put h0
    clear_value x8
    apply startItem_calm
    exact k9

theorem passOver_calm {a0 s : State} (h0 : Calm a0 s) (o : Offer) (p : Nat) (chosen : ItemRef) : Calm a0 (passOver s o p chosen) := by
  unfold passOver
  exact Calm.put h0

theorem runRound_calm {a0 s : State} (h0 : Calm a0 s) (o : Offer) (credits : List Int) : Calm a0 (runRound s o credits).1 := by
  unfold runRound
  extract_lets x0
  clear_value x0
  split
  · rename_i z1 z2 z3 z4
    split
    · rename_i z5 z6 z7
      dsimp only
      apply passOver_calm
      exact h0
    · rename_i z8 z9
      exact h0
  · rename_i z10 z11 z12
    exact h0

theorem sequencerRound_calm {a0 s : State} (h0 : Calm a0 s) (d : Nat) (sq : Nat) : Calm a0 (sequencerRound s d sq) := by
  unfold sequencerRound
  split
  · rename_i z0
    exact h0
  · rename_i z1
    split
    · rename_i z2 z3 z4 z5 z6
      have k7 := Calm.ofFst z6 (a := a0) (by
          apply runRound_calm
          exact h0)
      apply chainStart_calm
      apply State.modDie_calm
      exact k7
    · rename_i z8 z9
      exact h0

theorem benchRound_calm {a0 s : State} (h0 : Calm a0 s) (d : Nat) : Calm a0 (benchRound s d) := by
  unfold benchRound
  split
  · rename_i z0
    exact h0
  · rename_i z1
    extract_lets x2
    have k3 : Calm a0 x2 := by
      unfold x2
      apply collGrab_calm
      apply giveBack_calm
      exact h0
    clear_value x2
    split
    · rename_i z4 z5 z6 z7 z8
      have k9 := Calm.ofFst z8 (a := a0) (by
          apply runRound_calm
          exact k3)
      apply benchStart_calm
      apply State.modDie_calm
      exact k9
    · rename_i z10 z11
      exact k3

theorem engineRound_calm {a0 s : State} (h0 : Calm a0 s) (l : Nat) (tipple : Bool) : Calm a0 (engineRound s l tipple) := by
  unfold engineRound
  extract_lets x0
  clear_value x0
  split
  · rename_i z1 z2 z3 z4 z5
    have k6 := Calm.ofFst z5 (a := a0) (by
        apply runRound_calm
        exact h0)
    apply engineStart_calm
    exact Calm.put k6
  · rename_i z7 z8
    exact h0

theorem execSchedulerRound_calm {a0 s : State} (h0 : Calm a0 s) (u : RoundUnit) : OutCalm a0 (execSchedulerRound u s) := by
  unfold execSchedulerRound
  apply OutCalm.next
  split
  · rename_i z0
    split
    · rename_i z1 z2 z3
      apply sequencerRound_calm
      exact h0
    · rename_i z4 z5
      apply benchRound_calm
      exact h0
    · rename_i z6 z7 z8
      apply engineRound_calm
      exact h0
  · rename_i z9
    exact h0

theorem detSequencerRound_calm {a0 s : State} (h0 : Calm a0 s) (d : Nat) (sq : Nat) : Calm a0 (detSequencerRound s d sq) := by
  unfold detSequencerRound
  split
  · rename_i z0
    exact h0
  · rename_i z1
    split
    · rename_i z2 z3
      exact h0
    · rename_i z4 z5 z6
      split
      · rename_i z7 z8
        exact h0
      · rename_i z9 z10 z11
        split
        · rename_i z12
          apply chainStart_calm
          apply State.modDie_calm
          exact h0
        · rename_i z13
          exact h0

theorem detBenchRound_calm {a0 s : State} (h0 : Calm a0 s) (d : Nat) : Calm a0 (detBenchRound s d) := by
  unfold detBenchRound
  extract_lets x0
  have k1 : Calm a0 x0 := by
    unfold x0
    apply collGrab_calm
    apply giveBack_calm
    exact h0
  clear_value x0
  split
  · rename_i z2 z3
    exact k1
  · rename_i z4 z5 z6
    split
    · rename_i z7 z8
      exact k1
    · rename_i z9 z10 z11
      split
      · rename_i z12
        apply benchStart_calm
        apply State.modDie_calm
        exact k1
      · rename_i z13
        exact k1

theorem execDeterministicRound_calm {a0 s : State} (h0 : Calm a0 s) (u : RoundUnit) : OutCalm a0 (execDeterministicRound u s) := by
  unfold execDeterministicRound
  apply OutCalm.next
  split
  · rename_i z0
    split
    · rename_i z1 z2 z3
      split
      · rename_i z4
        apply detSequencerRound_calm
        exact h0
      · rename_i z5
        exact h0
    · rename_i z6 z7
      split
      · rename_i z8
        apply detBenchRound_calm
        exact h0
      · rename_i z9
        exact h0
    · rename_i z10 z11 z12
      exact h0
  · rename_i z13
    exact h0

/-! ## Machine/Levels.lean -/

theorem syncUnits_calm {a0 s : State} (h0 : Calm a0 s) : Calm a0 (syncUnits s) := by
  unfold syncUnits
  exact Calm.put h0

theorem countStretch_calm {a0 s : State} (h0 : Calm a0 s) : Calm a0 (countStretch s) := by
  unfold countStretch
  apply Calm.fold
  · exact h0
  · intro y0 y1 y2
    extract_lets x3 x4 x5
    clear_value x3
    clear_value x4
    clear_value x5
    split
    · rename_i z6
      exact y2
    · rename_i z7
      apply count_calm
      exact y2

/-! ## Machine/Context.lean -/

theorem countFold_calm {a0 s : State} (h0 : Calm a0 s) (i : Item) (a : Nat) : Calm a0 (countFold s i a) := by
  unfold countFold
  extract_lets x0
  apply State.modCtx_calm
  apply State.modItem_calm
  exact h0

theorem settleFolds_calm {a0 s : State} (h0 : Calm a0 s) (c : Nat) : Calm a0 (settleFolds s c) := by
  unfold settleFolds
  extract_lets x0
  clear_value x0
  apply Calm.fold
  · exact h0
  · intro y1 y2 y3
    apply Calm.fold
    · exact y3
    · intro y4 y5 y6
      apply countFold_calm
      exact y6

theorem finishItem_calm {a0 s : State} (h0 : Calm a0 s) (i : Item) : Calm a0 (finishItem s i) := by
  unfold finishItem
  split
  · rename_i z0
    apply failItem_calm
    exact h0
  · rename_i z1
    apply endItem_calm
    exact h0

theorem goStaged_calm {a0 s : State} (h0 : Calm a0 s) (r : ItemRef) : Calm a0 (goStaged s r) := by
  unfold goStaged
  split
  · rename_i z0 z1 z2
    split
    · rename_i z3
      exact h0
    · rename_i z4
      split
      · rename_i z5 z6 z7 z8
        have k9 := Calm.ofFst z8 (a := a0) (by
            apply issueStaged_calm
            exact h0)
        apply failItem_calm
        exact k9
      · rename_i z10 z11 z12
        have k13 := Calm.ofFst z12 (a := a0) (by
            apply issueStaged_calm
            exact h0)
        apply releaseIssued_calm
        exact k13
  · rename_i z14 z15
    exact h0

theorem goStagedAll_calm {a0 s : State} (h0 : Calm a0 s) (c : Nat) : Calm a0 (goStagedAll s c) := by
  unfold goStagedAll
  apply Calm.fold
  · exact h0
  · intro y0 y1 y2
    apply goStaged_calm
    exact y2

theorem execItemEnd_calm {a0 s : State} (h0 : Calm a0 s) (c : CtxIx) (seq : Nat) : OutCalm a0 (execItemEnd c seq s) := by
  unfold execItemEnd
  apply OutCalm.next
  extract_lets x0
  have k1 : Calm a0 x0 := by
    unfold x0
    apply goStaged_calm
    exact h0
  clear_value x0
  split
  · rename_i z2 z3 z4
    split
    · rename_i z5
      apply goOnIntake_calm
      apply goStagedAll_calm
      apply finishItem_calm
      exact k1
    · rename_i z6
      exact k1
  · rename_i z7 z8
    exact k1

theorem execDropPoisonComplete_calm {a0 s : State} (h0 : Calm a0 s) (c : CtxIx) (seq : Nat) : OutCalm a0 (execDropPoisonComplete c seq s) := by
  unfold execDropPoisonComplete
  apply OutCalm.next
  split
  · rename_i z0 z1 z2
    split
    · rename_i z3
      apply goStagedAll_calm
      apply appendRecords_calm
      apply State.modItem_calm
      exact h0
    · rename_i z4
      exact h0
  · rename_i z5 z6
    exact h0

theorem execDrainIntervalExpiry_calm {a0 s : State} (h0 : Calm a0 s) (c : CtxIx) : OutCalm a0 (execDrainIntervalExpiry c s) := by
  unfold execDrainIntervalExpiry
  apply OutCalm.next
  split
  · rename_i z0 z1 z2
    extract_lets x3
    clear_value x3
    split
    · rename_i z4
      apply drain_calm
      apply State.upTo_calm
      exact h0
    · rename_i z5
      exact h0
  · rename_i z6 z7
    exact h0

theorem addFlagged_calm {a0 s : State} (h0 : Calm a0 s) (r : ItemRef) (a : Nat) (v : W64) : Calm a0 (addFlagged s r a v) := by
  unfold addFlagged
  extract_lets x0
  clear_value x0
  apply State.modItem_calm
  exact h0

theorem issueFlagged_calm {a0 s : State} (h0 : Calm a0 s) (i : Item) (f : Flagged) : Calm a0 (issueFlagged s i f) := by
  unfold issueFlagged
  extract_lets x0 x1 x2 x3 x4 x5 x6
  clear_value x0
  clear_value x1
  clear_value x3
  clear_value x4
  have k7 : Calm a0 x5 := by
    unfold x5
    apply dropOtherCopies_calm
    exact h0
  clear_value x5
  have k8 : Calm a0 x6.s := by
    unfold x6
    apply issueWrite_calm
    exact k7
  clear_value x6
  split
  · rename_i z9
    split
    · rename_i z10 z11 z12
      split
      · rename_i z13
        dsimp only [x2]
        apply State.modItem_calm
        apply State.sendHost_calm
        exact h0
      · rename_i z14
        apply failItem_calm
        exact h0
    · rename_i z15 z16
      apply failItem_calm
      exact h0
  · rename_i z17
    split
    · rename_i z18 z19 z20
      apply failItem_calm
      dsimp only [x2]
      apply State.modItem_calm
      exact k8
    · rename_i z21 z22
      split
      · rename_i z23
        apply flaggedDone_calm
        dsimp only [x2]
        apply State.modItem_calm
        exact k8
      · rename_i z24
        dsimp only [x2]
        apply State.modItem_calm
        exact k8

theorem execFlaggedFinalWriteIssue_calm {a0 s : State} (h0 : Calm a0 s) (c : CtxIx) (seq : Nat) : OutCalm a0 (execFlaggedFinalWriteIssue c seq s) := by
  unfold execFlaggedFinalWriteIssue
  apply OutCalm.next
  split
  · rename_i z0 z1 z2
    split
    · rename_i z3 z4 z5
      split
      · rename_i z6
        split
        · rename_i z7 z8 z9
          have k10 := Calm.ofFst z9 (a := a0) (by
              apply clearWay_calm
              exact h0)
          apply issueFlagged_calm
          exact k10
        · rename_i z11 z12 z13
          have k14 := Calm.ofFst z13 (a := a0) (by
              apply clearWay_calm
              exact h0)
          exact k14
      · rename_i z15
        exact h0
    · rename_i z16 z17
      exact h0
  · rename_i z18 z19
    exact h0

theorem prune_calm {a0 s : State} (h0 : Calm a0 s) (c : Nat) : Calm a0 (prune s c) := by
  unfold prune
  extract_lets x0 x1
  have k2 : Calm a0 x0 := by
    unfold x0
    apply settleFolds_calm
    exact h0
  clear_value x0
  exact Calm.put k2

theorem execPeriodStart_calm {a0 s : State} (h0 : Calm a0 s) (c : CtxIx) : OutCalm a0 (execPeriodStart c s) := by
  unfold execPeriodStart
  apply OutCalm.next
  split
  · rename_i z0
    extract_lets x1
    clear_value x1
    apply State.modCtx_calm
    apply prune_calm
    apply State.upTo_calm
    exact h0
  · rename_i z2
    exact h0

theorem execPoll_calm {a0 s : State} (h0 : Calm a0 s) (c : CtxIx) : OutCalm a0 (execPoll c s) := by
  unfold execPoll
  apply OutCalm.next
  split
  · rename_i z0 z1 z2
    extract_lets x3 x4
    clear_value x3
    clear_value x4
    split
    · rename_i z5
      apply State.modCtx_calm
      apply State.upTo_calm
      exact h0
    · rename_i z6
      exact h0
  · rename_i z7 z8
    exact h0

theorem execControlBlockReadReturn_calm {a0 s : State} (h0 : Calm a0 s) (c : CtxIx) : OutCalm a0 (execControlBlockReadReturn c s) := by
  unfold execControlBlockReadReturn
  apply OutCalm.next
  split
  · rename_i z0 z1 z2
    extract_lets x3
    clear_value x3
    split
    · rename_i z4
      split
      · rename_i z5 z6 z7
        have k8 := Calm.ofFst z7 (a := a0) (by
            apply readBlock_calm
            exact h0)
        exact k8
      · rename_i z9 z10 z11
        have k12 := Calm.ofFst z11 (a := a0) (by
            apply readBlock_calm
            exact h0)
        apply State.modCtx_calm
        exact k12
      · rename_i z13 z14 z15 z16
        have k17 := Calm.ofFst z16 (a := a0) (by
            apply readBlock_calm
            exact h0)
        extract_lets x18 x19 x20 x21 x22
        have k23 : Calm a0 x18 := by
          unfold x18
          apply acquire_calm
          exact k17
        clear_value x18
        have k24 : Calm a0 x19 := by
          unfold x19
          split
          · rename_i z25
            apply drain_calm
            apply State.modCtx_calm
            exact k23
          · rename_i z26
            exact k23
        clear_value x19
        clear_value x20
        clear_value x21
        have k27 : Calm a0 x22 := by
          unfold x22
          apply State.modCtx_calm
          exact k24
        clear_value x22
        split
        · rename_i z28
          apply State.modCtx_calm
          exact k27
        · rename_i z29
          split
          · rename_i z30
            apply State.modCtx_calm
            exact k27
          · rename_i z31
            split
            · rename_i z32
              apply State.modCtx_calm
              exact k27
            · rename_i z33
              apply runIntake_calm
              apply State.modCtx_calm
              exact k27
    · rename_i z34
      exact h0
  · rename_i z35 z36
    exact h0

theorem watchdog_calm {a0 s : State} (h0 : Calm a0 s) (c : Nat) : Calm a0 (watchdog s c) := by
  unfold watchdog
  extract_lets x0 x1 x2 x3
  clear_value x0
  clear_value x1
  clear_value x2
  have k4 : Calm a0 x3 := by
    unfold x3
    apply raiseError_calm
    exact h0
  clear_value x3
  split
  · rename_i z5
    apply resetContext_calm
    exact k4
  · rename_i z6
    exact h0

theorem execPeriodEnd_calm {a0 s : State} (h0 : Calm a0 s) (c : CtxIx) : OutCalm a0 (execPeriodEnd c s) := by
  unfold execPeriodEnd
  apply OutCalm.next
  split
  · rename_i z0 z1 z2
    extract_lets x3 x4 x5 x6 x7 x8
    clear_value x3
    have k9 : Calm a0 x4 := by
      unfold x4
      apply State.upTo_calm
      exact h0
    clear_value x4
    clear_value x5
    have k10 : Calm a0 x6 := by
      unfold x6
      split
      · rename_i z11
        apply watchdog_calm
        apply endMany_calm
        exact k9
      · rename_i z12
        exact k9
    clear_value x6
    clear_value x7
    have k13 : Calm a0 x8 := by
      unfold x8
      apply drain_calm
      apply endMany_calm
      exact k10
    clear_value x8
    split
    · rename_i z14
      apply State.modCtx_calm
      exact k13
    · rename_i z15
      exact h0
  · rename_i z16 z17
    exact h0

/-! ## Machine/Links.lean -/

theorem rerouteQueue_calm {a0 s : State} (h0 : Calm a0 s) (p : Nat) : Calm a0 (rerouteQueue s p) := by
  unfold rerouteQueue
  extract_lets x0
  clear_value x0
  apply Calm.fold
  · apply State.modPort_calm
    exact h0
  · intro y1 y2 y3
    extract_lets x4
    clear_value x4
    split
    · rename_i z5 z6 z7
      have k8 := OptCalm.of z7 (a := a0) (by
          apply routeSince_calm
          exact y3)
      exact k8
    · rename_i z9 z10
      apply discardAt_calm
      apply owePacket_calm
      exact y3

theorem linkDown_calm {a0 s : State} (h0 : Calm a0 s) (p : Nat) (cause : Nat) : Calm a0 (linkDown s p cause) := by
  unfold linkDown
  extract_lets x0 x1
  have k2 : Calm a0 x0 := by
    unfold x0
    apply State.modPort_calm
    exact h0
  clear_value x0
  have k3 : Calm a0 x1 := by
    unfold x1
    apply raiseError_calm
    exact k2
  clear_value x1
  apply rerouteQueue_calm
  exact k3

theorem sendTrain_calm {a0 s : State} (h0 : Calm a0 s) (p : Nat) (intent : Nat) : Calm a0 (sendTrain s p intent) := by
  unfold sendTrain
  apply State.modPort_calm
  exact h0

theorem disablePort_calm {a0 s : State} (h0 : Calm a0 s) (p : Nat) : Calm a0 (disablePort s p) := by
  unfold disablePort
  apply State.modPort_calm
  exact h0

theorem enablePort_calm {a0 s : State} (h0 : Calm a0 s) (p : Nat) : Calm a0 (enablePort s p) := by
  unfold enablePort
  apply State.modPort_calm
  exact h0

/-! ## Machine/Boot.lean -/

theorem abandonLine_calm {a0 s : State} (h0 : Calm a0 s) (lomium : Nat) : Calm a0 (abandonLine s lomium) := by
  unfold abandonLine
  apply raiseError_calm
  exact h0

theorem writeBackDirty_calm {a0 s : State} (h0 : Calm a0 s) : Calm a0 (writeBackDirty s) := by
  unfold writeBackDirty
  apply Calm.fold
  · exact h0
  · intro y0 y1 y2
    extract_lets x3
    have k4 : Calm a0 x3.s := by
      unfold x3
      apply writeBack_calm
      exact y2
    clear_value x3
    split
    · rename_i z5
      apply abandonLine_calm
      exact k4
    · rename_i z6
      exact k4

theorem abandonWriteBacks_calm {a0 s : State} (h0 : Calm a0 s) : Calm a0 (abandonWriteBacks s) := by
  unfold abandonWriteBacks
  apply Calm.fold
  · exact h0
  · intro y0 y1 y2
    apply abandonLine_calm
    apply State.dropReq_calm
    exact y2

theorem resetPantries_calm {a0 s : State} (h0 : Calm a0 s) : Calm a0 (resetPantries s) := by
  unfold resetPantries
  exact Calm.put h0

theorem trainStacks_calm {a0 s : State} (h0 : Calm a0 s) (i : ColdInputs) (time : Nat) : Calm a0 (trainStacks s i time) := by
  unfold trainStacks
  extract_lets x0 x1 x2
  have k3 : Calm a0 x0 := by
    unfold x0
    apply State.upTo_calm
    exact h0
  clear_value x0
  clear_value x1
  have k4 : Calm a0 x2 := by
    unfold x2
    exact Calm.put k3
  clear_value x2
  apply Calm.fold
  · exact k4
  · intro y5 y6 y7
    extract_lets x8
    have k9 : Calm a0 x8 := by
      unfold x8
      apply State.modMem_calm
      exact y7
    clear_value x8
    apply writeError_calm
    exact k9

theorem trainLinks_calm {a0 s : State} (h0 : Calm a0 s) (i : ColdInputs) (time : Nat) : Calm a0 (trainLinks s i time) := by
  unfold trainLinks
  extract_lets x0 x1
  have k2 : Calm a0 x0 := by
    unfold x0
    exact Calm.put h0
  clear_value x0
  clear_value x1
  exact Calm.put k2

end Sys2Proof.Machine
end

