-- ==== Sys2Proof/Laws/CalmWork.lean ====
section
/-! SUPPORT. What each operation leaves of the device (Calm): chains, Faces, HAUL, Bench and training. -/

set_option Elab.async false
set_option linter.unusedVariables false

namespace Sys2Proof.Machine

/-! ## Machine/Chain.lean -/

theorem noteWritten_calm {a0 s : State} (h0 : Calm a0 s) (d : Nat) (a : Nat) (n : Nat) (unit : Nat) : Calm a0 (noteWritten s d a n unit) := by
  unfold noteWritten
  apply State.modDie_calm
  exact h0

theorem noteStores_calm {a0 s : State} (h0 : Calm a0 s) (d : Nat) (ws : List (Nat × List Byte)) : Calm a0 (noteStores s d ws) := by
  unfold noteStores
  apply Calm.fold
  · exact h0
  · intro y0 y1 y2
    split
    · rename_i z3 z4 z5 z6 z7 z8
      split
      · rename_i z9
        apply noteWritten_calm
        exact y2
      · rename_i z10
        exact y2
    · rename_i z11 z12 z13
      exact y2

theorem takePins_calm {a0 s : State} (h0 : Calm a0 s) (r : ItemRef) (records : List Nat) : Calm a0 (takePins s r records).1 := by
  unfold takePins
  apply Calm.foldFst
  · exact h0
  · intro y0 y1 y2
    split
    · rename_i z3 z4 z5
      split
      · rename_i z6 z7 z8 z9 z10
        have k11 := Calm.ofFst z10 (a := a0) (by
            apply pinFor_calm
            exact y2)
        exact k11
      · rename_i z12 z13 z14 z15
        have k16 := Calm.ofFst z15 (a := a0) (by
            apply pinFor_calm
            exact y2)
        exact k16
      · rename_i z17 z18 z19 z20 z21 z22
        have k23 := Calm.ofFst z22 (a := a0) (by
            apply pinFor_calm
            exact y2)
        exact k23
    · rename_i z24 z25
      exact y2

theorem readRows_calm {a0 s : State} (h0 : Calm a0 s) (r : ItemRef) (die : Option Nat) (as_ : List (Option Nat)) (n : Nat) : Calm a0 (readRows s r die as_ n).1 := by
  unfold readRows
  split
  · rename_i z0 z1 z2 z3 z4
    have k5 := Calm.ofFst z4 (a := a0) (by
        apply itemReads_calm
        exact h0)
    exact k5

theorem writeRanges_calm {a0 s : State} (h0 : Calm a0 s) (r : ItemRef) (die : Option Nat) (ws : List (Nat × List Byte)) (exempt : Bool) : Calm a0 (writeRanges s r die ws exempt).1 := by
  unfold writeRanges
  apply Calm.foldFst
  · exact h0
  · intro y0 y1 y2
    split
    · rename_i z3 z4 z5 z6
      have k7 := Calm.ofFst z6 (a := a0) (by
          apply itemWrite_calm
          exact y2)
      exact k7

theorem blurWrites_calm {a0 s : State} (h0 : Calm a0 s) (lines : List Nat) (ws : List (Nat × List Byte)) : Calm a0 (blurWrites s lines ws).1 := by
  unfold blurWrites
  split
  · rename_i z0
    exact h0
  · rename_i z1
    apply Calm.foldFst
    · exact h0
    · intro y2 y3 y4
      split
      · rename_i z5 z6 z7 z8
        have k9 := Calm.ofFst z8 (a := a0) (by
            apply blur_calm
            exact y4)
        exact k9

theorem issued_calm {a0 s : State} (h0 : Calm a0 s) (r : ItemRef) : Calm a0 (issued s r) := by
  unfold issued
  apply State.modItem_calm
  exact h0

theorem readLoad_calm {a0 : State} {l : Loaded} (h0 : Calm a0 l.s) (c : ChainD) (r : ItemRef) (die : Option Nat) (bases : List (Nat × Nat)) (i : Nat) : Calm a0 (readLoad c r die bases l i).s := by
  unfold readLoad
  extract_lets x0 x1 x2 x3
  clear_value x0
  clear_value x1
  clear_value x2
  clear_value x3
  split
  · rename_i z4
    exact h0
  · rename_i z5
    split
    · rename_i z6 z7 z8 z9
      split
      · rename_i z10 z11 z12 z13 z14
        have k15 := Calm.ofFst z14 (a := a0) (by
            apply readRows_calm
            exact h0)
        split
        · rename_i z16 z17 z18 z19 z20
          have k21 := Calm.ofFst z20 (a := a0) (by
              apply readRows_calm
              exact k15)
          exact k21

theorem blurRows_calm {a0 s : State} (h0 : Calm a0 s) (dirty : List Nat) (as_ : List (Option Nat)) (bs : List (List Byte)) : Calm a0 (blurRows s dirty as_ bs).1 := by
  unfold blurRows
  split
  · rename_i z0
    exact h0
  · rename_i z1
    apply Calm.foldFst
    · exact h0
    · intro y2 y3 y4
      split
      · rename_i z5 z6 z7
        split
        · rename_i z8 z9 z10 z11
          have k12 := Calm.ofFst z11 (a := a0) (by
              apply blur_calm
              exact y4)
          exact k12
      · rename_i z13 z14
        exact y4

theorem Loaded.blurred_calm {a0 : State} {l : Loaded} (h0 : Calm a0 l.s) (dirty : List Nat) (done : List Nat) : Calm a0 (Loaded.blurred l dirty done).s := by
  unfold Loaded.blurred
  split
  · rename_i z0 z1
    exact h0
  · rename_i z2 z3 z4
    extract_lets x5
    have k6 : Calm a0 x5.1 := by
      unfold x5
      apply Calm.foldFst
      · exact h0
      · intro y7 y8 y9
        split
        · rename_i z10 z11 z12 z13 z14 z15
          split
          · rename_i z16
            exact y9
          · rename_i z17
            split
            · rename_i z18 z19 z20 z21
              have k22 := Calm.ofFst z21 (a := a0) (by
                  apply blurRows_calm
                  exact y9)
              split
              · rename_i z23 z24 z25 z26
                have k27 := Calm.ofFst z26 (a := a0) (by
                    apply blurRows_calm
                    exact k22)
                exact k27
    clear_value x5
    exact k6

theorem readLoads_calm {a0 s : State} (h0 : Calm a0 s) (c : ChainD) (r : ItemRef) (die : Option Nat) (bases : List (Nat × Nat)) : Calm a0 (readLoads s c r die bases).s := by
  unfold readLoads
  extract_lets x0
  have k1 : Calm a0 x0.s := by
    unfold x0
    apply Calm.foldOf Loaded.s
    · exact h0
    · intro y2 y3 y4
      apply readLoad_calm
      exact y4
  clear_value x0
  apply Calm.foldOf Loaded.s
  · apply Loaded.blurred_calm
    exact k1
  · intro y5 y6 y7
    apply readLoad_calm
    exact y7

theorem readOlds_calm {a0 s : State} (h0 : Calm a0 s) (r : ItemRef) (die : Option Nat) (c : ChainD) (t1 : Bool) (rs : List StoreRow) : Calm a0 (readOlds s r die c t1 rs).1 := by
  unfold readOlds
  extract_lets x0 x1
  clear_value x0
  clear_value x1
  split
  · rename_i z2 z3 z4 z5 z6
    have k7 := Calm.ofFst z6 (a := a0) (by
        apply itemReads_calm
        exact h0)
    exact k7

theorem countTileRows_calm {a0 s : State} (h0 : Calm a0 s) (i : Item) (c : ChainD) : Calm a0 (countTileRows s i c) := by
  unfold countTileRows
  extract_lets x0
  clear_value x0
  apply Calm.fold
  · exact h0
  · intro y1 y2 y3
    split
    · rename_i z4 z5 z6
      extract_lets x7
      clear_value x7
      apply Calm.fold
      · exact y3
      · intro y8 y9 y10
        apply Calm.fold
        · exact y10
        · intro y11 y12 y13
          apply count_calm
          exact y13

theorem runChain_calm {a0 s : State} (h0 : Calm a0 s) (i : Item) : Calm a0 (runChain s i) := by
  unfold runChain
  extract_lets x0 x1
  clear_value x0
  clear_value x1
  split
  · rename_i z2 z3 z4 z5
    have k6 := Calm.ofFst z5 (a := a0) (by
        apply takePins_calm
        exact h0)
    apply failItem_calm
    exact k6
  · rename_i z7 z8 z9
    have k10 := Calm.ofFst z9 (a := a0) (by
        apply takePins_calm
        exact h0)
    apply State.modItem_calm
    exact k10
  · rename_i z11 z12 z13 z14
    have k15 := Calm.ofFst z14 (a := a0) (by
        apply takePins_calm
        exact h0)
    extract_lets x16 x17 x18 x19 x20 x21 x22 x23 x24
    have k25 : Calm a0 x16 := by
      unfold x16
      apply State.modItem_calm
      exact k15
    clear_value x16
    have k26 : Calm a0 x17.s := by
      unfold x17
      apply readLoads_calm
      exact k25
    clear_value x17
    clear_value x18
    clear_value x19
    have k27 : Calm a0 x20.s := by
      unfold x20
      apply Loaded.blurred_calm
      exact k26
    clear_value x20
    have k28 : Calm a0 x21 := by
      unfold x21
      exact k27
    clear_value x21
    clear_value x22
    clear_value x23
    clear_value x24
    split
    · rename_i z29 z30 z31 z32
      apply failItem_calm
      exact k26
    · rename_i z33 z34 z35 z36
      exact k26
    · rename_i z37 z38 z39 z40 z41
      split
      · rename_i z42 z43 z44 z45 z46
        have k47 := Calm.ofFst z46 (a := a0) (by
            apply readOlds_calm
            exact k28)
        apply failItem_calm
        exact k47
      · rename_i z48 z49 z50
        have k51 := Calm.ofFst z50 (a := a0) (by
            apply readOlds_calm
            exact k28)
        exact k51
      · rename_i z52 z53 z54 z55
        have k56 := Calm.ofFst z55 (a := a0) (by
            apply readOlds_calm
            exact k28)
        extract_lets x57 x58
        clear_value x57
        have k59 : Calm a0 x58 := by
          unfold x58
          apply countTileRows_calm
          apply addFlags_calm
          exact k56
        clear_value x58
        split
        · rename_i z60
          exact k56
        · rename_i z61
          split
          · rename_i z62 z63 z64 z65
            have k66 := Calm.ofFst z65 (a := a0) (by
                apply blurWrites_calm
                exact k59)
            split
            · rename_i z67 z68 z69 z70
              have k71 := Calm.ofFst z70 (a := a0) (by
                  apply writeRanges_calm
                  exact k66)
              apply failItem_calm
              exact k71
            · rename_i z72 z73 z74
              have k75 := Calm.ofFst z74 (a := a0) (by
                  apply writeRanges_calm
                  exact k66)
              apply releaseIssued_calm
              apply issued_calm
              apply State.modItem_calm
              apply noteStores_calm
              exact k75

theorem execChain_calm {a0 s : State} (h0 : Calm a0 s) (c : CtxIx) (seq : Nat) : OutCalm a0 (execChain c seq s) := by
  unfold execChain
  apply OutCalm.next
  split
  · rename_i z0 z1 z2
    split
    · rename_i z3
      apply runChain_calm
      exact h0
    · rename_i z4
      exact h0
  · rename_i z5 z6
    exact h0

theorem execPinRetry_calm {a0 s : State} (h0 : Calm a0 s) (c : CtxIx) (seq : Nat) : OutCalm a0 (execPinRetry c seq s) := by
  unfold execPinRetry
  apply OutCalm.next
  split
  · rename_i z0 z1 z2
    split
    · rename_i z3
      apply runChain_calm
      apply State.upTo_calm
      exact h0
    · rename_i z4
      exact h0
  · rename_i z5 z6
    exact h0

theorem execPinReleaseRetry_calm {a0 s : State} (h0 : Calm a0 s) (c : CtxIx) : OutCalm a0 (execPinReleaseRetry c s) := by
  unfold execPinReleaseRetry
  apply OutCalm.next
  split
  · rename_i z0
    apply retryReleases_calm
    apply State.upTo_calm
    exact h0
  · rename_i z1
    exact h0

/-! ## Machine/Face.lean -/

theorem State.modFace_calm {a0 s : State} (h0 : Calm a0 s) (f : Nat) (g : Face → Face) : Calm a0 (State.modFace s f g) := by
  unfold State.modFace
  exact Calm.put h0

theorem fenceFace_calm {a0 s : State} (h0 : Calm a0 s) (f col code : Nat) : Calm a0 (fenceFace s f col code) := by
  unfold fenceFace
  extract_lets x users s1 s2 phys w4 s3 kind entry
  have k1 : Calm a0 s1 := State.modFace_calm h0 _ _
  clear_value s1
  have k2 : Calm a0 s2 := endMany_calm k1 _
  clear_value s2
  have k3 : Calm a0 s3 := raiseError_calm k2 _
  clear_value s3
  exact Calm.put k3 (h5 := rfl)

theorem mismatched_calm {a0 s : State} (h0 : Calm a0 s) (f : Nat) (run : Nat) (code : Nat) (cls : Nat) (m : Mismatch) (confirms : Bool) : Calm a0 (mismatched s f run code cls m confirms) := by
  unfold mismatched
  extract_lets x0 x1 x2 x3
  have k4 : Calm a0 x0 := by
    unfold x0
    apply State.modDie_calm
    exact h0
  clear_value x0
  have k5 : Calm a0 x1 := by
    unfold x1
    apply raiseError_calm
    exact k4
  clear_value x1
  have k6 : Calm a0 x2 := by
    unfold x2
    split
    · rename_i z7 z8 z9
      apply endItem_calm
      exact k5
    · rename_i z10 z11
      exact k5
  clear_value x2
  have k12 : Calm a0 x3 := by
    unfold x3
    apply State.modFace_calm
    exact k6
  clear_value x3
  split
  · rename_i z13
    exact k12
  · rename_i z14
    split
    · rename_i z15
      apply fenceFace_calm
      exact k12
    · rename_i z16
      apply State.modFace_calm
      exact k12

theorem writeAcc_calm {a0 s : State} (h0 : Calm a0 s) (d : Nat) (a : Nat) (vs : List (BitVec 40)) : Calm a0 (writeAcc s d a vs) := by
  unfold writeAcc
  apply State.modMem_calm
  exact h0

theorem storeAcc_calm {a0 s : State} (h0 : Calm a0 s) (r : ItemRef) (d : Nat) (a : Nat) (unit : Nat) (vs : List (BitVec 40)) : Calm a0 (storeAcc s r d a unit vs) := by
  unfold storeAcc
  extract_lets x0
  clear_value x0
  apply State.modItem_calm
  apply noteWritten_calm
  apply writeAcc_calm
  exact h0

theorem sendClosed_calm {a0 s : State} (h0 : Calm a0 s) (f : Nat) (p : FaceStream) (row : Nat) (unit : Nat) (vs : List (BitVec 40)) : Calm a0 (sendClosed s f p row unit vs) := by
  unfold sendClosed
  split
  · rename_i z0 z1 z2
    extract_lets x3
    clear_value x3
    apply State.modFace_calm
    exact h0
  · rename_i z4 z5
    exact h0

theorem enterRow_calm {a0 s : State} (h0 : Calm a0 s) (f : Nat) (x : InFlight) (unit : Nat) : Calm a0 (enterRow s f x unit) := by
  unfold enterRow
  extract_lets x0 x1 x2 x3 x4 x5 x6 x7
  clear_value x0
  clear_value x1
  clear_value x2
  clear_value x3
  clear_value x4
  have k8 : Calm a0 x5 := by
    unfold x5
    apply State.modFace_calm
    exact h0
  clear_value x5
  have k9 : Calm a0 x6 := by
    unfold x6
    apply noteWork_calm
    exact k8
  clear_value x6
  clear_value x7
  split
  · rename_i z10
    exact k9
  · rename_i z11
    apply count_calm
    exact k9

theorem cutEnded_calm {a0 s : State} (h0 : Calm a0 s) (f : Nat) : Calm a0 (cutEnded s f) := by
  unfold cutEnded
  extract_lets x0
  apply State.modFace_calm
  exact h0

theorem enterSome_calm {a0 v2 : State} (h0 : Calm a0 v2) (v0 : Nat) (v1 : Option Nat) (v3 : Nat) : Calm a0 (enterSome v0 v1 v2 v3) := by
  induction v0 generalizing v1 v2 v3 with
  | zero =>
    unfold enterSome
    exact h0
  | succ n ih =>
    unfold enterSome
    split
    · rename_i z0 z1 z2 z3
      split
      · rename_i z4
        apply ih
        apply enterRow_calm
        exact h0
      · rename_i z5
        exact h0
    · rename_i z6 z7
      exact h0

theorem enterRows_calm {a0 s : State} (h0 : Calm a0 s) (h : Option Nat) (f : Nat) : Calm a0 (enterRows h s f) := by
  unfold enterRows
  extract_lets x0
  have k1 : Calm a0 x0 := by
    unfold x0
    apply cutEnded_calm
    exact h0
  clear_value x0
  split
  · rename_i z2 z3 z4 z5 z6
    apply enterSome_calm
    exact k1
  · rename_i z7 z8 z9
    exact k1

theorem enterDie_calm {a0 s : State} (h0 : Calm a0 s) (f : Nat) : Calm a0 (enterDie s f) := by
  unfold enterDie
  extract_lets x0 x1
  clear_value x0
  dsimp only [x1]
  apply enterRows_calm
  apply enterRows_calm
  apply enterRows_calm
  exact h0

theorem toBoundary_calm {a0 s : State} (h0 : Calm a0 s) (f : Nat) : Calm a0 (toBoundary s f) := by
  unfold toBoundary
  extract_lets x0 x1 x2
  clear_value x0
  have k3 : Calm a0 x1 := by
    unfold x1
    apply enterRows_calm
    apply enterDie_calm
    exact h0
  clear_value x1
  have k4 : Calm a0 x2 := by
    unfold x2
    apply State.upTo_calm
    exact k3
  clear_value x2
  apply enterRows_calm
  apply enterRows_calm
  exact k4

theorem atBoundary_calm {a0 s : State} (h0 : Calm a0 s) (f : Nat) (v0 : FaceOp) : Calm a0 (atBoundary s f v0) := by
  unfold atBoundary
  split
  · rename_i z0 z1
    exact h0
  · rename_i z2 z3
    apply toBoundary_calm
    exact h0

theorem nextStamp_calm {a0 s : State} (h0 : Calm a0 s) (f : Nat) : Calm a0 (nextStamp s f).1 := by
  unfold nextStamp
  dsimp only
  apply State.modDie_calm
  exact h0

theorem beginLoad_calm {a0 s : State} (h0 : Calm a0 s) (f : Nat) (p : FaceLoad) : Calm a0 (beginLoad s f p) := by
  unfold beginLoad
  extract_lets x0
  clear_value x0
  split
  · rename_i z1 z2 z3 z4
    have k5 := Calm.ofFst z4 (a := a0) (by
        apply nextStamp_calm
        exact h0)
    apply State.modFace_calm
    exact k5

theorem beginStream_calm {a0 s : State} (h0 : Calm a0 s) (f : Nat) (p : FaceStream) : Calm a0 (beginStream s f p) := by
  unfold beginStream
  extract_lets x0
  have k1 : Calm a0 x0 := by
    unfold x0
    apply toBoundary_calm
    exact h0
  clear_value x0
  split
  · rename_i z2 z3
    exact k1
  · rename_i z4 z5 z6
    extract_lets x7
    clear_value x7
    split
    · rename_i z8 z9 z10 z11
      have k12 := Calm.ofFst z11 (a := a0) (by
          apply nextStamp_calm
          exact k1)
      apply enterDie_calm
      apply State.modFace_calm
      exact k12

theorem beginOp_calm {a0 s : State} (h0 : Calm a0 s) (f : Nat) (v0 : FaceOp) : Calm a0 (beginOp s f v0) := by
  unfold beginOp
  split
  · rename_i z0 z1
    apply beginLoad_calm
    exact h0
  · rename_i z2 z3
    apply beginStream_calm
    exact h0

theorem beginPending_calm {a0 s : State} (h0 : Calm a0 s) (f : Nat) : Calm a0 (beginPending s f) := by
  unfold beginPending
  split
  · rename_i z0 z1
    exact h0
  · rename_i z2 z3 z4
    extract_lets x5
    split
    · rename_i z6 z7 z8
      split
      · rename_i z9
        dsimp only [x5]
        apply State.modFace_calm
        exact h0
      · rename_i z10
        split
        · rename_i z11
          apply beginOp_calm
          dsimp only [x5]
          apply State.modFace_calm
          exact h0
        · rename_i z12
          exact h0
    · rename_i z13 z14
      dsimp only [x5]
      apply State.modFace_calm
      exact h0

theorem wakeFace_calm {a0 s : State} (h0 : Calm a0 s) (f : Nat) : Calm a0 (wakeFace s f) := by
  unfold wakeFace
  extract_lets x0
  have k1 : Calm a0 x0 := by
    unfold x0
    apply cutEnded_calm
    exact h0
  clear_value x0
  split
  · rename_i z2 z3 z4 z5 z6
    extract_lets x7
    have k8 : Calm a0 x7 := by
      unfold x7
      apply State.upTo_calm
      exact k1
    clear_value x7
    apply State.modFace_calm
    exact k8
  · rename_i z9 z10 z11 z12 z13
    apply State.modFace_calm
    exact k1
  · rename_i z14 z15 z16 z17
    exact k1

theorem execFaceOperationIssue_calm {a0 s : State} (h0 : Calm a0 s) (f : FaceIx) (r0 : Option FaceOp) (r1 : Option FaceOp) : OutCalm a0 (execFaceOperationIssue f r0 r1 s) := by
  unfold execFaceOperationIssue
  apply OutCalm.next
  split
  · rename_i z0
    extract_lets x1 x2
    have k3 : Calm a0 x1 := by
      unfold x1
      apply wakeFace_calm
      apply enterDie_calm
      exact h0
    clear_value x1
    have k4 : Calm a0 x2 := by
      unfold x2
      split
      · rename_i z5
        apply beginPending_calm
        exact k3
      · rename_i z6
        exact k3
    clear_value x2
    split
    · rename_i z7 z8
      exact k4
    · rename_i z9 z10 z11 z12
      extract_lets x13
      have k14 : Calm a0 x13 := by
        unfold x13
        apply State.modFace_calm
        exact k4
      clear_value x13
      split
      · rename_i z15 z16
        apply beginOp_calm
        exact k14
      · rename_i z17 z18
        apply beginOp_calm
        exact k14
      · rename_i z19 z20
        apply State.modFace_calm
        exact k14
      · rename_i z21 z22
        apply State.modFace_calm
        exact k14
      · rename_i z23 z24
        apply State.modFace_calm
        exact k14
  · rename_i z25
    exact h0

theorem facePoison_calm {a0 s : State} (h0 : Calm a0 s) (r : ItemRef) (d : Nat) (ranges : List (Nat × Nat)) : Calm a0 (facePoison s r d ranges).1 := by
  unfold facePoison
  apply Calm.foldFst
  · exact h0
  · intro y0 y1 y2
    split
    · rename_i z3 z4
      apply pantryMeets_calm
      exact y2
    · rename_i z5 z6 z7
      exact y2

theorem execLoadComplete_calm {a0 s : State} (h0 : Calm a0 s) (f : FaceIx) : OutCalm a0 (execLoadComplete f s) := by
  unfold execLoadComplete
  apply OutCalm.next
  split
  · rename_i z0 z1 z2
    extract_lets x3 x4 x5 x6 x7
    clear_value x3
    clear_value x4
    have k8 : Calm a0 x5 := by
      unfold x5
      apply State.upTo_calm
      exact h0
    clear_value x5
    have k9 : Calm a0 x6 := by
      unfold x6
      apply State.modFace_calm
      exact k8
    clear_value x6
    have k10 : Calm a0 x7 := by
      unfold x7
      apply Calm.fold
      · exact k9
      · intro y11 y12 y13
        apply countPantry_calm
        exact y13
    clear_value x7
    split
    · rename_i z14
      split
      · rename_i z15 z16 z17 z18
        have k19 := Calm.ofFst z18 (a := a0) (by
            apply facePoison_calm
            exact k10)
        apply failItem_calm
        exact k19
      · rename_i z20 z21 z22
        have k23 := Calm.ofFst z22 (a := a0) (by
            apply facePoison_calm
            exact k10)
        exact k23
    · rename_i z24
      exact h0
  · rename_i z25 z26
    exact h0

theorem takeSample_calm {a0 s : State} (h0 : Calm a0 s) (f : Nat) (run : Nat) (x : Sample) : Calm a0 (takeSample s f run x) := by
  unfold takeSample
  extract_lets x0 x1
  clear_value x0
  clear_value x1
  split
  · rename_i z2
    apply State.modItem_calm
    apply State.modFace_calm
    exact h0
  · rename_i z3
    exact h0

theorem rowEvents_calm {a0 s : State} (h0 : Calm a0 s) (f : Nat) (x : InFlight) (enteredAt : Nat) (row : Nat) (compared : Bool) : Calm a0 (rowEvents s f x enteredAt row compared) := by
  unfold rowEvents
  extract_lets x0 x1 x2 x3 x4 x5 x6 x7 x8 x9
  clear_value x1
  clear_value x2
  have k10 : Calm a0 x3 := by
    unfold x3
    apply count_calm
    exact h0
  clear_value x3
  clear_value x4
  have k11 : Calm a0 x5 := by
    unfold x5
    apply count_calm
    exact k10
  clear_value x5
  have k12 : Calm a0 x6 := by
    unfold x6
    apply countPantry_calm
    exact k11
  clear_value x6
  clear_value x7
  have k13 : Calm a0 x8 := by
    unfold x8
    split
    · rename_i z14
      exact k12
    · rename_i z15
      apply countPantry_calm
      exact k12
  clear_value x8
  have k16 : Calm a0 x9 := by
    unfold x9
    split
    · rename_i z17
      apply countPantry_calm
      exact k13
    · rename_i z18
      exact k13
  clear_value x9
  split
  · rename_i z19
    apply count_calm
    exact k16
  · rename_i z20
    exact k16

theorem sendRow_calm {a0 s : State} (h0 : Calm a0 s) (f : Nat) (x : InFlight) (unit : Nat) (r : RowOut) : Calm a0 (sendRow s f x unit r) := by
  unfold sendRow
  split
  · rename_i z0 z1
    exact h0
  · rename_i z2 z3 z4
    split
    · rename_i z5
      exact h0
    · rename_i z6
      extract_lets x7
      have k8 : Calm a0 x7 := by
        unfold x7
        apply addFlags_calm
        exact h0
      clear_value x7
      split
      · rename_i z9
        apply storeAcc_calm
        exact k8
      · rename_i z10
        apply sendClosed_calm
        exact k8

theorem emergeRow_calm {a0 s : State} (h0 : Calm a0 s) (f : Nat) (x : InFlight) (e : RowEntry) (bad : NarrowFaults) : Calm a0 (emergeRow s f x e bad) := by
  unfold emergeRow
  extract_lets x0 x1 x2 x3 x4 x5 x6 x7 x8 x9 x10 x11
  clear_value x0
  clear_value x1
  clear_value x2
  clear_value x3
  have k12 : Calm a0 x4 := by
    unfold x4
    apply noteWork_calm
    apply State.modFace_calm
    exact h0
  clear_value x4
  clear_value x5
  clear_value x6
  clear_value x7
  clear_value x8
  clear_value x9
  clear_value x10
  clear_value x11
  split
  · rename_i z13 z14 z15 z16
    have k17 := Calm.ofFst z16 (a := a0) (by
        split
        · rename_i z18
          exact k12
        · rename_i z19
          apply facePoison_calm
          exact k12)
    apply failItem_calm
    exact k17
  · rename_i z20 z21 z22
    have k23 := Calm.ofFst z22 (a := a0) (by
        split
        · rename_i z24
          exact k12
        · rename_i z25
          apply facePoison_calm
          exact k12)
    extract_lets x26 x27 x28 x29 x30 x31 x32 x33 x34 x35
    clear_value x26
    clear_value x27
    clear_value x28
    clear_value x29
    clear_value x30
    clear_value x31
    clear_value x32
    have k36 : Calm a0 x33 := by
      unfold x33
      apply rowEvents_calm
      exact k23
    clear_value x33
    clear_value x34
    have k37 : Calm a0 x35 := by
      unfold x35
      apply takeSample_calm
      exact k36
    clear_value x35
    split
    · rename_i z38 z39 z40
      apply mismatched_calm
      exact k36
    · rename_i z41 z42
      apply sendRow_calm
      exact k37

theorem emerge_calm {a0 s : State} (h0 : Calm a0 s) (f : Nat) (bad : NarrowFaults) : Calm a0 (emerge s f bad) := by
  unfold emerge
  extract_lets x0 x1
  have k2 : Calm a0 x0 := by
    unfold x0
    apply enterDie_calm
    exact h0
  clear_value x0
  have k3 : Calm a0 x1 := by
    unfold x1
    split
    · rename_i z4 z5 z6
      split
      · rename_i z7
        apply enterSome_calm
        exact k2
      · rename_i z8
        exact k2
    · rename_i z9 z10
      exact k2
  clear_value x1
  split
  · rename_i z11 z12 z13 z14
    split
    · rename_i z15 z16 z17 z18
      split
      · rename_i z19
        exact k3
      · rename_i z20
        extract_lets x21
        have k22 : Calm a0 x21 := by
          unfold x21
          apply enterDie_calm
          apply State.upTo_calm
          exact k3
        clear_value x21
        apply emergeRow_calm
        exact k22
    · rename_i z23 z24
      exact k3
  · rename_i z25 z26
    exact k3

theorem execRowEmerge_calm {a0 s : State} (h0 : Calm a0 s) (f : FaceIx) (bad : NarrowFaults) : OutCalm a0 (execRowEmerge f bad s) := by
  unfold execRowEmerge
  apply OutCalm.next
  split
  · rename_i z0
    apply emerge_calm
    apply wakeFace_calm
    exact h0
  · rename_i z1
    exact h0

theorem advanceCheck_calm {a0 s : State} (h0 : Calm a0 s) (f : Nat) (run : Nat) : Calm a0 (advanceCheck s f run) := by
  unfold advanceCheck
  extract_lets x0 x1 x2
  clear_value x0
  clear_value x1
  clear_value x2
  apply State.modFace_calm
  exact h0

theorem execConfirmWindowExpiry_calm {a0 s : State} (h0 : Calm a0 s) (f : FaceIx) : OutCalm a0 (execConfirmWindowExpiry f s) := by
  unfold execConfirmWindowExpiry
  apply OutCalm.next
  extract_lets x0 x1
  clear_value x0
  clear_value x1
  split
  · rename_i z2
    apply advanceCheck_calm
    apply State.modFace_calm
    apply State.upTo_calm
    exact h0
  · rename_i z3
    exact h0

theorem execCheckAdvance_calm {a0 s : State} (h0 : Calm a0 s) (f : FaceIx) : OutCalm a0 (execCheckAdvance f s) := by
  unfold execCheckAdvance
  apply OutCalm.next
  extract_lets x0 x1
  clear_value x0
  clear_value x1
  split
  · rename_i z2
    apply advanceCheck_calm
    apply State.upTo_calm
    exact h0
  · rename_i z3
    exact h0

theorem execReplayComplete_calm {a0 s : State} (h0 : Calm a0 s) (f : FaceIx) : OutCalm a0 (execReplayComplete f s) := by
  unfold execReplayComplete
  apply OutCalm.next
  split
  · rename_i z0 z1 z2 z3
    extract_lets x4 x5 x6 x7 x8 x9
    clear_value x4
    have k10 : Calm a0 x5 := by
      unfold x5
      split
      · rename_i z11
        apply State.upTo_calm
        exact h0
      · rename_i z12
        exact h0
    clear_value x5
    clear_value x6
    have k13 : Calm a0 x7 := by
      unfold x7
      apply State.modFace_calm
      exact k10
    clear_value x7
    have k14 : Calm a0 x8 := by
      unfold x8
      apply State.modItem_calm
      exact k13
    clear_value x8
    have k15 : Calm a0 x9 := by
      unfold x9
      split
      · rename_i z16
        apply State.modDie_calm
        exact k14
      · rename_i z17
        exact k14
    clear_value x9
    split
    · rename_i z18
      split
      · rename_i z19 z20 z21
        apply mismatched_calm
        exact k15
      · rename_i z22 z23
        apply State.modFace_calm
        exact k15
    · rename_i z24
      exact h0
  · rename_i z25 z26
    exact h0

theorem execRampDownBegin_calm {a0 s : State} (h0 : Calm a0 s) (f : FaceIx) : OutCalm a0 (execRampDownBegin f s) := by
  unfold execRampDownBegin
  apply OutCalm.next
  extract_lets x0 x1 x2
  clear_value x1
  have k3 : Calm a0 x2 := by
    unfold x2
    apply enterDie_calm
    apply State.upTo_calm
    exact h0
  clear_value x2
  split
  · rename_i z4
    split
    · rename_i z5
      apply State.modFace_calm
      exact k3
    · rename_i z6
      exact k3
  · rename_i z7
    exact h0

theorem execRampColumnStep_calm {a0 s : State} (h0 : Calm a0 s) (f : FaceIx) : OutCalm a0 (execRampColumnStep f s) := by
  unfold execRampColumnStep
  apply OutCalm.next
  extract_lets x0
  clear_value x0
  split
  · rename_i z1
    apply State.modFace_calm
    apply State.upTo_calm
    exact h0
  · rename_i z2
    split
    · rename_i z3
      apply State.modFace_calm
      apply State.upTo_calm
      exact h0
    · rename_i z4
      exact h0

theorem execRampDownComplete_calm {a0 s : State} (h0 : Calm a0 s) (f : FaceIx) : OutCalm a0 (execRampDownComplete f s) := by
  unfold execRampDownComplete
  apply OutCalm.next
  extract_lets x0 x1
  clear_value x0
  have k2 : Calm a0 x1 := by
    unfold x1
    apply State.upTo_calm
    exact h0
  clear_value x1
  split
  · rename_i z3
    apply State.modFace_calm
    exact k2
  · rename_i z4
    exact h0

theorem execRampUpComplete_calm {a0 s : State} (h0 : Calm a0 s) (f : FaceIx) : OutCalm a0 (execRampUpComplete f s) := by
  unfold execRampUpComplete
  apply OutCalm.next
  extract_lets x0 x1
  clear_value x0
  have k2 : Calm a0 x1 := by
    unfold x1
    apply State.upTo_calm
    exact h0
  clear_value x1
  split
  · rename_i z3
    apply beginPending_calm
    apply enterDie_calm
    apply State.modFace_calm
    exact k2
  · rename_i z4
    exact h0

/-! ## Machine/Haul.lean -/

theorem getRanges_calm {a0 s : State} (h0 : Calm a0 s) (r : ItemRef) (die : Option Nat) (rs : List (Nat × Nat)) : Calm a0 (getRanges s r die rs).st := by
  unfold getRanges
  split
  · rename_i z0 z1 z2 z3 z4
    have k5 := Calm.ofFst z4 (a := a0) (by
        apply itemReads_calm
        exact h0)
    dsimp only [Got.st]
    exact k5
  · rename_i z6 z7 z8
    have k9 := Calm.ofFst z8 (a := a0) (by
        apply itemReads_calm
        exact h0)
    dsimp only [Got.st]
    exact k9
  · rename_i z10 z11 z12 z13
    have k14 := Calm.ofFst z13 (a := a0) (by
        apply itemReads_calm
        exact h0)
    dsimp only [Got.st]
    exact k14

theorem putRanges_calm {a0 s : State} (h0 : Calm a0 s) (r : ItemRef) (die : Option Nat) (reads : List (Nat × Nat)) (ws : List (Nat × List Byte)) (exempt : Bool) : Calm a0 (putRanges s r die reads ws exempt) := by
  unfold putRanges
  split
  · rename_i z0 z1 z2 z3
    have k4 := Calm.ofFst z3 (a := a0) (by
        apply blurWrites_calm
        exact h0)
    split
    · rename_i z5 z6 z7 z8
      have k9 := Calm.ofFst z8 (a := a0) (by
          apply writeRanges_calm
          exact k4)
      apply failItem_calm
      exact k9
    · rename_i z10 z11 z12
      have k13 := Calm.ofFst z12 (a := a0) (by
          apply writeRanges_calm
          exact k4)
      apply issued_calm
      exact k13

theorem blurReads_calm {a0 s : State} (h0 : Calm a0 s) (reads : List (Nat × Nat)) (writes : List (Nat × Nat)) (bss : List (List Byte)) : Calm a0 (blurReads s reads writes bss).1 := by
  unfold blurReads
  extract_lets x0
  clear_value x0
  split
  · rename_i z1
    exact h0
  · rename_i z2
    apply Calm.foldFst
    · exact h0
    · intro y3 y4 y5
      split
      · rename_i z6 z7 z8 z9
        have k10 := Calm.ofFst z9 (a := a0) (by
            apply blur_calm
            exact y5)
        exact k10

theorem moveRows_calm {a0 s : State} (h0 : Calm a0 s) (i : Item) (reads : List (Nat × Nat)) (dests : List (Nat × Nat)) (f : List (List Byte) → List (Nat × List Byte)) : Calm a0 (moveRows s i reads dests f) := by
  unfold moveRows
  split
  · rename_i z0 z1 z2 z3
    have k4 : Calm a0 z1 := Calm.ofGot z3 (by
        apply getRanges_calm
        exact h0)
    apply failItem_calm
    exact k4
  · rename_i z5 z6 z7
    have k8 : Calm a0 z6 := Calm.ofGot z7 (by
        apply getRanges_calm
        exact h0)
    exact k8
  · rename_i z9 z10 z11 z12
    have k13 : Calm a0 z10 := Calm.ofGot z12 (by
        apply getRanges_calm
        exact h0)
    split
    · rename_i z14 z15 z16 z17
      have k18 := Calm.ofFst z17 (a := a0) (by
          apply blurReads_calm
          exact k13)
      apply putRanges_calm
      exact k18

theorem runCopy_calm {a0 s : State} (h0 : Calm a0 s) (i : Item) (d : HaulD) : Calm a0 (runCopy s i d) := by
  unfold runCopy
  apply moveRows_calm
  exact h0

theorem execCopy_calm {a0 s : State} (h0 : Calm a0 s) (c : CtxIx) (seq : Nat) : OutCalm a0 (execCopy c seq s) := by
  unfold execCopy
  apply OutCalm.next
  split
  · rename_i z0 z1 z2 z3
    apply runCopy_calm
    exact h0
  · rename_i z4 z5
    exact h0

theorem runFill_calm {a0 s : State} (h0 : Calm a0 s) (i : Item) (d : HaulD) : Calm a0 (runFill s i d) := by
  unfold runFill
  extract_lets x0 x1
  clear_value x0
  clear_value x1
  apply moveRows_calm
  exact h0

theorem execFill_calm {a0 s : State} (h0 : Calm a0 s) (c : CtxIx) (seq : Nat) : OutCalm a0 (execFill c seq s) := by
  unfold execFill
  apply OutCalm.next
  split
  · rename_i z0 z1 z2 z3
    apply runFill_calm
    exact h0
  · rename_i z4 z5
    exact h0

theorem runTranspose_calm {a0 s : State} (h0 : Calm a0 s) (i : Item) (d : HaulD) : Calm a0 (runTranspose s i d) := by
  unfold runTranspose
  extract_lets x0 x1 x2 x3 x4
  clear_value x0
  clear_value x1
  clear_value x2
  clear_value x3
  clear_value x4
  apply moveRows_calm
  exact h0

theorem execTranspose_calm {a0 s : State} (h0 : Calm a0 s) (c : CtxIx) (seq : Nat) : OutCalm a0 (execTranspose c seq s) := by
  unfold execTranspose
  apply OutCalm.next
  split
  · rename_i z0 z1 z2 z3
    apply runTranspose_calm
    exact h0
  · rename_i z4 z5
    exact h0

theorem runGather_calm {a0 s : State} (h0 : Calm a0 s) (i : Item) (d : HaulD) : Calm a0 (runGather s i d) := by
  unfold runGather
  split
  · rename_i z0 z1 z2 z3
    have k4 : Calm a0 z1 := Calm.ofGot z3 (by
        apply getRanges_calm
        exact h0)
    apply failItem_calm
    exact k4
  · rename_i z5 z6 z7
    have k8 : Calm a0 z6 := Calm.ofGot z7 (by
        apply getRanges_calm
        exact h0)
    exact k8
  · rename_i z9 z10 z11 z12
    have k13 : Calm a0 z10 := Calm.ofGot z12 (by
        apply getRanges_calm
        exact h0)
    split
    · rename_i z14 z15 z16 z17
      have k18 := Calm.ofFst z17 (a := a0) (by
          apply blurReads_calm
          exact k13)
      extract_lets x19 x20
      clear_value x19
      clear_value x20
      split
      · rename_i z21 z22 z23 z24 z25
        have k26 := Calm.ofFst z25 (a := a0) (by
            apply readRows_calm
            exact k18)
        apply failItem_calm
        exact k26
      · rename_i z27 z28 z29
        have k30 := Calm.ofFst z29 (a := a0) (by
            apply readRows_calm
            exact k18)
        exact k30
      · rename_i z31 z32 z33 z34
        have k35 := Calm.ofFst z34 (a := a0) (by
            apply readRows_calm
            exact k18)
        split
        · rename_i z36 z37 z38 z39
          have k40 := Calm.ofFst z39 (a := a0) (by
              apply blurReads_calm
              exact k35)
          apply putRanges_calm
          exact k40

theorem execGather_calm {a0 s : State} (h0 : Calm a0 s) (c : CtxIx) (seq : Nat) : OutCalm a0 (execGather c seq s) := by
  unfold execGather
  apply OutCalm.next
  split
  · rename_i z0 z1 z2 z3
    apply runGather_calm
    exact h0
  · rename_i z4 z5
    exact h0

theorem runScatter_calm {a0 s : State} (h0 : Calm a0 s) (i : Item) (d : HaulD) : Calm a0 (runScatter s i d) := by
  unfold runScatter
  extract_lets x0
  clear_value x0
  split
  · rename_i z1 z2 z3 z4
    have k5 : Calm a0 z2 := Calm.ofGot z4 (by
        apply getRanges_calm
        exact h0)
    apply failItem_calm
    exact k5
  · rename_i z6 z7 z8
    have k9 : Calm a0 z7 := Calm.ofGot z8 (by
        apply getRanges_calm
        exact h0)
    exact k9
  · rename_i z10 z11 z12 z13
    have k14 : Calm a0 z11 := Calm.ofGot z13 (by
        apply getRanges_calm
        exact h0)
    extract_lets x15
    split
    · rename_i z16 z17 z18 z19
      have k20 := Calm.ofFst z19 (a := a0) (by
          apply blurReads_calm
          exact k14)
      extract_lets x21
      clear_value x21
      apply putRanges_calm
      exact k20

theorem execScatter_calm {a0 s : State} (h0 : Calm a0 s) (c : CtxIx) (seq : Nat) : OutCalm a0 (execScatter c seq s) := by
  unfold execScatter
  apply OutCalm.next
  split
  · rename_i z0 z1 z2 z3
    apply runScatter_calm
    exact h0
  · rename_i z4 z5
    exact h0

theorem scrambleShared_calm {a0 s : State} (h0 : Calm a0 s) (r : ItemRef) (lines : List Nat) : Calm a0 (scrambleShared s r lines) := by
  unfold scrambleShared
  apply Calm.fold
  · exact h0
  · intro y0 y1 y2
    apply scrambleAt_calm
    exact y2

theorem runAtomic_calm {a0 s : State} (h0 : Calm a0 s) (i : Item) (d : HaulD) : Calm a0 (runAtomic s i d) := by
  unfold runAtomic
  extract_lets x0 x1 x2
  clear_value x0
  clear_value x1
  clear_value x2
  split
  · rename_i z3 z4 z5 z6 z7 z8
    extract_lets x9
    clear_value x9
    split
    · rename_i z10 z11 z12 z13
      have k14 : Calm a0 z11 := Calm.ofGot z13 (by
          apply getRanges_calm
          exact h0)
      apply failItem_calm
      exact k14
    · rename_i z15 z16 z17
      have k18 : Calm a0 z16 := Calm.ofGot z17 (by
          apply getRanges_calm
          exact h0)
      exact k18
    · rename_i z19 z20 z21 z22
      have k23 : Calm a0 z20 := Calm.ofGot z22 (by
          apply getRanges_calm
          exact h0)
      split
      · rename_i z24 z25 z26 z27
        have k28 := Calm.ofFst z27 (a := a0) (by
            apply blurReads_calm
            exact k23)
        extract_lets x29 x30
        have k31 : Calm a0 x29 := by
          unfold x29
          apply State.modItem_calm
          exact k28
        clear_value x29
        clear_value x30
        split
        · rename_i z32 z33 z34 z35
          have k36 := Calm.ofFst z35 (a := a0) (by
              apply Calm.foldFst
              · exact k31
              · intro y37 y38 y39
                split
                · rename_i z40 z41 z42
                  split
                  · rename_i z43 z44 z45
                    exact y39
                  · rename_i z46 z47
                    apply itemAtomic_calm
                    exact y39)
          split
          · rename_i z48 z49
            have k50 := Calm.ofFst z35 (a := a0) (by
                apply Calm.foldFst
                · exact k31
                · intro y51 y52 y53
                  split
                  · rename_i z54 z55 z56
                    split
                    · rename_i z57 z58 z59
                      exact y53
                    · rename_i z60 z61
                      apply itemAtomic_calm
                      exact y53)
            apply failItem_calm
            exact k36
          · rename_i z62
            have k63 := Calm.ofFst z35 (a := a0) (by
                apply Calm.foldFst
                · exact k31
                · intro y64 y65 y66
                  split
                  · rename_i z67 z68 z69
                    split
                    · rename_i z70 z71 z72
                      exact y66
                    · rename_i z73 z74
                      apply itemAtomic_calm
                      exact y66)
            apply issued_calm
            apply scrambleShared_calm
            exact k36

theorem execAtomic_calm {a0 s : State} (h0 : Calm a0 s) (c : CtxIx) (seq : Nat) : OutCalm a0 (execAtomic c seq s) := by
  unfold execAtomic
  apply OutCalm.next
  split
  · rename_i z0 z1 z2 z3
    apply runAtomic_calm
    exact h0
  · rename_i z4 z5
    exact h0

theorem modEngines_calm {a0 s : State} (h0 : Calm a0 s) (l : Nat) (tipple : Bool) (f : List Engine → List Engine) : Calm a0 (modEngines s l tipple f) := by
  unfold modEngines
  exact Calm.put h0

theorem modQueue_calm {a0 s : State} (h0 : Calm a0 s) (l : Nat) (tipple : Bool) (f : List (Nat × Piece) → List (Nat × Piece)) : Calm a0 (modQueue s l tipple f) := by
  unfold modQueue
  exact Calm.put h0

theorem execLoadPieceDispatch_calm {a0 s : State} (h0 : Calm a0 s) (l : LandIx) (k : EngineKind) (arrival : Option Piece) : OutCalm a0 (execLoadPieceDispatch l k arrival s) := by
  unfold execLoadPieceDispatch
  apply OutCalm.next
  split
  · rename_i z0
    extract_lets x1 x2 x3
    clear_value x1
    have k4 : Calm a0 x2 := by
      unfold x2
      split
      · rename_i z5 z6
        split
        · rename_i z7
          apply modQueue_calm
          exact h0
        · rename_i z8
          exact h0
      · rename_i z9
        exact h0
    clear_value x2
    have k10 : Calm a0 x3 := by
      unfold x3
      apply modQueue_calm
      exact k4
    clear_value x3
    split
    · rename_i z11 z12
      exact k10
    · rename_i z13 z14 z15 z16 z17
      split
      · rename_i z18 z19
        exact k10
      · rename_i z20 z21 z22
        apply modEngines_calm
        apply modQueue_calm
        exact k10
  · rename_i z23
    exact h0

theorem freeEngine_calm {a0 s : State} (h0 : Calm a0 s) (l : Nat) (tipple : Bool) (e : Nat) : Calm a0 (freeEngine s l tipple e) := by
  unfold freeEngine
  apply modEngines_calm
  exact h0

theorem movePiece_calm {a0 s : State} (h0 : Calm a0 s) (l : Nat) (tipple : Bool) (e : Nat) (p : Piece) : Calm a0 (movePiece s l tipple e p) := by
  unfold movePiece
  split
  · rename_i z0
    split
    · rename_i z1
      exact h0
    · rename_i z2
      split
      · rename_i z3 z4 z5 z6
        have k7 : Calm a0 z4 := Calm.ofGot z6 (by
            apply getRanges_calm
            exact h0)
        apply freeEngine_calm
        apply failItem_calm
        exact k7
      · rename_i z8 z9 z10
        have k11 : Calm a0 z9 := Calm.ofGot z10 (by
            apply getRanges_calm
            exact h0)
        exact k11
      · rename_i z12 z13 z14 z15
        have k16 : Calm a0 z13 := Calm.ofGot z15 (by
            apply getRanges_calm
            exact h0)
        extract_lets x17 x18 x19 x20 x21 x22 x23 x24
        clear_value x17
        clear_value x18
        have k25 : Calm a0 x19 := by
          unfold x19
          apply State.modMem_calm
          exact k16
        clear_value x19
        clear_value x20
        have k26 : Calm a0 x21 := by
          unfold x21
          apply State.modItem_calm
          exact k25
        clear_value x21
        clear_value x22
        clear_value x23
        have k27 : Calm a0 x24 := by
          unfold x24
          apply Calm.fold
          · exact k26
          · intro y28 y29 y30
            split
            · rename_i z31 z32 z33
              apply countPantry_calm
              exact y30
        clear_value x24
        apply freeEngine_calm
        apply count_calm
        exact k27
  · rename_i z34
    split
    · rename_i z35
      exact h0
    · rename_i z36
      split
      · rename_i z37 z38 z39 z40
        have k41 : Calm a0 z38 := Calm.ofGot z40 (by
            apply getRanges_calm
            exact h0)
        apply freeEngine_calm
        apply failItem_calm
        exact k41
      · rename_i z42 z43 z44
        have k45 : Calm a0 z43 := Calm.ofGot z44 (by
            apply getRanges_calm
            exact h0)
        exact k45
      · rename_i z46 z47 z48 z49
        have k50 : Calm a0 z47 := Calm.ofGot z49 (by
            apply getRanges_calm
            exact h0)
        extract_lets x51 x52 x53 x54 x55 x56 x57 x58
        clear_value x51
        clear_value x52
        have k59 : Calm a0 x53 := by
          unfold x53
          apply State.modMem_calm
          exact k50
        clear_value x53
        clear_value x54
        have k60 : Calm a0 x55 := by
          unfold x55
          apply State.modItem_calm
          exact k59
        clear_value x55
        clear_value x56
        clear_value x57
        have k61 : Calm a0 x58 := by
          unfold x58
          apply Calm.fold
          · exact k60
          · intro y62 y63 y64
            split
            · rename_i z65 z66 z67
              apply countPantry_calm
              exact y64
        clear_value x58
        apply freeEngine_calm
        apply count_calm
        exact k61

theorem execEnginePieceComplete_calm {a0 s : State} (h0 : Calm a0 s) (l : LandIx) (k : EngineKind) (engine : Nat) : OutCalm a0 (execEnginePieceComplete l k engine s) := by
  unfold execEnginePieceComplete
  apply OutCalm.next
  extract_lets x0
  clear_value x0
  split
  · rename_i z1
    split
    · rename_i z2 z3 z4
      split
      · rename_i z5 z6 z7
        split
        · rename_i z8
          apply freeEngine_calm
          exact h0
        · rename_i z9
          apply movePiece_calm
          exact h0
      · rename_i z10 z11
        apply freeEngine_calm
        exact h0
    · rename_i z12 z13
      exact h0
  · rename_i z14
    exact h0

theorem execEngineClockStop_calm {a0 s : State} (h0 : Calm a0 s) (l : LandIx) (k : EngineKind) (engine : Nat) : OutCalm a0 (execEngineClockStop l k engine s) := by
  unfold execEngineClockStop
  apply OutCalm.next
  extract_lets x0 x1
  clear_value x0
  clear_value x1
  split
  · rename_i z2
    apply modEngines_calm
    apply State.upTo_calm
    exact h0
  · rename_i z3
    exact h0

/-! ## Machine/Bench.lean -/

theorem benchRows_calm {a0 s : State} (h0 : Calm a0 s) (t1 : Bool) (fmt : Nat) (cols : Nat) (bss : List (List Byte)) : Calm a0 (benchRows s t1 fmt cols bss).1 := by
  unfold benchRows
  exact h0

theorem benchRun_calm {a0 s : State} (h0 : Calm a0 s) (i : Item) (reads : List (Nat × Nat)) (dests : List (Nat × Nat)) (f : State →   List (List Byte) → State × Fl (List (Nat × List Byte))) (h_f : ∀ (q0 : State) (q1 : List (List Byte)), Calm a0 q0 → Calm a0 (f q0 q1).1) : Calm a0 (benchRun s i reads dests f) := by
  unfold benchRun
  split
  · rename_i z0 z1 z2 z3
    have k4 : Calm a0 z1 := Calm.ofGot z3 (by
        apply getRanges_calm
        exact h0)
    apply failItem_calm
    exact k4
  · rename_i z5 z6 z7
    have k8 : Calm a0 z6 := Calm.ofGot z7 (by
        apply getRanges_calm
        exact h0)
    exact k8
  · rename_i z9 z10 z11 z12
    have k13 : Calm a0 z10 := Calm.ofGot z12 (by
        apply getRanges_calm
        exact h0)
    split
    · rename_i z14 z15 z16 z17
      have k18 := Calm.ofFst z17 (a := a0) (by
          apply blurReads_calm
          exact k13)
      split
      · rename_i z19 z20 z21 z22
        have k23 := Calm.ofFst z22 (a := a0) (by
            apply h_f
            exact k18)
        apply putRanges_calm
        apply addFlags_calm
        exact k23

theorem normBwdOut_calm {a0 s : State} (h0 : Calm a0 s) (i : Item) (d : BenchD) (bss : List (List Byte)) : Calm a0 (normBwdOut s i d bss).1 := by
  unfold normBwdOut
  split
  · rename_i z0 z1 z2 z3
    have k4 := Calm.ofFst z3 (a := a0) (by
        apply benchRows_calm
        exact h0)
    split
    · rename_i z5 z6 z7 z8
      have k9 := Calm.ofFst z8 (a := a0) (by
          apply benchRows_calm
          exact k4)
      exact k9

theorem execNormBwd_calm {a0 s : State} (h0 : Calm a0 s) (c : CtxIx) (seq : Nat) : OutCalm a0 (execNormBwd c seq s) := by
  unfold execNormBwd
  apply OutCalm.next
  split
  · rename_i z0 z1 z2 z3
    extract_lets x4
    clear_value x4
    apply benchRun_calm
    · exact h0
    · intro y5 y6 y7
      apply normBwdOut_calm
      exact y7
  · rename_i z8 z9
    exact h0

theorem softmaxBwdOut_calm {a0 s : State} (h0 : Calm a0 s) (i : Item) (d : BenchD) (bss : List (List Byte)) : Calm a0 (softmaxBwdOut s i d bss).1 := by
  unfold softmaxBwdOut
  split
  · rename_i z0 z1 z2 z3
    have k4 := Calm.ofFst z3 (a := a0) (by
        apply benchRows_calm
        exact h0)
    split
    · rename_i z5 z6 z7 z8
      have k9 := Calm.ofFst z8 (a := a0) (by
          apply benchRows_calm
          exact k4)
      exact k9

theorem execSoftmaxBwd_calm {a0 s : State} (h0 : Calm a0 s) (c : CtxIx) (seq : Nat) : OutCalm a0 (execSoftmaxBwd c seq s) := by
  unfold execSoftmaxBwd
  apply OutCalm.next
  split
  · rename_i z0 z1 z2 z3
    apply benchRun_calm
    · exact h0
    · intro y4 y5 y6
      apply softmaxBwdOut_calm
      exact y6
  · rename_i z7 z8
    exact h0

theorem rowStatsOut_calm {a0 s : State} (h0 : Calm a0 s) (d : BenchD) (bss : List (List Byte)) : Calm a0 (rowStatsOut s d bss).1 := by
  unfold rowStatsOut
  split
  · rename_i z0 z1 z2 z3
    have k4 := Calm.ofFst z3 (a := a0) (by
        apply benchRows_calm
        exact h0)
    exact k4

theorem execRowStats_calm {a0 s : State} (h0 : Calm a0 s) (c : CtxIx) (seq : Nat) : OutCalm a0 (execRowStats c seq s) := by
  unfold execRowStats
  apply OutCalm.next
  split
  · rename_i z0 z1 z2 z3
    apply benchRun_calm
    · exact h0
    · intro y4 y5 y6
      apply rowStatsOut_calm
      exact y6
  · rename_i z7 z8
    exact h0

theorem execRubbleEncode_calm {a0 s : State} (h0 : Calm a0 s) (c : CtxIx) (seq : Nat) : OutCalm a0 (execRubbleEncode c seq s) := by
  unfold execRubbleEncode
  apply OutCalm.next
  split
  · rename_i z0 z1 z2 z3
    apply benchRun_calm
    · exact h0
    · intro y4 y5 y6
      exact y6
  · rename_i z7 z8
    exact h0

theorem runRubbleDecode_calm {a0 s : State} (h0 : Calm a0 s) (i : Item) (d : BenchD) : Calm a0 (runRubbleDecode s i d) := by
  unfold runRubbleDecode
  split
  · rename_i z0 z1 z2 z3
    have k4 : Calm a0 z1 := Calm.ofGot z3 (by
        apply getRanges_calm
        exact h0)
    apply failItem_calm
    exact k4
  · rename_i z5 z6 z7
    have k8 : Calm a0 z6 := Calm.ofGot z7 (by
        apply getRanges_calm
        exact h0)
    exact k8
  · rename_i z9 z10 z11 z12
    have k13 : Calm a0 z10 := Calm.ofGot z12 (by
        apply getRanges_calm
        exact h0)
    extract_lets x14 x15
    clear_value x14
    clear_value x15
    apply benchRun_calm
    · exact k13
    · intro y16 y17 y18
      exact y18

theorem execRubbleDecode_calm {a0 s : State} (h0 : Calm a0 s) (c : CtxIx) (seq : Nat) : OutCalm a0 (execRubbleDecode c seq s) := by
  unfold execRubbleDecode
  apply OutCalm.next
  split
  · rename_i z0 z1 z2 z3
    apply runRubbleDecode_calm
    exact h0
  · rename_i z4 z5
    exact h0

theorem copyRoundOut_calm {a0 s : State} (h0 : Calm a0 s) (i : Item) (d : BenchD) (bss : List (List Byte)) : Calm a0 (copyRoundOut s i d bss).1 := by
  unfold copyRoundOut
  extract_lets x0 x1
  clear_value x0
  clear_value x1
  split
  · rename_i z2 z3 z4 z5
    have k6 := Calm.ofFst z5 (a := a0) (by
        apply benchRows_calm
        exact h0)
    exact k6

theorem execCopyRound_calm {a0 s : State} (h0 : Calm a0 s) (c : CtxIx) (seq : Nat) : OutCalm a0 (execCopyRound c seq s) := by
  unfold execCopyRound
  apply OutCalm.next
  split
  · rename_i z0 z1 z2 z3
    apply benchRun_calm
    · exact h0
    · intro y4 y5 y6
      apply copyRoundOut_calm
      exact y6
  · rename_i z7 z8
    exact h0

theorem modCore_calm {a0 s : State} (h0 : Calm a0 s) (d : Nat) (k : Nat) (f : Core → Core) : Calm a0 (modCore s d k f) := by
  unfold modCore
  apply State.modDie_calm
  exact h0

theorem execBenchCoreStop_calm {a0 s : State} (h0 : Calm a0 s) (d : DieIx) (core : DieIx) : OutCalm a0 (execBenchCoreStop d core s) := by
  unfold execBenchCoreStop
  apply OutCalm.next
  extract_lets x0
  clear_value x0
  split
  · rename_i z1
    apply modCore_calm
    apply State.upTo_calm
    exact h0
  · rename_i z2
    exact h0

theorem execBenchCoreWake_calm {a0 s : State} (h0 : Calm a0 s) (d : DieIx) (core : DieIx) : OutCalm a0 (execBenchCoreWake d core s) := by
  unfold execBenchCoreWake
  apply OutCalm.next
  extract_lets x0
  clear_value x0
  split
  · rename_i z1
    apply modCore_calm
    apply State.upTo_calm
    exact h0
  · rename_i z2
    exact h0

theorem preempted_calm {a0 s : State} (h0 : Calm a0 s) (d : Nat) (r : ItemRef) : Calm a0 (preempted s d r) := by
  unfold preempted
  apply count_calm
  exact h0

theorem takeFromItem_calm {a0 s : State} (h0 : Calm a0 s) (d : Nat) (k : Nat) (r : ItemRef) (o : CoreOwner) : Calm a0 (takeFromItem s d k r o) := by
  unfold takeFromItem
  extract_lets x0
  have k1 : Calm a0 x0 := by
    unfold x0
    apply noteWork_calm
    apply State.modDie_calm
    exact h0
  clear_value x0
  apply preempted_calm
  apply State.modItem_calm
  apply modCore_calm
  exact k1

theorem collShed_calm {a0 s : State} (h0 : Calm a0 s) (d : Nat) : Calm a0 (collShed s d) := by
  unfold collShed
  extract_lets x0
  clear_value x0
  apply giveBack_calm
  apply Calm.fold
  · exact h0
  · intro y1 y2 y3
    apply modCore_calm
    exact y3

theorem collTake_calm {a0 s : State} (h0 : Calm a0 s) (d : Nat) (k : Nat) : Calm a0 (collTake s d k) := by
  unfold collTake
  extract_lets x0
  have k1 : Calm a0 x0 := by
    unfold x0
    apply collGrab_calm
    apply collShed_calm
    exact h0
  clear_value x0
  split
  · rename_i z2 z3 z4
    split
    · rename_i z5
      apply takeFromItem_calm
      exact k1
    · rename_i z6
      exact k1
  · rename_i z7 z8
    exact k1

theorem replayTake_calm {a0 s : State} (h0 : Calm a0 s) (d : Nat) : Calm a0 (replayTake s d) := by
  unfold replayTake
  extract_lets x0 x1
  clear_value x0
  split
  · rename_i z2
    exact h0
  · rename_i z3
    split
    · rename_i z4 z5
      dsimp only [x1]
      apply State.modDie_calm
      apply ownCores_calm
      exact h0
    · rename_i z6 z7 z8
      dsimp only [x1]
      apply State.modDie_calm
      apply takeFromItem_calm
      exact h0
    · rename_i z9 z10 z11
      exact h0

theorem replayGive_calm {a0 s : State} (h0 : Calm a0 s) (d : Nat) : Calm a0 (replayGive s d) := by
  unfold replayGive
  extract_lets x0
  have k1 : Calm a0 x0 := by
    unfold x0
    split
    · rename_i z2 z3 z4
      apply State.modFace_calm
      exact h0
    · rename_i z5 z6
      exact h0
  clear_value x0
  apply giveBack_calm
  apply modCore_calm
  exact k1

theorem execBenchQuantum_calm {a0 s : State} (h0 : Calm a0 s) (d : DieIx) (core : DieIx) (replay : Bool) : OutCalm a0 (execBenchQuantum d core replay s) := by
  unfold execBenchQuantum
  apply OutCalm.next
  split
  · rename_i z0
    extract_lets x1 x2 x3
    have k4 : Calm a0 x1 := by
      unfold x1
      apply State.upTo_calm
      exact h0
    clear_value x1
    have k5 : Calm a0 x2 := by
      unfold x2
      split
      · rename_i z6
        apply State.modDie_calm
        exact k4
      · rename_i z7
        exact k4
    clear_value x2
    have k8 : Calm a0 x3 := by
      unfold x3
      split
      · rename_i z9
        apply replayTake_calm
        exact k5
      · rename_i z10
        exact k5
    clear_value x3
    split
    · rename_i z11 z12 z13
      apply replayGive_calm
      exact k5
    · rename_i z14 z15
      split
      · rename_i z16 z17 z18
        exact k8
      · rename_i z19 z20
        apply collTake_calm
        exact k8
  · rename_i z21
    exact h0

/-! ## Machine/Train.lean -/

theorem takeNorm_calm {a0 s : State} (h0 : Calm a0 s) (i : Item) (d : UpdateD) (bs : List Byte) : Calm a0 (takeNorm s i d bs) := by
  unfold takeNorm
  extract_lets x0 x1 x2
  clear_value x0
  clear_value x1
  clear_value x2
  split
  · rename_i z3
    apply readAgain_calm
    exact h0
  · rename_i z4
    split
    · rename_i z5
      apply endItem_calm
      exact h0
    · rename_i z6
      apply State.modItem_calm
      apply addFlags_calm
      exact h0

theorem pollNorm_calm {a0 s : State} (h0 : Calm a0 s) (i : Item) : Calm a0 (pollNorm s i) := by
  unfold pollNorm
  extract_lets x0
  clear_value x0
  split
  · rename_i z1 z2 z3 z4
    have k5 := Calm.ofFst z4 (a := a0) (by
        apply itemRead_calm
        exact h0)
    apply takeNorm_calm
    apply acquire_calm
    exact k5
  · rename_i z6 z7 z8 z9
    have k10 := Calm.ofFst z9 (a := a0) (by
        apply itemRead_calm
        exact h0)
    apply failItem_calm
    exact k10
  · rename_i z11 z12 z13
    have k14 := Calm.ofFst z13 (a := a0) (by
        apply itemRead_calm
        exact h0)
    exact k14

theorem tryClaim_calm {a0 s : State} (h0 : Calm a0 s) (i : Item) : Calm a0 (tryClaim s i) := by
  unfold tryClaim
  extract_lets x0
  clear_value x0
  split
  · rename_i z1
    exact h0
  · rename_i z2
    split
    · rename_i z3 z4 z5 z6
      have k7 := Calm.ofFst z6 (a := a0) (by
          apply readRecord_calm
          exact h0)
      apply failItem_calm
      exact k7
    · rename_i z8 z9 z10
      have k11 := Calm.ofFst z10 (a := a0) (by
          apply readRecord_calm
          exact h0)
      exact k11
    · rename_i z12 z13 z14 z15
      have k16 := Calm.ofFst z15 (a := a0) (by
          apply readRecord_calm
          exact h0)
      extract_lets x17
      clear_value x17
      split
      · rename_i z18 z19
        apply forgetLine_calm
        exact k16
      · rename_i z20 z21 z22
        extract_lets x23
        have k24 : Calm a0 x23 := by
          unfold x23
          apply State.modItem_calm
          exact k16
        clear_value x23
        split
        · rename_i z25 z26 z27 z28
          have k29 := Calm.ofFst z28 (a := a0) (by
              apply casRecord_calm
              exact k24)
          split
          · rename_i z30
            apply claimHeld_calm
            exact k29
          · rename_i z31
            apply forgetLine_calm
            exact k29
        · rename_i z32 z33 z34
          have k35 := Calm.ofFst z34 (a := a0) (by
              apply casRecord_calm
              exact k24)
          exact k35
        · rename_i z36 z37 z38 z39
          have k40 := Calm.ofFst z39 (a := a0) (by
              apply casRecord_calm
              exact k24)
          apply failItem_calm
          exact k40

theorem startUpdate_calm {a0 s : State} (h0 : Calm a0 s) (i : Item) : Calm a0 (startUpdate s i) := by
  unfold startUpdate
  extract_lets x0 x1 x2
  clear_value x0
  have k3 : Calm a0 x1 := by
    unfold x1
    apply startItem_calm
    exact h0
  clear_value x1
  have k4 : Calm a0 x2 := by
    unfold x2
    apply State.modItem_calm
    exact k3
  clear_value x2
  split
  · rename_i z5
    apply pollNorm_calm
    exact k4
  · rename_i z6
    apply tryClaim_calm
    exact k4

theorem recordWrite_calm {a0 s : State} (h0 : Calm a0 s) (i : Item) (a : Nat) (bs : List Byte) : Calm a0 (recordWrite s i a bs).1 := by
  unfold recordWrite
  split
  · rename_i z0
    split
    · rename_i z1 z2 z3 z4
      have k5 := Calm.ofFst z4 (a := a0) (by
          apply reachHome_calm
          exact h0)
      split
      · rename_i z6
        have k7 := Calm.ofFst z4 (a := a0) (by
            apply reachHome_calm
            exact h0)
        split
        · rename_i z8 z9 z10 z11
          have k12 := Calm.ofFst z11 (a := a0) (by
              apply State.request_calm
              exact k5)
          dsimp only
          apply State.modItem_calm
          exact k12
      · rename_i z13 z14
        exact k5
  · rename_i z15
    split
    · rename_i z16 z17 z18 z19
      have k20 := Calm.ofFst z19 (a := a0) (by
          apply State.request_calm
          exact h0)
      dsimp only
      apply State.modItem_calm
      exact k20
    · rename_i z21 z22 z23
      have k24 := Calm.ofFst z23 (a := a0) (by
          apply State.request_calm
          exact h0)
      exact k24

theorem writeUpdate_calm {a0 s : State} (h0 : Calm a0 s) (i : Item) (d : UpdateD) (ws : List W64) (buf : Nat) (reads : List (Nat × Nat)) (o : UpdateOut) : Calm a0 (writeUpdate s i d ws buf reads o) := by
  unfold writeUpdate
  extract_lets x0 x1
  clear_value x0
  clear_value x1
  split
  · rename_i z2 z3 z4 z5
    have k6 := Calm.ofFst z5 (a := a0) (by
        apply recordWrite_calm
        exact h0)
    apply failItem_calm
    exact k6
  · rename_i z7 z8 z9
    have k10 := Calm.ofFst z9 (a := a0) (by
        apply recordWrite_calm
        exact h0)
    split
    · rename_i z11 z12 z13 z14
      have k15 := Calm.ofFst z14 (a := a0) (by
          apply blurWrites_calm
          exact k10)
      split
      · rename_i z16 z17 z18 z19
        have k20 := Calm.ofFst z19 (a := a0) (by
            apply writeRanges_calm
            exact k15)
        apply failItem_calm
        exact k20
      · rename_i z21 z22 z23
        have k24 := Calm.ofFst z23 (a := a0) (by
            apply writeRanges_calm
            exact k15)
        apply State.modItem_calm
        exact k24

theorem runUpdate_calm {a0 s : State} (h0 : Calm a0 s) (i : Item) : Calm a0 (runUpdate s i) := by
  unfold runUpdate
  extract_lets x0 x1 x2
  clear_value x0
  clear_value x1
  clear_value x2
  split
  · rename_i z3 z4
    exact h0
  · rename_i z5 z6 z7 z8
    split
    · rename_i z9 z10 z11 z12
      have k13 := Calm.ofFst z12 (a := a0) (by
          apply readRecord_calm
          exact h0)
      apply failItem_calm
      exact k13
    · rename_i z14 z15 z16
      have k17 := Calm.ofFst z16 (a := a0) (by
          apply readRecord_calm
          exact h0)
      exact k17
    · rename_i z18 z19 z20 z21
      have k22 := Calm.ofFst z21 (a := a0) (by
          apply readRecord_calm
          exact h0)
      extract_lets x23 x24
      clear_value x23
      clear_value x24
      split
      · rename_i z25 z26 z27 z28
        have k29 : Calm a0 z26 := Calm.ofGot z28 (by
            apply getRanges_calm
            exact k22)
        apply failItem_calm
        exact k29
      · rename_i z30 z31 z32
        have k33 : Calm a0 z31 := Calm.ofGot z32 (by
            apply getRanges_calm
            exact k22)
        exact k33
      · rename_i z34 z35 z36 z37
        have k38 : Calm a0 z35 := Calm.ofGot z37 (by
            apply getRanges_calm
            exact k22)
        split
        · rename_i z39 z40 z41 z42
          have k43 := Calm.ofFst z42 (a := a0) (by
              apply blurReads_calm
              exact k38)
          extract_lets x44 x45
          clear_value x44
          clear_value x45
          apply writeUpdate_calm
          apply addFlags_calm
          exact k43

theorem execUpdate_calm {a0 s : State} (h0 : Calm a0 s) (c : CtxIx) (seq : Nat) : OutCalm a0 (execUpdate c seq s) := by
  unfold execUpdate
  apply OutCalm.next
  split
  · rename_i z0 z1 z2
    split
    · rename_i z3
      apply startUpdate_calm
      exact h0
    · rename_i z4
      split
      · rename_i z5
        apply runUpdate_calm
        exact h0
      · rename_i z6
        exact h0
  · rename_i z7 z8
    exact h0

theorem execNormCellPoll_calm {a0 s : State} (h0 : Calm a0 s) (c : CtxIx) (seq : Nat) : OutCalm a0 (execNormCellPoll c seq s) := by
  unfold execNormCellPoll
  apply OutCalm.next
  split
  · rename_i z0 z1 z2
    split
    · rename_i z3
      apply pollNorm_calm
      exact h0
    · rename_i z4
      exact h0
  · rename_i z5 z6
    exact h0

theorem execUpdateClaimPoll_calm {a0 s : State} (h0 : Calm a0 s) (c : CtxIx) (seq : Nat) : OutCalm a0 (execUpdateClaimPoll c seq s) := by
  unfold execUpdateClaimPoll
  apply OutCalm.next
  split
  · rename_i z0 z1 z2
    apply tryClaim_calm
    apply State.upTo_calm
    exact h0
  · rename_i z3 z4
    exact h0

theorem flushOwned_calm {a0 s : State} (h0 : Calm a0 s) (i : Item) : Calm a0 (flushOwned s i) := by
  unfold flushOwned
  extract_lets x0 x1
  have k2 : Calm a0 x0.s := by
    unfold x0
    apply writeBackAll_calm
    exact h0
  clear_value x0
  have k3 : Calm a0 x1 := by
    unfold x1
    apply State.modItem_calm
    exact k2
  clear_value x1
  split
  · rename_i z4 z5 z6
    apply failItem_calm
    exact k3
  · rename_i z7 z8
    exact k3

theorem commitBuffer_calm {a0 s : State} (h0 : Calm a0 s) (i : Item) (a : Nat) (b : Nat) : Calm a0 (commitBuffer s i a b) := by
  unfold commitBuffer
  split
  · rename_i z0 z1 z2 z3
    have k4 := Calm.ofFst z3 (a := a0) (by
        apply readRecord_calm
        exact h0)
    apply failItem_calm
    exact k4
  · rename_i z5 z6 z7
    have k8 := Calm.ofFst z7 (a := a0) (by
        apply readRecord_calm
        exact h0)
    exact k8
  · rename_i z9 z10 z11 z12
    have k13 := Calm.ofFst z12 (a := a0) (by
        apply readRecord_calm
        exact h0)
    extract_lets x14
    clear_value x14
    split
    · rename_i z15 z16 z17 z18
      have k19 := Calm.ofFst z18 (a := a0) (by
          apply casRecord_calm
          exact k13)
      split
      · rename_i z20
        apply committed_calm
        exact k19
      · rename_i z21
        apply forgetLine_calm
        exact k19
    · rename_i z22 z23 z24
      have k25 := Calm.ofFst z24 (a := a0) (by
          apply casRecord_calm
          exact k13)
      exact k25
    · rename_i z26 z27 z28 z29
      have k30 := Calm.ofFst z29 (a := a0) (by
          apply casRecord_calm
          exact k13)
      apply failItem_calm
      exact k30

theorem ratioFailed_calm {a0 s : State} (h0 : Calm a0 s) (i : Item) (d : UpdateD) (rho : W64) : Calm a0 (ratioFailed s i d rho) := by
  unfold ratioFailed
  extract_lets x0
  have k1 : Calm a0 x0 := by
    unfold x0
    apply raiseError_calm
    exact h0
  clear_value x0
  apply endItem_calm
  exact k1

theorem tryCommit_calm {a0 s : State} (h0 : Calm a0 s) (i : Item) : Calm a0 (tryCommit s i) := by
  unfold tryCommit
  extract_lets x0 x1
  clear_value x0
  clear_value x1
  split
  · rename_i z2 z3
    exact h0
  · rename_i z4 z5 z6 z7
    split
    · rename_i z8
      exact h0
    · rename_i z9
      split
      · rename_i z10
        apply ratioFailed_calm
        exact h0
      · rename_i z11
        apply commitBuffer_calm
        exact h0

theorem execUpdateCommit_calm {a0 s : State} (h0 : Calm a0 s) (c : CtxIx) (seq : Nat) : OutCalm a0 (execUpdateCommit c seq s) := by
  unfold execUpdateCommit
  apply OutCalm.next
  split
  · rename_i z0 z1 z2
    split
    · rename_i z3
      extract_lets x4
      have k5 : Calm a0 x4 := by
        unfold x4
        apply flushOwned_calm
        apply goStaged_calm
        exact h0
      clear_value x4
      split
      · rename_i z6 z7 z8
        apply tryCommit_calm
        exact k5
      · rename_i z9 z10
        exact k5
    · rename_i z11
      exact h0
  · rename_i z12 z13
    exact h0

end Sys2Proof.Machine
end

