-- ==== Sys2Proof/Laws/CalmColl.lean ====
section
/-! SUPPORT. What each operation leaves of the device (Calm): collectives, the Hearth, the front end and the Attic. -/

set_option Elab.async false
set_option linter.unusedVariables false

namespace Sys2Proof.Machine

/-! ## Machine/Coll.lean -/

theorem State.modColl_calm {a0 s : State} (h0 : Calm a0 s) (group : Nat) (number : Nat) (f : Coll → Coll) : Calm a0 (State.modColl s group number f) := by
  unfold State.modColl
  exact Calm.put h0

theorem modCollOf_calm {a0 s : State} (h0 : Calm a0 s) (r : ItemRef) (f : Coll → Coll) : Calm a0 (modCollOf s r f) := by
  unfold modCollOf
  exact Calm.put h0

theorem sendColl_calm {a0 s : State} (h0 : Calm a0 s) (r : CollRun) (number : Nat) (dest : Nat) (key : CollKey) (offset : Nat) (version : Nat) (chunk : Nat) (seq : Nat) (bs : List Byte) : Calm a0 (sendColl s r number dest key offset version chunk seq bs) := by
  unfold sendColl
  extract_lets x0
  clear_value x0
  apply State.sendPacket_calm
  exact h0

theorem sendChunk_calm {a0 s : State} (h0 : Calm a0 s) (r : CollRun) (number : Nat) (version : Nat) (o : CollOwed) : Calm a0 (sendChunk s r number version o) := by
  unfold sendChunk
  extract_lets x0
  clear_value x0
  apply Calm.fold
  · exact h0
  · intro y1 y2 y3
    split
    · rename_i z4 z5 z6
      apply sendColl_calm
      exact y3

theorem sendAck_calm {a0 s : State} (h0 : Calm a0 s) (r : CollRun) (number : Nat) (version : Nat) (dest : Nat) (key : CollKey) (m : Nat) : Calm a0 (sendAck s r number version dest key m) := by
  unfold sendAck
  apply sendColl_calm
  exact h0

theorem sendMsg_calm {a0 s : State} (h0 : Calm a0 s) (dev : Nat) (typ : Nat) (words : List W64) (body : List Byte) : Calm a0 (sendMsg s dev typ words body) := by
  unfold sendMsg
  extract_lets x0 x1
  clear_value x0
  clear_value x1
  apply State.sendPacket_calm
  exact h0

theorem sendNotUsed_calm {a0 s : State} (h0 : Calm a0 s) (r : CollRun) (number : Nat) (dest : Nat) (key : CollKey) (m : Nat) : Calm a0 (sendNotUsed s r number dest key m) := by
  unfold sendNotUsed
  apply sendMsg_calm
  exact h0

theorem dropChunk_calm {a0 s : State} (h0 : Calm a0 s) (item : ItemRef) (key : CollKey) (src : Nat) (lo : Nat) (hi : Nat) : Calm a0 (dropChunk s item key src lo hi) := by
  unfold dropChunk
  apply modCollOf_calm
  exact h0

theorem discardCopy_calm {a0 s : State} (h0 : Calm a0 s) (r : CollRun) (x : Coll) (src : Nat) (m : Nat) : Calm a0 (discardCopy s r x src m) := by
  unfold discardCopy
  split
  · rename_i z0
    exact h0
  · rename_i z1
    extract_lets x2 x3 x4
    clear_value x2
    clear_value x3
    have k5 : Calm a0 x4 := by
      unfold x4
      apply modCollOf_calm
      apply dropChunk_calm
      exact h0
    clear_value x4
    apply sendAck_calm
    apply sendNotUsed_calm
    exact k5

theorem settleSlot_calm {a0 s : State} (h0 : Calm a0 s) (r : CollRun) (k : Nat) (m : Nat) : Calm a0 (settleSlot s r k m) := by
  unfold settleSlot
  extract_lets x0 x1
  clear_value x0
  split
  · rename_i z2 z3
    exact h0
  · rename_i z4 z5 z6
    split
    · rename_i z7 z8 z9
      dsimp only [x1]
      apply Calm.fold
      · exact h0
      · intro y10 y11 y12
        split
        · rename_i z13
          exact y12
        · rename_i z14
          split
          · rename_i z15 z16 z17
            apply discardCopy_calm
            exact y12
          · rename_i z18 z19
            exact y12
    · rename_i z20 z21
      split
      · rename_i z22 z23 z24
        dsimp only [x1]
        apply Calm.fold
        · apply modCollOf_calm
          exact h0
        · intro y25 y26 y27
          split
          · rename_i z28
            exact y27
          · rename_i z29
            split
            · rename_i z30 z31 z32
              apply discardCopy_calm
              exact y27
            · rename_i z33 z34
              exact y27
      · rename_i z35 z36
        exact h0

theorem settleSlots_calm {a0 s : State} (h0 : Calm a0 s) (r : CollRun) : Calm a0 (settleSlots s r) := by
  unfold settleSlots
  split
  · rename_i z0
    exact h0
  · rename_i z1
    apply Calm.fold
    · exact h0
    · intro y2 y3 y4
      apply Calm.fold
      · exact y4
      · intro y5 y6 y7
        apply settleSlot_calm
        exact y7

theorem readSource_calm {a0 s : State} (h0 : Calm a0 s) (r : CollRun) (rs : List (Nat × Nat)) : Calm a0 (readSource s r rs).1 := by
  unfold readSource
  split
  · rename_i z0 z1 z2 z3 z4
    have k5 := Calm.ofFst z4 (a := a0) (by
        apply itemReads_calm
        exact h0)
    extract_lets x6
    have k7 : Calm a0 x6.1 := by
      unfold x6
      apply Calm.foldFst
      · exact k5
      · intro y8 y9 y10
        split
        · rename_i z11 z12 z13 z14
          have k15 := Calm.ofFst z14 (a := a0) (by
              apply blur_calm
              exact y10)
          exact k15
    clear_value x6
    exact k7
  · rename_i z16 z17
    apply itemReads_calm
    exact h0

theorem readContribution_calm {a0 s : State} (h0 : Calm a0 s) (r : CollRun) (rs : List (Nat × Nat)) : Calm a0 (readContribution s r rs).1 := by
  unfold readContribution
  split
  · rename_i z0 z1 z2 z3 z4
    have k5 := Calm.ofFst z4 (a := a0) (by
        apply readSource_calm
        exact h0)
    exact k5
  · rename_i z6 z7 z8 z9
    have k10 := Calm.ofFst z9 (a := a0) (by
        apply readSource_calm
        exact h0)
    exact k10

theorem collBytes_calm {a0 s : State} (h0 : Calm a0 s) (r : CollRun) (x : Coll) (f : Flow) (m : Nat) (lo : Nat) (hi : Nat) (src : CollIn) : Calm a0 (collBytes s r x f m lo hi src).1 := by
  unfold collBytes
  split
  · rename_i z0 z1
    exact h0
  · rename_i z2 z3
    exact h0
  · rename_i z4 z5
    exact h0
  · rename_i z6
    exact h0
  · rename_i z7
    exact h0
  · rename_i z8
    exact h0
  · rename_i z9
    extract_lets x10
    clear_value x10
    split
    · rename_i z11 z12 z13 z14 z15
      have k16 := Calm.ofFst z15 (a := a0) (by
          apply readContribution_calm
          exact h0)
      exact k16
    · rename_i z17 z18 z19 z20
      have k21 := Calm.ofFst z20 (a := a0) (by
          apply readContribution_calm
          exact h0)
      exact k21
  · rename_i z22 z23
    split
    · rename_i z24
      extract_lets x25
      clear_value x25
      split
      · rename_i z26 z27 z28 z29 z30
        have k31 := Calm.ofFst z30 (a := a0) (by
            apply readSource_calm
            exact h0)
        exact k31
      · rename_i z32 z33 z34 z35
        have k36 := Calm.ofFst z35 (a := a0) (by
            apply readSource_calm
            exact h0)
        exact k36
    · rename_i z37
      split
      · rename_i z38 z39 z40 z41 z42
        have k43 := Calm.ofFst z42 (a := a0) (by
            apply readSource_calm
            exact h0)
        exact k43
      · rename_i z44 z45 z46 z47
        have k48 := Calm.ofFst z47 (a := a0) (by
            apply readSource_calm
            exact h0)
        exact k48

theorem allBytes_calm {a0 s : State} (h0 : Calm a0 s) (r : CollRun) (x : Coll) (f : Flow) (m : Nat) (lo : Nat) (hi : Nat) : Calm a0 (allBytes s r x f m lo hi).1 := by
  unfold allBytes
  apply Calm.foldFst
  · exact h0
  · intro y0 y1 y2
    split
    · rename_i z3 z4
      exact y2
    · rename_i z5 z6 z7
      split
      · rename_i z8 z9 z10 z11 z12
        have k13 := Calm.ofFst z12 (a := a0) (by
            apply collBytes_calm
            exact y2)
        exact k13
      · rename_i z14 z15 z16 z17
        have k18 := Calm.ofFst z17 (a := a0) (by
            apply collBytes_calm
            exact y2)
        exact k18

theorem writeAt_calm {a0 s : State} (h0 : Calm a0 s) (i : Item) (rs : List (Nat × Nat)) (bs : List Byte) : Calm a0 (writeAt s i rs bs).1 := by
  unfold writeAt
  split
  · rename_i z0 z1 z2 z3 z4
    have k5 := Calm.ofFst z4 (a := a0) (by
        apply Calm.foldFst
        · exact h0
        · intro y6 y7 y8
          split
          · rename_i z9 z10 z11 z12
            have k13 := Calm.ofFst z12 (a := a0) (by
                apply itemWrite_calm
                exact y8)
            exact k13)
    exact k5

theorem writeOut_calm {a0 s : State} (h0 : Calm a0 s) (r : CollRun) (rs : List (Nat × Nat)) (bs : List Byte) : Calm a0 (writeOut s r rs bs).1 := by
  unfold writeOut
  split
  · rename_i z0 z1 z2 z3
    have k4 := Calm.ofFst z3 (a := a0) (by
        apply writeAt_calm
        exact h0)
    dsimp only
    split
    · rename_i z5
      apply State.modItem_calm
      exact k4
    · rename_i z6
      exact k4

theorem leaveChunk_calm {a0 s : State} (h0 : Calm a0 s) (r : CollRun) (f : Flow) (m : Nat) (lo : Nat) (hi : Nat) (bs : List Byte) : Calm a0 (leaveChunk s r f m lo hi bs).1 := by
  unfold leaveChunk
  extract_lets x0 x1 x2
  clear_value x1
  clear_value x2
  split
  · rename_i z3 z4
    exact h0
  · rename_i z5 z6
    dsimp only [x0]
    apply modCollOf_calm
    exact h0
  · rename_i z7 z8 z9
    split
    · rename_i z10 z11 z12 z13
      have k14 := Calm.ofFst z13 (a := a0) (by
          apply writeOut_calm
          apply addFlags_calm
          exact h0)
      dsimp only
      apply modCollOf_calm
      exact k14
  · rename_i z15 z16 z17
    apply writeOut_calm
    exact h0
  · rename_i z18 z19
    dsimp only [x0]
    apply modCollOf_calm
    exact h0
  · rename_i z20 z21
    dsimp only [x0]
    apply modCollOf_calm
    exact h0
  · rename_i z22 z23 z24
    dsimp only [x0]
    apply modCollOf_calm
    exact h0

theorem sendOwed_calm {a0 s : State} (h0 : Calm a0 s) (r : CollRun) : Calm a0 (sendOwed s r) := by
  unfold sendOwed
  split
  · rename_i z0 z1
    exact h0
  · rename_i z2 z3 z4
    apply Calm.fold
    · exact h0
    · intro y5 y6 y7
      split
      · rename_i z8 z9 z10
        split
        · rename_i z11
          apply modCollOf_calm
          apply sendChunk_calm
          exact y7
        · rename_i z12
          exact y7
      · rename_i z13 z14
        exact y7

theorem emitChunk_calm {a0 s : State} (h0 : Calm a0 s) (r : CollRun) (x : Coll) (f : Flow) (m : Nat) (lo : Nat) (hi : Nat) (bs : List Byte) : Calm a0 (emitChunk s r x f m lo hi bs) := by
  unfold emitChunk
  split
  · rename_i z0 z1 z2 z3
    have k4 := Calm.ofFst z3 (a := a0) (by
        apply leaveChunk_calm
        exact h0)
    apply failItem_calm
    exact k4
  · rename_i z5 z6 z7
    have k8 := Calm.ofFst z7 (a := a0) (by
        apply leaveChunk_calm
        exact h0)
    extract_lets x9
    have k10 : Calm a0 x9 := by
      unfold x9
      apply Calm.fold
      · exact k8
      · intro y11 y12 y13
        apply sendAck_calm
        apply dropChunk_calm
        exact y13
    clear_value x9
    apply sendOwed_calm
    apply modCollOf_calm
    exact k10

theorem stepFlow_calm {a0 s : State} (h0 : Calm a0 s) (r : CollRun) (f : Flow) : Calm a0 (stepFlow s r f).1 := by
  unfold stepFlow
  split
  · rename_i z0 z1
    exact h0
  · rename_i z2 z3 z4
    extract_lets x5 x6 x7
    clear_value x5
    clear_value x6
    clear_value x7
    split
    · rename_i z8
      exact h0
    · rename_i z9
      split
      · rename_i z10 z11 z12 z13 z14
        have k15 := Calm.ofFst z14 (a := a0) (by
            apply allBytes_calm
            exact h0)
        dsimp only
        apply failItem_calm
        exact k15
      · rename_i z16 z17 z18
        have k19 := Calm.ofFst z18 (a := a0) (by
            apply allBytes_calm
            exact h0)
        exact k19
      · rename_i z20 z21 z22 z23
        have k24 := Calm.ofFst z23 (a := a0) (by
            apply allBytes_calm
            exact h0)
        split
        · rename_i z25
          exact k24
        · rename_i z26
          extract_lets x27
          clear_value x27
          dsimp only
          apply emitChunk_calm
          apply addFlags_calm
          exact k24

theorem runFlows_calm {a0 v1 : State} (h0 : Calm a0 v1) (v0 : Nat) (v2 : CollRun) (v3 : List Flow) : Calm a0 (runFlows v0 v1 v2 v3) := by
  induction v0 generalizing v1 v2 v3 with
  | zero =>
    unfold runFlows
    exact h0
  | succ n ih =>
    unfold runFlows
    split
    · rename_i z0 z1 z2 z3
      have k4 := Calm.ofFst z3 (a := a0) (by
          apply Calm.foldFst
          · dsimp only
            apply sendOwed_calm
            exact h0
          · intro y5 y6 y7
            split
            · rename_i z8 z9 z10 z11
              have k12 := Calm.ofFst z11 (a := a0) (by
                  apply stepFlow_calm
                  exact y7)
              exact k12)
      split
      · rename_i z13
        apply ih
        exact k4
      · rename_i z14
        exact k4

theorem sendBlocks_calm {a0 s : State} (h0 : Calm a0 s) (r : CollRun) (bs : List (List Byte)) : Calm a0 (sendBlocks s r bs) := by
  unfold sendBlocks
  split
  · rename_i z0 z1 z2
    apply Calm.fold
    · exact h0
    · intro y3 y4 y5
      apply State.sendPacket_calm
      exact y5
  · rename_i z6 z7
    exact h0

theorem finishBlock_calm {a0 s : State} (h0 : Calm a0 s) (r : CollRun) (b : List Byte) : Calm a0 (finishBlock s r b) := by
  unfold finishBlock
  extract_lets x0 x1 x2 x3
  clear_value x0
  clear_value x1
  clear_value x2
  clear_value x3
  split
  · rename_i z4
    apply modCollOf_calm
    exact h0
  · rename_i z5
    apply modCollOf_calm
    apply addFlags_calm
    exact h0

theorem localBlock_calm {a0 s : State} (h0 : Calm a0 s) (r : CollRun) (k : Nat) : Calm a0 (localBlock s r k).1 := by
  unfold localBlock
  split
  · rename_i z0 z1 z2 z3
    have k4 := Calm.ofFst z3 (a := a0) (by
        apply itemRead_calm
        exact h0)
    exact k4
  · rename_i z5 z6 z7 z8 z9
    have k10 := Calm.ofFst z9 (a := a0) (by
        apply itemRead_calm
        exact h0)
    exact k10

theorem crushBlocks_calm {a0 s : State} (h0 : Calm a0 s) (r : CollRun) (bs : List (Nat × List Byte)) : Calm a0 (crushBlocks s r bs) := by
  unfold crushBlocks
  split
  · rename_i z0 z1 z2 z3
    have k4 := Calm.ofFst z3 (a := a0) (by
        apply Calm.foldFst
        · exact h0
        · intro y5 y6 y7
          split
          · rename_i z8 z9 z10
            split
            · rename_i z11 z12 z13 z14
              have k15 := Calm.ofFst z14 (a := a0) (by
                  apply localBlock_calm
                  exact y7)
              extract_lets x16 x17
              clear_value x16
              have k18 : Calm a0 x17 := by
                unfold x17
                split
                · rename_i z19
                  apply State.modPort_calm
                  exact k15
                · rename_i z20
                  exact k15
              clear_value x17
              split
              · rename_i z21
                dsimp only
                apply finishBlock_calm
                exact k18
              · rename_i z22
                exact k18
            · rename_i z23 z24 z25
              have k26 := Calm.ofFst z25 (a := a0) (by
                  apply localBlock_calm
                  exact y7)
              dsimp only
              apply modCollOf_calm
              exact k26)
    split
    · rename_i z27
      exact k4
    · rename_i z28
      apply sendBlocks_calm
      exact k4

theorem crushWaiting_calm {a0 s : State} (h0 : Calm a0 s) (r : CollRun) : Calm a0 (crushWaiting s r) := by
  unfold crushWaiting
  split
  · rename_i z0 z1 z2
    split
    · rename_i z3
      apply crushBlocks_calm
      apply modCollOf_calm
      exact h0
    · rename_i z4
      exact h0
  · rename_i z5 z6
    exact h0

theorem startCrush_calm {a0 s : State} (h0 : Calm a0 s) (r : CollRun) (x : Coll) : Calm a0 (startCrush s r x) := by
  unfold startCrush
  extract_lets x0 x1 x2
  clear_value x0
  clear_value x1
  clear_value x2
  split
  · rename_i z3 z4 z5 z6
    have k7 := Calm.ofFst z6 (a := a0) (by
        apply clearWay_calm
        exact h0)
    split
    · rename_i z8
      exact k7
    · rename_i z9
      split
      · rename_i z10 z11 z12 z13 z14
        have k15 := Calm.ofFst z14 (a := a0) (by
            apply readContribution_calm
            exact k7)
        apply failItem_calm
        exact k15
      · rename_i z16 z17 z18
        have k19 := Calm.ofFst z18 (a := a0) (by
            apply readContribution_calm
            exact k7)
        exact k19
      · rename_i z20 z21 z22 z23
        have k24 := Calm.ofFst z23 (a := a0) (by
            apply readContribution_calm
            exact k7)
        extract_lets x25
        clear_value x25
        split
        · rename_i z26 z27 z28 z29
          have k30 := Calm.ofFst z29 (a := a0) (by
              apply itemWrite_calm
              exact k24)
          apply failItem_calm
          exact k30
        · rename_i z31 z32 z33
          have k34 := Calm.ofFst z33 (a := a0) (by
              apply itemWrite_calm
              exact k24)
          extract_lets x35
          have k36 : Calm a0 x35 := by
            unfold x35
            apply sendBlocks_calm
            apply modCollOf_calm
            exact k34
          clear_value x35
          apply crushWaiting_calm
          exact k36

theorem rerunBlock_calm {a0 s : State} (h0 : Calm a0 s) (r : CollRun) (k : Nat) : Calm a0 (rerunBlock s r k) := by
  unfold rerunBlock
  extract_lets x0 x1 x2 x3 x4
  clear_value x0
  clear_value x1
  clear_value x2
  clear_value x3
  split
  · rename_i z5 z6 z7 z8 z9
    have k10 := Calm.ofFst z9 (a := a0) (by
        apply itemReads_calm
        exact h0)
    apply failItem_calm
    exact k10
  · rename_i z11 z12 z13
    have k14 := Calm.ofFst z13 (a := a0) (by
        apply itemReads_calm
        exact h0)
    exact k14
  · rename_i z15 z16 z17 z18
    have k19 := Calm.ofFst z18 (a := a0) (by
        apply itemReads_calm
        exact h0)
    extract_lets x20 x21 x22
    clear_value x20
    clear_value x21
    clear_value x22
    apply modCollOf_calm
    apply addFlags_calm
    exact k19

theorem sendDone_calm {a0 s : State} (h0 : Calm a0 s) (r : CollRun) (x : Coll) : Calm a0 (sendDone s r x) := by
  unfold sendDone
  extract_lets x0
  have k1 : Calm a0 x0 := by
    unfold x0
    apply Calm.fold
    · exact h0
    · intro y2 y3 y4
      apply sendMsg_calm
      exact y4
  clear_value x0
  apply modCollOf_calm
  exact k1

theorem closeCrush_calm {a0 s : State} (h0 : Calm a0 s) (r : CollRun) (x : Coll) : Calm a0 (closeCrush s r x) := by
  unfold closeCrush
  extract_lets x0 x1 x2 x3
  clear_value x0
  clear_value x1
  clear_value x2
  clear_value x3
  split
  · rename_i z4 z5 z6 z7
    have k8 := Calm.ofFst z7 (a := a0) (by
        apply writeOut_calm
        exact h0)
    apply failItem_calm
    exact k8
  · rename_i z9 z10 z11
    have k12 := Calm.ofFst z11 (a := a0) (by
        apply writeOut_calm
        exact h0)
    apply sendDone_calm
    apply modCollOf_calm
    exact k12

theorem runCrush_calm {a0 s : State} (h0 : Calm a0 s) (r : CollRun) : Calm a0 (runCrush s r) := by
  unfold runCrush
  split
  · rename_i z0
    exact h0
  · rename_i z1
    split
    · rename_i z2 z3
      exact h0
    · rename_i z4 z5 z6
      split
      · rename_i z7
        apply crushWaiting_calm
        exact h0
      · rename_i z8
        split
        · rename_i z9
          split
          · rename_i z10
            apply startCrush_calm
            exact h0
          · rename_i z11
            exact h0
        · rename_i z12
          extract_lets x13 x14
          have k15 : Calm a0 x13 := by
            unfold x13
            apply crushWaiting_calm
            exact h0
          clear_value x13
          have k16 : Calm a0 x14 := by
            unfold x14
            split
            · rename_i z17 z18 z19
              split
              · rename_i z20
                apply Calm.fold
                · exact k15
                · intro y21 y22 y23
                  apply rerunBlock_calm
                  exact y23
              · rename_i z24
                exact k15
            · rename_i z25 z26
              exact k15
          clear_value x14
          split
          · rename_i z27 z28 z29
            split
            · rename_i z30
              apply closeCrush_calm
              exact k16
            · rename_i z31
              exact k16
          · rename_i z32 z33
            exact k16

theorem scrambleStaging_calm {a0 s : State} (h0 : Calm a0 s) (r : CollRun) : Calm a0 (scrambleStaging s r) := by
  unfold scrambleStaging
  apply scrambleAt_calm
  exact h0

theorem writeNorm_calm {a0 s : State} (h0 : Calm a0 s) (r : CollRun) (x : Coll) : Calm a0 (writeNorm s r x) := by
  unfold writeNorm
  extract_lets x0 x1 x2
  clear_value x0
  clear_value x1
  split
  · rename_i z3 z4 z5 z6
    have k7 := Calm.ofFst z6 (a := a0) (by
        apply itemWrite_calm
        apply addFlags_calm
        exact h0)
    apply failItem_calm
    exact k7
  · rename_i z8 z9 z10
    have k11 := Calm.ofFst z10 (a := a0) (by
        apply itemWrite_calm
        apply addFlags_calm
        exact h0)
    apply addFlagged_calm
    exact k11

theorem finishColl_calm {a0 s : State} (h0 : Calm a0 s) (r : CollRun) (x : Coll) : Calm a0 (finishColl s r x) := by
  unfold finishColl
  extract_lets x0 x1 x2 x3 x4 x5
  have k6 : Calm a0 x0 := by
    unfold x0
    apply scrambleStaging_calm
    exact h0
  clear_value x0
  have k7 : Calm a0 x1 := by
    unfold x1
    exact Calm.put k6
  clear_value x1
  have k8 : Calm a0 x2 := by
    unfold x2
    split
    · rename_i z9
      apply writeNorm_calm
      exact k7
    · rename_i z10
      exact k7
  clear_value x2
  clear_value x3
  clear_value x4
  have k11 : Calm a0 x5 := by
    unfold x5
    apply State.modItem_calm
    split
    · rename_i z12
      apply addFlags_calm
      exact k8
    · rename_i z13
      exact k8
  clear_value x5
  split
  · rename_i z14
    apply State.modItem_calm
    exact k11
  · rename_i z15
    apply collShed_calm
    apply issued_calm
    exact k11

theorem advanceColl_calm {a0 s : State} (h0 : Calm a0 s) (item : ItemRef) : Calm a0 (advanceColl s item) := by
  unfold advanceColl
  split
  · rename_i z0 z1
    exact h0
  · rename_i z2 z3 z4
    split
    · rename_i z5
      exact h0
    · rename_i z6
      split
      · rename_i z7 z8
        exact h0
      · rename_i z9 z10 z11
        extract_lets x12 x13 x14 x15 x16
        clear_value x12
        have k17 : Calm a0 x13 := by
          unfold x13
          apply settleSlots_calm
          exact h0
        clear_value x13
        have k18 : Calm a0 x14 := by
          unfold x14
          apply runFlows_calm
          exact k17
        clear_value x14
        have k19 : Calm a0 x15 := by
          unfold x15
          apply runCrush_calm
          exact k18
        clear_value x15
        have k20 : Calm a0 x16 := by
          unfold x16
          split
          · rename_i z21
            apply runFlows_calm
            exact k19
          · rename_i z22
            exact k19
        clear_value x16
        split
        · rename_i z23 z24 z25 z26 z27 z28
          split
          · rename_i z29
            apply finishColl_calm
            exact k20
          · rename_i z30
            exact k20
        · rename_i z31 z32 z33
          exact k20

theorem collMismatch_calm {a0 s : State} (h0 : Calm a0 s) (r : CollRun) (t : CollTag) : Calm a0 (collMismatch s r t) := by
  unfold collMismatch
  extract_lets x0 x1
  clear_value x0
  have k2 : Calm a0 x1 := by
    unfold x1
    apply raiseError_calm
    exact h0
  clear_value x1
  apply failItem_calm
  exact k2

theorem takeTag_calm {a0 s : State} (h0 : Calm a0 s) (r : CollRun) (came : Nat) (t : CollTag) : Calm a0 (takeTag s r came t) := by
  unfold takeTag
  split
  · rename_i z0 z1
    exact h0
  · rename_i z2 z3 z4
    split
    · rename_i z5
      apply collMismatch_calm
      exact h0
    · rename_i z6
      split
      · rename_i z7
        split
        · rename_i z8
          apply modCollOf_calm
          exact h0
        · rename_i z9
          extract_lets x10
          clear_value x10
          split
          · rename_i z11
            apply modCollOf_calm
            exact h0
          · rename_i z12
            apply collMismatch_calm
            exact h0
      · rename_i z13
        split
        · rename_i z14 z15
          apply collMismatch_calm
          exact h0
        · rename_i z16 z17 z18
          split
          · rename_i z19
            apply collMismatch_calm
            exact h0
          · rename_i z20
            extract_lets x21 x22
            clear_value x21
            clear_value x22
            apply modCollOf_calm
            exact h0

theorem holdEarly_calm {a0 s : State} (h0 : Calm a0 s) (t : CollTag) : Calm a0 (holdEarly s t) := by
  unfold holdEarly
  extract_lets x0
  have k1 : Calm a0 x0 := by
    unfold x0
    split
    · rename_i z2
      exact h0
    · rename_i z3
      exact Calm.put h0
  clear_value x0
  apply State.modColl_calm
  exact k1

theorem beginColl_calm {a0 s : State} (h0 : Calm a0 s) (r : CollRun) (number : Nat) (version : Nat) (value : Option W64) : Calm a0 (beginColl s r number version value) := by
  unfold beginColl
  extract_lets x0 x1 x2 x3
  clear_value x0
  clear_value x1
  clear_value x2
  have k4 : Calm a0 x3 := by
    unfold x3
    exact Calm.put h0
  clear_value x3
  apply Calm.fold
  · exact k4
  · intro y5 y6 y7
    apply takeTag_calm
    exact y7

theorem grantCredits_calm {a0 s : State} (h0 : Calm a0 s) (r : CollRun) (number : Nat) : Calm a0 (grantCredits s r number) := by
  unfold grantCredits
  apply Calm.fold
  · exact h0
  · intro y0 y1 y2
    apply sendColl_calm
    exact y2

theorem takeOwnPin_calm {a0 s : State} (h0 : Calm a0 s) (i : Item) (a : Nat) : Calm a0 (takeOwnPin s i a) := by
  unfold takeOwnPin
  split
  · rename_i z0
    exact h0
  · rename_i z1
    split
    · rename_i z2 z3 z4 z5
      have k6 := Calm.ofFst z5 (a := a0) (by
          apply readRecord_calm
          exact h0)
      apply failItem_calm
      exact k6
    · rename_i z7 z8 z9
      have k10 := Calm.ofFst z9 (a := a0) (by
          apply readRecord_calm
          exact h0)
      exact k10
    · rename_i z11 z12 z13 z14
      have k15 := Calm.ofFst z14 (a := a0) (by
          apply readRecord_calm
          exact h0)
      extract_lets x16 x17
      clear_value x16
      clear_value x17
      split
      · rename_i z18
        apply forgetLine_calm
        exact k15
      · rename_i z19
        split
        · rename_i z20 z21 z22 z23
          have k24 := Calm.ofFst z23 (a := a0) (by
              apply casRecord_calm
              exact k15)
          split
          · rename_i z25
            apply State.modItem_calm
            exact k24
          · rename_i z26
            apply forgetLine_calm
            exact k24
        · rename_i z27 z28 z29
          have k30 := Calm.ofFst z29 (a := a0) (by
              apply casRecord_calm
              exact k15)
          exact k30
        · rename_i z31 z32 z33 z34
          have k35 := Calm.ofFst z34 (a := a0) (by
              apply casRecord_calm
              exact k15)
          apply failItem_calm
          exact k35

theorem takeFold_calm {a0 s : State} (h0 : Calm a0 s) (i : Item) (acc : Nat) : Calm a0 (takeFold s i acc).1 := by
  unfold takeFold
  extract_lets x0 x1
  have k2 : Calm a0 x0 := by
    unfold x0
    apply settleFolds_calm
    exact h0
  clear_value x0
  clear_value x1
  dsimp only
  apply State.modCtx_calm
  exact k2

theorem waitClaim_calm {a0 s : State} (h0 : Calm a0 s) (i : Item) : Calm a0 (waitClaim s i) := by
  unfold waitClaim
  apply tryClaim_calm
  apply State.modItem_calm
  exact h0

theorem startColl_calm {a0 s : State} (h0 : Calm a0 s) (i : Item) : Calm a0 (startColl s i) := by
  unfold startColl
  split
  · rename_i z0 z1 z2 z3 z4 z5
    split
    · rename_i z6 z7 z8 z9
      have k10 := Calm.ofFst z9 (a := a0) (by
          split
          · rename_i z11
            extract_lets x12
            have k13 : Calm a0 x12.1 := by
              unfold x12
              apply takeFold_calm
              exact h0
            clear_value x12
            exact k13
          · rename_i z14
            exact h0)
      extract_lets x15 x16
      have k17 : Calm a0 x15 := by
        unfold x15
        apply State.modItem_calm
        apply beginColl_calm
        exact k10
      clear_value x15
      have k18 : Calm a0 x16 := by
        unfold x16
        split
        · rename_i z19
          apply grantCredits_calm
          exact k17
        · rename_i z20
          exact k17
      clear_value x16
      apply advanceColl_calm
      apply collGrab_calm
      exact k18
  · rename_i z21 z22 z23
    exact h0

theorem runColl_calm {a0 s : State} (h0 : Calm a0 s) (i : Item) : Calm a0 (runColl s i) := by
  unfold runColl
  split
  · rename_i z0
    apply advanceColl_calm
    exact h0
  · rename_i z1
    extract_lets x2 x3
    clear_value x2
    have k4 : Calm a0 x3 := by
      unfold x3
      split
      · rename_i z5
        apply takeOwnPin_calm
        exact h0
      · rename_i z6
        exact h0
    clear_value x3
    split
    · rename_i z7 z8
      exact k4
    · rename_i z9 z10 z11
      split
      · rename_i z12
        exact k4
      · rename_i z13
        split
        · rename_i z14
          extract_lets x15
          have k16 : Calm a0 x15 := by
            unfold x15
            apply waitClaim_calm
            exact k4
          clear_value x15
          split
          · rename_i z17 z18 z19
            split
            · rename_i z20
              apply startColl_calm
              exact k16
            · rename_i z21
              exact k16
          · rename_i z22 z23
            exact k16
        · rename_i z24
          apply startColl_calm
          exact k4

theorem execReduceScatter_calm {a0 s : State} (h0 : Calm a0 s) (c : CtxIx) (seq : Nat) : OutCalm a0 (execReduceScatter c seq s) := by
  unfold execReduceScatter
  apply OutCalm.next
  split
  · rename_i z0 z1 z2
    apply runColl_calm
    exact h0
  · rename_i z3 z4
    exact h0

theorem execAllGather_calm {a0 s : State} (h0 : Calm a0 s) (c : CtxIx) (seq : Nat) : OutCalm a0 (execAllGather c seq s) := by
  unfold execAllGather
  apply OutCalm.next
  split
  · rename_i z0 z1 z2
    apply runColl_calm
    exact h0
  · rename_i z3 z4
    exact h0

theorem execAllReduce_calm {a0 s : State} (h0 : Calm a0 s) (c : CtxIx) (seq : Nat) : OutCalm a0 (execAllReduce c seq s) := by
  unfold execAllReduce
  apply OutCalm.next
  split
  · rename_i z0 z1 z2
    apply runColl_calm
    exact h0
  · rename_i z3 z4
    exact h0

theorem execBroadcast_calm {a0 s : State} (h0 : Calm a0 s) (c : CtxIx) (seq : Nat) : OutCalm a0 (execBroadcast c seq s) := by
  unfold execBroadcast
  apply OutCalm.next
  split
  · rename_i z0 z1 z2
    apply runColl_calm
    exact h0
  · rename_i z3 z4
    exact h0

theorem execAllToAll_calm {a0 s : State} (h0 : Calm a0 s) (c : CtxIx) (seq : Nat) : OutCalm a0 (execAllToAll c seq s) := by
  unfold execAllToAll
  apply OutCalm.next
  split
  · rename_i z0 z1 z2
    apply runColl_calm
    exact h0
  · rename_i z3 z4
    exact h0

theorem execNormAllreduce_calm {a0 s : State} (h0 : Calm a0 s) (c : CtxIx) (seq : Nat) : OutCalm a0 (execNormAllreduce c seq s) := by
  unfold execNormAllreduce
  apply OutCalm.next
  split
  · rename_i z0 z1 z2
    apply runColl_calm
    exact h0
  · rename_i z3 z4
    exact h0

theorem gatherCommit_calm {a0 s : State} (h0 : Calm a0 s) (i : Item) : Calm a0 (gatherCommit s i) := by
  unfold gatherCommit
  split
  · rename_i z0 z1 z2 z3 z4 z5 z6
    split
    · rename_i z7
      exact h0
    · rename_i z8
      split
      · rename_i z9 z10 z11 z12
        have k13 := Calm.ofFst z12 (a := a0) (by
            apply recordWrite_calm
            exact h0)
        apply failItem_calm
        exact k13
      · rename_i z14 z15 z16
        have k17 := Calm.ofFst z16 (a := a0) (by
            apply recordWrite_calm
            exact h0)
        split
        · rename_i z18 z19 z20
          split
          · rename_i z21
            exact k17
          · rename_i z22
            apply commitBuffer_calm
            exact k17
        · rename_i z23 z24
          exact k17
  · rename_i z25 z26 z27
    exact h0

theorem execVersionedGatherCommit_calm {a0 s : State} (h0 : Calm a0 s) (c : CtxIx) (seq : Nat) : OutCalm a0 (execVersionedGatherCommit c seq s) := by
  unfold execVersionedGatherCommit
  apply OutCalm.next
  split
  · rename_i z0 z1 z2
    split
    · rename_i z3
      apply gatherCommit_calm
      exact h0
    · rename_i z4
      exact h0
  · rename_i z5 z6
    exact h0

theorem execChunkDeadline_calm {a0 s : State} (h0 : Calm a0 s) (c : CtxIx) (seq : Nat) (chunk : Nat) : OutCalm a0 (execChunkDeadline c seq chunk s) := by
  unfold execChunkDeadline
  apply OutCalm.next
  split
  · rename_i z0 z1 z2
    split
    · rename_i z3 z4 z5
      split
      · rename_i z6 z7 z8 z9
        split
        · rename_i z10
          exact h0
        · rename_i z11
          apply advanceColl_calm
          apply modCollOf_calm
          apply State.upTo_calm
          exact h0
      · rename_i z12 z13
        exact h0
    · rename_i z14 z15
      exact h0
  · rename_i z16 z17
    exact h0

theorem lateArrive_calm {a0 s : State} (h0 : Calm a0 s) (y : LateCopy) : Calm a0 (lateArrive s y) := by
  unfold lateArrive
  split
  · rename_i z0
    exact Calm.put h0
  · rename_i z1
    extract_lets x2
    have k3 : Calm a0 x2 := by
      unfold x2
      exact Calm.put h0
    clear_value x2
    split
    · rename_i z4 z5 z6
      extract_lets x7
      clear_value x7
      apply sendAck_calm
      apply sendNotUsed_calm
      exact k3
    · rename_i z8 z9
      exact k3

theorem collArrive_calm {a0 s : State} (h0 : Calm a0 s) (k : Packet) : Calm a0 (collArrive s k) := by
  unfold collArrive
  extract_lets x0
  clear_value x0
  split
  · rename_i z1 z2 z3
    apply lateArrive_calm
    exact h0
  · rename_i z4 z5
    split
    · rename_i z6
      exact h0
    · rename_i z7
      split
      · rename_i z8 z9 z10
        split
        · rename_i z11
          apply holdEarly_calm
          exact h0
        · rename_i z12
          split
          · rename_i z13 z14 z15
            split
            · rename_i z16 z17 z18
              apply advanceColl_calm
              apply takeTag_calm
              exact h0
            · rename_i z19 z20
              exact h0
          · rename_i z21 z22
            exact h0
      · rename_i z23 z24
        apply holdEarly_calm
        exact h0

theorem crushArrive_calm {a0 s : State} (h0 : Calm a0 s) (p : Nat) (k : Packet) : Calm a0 (crushArrive s p k) := by
  unfold crushArrive
  split
  · rename_i z0 z1
    exact h0
  · rename_i z2 z3 z4
    extract_lets x5
    have k6 : Calm a0 x5 := by
      unfold x5
      apply State.modColl_calm
      exact h0
    clear_value x5
    split
    · rename_i z7
      apply advanceColl_calm
      exact k6
    · rename_i z8
      exact k6

theorem notUsedArrive_calm {a0 s : State} (h0 : Calm a0 s) (m : FabMsg) : Calm a0 (notUsedArrive s m) := by
  unfold notUsedArrive
  split
  · rename_i z0 z1 z2 z3
    extract_lets x4
    have k5 : Calm a0 x4 := by
      unfold x4
      apply modCollOf_calm
      exact h0
    clear_value x4
    split
    · rename_i z6 z7 z8 z9 z10 z11
      split
      · rename_i z12
        apply State.modItem_calm
        exact k5
      · rename_i z13
        exact k5
    · rename_i z14 z15 z16
      exact k5
  · rename_i z17 z18
    exact h0

theorem crushDoneArrive_calm {a0 s : State} (h0 : Calm a0 s) (m : FabMsg) : Calm a0 (crushDoneArrive s m) := by
  unfold crushDoneArrive
  split
  · rename_i z0 z1 z2 z3
    extract_lets x4
    clear_value x4
    split
    · rename_i z5
      exact h0
    · rename_i z6
      apply advanceColl_calm
      apply modCollOf_calm
      exact h0
  · rename_i z7 z8
    exact h0

/-! ## Machine/Hearth.lean -/



/-! ## Machine/Front.lean -/

theorem flushRange_calm {a0 s : State} (h0 : Calm a0 s) (i : Item) : Calm a0 (flushRange s i) := by
  unfold flushRange
  extract_lets x0 x1
  clear_value x0
  have k2 : Calm a0 x1.s := by
    unfold x1
    apply writeBackAll_calm
    exact h0
  clear_value x1
  apply State.modItem_calm
  exact k2

theorem acquireRange_calm {a0 s : State} (h0 : Calm a0 s) (i : Item) : Calm a0 (acquireRange s i) := by
  unfold acquireRange
  apply acquire_calm
  exact h0

theorem execFenceWrite_calm {a0 s : State} (h0 : Calm a0 s) (c : CtxIx) (seq : Nat) : OutCalm a0 (execFenceWrite c seq s) := by
  unfold execFenceWrite
  apply OutCalm.next
  split
  · rename_i z0 z1 z2
    extract_lets x3
    have k4 : Calm a0 x3 := by
      unfold x3
      apply startItem_calm
      exact h0
    clear_value x3
    apply issued_calm
    split
    · rename_i z5
      apply flushRange_calm
      exact k4
    · rename_i z6
      exact k4
  · rename_i z7 z8
    exact h0

theorem execFenceAcquire_calm {a0 s : State} (h0 : Calm a0 s) (c : CtxIx) (seq : Nat) : OutCalm a0 (execFenceAcquire c seq s) := by
  unfold execFenceAcquire
  apply OutCalm.next
  split
  · rename_i z0 z1 z2
    apply issued_calm
    apply acquireRange_calm
    apply startItem_calm
    exact h0
  · rename_i z3 z4
    exact h0

theorem execFenceFull_calm {a0 s : State} (h0 : Calm a0 s) (c : CtxIx) (seq : Nat) : OutCalm a0 (execFenceFull c seq s) := by
  unfold execFenceFull
  apply OutCalm.next
  split
  · rename_i z0 z1 z2
    extract_lets x3
    have k4 : Calm a0 x3 := by
      unfold x3
      apply startItem_calm
      exact h0
    clear_value x3
    apply issued_calm
    apply acquireRange_calm
    split
    · rename_i z5
      apply flushRange_calm
      exact k4
    · rename_i z6
      exact k4
  · rename_i z7 z8
    exact h0

theorem execNote_calm {a0 s : State} (h0 : Calm a0 s) (c : CtxIx) (seq : Nat) : OutCalm a0 (execNote c seq s) := by
  unfold execNote
  apply OutCalm.next
  split
  · rename_i z0 z1 z2
    apply endItem_calm
    apply startItem_calm
    exact h0
  · rename_i z3 z4
    exact h0

theorem execPinRelease_calm {a0 s : State} (h0 : Calm a0 s) (c : CtxIx) (seq : Nat) : OutCalm a0 (execPinRelease c seq s) := by
  unfold execPinRelease
  apply OutCalm.next
  split
  · rename_i z0 z1 z2
    apply endItem_calm
    apply releasePins_calm
    apply startItem_calm
    exact h0
  · rename_i z3 z4
    exact h0

theorem execPublish_calm {a0 s : State} (h0 : Calm a0 s) (c : CtxIx) (seq : Nat) : OutCalm a0 (execPublish c seq s) := by
  unfold execPublish
  apply OutCalm.next
  split
  · rename_i z0 z1 z2
    apply addFlagged_calm
    apply startItem_calm
    exact h0
  · rename_i z3 z4
    exact h0

theorem waitRead_calm {a0 s : State} (h0 : Calm a0 s) (i : Item) (bs : List Byte) : Calm a0 (waitRead s i bs) := by
  unfold waitRead
  extract_lets x0
  have k1 : Calm a0 x0 := by
    unfold x0
    apply acquire_calm
    exact h0
  clear_value x0
  split
  · rename_i z2
    apply endItem_calm
    exact k1
  · rename_i z3
    apply forgetLine_calm
    exact k1

theorem pollWait_calm {a0 s : State} (h0 : Calm a0 s) (i : Item) : Calm a0 (pollWait s i) := by
  unfold pollWait
  split
  · rename_i z0 z1 z2 z3
    have k4 := Calm.ofFst z3 (a := a0) (by
        apply itemRead_calm
        exact h0)
    apply failItem_calm
    exact k4
  · rename_i z5 z6 z7
    have k8 := Calm.ofFst z7 (a := a0) (by
        apply itemRead_calm
        exact h0)
    exact k8
  · rename_i z9 z10 z11 z12
    have k13 := Calm.ofFst z12 (a := a0) (by
        apply itemRead_calm
        exact h0)
    apply waitRead_calm
    exact k13

theorem waitCame_calm {a0 s : State} (h0 : Calm a0 s) (r : ItemRef) : Calm a0 (waitCame s r) := by
  unfold waitCame
  split
  · rename_i z0 z1 z2
    split
    · rename_i z3
      apply waitRead_calm
      exact h0
    · rename_i z4
      exact h0
  · rename_i z5 z6
    exact h0

theorem execWait_calm {a0 s : State} (h0 : Calm a0 s) (c : CtxIx) (seq : Nat) : OutCalm a0 (execWait c seq s) := by
  unfold execWait
  apply OutCalm.next
  split
  · rename_i z0 z1 z2
    apply pollWait_calm
    apply State.modItem_calm
    apply startItem_calm
    exact h0
  · rename_i z3 z4
    exact h0

theorem execMarkWaitPoll_calm {a0 s : State} (h0 : Calm a0 s) (c : CtxIx) (seq : Nat) : OutCalm a0 (execMarkWaitPoll c seq s) := by
  unfold execMarkWaitPoll
  apply OutCalm.next
  split
  · rename_i z0 z1 z2
    split
    · rename_i z3
      apply pollWait_calm
      apply State.upTo_calm
      exact h0
    · rename_i z4
      exact h0
  · rename_i z5 z6
    exact h0

/-! ## Machine/Attic.lean -/

theorem writeCopy_calm {a0 s : State} (h0 : Calm a0 s) (r : ItemRef) (head : Nat) (dataAt : Nat) (w0 : W64) (rest : List Byte) (bs : List Byte) : Calm a0 (writeCopy s r head dataAt w0 rest bs).1 := by
  unfold writeCopy
  split
  · rename_i z0 z1 z2 z3
    have k4 := Calm.ofFst z3 (a := a0) (by
        apply writeRanges_calm
        exact h0)
    exact k4
  · rename_i z5 z6 z7
    have k8 := Calm.ofFst z7 (a := a0) (by
        apply writeRanges_calm
        exact h0)
    dsimp only
    apply addFlagged_calm
    exact k8

theorem packCores_calm {a0 s : State} (h0 : Calm a0 s) (i : Item) (n : Nat) : Calm a0 (packCores s i n).1 := by
  unfold packCores
  extract_lets x0
  have k1 : Calm a0 x0 := by
    unfold x0
    split
    · rename_i z2
      split
      · rename_i z3 z4 z5
        apply takeCores_calm
        exact h0
      · rename_i z6 z7
        exact h0
    · rename_i z8
      exact h0
  clear_value x0
  split
  · rename_i z9 z10 z11
    exact k1
  · rename_i z12 z13
    exact k1

theorem secureSource_calm {a0 s : State} (h0 : Calm a0 s) (i : Item) (d : SnapD) : Calm a0 (secureSource s i d).1 := by
  unfold secureSource
  split
  · rename_i z0
    exact h0
  · rename_i z1
    split
    · rename_i z2 z3 z4 z5
      have k6 := Calm.ofFst z5 (a := a0) (by
          apply readRecord_calm
          exact h0)
      exact k6
    · rename_i z7 z8 z9
      have k10 := Calm.ofFst z9 (a := a0) (by
          apply readRecord_calm
          exact h0)
      exact k10
    · rename_i z11 z12 z13 z14
      have k15 := Calm.ofFst z14 (a := a0) (by
          apply readRecord_calm
          exact h0)
      exact k15

theorem advOf_calm {a0 s : State} (h0 : Calm a0 s) (v : SurvivalCfg) (d : SnapD) (version : Nat) : Calm a0 (advOf s v d version).1 := by
  unfold advOf
  extract_lets x0
  clear_value x0
  split
  · rename_i z1 z2 z3 z4
    have k5 := Calm.ofFst z4 (a := a0) (by
        apply heldRead_calm
        exact h0)
    exact k5

theorem secureMirror_calm {a0 s : State} (h0 : Calm a0 s) (i : Item) (d : SnapD) (v : SurvivalCfg) (version : Nat) (adv : Nat) (bs : List Byte) : Calm a0 (secureMirror s i d v version adv bs) := by
  unfold secureMirror
  extract_lets x0 x1 x2 x3 x4
  clear_value x0
  clear_value x1
  clear_value x2
  clear_value x3
  clear_value x4
  split
  · rename_i z5 z6 z7 z8
    have k9 := Calm.ofFst z8 (a := a0) (by
        apply writeCopy_calm
        exact h0)
    apply failItem_calm
    exact k9
  · rename_i z10 z11 z12
    have k13 := Calm.ofFst z12 (a := a0) (by
        apply writeCopy_calm
        exact h0)
    split
    · rename_i z14 z15 z16 z17
      have k18 := Calm.ofFst z17 (a := a0) (by
          split
          · rename_i z19
            apply writeCopy_calm
            exact k13
          · rename_i z20
            exact k13)
      apply failItem_calm
      exact k18
    · rename_i z21 z22 z23
      have k24 := Calm.ofFst z23 (a := a0) (by
          split
          · rename_i z25
            apply writeCopy_calm
            exact k13
          · rename_i z26
            exact k13)
      apply issued_calm
      apply State.modItem_calm
      exact k24

theorem secureParity_calm {a0 s : State} (h0 : Calm a0 s) (i : Item) (d : SnapD) (v : SurvivalCfg) (g : Group) (version : Nat) (adv : Nat) (bs : List Byte) : Calm a0 (secureParity s i d v g version adv bs) := by
  unfold secureParity
  extract_lets x0 x1 x2
  clear_value x0
  clear_value x1
  clear_value x2
  split
  · rename_i z3 z4 z5 z6
    have k7 := Calm.ofFst z6 (a := a0) (by
        apply writeCopy_calm
        exact h0)
    apply failItem_calm
    exact k7
  · rename_i z8 z9 z10
    have k11 := Calm.ofFst z10 (a := a0) (by
        apply writeCopy_calm
        exact h0)
    split
    · rename_i z12
      apply failItem_calm
      exact k11
    · rename_i z13
      extract_lets x14 x15
      have k16 : Calm a0 x14 := by
        unfold x14
        apply State.modItem_calm
        exact k11
      clear_value x14
      clear_value x15
      exact Calm.put k16

theorem sendParity_calm {a0 s : State} (h0 : Calm a0 s) (dev : Nat) (req : Nat) (tag : List Byte) (bs : List Byte) : Calm a0 (sendParity s dev req tag bs) := by
  unfold sendParity
  extract_lets x0
  clear_value x0
  apply State.sendPacket_calm
  exact h0

theorem sliceBytes_calm {a0 s : State} (h0 : Calm a0 s) (r : ItemRef) (d : SnapD) (dataAt : Nat) (n : Nat) (lo : Nat) (hi : Nat) : Calm a0 (sliceBytes s r d dataAt n lo hi).1 := by
  unfold sliceBytes
  extract_lets x0
  clear_value x0
  split
  · rename_i z1 z2 z3 z4
    have k5 := Calm.ofFst z4 (a := a0) (by
        apply itemRead_calm
        exact h0)
    exact k5
  · rename_i z6 z7
    apply itemRead_calm
    exact h0

theorem sendSlice_calm {a0 s : State} (h0 : Calm a0 s) (r : ItemRef) (d : SnapD) (v : SurvivalCfg) (g : Group) (h : Nat) (m : Nat) : Calm a0 (sendSlice s r d v g h m).1 := by
  unfold sendSlice
  extract_lets x0
  clear_value x0
  split
  · rename_i z1 z2 z3 z4
    have k5 := Calm.ofFst z4 (a := a0) (by
        apply sliceBytes_calm
        exact h0)
    extract_lets x6
    clear_value x6
    dsimp only
    apply Calm.fold
    · exact k5
    · intro y7 y8 y9
      apply sendParity_calm
      exact y9
  · rename_i z10 z11
    apply sliceBytes_calm
    exact h0

theorem pushSlice_calm {a0 v1 : State} (h0 : Calm a0 v1) (v0 : Nat) (v2 : ItemRef) (v3 : SnapD) (v4 : SurvivalCfg) (v5 : Group) (v6 : SliceSend) : Calm a0 (pushSlice v0 v1 v2 v3 v4 v5 v6).1 := by
  induction v0 generalizing v1 v2 v3 v4 v5 v6 with
  | zero =>
    unfold pushSlice
    exact h0
  | succ n ih =>
    unfold pushSlice
    split
    · rename_i z0
      exact h0
    · rename_i z1
      split
      · rename_i z2 z3 z4 z5
        have k6 := Calm.ofFst z5 (a := a0) (by
            apply sendSlice_calm
            exact h0)
        apply ih
        exact k6
      · rename_i z7 z8 z9
        have k10 := Calm.ofFst z9 (a := a0) (by
            apply sendSlice_calm
            exact h0)
        exact k10
      · rename_i z11 z12 z13 z14
        have k15 := Calm.ofFst z14 (a := a0) (by
            apply sendSlice_calm
            exact h0)
        exact k15

theorem pushSlices_calm {a0 s : State} (h0 : Calm a0 s) (i : Item) (d : SnapD) (v : SurvivalCfg) (g : Group) (xs : List SliceSend) : Calm a0 (pushSlices s i d v g xs).1 := by
  unfold pushSlices
  split
  · rename_i z0
    exact h0
  · rename_i z1
    apply Calm.foldFst
    · exact h0
    · intro y2 y3 y4
      split
      · rename_i z5 z6 z7 z8 z9
        have k10 := Calm.ofFst z9 (a := a0) (by
            apply pushSlice_calm
            exact y4)
        exact k10

theorem foldChunks_calm {a0 v1 : State} (h0 : Calm a0 v1) (v0 : Nat) (v2 : ItemRef) (v3 : SnapD) (v4 : SurvivalCfg) (v5 : Group) (v6 : Nat) : Calm a0 (foldChunks v0 v1 v2 v3 v4 v5 v6).1 := by
  induction v0 generalizing v1 v2 v3 v4 v5 v6 with
  | zero =>
    unfold foldChunks
    exact h0
  | succ n ih =>
    unfold foldChunks
    extract_lets x0 x1 x2
    clear_value x0
    clear_value x1
    clear_value x2
    split
    · rename_i z3
      exact h0
    · rename_i z4
      split
      · rename_i z5 z6 z7 z8
        have k9 := Calm.ofFst z8 (a := a0) (by
            apply itemWrite_calm
            exact h0)
        extract_lets x10 x11 x12 x13
        have k14 : Calm a0 x10 := by
          unfold x10
          split
          · rename_i z15 z16
            have k17 := Calm.ofFst z8 (a := a0) (by
                apply itemWrite_calm
                exact h0)
            apply failItem_calm
            exact k9
          · rename_i z18
            have k19 := Calm.ofFst z8 (a := a0) (by
                apply itemWrite_calm
                exact h0)
            exact k9
        clear_value x10
        clear_value x11
        have k20 : Calm a0 x12 := by
          unfold x12
          exact Calm.put k14
        clear_value x12
        have k21 : Calm a0 x13 := by
          unfold x13
          apply Calm.fold
          · exact k20
          · intro y22 y23 y24
            apply sendParity_calm
            exact y24
        clear_value x13
        apply ih
        exact k21

theorem modRun_calm {a0 s : State} (h0 : Calm a0 s) (r : ItemRef) (f : ParityRun → ParityRun) : Calm a0 (modRun s r f) := by
  unfold modRun
  exact Calm.put h0

theorem sendNotices_calm {a0 s : State} (h0 : Calm a0 s) (d : SnapD) (v : SurvivalCfg) (g : Group) : Calm a0 (sendNotices s d v g) := by
  unfold sendNotices
  extract_lets x0 x1 x2
  clear_value x0
  have k3 : Calm a0 x1 := by
    unfold x1
    apply Calm.fold
    · exact h0
    · intro y4 y5 y6
      apply sendMsg_calm
      exact y6
  clear_value x1
  clear_value x2
  exact Calm.put k3

theorem scrambleParity_calm {a0 s : State} (h0 : Calm a0 s) (r : ItemRef) (v : SurvivalCfg) (d : SnapD) : Calm a0 (scrambleParity s r v d) := by
  unfold scrambleParity
  apply scrambleAt_calm
  exact h0

theorem parityAdvance_calm {a0 s : State} (h0 : Calm a0 s) (r : ItemRef) : Calm a0 (parityAdvance s r) := by
  unfold parityAdvance
  split
  · rename_i z0 z1 z2 z3 z4 z5 z6 z7 z8
    split
    · rename_i z9 z10
      exact h0
    · rename_i z11 z12 z13
      extract_lets x14
      clear_value x14
      split
      · rename_i z15 z16 z17 z18 z19
        have k20 := Calm.ofFst z19 (a := a0) (by
            apply pushSlices_calm
            exact h0)
        extract_lets x21 x22 x23
        have k24 : Calm a0 x21 := by
          unfold x21
          apply modRun_calm
          exact k20
        clear_value x21
        have k25 : Calm a0 x22 := by
          unfold x22
          split
          · rename_i z26 z27
            have k28 := Calm.ofFst z19 (a := a0) (by
                apply pushSlices_calm
                exact h0)
            apply failItem_calm
            exact k24
          · rename_i z29
            have k30 := Calm.ofFst z19 (a := a0) (by
                apply pushSlices_calm
                exact h0)
            exact k24
        clear_value x22
        clear_value x23
        split
        · rename_i z31 z32 z33 z34
          have k35 := Calm.ofFst z34 (a := a0) (by
              split
              · rename_i z36
                apply packCores_calm
                exact k25
              · rename_i z37
                exact k25)
          split
          · rename_i z38 z39 z40 z41
            have k42 := Calm.ofFst z41 (a := a0) (by
                split
                · rename_i z43
                  apply foldChunks_calm
                  exact k35
                · rename_i z44
                  exact k35)
            extract_lets x45 x46
            have k47 : Calm a0 x45 := by
              unfold x45
              apply modRun_calm
              exact k42
            clear_value x45
            clear_value x46
            split
            · rename_i z48
              exact k47
            · rename_i z49
              split
              · rename_i z50
                split
                · rename_i z51 z52 z53 z54
                  have k55 := Calm.ofFst z54 (a := a0) (by
                      apply writeRanges_calm
                      apply modRun_calm
                      apply scrambleParity_calm
                      exact k47)
                  apply failItem_calm
                  exact k55
                · rename_i z56 z57 z58
                  have k59 := Calm.ofFst z58 (a := a0) (by
                      apply writeRanges_calm
                      apply modRun_calm
                      apply scrambleParity_calm
                      exact k47)
                  apply addFlagged_calm
                  exact k59
              · rename_i z60
                split
                · rename_i z61 z62
                  exact k47
                · rename_i z63 z64 z65
                  extract_lets x66
                  have k67 : Calm a0 x66 := by
                    unfold x66
                    split
                    · rename_i z68
                      apply modRun_calm
                      apply sendNotices_calm
                      exact k47
                    · rename_i z69
                      exact k47
                  clear_value x66
                  split
                  · rename_i z70
                    apply issued_calm
                    exact k67
                  · rename_i z71
                    exact k67
  · rename_i z72 z73 z74 z75
    exact h0

theorem beginRound_calm {a0 s : State} (h0 : Calm a0 s) (d : SnapD) : Calm a0 (beginRound s d) := by
  unfold beginRound
  split
  · rename_i z0
    exact h0
  · rename_i z1
    exact Calm.put h0

theorem secureBytes_calm {a0 s : State} (h0 : Calm a0 s) (i : Item) (d : SnapD) (v : SurvivalCfg) (version : Nat) (adv : Nat) (bs : List Byte) : Calm a0 (secureBytes s i d v version adv bs) := by
  unfold secureBytes
  split
  · rename_i z0
    split
    · rename_i z1 z2 z3
      apply parityAdvance_calm
      apply secureParity_calm
      exact h0
    · rename_i z4 z5
      apply secureMirror_calm
      exact h0
  · rename_i z6
    apply secureMirror_calm
    exact h0

theorem runSecure_calm {a0 s : State} (h0 : Calm a0 s) (i : Item) (d : SnapD) (v : SurvivalCfg) : Calm a0 (runSecure s i d v) := by
  unfold runSecure
  split
  · rename_i z0
    apply parityAdvance_calm
    exact h0
  · rename_i z1
    split
    · rename_i z2
      apply endItem_calm
      exact h0
    · rename_i z3
      split
      · rename_i z4 z5 z6 z7
        have k8 := Calm.ofFst z7 (a := a0) (by
            apply secureSource_calm
            apply beginRound_calm
            exact h0)
        apply failItem_calm
        exact k8
      · rename_i z9 z10 z11
        have k12 := Calm.ofFst z11 (a := a0) (by
            apply secureSource_calm
            apply beginRound_calm
            exact h0)
        exact k12
      · rename_i z13 z14 z15 z16 z17
        have k18 := Calm.ofFst z17 (a := a0) (by
            apply secureSource_calm
            apply beginRound_calm
            exact h0)
        split
        · rename_i z19 z20 z21 z22
          have k23 : Calm a0 z20 := Calm.ofGot z22 (by
              apply getRanges_calm
              exact k18)
          apply failItem_calm
          exact k23
        · rename_i z24 z25 z26
          have k27 : Calm a0 z25 := Calm.ofGot z26 (by
              apply getRanges_calm
              exact k18)
          exact k27
        · rename_i z28 z29 z30 z31
          have k32 : Calm a0 z29 := Calm.ofGot z31 (by
              apply getRanges_calm
              exact k18)
          split
          · rename_i z33 z34 z35 z36
            have k37 := Calm.ofFst z36 (a := a0) (by
                apply advOf_calm
                exact k32)
            apply secureBytes_calm
            exact k37
          · rename_i z38 z39 z40
            have k41 := Calm.ofFst z40 (a := a0) (by
                apply advOf_calm
                exact k32)
            exact k41

theorem execSecure_calm {a0 s : State} (h0 : Calm a0 s) (c : CtxIx) (seq : Nat) : OutCalm a0 (execSecure c seq s) := by
  unfold execSecure
  apply OutCalm.next
  split
  · rename_i z0 z1 z2 z3 z4
    apply runSecure_calm
    exact h0
  · rename_i z5 z6
    exact h0

theorem parityMismatch_calm {a0 s : State} (h0 : Calm a0 s) (i : Item) (t : CollTag) : Calm a0 (parityMismatch s i t) := by
  unfold parityMismatch
  extract_lets x0 x1
  clear_value x0
  have k2 : Calm a0 x1 := by
    unfold x1
    apply raiseError_calm
    exact h0
  clear_value x1
  apply failItem_calm
  exact k2

theorem parityArrive_calm {a0 s : State} (h0 : Calm a0 s) (k : Packet) : Calm a0 (parityArrive s k) := by
  unfold parityArrive
  extract_lets x0 x1 x2
  clear_value x0
  clear_value x1
  split
  · rename_i z3
    exact h0
  · rename_i z4
    split
    · rename_i z5
      split
      · rename_i z6 z7 z8
        apply parityAdvance_calm
        apply modRun_calm
        exact h0
      · rename_i z9 z10
        exact h0
    · rename_i z11
      split
      · rename_i z12 z13 z14
        extract_lets x15
        clear_value x15
        split
        · rename_i z16
          apply parityMismatch_calm
          exact h0
        · rename_i z17
          apply parityAdvance_calm
          dsimp only [x2]
          exact Calm.put h0
      · rename_i z18 z19
        dsimp only [x2]
        exact Calm.put h0

theorem foldNoticeArrive_calm {a0 s : State} (h0 : Calm a0 s) (m : FabMsg) : Calm a0 (foldNoticeArrive s m) := by
  unfold foldNoticeArrive
  extract_lets x0 x1 x2 x3
  clear_value x0
  clear_value x1
  clear_value x2
  have k4 : Calm a0 x3 := by
    unfold x3
    exact Calm.put h0
  clear_value x3
  split
  · rename_i z5 z6 z7
    split
    · rename_i z8
      exact h0
    · rename_i z9
      split
      · rename_i z10 z11 z12
        apply parityAdvance_calm
        exact k4
      · rename_i z13 z14
        exact k4
  · rename_i z15 z16
    exact h0

theorem sendReport_calm {a0 s : State} (h0 : Calm a0 s) (v : SurvivalCfg) (g : Group) (round : Nat) (rank : Nat) (cost : Nat) (step : Nat) : Calm a0 (sendReport s v g round rank cost step) := by
  unfold sendReport
  apply sendMsg_calm
  exact h0

theorem keepReport_calm {a0 s : State} (h0 : Calm a0 s) (round : Nat) (rank : Nat) (cost : Nat) : Calm a0 (keepReport s round rank cost) := by
  unfold keepReport
  exact Calm.put h0

theorem manifestWritten_calm {a0 s : State} (h0 : Calm a0 s) (i : Item) (d : SnapD) (t : Nat) (a : Nat) : Calm a0 (manifestWritten s i d t a) := by
  unfold manifestWritten
  apply issued_calm
  apply State.modItem_calm
  apply addFlagged_calm
  exact h0

theorem manifestOut_calm {a0 s : State} (h0 : Calm a0 s) (i : Item) (d : SnapD) (t : Nat) (cost : Nat) (a : Nat) : Calm a0 (manifestOut s i d t cost a) := by
  unfold manifestOut
  split
  · rename_i z0 z1 z2 z3
    have k4 := Calm.ofFst z3 (a := a0) (by
        apply writeRanges_calm
        exact h0)
    apply failItem_calm
    exact k4
  · rename_i z5 z6 z7
    have k8 := Calm.ofFst z7 (a := a0) (by
        apply writeRanges_calm
        exact h0)
    apply manifestWritten_calm
    exact k8

theorem closeAdvance_calm {a0 s : State} (h0 : Calm a0 s) (i : Item) (d : SnapD) (v : SurvivalCfg) : Calm a0 (closeAdvance s i d v) := by
  unfold closeAdvance
  split
  · rename_i z0 z1
    exact h0
  · rename_i z2 z3 z4
    split
    · rename_i z5 z6
      exact h0
    · rename_i z7 z8 z9
      apply manifestOut_calm
      exact h0

theorem runClose_calm {a0 s : State} (h0 : Calm a0 s) (i : Item) (d : SnapD) (v : SurvivalCfg) : Calm a0 (runClose s i d v) := by
  unfold runClose
  split
  · rename_i z0
    apply closeAdvance_calm
    exact h0
  · rename_i z1
    split
    · rename_i z2
      split
      · rename_i z3
        apply endItem_calm
        exact h0
      · rename_i z4
        split
        · rename_i z5 z6
          exact h0
        · rename_i z7 z8 z9
          extract_lets x10 x11 x12
          clear_value x10
          have k13 : Calm a0 x11 := by
            unfold x11
            apply keepReport_calm
            apply State.modItem_calm
            exact h0
          clear_value x11
          have k14 : Calm a0 x12 := by
            unfold x12
            split
            · rename_i z15
              apply sendReport_calm
              exact k13
            · rename_i z16
              exact k13
          clear_value x12
          apply closeAdvance_calm
          exact k14
    · rename_i z17
      split
      · rename_i z18
        apply endItem_calm
        exact h0
      · rename_i z19
        split
        · rename_i z20 z21
          exact h0
        · rename_i z22 z23 z24
          extract_lets x25 x26 x27
          clear_value x25
          have k28 : Calm a0 x26 := by
            unfold x26
            apply keepReport_calm
            apply State.modItem_calm
            exact h0
          clear_value x26
          have k29 : Calm a0 x27 := by
            unfold x27
            split
            · rename_i z30
              apply sendReport_calm
              exact k28
            · rename_i z31
              exact k28
          clear_value x27
          apply closeAdvance_calm
          exact k29

theorem execClose_calm {a0 s : State} (h0 : Calm a0 s) (c : CtxIx) (seq : Nat) : OutCalm a0 (execClose c seq s) := by
  unfold execClose
  apply OutCalm.next
  split
  · rename_i z0 z1 z2 z3 z4
    apply runClose_calm
    exact h0
  · rename_i z5 z6
    exact h0

theorem closeReportArrive_calm {a0 s : State} (h0 : Calm a0 s) (m : FabMsg) : Calm a0 (closeReportArrive s m) := by
  unfold closeReportArrive
  extract_lets x0 x1 x2
  clear_value x0
  clear_value x1
  have k3 : Calm a0 x2 := by
    unfold x2
    apply keepReport_calm
    exact h0
  clear_value x2
  split
  · rename_i z4 z5
    exact h0
  · rename_i z6 z7 z8
    split
    · rename_i z9 z10
      exact h0
    · rename_i z11 z12 z13
      split
      · rename_i z14
        exact h0
      · rename_i z15
        extract_lets x16
        have k17 : Calm a0 x16 := by
          unfold x16
          split
          · rename_i z18
            exact k3
          · rename_i z19
            apply sendReport_calm
            exact k3
        clear_value x16
        split
        · rename_i z20 z21 z22
          apply closeAdvance_calm
          exact k17
        · rename_i z23 z24
          exact k17

theorem runPriv_calm {a0 s : State} (h0 : Calm a0 s) (i : Item) (d : SnapD) (v : SurvivalCfg) : Calm a0 (runPriv s i d v) := by
  unfold runPriv
  split
  · rename_i z0 z1 z2 z3
    have k4 : Calm a0 z1 := Calm.ofGot z3 (by
        apply getRanges_calm
        exact h0)
    apply failItem_calm
    exact k4
  · rename_i z5 z6 z7
    have k8 : Calm a0 z6 := Calm.ofGot z7 (by
        apply getRanges_calm
        exact h0)
    exact k8
  · rename_i z9 z10 z11 z12
    have k13 : Calm a0 z10 := Calm.ofGot z12 (by
        apply getRanges_calm
        exact h0)
    extract_lets x14 x15 x16 x17 x18
    clear_value x14
    clear_value x15
    clear_value x16
    clear_value x17
    clear_value x18
    split
    · rename_i z19 z20 z21 z22
      have k23 := Calm.ofFst z22 (a := a0) (by
          apply writeCopy_calm
          exact k13)
      apply failItem_calm
      exact k23
    · rename_i z24 z25 z26
      have k27 := Calm.ofFst z26 (a := a0) (by
          apply writeCopy_calm
          exact k13)
      split
      · rename_i z28 z29 z30 z31
        have k32 := Calm.ofFst z31 (a := a0) (by
            split
            · rename_i z33
              apply writeCopy_calm
              exact k27
            · rename_i z34
              exact k27)
        apply failItem_calm
        exact k32
      · rename_i z35 z36 z37
        have k38 := Calm.ofFst z37 (a := a0) (by
            split
            · rename_i z39
              apply writeCopy_calm
              exact k27
            · rename_i z40
              exact k27)
        apply issued_calm
        exact k38

theorem execPriv_calm {a0 s : State} (h0 : Calm a0 s) (c : CtxIx) (seq : Nat) : OutCalm a0 (execPriv c seq s) := by
  unfold execPriv
  apply OutCalm.next
  split
  · rename_i z0 z1 z2 z3 z4
    apply runPriv_calm
    exact h0
  · rename_i z5 z6
    exact h0

theorem packOut_calm {a0 s : State} (h0 : Calm a0 s) (i : Item) (d : SnapD) (a : Nat) (version : Nat) (bss : List (List Byte)) : Calm a0 (packOut s i d a version bss) := by
  unfold packOut
  split
  · rename_i z0 z1 z2 z3
    have k4 := Calm.ofFst z3 (a := a0) (by
        apply writeRanges_calm
        exact h0)
    apply failItem_calm
    exact k4
  · rename_i z5 z6 z7
    have k8 := Calm.ofFst z7 (a := a0) (by
        apply writeRanges_calm
        exact h0)
    apply releaseChain_calm
    apply State.modItem_calm
    exact k8

theorem packTo_calm {a0 s : State} (h0 : Calm a0 s) (i : Item) (d : SnapD) (v : SurvivalCfg) (from_ : Nat) (version : Nat) : Calm a0 (packTo s i d v from_ version) := by
  unfold packTo
  split
  · rename_i z0 z1 z2 z3
    have k4 : Calm a0 z1 := Calm.ofGot z3 (by
        apply getRanges_calm
        exact h0)
    apply failItem_calm
    exact k4
  · rename_i z5 z6 z7
    have k8 : Calm a0 z6 := Calm.ofGot z7 (by
        apply getRanges_calm
        exact h0)
    exact k8
  · rename_i z9 z10 z11 z12
    have k13 : Calm a0 z10 := Calm.ofGot z12 (by
        apply getRanges_calm
        exact h0)
    apply packOut_calm
    exact k13

theorem packEval_calm {a0 s : State} (h0 : Calm a0 s) (i : Item) (d : SnapD) (v : SurvivalCfg) (a : Nat) (b : Nat) : Calm a0 (packEval s i d v a b) := by
  unfold packEval
  split
  · rename_i z0 z1 z2 z3
    have k4 := Calm.ofFst z3 (a := a0) (by
        apply readRecord_calm
        exact h0)
    apply failItem_calm
    exact k4
  · rename_i z5 z6 z7
    have k8 := Calm.ofFst z7 (a := a0) (by
        apply readRecord_calm
        exact h0)
    exact k8
  · rename_i z9 z10 z11 z12
    have k13 := Calm.ofFst z12 (a := a0) (by
        apply readRecord_calm
        exact h0)
    split
    · rename_i z14 z15 z16
      have k17 := Calm.ofFst z16 (a := a0) (by
          apply packCores_calm
          exact k13)
      exact k17
    · rename_i z18 z19 z20
      have k21 := Calm.ofFst z20 (a := a0) (by
          apply packCores_calm
          exact k13)
      apply packTo_calm
      exact k21

theorem shipEval_calm {a0 s : State} (h0 : Calm a0 s) (i : Item) (d : SnapD) (v : SurvivalCfg) : Calm a0 (shipEval s i d v) := by
  unfold shipEval
  split
  · rename_i z0
    exact h0
  · rename_i z1
    extract_lets x2
    have k3 : Calm a0 x2 := by
      unfold x2
      split
      · rename_i z4 z5 z6 z7 z8
        apply State.modItem_calm
        apply issueRelease_calm
        exact h0
      · rename_i z9 z10
        exact h0
    clear_value x2
    split
    · rename_i z11 z12 z13 z14
      have k15 : Calm a0 z12 := Calm.ofGot z14 (by
          apply getRanges_calm
          exact k3)
      apply failItem_calm
      exact k15
    · rename_i z16 z17 z18
      have k19 : Calm a0 z17 := Calm.ofGot z18 (by
          apply getRanges_calm
          exact k3)
      exact k19
    · rename_i z20 z21 z22 z23
      have k24 : Calm a0 z21 := Calm.ofGot z23 (by
          apply getRanges_calm
          exact k3)
      split
      · rename_i z25 z26 z27 z28
        have k29 := Calm.ofFst z28 (a := a0) (by
            apply writeRanges_calm
            exact k24)
        apply failItem_calm
        exact k29
      · rename_i z30 z31 z32
        have k33 := Calm.ofFst z32 (a := a0) (by
            apply writeRanges_calm
            exact k24)
        apply issued_calm
        exact k33

theorem runEval_calm {a0 s : State} (h0 : Calm a0 s) (i : Item) (d : SnapD) (v : SurvivalCfg) : Calm a0 (runEval s i d v) := by
  unfold runEval
  split
  · rename_i z0
    apply shipEval_calm
    exact h0
  · rename_i z1
    split
    · rename_i z2 z3 z4 z5 z6
      apply packEval_calm
      exact h0
    · rename_i z7 z8
      extract_lets x9
      have k10 : Calm a0 x9 := by
        unfold x9
        apply takeOwnPin_calm
        exact h0
      clear_value x9
      split
      · rename_i z11 z12 z13
        split
        · rename_i z14 z15 z16 z17 z18
          apply packEval_calm
          exact k10
        · rename_i z19 z20
          exact k10
      · rename_i z21 z22
        exact k10

theorem execEval_calm {a0 s : State} (h0 : Calm a0 s) (c : CtxIx) (seq : Nat) : OutCalm a0 (execEval c seq s) := by
  unfold execEval
  apply OutCalm.next
  split
  · rename_i z0 z1 z2 z3 z4
    apply runEval_calm
    exact h0
  · rename_i z5 z6
    exact h0

theorem bufferAt_calm {a0 s : State} (h0 : Calm a0 s) (r : ItemRef) (area : Nat) (round : Nat) (tensor : Nat) (reach : Nat) : Calm a0 (bufferAt s r area round tensor reach).1 := by
  unfold bufferAt
  split
  · rename_i z0
    exact h0
  · rename_i z1
    split
    · rename_i z2 z3 z4 z5
      have k6 := Calm.ofFst z5 (a := a0) (by
          apply itemRead_calm
          exact h0)
      exact k6
    · rename_i z7 z8 z9
      have k10 := Calm.ofFst z9 (a := a0) (by
          apply itemRead_calm
          exact h0)
      exact k10
    · rename_i z11 z12 z13 z14
      have k15 := Calm.ofFst z14 (a := a0) (by
          apply itemRead_calm
          exact h0)
      exact k15

theorem findCopy_calm {a0 s : State} (h0 : Calm a0 s) (r : ItemRef) (area : Nat) (round : Nat) (tensor : Nat) (reach : Nat) : Calm a0 (findCopy s r area round tensor reach).1 := by
  unfold findCopy
  split
  · rename_i z0 z1 z2 z3 z4
    have k5 := Calm.ofFst z4 (a := a0) (by
        apply bufferAt_calm
        exact h0)
    split
    · rename_i z6 z7 z8 z9
      have k10 := Calm.ofFst z9 (a := a0) (by
          apply itemRead_calm
          exact k5)
      exact k10
    · rename_i z11 z12 z13
      have k14 := Calm.ofFst z13 (a := a0) (by
          apply itemRead_calm
          exact k5)
      exact k14
    · rename_i z15 z16 z17 z18
      have k19 := Calm.ofFst z18 (a := a0) (by
          apply itemRead_calm
          exact k5)
      extract_lets x20
      clear_value x20
      split
      · rename_i z21
        exact k19
      · rename_i z22
        exact k19
  · rename_i z23 z24
    apply bufferAt_calm
    exact h0

theorem writeRestore_calm {a0 s : State} (h0 : Calm a0 s) (i : Item) (d : SnapD) (bs : List Byte) : Calm a0 (writeRestore s i d bs) := by
  unfold writeRestore
  split
  · rename_i z0 z1 z2 z3
    have k4 := Calm.ofFst z3 (a := a0) (by
        apply writeRanges_calm
        exact h0)
    apply failItem_calm
    exact k4
  · rename_i z5 z6 z7
    have k8 := Calm.ofFst z7 (a := a0) (by
        apply writeRanges_calm
        exact h0)
    apply issued_calm
    apply State.modItem_calm
    exact k8

theorem restoreRead_calm {a0 s : State} (h0 : Calm a0 s) (r : ItemRef) (d : SnapD) (a : Nat) (bs : List Byte) : Calm a0 (restoreRead s r d a bs).1 := by
  unfold restoreRead
  extract_lets x0
  clear_value x0
  apply blur_calm
  apply State.modItem_calm
  exact h0

theorem restoreCopy_calm {a0 s : State} (h0 : Calm a0 s) (i : Item) (d : SnapD) (area : Nat) : Calm a0 (restoreCopy s i d area) := by
  unfold restoreCopy
  split
  · rename_i z0 z1 z2 z3
    have k4 := Calm.ofFst z3 (a := a0) (by
        apply findCopy_calm
        exact h0)
    apply failItem_calm
    exact k4
  · rename_i z5 z6 z7
    have k8 := Calm.ofFst z7 (a := a0) (by
        apply findCopy_calm
        exact h0)
    exact k8
  · rename_i z9 z10 z11 z12 z13
    have k14 := Calm.ofFst z13 (a := a0) (by
        apply findCopy_calm
        exact h0)
    split
    · rename_i z15 z16 z17 z18
      have k19 : Calm a0 z16 := Calm.ofGot z18 (by
          apply getRanges_calm
          exact k14)
      apply failItem_calm
      exact k19
    · rename_i z20 z21 z22
      have k23 : Calm a0 z21 := Calm.ofGot z22 (by
          apply getRanges_calm
          exact k14)
      exact k23
    · rename_i z24 z25 z26 z27
      have k28 : Calm a0 z25 := Calm.ofGot z27 (by
          apply getRanges_calm
          exact k14)
      split
      · rename_i z29 z30 z31 z32
        have k33 := Calm.ofFst z32 (a := a0) (by
            apply restoreRead_calm
            exact k28)
        apply writeRestore_calm
        exact k33

theorem sourceBytes_calm {a0 s : State} (h0 : Calm a0 s) (r : ItemRef) (d : SnapD) (src : Nat × Nat × Bool) (lo : Nat) (len : Nat) : Calm a0 (sourceBytes s r d src lo len).1 := by
  unfold sourceBytes
  split
  · rename_i z0 z1 z2 z3
    have k4 := Calm.ofFst z3 (a := a0) (by
        apply findCopy_calm
        exact h0)
    exact k4
  · rename_i z5 z6 z7
    have k8 := Calm.ofFst z7 (a := a0) (by
        apply findCopy_calm
        exact h0)
    exact k8
  · rename_i z9 z10 z11 z12 z13
    have k14 := Calm.ofFst z13 (a := a0) (by
        apply findCopy_calm
        exact h0)
    extract_lets x15 x16
    clear_value x15
    clear_value x16
    split
    · rename_i z17 z18 z19 z20
      have k21 := Calm.ofFst z20 (a := a0) (by
          apply itemRead_calm
          exact k14)
      split
      · rename_i z22 z23 z24 z25
        have k26 := Calm.ofFst z25 (a := a0) (by
            apply restoreRead_calm
            exact k21)
        exact k26
    · rename_i z27 z28
      apply itemRead_calm
      exact k14

theorem rebuildPiece_calm {a0 s : State} (h0 : Calm a0 s) (r : ItemRef) (d : SnapD) (v : SurvivalCfg) (g : Group) (m : Nat) (n : Nat) (lo : Nat) (len : Nat) : Calm a0 (rebuildPiece s r d v g m n lo len).1 := by
  unfold rebuildPiece
  split
  · rename_i z0 z1 z2 z3
    have k4 := Calm.ofFst z3 (a := a0) (by
        apply Calm.foldFst
        · exact h0
        · intro y5 y6 y7
          split
          · rename_i z8 z9 z10 z11
            have k12 := Calm.ofFst z11 (a := a0) (by
                apply sourceBytes_calm
                exact y7)
            exact k12)
    split
    · rename_i z13 z14 z15
      have k16 := Calm.ofFst z3 (a := a0) (by
          apply Calm.foldFst
          · exact h0
          · intro y17 y18 y19
            split
            · rename_i z20 z21 z22 z23
              have k24 := Calm.ofFst z23 (a := a0) (by
                  apply sourceBytes_calm
                  exact y19)
              exact k24)
      exact k4
    · rename_i z25 z26 z27 z28
      have k29 := Calm.ofFst z3 (a := a0) (by
          apply Calm.foldFst
          · exact h0
          · intro y30 y31 y32
            split
            · rename_i z33 z34 z35 z36
              have k37 := Calm.ofFst z36 (a := a0) (by
                  apply sourceBytes_calm
                  exact y32)
              exact k37)
      exact k4

theorem restoreParity_calm {a0 s : State} (h0 : Calm a0 s) (i : Item) (d : SnapD) (v : SurvivalCfg) : Calm a0 (restoreParity s i d v) := by
  unfold restoreParity
  split
  · rename_i z0 z1
    apply failItem_calm
    exact h0
  · rename_i z2 z3 z4
    split
    · rename_i z5 z6 z7
      have k8 := Calm.ofFst z7 (a := a0) (by
          apply packCores_calm
          exact h0)
      exact k8
    · rename_i z9 z10 z11
      have k12 := Calm.ofFst z11 (a := a0) (by
          apply packCores_calm
          exact h0)
      extract_lets x13 x14 x15
      clear_value x13
      clear_value x14
      clear_value x15
      split
      · rename_i z16 z17 z18 z19
        have k20 := Calm.ofFst z19 (a := a0) (by
            apply Calm.foldFst
            · exact k12
            · intro y21 y22 y23
              extract_lets x24 x25 x26
              clear_value x24
              clear_value x25
              clear_value x26
              split
              · rename_i z27 z28 z29 z30
                have k31 := Calm.ofFst z30 (a := a0) (by
                    apply rebuildPiece_calm
                    exact y23)
                exact k31)
        split
        · rename_i z32 z33
          have k34 := Calm.ofFst z19 (a := a0) (by
              apply Calm.foldFst
              · exact k12
              · intro y35 y36 y37
                extract_lets x38 x39 x40
                clear_value x38
                clear_value x39
                clear_value x40
                split
                · rename_i z41 z42 z43 z44
                  have k45 := Calm.ofFst z44 (a := a0) (by
                      apply rebuildPiece_calm
                      exact y37)
                  exact k45)
          apply failItem_calm
          exact k20
        · rename_i z46
          have k47 := Calm.ofFst z19 (a := a0) (by
              apply Calm.foldFst
              · exact k12
              · intro y48 y49 y50
                extract_lets x51 x52 x53
                clear_value x51
                clear_value x52
                clear_value x53
                split
                · rename_i z54 z55 z56 z57
                  have k58 := Calm.ofFst z57 (a := a0) (by
                      apply rebuildPiece_calm
                      exact y50)
                  exact k58)
          exact k20
        · rename_i z59 z60
          have k61 := Calm.ofFst z19 (a := a0) (by
              apply Calm.foldFst
              · exact k12
              · intro y62 y63 y64
                extract_lets x65 x66 x67
                clear_value x65
                clear_value x66
                clear_value x67
                split
                · rename_i z68 z69 z70 z71
                  have k72 := Calm.ofFst z71 (a := a0) (by
                      apply rebuildPiece_calm
                      exact y64)
                  exact k72)
          apply writeRestore_calm
          exact k20

theorem runRestore_calm {a0 s : State} (h0 : Calm a0 s) (i : Item) (d : SnapD) (v : SurvivalCfg) : Calm a0 (runRestore s i d v) := by
  unfold runRestore
  split
  · rename_i z0
    apply restoreCopy_calm
    exact h0
  · rename_i z1
    split
    · rename_i z2
      apply restoreCopy_calm
      exact h0
    · rename_i z3
      split
      · rename_i z4
        apply restoreCopy_calm
        exact h0
      · rename_i z5
        apply restoreParity_calm
        exact h0

theorem execRestore_calm {a0 s : State} (h0 : Calm a0 s) (c : CtxIx) (seq : Nat) : OutCalm a0 (execRestore c seq s) := by
  unfold execRestore
  apply OutCalm.next
  split
  · rename_i z0 z1 z2 z3 z4
    apply runRestore_calm
    exact h0
  · rename_i z5 z6
    exact h0

end Sys2Proof.Machine
end

