-- ==== Sys2Proof/Laws/CalmHost.lean ====
section
/-! SUPPORT. What each operation leaves of the device (Calm): requests that arrive, the Larder, the control space, the Porch, the Gatehouse, the Spejan and the integrity monitors. -/

set_option Elab.async false
set_option linter.unusedVariables false

namespace Sys2Proof.Machine

/-! ## Machine/Serve.lean -/

theorem chargePacket_calm {a0 s : State} (h0 : Calm a0 s) (who : Who) (k : Packet) : Calm a0 (chargePacket s who k) := by
  unfold chargePacket
  split
  · rename_i z0 z1 z2 z3
    apply chargeRequest_calm
    exact h0
  · rename_i z4 z5
    exact h0

theorem serve_calm {a0 s : State} (h0 : Calm a0 s) (src : Nat) (who : Who) (k : Packet) : Calm a0 (serve s src who k).1 := by
  unfold serve
  extract_lets x0
  clear_value x0
  split
  · rename_i z1
    exact h0
  · rename_i z2
    split
    · rename_i z3
      exact h0
    · rename_i z4
      split
      · rename_i z5
        dsimp only
        apply chargePacket_calm
        exact h0
      · rename_i z6
        split
        · rename_i z7 z8 z9 z10
          have k11 := Calm.ofFst z10 (a := a0) (by
              apply Calm.foldFst
              · dsimp only
                apply chargePacket_calm
                exact h0
              · intro y12 y13 y14
                split
                · rename_i z15 z16 z17 z18
                  have k19 := Calm.ofFst z18 (a := a0) (by
                      apply reachHome_calm
                      exact y14)
                  exact k19)
          exact k11

theorem readDone_calm {a0 s : State} (h0 : Calm a0 s) (q : Req) (bs : List Byte) : Calm a0 (readDone s q bs) := by
  unfold readDone
  extract_lets x0
  have k1 : Calm a0 x0 := by
    unfold x0
    apply State.dropReq_calm
    exact h0
  clear_value x0
  split
  · rename_i z2 z3 z4 z5 z6 z7 z8 z9
    apply waitCame_calm
    apply State.modItem_calm
    exact k1
  · rename_i z10 z11 z12 z13 z14 z15 z16 z17 z18
    apply resumeIntake_calm
    apply State.modCtx_calm
    exact k1
  · rename_i z19 z20 z21 z22 z23
    exact k1

theorem failRequest_calm {a0 s : State} (h0 : Calm a0 s) (q : Req) (code : Nat) : Calm a0 (failRequest s q code) := by
  unfold failRequest
  split
  · rename_i z0 z1 z2 z3 z4 z5 z6 z7 z8
    apply resumeIntake_calm
    apply State.modCtx_calm
    apply State.dropReq_calm
    exact h0
  · rename_i z9 z10 z11 z12
    apply fenceFailed_calm
    apply requestFailed_calm
    exact h0

theorem markRetry_calm {a0 s : State} (h0 : Calm a0 s) (q : Req) : Calm a0 (markRetry s q) := by
  unfold markRetry
  extract_lets x0
  clear_value x0
  split
  · rename_i z1
    apply lateNoCommit_calm
    apply State.dropReq_calm
    exact h0
  · rename_i z2
    exact Calm.put h0

theorem failLost_calm {a0 v1 : State} (h0 : Calm a0 v1) (v0 : Nat) : Calm a0 (failLost v0 v1) := by
  induction v0 generalizing v1 with
  | zero =>
    unfold failLost
    exact h0
  | succ n ih =>
    unfold failLost
    split
    · rename_i z0 z1 z2
      apply ih
      apply failRequest_calm
      exact h0
    · rename_i z3 z4
      exact h0

theorem settleOne_calm {a0 s : State} (h0 : Calm a0 s) (q : Req) (r : Reply) : Calm a0 (settleOne s q r) := by
  unfold settleOne
  split
  · rename_i z0 z1
    split
    · rename_i z2
      apply readDone_calm
      exact h0
    · rename_i z3
      exact h0
  · rename_i z4
    split
    · rename_i z5
      exact h0
    · rename_i z6
      apply writeDone_calm
      exact h0
  · rename_i z7 z8 z9 z10
    split
    · rename_i z11
      apply afterSettle_calm
      apply atomicDone_calm
      apply State.dropReq_calm
      exact h0
    · rename_i z12
      exact h0
  · rename_i z13 z14
    split
    · rename_i z15 z16 z17
      apply failRequest_calm
      exact h0
    · rename_i z18 z19
      exact h0
  · rename_i z20
    apply markRetry_calm
    exact h0

theorem settle_calm {a0 s : State} (h0 : Calm a0 s) (q : Req) (r : Reply) : Calm a0 (settle s q r) := by
  unfold settle
  extract_lets x0
  have k1 : Calm a0 x0 := by
    unfold x0
    apply settleOne_calm
    exact h0
  clear_value x0
  apply failLost_calm
  exact k1

theorem endRequest_calm {a0 s : State} (h0 : Calm a0 s) (q : Req) (code : Nat) : Calm a0 (endRequest s q code) := by
  unfold endRequest
  extract_lets x0
  have k1 : Calm a0 x0 := by
    unfold x0
    apply failRequest_calm
    exact h0
  clear_value x0
  apply failLost_calm
  exact k1

theorem reissue_calm {a0 s : State} (h0 : Calm a0 s) (q : Req) : Calm a0 (reissue s q) := by
  unfold reissue
  split
  · rename_i z0
    split
    · rename_i z1 z2 z3 z4
      have k5 := Calm.ofFst z4 (a := a0) (by
          apply serve_calm
          exact h0)
      apply settle_calm
      exact k5
    · rename_i z6 z7 z8
      have k9 := Calm.ofFst z8 (a := a0) (by
          apply serve_calm
          exact h0)
      exact k9
  · rename_i z10
    extract_lets x11
    have k12 : Calm a0 x11 := by
      unfold x11
      apply sendFor_calm
      exact h0
    clear_value x11
    apply failLost_calm
    exact k12

/-! ## Machine/Larder.lean -/

theorem deliver_calm {a0 s : State} (h0 : Calm a0 s) (x : Access) (a : Ans) : Calm a0 (deliver s x a) := by
  unfold deliver
  split
  · rename_i z0 z1 z2
    split
    · rename_i z3 z4 z5
      apply addFlags_calm
      exact h0
    · rename_i z6
      extract_lets x7
      clear_value x7
      apply State.request_calm
      exact h0
    · rename_i z8 z9 z10
      split
      · rename_i z11 z12 z13
        apply failItem_calm
        exact h0
      · rename_i z14 z15
        exact h0
  · rename_i z16 z17 z18 z19
    apply State.sendPacket_calm
    exact h0
  · rename_i z20 z21 z22
    split
    · rename_i z23
      apply joinLine_calm
      exact h0
    · rename_i z24
      exact h0

theorem performAccess_calm {a0 s : State} (h0 : Calm a0 s) (x : Access) (ecc : Ecc) : Calm a0 (performAccess s x ecc) := by
  unfold performAccess
  split
  · rename_i z0
    exact h0
  · rename_i z1
    split
    · rename_i z2 z3 z4 z5
      have k6 := Calm.ofFst z5 (a := a0) (by
          apply performHome_calm
          apply chargeRequest_calm
          exact h0)
      apply deliver_calm
      exact k6

theorem bringAccess_calm {a0 s : State} (h0 : Calm a0 s) (x : Access) : Calm a0 (bringAccess s x) := by
  unfold bringAccess
  split
  · rename_i z0
    exact h0
  · rename_i z1
    split
    · rename_i z2 z3 z4 z5
      have k6 := Calm.ofFst z5 (a := a0) (by
          apply reachHome_calm
          apply chargeRequest_calm
          exact h0)
      apply deliver_calm
      exact k6

theorem deliverServed_calm {a0 s : State} (h0 : Calm a0 s) : Calm a0 (deliverServed s) := by
  unfold deliverServed
  apply Calm.fold
  · apply State.modMem_calm
    exact h0
  · intro y0 y1 y2
    apply deliver_calm
    exact y2

theorem arriveLine_calm {a0 s : State} (h0 : Calm a0 s) (x : Access) : Calm a0 (arriveLine s x) := by
  unfold arriveLine
  split
  · rename_i z0
    apply performAccess_calm
    exact h0
  · rename_i z1
    apply joinLine_calm
    exact h0

theorem execLarderAccess_calm {a0 s : State} (h0 : Calm a0 s) (arrivals : List Access) (line : Nat) (ecc : Ecc) : OutCalm a0 (execLarderAccess arrivals line ecc s) := by
  unfold execLarderAccess
  apply OutCalm.next
  split
  · rename_i z0
    extract_lets x1 x2
    have k3 : Calm a0 x1 := by
      unfold x1
      apply Calm.fold
      · apply deliverServed_calm
        exact h0
      · intro y4 y5 y6
        apply arriveLine_calm
        exact y6
    clear_value x1
    clear_value x2
    split
    · rename_i z7 z8 z9
      split
      · rename_i z10 z11 z12
        apply performAccess_calm
        apply State.modMem_calm
        exact k3
      · rename_i z13 z14
        exact k3
    · rename_i z15 z16
      exact k3
  · rename_i z17
    exact h0

theorem arriveCellar_calm {a0 s : State} (h0 : Calm a0 s) (k : Nat) (x : Access) : Calm a0 (arriveCellar k s x) := by
  unfold arriveCellar
  split
  · rename_i z0
    exact h0
  · rename_i z1
    split
    · rename_i z2 z3 z4 z5 z6
      extract_lets x7
      clear_value x7
      apply State.modMem_calm
      apply modRegs_calm
      exact h0
    · rename_i z8 z9 z10
      apply bringAccess_calm
      exact h0

theorem grant_calm {a0 s : State} (h0 : Calm a0 s) (k : Nat) (s0 : Option Nat × List Int) : Calm a0 (grant s k s0) := by
  unfold grant
  split
  · rename_i z0 z1
    exact h0
  · rename_i z2 z3 z4
    split
    · rename_i z5 z6
      exact h0
    · rename_i z7 z8 z9 z10
      extract_lets x11
      have k12 : Calm a0 x11 := by
        unfold x11
        apply modRegs_calm
        exact h0
      clear_value x11
      apply bringAccess_calm
      exact k12

theorem execRegulatorGrant_calm {a0 s : State} (h0 : Calm a0 s) (k : LandIx) (arrivals : List Access) : OutCalm a0 (execRegulatorGrant k arrivals s) := by
  unfold execRegulatorGrant
  apply OutCalm.next
  split
  · rename_i z0
    extract_lets x1
    have k2 : Calm a0 x1 := by
      unfold x1
      apply modRegs_calm
      apply Calm.fold
      · apply deliverServed_calm
        exact h0
      · intro y3 y4 y5
        apply arriveCellar_calm
        exact y5
    clear_value x1
    split
    · rename_i z6 z7 z8 z9
      apply grant_calm
      exact k2
    · rename_i z10 z11 z12
      split
      · rename_i z13 z14 z15
        extract_lets x16 x17
        have k18 : Calm a0 x16 := by
          unfold x16
          apply State.upTo_calm
          exact k2
        clear_value x16
        have k19 : Calm a0 x17 := by
          unfold x17
          apply modRegs_calm
          exact k18
        clear_value x17
        apply grant_calm
        exact k19
      · rename_i z20 z21
        exact k2
  · rename_i z22
    exact h0

theorem scrubBlock_calm {a0 s : State} (h0 : Calm a0 s) (off : Nat) (ecc : Ecc) : Calm a0 (scrubBlock s off ecc) := by
  unfold scrubBlock
  split
  · rename_i z0
    exact h0
  · rename_i z1
    split
    · rename_i z2 z3
      exact h0
    · rename_i z4 z5
      apply foundCorrected_calm
      exact h0
    · rename_i z6 z7
      apply drainDue_calm
      apply foundUncorrectable_calm
      exact h0
    · rename_i z8 z9
      apply State.modMem_calm
      exact h0
    · rename_i z10 z11 z12 z13
      split
      · rename_i z14
        apply foundCorrected_calm
        exact h0
      · rename_i z15
        exact h0

theorem scrubStack_calm {a0 s : State} (h0 : Calm a0 s) (st : StackIx) (ecc : Ecc) : Calm a0 (scrubStack s st ecc) := by
  unfold scrubStack
  split
  · rename_i z0
    extract_lets x1
    clear_value x1
    apply State.modMem_calm
    apply scrubBlock_calm
    exact h0
  · rename_i z2
    exact h0

theorem execPatrolScrubRead_calm {a0 s : State} (h0 : Calm a0 s) (st : StackIx) (x : ScrubRead) : OutCalm a0 (execPatrolScrubRead st x s) := by
  unfold execPatrolScrubRead
  apply OutCalm.next
  split
  · rename_i z0
    apply scrubStack_calm
    apply Calm.fold
    · exact h0
    · intro y1 y2 y3
      apply hitUpset_calm
      exact y3
  · rename_i z4
    exact h0

theorem execDataEyeLockLoss_calm {a0 s : State} (h0 : Calm a0 s) (st : StackIx) : OutCalm a0 (execDataEyeLockLoss st s) := by
  unfold execDataEyeLockLoss
  apply OutCalm.next
  split
  · rename_i z0
    apply State.modMem_calm
    exact h0
  · rename_i z1
    exact h0

theorem execStackRetrainComplete_calm {a0 s : State} (h0 : Calm a0 s) (x : StackRetrain) : OutCalm a0 (execStackRetrainComplete x s) := by
  unfold execStackRetrainComplete
  apply OutCalm.next
  split
  · rename_i z0
    apply State.modMem_calm
    exact h0
  · rename_i z1
    exact h0

theorem execStackRetrainTimeout_calm {a0 s : State} (h0 : Calm a0 s) (st : StackIx) : OutCalm a0 (execStackRetrainTimeout st s) := by
  unfold execStackRetrainTimeout
  apply OutCalm.next
  extract_lets x0 x1
  clear_value x0
  have k2 : Calm a0 x1 := by
    unfold x1
    apply State.upTo_calm
    exact h0
  clear_value x1
  split
  · rename_i z3
    split
    · rename_i z4
      apply State.modMem_calm
      exact k2
    · rename_i z5
      apply raiseError_calm
      apply State.modMem_calm
      exact k2
  · rename_i z6
    exact h0

theorem execPantryReleaseComplete_calm {a0 s : State} (h0 : Calm a0 s) (d : DieIx) : OutCalm a0 (execPantryReleaseComplete d s) := by
  unfold execPantryReleaseComplete
  apply OutCalm.next
  extract_lets x0 x1
  clear_value x0
  have k2 : Calm a0 x1 := by
    unfold x1
    apply State.upTo_calm
    exact h0
  clear_value x1
  split
  · rename_i z3
    apply State.modMem_calm
    exact k2
  · rename_i z4
    exact h0

/-! ## Machine/Tick.lean -/

theorem startRetrains_calm {a0 s : State} (h0 : Calm a0 s) : Calm a0 (startRetrains s) := by
  unfold startRetrains
  apply State.modMem_calm
  exact h0

/-! ## Machine/Control.lean -/

theorem touchLedger_calm {a0 s : State} (h0 : Calm a0 s) (who : Reader) (o : Nat) (n : Nat) : Calm a0 (touchLedger s who o n) := by
  unfold touchLedger
  apply Calm.fold
  · exact h0
  · intro y0 y1 y2
    apply deviceRead_calm
    exact y2

theorem writeCtxReset_calm {a0 s : State} (h0 : Calm a0 s) (c : Nat) : Calm a0 (writeCtxReset s c) := by
  unfold writeCtxReset
  split
  · rename_i z0
    apply resetContext_calm
    exact h0
  · rename_i z1
    exact h0

theorem modBank_calm {a0 s : State} (h0 : Calm a0 s) (die : Nat) (f : Bank → Bank) : Calm a0 (modBank s die f) := by
  unfold modBank
  split
  · rename_i z0
    exact h0
  · rename_i z1
    exact Calm.put h0

theorem writeCounterCtl_calm {a0 s : State} (h0 : Calm a0 s) (die : Nat) (v : W64) : Calm a0 (writeCounterCtl s die v) := by
  unfold writeCounterCtl
  extract_lets x0
  apply modBank_calm
  exact h0

theorem execCtxCtlReset_calm {a0 s : State} (h0 : Calm a0 s) (w : Writer) (c : CtxIx) : OutCalm a0 (execCtxCtlReset w c s) := by
  unfold execCtxCtlReset
  apply OutCalm.next
  split
  · rename_i z0
    apply writeCtxReset_calm
    exact h0
  · rename_i z1
    exact h0

theorem execCounterClear_calm {a0 s : State} (h0 : Calm a0 s) (w : Writer) (die : Fin 100) : OutCalm a0 (execCounterClear w die s) := by
  unfold execCounterClear
  apply OutCalm.next
  split
  · rename_i z0
    apply modBank_calm
    exact h0
  · rename_i z1
    exact h0

theorem execCounterRun_calm {a0 s : State} (h0 : Calm a0 s) (w : Writer) (die : Fin 100) : OutCalm a0 (execCounterRun w die s) := by
  unfold execCounterRun
  apply OutCalm.next
  split
  · rename_i z0
    apply modBank_calm
    exact h0
  · rename_i z1
    exact h0

theorem execCounterSelect_calm {a0 s : State} (h0 : Calm a0 s) (w : Writer) (die : Fin 100) (program : Fin 8) (run : Bool) : OutCalm a0 (execCounterSelect w die program run s) := by
  unfold execCounterSelect
  apply OutCalm.next
  split
  · rename_i z0
    apply modBank_calm
    exact h0
  · rename_i z1
    exact h0

/-! ## Machine/Porch.lean -/

theorem discardFrame_calm {a0 s : State} (h0 : Calm a0 s) : Calm a0 (discardFrame s) := by
  unfold discardFrame
  exact Calm.put h0

theorem reportUnreachable_calm {a0 s : State} (h0 : Calm a0 s) (q : Nat) : Calm a0 (reportUnreachable s q) := by
  unfold reportUnreachable
  apply Calm.fold
  · exact h0
  · intro y0 y1 y2
    split
    · rename_i z3
      apply endRequest_calm
      exact y2
    · rename_i z4
      exact y2

theorem pfcUpdate_calm {a0 s : State} (h0 : Calm a0 s) : Calm a0 (pfcUpdate s) := by
  unfold pfcUpdate
  apply Calm.fold
  · exact h0
  · intro y0 y1 y2
    split
    · rename_i z3
      exact y2
    · rename_i z4
      extract_lets x5 x6 x7 x8
      clear_value x5
      clear_value x6
      clear_value x7
      split
      · rename_i z9
        dsimp only [x8]
        refine Calm.put (s := y0.porchOut (PorchOut.pause y1 true)) ?_
        apply State.porchOut_calm
        exact y2
      · rename_i z10
        split
        · rename_i z11
          dsimp only [x8]
          refine Calm.put (s := y0.porchOut (PorchOut.pause y1 false)) ?_
          apply State.porchOut_calm
          exact y2
        · rename_i z12
          exact y2

theorem qpError_calm {a0 s : State} (h0 : Calm a0 s) (q : Nat) (cause : Nat) : Calm a0 (qpError s q cause) := by
  unfold qpError
  split
  · rename_i z0
    extract_lets x1 x2 x3 x4
    have k5 : Calm a0 x1 := by
      unfold x1
      apply State.modQp_calm
      exact h0
    clear_value x1
    clear_value x2
    have k6 : Calm a0 x3 := by
      unfold x3
      exact Calm.put k5
    clear_value x3
    clear_value x4
    apply pfcUpdate_calm
    apply reportUnreachable_calm
    exact Calm.put k6
  · rename_i z7
    exact h0

theorem nakFatal_calm {a0 s : State} (h0 : Calm a0 s) (q : Nat) (o : PorchOut) : Calm a0 (nakFatal s q o) := by
  unfold nakFatal
  apply qpError_calm
  apply State.porchOut_calm
  exact h0

theorem ghReply_calm {a0 s : State} (h0 : Calm a0 s) (m : GhMsg) (status : Nat) (body : List W64) (data : List Byte) : Calm a0 (ghReply s m status body data) := by
  unfold ghReply
  extract_lets x0
  clear_value x0
  split
  · rename_i z1
    apply State.sendHost_calm
    exact h0
  · rename_i z2
    exact h0

theorem hostRead_calm {a0 s : State} (h0 : Calm a0 s) (q : Nat) (ps : List (Nat × Nat)) (ecc : List Ecc) : Calm a0 (hostRead s q ps ecc).1 := by
  unfold hostRead
  extract_lets x0
  have k1 : Calm a0 x0 := by
    unfold x0
    apply chargeRequest_calm
    exact h0
  clear_value x0
  apply Calm.foldFst
  · exact k1
  · intro y2 y3 y4
    split
    · rename_i z5
      split
      · rename_i z6 z7 z8 z9
        have k10 := Calm.ofFst z9 (a := a0) (by
            apply reachHome_calm
            exact y4)
        exact k10
      · rename_i z11 z12 z13 z14 z15
        have k16 := Calm.ofFst z15 (a := a0) (by
            apply reachHome_calm
            exact y4)
        exact k16
    · rename_i z17
      exact y4

theorem hostWrite_calm {a0 s : State} (h0 : Calm a0 s) (q : Nat) (off : Nat) (bs : List Byte) : Calm a0 (hostWrite s q off bs) := by
  unfold hostWrite
  apply Calm.fold
  · apply chargeRequest_calm
    exact h0
  · intro y0 y1 y2
    apply reachHome_calm
    exact y2

theorem sendAnswers_calm {a0 v1 : State} (h0 : Calm a0 v1) (v0 : Nat) (v2 : Nat) : Calm a0 (sendAnswers v0 v1 v2) := by
  induction v0 generalizing v1 v2 with
  | zero =>
    unfold sendAnswers
    exact h0
  | succ n ih =>
    unfold sendAnswers
    split
    · rename_i z0 z1 z2
      split
      · rename_i z3 z4 z5
        extract_lets x6 x7
        have k8 : Calm a0 x6 := by
          unfold x6
          apply State.modQp_calm
          exact h0
        clear_value x6
        have k9 : Calm a0 x7 := by
          unfold x7
          apply Calm.fold
          · exact k8
          · intro y10 y11 y12
            apply State.porchOut_calm
            exact y12
        clear_value x7
        split
        · rename_i z13
          apply qpError_calm
          exact k9
        · rename_i z14
          apply ih
          exact k9
      · rename_i z15 z16
        exact h0
    · rename_i z17 z18
      exact h0

theorem noteCe_calm {a0 s : State} (h0 : Calm a0 s) (q : Nat) (ce : Bool) : Calm a0 (noteCe s q ce) := by
  unfold noteCe
  split
  · rename_i z0 z1 z2 z3
    extract_lets x4
    clear_value x4
    split
    · rename_i z5
      apply State.modQp_calm
      apply State.porchOut_calm
      exact h0
    · rename_i z6
      exact h0
  · rename_i z7 z8 z9 z10
    exact h0

theorem hostMessage_calm {a0 s : State} (h0 : Calm a0 s) (q : Nat) (x : HostFrame) (use : State → State) (h_use : ∀ (q0 : State), Calm a0 q0 → Calm a0 (use q0)) : Calm a0 (hostMessage s q x use) := by
  unfold hostMessage
  split
  · rename_i z0
    exact h0
  · rename_i z1
    split
    · rename_i z2
      apply discardFrame_calm
      exact h0
    · rename_i z3
      split
      · rename_i z4
        apply h_use
        apply noteCe_calm
        exact h0
      · rename_i z5
        exact h0

theorem nakNoRoom_calm {a0 s : State} (h0 : Calm a0 s) (q : Nat) (psn : BitVec 24) : Calm a0 (nakNoRoom s q psn) := by
  unfold nakNoRoom
  extract_lets x0
  clear_value x0
  split
  · rename_i z1
    apply State.modQp_calm
    apply State.porchOut_calm
    exact h0
  · rename_i z2
    exact h0

theorem goOnHeld_calm {a0 s : State} (h0 : Calm a0 s) : Calm a0 (goOnHeld s) := by
  unfold goOnHeld
  apply Calm.fold
  · exact h0
  · intro y0 y1 y2
    apply resumeIntake_calm
    split
    · rename_i z3
      apply drain_calm
      exact y2
    · rename_i z4
      exact y2

theorem execInvalidRequest_calm {a0 s : State} (h0 : Calm a0 s) (q : QpIx) (h : HostHead) : OutCalm a0 (execInvalidRequest q h s) := by
  unfold execInvalidRequest
  apply OutCalm.next
  apply hostMessage_calm
  · exact h0
  · intro y0 y1
    apply nakFatal_calm
    apply count_calm
    exact y1

theorem drainWritten_calm {a0 s : State} (h0 : Calm a0 s) (q : Req) (c : Nat) (upTo : BitVec 32) : Calm a0 (drainWritten s q c upTo) := by
  unfold drainWritten
  extract_lets x0
  have k1 : Calm a0 x0 := by
    unfold x0
    apply State.modCtx_calm
    apply State.dropReq_calm
    exact h0
  clear_value x0
  split
  · rename_i z2 z3 z4
    extract_lets x5
    clear_value x5
    apply goOnIntake_calm
    split
    · rename_i z6
      apply drain_calm
      exact k1
    · rename_i z7
      exact k1
  · rename_i z8 z9
    exact k1

theorem errorsWritten_calm {a0 s : State} (h0 : Calm a0 s) (q : Req) (upTo : Nat) : Calm a0 (errorsWritten s q upTo) := by
  unfold errorsWritten
  extract_lets x0 x1 x2
  have k3 : Calm a0 x0 := by
    unfold x0
    apply State.dropReq_calm
    exact h0
  clear_value x0
  clear_value x1
  have k4 : Calm a0 x2 := by
    unfold x2
    exact Calm.put k3
  clear_value x2
  split
  · rename_i z5
    apply drainErrors_calm
    exact k4
  · rename_i z6
    apply drainDue_calm
    exact k4

theorem hostSettle_calm {a0 s : State} (h0 : Calm a0 s) (q : Req) (bytes : List Byte) : Calm a0 (hostSettle s q bytes) := by
  unfold hostSettle
  split
  · rename_i z0 z1 z2 z3
    split
    · rename_i z4
      apply readDone_calm
      exact h0
    · rename_i z5
      exact h0
  · rename_i z6 z7 z8 z9
    apply drainWritten_calm
    exact h0
  · rename_i z10 z11 z12
    apply errorsWritten_calm
    exact h0
  · rename_i z13 z14
    apply State.dropReq_calm
    exact h0
  · rename_i z15 z16 z17 z18 z19
    apply writeDone_calm
    exact h0

theorem retransmit_calm {a0 s : State} (h0 : Calm a0 s) (q : Nat) : Calm a0 (retransmit s q) := by
  unfold retransmit
  extract_lets x0 x1
  clear_value x0
  have k2 : Calm a0 x1 := by
    unfold x1
    exact Calm.put h0
  clear_value x1
  apply Calm.fold
  · exact k2
  · intro y3 y4 y5
    split
    · rename_i z6 z7 z8
      apply State.readyOut_calm
      exact y5
    · rename_i z9 z10
      exact y5

theorem settleUpTo_calm {a0 v1 : State} (h0 : Calm a0 v1) (v0 : Nat) (v2 : Nat) (v3 : BitVec 24) (v4 : List Byte) : Calm a0 (settleUpTo v0 v1 v2 v3 v4) := by
  induction v0 generalizing v1 v2 v3 v4 with
  | zero =>
    unfold settleUpTo
    exact h0
  | succ n ih =>
    unfold settleUpTo
    split
    · rename_i z0 z1 z2 z3
      extract_lets x4
      split
      · rename_i z5 z6 z7 z8
        split
        · rename_i z9
          apply ih
          dsimp only [x4]
          apply hostSettle_calm
          apply State.modQp_calm
          apply State.sentRequest_calm
          exact h0
        · rename_i z10
          split
          · rename_i z11
            apply retransmit_calm
            exact h0
          · rename_i z12
            exact h0
      · rename_i z13 z14
        split
        · rename_i z15
          apply ih
          dsimp only [x4]
          apply hostSettle_calm
          apply State.modQp_calm
          apply State.sentRequest_calm
          exact h0
        · rename_i z16
          exact h0
    · rename_i z17 z18
      exact h0

theorem execHostAck_calm {a0 s : State} (h0 : Calm a0 s) (q : QpIx) (a : HostAck) : OutCalm a0 (execHostAck q a s) := by
  unfold execHostAck
  apply OutCalm.next
  apply hostMessage_calm
  · exact h0
  · intro y0 y1
    extract_lets x2
    have k3 : Calm a0 x2 := by
      unfold x2
      apply count_calm
      exact y1
    clear_value x2
    apply State.transmit_calm
    apply settleUpTo_calm
    exact k3

theorem retryQp_calm {a0 s : State} (h0 : Calm a0 s) (k : QpCfg) (x : Qp) : Calm a0 (retryQp s k x) := by
  unfold retryQp
  split
  · rename_i z0
    apply qpError_calm
    exact h0
  · rename_i z1
    apply retransmit_calm
    apply State.modQp_calm
    exact h0

theorem execHostNak_calm {a0 s : State} (h0 : Calm a0 s) (q : QpIx) (n : HostNak) : OutCalm a0 (execHostNak q n s) := by
  unfold execHostNak
  apply OutCalm.next
  apply hostMessage_calm
  · exact h0
  · intro y0 y1
    extract_lets x2 x3
    have k4 : Calm a0 x2 := by
      unfold x2
      apply count_calm
      exact y1
    clear_value x2
    have k5 : Calm a0 x3 := by
      unfold x3
      apply settleUpTo_calm
      exact k4
    clear_value x3
    split
    · rename_i z6 z7 z8 z9 z10 z11
      split
      · rename_i z12
        exact k5
      · rename_i z13
        split
        · rename_i z14 z15
          apply retryQp_calm
          exact k5
        · rename_i z16 z17
          split
          · rename_i z18
            apply qpError_calm
            exact k5
          · rename_i z19
            apply retransmit_calm
            apply State.modQp_calm
            exact k5
        · rename_i z20 z21 z22
          apply qpError_calm
          exact k5
    · rename_i z23 z24 z25
      exact k5

theorem execAckTimeout_calm {a0 s : State} (h0 : Calm a0 s) (q : QpIx) : OutCalm a0 (execAckTimeout q s) := by
  unfold execAckTimeout
  apply OutCalm.next
  split
  · rename_i z0 z1 z2 z3 z4 z5 z6 z7 z8 z9
    split
    · rename_i z10
      apply retryQp_calm
      apply State.upTo_calm
      exact h0
    · rename_i z11
      exact h0
  · rename_i z12 z13 z14 z15
    exact h0

theorem execCnp_calm {a0 s : State} (h0 : Calm a0 s) (q : QpIx) : OutCalm a0 (execCnp q s) := by
  unfold execCnp
  apply OutCalm.next
  split
  · rename_i z0 z1 z2
    extract_lets x3 x4 x5
    clear_value x3
    clear_value x4
    clear_value x5
    split
    · rename_i z6
      apply State.modQp_calm
      exact h0
    · rename_i z7
      exact h0
  · rename_i z8 z9
    exact h0

theorem execRecIntervalExpiry_calm {a0 s : State} (h0 : Calm a0 s) (q : QpIx) : OutCalm a0 (execRecIntervalExpiry q s) := by
  unfold execRecIntervalExpiry
  apply OutCalm.next
  split
  · rename_i z0 z1 z2
    split
    · rename_i z3
      extract_lets x4 x5
      have k6 : Calm a0 x4 := by
        unfold x4
        apply State.upTo_calm
        exact h0
      clear_value x4
      clear_value x5
      apply State.transmit_calm
      apply State.modQp_calm
      exact k6
    · rename_i z7
      exact h0
  · rename_i z8 z9
    exact h0

theorem execPfcPause_calm {a0 s : State} (h0 : Calm a0 s) (prio : Fin 8) (xoff : Bool) : OutCalm a0 (execPfcPause prio xoff s) := by
  unfold execPfcPause
  apply OutCalm.next
  split
  · rename_i z0
    extract_lets x1 x2
    clear_value x1
    clear_value x2
    apply State.transmit_calm
    exact Calm.put h0
  · rename_i z3
    exact h0

theorem execArp_calm {a0 s : State} (h0 : Calm a0 s) (ip : BitVec 32) (mac : BitVec 48) : OutCalm a0 (execArp ip mac s) := by
  unfold execArp
  apply OutCalm.next
  split
  · rename_i z0
    split
    · rename_i z1
      apply State.porchOut_calm
      exact h0
    · rename_i z2
      apply discardFrame_calm
      exact h0
  · rename_i z3
    exact h0

theorem execNeighborSolicitation_calm {a0 s : State} (h0 : Calm a0 s) (ip : BitVec 128) (mac : BitVec 48) : OutCalm a0 (execNeighborSolicitation ip mac s) := by
  unfold execNeighborSolicitation
  apply OutCalm.next
  split
  · rename_i z0
    split
    · rename_i z1
      apply State.porchOut_calm
      exact h0
    · rename_i z2
      apply discardFrame_calm
      exact h0
  · rename_i z3
    exact h0

theorem execFrameDiscard_calm {a0 s : State} (h0 : Calm a0 s) : OutCalm a0 (execFrameDiscard s) := by
  unfold execFrameDiscard
  apply OutCalm.next
  split
  · rename_i z0
    apply discardFrame_calm
    exact h0
  · rename_i z1
    exact h0

theorem porchDown_calm {a0 s : State} (h0 : Calm a0 s) : Calm a0 (porchDown s) := by
  unfold porchDown
  split
  · rename_i z0
    exact Calm.put h0
  · rename_i z1
    exact h0

theorem execPorchLinkDown_calm {a0 s : State} (h0 : Calm a0 s) : OutCalm a0 (execPorchLinkDown s) := by
  unfold execPorchLinkDown
  apply OutCalm.next
  split
  · rename_i z0
    apply porchDown_calm
    exact h0
  · rename_i z1
    exact h0

theorem execPorchRetrainAttempt_calm {a0 s : State} (h0 : Calm a0 s) : OutCalm a0 (execPorchRetrainAttempt s) := by
  unfold execPorchRetrainAttempt
  apply OutCalm.next
  split
  · rename_i z0
    extract_lets x1 x2
    have k3 : Calm a0 x1 := by
      unfold x1
      apply State.upTo_calm
      exact h0
    clear_value x1
    clear_value x2
    exact Calm.put k3
  · rename_i z4
    exact h0

theorem execPorchLinkUp_calm {a0 s : State} (h0 : Calm a0 s) : OutCalm a0 (execPorchLinkUp s) := by
  unfold execPorchLinkUp
  apply OutCalm.next
  split
  · rename_i z0
    apply State.transmit_calm
    exact Calm.put h0
  · rename_i z1
    exact h0

/-! ## Machine/Release.lean -/

theorem changeQps_calm {a0 s : State} (h0 : Calm a0 s) (old : Cfg) (new : Cfg) : Calm a0 (changeQps s old new) := by
  unfold changeQps
  extract_lets x0 x1 x2 x3
  clear_value x1
  have k4 : Calm a0 x2 := by
    unfold x2
    apply Calm.fold
    · exact h0
    · intro y5 y6 y7
      apply reportUnreachable_calm
      exact y7
  clear_value x2
  clear_value x3
  exact Calm.put k4

theorem reopenContexts_calm {a0 s : State} (h0 : Calm a0 s) : Calm a0 (reopenContexts s) := by
  unfold reopenContexts
  extract_lets x0
  have k1 : Calm a0 x0 := by
    unfold x0
    apply Calm.fold
    · exact h0
    · intro y2 y3 y4
      split
      · rename_i z5
        apply releasePins_calm
        exact y4
      · rename_i z6
        exact y4
  clear_value x0
  exact Calm.put k1

/-! ## Machine/Gate.lean -/

theorem thenOk_calm {a0 s : State} (h0 : Calm a0 s) (m : GhMsg) (f : State → State) (h_f : ∀ (q0 : State), Calm a0 q0 → Calm a0 (f q0)) : Calm a0 (thenOk m f s) := by
  unfold thenOk
  apply ghReply_calm
  apply h_f
  exact h0

theorem okThen_calm {a0 s : State} (h0 : Calm a0 s) (m : GhMsg) (f : State → State) (h_f : ∀ (q0 : State), Calm a0 q0 → Calm a0 (f q0)) : Calm a0 (okThen m f s) := by
  unfold okThen
  apply h_f
  apply ghReply_calm
  exact h0

theorem resumeDrains_calm {a0 s : State} (h0 : Calm a0 s) (q : Nat) : Calm a0 (resumeDrains s q) := by
  unfold resumeDrains
  extract_lets x0
  have k1 : Calm a0 x0 := by
    unfold x0
    apply Calm.fold
    · exact h0
    · intro y2 y3 y4
      split
      · rename_i z5
        exact y4
      · rename_i z6
        apply drain_calm
        exact y4
  clear_value x0
  split
  · rename_i z7
    apply drainErrors_calm
    exact k1
  · rename_i z8
    exact k1

theorem resetQp_calm {a0 s : State} (h0 : Calm a0 s) (k : QpCfg) (tx : BitVec 24) (rx : BitVec 24) : Calm a0 (resetQp s k tx rx) := by
  unfold resetQp
  extract_lets x0 x1 x2
  have k3 : Calm a0 x0 := by
    unfold x0
    apply reportUnreachable_calm
    exact h0
  clear_value x0
  clear_value x1
  have k4 : Calm a0 x2 := by
    unfold x2
    exact Calm.put k3
  clear_value x2
  apply pfcUpdate_calm
  apply resumeDrains_calm
  apply State.modQp_calm
  exact k4

theorem sendFwd_calm {a0 s : State} (h0 : Calm a0 s) (p : Nat) (typ : Nat) (word1 : Nat) (body : List Byte) : Calm a0 (sendFwd s p typ word1 body) := by
  unfold sendFwd
  apply enqueue_calm
  exact h0

theorem forwardImage_calm {a0 s : State} (h0 : Calm a0 s) (w : ImageWrite) (p : Nat) : Calm a0 (forwardImage s w p) := by
  unfold forwardImage
  extract_lets x0 x1
  clear_value x0
  have k2 : Calm a0 x1 := by
    unfold x1
    apply sendFwd_calm
    exact h0
  clear_value x1
  apply Calm.fold
  · exact k2
  · intro y3 y4 y5
    apply sendFwd_calm
    exact y5

theorem takeFabMsg_calm {a0 s : State} (h0 : Calm a0 s) (p : Nat) (typ : Nat) (m : FabMsg) (f : State → State) (h_f : ∀ (q0 : State), Calm a0 q0 → Calm a0 (f q0)) : Calm a0 (takeFabMsg s p typ m f) := by
  unfold takeFabMsg
  split
  · rename_i z0
    exact h0
  · rename_i z1
    split
    · rename_i z2
      apply State.modPort_calm
      exact h0
    · rename_i z3
      split
      · rename_i z4
        exact h0
      · rename_i z5
        apply h_f
        exact h0

theorem sendResult_calm {a0 s : State} (h0 : Calm a0 s) (p : Nat) (status : Nat) (fail : Nat) : Calm a0 (sendResult s p status fail) := by
  unfold sendResult
  apply sendFwd_calm
  exact h0

/-! ## Machine/Spejan.lean -/

theorem discardPacket_calm {a0 s : State} (h0 : Calm a0 s) (p : Nat) : Calm a0 (discardPacket s p) := by
  unfold discardPacket
  apply State.modPort_calm
  exact h0

theorem discardRecord_calm {a0 s : State} (h0 : Calm a0 s) (p : Nat) (k : Packet) (stall : Bool) : Calm a0 (discardRecord s p k stall) := by
  unfold discardRecord
  apply raiseError_calm
  exact h0

theorem answerArrive_calm {a0 s : State} (h0 : Calm a0 s) (k : Packet) : Calm a0 (answerArrive s k) := by
  unfold answerArrive
  split
  · rename_i z0 z1 z2
    split
    · rename_i z3
      split
      · rename_i z4 z5 z6
        apply settle_calm
        exact h0
      · rename_i z7 z8
        exact h0
    · rename_i z9
      exact h0
  · rename_i z10 z11
    exact h0

theorem requestArrive_calm {a0 s : State} (h0 : Calm a0 s) (p : Nat) (k : Packet) : Calm a0 (requestArrive s p k) := by
  unfold requestArrive
  split
  · rename_i z0 z1 z2 z3
    have k4 := Calm.ofFst z3 (a := a0) (by
        apply serve_calm
        exact h0)
    apply drainDue_calm
    apply State.sendPacket_calm
    exact k4
  · rename_i z5 z6 z7
    have k8 := Calm.ofFst z7 (a := a0) (by
        apply serve_calm
        exact h0)
    exact k8

theorem collPacketArrive_calm {a0 s : State} (h0 : Calm a0 s) (k : Packet) : Calm a0 (collPacketArrive s k) := by
  unfold collPacketArrive
  split
  · rename_i z0
    exact h0
  · rename_i z1
    split
    · rename_i z2
      apply parityArrive_calm
      exact h0
    · rename_i z3
      apply collArrive_calm
      exact h0

theorem crushPacketArrive_calm {a0 s : State} (h0 : Calm a0 s) (p : Nat) (k : Packet) : Calm a0 (crushPacketArrive s p k) := by
  unfold crushPacketArrive
  split
  · rename_i z0
    apply crushArrive_calm
    apply count_calm
    exact h0
  · rename_i z1
    exact h0

theorem transit_calm {a0 s : State} (h0 : Calm a0 s) (p : Nat) (lane : Nat) (k : Packet) : Calm a0 (transit s p lane k) := by
  unfold transit
  extract_lets x0
  split
  · rename_i z1
    dsimp only [x0]
    apply owe_calm
    apply discardRecord_calm
    apply discardPacket_calm
    exact h0
  · rename_i z2
    apply OptCalm.getD
    · apply routePacket_calm
      exact h0
    · dsimp only [x0]
      apply owe_calm
      apply discardPacket_calm
      exact h0

theorem badFlit_calm {a0 s : State} (h0 : Calm a0 s) (p : Nat) (f : Flit) : Calm a0 (badFlit s p f) := by
  unfold badFlit
  extract_lets x0 x1
  clear_value x0
  have k2 : Calm a0 x1 := by
    unfold x1
    split
    · rename_i z3
      exact h0
    · rename_i z4
      apply State.modPort_calm
      exact h0
  clear_value x1
  split
  · rename_i z5
    apply State.modPort_calm
    exact k2
  · rename_i z6
    exact k2

theorem finishDisable_calm {a0 s : State} (h0 : Calm a0 s) (p : Nat) : Calm a0 (finishDisable s p) := by
  unfold finishDisable
  extract_lets x0 x1 x2
  clear_value x0
  have k3 : Calm a0 x1 := by
    unfold x1
    apply State.modPort_calm
    apply sendTrain_calm
    exact h0
  clear_value x1
  have k4 : Calm a0 x2 := by
    unfold x2
    apply rerouteQueue_calm
    exact k3
  clear_value x2
  split
  · rename_i z5
    apply State.modPort_calm
    exact k4
  · rename_i z6
    exact k4

theorem disableDone_calm {a0 s : State} (h0 : Calm a0 s) (p : Nat) : Calm a0 (disableDone s p) := by
  unfold disableDone
  extract_lets x0
  clear_value x0
  split
  · rename_i z1
    apply finishDisable_calm
    exact h0
  · rename_i z2
    exact h0

theorem goodFlit_calm {a0 s : State} (h0 : Calm a0 s) (p : Nat) (f : Flit) : Calm a0 (goodFlit s p f) := by
  unfold goodFlit
  extract_lets x0 x1
  clear_value x0
  apply disableDone_calm
  apply State.pump_calm
  apply State.modPort_calm
  exact h0

theorem flitTime_calm {a0 s : State} (h0 : Calm a0 s) (p : Nat) : Calm a0 (flitTime s p) := by
  unfold flitTime
  split
  · rename_i z0
    apply State.modPort_calm
    exact h0
  · rename_i z1
    exact h0

theorem execIdle_calm {a0 s : State} (h0 : Calm a0 s) (p : PortIx) (f : Flit) : OutCalm a0 (execIdle p f s) := by
  unfold execIdle
  apply OutCalm.next
  split
  · rename_i z0
    exact h0
  · rename_i z1
    split
    · rename_i z2
      apply badFlit_calm
      exact h0
    · rename_i z3
      split
      · rename_i z4
        apply flitTime_calm
        apply goodFlit_calm
        exact h0
      · rename_i z5
        exact h0

theorem nakFlit_calm {a0 s : State} (h0 : Calm a0 s) (p : Nat) (f : Flit) : Calm a0 (nakFlit s p f) := by
  unfold nakFlit
  extract_lets x0 x1 x2
  have k3 : Calm a0 x0 := by
    unfold x0
    apply goodFlit_calm
    exact h0
  clear_value x0
  clear_value x1
  have k4 : Calm a0 x2 := by
    unfold x2
    apply count_calm
    apply State.modPort_calm
    exact k3
  clear_value x2
  split
  · rename_i z5
    exact k3
  · rename_i z6
    split
    · rename_i z7
      apply linkDown_calm
      exact k4
    · rename_i z8
      exact k4

theorem execNak_calm {a0 s : State} (h0 : Calm a0 s) (p : PortIx) (f : Flit) : OutCalm a0 (execNak p f s) := by
  unfold execNak
  apply OutCalm.next
  split
  · rename_i z0
    exact h0
  · rename_i z1
    split
    · rename_i z2
      apply badFlit_calm
      exact h0
    · rename_i z3
      split
      · rename_i z4
        apply flitTime_calm
        apply nakFlit_calm
        exact h0
      · rename_i z5
        exact h0

theorem farDisable_calm {a0 s : State} (h0 : Calm a0 s) (p : Nat) : Calm a0 (farDisable s p) := by
  unfold farDisable
  extract_lets x0
  clear_value x0
  split
  · rename_i z1
    apply finishDisable_calm
    exact h0
  · rename_i z2
    apply rerouteQueue_calm
    apply State.modPort_calm
    exact h0

theorem identityCheck_calm {a0 s : State} (h0 : Calm a0 s) (p : Nat) (f : Flit) : Calm a0 (identityCheck s p f) := by
  unfold identityCheck
  extract_lets x0 x1 x2 x3 x4 x5 x6
  clear_value x0
  clear_value x1
  clear_value x2
  clear_value x3
  have k7 : Calm a0 x5 := by
    unfold x5
    apply sendTrain_calm
    apply State.modPort_calm
    exact h0
  clear_value x5
  have k8 : Calm a0 x6 := by
    unfold x6
    apply State.modPort_calm
    exact h0
  clear_value x6
  split
  · rename_i z9
    split
    · rename_i z10
      apply State.pump_calm
      apply State.modPort_calm
      exact k7
    · rename_i z11
      exact k7
  · rename_i z12
    split
    · rename_i z13
      apply State.modPort_calm
      exact h0
    · rename_i z14
      apply raiseError_calm
      exact k8

theorem execTrain_calm {a0 s : State} (h0 : Calm a0 s) (p : PortIx) (f : Flit) : OutCalm a0 (execTrain p f s) := by
  unfold execTrain
  apply OutCalm.next
  split
  · rename_i z0
    exact h0
  · rename_i z1
    split
    · rename_i z2
      apply badFlit_calm
      exact h0
    · rename_i z3
      split
      · rename_i z4
        exact h0
      · rename_i z5
        split
        · rename_i z6
          apply farDisable_calm
          exact h0
        · rename_i z7
          split
          · rename_i z8
            apply linkDown_calm
            exact h0
          · rename_i z9
            split
            · rename_i z10
              apply identityCheck_calm
              exact h0
            · rename_i z11
              exact h0

theorem execLinkDownTimeout_calm {a0 s : State} (h0 : Calm a0 s) (p : PortIx) : OutCalm a0 (execLinkDownTimeout p s) := by
  unfold execLinkDownTimeout
  apply OutCalm.next
  split
  · rename_i z0
    apply linkDown_calm
    apply State.upTo_calm
    exact h0
  · rename_i z1
    exact h0

theorem execPortRetrainTimeout_calm {a0 s : State} (h0 : Calm a0 s) (p : PortIx) : OutCalm a0 (execPortRetrainTimeout p s) := by
  unfold execPortRetrainTimeout
  apply OutCalm.next
  extract_lets x0 x1
  clear_value x0
  have k2 : Calm a0 x1 := by
    unfold x1
    apply State.upTo_calm
    exact h0
  clear_value x1
  split
  · rename_i z3
    split
    · rename_i z4
      apply State.modPort_calm
      exact k2
    · rename_i z5
      apply raiseError_calm
      apply State.modPort_calm
      exact k2
  · rename_i z6
    exact h0

theorem execPortDisableTimeout_calm {a0 s : State} (h0 : Calm a0 s) (p : PortIx) : OutCalm a0 (execPortDisableTimeout p s) := by
  unfold execPortDisableTimeout
  apply OutCalm.next
  split
  · rename_i z0
    apply finishDisable_calm
    apply State.upTo_calm
    exact h0
  · rename_i z1
    exact h0

theorem execFecLock_calm {a0 s : State} (h0 : Calm a0 s) (p : PortIx) : OutCalm a0 (execFecLock p s) := by
  unfold execFecLock
  apply OutCalm.next
  split
  · rename_i z0
    apply sendTrain_calm
    apply State.modPort_calm
    exact h0
  · rename_i z1
    exact h0

theorem execTrainingPatternReceived_calm {a0 s : State} (h0 : Calm a0 s) (p : PortIx) : OutCalm a0 (execTrainingPatternReceived p s) := by
  unfold execTrainingPatternReceived
  apply OutCalm.next
  split
  · rename_i z0
    apply State.modPort_calm
    exact h0
  · rename_i z1
    exact h0

theorem typeArrive_calm {a0 s : State} (h0 : Calm a0 s) (m : FabMsg) (typ : Nat) (f : State → FabMsg → State) (h_f : ∀ (q0 : State) (q1 : FabMsg), Calm a0 q0 → Calm a0 (f q0 q1)) : Calm a0 (typeArrive s m typ f) := by
  unfold typeArrive
  split
  · rename_i z0
    exact h0
  · rename_i z1
    split
    · rename_i z2
      apply discardPacket_calm
      exact h0
    · rename_i z3
      split
      · rename_i z4
        apply h_f
        exact h0
      · rename_i z5
        exact h0

theorem execNotUsed_calm {a0 s : State} (h0 : Calm a0 s) (m : FabMsg) : OutCalm a0 (execNotUsed m s) := by
  unfold execNotUsed
  apply OutCalm.next
  apply typeArrive_calm
  · exact h0
  · intro y0 y1 y2
    apply notUsedArrive_calm
    exact y2

theorem execCrushDone_calm {a0 s : State} (h0 : Calm a0 s) (m : FabMsg) : OutCalm a0 (execCrushDone m s) := by
  unfold execCrushDone
  apply OutCalm.next
  apply typeArrive_calm
  · exact h0
  · intro y0 y1 y2
    apply crushDoneArrive_calm
    exact y2

theorem execFoldNotice_calm {a0 s : State} (h0 : Calm a0 s) (m : FabMsg) : OutCalm a0 (execFoldNotice m s) := by
  unfold execFoldNotice
  apply OutCalm.next
  apply typeArrive_calm
  · exact h0
  · intro y0 y1 y2
    apply foldNoticeArrive_calm
    exact y2

theorem execCloseReport_calm {a0 s : State} (h0 : Calm a0 s) (m : FabMsg) : OutCalm a0 (execCloseReport m s) := by
  unfold execCloseReport
  apply OutCalm.next
  apply typeArrive_calm
  · exact h0
  · intro y0 y1 y2
    apply closeReportArrive_calm
    exact y2

theorem unqueue_calm {a0 s : State} (h0 : Calm a0 s) (p : Nat) (x : LanePacket) : Calm a0 (unqueue s p x) := by
  unfold unqueue
  extract_lets x0
  apply State.modPort_calm
  exact h0

theorem leaveMain_calm {a0 s : State} (h0 : Calm a0 s) (p : Nat) (x : LanePacket) : Calm a0 (leaveMain s p x) := by
  unfold leaveMain
  split
  · rename_i z0 z1 z2
    apply enqueue_calm
    apply unqueue_calm
    exact h0
  · rename_i z3 z4
    split
    · rename_i z5 z6 z7
      apply enqueue_calm
      apply unqueue_calm
      exact h0
    · rename_i z8 z9
      exact h0

theorem execEscapeWaitExpiry_calm {a0 s : State} (h0 : Calm a0 s) (p : PortIx) (cls : Fin 4) : OutCalm a0 (execEscapeWaitExpiry p cls s) := by
  unfold execEscapeWaitExpiry
  apply OutCalm.next
  split
  · rename_i z0
    split
    · rename_i z1 z2 z3 z4
      apply leaveMain_calm
      apply State.upTo_calm
      exact h0
    · rename_i z5 z6
      exact h0
  · rename_i z7
    exact h0

theorem execStallLimitExpiry_calm {a0 s : State} (h0 : Calm a0 s) (p : PortIx) (cls : Fin 4) (lane : Fin 3) : OutCalm a0 (execStallLimitExpiry p cls lane s) := by
  unfold execStallLimitExpiry
  apply OutCalm.next
  split
  · rename_i z0
    split
    · rename_i z1 z2 z3 z4
      extract_lets x5 x6
      have k7 : Calm a0 x5 := by
        unfold x5
        apply unqueue_calm
        apply State.upTo_calm
        exact h0
      clear_value x5
      have k8 : Calm a0 x6 := by
        unfold x6
        apply State.modPort_calm
        exact k7
      clear_value x6
      apply State.pump_calm
      apply discardRecord_calm
      apply owePacket_calm
      exact k8
    · rename_i z9 z10
      exact h0
  · rename_i z11
    exact h0

theorem execRespTimeout_calm {a0 s : State} (h0 : Calm a0 s) (reqId : BitVec 16) : OutCalm a0 (execRespTimeout reqId s) := by
  unfold execRespTimeout
  apply OutCalm.next
  split
  · rename_i z0 z1 z2
    split
    · rename_i z3
      apply endRequest_calm
      apply State.upTo_calm
      exact h0
    · rename_i z4
      exact h0
  · rename_i z5 z6
    exact h0

/-! ## Machine/Integrity.lean -/

theorem leaveGenerator_calm {a0 s : State} (h0 : Calm a0 s) (d : Nat) (g : Nat) : Calm a0 (leaveGenerator s d g) := by
  unfold leaveGenerator
  extract_lets x0
  clear_value x0
  split
  · rename_i z1
    apply State.modDie_calm
    exact h0
  · rename_i z2
    split
    · rename_i z3
      apply State.modDie_calm
      exact h0
    · rename_i z4
      apply State.modDie_calm
      exact h0

theorem execErrorDrainTimer_calm {a0 s : State} (h0 : Calm a0 s) : OutCalm a0 (execErrorDrainTimer s) := by
  unfold execErrorDrainTimer
  apply OutCalm.next
  split
  · rename_i z0
    apply drainErrors_calm
    apply State.upTo_calm
    exact h0
  · rename_i z1
    exact h0

end Sys2Proof.Machine
end

