-- ==== Sys2Proof/Laws/LeftOps.lean ====
section
/-! SUPPORT. What each operation leaves (Keeps): the shared operations: memory, the fabric, accesses, versions, the end of an item. -/

set_option Elab.async false
set_option linter.unusedVariables false

namespace Sys2Proof.Machine

/-! ## Machine/Parts.lean -/

theorem State.upTo_keeps {a0 s : State} (h0 : Keeps a0 s) (t : Nat) : Keeps a0 (State.upTo s t) := by
  unfold State.upTo
  exact Keeps.put h0

theorem State.takeFree_keeps {a0 s : State} (h0 : Keeps a0 s) : Keeps a0 (State.takeFree s).2 := by
  unfold State.takeFree
  dsimp only
  exact Keeps.put h0

theorem State.modCtx_keeps {a0 s : State} (h0 : Keeps a0 s) (c : Nat) (f : Ctx → Ctx) : Keeps a0 (State.modCtx s c f) := by
  unfold State.modCtx
  exact Keeps.put h0

theorem State.modItem_keeps {a0 s : State} (h0 : Keeps a0 s) (r : ItemRef) (f : Item → Item) : Keeps a0 (State.modItem s r f) := by
  unfold State.modItem
  exact Keeps.put h0

/-! ## Machine/Counters.lean -/

theorem count_keeps {a0 s : State} (h0 : Keeps a0 s) (o : Occ) : Keeps a0 (count s o) := by
  unfold count
  split
  · rename_i z0
    exact Keeps.put h0
  · rename_i z1
    exact h0

/-! ## Machine/Errors.lean -/

theorem writeError_keeps {a0 s : State} (h0 : Keeps a0 s) (e : ErrInfo) : Keeps a0 (writeError s e) := by
  unfold writeError
  split
  · rename_i z0
    exact h0
  · rename_i z1
    extract_lets x2 x3 x4 x5 x6 x7 x8
    clear_value x2
    clear_value x3
    clear_value x4
    clear_value x5
    clear_value x6
    clear_value x7
    have k9 : Keeps a0 x8 := by
      unfold x8
      exact Keeps.put h0
    clear_value x8
    apply count_keeps
    apply count_keeps
    exact k9

theorem State.modQp_keeps {a0 s : State} (h0 : Keeps a0 s) (q : Nat) (f : Qp → Qp) : Keeps a0 (State.modQp s q f) := by
  unfold State.modQp
  exact Keeps.put h0

theorem State.sentOut_keeps {a0 s : State} (h0 : Keeps a0 s) (o : PorchOut) : Keeps a0 (State.sentOut s o) := by
  unfold State.sentOut
  apply count_keeps
  exact Keeps.put h0

theorem chargeRate_keeps {a0 s : State} (h0 : Keeps a0 s) (w : PorchWait) : Keeps a0 (chargeRate s w) := by
  unfold chargeRate
  split
  · rename_i z0 z1 z2 z3 z4
    split
    · rename_i z5 z6 z7
      extract_lets x8 x9 x10 x11
      clear_value x8
      clear_value x9
      clear_value x10
      clear_value x11
      apply State.modQp_keeps
      exact h0
    · rename_i z12 z13
      exact h0
  · rename_i z14 z15 z16
    exact h0

theorem sendPart_keeps {a0 s : State} (h0 : Keeps a0 s) (p : PorchWait → Bool) (w : PorchWait) : Keeps a0 (sendPart s p w) := by
  unfold sendPart
  extract_lets x0 x1 x2
  clear_value x0
  clear_value x1
  have k3 : Keeps a0 x2 := by
    unfold x2
    apply chargeRate_keeps
    exact Keeps.put h0
  clear_value x2
  split
  · rename_i z4
    apply State.sentOut_keeps
    exact k3
  · rename_i z5
    exact k3

theorem sendFirst_keeps {a0 v1 : State} (h0 : Keeps a0 v1) (v0 : Nat) : Keeps a0 (sendFirst v0 v1) := by
  induction v0 generalizing v1 with
  | zero =>
    unfold sendFirst
    exact h0
  | succ n ih =>
    unfold sendFirst
    split
    · rename_i z0 z1 z2
      apply ih
      apply sendPart_keeps
      exact h0
    · rename_i z3 z4
      exact h0

theorem sendPacketOf_keeps {a0 s : State} (h0 : Keeps a0 s) (q : Nat) : Keeps a0 (sendPacketOf s q) := by
  unfold sendPacketOf
  split
  · rename_i z0 z1
    exact h0
  · rename_i z2 z3 z4
    apply sendPart_keeps
    exact h0

theorem sendData_keeps {a0 v1 : State} (h0 : Keeps a0 v1) (v0 : Nat) : Keeps a0 (sendData v0 v1) := by
  induction v0 generalizing v1 with
  | zero =>
    unfold sendData
    exact h0
  | succ n ih =>
    unfold sendData
    split
    · rename_i z0 z1 z2 z3
      apply ih
      apply sendPacketOf_keeps
      exact Keeps.put h0
    · rename_i z4 z5 z6
      exact h0

theorem State.transmit_keeps {a0 s : State} (h0 : Keeps a0 s) : Keeps a0 (State.transmit s) := by
  unfold State.transmit
  split
  · rename_i z0
    extract_lets x1
    have k2 : Keeps a0 x1 := by
      unfold x1
      apply sendFirst_keeps
      exact h0
    clear_value x1
    apply sendData_keeps
    exact k2
  · rename_i z3
    exact h0

theorem State.readyOut_keeps {a0 s : State} (h0 : Keeps a0 s) (o : PorchOut) (req : Option Nat) : Keeps a0 (State.readyOut s o req) := by
  unfold State.readyOut
  split
  · rename_i z0
    exact h0
  · rename_i z1
    apply State.transmit_keeps
    exact Keeps.put h0

theorem State.porchOut_keeps {a0 s : State} (h0 : Keeps a0 s) (o : PorchOut) : Keeps a0 (State.porchOut s o) := by
  unfold State.porchOut
  apply State.readyOut_keeps
  exact h0

theorem State.sentRequest_keeps {a0 s : State} (h0 : Keeps a0 s) (id : Nat) : Keeps a0 (State.sentRequest s id) := by
  unfold State.sentRequest
  split
  · rename_i z0 z1 z2
    apply State.sentOut_keeps
    exact Keeps.put h0
  · rename_i z3 z4
    exact h0

theorem State.sendHost_keeps {a0 s : State} (h0 : Keeps a0 s) (q : Nat) (item : Option ItemRef) (ctx : Option Nat) (p : Purpose) (len : Nat) (mk : BitVec 24 → PorchOut) (imm : Option (BitVec 32)) : Keeps a0 (State.sendHost s q item ctx p len mk imm) := by
  unfold State.sendHost
  extract_lets x0 x1 x2 x3
  clear_value x0
  clear_value x1
  clear_value x2
  have k4 : Keeps a0 x3 := by
    unfold x3
    apply State.modQp_keeps
    apply State.readyOut_keeps
    exact h0
  clear_value x3
  exact Keeps.put k4

/-! ## Machine/Home.lean -/

theorem foundUncorrectable_keeps {a0 s : State} (h0 : Keeps a0 s) (who : Who) (off : Nat) (stack : Bool) (scrub : Bool) : Keeps a0 (foundUncorrectable s who off stack scrub) := by
  unfold foundUncorrectable
  split
  · rename_i z0 z1 z2 z3
    apply writeError_keeps
    apply State.modMem_keeps
    · exact h0
    · intro y4
      exact setPoison_keeps (.refl _) ..
  · rename_i z5 z6
    split
    · rename_i z7
      apply writeError_keeps
      apply State.modMem_keeps
      · exact h0
      · intro y8
        exact setPoison_keeps (.refl _) ..
    · rename_i z9
      extract_lets x10 x11
      clear_value x10
      have k12 : Keeps a0 x11 := by
        unfold x11
        apply State.modMem_keeps
        · exact h0
        · intro y13
          exact MemKeeps.fold (modStack_keeps (.refl _) ..) (fun _ _ h => setPoison_keeps h ..)
      clear_value x11
      apply writeError_keeps
      exact k12
  · rename_i z14 z15
    exact h0

theorem foundCorrected_keeps {a0 s : State} (h0 : Keeps a0 s) (off : Nat) : Keeps a0 (foundCorrected s off) := by
  unfold foundCorrected
  apply State.modMem_keeps
  · exact h0
  · intro y0
    exact larderTouch_keeps (modStack_keeps (MemKeeps.refl _) _ _) _ _ _

theorem applyOp_keeps {a0 s : State} (h0 : Keeps a0 s) (off : Nat) (op : AccOp) : Keeps a0 (applyOp s off op).1 := by
  unfold applyOp
  split
  · rename_i z0 z1
    exact h0
  · rename_i z2 z3 z4
    dsimp only
    apply State.modMem_keeps
    · exact h0
    · intro y5
      exact lineWrite_keeps (.refl _) ..
  · rename_i z6 z7 z8 z9
    extract_lets x10 x11 x12
    clear_value x10
    clear_value x11
    clear_value x12
    dsimp only
    apply State.modMem_keeps
    · exact h0
    · intro y13
      exact rawWrite_keeps (.refl _) ..
  · rename_i z14
    dsimp only
    apply State.modMem_keeps
    · exact h0
    · intro y15
      exact setPoison_keeps (.refl _) ..

theorem applyPoisoned_keeps {a0 s : State} (h0 : Keeps a0 s) (off : Nat) (op : AccOp) : Keeps a0 (applyPoisoned s off op).1 := by
  unfold applyPoisoned
  split
  · rename_i z0 z1
    exact h0
  · rename_i z2 z3 z4 z5
    exact h0
  · rename_i z6 z7 z8
    apply applyOp_keeps
    exact h0

theorem applyUncorrectable_keeps {a0 s : State} (h0 : Keeps a0 s) (who : Who) (off : Nat) (stack : Bool) (op : AccOp) : Keeps a0 (applyUncorrectable s who off stack op).1 := by
  unfold applyUncorrectable
  extract_lets x0
  have k1 : Keeps a0 x0 := by
    unfold x0
    apply foundUncorrectable_keeps
    exact h0
  clear_value x0
  split
  · rename_i z2 z3 z4
    apply applyOp_keeps
    exact k1
  · rename_i z5 z6
    exact k1

theorem applyFound_keeps {a0 s : State} (h0 : Keeps a0 s) (who : Who) (off : Nat) (op : AccOp) (v0 : Found) : Keeps a0 (applyFound s who off op v0).1 := by
  unfold applyFound
  split
  · rename_i z0
    apply applyPoisoned_keeps
    apply State.modMem_keeps
    · exact h0
    · intro y1
      exact setPoison_keeps (.refl _) ..
  · rename_i z2
    apply applyUncorrectable_keeps
    exact h0
  · rename_i z3
    apply applyOp_keeps
    apply State.modMem_keeps
    · exact h0
    · intro y4
      exact unpoison_keeps (.refl _) ..
  · rename_i z5
    apply applyOp_keeps
    apply foundCorrected_keeps
    apply State.modMem_keeps
    · exact h0
    · intro y6
      exact unpoison_keeps (.refl _) ..
  · rename_i z7 z8 z9
    extract_lets x10
    have k11 : Keeps a0 x10 := by
      unfold x10
      apply State.modMem_keeps
      · exact h0
      · intro y12
        exact miscorrected_keeps (.refl _) ..
    clear_value x10
    apply applyOp_keeps
    split
    · rename_i z13
      apply foundCorrected_keeps
      exact k11
    · rename_i z14
      exact k11

theorem applyArray_keeps {a0 s : State} (h0 : Keeps a0 s) (who : Who) (off : Nat) (op : AccOp) : Keeps a0 (applyArray s who off op).1 := by
  unfold applyArray
  split
  · rename_i z0
    apply applyPoisoned_keeps
    exact h0
  · rename_i z1
    split
    · rename_i z2
      apply applyUncorrectable_keeps
      exact h0
    · rename_i z3
      apply applyOp_keeps
      exact h0

theorem hitUpset_keeps {a0 s : State} (h0 : Keeps a0 s) (u : Upset) : Keeps a0 (hitUpset s u) := by
  unfold hitUpset
  apply State.modMem_keeps
  · exact h0
  · intro y0
    exact upsetMemory_keeps (.refl _) ..

theorem performAt_keeps {a0 s : State} (h0 : Keeps a0 s) (who : Who) (off : Nat) (op : AccOp) (ecc : Ecc) : Keeps a0 (performAt s who off op ecc).1 := by
  unfold performAt
  split
  · rename_i z0
    exact h0
  · rename_i z1
    split
    · rename_i z2 z3
      exact h0
    · rename_i z4 z5 z6 z7
      apply applyArray_keeps
      exact h0
    · rename_i z8 z9
      split
      · rename_i z10
        exact h0
      · rename_i z11
        split
        · rename_i z12 z13 z14 z15
          have k16 := Keeps.ofFst z15 (a := a0) (by
              split
              · rename_i z17
                apply applyFound_keeps
                exact h0
              · rename_i z18
                apply applyArray_keeps
                exact h0)
          dsimp only
          apply State.modMem_keeps
          · exact k16
          · intro y19
            exact larderTouch_keeps (.refl _) ..

theorem evictUpset_keeps {a0 s : State} (h0 : Keeps a0 s) (off : Nat) : Keeps a0 (evictUpset s off) := by
  unfold evictUpset
  split
  · rename_i z0 z1 z2
    split
    · rename_i z3
      apply foundUncorrectable_keeps
      exact h0
    · rename_i z4
      exact h0
  · rename_i z5 z6
    exact h0

theorem countPantry_keeps {a0 s : State} (h0 : Keeps a0 s) (o : Occ) (d : Nat) (a : Nat) (n : Nat) : Keeps a0 (countPantry s o d a n) := by
  unfold countPantry
  apply Keeps.fold
  · exact h0
  · intro y0 y1 y2
    apply count_keeps
    exact y2

theorem modRegs_keeps {a0 s : State} (h0 : Keeps a0 s) (k : Nat) (f : Nat → Regulator → Regulator) : Keeps a0 (modRegs s k f) := by
  unfold modRegs
  apply State.modMem_keeps
  · exact h0
  · intro y0
    exact (MemKeeps.refl _).put

theorem chargeCellar_keeps {a0 s : State} (h0 : Keeps a0 s) (who : Who) (off : Nat) (n : Nat) : Keeps a0 (chargeCellar s who off n) := by
  unfold chargeCellar
  split
  · rename_i z0 z1 z2
    apply modRegs_keeps
    exact h0
  · rename_i z3 z4
    exact h0

theorem chargeRequest_keeps {a0 s : State} (h0 : Keeps a0 s) (who : Who) (k : AccKind) (off : Nat) (n : Nat) : Keeps a0 (chargeRequest s who k off n) := by
  unfold chargeRequest
  apply Keeps.fold
  · exact h0
  · intro y0 y1 y2
    apply chargeCellar_keeps
    exact y2

theorem performHome_keeps {a0 s : State} (h0 : Keeps a0 s) (who : Who) (off : Nat) (op : AccOp) (ecc : Ecc) : Keeps a0 (performHome s who off op ecc).1 := by
  unfold performHome
  extract_lets x0
  have k1 : Keeps a0 x0 := by
    unfold x0
    split
    · rename_i z2
      apply evictUpset_keeps
      exact h0
    · rename_i z3
      exact h0
  clear_value x0
  split
  · rename_i z4 z5 z6 z7
    have k8 := Keeps.ofFst z7 (a := a0) (by
        apply performAt_keeps
        exact k1)
    split
    · rename_i z9 z10 z11
      have k12 := Keeps.ofFst z7 (a := a0) (by
          apply performAt_keeps
          exact k1)
      exact k8
    · rename_i z13 z14 z15
      have k16 := Keeps.ofFst z7 (a := a0) (by
          apply performAt_keeps
          exact k1)
      exact k8
    · rename_i z17 z18 z19 z20 z21 z22
      have k23 := Keeps.ofFst z7 (a := a0) (by
          apply performAt_keeps
          exact k1)
      dsimp only
      apply Keeps.fold
      · exact k8
      · intro y24 y25 y26
        apply count_keeps
        exact y26
    · rename_i z27 z28 z29 z30 z31
      have k32 := Keeps.ofFst z7 (a := a0) (by
          apply performAt_keeps
          exact k1)
      exact k8
    · rename_i z33 z34 z35 z36 z37 z38 z39
      have k40 := Keeps.ofFst z7 (a := a0) (by
          apply performAt_keeps
          exact k1)
      dsimp only
      apply countPantry_keeps
      exact k8
    · rename_i z41 z42 z43 z44 z45 z46 z47 z48
      have k49 := Keeps.ofFst z7 (a := a0) (by
          apply performAt_keeps
          exact k1)
      exact k8

theorem joinLine_keeps {a0 s : State} (h0 : Keeps a0 s) (x : Access) : Keeps a0 (joinLine s x) := by
  unfold joinLine
  apply State.modMem_keeps
  · exact h0
  · intro y0
    exact putQueue_keeps (.refl _) ..

theorem awaitLine_keeps {a0 v1 : State} (h0 : Keeps a0 v1) (v0 : Nat) (v2 : Nat) (v3 : Nat) : Keeps a0 (awaitLine v0 v1 v2 v3) := by
  induction v0 generalizing v1 v2 v3 with
  | zero =>
    unfold awaitLine
    exact h0
  | succ n ih =>
    unfold awaitLine
    extract_lets x0 x1
    clear_value x0
    clear_value x1
    split
    · rename_i z2 z3 z4
      split
      · rename_i z5
        apply State.modMem_keeps
        · exact h0
        · intro y6
          exact putQueue_keeps (.refl _) ..
      · rename_i z7
        split
        · rename_i z8 z9 z10
          split
          · rename_i z11 z12 z13 z14
            have k15 := Keeps.ofFst z14 (a := a0) (by
                apply performHome_keeps
                apply chargeRequest_keeps
                apply State.modMem_keeps
                · exact h0
                · intro y16
                  exact putQueue_keeps (.refl _) ..)
            apply ih
            apply State.modMem_keeps
            · exact k15
            · intro y17
              exact (MemKeeps.refl _).put
        · rename_i z18 z19
          exact h0
    · rename_i z20 z21
      exact h0

theorem reachHome_keeps {a0 s : State} (h0 : Keeps a0 s) (src : Nat) (who : Who) (off : Nat) (op : AccOp) (ecc : Ecc) : Keeps a0 (reachHome s src who off op ecc).1 := by
  unfold reachHome
  extract_lets x0 x1
  clear_value x0
  have k2 : Keeps a0 x1 := by
    unfold x1
    split
    · rename_i z3
      exact h0
    · rename_i z4
      apply awaitLine_keeps
      exact h0
  clear_value x1
  apply performHome_keeps
  exact k2

theorem deviceRead_keeps {a0 s : State} (h0 : Keeps a0 s) (off : Nat) (n : Nat) : Keeps a0 (deviceRead s off n).1 := by
  unfold deviceRead
  apply Keeps.foldFst
  · exact h0
  · intro y0 y1 y2
    split
    · rename_i z3 z4 z5 z6
      have k7 := Keeps.ofFst z6 (a := a0) (by
          apply reachHome_keeps
          exact y2)
      exact k7

/-! ## Machine/Fabric.lean -/

theorem State.modPort_keeps {a0 s : State} (h0 : Keeps a0 s) (p : Nat) (f : Port → Port) : Keeps a0 (State.modPort s p f) := by
  unfold State.modPort
  exact Keeps.put h0

theorem owe_keeps {a0 s : State} (h0 : Keeps a0 s) (p : Nat) (cls : Nat) (lane : Nat) (flits : Nat) : Keeps a0 (owe s p cls lane flits) := by
  unfold owe
  apply State.modPort_keeps
  exact h0

theorem owePacket_keeps {a0 s : State} (h0 : Keeps a0 s) (x : LanePacket) : Keeps a0 (owePacket s x) := by
  unfold owePacket
  split
  · rename_i z0
    apply owe_keeps
    exact h0
  · rename_i z1
    exact h0

theorem oweMoved_keeps {a0 s : State} (h0 : Keeps a0 s) (before : List LanePacket) (after : List LanePacket) : Keeps a0 (oweMoved s before after) := by
  unfold oweMoved
  apply Keeps.foldFst
  · exact h0
  · intro y0 y1 y2
    split
    · rename_i z3
      exact y2
    · rename_i z4
      dsimp only
      apply owePacket_keeps
      exact y2

theorem State.pump_keeps {a0 s : State} (h0 : Keeps a0 s) (p : Nat) : Keeps a0 (State.pump s p) := by
  unfold State.pump
  split
  · rename_i z0
    extract_lets x1 x2 x3
    have k4 : Keeps a0 x1 := by
      unfold x1
      apply State.modPort_keeps
      exact h0
    clear_value x1
    clear_value x2
    have k5 : Keeps a0 x3 := by
      unfold x3
      apply oweMoved_keeps
      exact k4
    clear_value x3
    split
    · rename_i z6
      exact k4
    · rename_i z7
      apply count_keeps
      exact k5
  · rename_i z8
    exact h0

theorem enqueue_keeps {a0 s : State} (h0 : Keeps a0 s) (p : Nat) (x : LanePacket) : Keeps a0 (enqueue s p x) := by
  unfold enqueue
  apply State.pump_keeps
  apply State.modPort_keeps
  exact h0

theorem routeSince_keeps {a0 s : State} (h0 : Keeps a0 s) (arrival : Option (Nat × Nat)) (epoch : Nat) (escaped : Bool) (k : Packet) : OptKeeps a0 (routeSince s arrival epoch escaped k) := by
  unfold routeSince
  extract_lets x0 x1 x2
  clear_value x0
  clear_value x1
  clear_value x2
  apply OptKeeps.map
  intro y3
  split
  · rename_i z4 z5 z6
    extract_lets x7
    clear_value x7
    split
    · rename_i z8
      apply owePacket_keeps
      exact h0
    · rename_i z9
      apply enqueue_keeps
      exact h0

theorem routeLane_keeps {a0 s : State} (h0 : Keeps a0 s) (arrival : Option (Nat × Nat)) (escaped : Bool) (k : Packet) : OptKeeps a0 (routeLane s arrival escaped k) := by
  unfold routeLane
  apply routeSince_keeps
  exact h0

theorem routePacket_keeps {a0 s : State} (h0 : Keeps a0 s) (arrival : Option (Nat × Nat)) (k : Packet) : OptKeeps a0 (routePacket s arrival k) := by
  unfold routePacket
  apply routeLane_keeps
  exact h0

theorem discardAt_keeps {a0 s : State} (h0 : Keeps a0 s) (p : Nat) : Keeps a0 (discardAt s p) := by
  unfold discardAt
  apply State.modPort_keeps
  exact h0

theorem State.sendPacket_keeps {a0 s : State} (h0 : Keeps a0 s) (k : Packet) : Keeps a0 (State.sendPacket s k) := by
  unfold State.sendPacket
  split
  · rename_i z0 z1 z2
    have k3 := OptKeeps.of z2 (a := a0) (by
        apply routePacket_keeps
        exact h0)
    exact k3
  · rename_i z4 z5
    apply discardAt_keeps
    exact h0

/-! ## Machine/Access.lean -/

theorem State.request_keeps {a0 s : State} (h0 : Keeps a0 s) (item : Option ItemRef) (ctx : Option Nat) (p : Purpose) (mk : Nat → Packet) : Keeps a0 (State.request s item ctx p mk).1 := by
  unfold State.request
  extract_lets x0 x1
  clear_value x0
  split
  · rename_i z2
    dsimp only
    dsimp only [x1]
    exact Keeps.put h0
  · rename_i z3
    split
    · rename_i z4
      exact h0
    · rename_i z5
      split
      · rename_i z6 z7 z8
        split
        · rename_i z9 z10 z11
          have k12 := OptKeeps.of z11 (a := a0) (by
              apply routePacket_keeps
              exact h0)
          dsimp only
          dsimp only [x1]
          exact Keeps.put k12
        · rename_i z13 z14
          exact h0
      · rename_i z15 z16
        dsimp only
        dsimp only [x1]
        exact Keeps.put h0

theorem sendFor_keeps {a0 s : State} (h0 : Keeps a0 s) (id : Nat) (k : Packet) : Keeps a0 (sendFor s id k) := by
  unfold sendFor
  extract_lets x0
  split
  · rename_i z1 z2 z3
    have k4 := OptKeeps.of z3 (a := a0) (by
        apply routePacket_keeps
        exact h0)
    dsimp only [x0]
    exact Keeps.put k4
  · rename_i z5 z6
    dsimp only [x0]
    refine Keeps.put (s := discardAt s 0) ?_
    apply discardAt_keeps
    exact h0

theorem State.dropReq_keeps {a0 s : State} (h0 : Keeps a0 s) (id : Nat) : Keeps a0 (State.dropReq s id) := by
  unfold State.dropReq
  extract_lets x0
  have k1 : Keeps a0 x0 := by
    unfold x0
    exact Keeps.put h0
  clear_value x0
  split
  · rename_i z2 z3 z4 z5 z6 z7
    apply sendFor_keeps
    exact k1
  · rename_i z8 z9 z10
    exact k1

theorem issueWrite_keeps {a0 s : State} (h0 : Keeps a0 s) (item : Option ItemRef) (ctx : Nat) (p : Purpose) (a : Nat) (bs : List Byte) : Keeps a0 (issueWrite s item ctx p a bs).s := by
  unfold issueWrite
  extract_lets x0 x1
  clear_value x0
  have k2 : Keeps a0 x1 := by
    unfold x1
    apply chargeRequest_keeps
    exact h0
  clear_value x1
  split
  · rename_i z3
    apply Keeps.foldOf Issued.s
    · exact k2
    · intro y4 y5 y6
      extract_lets x7
      clear_value x7
      split
      · rename_i z8 z9 z10 z11
        have k12 := Keeps.ofFst z11 (a := a0) (by
            apply reachHome_keeps
            exact y6)
        split
        · rename_i z13
          have k14 := Keeps.ofFst z11 (a := a0) (by
              apply reachHome_keeps
              exact y6)
          split
          · rename_i z15 z16 z17 z18
            have k19 := Keeps.ofFst z18 (a := a0) (by
                apply State.request_keeps
                exact k12)
            exact k19
        · rename_i z20 z21
          exact k12
  · rename_i z22
    split
    · rename_i z23
      exact h0
    · rename_i z24
      split
      · rename_i z25
        split
        · rename_i z26 z27 z28
          split
          · rename_i z29
            exact h0
          · rename_i z30
            split
            · rename_i z31
              dsimp only
              apply State.sendHost_keeps
              exact h0
            · rename_i z32
              exact h0
        · rename_i z33 z34
          exact h0
      · rename_i z35
        apply Keeps.foldOf Issued.s
        · exact h0
        · intro y36 y37 y38
          split
          · rename_i z39 z40 z41 z42
            have k43 := Keeps.ofFst z42 (a := a0) (by
                apply State.request_keeps
                exact y38)
            exact k43
          · rename_i z44 z45 z46
            have k47 := Keeps.ofFst z46 (a := a0) (by
                apply State.request_keeps
                exact y38)
            exact k47

theorem issueMasked_keeps {a0 s : State} (h0 : Keeps a0 s) (die : Nat) (ctx : Nat) (a : Nat) (bs : List Byte) (mask : W64) : Keeps a0 (issueMasked s die ctx a bs mask).s := by
  unfold issueMasked
  split
  · rename_i z0
    extract_lets x1
    clear_value x1
    split
    · rename_i z2 z3 z4 z5
      have k6 := Keeps.ofFst z5 (a := a0) (by
          apply reachHome_keeps
          apply chargeRequest_keeps
          exact h0)
      split
      · rename_i z7
        have k8 := Keeps.ofFst z5 (a := a0) (by
            apply reachHome_keeps
            apply chargeRequest_keeps
            exact h0)
        split
        · rename_i z9 z10 z11 z12
          have k13 := Keeps.ofFst z12 (a := a0) (by
              apply State.request_keeps
              exact k6)
          exact k13
      · rename_i z14 z15
        exact k6
  · rename_i z16
    split
    · rename_i z17 z18 z19 z20
      have k21 := Keeps.ofFst z20 (a := a0) (by
          apply State.request_keeps
          exact h0)
      exact k21
    · rename_i z22 z23 z24
      have k25 := Keeps.ofFst z24 (a := a0) (by
          apply State.request_keeps
          exact h0)
      exact k25

theorem holdWrite_keeps {a0 s : State} (h0 : Keeps a0 s) (a : Nat) (bs : List Byte) : Keeps a0 (holdWrite s a bs) := by
  unfold holdWrite
  apply State.request_keeps
  exact h0

theorem deviceWrite_keeps {a0 s : State} (h0 : Keeps a0 s) (off : Nat) (bs : List Byte) : Keeps a0 (deviceWrite s off bs) := by
  unfold deviceWrite
  apply Keeps.fold
  · exact h0
  · intro y0 y1 y2
    extract_lets x3
    clear_value x3
    split
    · rename_i z4 z5 z6
      have k7 := Keeps.ofFst z6 (a := a0) (by
          apply reachHome_keeps
          exact y2)
      apply holdWrite_keeps
      exact k7
    · rename_i z8 z9 z10 z11 z12
      have k13 := Keeps.ofFst z12 (a := a0) (by
          apply reachHome_keeps
          exact y2)
      exact k13

theorem issuePoison_keeps {a0 s : State} (h0 : Keeps a0 s) (item : Option ItemRef) (ctx : Nat) (a : Nat) : Keeps a0 (issuePoison s item ctx a).s := by
  unfold issuePoison
  split
  · rename_i z0
    exact h0
  · rename_i z1
    split
    · rename_i z2
      split
      · rename_i z3 z4 z5
        have k6 := Keeps.ofFst z5 (a := a0) (by
            apply reachHome_keeps
            exact h0)
        split
        · rename_i z7 z8 z9 z10
          have k11 := Keeps.ofFst z10 (a := a0) (by
              apply State.request_keeps
              exact k6)
          exact k11
      · rename_i z12 z13 z14 z15 z16
        have k17 := Keeps.ofFst z16 (a := a0) (by
            apply reachHome_keeps
            exact h0)
        exact k17
    · rename_i z18
      split
      · rename_i z19 z20 z21 z22
        have k23 := Keeps.ofFst z22 (a := a0) (by
            apply State.request_keeps
            exact h0)
        exact k23
      · rename_i z24 z25 z26
        have k27 := Keeps.ofFst z26 (a := a0) (by
            apply State.request_keeps
            exact h0)
        exact k27

theorem foundCached_keeps {a0 s : State} (h0 : Keeps a0 s) (item : Option ItemRef) (l : CacheLine) : Keeps a0 (foundCached s item l).1 := by
  unfold foundCached
  split
  · rename_i z0 z1 z2 z3
    have k4 := Keeps.ofSnd z3 (a := a0) (by
        apply State.takeFree_keeps
        exact h0)
    extract_lets x5
    clear_value x5
    dsimp only
    apply writeError_keeps
    apply State.modMem_keeps
    · exact k4
    · intro y6
      exact putCache_keeps (.refl _) ..

theorem writeBack_keeps {a0 s : State} (h0 : Keeps a0 s) (l : CacheLine) : Keeps a0 (writeBack s l).s := by
  unfold writeBack
  split
  · rename_i z0 z1 z2 z3
    have k4 := Keeps.ofFst z3 (a := a0) (by
        split
        · rename_i z5
          apply foundCached_keeps
          exact h0
        · rename_i z6
          exact h0)
    extract_lets x7 x8 x9 x10
    clear_value x7
    have k11 : Keeps a0 x8 := by
      unfold x8
      apply State.modMem_keeps
      · exact k4
      · intro y12
        exact putCache_keeps (.refl _) ..
    clear_value x8
    have k13 : Keeps a0 x9.s := by
      unfold x9
      apply issueMasked_keeps
      exact k11
    clear_value x9
    have k14 : Keeps a0 x10.s := by
      unfold x10
      apply issuePoison_keeps
      exact k13
    clear_value x10
    split
    · rename_i z15
      exact k14
    · rename_i z16
      exact k13

theorem writeBackAll_keeps {a0 s : State} (h0 : Keeps a0 s) (ls : List CacheLine) : Keeps a0 (writeBackAll s ls).s := by
  unfold writeBackAll
  apply Keeps.foldOf Issued.s
  · exact h0
  · intro y0 y1 y2
    extract_lets x3
    have k4 : Keeps a0 x3.s := by
      unfold x3
      apply writeBack_keeps
      exact y2
    clear_value x3
    exact k4

theorem makeRoom_keeps {a0 s : State} (h0 : Keeps a0 s) (d : Nat) (c : Nat) (line : Nat) : Keeps a0 (makeRoom s d c line) := by
  unfold makeRoom
  extract_lets x0
  clear_value x0
  split
  · rename_i z1
    exact h0
  · rename_i z2
    split
    · rename_i z3 z4 z5
      extract_lets x6
      have k7 : Keeps a0 x6 := by
        unfold x6
        split
        · rename_i z8
          exact h0
        · rename_i z9
          apply writeBack_keeps
          exact h0
      clear_value x6
      apply State.modMem_keeps
      · exact k7
      · intro y10
        exact dropCache_keeps (.refl _) ..
    · rename_i z11 z12
      exact h0

theorem invalidateClean_keeps {a0 s : State} (h0 : Keeps a0 s) (p : CacheLine → Bool) : Keeps a0 (invalidateClean s p) := by
  unfold invalidateClean
  apply State.modMem_keeps
  · exact h0
  · intro y0
    exact (MemKeeps.refl _).put

theorem acquire_keeps {a0 s : State} (h0 : Keeps a0 s) (c : Nat) (range : Option (Nat × Nat)) : Keeps a0 (acquire s c range) := by
  unfold acquire
  apply invalidateClean_keeps
  exact h0

theorem fetchLine_keeps {a0 s : State} (h0 : Keeps a0 s) (r : ItemRef) (a : Nat) : Keeps a0 (fetchLine s r a).1 := by
  unfold fetchLine
  extract_lets x0
  clear_value x0
  split
  · rename_i z1 z2
    exact h0
  · rename_i z3 z4 z5
    split
    · rename_i z6
      exact h0
    · rename_i z7
      split
      · rename_i z8
        split
        · rename_i z9 z10 z11 z12
          have k13 := Keeps.ofFst z12 (a := a0) (by
              apply reachHome_keeps
              exact h0)
          split
          · rename_i z14 z15
            have k16 := Keeps.ofFst z12 (a := a0) (by
                apply reachHome_keeps
                exact h0)
            dsimp only
            apply State.modItem_keeps
            exact k13
          · rename_i z17
            have k18 := Keeps.ofFst z12 (a := a0) (by
                apply reachHome_keeps
                exact h0)
            dsimp only
            apply State.request_keeps
            exact k13
          · rename_i z19 z20 z21
            split
            · rename_i z22 z23 z24
              exact k13
            · rename_i z25 z26
              exact k13
      · rename_i z27
        exact h0

theorem hostPart_keeps {a0 s : State} (h0 : Keeps a0 s) (r : ItemRef) (a : Nat) (n : Nat) : Keeps a0 (hostPart s r a n).1 := by
  unfold hostPart
  split
  · rename_i z0 z1 z2
    exact h0
  · rename_i z3 z4
    exact h0

theorem countCache_keeps {a0 s : State} (h0 : Keeps a0 s) (r : ItemRef) (d : Nat) (line : Nat) (hit : Bool) : Keeps a0 (countCache s r d line hit) := by
  unfold countCache
  apply count_keeps
  exact h0

theorem readLine_keeps {a0 s : State} (h0 : Keeps a0 s) (r : ItemRef) (die : Option Nat) (a : Nat) (n : Nat) : Keeps a0 (readLine s r die a n).1 := by
  unfold readLine
  extract_lets x0 x1 x2 x3
  clear_value x0
  clear_value x1
  clear_value x2
  split
  · rename_i z4
    apply hostPart_keeps
    exact h0
  · rename_i z5
    split
    · rename_i z6
      split
      · rename_i z7 z8 z9 z10
        have k11 := Keeps.ofFst z10 (a := a0) (by
            apply fetchLine_keeps
            exact h0)
        exact k11
    · rename_i z12 z13
      split
      · rename_i z14 z15 z16
        split
        · rename_i z17
          exact h0
        · rename_i z18
          split
          · rename_i z19
            dsimp only
            apply foundCached_keeps
            exact h0
          · rename_i z20
            split
            · rename_i z21
              split
              · rename_i z22 z23 z24 z25
                have k26 := Keeps.ofFst z25 (a := a0) (by
                    apply fetchLine_keeps
                    apply State.modMem_keeps
                    · exact h0
                    · intro y27
                      exact dropCache_keeps (.refl _) ..)
                exact k26
            · rename_i z28
              split
              · rename_i z29
                dsimp only
                apply countCache_keeps
                apply State.modMem_keeps
                · exact h0
                · intro y30
                  exact (MemKeeps.refl _).put
              · rename_i z31
                split
                · rename_i z32 z33 z34 z35
                  have k36 := Keeps.ofFst z35 (a := a0) (by
                      apply fetchLine_keeps
                      exact h0)
                  split
                  · rename_i z37 z38
                    have k39 := Keeps.ofFst z35 (a := a0) (by
                        apply fetchLine_keeps
                        exact h0)
                    extract_lets x40 x41
                    clear_value x40
                    clear_value x41
                    dsimp only
                    apply countCache_keeps
                    apply State.modMem_keeps
                    · exact k36
                    · intro y42
                      exact (MemKeeps.refl _).put
                  · rename_i z43 z44
                    exact k36
      · rename_i z45 z46
        split
        · rename_i z47 z48 z49 z50
          have k51 := Keeps.ofFst z50 (a := a0) (by
              apply fetchLine_keeps
              exact h0)
          split
          · rename_i z52 z53
            have k54 := Keeps.ofFst z50 (a := a0) (by
                apply fetchLine_keeps
                exact h0)
            split
            · rename_i z55
              exact k51
            · rename_i z56
              extract_lets x57
              have k58 : Keeps a0 x57 := by
                unfold x57
                apply makeRoom_keeps
                exact k51
              clear_value x57
              dsimp only
              apply countCache_keeps
              apply State.modMem_keeps
              · exact k58
              · intro y59
                exact (MemKeeps.refl _).put
          · rename_i z60 z61
            exact k51

theorem requestLines_keeps {a0 s : State} (h0 : Keeps a0 s) (r : ItemRef) (a : Nat) (n : Nat) : Keeps a0 (requestLines s r a n).1 := by
  unfold requestLines
  split
  · rename_i z0
    exact h0
  · rename_i z1
    split
    · rename_i z2
      exact h0
    · rename_i z3
      split
      · rename_i z4
        split
        · rename_i z5 z6 z7 z8 z9 z10
          split
          · rename_i z11
            exact h0
          · rename_i z12
            split
            · rename_i z13
              exact h0
            · rename_i z14
              split
              · rename_i z15
                dsimp only
                apply State.sendHost_keeps
                exact h0
              · rename_i z16
                exact h0
        · rename_i z17 z18 z19
          exact h0
      · rename_i z20
        apply Keeps.foldFst
        · exact h0
        · intro y21 y22 y23
          split
          · rename_i z24 z25 z26
            split
            · rename_i z27
              exact y23
            · rename_i z28
              split
              · rename_i z29 z30 z31 z32
                have k33 := Keeps.ofFst z32 (a := a0) (by
                    apply State.request_keeps
                    exact y23)
                exact k33
              · rename_i z34 z35 z36
                have k37 := Keeps.ofFst z36 (a := a0) (by
                    apply State.request_keeps
                    exact y23)
                exact k37
          · rename_i z38 z39
            exact y23

theorem forgetLocal_keeps {a0 s : State} (h0 : Keeps a0 s) (r : ItemRef) (a : Nat) (n : Nat) : Keeps a0 (forgetLocal s r a n) := by
  unfold forgetLocal
  split
  · rename_i z0
    apply State.modItem_keeps
    exact h0
  · rename_i z1
    exact h0

theorem chargeReads_keeps {a0 s : State} (h0 : Keeps a0 s) (r : ItemRef) (x : Nat × Nat) : Keeps a0 (chargeReads s r x) := by
  unfold chargeReads
  extract_lets x0
  split
  · rename_i z1
    apply chargeRequest_keeps
    exact h0
  · rename_i z2
    exact h0

theorem rawItemRead_keeps {a0 s : State} (h0 : Keeps a0 s) (r : ItemRef) (die : Option Nat) (a : Nat) (n : Nat) : Keeps a0 (rawItemRead s r die a n).1 := by
  unfold rawItemRead
  split
  · rename_i z0 z1 z2 z3
    have k4 := Keeps.ofFst z3 (a := a0) (by
        apply Keeps.foldFst
        · exact h0
        · intro y5 y6 y7
          split
          · rename_i z8 z9 z10 z11
            have k12 := Keeps.ofFst z11 (a := a0) (by
                apply requestLines_keeps
                apply chargeReads_keeps
                exact y7)
            exact k12)
    exact k4
  · rename_i z13 z14 z15
    have k16 := Keeps.ofFst z15 (a := a0) (by
        apply Keeps.foldFst
        · exact h0
        · intro y17 y18 y19
          split
          · rename_i z20 z21 z22 z23
            have k24 := Keeps.ofFst z23 (a := a0) (by
                apply requestLines_keeps
                apply chargeReads_keeps
                exact y19)
            exact k24)
    extract_lets x25
    have k26 : Keeps a0 x25.1 := by
      unfold x25
      apply Keeps.foldFst
      · exact k16
      · intro y27 y28 y29
        split
        · rename_i z30 z31 z32
          exact y29
        · rename_i z33 z34
          split
          · rename_i z35 z36 z37 z38
            have k39 := Keeps.ofFst z38 (a := a0) (by
                apply readLine_keeps
                exact y29)
            exact k39
    clear_value x25
    split
    · rename_i z40 z41 z42
      dsimp only
      apply forgetLocal_keeps
      exact k26
    · rename_i z43 z44
      exact k26

theorem dropOtherCopies_keeps {a0 s : State} (h0 : Keeps a0 s) (c : Nat) (die : Option Nat) (line : Nat) : Keeps a0 (dropOtherCopies s c die line) := by
  unfold dropOtherCopies
  apply invalidateClean_keeps
  exact h0

theorem writeLine_keeps {a0 s : State} (h0 : Keeps a0 s) (r : ItemRef) (die : Option Nat) (a : Nat) (bs : List Byte) (p : Purpose) : Keeps a0 (writeLine s r die a bs p).s := by
  unfold writeLine
  extract_lets x0 x1 x2
  clear_value x0
  clear_value x1
  have k3 : Keeps a0 x2 := by
    unfold x2
    apply dropOtherCopies_keeps
    exact h0
  clear_value x2
  split
  · rename_i z4 z5 z6 z7
    extract_lets x8 x9
    have k10 : Keeps a0 x8 := by
      unfold x8
      apply makeRoom_keeps
      exact k3
    clear_value x8
    clear_value x9
    dsimp only
    apply State.modMem_keeps
    · exact k10
    · intro y11
      exact (MemKeeps.refl _).put
  · rename_i z12 z13 z14 z15
    extract_lets x16
    have k17 : Keeps a0 x16 := by
      unfold x16
      split
      · rename_i z18 z19 z20
        apply State.modMem_keeps
        · exact k3
        · intro y21
          exact (MemKeeps.refl _).put
      · rename_i z22 z23
        exact k3
    clear_value x16
    apply issueWrite_keeps
    exact k17
  · rename_i z24 z25 z26 z27 z28
    extract_lets x29
    have k30 : Keeps a0 x29 := by
      unfold x29
      split
      · rename_i z31 z32 z33
        split
        · rename_i z34
          apply State.modMem_keeps
          · exact k3
          · intro y35
            exact dropCache_keeps (.refl _) ..
        · rename_i z36
          exact k3
      · rename_i z37 z38
        exact k3
    clear_value x29
    apply issueWrite_keeps
    exact k30
  · rename_i z39 z40
    apply issueWrite_keeps
    exact k3

theorem clearWay_keeps {a0 s : State} (h0 : Keeps a0 s) (r : ItemRef) (die : Option Nat) (range : Nat × Nat) (writes : Bool) : Keeps a0 (clearWay s r die range writes).1 := by
  unfold clearWay
  split
  · rename_i z0 z1
    exact h0
  · rename_i z2 z3 z4
    split
    · rename_i z5
      exact h0
    · rename_i z6
      extract_lets x7
      have k8 : Keeps a0 x7.s := by
        unfold x7
        apply writeBackAll_keeps
        exact h0
      clear_value x7
      exact k8

theorem fetchAhead_keeps {a0 s : State} (h0 : Keeps a0 s) (r : ItemRef) (die : Option Nat) (c : Nat × Nat) : Keeps a0 (fetchAhead s r die c).1 := by
  unfold fetchAhead
  split
  · rename_i z0
    exact h0
  · rename_i z1
    split
    · rename_i z2 z3 z4 z5
      have k6 := Keeps.ofFst z5 (a := a0) (by
          apply requestLines_keeps
          apply chargeReads_keeps
          exact h0)
      exact k6
    · rename_i z7 z8 z9
      have k10 := Keeps.ofFst z9 (a := a0) (by
          apply requestLines_keeps
          apply chargeReads_keeps
          exact h0)
      split
      · rename_i z11
        split
        · rename_i z12 z13 z14 z15
          have k16 := Keeps.ofFst z15 (a := a0) (by
              apply fetchLine_keeps
              exact k10)
          exact k16
        · rename_i z17 z18 z19 z20 z21
          have k22 := Keeps.ofFst z21 (a := a0) (by
              apply fetchLine_keeps
              exact k10)
          exact k22
      · rename_i z23
        exact k10

theorem itemRead_keeps {a0 s : State} (h0 : Keeps a0 s) (r : ItemRef) (die : Option Nat) (a : Nat) (n : Nat) : Keeps a0 (itemRead s r die a n).1 := by
  unfold itemRead
  split
  · rename_i z0 z1 z2
    have k3 := Keeps.ofFst z2 (a := a0) (by
        apply clearWay_keeps
        exact h0)
    apply rawItemRead_keeps
    exact k3
  · rename_i z4 z5 z6
    have k7 := Keeps.ofFst z6 (a := a0) (by
        apply clearWay_keeps
        exact h0)
    split
    · rename_i z8 z9 z10 z11
      have k12 := Keeps.ofFst z11 (a := a0) (by
          apply Keeps.foldFst
          · exact k7
          · intro y13 y14 y15
            split
            · rename_i z16 z17 z18
              have k19 := Keeps.ofFst z18 (a := a0) (by
                  apply clearWay_keeps
                  exact y15)
              split
              · rename_i z20 z21 z22 z23
                have k24 := Keeps.ofFst z23 (a := a0) (by
                    apply fetchAhead_keeps
                    exact k19)
                exact k24
            · rename_i z25 z26 z27
              have k28 := Keeps.ofFst z27 (a := a0) (by
                  apply clearWay_keeps
                  exact y15)
              exact k28)
      exact k12
    · rename_i z29 z30 z31
      have k32 := Keeps.ofFst z31 (a := a0) (by
          apply Keeps.foldFst
          · exact k7
          · intro y33 y34 y35
            split
            · rename_i z36 z37 z38
              have k39 := Keeps.ofFst z38 (a := a0) (by
                  apply clearWay_keeps
                  exact y35)
              split
              · rename_i z40 z41 z42 z43
                have k44 := Keeps.ofFst z43 (a := a0) (by
                    apply fetchAhead_keeps
                    exact k39)
                exact k44
            · rename_i z45 z46 z47
              have k48 := Keeps.ofFst z47 (a := a0) (by
                  apply clearWay_keeps
                  exact y35)
              exact k48)
      exact k32

theorem itemReads_keeps {a0 s : State} (h0 : Keeps a0 s) (r : ItemRef) (die : Option Nat) (rs : List (Nat × Nat)) : Keeps a0 (itemReads s r die rs).1 := by
  unfold itemReads
  apply Keeps.foldFst
  · exact h0
  · intro y0 y1 y2
    split
    · rename_i z3 z4 z5 z6
      have k7 := Keeps.ofFst z6 (a := a0) (by
          apply itemRead_keeps
          exact y2)
      split
      · rename_i z8 z9
        have k10 := Keeps.ofFst z6 (a := a0) (by
            apply itemRead_keeps
            exact y2)
        exact k7
      · rename_i z11
        have k12 := Keeps.ofFst z6 (a := a0) (by
            apply itemRead_keeps
            exact y2)
        exact k7
      · rename_i z13 z14
        have k15 := Keeps.ofFst z6 (a := a0) (by
            apply itemRead_keeps
            exact y2)
        exact k7

theorem blur_keeps {a0 s : State} (h0 : Keeps a0 s) (lines : List Nat) (a : Nat) (bs : List Byte) : Keeps a0 (blur s lines a bs).1 := by
  unfold blur
  split
  · rename_i z0
    exact h0
  · rename_i z1
    extract_lets x2
    clear_value x2
    dsimp only
    exact Keeps.put h0

theorem writeNow_keeps {a0 s : State} (h0 : Keeps a0 s) (r : ItemRef) (die : Option Nat) (a : Nat) (bs : List Byte) (exempt : Bool) : Keeps a0 (writeNow s r die a bs exempt).1 := by
  unfold writeNow
  split
  · rename_i z0 z1 z2 z3
    have k4 := Keeps.ofFst z3 (a := a0) (by
        apply blur_keeps
        exact h0)
    extract_lets x5 x6 x7
    clear_value x5
    clear_value x6
    have k8 : Keeps a0 x7.s := by
      unfold x7
      apply Keeps.foldOf Issued.s
      · exact k4
      · intro y9 y10 y11
        extract_lets x12
        have k13 : Keeps a0 x12.s := by
          unfold x12
          apply writeLine_keeps
          exact y11
        clear_value x12
        exact k13
    clear_value x7
    dsimp only
    apply State.modItem_keeps
    exact k8

theorem stageWrite_keeps {a0 s : State} (h0 : Keeps a0 s) (r : ItemRef) (w : StagedWrite) : Keeps a0 (stageWrite s r w) := by
  unfold stageWrite
  apply State.modItem_keeps
  exact h0

theorem writeWay_keeps {a0 s : State} (h0 : Keeps a0 s) (r : ItemRef) (die : Option Nat) (range : Nat × Nat) : Keeps a0 (writeWay s r die range).1 := by
  unfold writeWay
  split
  · rename_i z0
    exact h0
  · rename_i z1
    apply clearWay_keeps
    exact h0

theorem pantryMeets_keeps {a0 s : State} (h0 : Keeps a0 s) (r : ItemRef) (d : Nat) (a : Nat) (n : Nat) : Keeps a0 (pantryMeets s r d a n).1 := by
  unfold pantryMeets
  split
  · rename_i z0
    exact h0
  · rename_i z1
    split
    · rename_i z2 z3 z4
      dsimp only
      apply foundUncorrectable_keeps
      exact h0
    · rename_i z5 z6
      exact h0

theorem itemWrite_keeps {a0 s : State} (h0 : Keeps a0 s) (r : ItemRef) (die : Option Nat) (a : Nat) (bs : List Byte) (exempt : Bool) : Keeps a0 (itemWrite s r die a bs exempt).1 := by
  unfold itemWrite
  split
  · rename_i z0
    exact h0
  · rename_i z1
    split
    · rename_i z2 z3 z4
      have k5 := Keeps.ofFst z4 (a := a0) (by
          apply writeWay_keeps
          exact h0)
      apply writeNow_keeps
      exact k5
    · rename_i z6 z7 z8
      have k9 := Keeps.ofFst z8 (a := a0) (by
          apply writeWay_keeps
          exact h0)
      apply Keeps.foldFst
      · exact k9
      · intro y10 y11 y12
        extract_lets x13
        clear_value x13
        split
        · rename_i z14 z15 z16
          have k17 := Keeps.ofFst z16 (a := a0) (by
              apply writeWay_keeps
              exact y12)
          split
          · rename_i z18 z19 z20 z21
            have k22 := Keeps.ofFst z21 (a := a0) (by
                apply writeNow_keeps
                exact k17)
            exact k22
        · rename_i z23 z24 z25
          have k26 := Keeps.ofFst z25 (a := a0) (by
              apply writeWay_keeps
              exact y12)
          dsimp only
          apply stageWrite_keeps
          exact k26

/-! ## Machine/Versions.lean -/

theorem casRecord_keeps {a0 s : State} (h0 : Keeps a0 s) (item : Option ItemRef) (ctx : Option Nat) (a : Nat) (expect : W64) (new : W64) (p : Purpose) : Keeps a0 (casRecord s item ctx a expect new p).1 := by
  unfold casRecord
  split
  · rename_i z0
    split
    · rename_i z1 z2 z3 z4
      have k5 := Keeps.ofFst z4 (a := a0) (by
          apply reachHome_keeps
          exact h0)
      split
      · rename_i z6 z7 z8
        have k9 := Keeps.ofFst z4 (a := a0) (by
            apply reachHome_keeps
            exact h0)
        exact k5
      · rename_i z10
        have k11 := Keeps.ofFst z4 (a := a0) (by
            apply reachHome_keeps
            exact h0)
        dsimp only
        apply State.request_keeps
        exact k5
      · rename_i z12 z13 z14
        exact k5
  · rename_i z15
    split
    · rename_i z16 z17 z18 z19
      have k20 := Keeps.ofFst z19 (a := a0) (by
          apply State.request_keeps
          exact h0)
      exact k20
    · rename_i z21 z22 z23
      have k24 := Keeps.ofFst z23 (a := a0) (by
          apply State.request_keeps
          exact h0)
      exact k24

theorem readRecord_keeps {a0 s : State} (h0 : Keeps a0 s) (r : ItemRef) (a : Nat) : Keeps a0 (readRecord s r a).1 := by
  unfold readRecord
  split
  · rename_i z0
    split
    · rename_i z1 z2 z3 z4
      have k5 := Keeps.ofFst z4 (a := a0) (by
          apply reachHome_keeps
          exact h0)
      split
      · rename_i z6 z7
        have k8 := Keeps.ofFst z4 (a := a0) (by
            apply reachHome_keeps
            exact h0)
        exact k5
      · rename_i z9 z10
        split
        · rename_i z11 z12 z13
          exact k5
        · rename_i z14 z15
          exact k5
  · rename_i z16
    apply rawItemRead_keeps
    exact h0

theorem forgetLine_keeps {a0 s : State} (h0 : Keeps a0 s) (r : ItemRef) (a : Nat) : Keeps a0 (forgetLine s r a) := by
  unfold forgetLine
  apply State.modItem_keeps
  exact h0

theorem recordPin_keeps {a0 s : State} (h0 : Keeps a0 s) (c : Nat) (a : Nat) (buf : Nat) (owner : Nat) : Keeps a0 (recordPin s c a buf owner) := by
  unfold recordPin
  apply State.modCtx_keeps
  exact h0

theorem pinFor_keeps {a0 s : State} (h0 : Keeps a0 s) (r : ItemRef) (a : Nat) : Keeps a0 (pinFor s r a).1 := by
  unfold pinFor
  split
  · rename_i z0 z1 z2 z3
    have k4 := Keeps.ofFst z3 (a := a0) (by
        apply readRecord_keeps
        exact h0)
    exact k4
  · rename_i z5 z6 z7
    have k8 := Keeps.ofFst z7 (a := a0) (by
        apply readRecord_keeps
        exact h0)
    exact k8
  · rename_i z9 z10 z11 z12
    have k13 := Keeps.ofFst z12 (a := a0) (by
        apply readRecord_keeps
        exact h0)
    extract_lets x14 x15 x16
    clear_value x14
    clear_value x15
    clear_value x16
    split
    · rename_i z17 z18 z19 z20 z21
      exact k13
    · rename_i z22 z23
      split
      · rename_i z24
        exact k13
      · rename_i z25
        split
        · rename_i z26
          dsimp only
          apply forgetLine_keeps
          exact k13
        · rename_i z27
          split
          · rename_i z28 z29 z30 z31
            have k32 := Keeps.ofFst z31 (a := a0) (by
                apply casRecord_keeps
                exact k13)
            split
            · rename_i z33
              dsimp only
              apply recordPin_keeps
              exact k32
            · rename_i z34
              dsimp only
              apply forgetLine_keeps
              exact k32
          · rename_i z35 z36 z37
            have k38 := Keeps.ofFst z37 (a := a0) (by
                apply casRecord_keeps
                exact k13)
            exact k38
          · rename_i z39 z40 z41 z42
            have k43 := Keeps.ofFst z42 (a := a0) (by
                apply casRecord_keeps
                exact k13)
            exact k43

theorem pinReleaseLost_keeps {a0 s : State} (h0 : Keeps a0 s) (c : Nat) (a : Nat) (buf : Nat) : Keeps a0 (pinReleaseLost s c a buf) := by
  unfold pinReleaseLost
  apply writeError_keeps
  exact h0

theorem keepRelease_keeps {a0 s : State} (h0 : Keeps a0 s) (c : Nat) (a : Nat) (buf : Nat) : Keeps a0 (keepRelease s c a buf) := by
  unfold keepRelease
  apply State.modCtx_keeps
  exact h0

theorem issueRelease_keeps {a0 s : State} (h0 : Keeps a0 s) (c : Nat) (a : Nat) (buf : Nat) : Keeps a0 (issueRelease s c a buf) := by
  unfold issueRelease
  split
  · rename_i z0
    split
    · rename_i z1 z2 z3 z4
      have k5 := Keeps.ofFst z4 (a := a0) (by
          apply reachHome_keeps
          exact h0)
      split
      · rename_i z6 z7
        have k8 := Keeps.ofFst z4 (a := a0) (by
            apply reachHome_keeps
            exact h0)
        extract_lets x9
        clear_value x9
        split
        · rename_i z10 z11 z12 z13
          have k14 := Keeps.ofFst z13 (a := a0) (by
              apply casRecord_keeps
              exact k5)
          apply pinReleaseLost_keeps
          exact k14
        · rename_i z15 z16 z17 z18 z19
          have k20 := Keeps.ofFst z19 (a := a0) (by
              apply casRecord_keeps
              exact k5)
          exact k20
      · rename_i z21
        have k22 := Keeps.ofFst z4 (a := a0) (by
            apply reachHome_keeps
            exact h0)
        apply keepRelease_keeps
        exact k5
      · rename_i z23 z24 z25
        apply pinReleaseLost_keeps
        exact k5
  · rename_i z26
    split
    · rename_i z27 z28 z29 z30
      have k31 := Keeps.ofFst z30 (a := a0) (by
          apply State.request_keeps
          exact h0)
      exact k31
    · rename_i z32 z33 z34
      have k35 := Keeps.ofFst z34 (a := a0) (by
          apply State.request_keeps
          exact h0)
      apply keepRelease_keeps
      exact k35

theorem releasePins_keeps {a0 s : State} (h0 : Keeps a0 s) (c : Nat) : Keeps a0 (releasePins s c) := by
  unfold releasePins
  extract_lets x0
  clear_value x0
  apply Keeps.fold
  · apply State.modCtx_keeps
    exact h0
  · intro y1 y2 y3
    apply issueRelease_keeps
    exact y3

theorem retryReleases_keeps {a0 s : State} (h0 : Keeps a0 s) (c : Nat) : Keeps a0 (retryReleases s c) := by
  unfold retryReleases
  apply Keeps.fold
  · apply State.modCtx_keeps
    exact h0
  · intro y0 y1 y2
    apply issueRelease_keeps
    exact y2

theorem giveUpClaim_keeps {a0 s : State} (h0 : Keeps a0 s) (c : Nat) (a : Nat) (buf : Nat) : Keeps a0 (giveUpClaim s c a buf) := by
  unfold giveUpClaim
  split
  · rename_i z0
    split
    · rename_i z1 z2 z3 z4
      have k5 := Keeps.ofFst z4 (a := a0) (by
          apply reachHome_keeps
          exact h0)
      split
      · rename_i z6 z7
        have k8 := Keeps.ofFst z4 (a := a0) (by
            apply reachHome_keeps
            exact h0)
        extract_lets x9
        clear_value x9
        apply casRecord_keeps
        exact k5
      · rename_i z10
        have k11 := Keeps.ofFst z4 (a := a0) (by
            apply reachHome_keeps
            exact h0)
        apply State.request_keeps
        exact k5
      · rename_i z12 z13 z14
        exact k5
  · rename_i z15
    apply State.request_keeps
    exact h0

/-! ## Machine/Ops.lean -/

theorem ledgerRecords_keeps {a0 s : State} (h0 : Keeps a0 s) (k : CtxCfg) (first : Nat) (n : Nat) : Keeps a0 (ledgerRecords s k first n).1 := by
  unfold ledgerRecords
  apply Keeps.foldFst
  · exact h0
  · intro y0 y1 y2
    extract_lets x3
    clear_value x3
    split
    · rename_i z4
      exact y2
    · rename_i z5
      split
      · rename_i z6 z7 z8 z9
        have k10 := Keeps.ofFst z9 (a := a0) (by
            apply deviceRead_keeps
            exact y2)
        exact k10

theorem holdDrain_keeps {a0 s : State} (h0 : Keeps a0 s) (c : Nat) : Keeps a0 (holdDrain s c) := by
  unfold holdDrain
  apply State.modCtx_keeps
  exact h0

theorem sendDrain_keeps {a0 s : State} (h0 : Keeps a0 s) (c : Nat) (k : CtxCfg) (first : Nat) (done : BitVec 32) (rs : List (List Byte)) : Keeps a0 (sendDrain s c k first done rs) := by
  unfold sendDrain
  extract_lets x0 x1 x2 x3 x4 x5 x6
  clear_value x1
  clear_value x2
  have k7 : Keeps a0 x4 := by
    unfold x4
    apply Keeps.fold
    · exact h0
    · intro y8 y9 y10
      apply State.sendHost_keeps
      exact y10
  clear_value x4
  clear_value x5
  clear_value x6
  apply State.sendHost_keeps
  exact k7

theorem drain_keeps {a0 s : State} (h0 : Keeps a0 s) (c : Nat) : Keeps a0 (drain s c) := by
  unfold drain
  split
  · rename_i z0 z1
    exact h0
  · rename_i z2 z3 z4
    extract_lets x5 x6 x7
    clear_value x5
    clear_value x6
    clear_value x7
    split
    · rename_i z8
      exact h0
    · rename_i z9
      split
      · rename_i z10
        apply holdDrain_keeps
        exact h0
      · rename_i z11
        split
        · rename_i z12 z13 z14 z15
          have k16 := Keeps.ofFst z15 (a := a0) (by
              apply ledgerRecords_keeps
              exact h0)
          apply sendDrain_keeps
          apply State.modCtx_keeps
          exact k16
        · rename_i z17 z18 z19
          have k20 := Keeps.ofFst z19 (a := a0) (by
              apply ledgerRecords_keeps
              exact h0)
          apply holdDrain_keeps
          exact k20

theorem drainErrors_keeps {a0 s : State} (h0 : Keeps a0 s) : Keeps a0 (drainErrors s) := by
  unfold drainErrors
  extract_lets x0 x1 x2 x3 x4 x5 x6 x7 x8 x9 x10
  clear_value x0
  clear_value x1
  clear_value x2
  clear_value x3
  clear_value x6
  clear_value x7
  have k11 : Keeps a0 x8 := by
    unfold x8
    apply Keeps.fold
    · exact h0
    · intro y12 y13 y14
      apply State.sendHost_keeps
      exact y14
  clear_value x8
  clear_value x9
  clear_value x10
  split
  · rename_i z15
    exact h0
  · rename_i z16
    apply State.sendHost_keeps
    exact k11

theorem drainDue_keeps {a0 s : State} (h0 : Keeps a0 s) : Keeps a0 (drainDue s) := by
  unfold drainDue
  split
  · rename_i z0
    apply drainErrors_keeps
    exact h0
  · rename_i z1
    exact h0

theorem raiseError_keeps {a0 s : State} (h0 : Keeps a0 s) (e : ErrInfo) : Keeps a0 (raiseError s e) := by
  unfold raiseError
  apply drainDue_keeps
  apply writeError_keeps
  exact h0

theorem appendRecord_keeps {a0 s : State} (h0 : Keeps a0 s) (i : Item) : Keeps a0 (appendRecord s i) := by
  unfold appendRecord
  split
  · rename_i z0 z1
    apply State.modItem_keeps
    exact h0
  · rename_i z2 z3 z4
    extract_lets x5 x6 x7 x8
    clear_value x5
    clear_value x6
    have k9 : Keeps a0 x7 := by
      unfold x7
      apply deviceWrite_keeps
      exact h0
    clear_value x7
    have k10 : Keeps a0 x8 := by
      unfold x8
      apply State.modCtx_keeps
      apply State.modItem_keeps
      exact k9
    clear_value x8
    split
    · rename_i z11
      apply drain_keeps
      exact k10
    · rename_i z12
      exact k10

theorem appendReady_keeps {a0 v1 : State} (h0 : Keeps a0 v1) (v0 : Nat) (v2 : Nat) : Keeps a0 (appendReady v0 v1 v2) := by
  induction v0 generalizing v1 v2 with
  | zero =>
    unfold appendReady
    exact h0
  | succ n ih =>
    unfold appendReady
    split
    · rename_i z0 z1 z2
      apply ih
      apply appendRecord_keeps
      exact h0
    · rename_i z3 z4
      exact h0

theorem appendRecords_keeps {a0 s : State} (h0 : Keeps a0 s) (c : Nat) : Keeps a0 (appendRecords s c) := by
  unfold appendRecords
  apply appendReady_keeps
  exact h0

theorem itemEvent_keeps {a0 s : State} (h0 : Keeps a0 s) (r : ItemRef) (event : Nat) : Keeps a0 (itemEvent s r event) := by
  unfold itemEvent
  split
  · rename_i z0 z1 z2
    split
    · rename_i z3 z4 z5 z6
      apply count_keeps
      exact h0
    · rename_i z7 z8 z9 z10 z11
      apply count_keeps
      exact h0
    · rename_i z12 z13 z14 z15
      exact h0
  · rename_i z16 z17
    exact h0

theorem noteWork_keeps {a0 s : State} (h0 : Keeps a0 s) (r : ItemRef) (d : Nat) : Keeps a0 (noteWork s r d) := by
  unfold noteWork
  apply State.modItem_keeps
  exact h0

theorem releaseUnits_keeps {a0 s : State} (h0 : Keeps a0 s) (r : ItemRef) : Keeps a0 (releaseUnits s r) := by
  unfold releaseUnits
  extract_lets x0 x1
  exact Keeps.put h0

theorem releaseChain_keeps {a0 s : State} (h0 : Keeps a0 s) (r : ItemRef) : Keeps a0 (releaseChain s r) := by
  unfold releaseChain
  extract_lets x0 x1 x2 x3
  have k4 : Keeps a0 x0 := by
    unfold x0
    split
    · rename_i z5 z6 z7
      apply noteWork_keeps
      exact h0
    · rename_i z8 z9
      exact h0
  clear_value x0
  have k10 : Keeps a0 x3 := by
    unfold x3
    exact Keeps.put k4
  clear_value x3
  apply State.modItem_keeps
  exact k10

theorem releaseIssued_keeps {a0 s : State} (h0 : Keeps a0 s) (r : ItemRef) : Keeps a0 (releaseIssued s r) := by
  unfold releaseIssued
  split
  · rename_i z0 z1 z2
    split
    · rename_i z3
      apply releaseChain_keeps
      exact h0
    · rename_i z4
      exact h0
  · rename_i z5 z6
    exact h0

theorem poisonItem_keeps {a0 s : State} (h0 : Keeps a0 s) (i : Item) : Keeps a0 (poisonItem s i) := by
  unfold poisonItem
  extract_lets x0 x1 x2
  clear_value x0
  have k3 : Keeps a0 x1 := by
    unfold x1
    apply State.modMem_keeps
    · exact h0
    · intro y4
      exact (MemKeeps.refl _).put
  clear_value x1
  have k5 : Keeps a0 x2.s := by
    unfold x2
    apply Keeps.foldOf Issued.s
    · exact k3
    · intro y6 y7 y8
      extract_lets x9
      have k10 : Keeps a0 x9.s := by
        unfold x9
        apply issuePoison_keeps
        exact y8
      clear_value x9
      exact k10
  clear_value x2
  apply State.modItem_keeps
  exact k5

theorem dropAdvance_keeps {a0 s : State} (h0 : Keeps a0 s) (r : ItemRef) : Keeps a0 (dropAdvance s r) := by
  unfold dropAdvance
  split
  · rename_i z0 z1 z2
    split
    · rename_i z3
      apply poisonItem_keeps
      exact h0
    · rename_i z4
      exact h0
  · rename_i z5 z6
    exact h0

theorem scrambleAt_keeps {a0 s : State} (h0 : Keeps a0 s) (c : Nat) (a : Nat) (n : Nat) : Keeps a0 (scrambleAt s c a n) := by
  unfold scrambleAt
  split
  · rename_i z0
    apply State.modMem_keeps
    · exact Keeps.put h0
    · intro y1
      exact rawWrite_keeps (.refl _) ..
  · rename_i z2
    exact h0

theorem discardRanges_keeps {a0 s : State} (h0 : Keeps a0 s) (i : Item) : Keeps a0 (discardRanges s i) := by
  unfold discardRanges
  apply Keeps.fold
  · exact h0
  · intro y0 y1 y2
    apply scrambleAt_keeps
    exact y2

theorem discardDirty_keeps {a0 s : State} (h0 : Keeps a0 s) (r : ItemRef) : Keeps a0 (discardDirty s r) := by
  unfold discardDirty
  extract_lets x0
  clear_value x0
  apply State.modMem_keeps
  · apply State.modItem_keeps
    exact h0
  · intro y1
    exact (MemKeeps.refl _).put

theorem staleAreas_keeps {a0 s : State} (h0 : Keeps a0 s) (i : Item) : Keeps a0 (staleAreas s i) := by
  unfold staleAreas
  split
  · rename_i z0 z1 z2
    apply Keeps.fold
    · exact h0
    · intro y3 y4 y5
      apply State.modMem_keeps
      · exact Keeps.put y5
      · intro y6
        exact (MemKeeps.refl _).put
  · rename_i z7 z8
    exact h0

theorem endClaim_keeps {a0 s : State} (h0 : Keeps a0 s) (i : Item) (a : Nat) (b : Nat) : Keeps a0 (endClaim s i a b) := by
  unfold endClaim
  extract_lets x0 x1 x2
  have k3 : Keeps a0 x0 := by
    unfold x0
    exact Keeps.put h0
  clear_value x0
  clear_value x1
  have k4 : Keeps a0 x2 := by
    unfold x2
    apply giveUpClaim_keeps
    exact k3
  clear_value x2
  split
  · rename_i z5
    exact k4
  · rename_i z6
    apply State.modItem_keeps
    apply discardRanges_keeps
    exact k4

theorem lateNoCommit_keeps {a0 s : State} (h0 : Keeps a0 s) (r : ItemRef) : Keeps a0 (lateNoCommit s r) := by
  unfold lateNoCommit
  split
  · rename_i z0 z1 z2
    split
    · rename_i z3
      apply State.modItem_keeps
      apply discardRanges_keeps
      exact h0
    · rename_i z4
      exact h0
  · rename_i z5 z6
    exact h0

theorem rewriteRecord_keeps {a0 s : State} (h0 : Keeps a0 s) (r : ItemRef) : Keeps a0 (rewriteRecord s r) := by
  unfold rewriteRecord
  split
  · rename_i z0 z1 z2 z3 z4 z5
    split
    · rename_i z6
      apply deviceWrite_keeps
      exact h0
    · rename_i z7
      exact h0
  · rename_i z8 z9 z10
    exact h0

theorem silence_keeps {a0 s : State} (h0 : Keeps a0 s) (r : ItemRef) (st : Status) : Keeps a0 (silence s r st) := by
  unfold silence
  split
  · rename_i z0
    exact h0
  · rename_i z1
    exact Keeps.put h0

theorem overrule_keeps {a0 s : State} (h0 : Keeps a0 s) (i : Item) (st : Status) (code : Nat) (aux : BitVec 32) : Keeps a0 (overrule s i st code aux) := by
  unfold overrule
  extract_lets x0 x1 x2 x3 x4
  have k5 : Keeps a0 x0 := by
    unfold x0
    apply silence_keeps
    apply State.modItem_keeps
    exact h0
  clear_value x0
  clear_value x1
  have k6 : Keeps a0 x2 := by
    unfold x2
    split
    · rename_i z7
      apply discardDirty_keeps
      exact k5
    · rename_i z8
      exact k5
  clear_value x2
  clear_value x3
  have k9 : Keeps a0 x4 := by
    unfold x4
    apply rewriteRecord_keeps
    exact k6
  clear_value x4
  split
  · rename_i z10 z11
    split
    · rename_i z12
      apply dropAdvance_keeps
      apply State.modItem_keeps
      exact k6
    · rename_i z13
      exact k6
  · rename_i z14 z15
    split
    · rename_i z16 z17 z18
      split
      · rename_i z19
        apply poisonItem_keeps
        exact k9
      · rename_i z20
        exact k9
    · rename_i z21 z22
      exact k9
  · rename_i z23 z24 z25
    exact k6

theorem endOne_keeps {a0 s : State} (h0 : Keeps a0 s) (r : ItemRef) (st : Status) (code : Nat) (aux : BitVec 32) : Keeps a0 (endOne s r st code aux) := by
  unfold endOne
  split
  · rename_i z0 z1
    exact h0
  · rename_i z2 z3 z4
    split
    · rename_i z5
      split
      · rename_i z6
        apply overrule_keeps
        exact h0
      · rename_i z7
        exact h0
    · rename_i z8
      extract_lets x9 x10 x11 x12 x13 x14 x15
      clear_value x9
      have k16 : Keeps a0 x10 := by
        unfold x10
        apply silence_keeps
        apply releaseUnits_keeps
        exact h0
      clear_value x10
      have k17 : Keeps a0 x11 := by
        unfold x11
        split
        · rename_i z18
          apply staleAreas_keeps
          apply discardDirty_keeps
          exact k16
        · rename_i z19
          exact k16
      clear_value x11
      have k20 : Keeps a0 x12 := by
        unfold x12
        split
        · rename_i z21 z22 z23 z24
          split
          · rename_i z25
            exact k17
          · rename_i z26
            apply endClaim_keeps
            exact k17
        · rename_i z27 z28
          exact k17
      clear_value x12
      have k29 : Keeps a0 x13 := by
        unfold x13
        split
        · rename_i z30 z31 z32 z33 z34
          apply issueRelease_keeps
          exact k20
        · rename_i z35 z36
          exact k20
      clear_value x13
      have k37 : Keeps a0 x14 := by
        unfold x14
        apply State.modItem_keeps
        exact k29
      clear_value x14
      have k38 : Keeps a0 x15 := by
        unfold x15
        exact Keeps.put k37
      clear_value x15
      apply dropAdvance_keeps
      apply itemEvent_keeps
      exact k38

theorem cascade_keeps {a0 v1 : State} (h0 : Keeps a0 v1) (v0 : Nat) (v2 : Nat) : Keeps a0 (cascade v0 v1 v2) := by
  induction v0 generalizing v1 v2 with
  | zero =>
    unfold cascade
    exact h0
  | succ n ih =>
    unfold cascade
    split
    · rename_i z0 z1 z2
      extract_lets x3
      have k4 : Keeps a0 x3 := by
        unfold x3
        apply endOne_keeps
        exact h0
      clear_value x3
      apply ih
      split
      · rename_i z5
        apply State.modItem_keeps
        exact k4
      · rename_i z6
        exact k4
    · rename_i z7 z8
      exact h0

theorem endItem_keeps {a0 s : State} (h0 : Keeps a0 s) (r : ItemRef) (st : Status) (code : Nat) (aux : BitVec 32) : Keeps a0 (endItem s r st code aux) := by
  unfold endItem
  extract_lets x0
  have k1 : Keeps a0 x0 := by
    unfold x0
    apply endOne_keeps
    exact h0
  clear_value x0
  apply drainDue_keeps
  apply appendRecords_keeps
  apply cascade_keeps
  exact k1

theorem failItem_keeps {a0 s : State} (h0 : Keeps a0 s) (r : ItemRef) (code : Nat) (err : Option Nat) : Keeps a0 (failItem s r code err) := by
  unfold failItem
  split
  · rename_i z0 z1 z2
    apply endItem_keeps
    exact h0
  · rename_i z3 z4
    exact h0

theorem readAgain_keeps {a0 s : State} (h0 : Keeps a0 s) (r : ItemRef) (a : Nat) (n : Nat) : Keeps a0 (readAgain s r a n) := by
  unfold readAgain
  extract_lets x0
  have k1 : Keeps a0 x0 := by
    unfold x0
    apply forgetLine_keeps
    exact h0
  clear_value x0
  split
  · rename_i z2
    exact k1
  · rename_i z3
    split
    · rename_i z4 z5 z6 z7
      have k8 := Keeps.ofFst z7 (a := a0) (by
          apply itemRead_keeps
          exact k1)
      apply failItem_keeps
      exact k8
    · rename_i z9 z10 z11 z12 z13
      have k14 := Keeps.ofFst z13 (a := a0) (by
          apply itemRead_keeps
          exact k1)
      exact k14

theorem endMany_keeps {a0 s : State} (h0 : Keeps a0 s) (rs : List (ItemRef × Status × Nat × BitVec 32)) : Keeps a0 (endMany s rs) := by
  unfold endMany
  extract_lets x0
  have k1 : Keeps a0 x0 := by
    unfold x0
    apply Keeps.fold
    · exact h0
    · intro y2 y3 y4
      apply endOne_keeps
      exact y4
  clear_value x0
  apply drainDue_keeps
  apply Keeps.fold
  · exact k1
  · intro y5 y6 y7
    apply appendRecords_keeps
    apply cascade_keeps
    exact y7

theorem addFlags_keeps {a0 s : State} (h0 : Keeps a0 s) (r : ItemRef) (f : BitVec 8) : Keeps a0 (addFlags s r f) := by
  unfold addFlags
  apply State.modItem_keeps
  exact h0

theorem issueAtomic_keeps {a0 s : State} (h0 : Keeps a0 s) (r : ItemRef) (a : Nat) (code : Nat) (v : Nat) (cmp : Nat) (ret : Option Nat) : Keeps a0 (issueAtomic s r a code v cmp ret).1 := by
  unfold issueAtomic
  extract_lets x0 x1 x2 x3
  clear_value x0
  have k4 : Keeps a0 x1 := by
    unfold x1
    apply invalidateClean_keeps
    exact h0
  clear_value x1
  have k5 : Keeps a0 x2 := by
    unfold x2
    apply State.modItem_keeps
    exact k4
  clear_value x2
  split
  · rename_i z6
    exact k5
  · rename_i z7
    split
    · rename_i z8
      split
      · rename_i z9 z10 z11 z12 z13
        have k14 := Keeps.ofFst z13 (a := a0) (by
            apply reachHome_keeps
            apply chargeRequest_keeps
            exact k5)
        extract_lets x15
        have k16 : Keeps a0 x15 := by
          unfold x15
          apply addFlags_keeps
          exact k14
        clear_value x15
        split
        · rename_i z17 z18
          apply itemWrite_keeps
          exact k16
        · rename_i z19
          exact k16
      · rename_i z20 z21 z22
        have k23 := Keeps.ofFst z22 (a := a0) (by
            apply reachHome_keeps
            apply chargeRequest_keeps
            exact k5)
        dsimp only [x3]
        split
        · rename_i z24 z25 z26 z27
          have k28 := Keeps.ofFst z27 (a := a0) (by
              apply State.request_keeps
              exact k23)
          dsimp only
          apply State.modItem_keeps
          exact k28
        · rename_i z29 z30 z31
          have k32 := Keeps.ofFst z31 (a := a0) (by
              apply State.request_keeps
              exact k23)
          exact k32
      · rename_i z33 z34 z35 z36 z37 z38
        have k39 := Keeps.ofFst z38 (a := a0) (by
            apply reachHome_keeps
            apply chargeRequest_keeps
            exact k5)
        exact k39
    · rename_i z40
      dsimp only [x3]
      split
      · rename_i z41 z42 z43 z44
        have k45 := Keeps.ofFst z44 (a := a0) (by
            apply State.request_keeps
            exact k5)
        dsimp only
        apply State.modItem_keeps
        exact k45
      · rename_i z46 z47 z48
        have k49 := Keeps.ofFst z48 (a := a0) (by
            apply State.request_keeps
            exact k5)
        exact k49

theorem itemAtomic_keeps {a0 s : State} (h0 : Keeps a0 s) (r : ItemRef) (a : Nat) (code : Nat) (v : Nat) (cmp : Nat) (ret : Option Nat) : Keeps a0 (itemAtomic s r a code v cmp ret).1 := by
  unfold itemAtomic
  split
  · rename_i z0 z1 z2
    have k3 := Keeps.ofFst z2 (a := a0) (by
        apply writeWay_keeps
        exact h0)
    apply issueAtomic_keeps
    exact k3
  · rename_i z4 z5 z6
    have k7 := Keeps.ofFst z6 (a := a0) (by
        apply writeWay_keeps
        exact h0)
    dsimp only
    apply stageWrite_keeps
    exact k7

theorem issueStaged_keeps {a0 s : State} (h0 : Keeps a0 s) (r : ItemRef) : Keeps a0 (issueStaged s r).1 := by
  unfold issueStaged
  split
  · rename_i z0 z1 z2
    apply Keeps.foldFst
    · dsimp only
      apply State.modItem_keeps
      exact h0
    · intro y3 y4 y5
      split
      · rename_i z6 z7 z8 z9
        have k10 := Keeps.ofFst z9 (a := a0) (by
            split
            · rename_i z11 z12 z13 z14 z15 z16
              apply itemAtomic_keeps
              exact y5
            · rename_i z17 z18
              apply itemWrite_keeps
              exact y5)
        exact k10
  · rename_i z19 z20
    exact h0

theorem failWaiters_keeps {a0 s : State} (h0 : Keeps a0 s) (id : Nat) (code : Nat) : Keeps a0 (failWaiters s id code) := by
  unfold failWaiters
  extract_lets x0
  clear_value x0
  apply Keeps.fold
  · exact h0
  · intro y1 y2 y3
    apply failItem_keeps
    exact y3

theorem flaggedDone_keeps {a0 s : State} (h0 : Keeps a0 s) (r : ItemRef) (id : Nat) : Keeps a0 (flaggedDone s r id) := by
  unfold flaggedDone
  split
  · rename_i z0 z1 z2
    extract_lets x3 x4
    clear_value x3
    have k5 : Keeps a0 x4 := by
      unfold x4
      apply State.modItem_keeps
      exact h0
    clear_value x4
    split
    · rename_i z6
      apply endItem_keeps
      exact k5
    · rename_i z7
      exact k5
  · rename_i z8 z9
    exact h0

theorem repeatCas_keeps {a0 s : State} (h0 : Keeps a0 s) (q : Req) (a : Nat) (old : W64) (new : W64) (p : Purpose) : Keeps a0 (repeatCas s q a old new p) := by
  unfold repeatCas
  split
  · rename_i z0 z1 z2 z3
    have k4 := Keeps.ofFst z3 (a := a0) (by
        apply casRecord_keeps
        exact h0)
    exact k4

theorem claimHeld_keeps {a0 s : State} (h0 : Keeps a0 s) (r : ItemRef) (a : Nat) (buf : Nat) : Keeps a0 (claimHeld s r a buf) := by
  unfold claimHeld
  apply State.modItem_keeps
  exact h0

theorem committed_keeps {a0 s : State} (h0 : Keeps a0 s) (r : ItemRef) : Keeps a0 (committed s r) := by
  unfold committed
  apply State.modItem_keeps
  exact h0

theorem atomicDone_keeps {a0 s : State} (h0 : Keeps a0 s) (q : Req) (old : W64) (fl : BitVec 8) : Keeps a0 (atomicDone s q old fl) := by
  unfold atomicDone
  split
  · rename_i z0 z1 z2 z3 z4 z5 z6
    extract_lets x7
    have k8 : Keeps a0 x7 := by
      unfold x7
      apply addFlags_keeps
      exact h0
    clear_value x7
    split
    · rename_i z9 z10
      apply itemWrite_keeps
      exact k8
    · rename_i z11
      exact k8
  · rename_i z12 z13 z14 z15 z16 z17 z18 z19
    split
    · rename_i z20
      apply recordPin_keeps
      exact h0
    · rename_i z21
      apply forgetLine_keeps
      exact h0
  · rename_i z22 z23 z24 z25 z26 z27 z28 z29 z30
    split
    · rename_i z31
      split
      · rename_i z32 z33 z34
        split
        · rename_i z35
          apply issueRelease_keeps
          exact h0
        · rename_i z36
          apply State.modItem_keeps
          exact h0
      · rename_i z37 z38
        exact h0
    · rename_i z39
      apply forgetLine_keeps
      exact h0
  · rename_i z40 z41 z42 z43 z44 z45 z46 z47
    split
    · rename_i z48
      split
      · rename_i z49 z50 z51
        split
        · rename_i z52
          apply giveUpClaim_keeps
          exact h0
        · rename_i z53
          apply claimHeld_keeps
          exact h0
      · rename_i z54 z55
        exact h0
    · rename_i z56
      apply forgetLine_keeps
      exact h0
  · rename_i z57 z58 z59 z60 z61 z62 z63 z64
    split
    · rename_i z65
      apply committed_keeps
      exact h0
    · rename_i z66
      split
      · rename_i z67
        apply lateNoCommit_keeps
        exact h0
      · rename_i z68
        apply repeatCas_keeps
        exact h0
  · rename_i z69 z70 z71 z72 z73 z74
    split
    · rename_i z75
      exact h0
    · rename_i z76
      apply repeatCas_keeps
      exact h0
  · rename_i z77 z78 z79 z80 z81 z82
    split
    · rename_i z83
      exact h0
    · rename_i z84
      apply repeatCas_keeps
      exact h0
  · rename_i z85 z86 z87 z88 z89 z90 z91 z92 z93
    exact h0

theorem afterSettle_keeps {a0 s : State} (h0 : Keeps a0 s) (q : Req) : Keeps a0 (afterSettle s q) := by
  unfold afterSettle
  split
  · rename_i z0 z1 z2
    apply dropAdvance_keeps
    exact h0
  · rename_i z3 z4
    exact h0

theorem writeDone_keeps {a0 s : State} (h0 : Keeps a0 s) (q : Req) : Keeps a0 (writeDone s q) := by
  unfold writeDone
  extract_lets x0 x1
  have k2 : Keeps a0 x0 := by
    unfold x0
    apply State.dropReq_keeps
    exact h0
  clear_value x0
  have k3 : Keeps a0 x1 := by
    unfold x1
    split
    · rename_i z4 z5 z6 z7 z8
      apply flaggedDone_keeps
      exact k2
    · rename_i z9 z10 z11
      exact k2
  clear_value x1
  apply afterSettle_keeps
  exact k3

theorem requestFailed_keeps {a0 s : State} (h0 : Keeps a0 s) (q : Req) (code : Nat) : Keeps a0 (requestFailed s q code) := by
  unfold requestFailed
  extract_lets x0 x1
  have k2 : Keeps a0 x0 := by
    unfold x0
    split
    · rename_i z3 z4 z5 z6
      apply State.dropReq_keeps
      exact h0
    · rename_i z7 z8
      split
      · rename_i z9
        apply State.dropReq_keeps
        exact h0
      · rename_i z10
        apply failWaiters_keeps
        apply State.dropReq_keeps
        exact h0
  clear_value x0
  have k11 : Keeps a0 x1 := by
    unfold x1
    split
    · rename_i z12 z13 z14 z15 z16 z17 z18 z19
      split
      · rename_i z20
        apply keepRelease_keeps
        exact k2
      · rename_i z21
        apply pinReleaseLost_keeps
        exact k2
    · rename_i z22 z23 z24 z25 z26 z27
      exact k2
    · rename_i z28 z29 z30
      exact k2
    · rename_i z31 z32 z33 z34 z35
      split
      · rename_i z36 z37 z38
        apply failItem_keeps
        split
        · rename_i z39 z40 z41 z42 z43
          apply lateNoCommit_keeps
          exact k2
        · rename_i z44 z45
          exact k2
      · rename_i z46 z47
        exact k2
  clear_value x1
  apply afterSettle_keeps
  exact k11

theorem fenceFailed_keeps {a0 s : State} (h0 : Keeps a0 s) (id : Nat) (code : Nat) : Keeps a0 (fenceFailed s id code) := by
  unfold fenceFailed
  apply Keeps.fold
  · exact h0
  · intro y0 y1 y2
    apply State.modItem_keeps
    exact y2

theorem resetContext_keeps {a0 s : State} (h0 : Keeps a0 s) (c : Nat) (code : Nat) (err : Option Nat) : Keeps a0 (resetContext s c code err) := by
  unfold resetContext
  split
  · rename_i z0
    exact h0
  · rename_i z1
    extract_lets x2 x3
    have k4 : Keeps a0 x2 := by
      unfold x2
      apply endMany_keeps
      exact h0
    clear_value x2
    clear_value x3
    apply State.modCtx_keeps
    apply releasePins_keeps
    exact k4

theorem enterSafe_keeps {a0 s : State} (h0 : Keeps a0 s) (codeFor : Item → Nat) (err : Nat) : Keeps a0 (enterSafe s codeFor err) := by
  unfold enterSafe
  split
  · exact h0
  · extract_lets b x0 x1 x2 x3
    have k0 : Keeps a0 x0 := ⟨h0.queue, h0.fuses, h0.canon, h0.units, fun _ => rfl⟩
    have k1 : Keeps a0 x1 := by unfold x1; exact Keeps.put k0
    have k2 : Keeps a0 x2 := endMany_keeps k1 _
    apply drainErrors_keeps
    apply Keeps.fold k2
    intro s c h
    exact drain_keeps h _

end Sys2Proof.Machine
end

