-- ==== Sys2Proof/Laws/LeftSched.lean ====
section
/-! SUPPORT. What each operation leaves (Keeps): admission, intake, scheduling, contexts, links, resets and start-up. -/

set_option Elab.async false
set_option linter.unusedVariables false

namespace Sys2Proof.Machine

/-! ## Machine/Admit.lean -/

theorem heldRead_keeps {a0 s : State} (h0 : Keeps a0 s) (off : Nat) (n : Nat) : Keeps a0 (heldRead s off n).1 := by
  unfold heldRead
  apply Keeps.foldFst
  · exact h0
  · intro y0 y1 y2
    split
    · rename_i z3 z4 z5
      have k6 := Keeps.ofFst z5 (a := a0) (by
          apply reachHome_keeps
          exact y2)
      exact k6
    · rename_i z7 z8 z9 z10 z11
      have k12 := Keeps.ofFst z11 (a := a0) (by
          apply reachHome_keeps
          exact y2)
      exact k12

theorem Keeps.pair {a : State} {α β : Type} {p : State × α} {b : β} (h : Keeps a p.1) : Keeps a (p.1, b).1 := h

theorem manifestRead_keeps {a0 s : State} (h0 : Keeps a0 s) (v : SurvivalCfg) : Keeps a0 (manifestRead s v).1 := by
  unfold manifestRead
  exact Keeps.foldFst h0 (fun p x h => Keeps.pair (heldRead_keeps h _ _))

theorem keepRound_keeps {a0 s : State} (h0 : Keeps a0 s) : Keeps a0 (keepRound s).1 := by
  unfold keepRound
  split
  · rename_i z0
    exact h0
  · rename_i z1
    split
    · rename_i z2 z3 z4 z5
      have k6 := Keeps.ofFst z5 (a := a0) (by
          split
          · rename_i z7 z8 z9
            apply manifestRead_keeps
            exact h0
          · rename_i z10 z11
            exact h0)
      split
      · rename_i z12 z13
        have k14 := Keeps.ofFst z5 (a := a0) (by
            split
            · rename_i z15 z16 z17
              apply manifestRead_keeps
              exact h0
            · rename_i z18 z19
              exact h0)
        dsimp only
        exact Keeps.put k6
      · rename_i z20
        have k21 := Keeps.ofFst z5 (a := a0) (by
            split
            · rename_i z22 z23 z24
              apply manifestRead_keeps
              exact h0
            · rename_i z25 z26
              exact h0)
        exact k6

/-! ## Machine/Intake.lean -/

theorem readBlock_keeps {a0 s : State} (h0 : Keeps a0 s) (off : Nat) : Keeps a0 (readBlock s off).1 := by
  unfold readBlock
  split
  · rename_i z0 z1 z2 z3
    have k4 := Keeps.ofFst z3 (a := a0) (by
        apply reachHome_keeps
        exact h0)
    split
    · rename_i z5 z6
      have k7 := Keeps.ofFst z3 (a := a0) (by
          apply reachHome_keeps
          exact h0)
      exact k4
    · rename_i z8
      have k9 := Keeps.ofFst z3 (a := a0) (by
          apply reachHome_keeps
          exact h0)
      exact k4
    · rename_i z10 z11 z12
      exact k4

theorem readRecordOnce_keeps {a0 s : State} (h0 : Keeps a0 s) (c : Nat) (k : CtxCfg) (i : Nat) : Keeps a0 (readRecordOnce s c k i).1 := by
  unfold readRecordOnce
  split
  · rename_i z0 z1 z2
    exact h0
  · rename_i z3 z4
    split
    · rename_i z5 z6 z7 z8
      have k9 := Keeps.ofFst z8 (a := a0) (by
          apply readBlock_keeps
          exact h0)
      dsimp only
      apply State.modCtx_keeps
      exact k9
    · rename_i z10 z11
      apply readBlock_keeps
      exact h0

theorem readRing_keeps {a0 s : State} (h0 : Keeps a0 s) (c : Nat) (k : CtxCfg) (i : Nat) (n : Nat) : Keeps a0 (readRing s c k i n).1 := by
  unfold readRing
  apply Keeps.foldFst
  · exact h0
  · intro y0 y1 y2
    split
    · rename_i z3 z4 z5
      split
      · rename_i z6 z7 z8 z9
        have k10 := Keeps.ofFst z9 (a := a0) (by
            apply readRecordOnce_keeps
            exact y2)
        exact k10
    · rename_i z11 z12
      exact y2

theorem fetchRecords_keeps {a0 s : State} (h0 : Keeps a0 s) (c : Nat) (as_ : List Nat) : Keeps a0 (fetchRecords s c as_).1 := by
  unfold fetchRecords
  apply Keeps.foldFst
  · exact h0
  · intro y0 y1 y2
    split
    · rename_i z3
      exact y2
    · rename_i z4
      split
      · rename_i z5
        split
        · rename_i z6 z7 z8 z9
          have k10 := Keeps.ofFst z9 (a := a0) (by
              apply readBlock_keeps
              exact y2)
          exact k10
        · rename_i z11 z12 z13
          have k14 := Keeps.ofFst z13 (a := a0) (by
              apply readBlock_keeps
              exact y2)
          exact k14
      · rename_i z15
        split
        · rename_i z16 z17 z18
          exact y2
        · rename_i z19 z20
          split
          · rename_i z21
            exact y2
          · rename_i z22
            split
            · rename_i z23 z24 z25 z26
              have k27 := Keeps.ofFst z26 (a := a0) (by
                  apply State.request_keeps
                  exact y2)
              exact k27
            · rename_i z28 z29 z30
              have k31 := Keeps.ofFst z30 (a := a0) (by
                  apply State.request_keeps
                  exact y2)
              exact k31

theorem takeCollNo_keeps {a0 s : State} (h0 : Keeps a0 s) (c : Nat) (ws : List W64) : Keeps a0 (takeCollNo s c ws).1 := by
  unfold takeCollNo
  split
  · rename_i z0
    exact h0
  · rename_i z1
    split
    · rename_i z2 z3
      exact h0
    · rename_i z4 z5 z6
      extract_lets x7
      clear_value x7
      dsimp only
      exact Keeps.put h0

theorem takeIn_keeps {a0 s : State} (h0 : Keeps a0 s) (c : Nat) (k : CtxCfg) (ws : List W64) (rs : Recs) : Keeps a0 (takeIn s c k ws rs) := by
  unfold takeIn
  extract_lets x0 x1 x2 x3 x4
  clear_value x0
  clear_value x1
  clear_value x2
  clear_value x3
  clear_value x4
  split
  · rename_i z5 z6 z7 z8
    have k9 := Keeps.ofFst z8 (a := a0) (by
        apply takeCollNo_keeps
        exact h0)
    extract_lets x10 x11 x12
    clear_value x10
    clear_value x11
    clear_value x12
    apply State.modCtx_keeps
    exact Keeps.put k9

theorem intakeLoop_keeps {a0 v1 : State} (h0 : Keeps a0 v1) (v0 : Nat) (v2 : Nat) (v3 : CtxCfg) : Keeps a0 (intakeLoop v0 v1 v2 v3) := by
  induction v0 generalizing v1 v2 v3 with
  | zero =>
    unfold intakeLoop
    exact h0
  | succ n ih =>
    unfold intakeLoop
    extract_lets x0 x1
    clear_value x0
    clear_value x1
    split
    · rename_i z2
      exact h0
    · rename_i z3
      split
      · rename_i z4 z5 z6
        have k7 := Keeps.ofFst z6 (a := a0) (by
            apply readRing_keeps
            exact h0)
        apply State.modCtx_keeps
        exact k7
      · rename_i z8 z9 z10
        have k11 := Keeps.ofFst z10 (a := a0) (by
            apply readRing_keeps
            exact h0)
        apply State.modCtx_keeps
        exact k11
      · rename_i z12 z13 z14 z15
        have k16 := Keeps.ofFst z15 (a := a0) (by
            apply readRing_keeps
            exact h0)
        extract_lets x17
        clear_value x17
        split
        · rename_i z18
          exact k16
        · rename_i z19
          split
          · rename_i z20 z21 z22
            have k23 := Keeps.ofFst z22 (a := a0) (by
                apply readRing_keeps
                exact k16)
            apply State.modCtx_keeps
            exact k23
          · rename_i z24 z25 z26
            have k27 := Keeps.ofFst z26 (a := a0) (by
                apply readRing_keeps
                exact k16)
            apply State.modCtx_keeps
            exact k27
          · rename_i z28 z29 z30 z31
            have k32 := Keeps.ofFst z31 (a := a0) (by
                apply readRing_keeps
                exact k16)
            split
            · rename_i z33 z34 z35
              have k36 := Keeps.ofFst z35 (a := a0) (by
                  apply fetchRecords_keeps
                  exact k32)
              apply State.modCtx_keeps
              exact k36
            · rename_i z37 z38 z39 z40
              have k41 := Keeps.ofFst z40 (a := a0) (by
                  apply fetchRecords_keeps
                  exact k32)
              split
              · rename_i z42 z43 z44
                have k45 := Keeps.ofFst z44 (a := a0) (by
                    split
                    · rename_i z46
                      apply keepRound_keeps
                      exact k41
                    · rename_i z47
                      exact k41)
                apply ih
                apply takeIn_keeps
                exact k45
              · rename_i z48 z49 z50
                have k51 := Keeps.ofFst z50 (a := a0) (by
                    split
                    · rename_i z52
                      apply keepRound_keeps
                      exact k41
                    · rename_i z53
                      exact k41)
                apply State.modCtx_keeps
                exact k51

theorem intakeTurns_keeps {a0 v1 : State} (h0 : Keeps a0 v1) (v0 : Nat) (v2 : Nat) (v3 : CtxCfg) : Keeps a0 (intakeTurns v0 v1 v2 v3) := by
  induction v0 generalizing v1 v2 v3 with
  | zero =>
    unfold intakeTurns
    exact h0
  | succ n ih =>
    unfold intakeTurns
    extract_lets x0 x1 x2
    have k3 : Keeps a0 x0 := by
      unfold x0
      apply intakeLoop_keeps
      exact h0
    clear_value x0
    have k4 : Keeps a0 x1 := by
      unfold x1
      apply appendRecords_keeps
      apply cascade_keeps
      exact k3
    clear_value x1
    clear_value x2
    split
    · rename_i z5
      apply ih
      exact k4
    · rename_i z6
      exact k4

theorem runIntake_keeps {a0 s : State} (h0 : Keeps a0 s) (c : Nat) (k : CtxCfg) : Keeps a0 (runIntake s c k) := by
  unfold runIntake
  extract_lets x0 x1 x2
  have k3 : Keeps a0 x0 := by
    unfold x0
    apply intakeTurns_keeps
    exact h0
  clear_value x0
  clear_value x1
  clear_value x2
  split
  · rename_i z4
    exact k3
  · rename_i z5
    apply State.modCtx_keeps
    exact k3

theorem resumeIntake_keeps {a0 s : State} (h0 : Keeps a0 s) (c : Nat) : Keeps a0 (resumeIntake s c) := by
  unfold resumeIntake
  split
  · rename_i z0 z1 z2
    split
    · rename_i z3
      apply runIntake_keeps
      apply State.modCtx_keeps
      exact h0
    · rename_i z4
      exact h0
  · rename_i z5 z6
    exact h0

theorem goOnIntake_keeps {a0 s : State} (h0 : Keeps a0 s) (c : Nat) : Keeps a0 (goOnIntake s c) := by
  unfold goOnIntake
  split
  · rename_i z0 z1 z2
    extract_lets x3
    clear_value x3
    split
    · rename_i z4
      apply runIntake_keeps
      exact h0
    · rename_i z5
      exact h0
  · rename_i z6 z7
    exact h0

/-! ## Machine/Sched.lean -/

theorem startItem_keeps {a0 s : State} (h0 : Keeps a0 s) (r : ItemRef) (f : Item → Item) : Keeps a0 (startItem s r f) := by
  unfold startItem
  extract_lets x0
  have k1 : Keeps a0 x0 := by
    unfold x0
    apply State.modItem_keeps
    exact h0
  clear_value x0
  apply goOnIntake_keeps
  split
  · rename_i z2
    exact k1
  · rename_i z3
    apply itemEvent_keeps
    exact k1

theorem State.modDie_keeps {a0 s : State} (h0 : Keeps a0 s) (d : Nat) (f : Die → Die) : Keeps a0 (State.modDie s d f) := by
  unfold State.modDie
  exact Keeps.put h0

theorem ownCores_keeps {a0 s : State} (h0 : Keeps a0 s) (d : Nat) (ks : List Nat) (o : CoreOwner) : Keeps a0 (ownCores s d ks o) := by
  unfold ownCores
  apply State.modDie_keeps
  exact h0

theorem giveBackOne_keeps {a0 s : State} (h0 : Keeps a0 s) (d : Nat) (x : ItemRef × Nat) : Keeps a0 (giveBackOne s d x) := by
  unfold giveBackOne
  extract_lets x0
  split
  · rename_i z1
    dsimp only [x0]
    apply State.modDie_keeps
    exact h0
  · rename_i z2
    split
    · rename_i z3
      dsimp only [x0]
      apply State.modDie_keeps
      apply State.modItem_keeps
      apply ownCores_keeps
      exact h0
    · rename_i z4
      exact h0

theorem giveBack_keeps {a0 s : State} (h0 : Keeps a0 s) (d : Nat) : Keeps a0 (giveBack s d) := by
  unfold giveBack
  apply Keeps.fold
  · exact h0
  · intro y0 y1 y2
    apply giveBackOne_keeps
    exact y2

theorem collGrab_keeps {a0 v1 : State} (h0 : Keeps a0 v1) (v0 : Nat) (v2 : Nat) : Keeps a0 (collGrab v0 v1 v2) := by
  induction v0 generalizing v1 v2 with
  | zero =>
    unfold collGrab
    exact h0
  | succ n ih =>
    unfold collGrab
    split
    · rename_i z0
      split
      · rename_i z1 z2 z3
        apply ih
        apply ownCores_keeps
        exact h0
      · rename_i z4 z5
        exact h0
    · rename_i z6
      exact h0

theorem takeCores_keeps {a0 s : State} (h0 : Keeps a0 s) (d : Nat) (r : ItemRef) (n : Nat) : Keeps a0 (takeCores s d r n) := by
  unfold takeCores
  extract_lets x0
  clear_value x0
  apply State.modItem_keeps
  apply ownCores_keeps
  exact h0

theorem benchStart_keeps {a0 s : State} (h0 : Keeps a0 s) (d : Nat) (i : Item) : Keeps a0 (benchStart s d i) := by
  unfold benchStart
  split
  · rename_i z0 z1 z2
    apply startItem_keeps
    apply takeCores_keeps
    exact h0
  · rename_i z3 z4
    exact h0

theorem chainStart_keeps {a0 s : State} (h0 : Keeps a0 s) (d : Nat) (sq : Nat) (i : Item) : Keeps a0 (chainStart s d sq i) := by
  unfold chainStart
  extract_lets x0 x1 x2 x3
  clear_value x0
  clear_value x1
  have k4 : Keeps a0 x2 := by
    unfold x2
    apply takeCores_keeps
    exact h0
  clear_value x2
  have k5 : Keeps a0 x3 := by
    unfold x3
    apply State.modDie_keeps
    exact k4
  clear_value x3
  apply startItem_keeps
  exact k5

theorem engineStart_keeps {a0 s : State} (h0 : Keeps a0 s) (l : Nat) (i : Item) : Keeps a0 (engineStart s l i) := by
  unfold engineStart
  split
  · rename_i z0 z1
    exact h0
  · rename_i z2 z3 z4 z5
    extract_lets x6 x7 x8
    clear_value x6
    have k9 : Keeps a0 x8 := by
      unfold x8
      exact Keeps.put h0
    clear_value x8
    apply startItem_keeps
    exact k9

theorem passOver_keeps {a0 s : State} (h0 : Keeps a0 s) (o : Offer) (p : Nat) (chosen : ItemRef) : Keeps a0 (passOver s o p chosen) := by
  unfold passOver
  exact Keeps.put h0

theorem runRound_keeps {a0 s : State} (h0 : Keeps a0 s) (o : Offer) (credits : List Int) : Keeps a0 (runRound s o credits).1 := by
  unfold runRound
  extract_lets x0
  clear_value x0
  split
  · rename_i z1 z2 z3 z4
    split
    · rename_i z5 z6 z7
      dsimp only
      apply passOver_keeps
      exact h0
    · rename_i z8 z9
      exact h0
  · rename_i z10 z11 z12
    exact h0

theorem sequencerRound_keeps {a0 s : State} (h0 : Keeps a0 s) (d : Nat) (sq : Nat) : Keeps a0 (sequencerRound s d sq) := by
  unfold sequencerRound
  split
  · rename_i z0
    exact h0
  · rename_i z1
    split
    · rename_i z2 z3 z4 z5 z6
      have k7 := Keeps.ofFst z6 (a := a0) (by
          apply runRound_keeps
          exact h0)
      apply chainStart_keeps
      apply State.modDie_keeps
      exact k7
    · rename_i z8 z9
      exact h0

theorem benchRound_keeps {a0 s : State} (h0 : Keeps a0 s) (d : Nat) : Keeps a0 (benchRound s d) := by
  unfold benchRound
  split
  · rename_i z0
    exact h0
  · rename_i z1
    extract_lets x2
    have k3 : Keeps a0 x2 := by
      unfold x2
      apply collGrab_keeps
      apply giveBack_keeps
      exact h0
    clear_value x2
    split
    · rename_i z4 z5 z6 z7 z8
      have k9 := Keeps.ofFst z8 (a := a0) (by
          apply runRound_keeps
          exact k3)
      apply benchStart_keeps
      apply State.modDie_keeps
      exact k9
    · rename_i z10 z11
      exact k3

theorem engineRound_keeps {a0 s : State} (h0 : Keeps a0 s) (l : Nat) (tipple : Bool) : Keeps a0 (engineRound s l tipple) := by
  unfold engineRound
  extract_lets x0
  clear_value x0
  split
  · rename_i z1 z2 z3 z4 z5
    have k6 := Keeps.ofFst z5 (a := a0) (by
        apply runRound_keeps
        exact h0)
    apply engineStart_keeps
    exact Keeps.put k6
  · rename_i z7 z8
    exact h0

theorem execSchedulerRound_keeps {a0 s : State} (h0 : Keeps a0 s) (u : RoundUnit) : OutKeeps a0 (execSchedulerRound u s) := by
  unfold execSchedulerRound
  apply OutKeeps.next
  split
  · rename_i z0
    split
    · rename_i z1 z2 z3
      apply sequencerRound_keeps
      exact h0
    · rename_i z4 z5
      apply benchRound_keeps
      exact h0
    · rename_i z6 z7 z8
      apply engineRound_keeps
      exact h0
  · rename_i z9
    exact h0

theorem detSequencerRound_keeps {a0 s : State} (h0 : Keeps a0 s) (d : Nat) (sq : Nat) : Keeps a0 (detSequencerRound s d sq) := by
  unfold detSequencerRound
  split
  · rename_i z0
    exact h0
  · rename_i z1
    split
    · rename_i z2 z3
      exact h0
    · rename_i z4 z5 z6
      split
      · rename_i z7 z8
        exact h0
      · rename_i z9 z10 z11
        split
        · rename_i z12
          apply chainStart_keeps
          apply State.modDie_keeps
          exact h0
        · rename_i z13
          exact h0

theorem detBenchRound_keeps {a0 s : State} (h0 : Keeps a0 s) (d : Nat) : Keeps a0 (detBenchRound s d) := by
  unfold detBenchRound
  extract_lets x0
  have k1 : Keeps a0 x0 := by
    unfold x0
    apply collGrab_keeps
    apply giveBack_keeps
    exact h0
  clear_value x0
  split
  · rename_i z2 z3
    exact k1
  · rename_i z4 z5 z6
    split
    · rename_i z7 z8
      exact k1
    · rename_i z9 z10 z11
      split
      · rename_i z12
        apply benchStart_keeps
        apply State.modDie_keeps
        exact k1
      · rename_i z13
        exact k1

theorem execDeterministicRound_keeps {a0 s : State} (h0 : Keeps a0 s) (u : RoundUnit) : OutKeeps a0 (execDeterministicRound u s) := by
  unfold execDeterministicRound
  apply OutKeeps.next
  split
  · rename_i z0
    split
    · rename_i z1 z2 z3
      split
      · rename_i z4
        apply detSequencerRound_keeps
        exact h0
      · rename_i z5
        exact h0
    · rename_i z6 z7
      split
      · rename_i z8
        apply detBenchRound_keeps
        exact h0
      · rename_i z9
        exact h0
    · rename_i z10 z11 z12
      exact h0
  · rename_i z13
    exact h0

/-! ## Machine/Levels.lean -/

theorem syncUnits_keeps {a0 s : State} (h0 : Keeps a0 s) : Keeps a0 (syncUnits s) := by
  unfold syncUnits
  exact Keeps.put' h0 (by simp +contextual [State.HasUnits])

theorem State.modHearth_keeps {a0 s : State} (h0 : Keeps a0 s) (f : Hearth → Hearth) : Keeps a0 (State.modHearth s f) := by
  unfold State.modHearth
  exact Keeps.put h0

theorem countStretch_keeps {a0 s : State} (h0 : Keeps a0 s) : Keeps a0 (countStretch s) := by
  unfold countStretch
  apply Keeps.fold
  · exact h0
  · intro y0 y1 y2
    extract_lets x3 x4 x5
    clear_value x3
    clear_value x4
    clear_value x5
    split
    · rename_i z6
      exact y2
    · rename_i z7
      apply count_keeps
      exact y2

theorem accrue_keeps {a0 s : State} (h0 : Keeps a0 s) : Keeps a0 (accrue s) := by
  unfold accrue
  extract_lets x0 x1
  have k2 : Keeps a0 x0 := by
    unfold x0
    apply syncUnits_keeps
    apply countStretch_keeps
    exact h0
  clear_value x0
  clear_value x1
  apply State.modHearth_keeps
  exact k2

theorem modGroup_keeps {a0 s : State} (h0 : Keeps a0 s) (g : Nat) (f : PowerGroup → PowerGroup) : Keeps a0 (modGroup s g f) := by
  unfold modGroup
  apply State.modHearth_keeps
  exact h0

theorem moveLevels_keeps {a0 s : State} (h0 : Keeps a0 s) : Keeps a0 (moveLevels s) := by
  unfold moveLevels
  extract_lets x0 x1
  have k2 : Keeps a0 x0 := by
    unfold x0
    apply accrue_keeps
    exact h0
  clear_value x0
  have k3 : Keeps a0 x1 := by
    unfold x1
    exact Keeps.put k2
  clear_value x1
  exact Keeps.put' k3 (by simp +contextual [State.HasUnits])

theorem withCaps_keeps {a0 s : State} (h0 : Keeps a0 s) (f : State → State) (h_f : ∀ (q0 : State), Keeps a0 q0 → Keeps a0 (f q0)) : Keeps a0 (withCaps s f) := by
  unfold withCaps
  apply moveLevels_keeps
  apply h_f
  apply accrue_keeps
  exact h0

theorem settleLevels_keeps {a0 s : State} (h0 : Keeps a0 s) : Keeps a0 (settleLevels s) := by
  unfold settleLevels
  extract_lets dies vid
  exact Keeps.put h0 (h3 := by simp [dies])

/-! ## Machine/Context.lean -/

theorem countFold_keeps {a0 s : State} (h0 : Keeps a0 s) (i : Item) (a : Nat) : Keeps a0 (countFold s i a) := by
  unfold countFold
  extract_lets x0
  apply State.modCtx_keeps
  apply State.modItem_keeps
  exact h0

theorem settleFolds_keeps {a0 s : State} (h0 : Keeps a0 s) (c : Nat) : Keeps a0 (settleFolds s c) := by
  unfold settleFolds
  extract_lets x0
  clear_value x0
  apply Keeps.fold
  · exact h0
  · intro y1 y2 y3
    apply Keeps.fold
    · exact y3
    · intro y4 y5 y6
      apply countFold_keeps
      exact y6

theorem finishItem_keeps {a0 s : State} (h0 : Keeps a0 s) (i : Item) : Keeps a0 (finishItem s i) := by
  unfold finishItem
  split
  · rename_i z0
    apply failItem_keeps
    exact h0
  · rename_i z1
    apply endItem_keeps
    exact h0

theorem goStaged_keeps {a0 s : State} (h0 : Keeps a0 s) (r : ItemRef) : Keeps a0 (goStaged s r) := by
  unfold goStaged
  split
  · rename_i z0 z1 z2
    split
    · rename_i z3
      exact h0
    · rename_i z4
      split
      · rename_i z5 z6 z7 z8
        have k9 := Keeps.ofFst z8 (a := a0) (by
            apply issueStaged_keeps
            exact h0)
        apply failItem_keeps
        exact k9
      · rename_i z10 z11 z12
        have k13 := Keeps.ofFst z12 (a := a0) (by
            apply issueStaged_keeps
            exact h0)
        apply releaseIssued_keeps
        exact k13
  · rename_i z14 z15
    exact h0

theorem goStagedAll_keeps {a0 s : State} (h0 : Keeps a0 s) (c : Nat) : Keeps a0 (goStagedAll s c) := by
  unfold goStagedAll
  apply Keeps.fold
  · exact h0
  · intro y0 y1 y2
    apply goStaged_keeps
    exact y2

theorem execItemEnd_keeps {a0 s : State} (h0 : Keeps a0 s) (c : CtxIx) (seq : Nat) : OutKeeps a0 (execItemEnd c seq s) := by
  unfold execItemEnd
  apply OutKeeps.next
  extract_lets x0
  have k1 : Keeps a0 x0 := by
    unfold x0
    apply goStaged_keeps
    exact h0
  clear_value x0
  split
  · rename_i z2 z3 z4
    split
    · rename_i z5
      apply goOnIntake_keeps
      apply goStagedAll_keeps
      apply finishItem_keeps
      exact k1
    · rename_i z6
      exact k1
  · rename_i z7 z8
    exact k1

theorem execDropPoisonComplete_keeps {a0 s : State} (h0 : Keeps a0 s) (c : CtxIx) (seq : Nat) : OutKeeps a0 (execDropPoisonComplete c seq s) := by
  unfold execDropPoisonComplete
  apply OutKeeps.next
  split
  · rename_i z0 z1 z2
    split
    · rename_i z3
      apply goStagedAll_keeps
      apply appendRecords_keeps
      apply State.modItem_keeps
      exact h0
    · rename_i z4
      exact h0
  · rename_i z5 z6
    exact h0

theorem execDrainIntervalExpiry_keeps {a0 s : State} (h0 : Keeps a0 s) (c : CtxIx) : OutKeeps a0 (execDrainIntervalExpiry c s) := by
  unfold execDrainIntervalExpiry
  apply OutKeeps.next
  split
  · rename_i z0 z1 z2
    extract_lets x3
    clear_value x3
    split
    · rename_i z4
      apply drain_keeps
      apply State.upTo_keeps
      exact h0
    · rename_i z5
      exact h0
  · rename_i z6 z7
    exact h0

theorem addFlagged_keeps {a0 s : State} (h0 : Keeps a0 s) (r : ItemRef) (a : Nat) (v : W64) : Keeps a0 (addFlagged s r a v) := by
  unfold addFlagged
  extract_lets x0
  clear_value x0
  apply State.modItem_keeps
  exact h0

theorem issueFlagged_keeps {a0 s : State} (h0 : Keeps a0 s) (i : Item) (f : Flagged) : Keeps a0 (issueFlagged s i f) := by
  unfold issueFlagged
  extract_lets x0 x1 x2 x3 x4 x5 x6
  clear_value x0
  clear_value x1
  clear_value x3
  clear_value x4
  have k7 : Keeps a0 x5 := by
    unfold x5
    apply dropOtherCopies_keeps
    exact h0
  clear_value x5
  have k8 : Keeps a0 x6.s := by
    unfold x6
    apply issueWrite_keeps
    exact k7
  clear_value x6
  split
  · rename_i z9
    split
    · rename_i z10 z11 z12
      split
      · rename_i z13
        dsimp only [x2]
        apply State.modItem_keeps
        apply State.sendHost_keeps
        exact h0
      · rename_i z14
        apply failItem_keeps
        exact h0
    · rename_i z15 z16
      apply failItem_keeps
      exact h0
  · rename_i z17
    split
    · rename_i z18 z19 z20
      apply failItem_keeps
      dsimp only [x2]
      apply State.modItem_keeps
      exact k8
    · rename_i z21 z22
      split
      · rename_i z23
        apply flaggedDone_keeps
        dsimp only [x2]
        apply State.modItem_keeps
        exact k8
      · rename_i z24
        dsimp only [x2]
        apply State.modItem_keeps
        exact k8

theorem execFlaggedFinalWriteIssue_keeps {a0 s : State} (h0 : Keeps a0 s) (c : CtxIx) (seq : Nat) : OutKeeps a0 (execFlaggedFinalWriteIssue c seq s) := by
  unfold execFlaggedFinalWriteIssue
  apply OutKeeps.next
  split
  · rename_i z0 z1 z2
    split
    · rename_i z3 z4 z5
      split
      · rename_i z6
        split
        · rename_i z7 z8 z9
          have k10 := Keeps.ofFst z9 (a := a0) (by
              apply clearWay_keeps
              exact h0)
          apply issueFlagged_keeps
          exact k10
        · rename_i z11 z12 z13
          have k14 := Keeps.ofFst z13 (a := a0) (by
              apply clearWay_keeps
              exact h0)
          exact k14
      · rename_i z15
        exact h0
    · rename_i z16 z17
      exact h0
  · rename_i z18 z19
    exact h0

theorem prune_keeps {a0 s : State} (h0 : Keeps a0 s) (c : Nat) : Keeps a0 (prune s c) := by
  unfold prune
  extract_lets x0 x1
  have k2 : Keeps a0 x0 := by
    unfold x0
    apply settleFolds_keeps
    exact h0
  clear_value x0
  exact Keeps.put k2

theorem execPeriodStart_keeps {a0 s : State} (h0 : Keeps a0 s) (c : CtxIx) : OutKeeps a0 (execPeriodStart c s) := by
  unfold execPeriodStart
  apply OutKeeps.next
  split
  · rename_i z0
    extract_lets x1
    clear_value x1
    apply State.modCtx_keeps
    apply prune_keeps
    apply State.upTo_keeps
    exact h0
  · rename_i z2
    exact h0

theorem execPoll_keeps {a0 s : State} (h0 : Keeps a0 s) (c : CtxIx) : OutKeeps a0 (execPoll c s) := by
  unfold execPoll
  apply OutKeeps.next
  split
  · rename_i z0 z1 z2
    extract_lets x3 x4
    clear_value x3
    clear_value x4
    split
    · rename_i z5
      apply State.modCtx_keeps
      apply State.upTo_keeps
      exact h0
    · rename_i z6
      exact h0
  · rename_i z7 z8
    exact h0

theorem execControlBlockReadReturn_keeps {a0 s : State} (h0 : Keeps a0 s) (c : CtxIx) : OutKeeps a0 (execControlBlockReadReturn c s) := by
  unfold execControlBlockReadReturn
  apply OutKeeps.next
  split
  · rename_i z0 z1 z2
    extract_lets x3
    clear_value x3
    split
    · rename_i z4
      split
      · rename_i z5 z6 z7
        have k8 := Keeps.ofFst z7 (a := a0) (by
            apply readBlock_keeps
            exact h0)
        exact k8
      · rename_i z9 z10 z11
        have k12 := Keeps.ofFst z11 (a := a0) (by
            apply readBlock_keeps
            exact h0)
        apply State.modCtx_keeps
        exact k12
      · rename_i z13 z14 z15 z16
        have k17 := Keeps.ofFst z16 (a := a0) (by
            apply readBlock_keeps
            exact h0)
        extract_lets x18 x19 x20 x21 x22
        have k23 : Keeps a0 x18 := by
          unfold x18
          apply acquire_keeps
          exact k17
        clear_value x18
        have k24 : Keeps a0 x19 := by
          unfold x19
          split
          · rename_i z25
            apply drain_keeps
            apply State.modCtx_keeps
            exact k23
          · rename_i z26
            exact k23
        clear_value x19
        clear_value x20
        clear_value x21
        have k27 : Keeps a0 x22 := by
          unfold x22
          apply State.modCtx_keeps
          exact k24
        clear_value x22
        split
        · rename_i z28
          apply State.modCtx_keeps
          exact k27
        · rename_i z29
          split
          · rename_i z30
            apply State.modCtx_keeps
            exact k27
          · rename_i z31
            split
            · rename_i z32
              apply State.modCtx_keeps
              exact k27
            · rename_i z33
              apply runIntake_keeps
              apply State.modCtx_keeps
              exact k27
    · rename_i z34
      exact h0
  · rename_i z35 z36
    exact h0

theorem watchdog_keeps {a0 s : State} (h0 : Keeps a0 s) (c : Nat) : Keeps a0 (watchdog s c) := by
  unfold watchdog
  extract_lets x0 x1 x2 x3
  clear_value x0
  clear_value x1
  clear_value x2
  have k4 : Keeps a0 x3 := by
    unfold x3
    apply raiseError_keeps
    exact h0
  clear_value x3
  split
  · rename_i z5
    apply resetContext_keeps
    exact k4
  · rename_i z6
    exact h0

theorem execPeriodEnd_keeps {a0 s : State} (h0 : Keeps a0 s) (c : CtxIx) : OutKeeps a0 (execPeriodEnd c s) := by
  unfold execPeriodEnd
  apply OutKeeps.next
  split
  · rename_i z0 z1 z2
    extract_lets x3 x4 x5 x6 x7 x8
    clear_value x3
    have k9 : Keeps a0 x4 := by
      unfold x4
      apply State.upTo_keeps
      exact h0
    clear_value x4
    clear_value x5
    have k10 : Keeps a0 x6 := by
      unfold x6
      split
      · rename_i z11
        apply watchdog_keeps
        apply endMany_keeps
        exact k9
      · rename_i z12
        exact k9
    clear_value x6
    clear_value x7
    have k13 : Keeps a0 x8 := by
      unfold x8
      apply drain_keeps
      apply endMany_keeps
      exact k10
    clear_value x8
    split
    · rename_i z14
      apply State.modCtx_keeps
      exact k13
    · rename_i z15
      exact h0
  · rename_i z16 z17
    exact h0

/-! ## Machine/Links.lean -/

theorem rerouteQueue_keeps {a0 s : State} (h0 : Keeps a0 s) (p : Nat) : Keeps a0 (rerouteQueue s p) := by
  unfold rerouteQueue
  extract_lets x0
  clear_value x0
  apply Keeps.fold
  · apply State.modPort_keeps
    exact h0
  · intro y1 y2 y3
    extract_lets x4
    clear_value x4
    split
    · rename_i z5 z6 z7
      have k8 := OptKeeps.of z7 (a := a0) (by
          apply routeSince_keeps
          exact y3)
      exact k8
    · rename_i z9 z10
      apply discardAt_keeps
      apply owePacket_keeps
      exact y3

theorem linkDown_keeps {a0 s : State} (h0 : Keeps a0 s) (p : Nat) (cause : Nat) : Keeps a0 (linkDown s p cause) := by
  unfold linkDown
  extract_lets x0 x1
  have k2 : Keeps a0 x0 := by
    unfold x0
    apply State.modPort_keeps
    exact h0
  clear_value x0
  have k3 : Keeps a0 x1 := by
    unfold x1
    apply raiseError_keeps
    exact k2
  clear_value x1
  apply rerouteQueue_keeps
  exact k3

theorem sendTrain_keeps {a0 s : State} (h0 : Keeps a0 s) (p : Nat) (intent : Nat) : Keeps a0 (sendTrain s p intent) := by
  unfold sendTrain
  apply State.modPort_keeps
  exact h0

theorem disablePort_keeps {a0 s : State} (h0 : Keeps a0 s) (p : Nat) : Keeps a0 (disablePort s p) := by
  unfold disablePort
  apply State.modPort_keeps
  exact h0

theorem enablePort_keeps {a0 s : State} (h0 : Keeps a0 s) (p : Nat) : Keeps a0 (enablePort s p) := by
  unfold enablePort
  apply State.modPort_keeps
  exact h0

/-! ## Machine/Boot.lean -/

theorem chainAdd_keeps {a0 s : State} (h0 : Keeps a0 s) (time : Nat) (kind : Nat) (aux : Nat) (digest : BitVec 512) : Keeps a0 (chainAdd s time kind aux digest) := by
  unfold chainAdd
  extract_lets x0 x1 x2
  clear_value x0
  clear_value x1
  clear_value x2
  split
  · rename_i z3 z4 z5 z6
    exact Keeps.put h0

theorem enterNoImage_keeps {a0 s : State} (h0 : Keeps a0 s) (at_ code : Nat) : Keeps a0 (enterNoImage s at_ code) := by
  refine Keeps.put' h0 (fun h => ?_) rfl rfl rfl rfl
  obtain ⟨h1, h2, h3, h4, _, h6, h7⟩ := h
  exact ⟨h1, h2, h3, h4, by simp [enterNoImage], h6, h7⟩

theorem execXspiRelease_keeps {a0 s : State} (h0 : Keeps a0 s) : OutKeeps a0 (execXspiRelease s) := by
  unfold execXspiRelease
  apply OutKeeps.next
  split
  · exact Keeps.put (s := s) h0
  · exact h0

theorem Keeps.unitsMap {s : State} {faces : List Face} {dies : List Die} (hf : faces.length = min s.faces.length 64)
    (hd : dies.length = min s.dies.length 32) : s.HasUnits → State.HasUnits { s with faces := faces, dies := dies } := by
  intro h
  obtain ⟨h1, h2, h3, h4, h5, h6, h7⟩ := h
  exact ⟨h1, by simp [hf, h2], by simp [hd, h3], h4, h5, h6, h7⟩

theorem applyDefectMap_keeps {a0 s : State} (h0 : Keeps a0 s) (time : Nat) : Keeps a0 (applyDefectMap s time) := by
  unfold applyDefectMap
  extract_lets f0 faces retired dies entries
  apply Keeps.fold
  · have hf : faces.length = min s.faces.length 64 := by simp [faces]
    have hd : dies.length = min s.dies.length 32 := by simp [dies]
    exact Keeps.put' h0 (Keeps.unitsMap hf hd)
  · intro s e h
    exact chainAdd_keeps h _ _ _ _

theorem abandonLine_keeps {a0 s : State} (h0 : Keeps a0 s) (lomium : Nat) : Keeps a0 (abandonLine s lomium) := by
  unfold abandonLine
  apply raiseError_keeps
  exact h0

theorem writeBackDirty_keeps {a0 s : State} (h0 : Keeps a0 s) : Keeps a0 (writeBackDirty s) := by
  unfold writeBackDirty
  apply Keeps.fold
  · exact h0
  · intro y0 y1 y2
    extract_lets x3
    have k4 : Keeps a0 x3.s := by
      unfold x3
      apply writeBack_keeps
      exact y2
    clear_value x3
    split
    · rename_i z5
      apply abandonLine_keeps
      exact k4
    · rename_i z6
      exact k4

theorem startCReset_keeps {a0 s : State} (h0 : Keeps a0 s) (pin : Bool) (variant : Option (BitVec 4)) : Keeps a0 (startCReset s pin variant) := by
  unfold startCReset
  split
  · rename_i z0 z1
    exact h0
  · rename_i z2 z3
    exact h0
  · rename_i z4 z5
    exact Keeps.put h0
  · rename_i z6 z7
    split
    · rename_i z8
      exact h0
    · rename_i z9
      split
      · rename_i z10 z11 z12
        exact Keeps.put h0
      · rename_i z13 z14
        extract_lets x15 x16 x17 x18 x19
        have k20 : Keeps a0 x15 := by
          unfold x15
          apply chainAdd_keeps
          exact h0
        clear_value x15
        have k21 : Keeps a0 x17 := by
          unfold x17
          exact Keeps.put k20
        clear_value x17
        have k22 : Keeps a0 x18 := by
          unfold x18
          apply endMany_keeps
          exact k21
        clear_value x18
        have k23 : Keeps a0 x19 := by
          unfold x19
          exact Keeps.put k22
        clear_value x19
        apply writeBackDirty_keeps
        exact k23

theorem abandonWriteBacks_keeps {a0 s : State} (h0 : Keeps a0 s) : Keeps a0 (abandonWriteBacks s) := by
  unfold abandonWriteBacks
  apply Keeps.fold
  · exact h0
  · intro y0 y1 y2
    apply abandonLine_keeps
    apply State.dropReq_keeps
    exact y2

theorem canonical_filter {m : Mem} (h : m.Canonical) (p : Nat × Byte → Bool) : Mem.Canonical (m.filter p) :=
  ⟨h.1.filter _, fun c hc => h.2 c (List.mem_filter.mp hc).1⟩

/-- A change of the Pantries one by one, which does not make or lose one when there are 32. -/
theorem Keeps.pantryMap {a s b : State} (h : Keeps a s) {m : Memory} {ps : List Mem} (g : Mem → Nat → Mem)
    (hp : ps = (s.memory.pantry.zip (List.range 32)).map (fun x => g x.1 x.2))
    (hg : ∀ p n, p.Canonical → (g p n).Canonical) (hm : b.memory = { m with pantry := ps })
    (h1 : m.hbm = s.memory.hbm) (h2 : m.tags = s.memory.tags) (hq : b.pending = s.pending) (hf : b.fuses = s.fuses)
    (hs : b.boot.safe = s.boot.safe)
    (hu : b.ctxs.length = s.ctxs.length ∧ b.faces.length = s.faces.length ∧ b.dies.length = s.dies.length ∧
      b.landings.length = s.landings.length ∧ b.ports.length = s.ports.length ∧ b.banks.length = s.banks.length) : Keeps a b := by
  obtain ⟨k1, k2, k3, k4, k5⟩ := h
  refine ⟨hq.trans k1, hf ▸ k2, fun x => ?_, fun x => ?_, hs ▸ k5⟩
  · obtain ⟨c1, c2, c3⟩ := k3 x
    rw [hm]
    refine ⟨h1 ▸ c1, h2 ▸ c2, fun p hpm => ?_⟩
    subst hp
    obtain ⟨⟨q, n⟩, hqm, rfl⟩ := List.mem_map.mp hpm
    exact hg _ _ (c3 _ (List.of_mem_zip hqm).1)
  · obtain ⟨u1, u2, u3, u4, u5, u6, u7⟩ := k4 x
    obtain ⟨v1, v2, v3, v4, v5, v6⟩ := hu
    refine ⟨v1.trans u1, v2.trans u2, v3.trans u3, v4.trans u4, v5.trans u5, v6.trans u6, ?_⟩
    simp [hm, hp, u7]

theorem resetPantries_keeps {a0 s : State} (h0 : Keeps a0 s) : Keeps a0 (resetPantries s) := by
  exact Keeps.pantryMap h0 (m := (resetPantries s).memory)
    (fun m d => bytesIn (residentRanges s.cfg d) m) rfl
    (fun p n h => canonical_filter h _) rfl rfl rfl rfl rfl rfl ⟨rfl, rfl, rfl, rfl, rfl, rfl⟩

theorem execComputeRstAssert_keeps {a0 s : State} (h0 : Keeps a0 s) : OutKeeps a0 (execComputeRstAssert s) := by
  unfold execComputeRstAssert
  apply OutKeeps.next
  apply startCReset_keeps
  exact h0

theorem coldStepTwo_keeps {a0 s : State} (h0 : Keeps a0 s) (hs : a0.boot.safe = false) (i : ColdInputs) : Keeps a0 (coldStepTwo s i) := by
  unfold coldStepTwo
  extract_lets identity b0 g0 t at_
  have k : Keeps a0 t := ⟨h0.queue, h0.fuses, h0.canon, h0.units, fun h => by rw [hs] at h; simp at h⟩
  exact chainAdd_keeps (chainAdd_keeps k _ _ _ _) _ _ _ _

theorem applyImage_keeps {a0 s : State} (h0 : Keeps a0 s) (isB : Bool) (im : Image) (sel : Selection) : Keeps a0 (applyImage s isB im sel) := by
  unfold applyImage
  extract_lets x0 x1 x2 x3 x4 x5 x6 x7
  clear_value x0
  clear_value x1
  clear_value x2
  clear_value x4
  have k8 : Keeps a0 x5 := by
    unfold x5
    exact Keeps.put h0
  clear_value x5
  clear_value x6
  have k9 : Keeps a0 x7 := by
    unfold x7
    apply chainAdd_keeps
    exact k8
  clear_value x7
  apply Keeps.fold
  · exact k9
  · intro y10 y11 y12
    apply chainAdd_keeps
    exact y12

theorem trainStacks_keeps {a0 s : State} (h0 : Keeps a0 s) (i : ColdInputs) (time : Nat) : Keeps a0 (trainStacks s i time) := by
  unfold trainStacks
  extract_lets s0 m0 t
  have k0 : Keeps a0 s0 := Keeps.put h0
  have k : Keeps a0 t := k0.mem (m := _) (MemKeeps.refl _).put
  clear_value t
  apply Keeps.fold k
  intro s st h
  extract_lets x
  have hx : Keeps a0 x := State.modMem_keeps h _ (fun m => modStack_keeps (.refl _) _ _)
  exact writeError_keeps hx _

theorem trainLinks_keeps {a0 s : State} (h0 : Keeps a0 s) (i : ColdInputs) (time : Nat) : Keeps a0 (trainLinks s i time) := by
  unfold trainLinks
  extract_lets x0 x1
  have k2 : Keeps a0 x0 := by
    unfold x0
    exact Keeps.put' h0 (by simp +contextual [State.HasUnits])
  clear_value x0
  clear_value x1
  exact Keeps.put k2

/-- A state that has the queue, the fuses, the memory and the units of another leaves what that one leaves, when no safe state was to be kept. -/
theorem Keeps.upper {a0 x y : State} (k : Keeps a0 x) (hs : a0.boot.safe = false) (e1 : y.pending = x.pending) (e2 : y.fuses = x.fuses)
    (e3 : y.memory = x.memory) (e4 : y.ctxs = x.ctxs) (e5 : y.faces = x.faces) (e6 : y.dies = x.dies) (e7 : y.landings = x.landings)
    (e8 : y.ports = x.ports) (e9 : y.banks = x.banks) : Keeps a0 y := by
  refine ⟨e1.trans k.queue, e2 ▸ k.fuses, e3 ▸ k.canon, ?_, fun h => by rw [hs] at h; simp at h⟩
  simpa only [State.HasUnits, e3, e4, e5, e6, e7, e8, e9] using k.units

theorem openDevice_keeps {a0 s : State} (h0 : Keeps a0 s) (hs : a0.boot.safe = false) (i : ColdInputs) (start : Nat) (latched : Option Bool) :
    Keeps a0 (openDevice s i start latched) := by
  unfold openDevice
  extract_lets opened x0 s1 b0 m0 s2 t
  have k1 : Keeps a0 s1 := (trainLinks_keeps h0 i opened).upper hs rfl rfl rfl rfl rfl rfl rfl rfl rfl
  have k2 : Keeps a0 s2 := by
    apply settleLevels_keeps
    exact (k1.mem (m := { m0 with regulators := regulatorsOf s1.cfg opened }) (MemKeeps.refl _).put).upper hs
      rfl rfl rfl rfl rfl rfl rfl rfl rfl
  have k3 : Keeps a0 t := startCReset_keeps k2 true none
  clear_value t
  split
  · exact k3.upper hs rfl rfl rfl rfl rfl rfl rfl rfl rfl
  · exact k2

theorem coldSteps_keeps {a0 s : State} (h0 : Keeps a0 s) (hs : a0.boot.safe = false) (i : ColdInputs) : Keeps a0 (coldSteps s i) := by
  unfold coldSteps
  extract_lets start latched ends differ s2 sel
  have k2 : Keeps a0 s2 := coldStepTwo_keeps h0 hs i
  clear_value s2
  split
  · exact enterNoImage_keeps k2 _ _
  · split
    · exact enterNoImage_keeps k2 _ _
    · split
      · exact enterNoImage_keeps k2 _ _
      · split
        · exact (enterNoImage_keeps k2 (start + 785000000) sel.failCode).upper hs rfl rfl rfl rfl rfl rfl rfl rfl rfl
        · extract_lets s3 s4
          have k3 : Keeps a0 s3 := applyDefectMap_keeps (applyImage_keeps k2 _ _ _) _
          clear_value s3
          have k4 : Keeps a0 s4 := trainStacks_keeps k3 _ _
          clear_value s4
          split
          · exact enterNoImage_keeps k3 _ _
          · split
            · exact enterNoImage_keeps k3 _ _
            · split
              · exact enterNoImage_keeps k3 _ _
              · split
                · exact enterNoImage_keeps k4 _ _
                · split
                  · exact enterNoImage_keeps k4 _ _
                  · split
                    · exact enterNoImage_keeps k4 _ _
                    · exact openDevice_keeps k4 hs _ _ _

theorem execExtest_keeps {a0 s : State} (h0 : Keeps a0 s) : OutKeeps a0 (execExtest s) := by
  unfold execExtest
  apply OutKeeps.next
  split
  · rename_i z0
    exact Keeps.put h0
  · rename_i z1
    exact h0

/-- POR_N leaves the queue, the fuses and the units; the safe state ends with it (R346, R412). -/
theorem porState_leaves (s : State) : (porState s).pending = s.pending ∧ (porState s).fuses = s.fuses ∧ (porState s).Sound := by
  refine ⟨rfl, rfl, ⟨?_, ?_, ?_⟩, ?_⟩
  · exact ⟨List.Pairwise.nil, fun c h => by simp [porState, State.reset, Memory.cold] at h⟩
  · exact ⟨List.Pairwise.nil, fun c h => by simp [porState, State.reset, Memory.cold] at h⟩
  · intro p hp
    have : p = [] := List.eq_of_mem_replicate hp
    subst this
    exact ⟨List.Pairwise.nil, fun c h => by simp at h⟩
  · simp [State.HasUnits, porState, State.reset, Memory.cold]

end Sys2Proof.Machine
end

