-- ==== Sys2Proof/Laws/LeftWork.lean ====
section
/-! SUPPORT. What each operation leaves (Keeps): chains, Faces, HAUL, Bench and training. -/

set_option Elab.async false
set_option linter.unusedVariables false

namespace Sys2Proof.Machine

/-! ## Machine/Chain.lean -/

theorem noteWritten_keeps {a0 s : State} (h0 : Keeps a0 s) (d : Nat) (a : Nat) (n : Nat) (unit : Nat) : Keeps a0 (noteWritten s d a n unit) := by
  unfold noteWritten
  apply State.modDie_keeps
  exact h0

theorem noteStores_keeps {a0 s : State} (h0 : Keeps a0 s) (d : Nat) (ws : List (Nat × List Byte)) : Keeps a0 (noteStores s d ws) := by
  unfold noteStores
  apply Keeps.fold
  · exact h0
  · intro y0 y1 y2
    split
    · rename_i z3 z4 z5 z6 z7 z8
      split
      · rename_i z9
        apply noteWritten_keeps
        exact y2
      · rename_i z10
        exact y2
    · rename_i z11 z12 z13
      exact y2

theorem takePins_keeps {a0 s : State} (h0 : Keeps a0 s) (r : ItemRef) (records : List Nat) : Keeps a0 (takePins s r records).1 := by
  unfold takePins
  apply Keeps.foldFst
  · exact h0
  · intro y0 y1 y2
    split
    · rename_i z3 z4 z5
      split
      · rename_i z6 z7 z8 z9 z10
        have k11 := Keeps.ofFst z10 (a := a0) (by
            apply pinFor_keeps
            exact y2)
        exact k11
      · rename_i z12 z13 z14 z15
        have k16 := Keeps.ofFst z15 (a := a0) (by
            apply pinFor_keeps
            exact y2)
        exact k16
      · rename_i z17 z18 z19 z20 z21 z22
        have k23 := Keeps.ofFst z22 (a := a0) (by
            apply pinFor_keeps
            exact y2)
        exact k23
    · rename_i z24 z25
      exact y2

theorem readRows_keeps {a0 s : State} (h0 : Keeps a0 s) (r : ItemRef) (die : Option Nat) (as_ : List (Option Nat)) (n : Nat) : Keeps a0 (readRows s r die as_ n).1 := by
  unfold readRows
  split
  · rename_i z0 z1 z2 z3 z4
    have k5 := Keeps.ofFst z4 (a := a0) (by
        apply itemReads_keeps
        exact h0)
    exact k5

theorem writeRanges_keeps {a0 s : State} (h0 : Keeps a0 s) (r : ItemRef) (die : Option Nat) (ws : List (Nat × List Byte)) (exempt : Bool) : Keeps a0 (writeRanges s r die ws exempt).1 := by
  unfold writeRanges
  apply Keeps.foldFst
  · exact h0
  · intro y0 y1 y2
    split
    · rename_i z3 z4 z5 z6
      have k7 := Keeps.ofFst z6 (a := a0) (by
          apply itemWrite_keeps
          exact y2)
      exact k7

theorem blurWrites_keeps {a0 s : State} (h0 : Keeps a0 s) (lines : List Nat) (ws : List (Nat × List Byte)) : Keeps a0 (blurWrites s lines ws).1 := by
  unfold blurWrites
  split
  · rename_i z0
    exact h0
  · rename_i z1
    apply Keeps.foldFst
    · exact h0
    · intro y2 y3 y4
      split
      · rename_i z5 z6 z7 z8
        have k9 := Keeps.ofFst z8 (a := a0) (by
            apply blur_keeps
            exact y4)
        exact k9

theorem issued_keeps {a0 s : State} (h0 : Keeps a0 s) (r : ItemRef) : Keeps a0 (issued s r) := by
  unfold issued
  apply State.modItem_keeps
  exact h0

theorem readLoad_keeps {a0 : State} {l : Loaded} (h0 : Keeps a0 l.s) (c : ChainD) (r : ItemRef) (die : Option Nat) (bases : List (Nat × Nat)) (i : Nat) : Keeps a0 (readLoad c r die bases l i).s := by
  unfold readLoad
  extract_lets x0 x1 x2 x3
  clear_value x0
  clear_value x1
  clear_value x2
  clear_value x3
  split
  · rename_i z4
    exact h0
  · rename_i z5
    split
    · rename_i z6 z7 z8 z9
      split
      · rename_i z10 z11 z12 z13 z14
        have k15 := Keeps.ofFst z14 (a := a0) (by
            apply readRows_keeps
            exact h0)
        split
        · rename_i z16 z17 z18 z19 z20
          have k21 := Keeps.ofFst z20 (a := a0) (by
              apply readRows_keeps
              exact k15)
          exact k21

theorem blurRows_keeps {a0 s : State} (h0 : Keeps a0 s) (dirty : List Nat) (as_ : List (Option Nat)) (bs : List (List Byte)) : Keeps a0 (blurRows s dirty as_ bs).1 := by
  unfold blurRows
  split
  · rename_i z0
    exact h0
  · rename_i z1
    apply Keeps.foldFst
    · exact h0
    · intro y2 y3 y4
      split
      · rename_i z5 z6 z7
        split
        · rename_i z8 z9 z10 z11
          have k12 := Keeps.ofFst z11 (a := a0) (by
              apply blur_keeps
              exact y4)
          exact k12
      · rename_i z13 z14
        exact y4

theorem Loaded.blurred_keeps {a0 : State} {l : Loaded} (h0 : Keeps a0 l.s) (dirty : List Nat) (done : List Nat) : Keeps a0 (Loaded.blurred l dirty done).s := by
  unfold Loaded.blurred
  split
  · rename_i z0 z1
    exact h0
  · rename_i z2 z3 z4
    extract_lets x5
    have k6 : Keeps a0 x5.1 := by
      unfold x5
      apply Keeps.foldFst
      · exact h0
      · intro y7 y8 y9
        split
        · rename_i z10 z11 z12 z13 z14 z15
          split
          · rename_i z16
            exact y9
          · rename_i z17
            split
            · rename_i z18 z19 z20 z21
              have k22 := Keeps.ofFst z21 (a := a0) (by
                  apply blurRows_keeps
                  exact y9)
              split
              · rename_i z23 z24 z25 z26
                have k27 := Keeps.ofFst z26 (a := a0) (by
                    apply blurRows_keeps
                    exact k22)
                exact k27
    clear_value x5
    exact k6

theorem readLoads_keeps {a0 s : State} (h0 : Keeps a0 s) (c : ChainD) (r : ItemRef) (die : Option Nat) (bases : List (Nat × Nat)) : Keeps a0 (readLoads s c r die bases).s := by
  unfold readLoads
  extract_lets x0
  have k1 : Keeps a0 x0.s := by
    unfold x0
    apply Keeps.foldOf Loaded.s
    · exact h0
    · intro y2 y3 y4
      apply readLoad_keeps
      exact y4
  clear_value x0
  apply Keeps.foldOf Loaded.s
  · apply Loaded.blurred_keeps
    exact k1
  · intro y5 y6 y7
    apply readLoad_keeps
    exact y7

theorem readOlds_keeps {a0 s : State} (h0 : Keeps a0 s) (r : ItemRef) (die : Option Nat) (c : ChainD) (t1 : Bool) (rs : List StoreRow) : Keeps a0 (readOlds s r die c t1 rs).1 := by
  unfold readOlds
  extract_lets x0 x1
  clear_value x0
  clear_value x1
  split
  · rename_i z2 z3 z4 z5 z6
    have k7 := Keeps.ofFst z6 (a := a0) (by
        apply itemReads_keeps
        exact h0)
    exact k7

theorem countTileRows_keeps {a0 s : State} (h0 : Keeps a0 s) (i : Item) (c : ChainD) : Keeps a0 (countTileRows s i c) := by
  unfold countTileRows
  extract_lets x0
  clear_value x0
  apply Keeps.fold
  · exact h0
  · intro y1 y2 y3
    split
    · rename_i z4 z5 z6
      extract_lets x7
      clear_value x7
      apply Keeps.fold
      · exact y3
      · intro y8 y9 y10
        apply Keeps.fold
        · exact y10
        · intro y11 y12 y13
          apply count_keeps
          exact y13

theorem runChain_keeps {a0 s : State} (h0 : Keeps a0 s) (i : Item) : Keeps a0 (runChain s i) := by
  unfold runChain
  extract_lets x0 x1
  clear_value x0
  clear_value x1
  split
  · rename_i z2 z3 z4 z5
    have k6 := Keeps.ofFst z5 (a := a0) (by
        apply takePins_keeps
        exact h0)
    apply failItem_keeps
    exact k6
  · rename_i z7 z8 z9
    have k10 := Keeps.ofFst z9 (a := a0) (by
        apply takePins_keeps
        exact h0)
    apply State.modItem_keeps
    exact k10
  · rename_i z11 z12 z13 z14
    have k15 := Keeps.ofFst z14 (a := a0) (by
        apply takePins_keeps
        exact h0)
    extract_lets x16 x17 x18 x19 x20 x21 x22 x23 x24
    have k25 : Keeps a0 x16 := by
      unfold x16
      apply State.modItem_keeps
      exact k15
    clear_value x16
    have k26 : Keeps a0 x17.s := by
      unfold x17
      apply readLoads_keeps
      exact k25
    clear_value x17
    clear_value x18
    clear_value x19
    have k27 : Keeps a0 x20.s := by
      unfold x20
      apply Loaded.blurred_keeps
      exact k26
    clear_value x20
    have k28 : Keeps a0 x21 := by
      unfold x21
      exact k27
    clear_value x21
    clear_value x22
    clear_value x23
    clear_value x24
    split
    · rename_i z29 z30 z31 z32
      apply failItem_keeps
      exact k26
    · rename_i z33 z34 z35 z36
      exact k26
    · rename_i z37 z38 z39 z40 z41
      split
      · rename_i z42 z43 z44 z45 z46
        have k47 := Keeps.ofFst z46 (a := a0) (by
            apply readOlds_keeps
            exact k28)
        apply failItem_keeps
        exact k47
      · rename_i z48 z49 z50
        have k51 := Keeps.ofFst z50 (a := a0) (by
            apply readOlds_keeps
            exact k28)
        exact k51
      · rename_i z52 z53 z54 z55
        have k56 := Keeps.ofFst z55 (a := a0) (by
            apply readOlds_keeps
            exact k28)
        extract_lets x57 x58
        clear_value x57
        have k59 : Keeps a0 x58 := by
          unfold x58
          apply countTileRows_keeps
          apply addFlags_keeps
          exact k56
        clear_value x58
        split
        · rename_i z60
          exact k56
        · rename_i z61
          split
          · rename_i z62 z63 z64 z65
            have k66 := Keeps.ofFst z65 (a := a0) (by
                apply blurWrites_keeps
                exact k59)
            split
            · rename_i z67 z68 z69 z70
              have k71 := Keeps.ofFst z70 (a := a0) (by
                  apply writeRanges_keeps
                  exact k66)
              apply failItem_keeps
              exact k71
            · rename_i z72 z73 z74
              have k75 := Keeps.ofFst z74 (a := a0) (by
                  apply writeRanges_keeps
                  exact k66)
              apply releaseIssued_keeps
              apply issued_keeps
              apply State.modItem_keeps
              apply noteStores_keeps
              exact k75

theorem execChain_keeps {a0 s : State} (h0 : Keeps a0 s) (c : CtxIx) (seq : Nat) : OutKeeps a0 (execChain c seq s) := by
  unfold execChain
  apply OutKeeps.next
  split
  · rename_i z0 z1 z2
    split
    · rename_i z3
      apply runChain_keeps
      exact h0
    · rename_i z4
      exact h0
  · rename_i z5 z6
    exact h0

theorem execPinRetry_keeps {a0 s : State} (h0 : Keeps a0 s) (c : CtxIx) (seq : Nat) : OutKeeps a0 (execPinRetry c seq s) := by
  unfold execPinRetry
  apply OutKeeps.next
  split
  · rename_i z0 z1 z2
    split
    · rename_i z3
      apply runChain_keeps
      apply State.upTo_keeps
      exact h0
    · rename_i z4
      exact h0
  · rename_i z5 z6
    exact h0

theorem execPinReleaseRetry_keeps {a0 s : State} (h0 : Keeps a0 s) (c : CtxIx) : OutKeeps a0 (execPinReleaseRetry c s) := by
  unfold execPinReleaseRetry
  apply OutKeeps.next
  split
  · rename_i z0
    apply retryReleases_keeps
    apply State.upTo_keeps
    exact h0
  · rename_i z1
    exact h0

/-! ## Machine/Face.lean -/

theorem State.modFace_keeps {a0 s : State} (h0 : Keeps a0 s) (f : Nat) (g : Face → Face) : Keeps a0 (State.modFace s f g) := by
  unfold State.modFace
  exact Keeps.put h0

theorem fenceFace_keeps {a0 s : State} (h0 : Keeps a0 s) (f : Nat) (col : Nat) (code : Nat) : Keeps a0 (fenceFace s f col code) := by
  unfold fenceFace
  extract_lets x0 x1 x2 x3 x4 x5 x6 x7 x8 x9
  clear_value x0
  clear_value x1
  have k10 : Keeps a0 x2 := by
    unfold x2
    apply State.modFace_keeps
    exact h0
  clear_value x2
  have k11 : Keeps a0 x3 := by
    unfold x3
    apply endMany_keeps
    exact k10
  clear_value x3
  clear_value x4
  clear_value x5
  have k12 : Keeps a0 x6 := by
    unfold x6
    apply raiseError_keeps
    exact k11
  clear_value x6
  clear_value x7
  clear_value x8
  clear_value x9
  exact Keeps.put k12

theorem mismatched_keeps {a0 s : State} (h0 : Keeps a0 s) (f : Nat) (run : Nat) (code : Nat) (cls : Nat) (m : Mismatch) (confirms : Bool) : Keeps a0 (mismatched s f run code cls m confirms) := by
  unfold mismatched
  extract_lets x0 x1 x2 x3
  have k4 : Keeps a0 x0 := by
    unfold x0
    apply State.modDie_keeps
    exact h0
  clear_value x0
  have k5 : Keeps a0 x1 := by
    unfold x1
    apply raiseError_keeps
    exact k4
  clear_value x1
  have k6 : Keeps a0 x2 := by
    unfold x2
    split
    · rename_i z7 z8 z9
      apply endItem_keeps
      exact k5
    · rename_i z10 z11
      exact k5
  clear_value x2
  have k12 : Keeps a0 x3 := by
    unfold x3
    apply State.modFace_keeps
    exact k6
  clear_value x3
  split
  · rename_i z13
    exact k12
  · rename_i z14
    split
    · rename_i z15
      apply fenceFace_keeps
      exact k12
    · rename_i z16
      apply State.modFace_keeps
      exact k12

theorem writeAcc_keeps {a0 s : State} (h0 : Keeps a0 s) (d : Nat) (a : Nat) (vs : List (BitVec 40)) : Keeps a0 (writeAcc s d a vs) := by
  unfold writeAcc
  apply State.modMem_keeps
  · exact h0
  · intro y0
    exact pantryPut_keeps (.refl _) ..

theorem storeAcc_keeps {a0 s : State} (h0 : Keeps a0 s) (r : ItemRef) (d : Nat) (a : Nat) (unit : Nat) (vs : List (BitVec 40)) : Keeps a0 (storeAcc s r d a unit vs) := by
  unfold storeAcc
  extract_lets x0
  clear_value x0
  apply State.modItem_keeps
  apply noteWritten_keeps
  apply writeAcc_keeps
  exact h0

theorem sendClosed_keeps {a0 s : State} (h0 : Keeps a0 s) (f : Nat) (p : FaceStream) (row : Nat) (unit : Nat) (vs : List (BitVec 40)) : Keeps a0 (sendClosed s f p row unit vs) := by
  unfold sendClosed
  split
  · rename_i z0 z1 z2
    extract_lets x3
    clear_value x3
    apply State.modFace_keeps
    exact h0
  · rename_i z4 z5
    exact h0

theorem enterRow_keeps {a0 s : State} (h0 : Keeps a0 s) (f : Nat) (x : InFlight) (unit : Nat) : Keeps a0 (enterRow s f x unit) := by
  unfold enterRow
  extract_lets x0 x1 x2 x3 x4 x5 x6 x7
  clear_value x0
  clear_value x1
  clear_value x2
  clear_value x3
  clear_value x4
  have k8 : Keeps a0 x5 := by
    unfold x5
    apply State.modFace_keeps
    exact h0
  clear_value x5
  have k9 : Keeps a0 x6 := by
    unfold x6
    apply noteWork_keeps
    exact k8
  clear_value x6
  clear_value x7
  split
  · rename_i z10
    exact k9
  · rename_i z11
    apply count_keeps
    exact k9

theorem cutEnded_keeps {a0 s : State} (h0 : Keeps a0 s) (f : Nat) : Keeps a0 (cutEnded s f) := by
  unfold cutEnded
  extract_lets x0
  apply State.modFace_keeps
  exact h0

theorem enterSome_keeps {a0 v2 : State} (h0 : Keeps a0 v2) (v0 : Nat) (v1 : Option Nat) (v3 : Nat) : Keeps a0 (enterSome v0 v1 v2 v3) := by
  induction v0 generalizing v1 v2 v3 with
  | zero =>
    unfold enterSome
    exact h0
  | succ n ih =>
    unfold enterSome
    split
    · rename_i z0 z1 z2 z3
      split
      · rename_i z4
        apply ih
        apply enterRow_keeps
        exact h0
      · rename_i z5
        exact h0
    · rename_i z6 z7
      exact h0

theorem enterRows_keeps {a0 s : State} (h0 : Keeps a0 s) (h : Option Nat) (f : Nat) : Keeps a0 (enterRows h s f) := by
  unfold enterRows
  extract_lets x0
  have k1 : Keeps a0 x0 := by
    unfold x0
    apply cutEnded_keeps
    exact h0
  clear_value x0
  split
  · rename_i z2 z3 z4 z5 z6
    apply enterSome_keeps
    exact k1
  · rename_i z7 z8 z9
    exact k1

theorem enterDie_keeps {a0 s : State} (h0 : Keeps a0 s) (f : Nat) : Keeps a0 (enterDie s f) := by
  unfold enterDie
  extract_lets x0 x1
  clear_value x0
  dsimp only [x1]
  apply enterRows_keeps
  apply enterRows_keeps
  apply enterRows_keeps
  exact h0

theorem toBoundary_keeps {a0 s : State} (h0 : Keeps a0 s) (f : Nat) : Keeps a0 (toBoundary s f) := by
  unfold toBoundary
  extract_lets x0 x1 x2
  clear_value x0
  have k3 : Keeps a0 x1 := by
    unfold x1
    apply enterRows_keeps
    apply enterDie_keeps
    exact h0
  clear_value x1
  have k4 : Keeps a0 x2 := by
    unfold x2
    apply State.upTo_keeps
    exact k3
  clear_value x2
  apply enterRows_keeps
  apply enterRows_keeps
  exact k4

theorem atBoundary_keeps {a0 s : State} (h0 : Keeps a0 s) (f : Nat) (v0 : FaceOp) : Keeps a0 (atBoundary s f v0) := by
  unfold atBoundary
  split
  · rename_i z0 z1
    exact h0
  · rename_i z2 z3
    apply toBoundary_keeps
    exact h0

theorem nextStamp_keeps {a0 s : State} (h0 : Keeps a0 s) (f : Nat) : Keeps a0 (nextStamp s f).1 := by
  unfold nextStamp
  dsimp only
  apply State.modDie_keeps
  exact h0

theorem beginLoad_keeps {a0 s : State} (h0 : Keeps a0 s) (f : Nat) (p : FaceLoad) : Keeps a0 (beginLoad s f p) := by
  unfold beginLoad
  extract_lets x0
  clear_value x0
  split
  · rename_i z1 z2 z3 z4
    have k5 := Keeps.ofFst z4 (a := a0) (by
        apply nextStamp_keeps
        exact h0)
    apply State.modFace_keeps
    exact k5

theorem beginStream_keeps {a0 s : State} (h0 : Keeps a0 s) (f : Nat) (p : FaceStream) : Keeps a0 (beginStream s f p) := by
  unfold beginStream
  extract_lets x0
  have k1 : Keeps a0 x0 := by
    unfold x0
    apply toBoundary_keeps
    exact h0
  clear_value x0
  split
  · rename_i z2 z3
    exact k1
  · rename_i z4 z5 z6
    extract_lets x7
    clear_value x7
    split
    · rename_i z8 z9 z10 z11
      have k12 := Keeps.ofFst z11 (a := a0) (by
          apply nextStamp_keeps
          exact k1)
      apply enterDie_keeps
      apply State.modFace_keeps
      exact k12

theorem beginOp_keeps {a0 s : State} (h0 : Keeps a0 s) (f : Nat) (v0 : FaceOp) : Keeps a0 (beginOp s f v0) := by
  unfold beginOp
  split
  · rename_i z0 z1
    apply beginLoad_keeps
    exact h0
  · rename_i z2 z3
    apply beginStream_keeps
    exact h0

theorem beginPending_keeps {a0 s : State} (h0 : Keeps a0 s) (f : Nat) : Keeps a0 (beginPending s f) := by
  unfold beginPending
  split
  · rename_i z0 z1
    exact h0
  · rename_i z2 z3 z4
    extract_lets x5
    split
    · rename_i z6 z7 z8
      split
      · rename_i z9
        dsimp only [x5]
        apply State.modFace_keeps
        exact h0
      · rename_i z10
        split
        · rename_i z11
          apply beginOp_keeps
          dsimp only [x5]
          apply State.modFace_keeps
          exact h0
        · rename_i z12
          exact h0
    · rename_i z13 z14
      dsimp only [x5]
      apply State.modFace_keeps
      exact h0

theorem wakeFace_keeps {a0 s : State} (h0 : Keeps a0 s) (f : Nat) : Keeps a0 (wakeFace s f) := by
  unfold wakeFace
  extract_lets x0
  have k1 : Keeps a0 x0 := by
    unfold x0
    apply cutEnded_keeps
    exact h0
  clear_value x0
  split
  · rename_i z2 z3 z4 z5 z6
    extract_lets x7
    have k8 : Keeps a0 x7 := by
      unfold x7
      apply State.upTo_keeps
      exact k1
    clear_value x7
    apply State.modFace_keeps
    exact k8
  · rename_i z9 z10 z11 z12 z13
    apply State.modFace_keeps
    exact k1
  · rename_i z14 z15 z16 z17
    exact k1

theorem execFaceOperationIssue_keeps {a0 s : State} (h0 : Keeps a0 s) (f : FaceIx) (r0 : Option FaceOp) (r1 : Option FaceOp) : OutKeeps a0 (execFaceOperationIssue f r0 r1 s) := by
  unfold execFaceOperationIssue
  apply OutKeeps.next
  split
  · rename_i z0
    extract_lets x1 x2
    have k3 : Keeps a0 x1 := by
      unfold x1
      apply wakeFace_keeps
      apply enterDie_keeps
      exact h0
    clear_value x1
    have k4 : Keeps a0 x2 := by
      unfold x2
      split
      · rename_i z5
        apply beginPending_keeps
        exact k3
      · rename_i z6
        exact k3
    clear_value x2
    split
    · rename_i z7 z8
      exact k4
    · rename_i z9 z10 z11 z12
      extract_lets x13
      have k14 : Keeps a0 x13 := by
        unfold x13
        apply State.modFace_keeps
        exact k4
      clear_value x13
      split
      · rename_i z15 z16
        apply beginOp_keeps
        exact k14
      · rename_i z17 z18
        apply beginOp_keeps
        exact k14
      · rename_i z19 z20
        apply State.modFace_keeps
        exact k14
      · rename_i z21 z22
        apply State.modFace_keeps
        exact k14
      · rename_i z23 z24
        apply State.modFace_keeps
        exact k14
  · rename_i z25
    exact h0

theorem facePoison_keeps {a0 s : State} (h0 : Keeps a0 s) (r : ItemRef) (d : Nat) (ranges : List (Nat × Nat)) : Keeps a0 (facePoison s r d ranges).1 := by
  unfold facePoison
  apply Keeps.foldFst
  · exact h0
  · intro y0 y1 y2
    split
    · rename_i z3 z4
      apply pantryMeets_keeps
      exact y2
    · rename_i z5 z6 z7
      exact y2

theorem execLoadComplete_keeps {a0 s : State} (h0 : Keeps a0 s) (f : FaceIx) : OutKeeps a0 (execLoadComplete f s) := by
  unfold execLoadComplete
  apply OutKeeps.next
  split
  · rename_i z0 z1 z2
    extract_lets x3 x4 x5 x6 x7
    clear_value x3
    clear_value x4
    have k8 : Keeps a0 x5 := by
      unfold x5
      apply State.upTo_keeps
      exact h0
    clear_value x5
    have k9 : Keeps a0 x6 := by
      unfold x6
      apply State.modFace_keeps
      exact k8
    clear_value x6
    have k10 : Keeps a0 x7 := by
      unfold x7
      apply Keeps.fold
      · exact k9
      · intro y11 y12 y13
        apply countPantry_keeps
        exact y13
    clear_value x7
    split
    · rename_i z14
      split
      · rename_i z15 z16 z17 z18
        have k19 := Keeps.ofFst z18 (a := a0) (by
            apply facePoison_keeps
            exact k10)
        apply failItem_keeps
        exact k19
      · rename_i z20 z21 z22
        have k23 := Keeps.ofFst z22 (a := a0) (by
            apply facePoison_keeps
            exact k10)
        exact k23
    · rename_i z24
      exact h0
  · rename_i z25 z26
    exact h0

theorem takeSample_keeps {a0 s : State} (h0 : Keeps a0 s) (f : Nat) (run : Nat) (x : Sample) : Keeps a0 (takeSample s f run x) := by
  unfold takeSample
  extract_lets x0 x1
  clear_value x0
  clear_value x1
  split
  · rename_i z2
    apply State.modItem_keeps
    apply State.modFace_keeps
    exact h0
  · rename_i z3
    exact h0

theorem rowEvents_keeps {a0 s : State} (h0 : Keeps a0 s) (f : Nat) (x : InFlight) (enteredAt : Nat) (row : Nat) (compared : Bool) : Keeps a0 (rowEvents s f x enteredAt row compared) := by
  unfold rowEvents
  extract_lets x0 x1 x2 x3 x4 x5 x6 x7 x8 x9
  clear_value x1
  clear_value x2
  have k10 : Keeps a0 x3 := by
    unfold x3
    apply count_keeps
    exact h0
  clear_value x3
  clear_value x4
  have k11 : Keeps a0 x5 := by
    unfold x5
    apply count_keeps
    exact k10
  clear_value x5
  have k12 : Keeps a0 x6 := by
    unfold x6
    apply countPantry_keeps
    exact k11
  clear_value x6
  clear_value x7
  have k13 : Keeps a0 x8 := by
    unfold x8
    split
    · rename_i z14
      exact k12
    · rename_i z15
      apply countPantry_keeps
      exact k12
  clear_value x8
  have k16 : Keeps a0 x9 := by
    unfold x9
    split
    · rename_i z17
      apply countPantry_keeps
      exact k13
    · rename_i z18
      exact k13
  clear_value x9
  split
  · rename_i z19
    apply count_keeps
    exact k16
  · rename_i z20
    exact k16

theorem sendRow_keeps {a0 s : State} (h0 : Keeps a0 s) (f : Nat) (x : InFlight) (unit : Nat) (r : RowOut) : Keeps a0 (sendRow s f x unit r) := by
  unfold sendRow
  split
  · rename_i z0 z1
    exact h0
  · rename_i z2 z3 z4
    split
    · rename_i z5
      exact h0
    · rename_i z6
      extract_lets x7
      have k8 : Keeps a0 x7 := by
        unfold x7
        apply addFlags_keeps
        exact h0
      clear_value x7
      split
      · rename_i z9
        apply storeAcc_keeps
        exact k8
      · rename_i z10
        apply sendClosed_keeps
        exact k8

theorem emergeRow_keeps {a0 s : State} (h0 : Keeps a0 s) (f : Nat) (x : InFlight) (e : RowEntry) (bad : NarrowFaults) : Keeps a0 (emergeRow s f x e bad) := by
  unfold emergeRow
  extract_lets x0 x1 x2 x3 x4 x5 x6 x7 x8 x9 x10 x11
  clear_value x0
  clear_value x1
  clear_value x2
  clear_value x3
  have k12 : Keeps a0 x4 := by
    unfold x4
    apply noteWork_keeps
    apply State.modFace_keeps
    exact h0
  clear_value x4
  clear_value x5
  clear_value x6
  clear_value x7
  clear_value x8
  clear_value x9
  clear_value x10
  clear_value x11
  split
  · rename_i z13 z14 z15 z16
    have k17 := Keeps.ofFst z16 (a := a0) (by
        split
        · rename_i z18
          exact k12
        · rename_i z19
          apply facePoison_keeps
          exact k12)
    apply failItem_keeps
    exact k17
  · rename_i z20 z21 z22
    have k23 := Keeps.ofFst z22 (a := a0) (by
        split
        · rename_i z24
          exact k12
        · rename_i z25
          apply facePoison_keeps
          exact k12)
    extract_lets x26 x27 x28 x29 x30 x31 x32 x33 x34 x35
    clear_value x26
    clear_value x27
    clear_value x28
    clear_value x29
    clear_value x30
    clear_value x31
    clear_value x32
    have k36 : Keeps a0 x33 := by
      unfold x33
      apply rowEvents_keeps
      exact k23
    clear_value x33
    clear_value x34
    have k37 : Keeps a0 x35 := by
      unfold x35
      apply takeSample_keeps
      exact k36
    clear_value x35
    split
    · rename_i z38 z39 z40
      apply mismatched_keeps
      exact k36
    · rename_i z41 z42
      apply sendRow_keeps
      exact k37

theorem emerge_keeps {a0 s : State} (h0 : Keeps a0 s) (f : Nat) (bad : NarrowFaults) : Keeps a0 (emerge s f bad) := by
  unfold emerge
  extract_lets x0 x1
  have k2 : Keeps a0 x0 := by
    unfold x0
    apply enterDie_keeps
    exact h0
  clear_value x0
  have k3 : Keeps a0 x1 := by
    unfold x1
    split
    · rename_i z4 z5 z6
      split
      · rename_i z7
        apply enterSome_keeps
        exact k2
      · rename_i z8
        exact k2
    · rename_i z9 z10
      exact k2
  clear_value x1
  split
  · rename_i z11 z12 z13 z14
    split
    · rename_i z15 z16 z17 z18
      split
      · rename_i z19
        exact k3
      · rename_i z20
        extract_lets x21
        have k22 : Keeps a0 x21 := by
          unfold x21
          apply enterDie_keeps
          apply State.upTo_keeps
          exact k3
        clear_value x21
        apply emergeRow_keeps
        exact k22
    · rename_i z23 z24
      exact k3
  · rename_i z25 z26
    exact k3

theorem execRowEmerge_keeps {a0 s : State} (h0 : Keeps a0 s) (f : FaceIx) (bad : NarrowFaults) : OutKeeps a0 (execRowEmerge f bad s) := by
  unfold execRowEmerge
  apply OutKeeps.next
  split
  · rename_i z0
    apply emerge_keeps
    apply wakeFace_keeps
    exact h0
  · rename_i z1
    exact h0

theorem advanceCheck_keeps {a0 s : State} (h0 : Keeps a0 s) (f : Nat) (run : Nat) : Keeps a0 (advanceCheck s f run) := by
  unfold advanceCheck
  extract_lets x0 x1 x2
  clear_value x0
  clear_value x1
  clear_value x2
  apply State.modFace_keeps
  exact h0

theorem execConfirmWindowExpiry_keeps {a0 s : State} (h0 : Keeps a0 s) (f : FaceIx) : OutKeeps a0 (execConfirmWindowExpiry f s) := by
  unfold execConfirmWindowExpiry
  apply OutKeeps.next
  extract_lets x0 x1
  clear_value x0
  clear_value x1
  split
  · rename_i z2
    apply advanceCheck_keeps
    apply State.modFace_keeps
    apply State.upTo_keeps
    exact h0
  · rename_i z3
    exact h0

theorem execCheckAdvance_keeps {a0 s : State} (h0 : Keeps a0 s) (f : FaceIx) : OutKeeps a0 (execCheckAdvance f s) := by
  unfold execCheckAdvance
  apply OutKeeps.next
  extract_lets x0 x1
  clear_value x0
  clear_value x1
  split
  · rename_i z2
    apply advanceCheck_keeps
    apply State.upTo_keeps
    exact h0
  · rename_i z3
    exact h0

theorem execReplayComplete_keeps {a0 s : State} (h0 : Keeps a0 s) (f : FaceIx) : OutKeeps a0 (execReplayComplete f s) := by
  unfold execReplayComplete
  apply OutKeeps.next
  split
  · rename_i z0 z1 z2 z3
    extract_lets x4 x5 x6 x7 x8 x9
    clear_value x4
    have k10 : Keeps a0 x5 := by
      unfold x5
      split
      · rename_i z11
        apply State.upTo_keeps
        exact h0
      · rename_i z12
        exact h0
    clear_value x5
    clear_value x6
    have k13 : Keeps a0 x7 := by
      unfold x7
      apply State.modFace_keeps
      exact k10
    clear_value x7
    have k14 : Keeps a0 x8 := by
      unfold x8
      apply State.modItem_keeps
      exact k13
    clear_value x8
    have k15 : Keeps a0 x9 := by
      unfold x9
      split
      · rename_i z16
        apply State.modDie_keeps
        exact k14
      · rename_i z17
        exact k14
    clear_value x9
    split
    · rename_i z18
      split
      · rename_i z19 z20 z21
        apply mismatched_keeps
        exact k15
      · rename_i z22 z23
        apply State.modFace_keeps
        exact k15
    · rename_i z24
      exact h0
  · rename_i z25 z26
    exact h0

theorem execRampDownBegin_keeps {a0 s : State} (h0 : Keeps a0 s) (f : FaceIx) : OutKeeps a0 (execRampDownBegin f s) := by
  unfold execRampDownBegin
  apply OutKeeps.next
  extract_lets x0 x1 x2
  clear_value x1
  have k3 : Keeps a0 x2 := by
    unfold x2
    apply enterDie_keeps
    apply State.upTo_keeps
    exact h0
  clear_value x2
  split
  · rename_i z4
    split
    · rename_i z5
      apply State.modFace_keeps
      exact k3
    · rename_i z6
      exact k3
  · rename_i z7
    exact h0

theorem execRampColumnStep_keeps {a0 s : State} (h0 : Keeps a0 s) (f : FaceIx) : OutKeeps a0 (execRampColumnStep f s) := by
  unfold execRampColumnStep
  apply OutKeeps.next
  extract_lets x0
  clear_value x0
  split
  · rename_i z1
    apply State.modFace_keeps
    apply State.upTo_keeps
    exact h0
  · rename_i z2
    split
    · rename_i z3
      apply State.modFace_keeps
      apply State.upTo_keeps
      exact h0
    · rename_i z4
      exact h0

theorem execRampDownComplete_keeps {a0 s : State} (h0 : Keeps a0 s) (f : FaceIx) : OutKeeps a0 (execRampDownComplete f s) := by
  unfold execRampDownComplete
  apply OutKeeps.next
  extract_lets x0 x1
  clear_value x0
  have k2 : Keeps a0 x1 := by
    unfold x1
    apply State.upTo_keeps
    exact h0
  clear_value x1
  split
  · rename_i z3
    apply State.modFace_keeps
    exact k2
  · rename_i z4
    exact h0

theorem execRampUpComplete_keeps {a0 s : State} (h0 : Keeps a0 s) (f : FaceIx) : OutKeeps a0 (execRampUpComplete f s) := by
  unfold execRampUpComplete
  apply OutKeeps.next
  extract_lets x0 x1
  clear_value x0
  have k2 : Keeps a0 x1 := by
    unfold x1
    apply State.upTo_keeps
    exact h0
  clear_value x1
  split
  · rename_i z3
    apply beginPending_keeps
    apply enterDie_keeps
    apply State.modFace_keeps
    exact k2
  · rename_i z4
    exact h0

/-! ## Machine/Haul.lean -/

theorem getRanges_keeps {a0 s : State} (h0 : Keeps a0 s) (r : ItemRef) (die : Option Nat) (rs : List (Nat × Nat)) : Keeps a0 (getRanges s r die rs).st := by
  unfold getRanges
  split
  · rename_i z0 z1 z2 z3 z4
    have k5 := Keeps.ofFst z4 (a := a0) (by
        apply itemReads_keeps
        exact h0)
    dsimp only [Got.st]
    exact k5
  · rename_i z6 z7 z8
    have k9 := Keeps.ofFst z8 (a := a0) (by
        apply itemReads_keeps
        exact h0)
    dsimp only [Got.st]
    exact k9
  · rename_i z10 z11 z12 z13
    have k14 := Keeps.ofFst z13 (a := a0) (by
        apply itemReads_keeps
        exact h0)
    dsimp only [Got.st]
    exact k14

theorem putRanges_keeps {a0 s : State} (h0 : Keeps a0 s) (r : ItemRef) (die : Option Nat) (reads : List (Nat × Nat)) (ws : List (Nat × List Byte)) (exempt : Bool) : Keeps a0 (putRanges s r die reads ws exempt) := by
  unfold putRanges
  split
  · rename_i z0 z1 z2 z3
    have k4 := Keeps.ofFst z3 (a := a0) (by
        apply blurWrites_keeps
        exact h0)
    split
    · rename_i z5 z6 z7 z8
      have k9 := Keeps.ofFst z8 (a := a0) (by
          apply writeRanges_keeps
          exact k4)
      apply failItem_keeps
      exact k9
    · rename_i z10 z11 z12
      have k13 := Keeps.ofFst z12 (a := a0) (by
          apply writeRanges_keeps
          exact k4)
      apply issued_keeps
      exact k13

theorem blurReads_keeps {a0 s : State} (h0 : Keeps a0 s) (reads : List (Nat × Nat)) (writes : List (Nat × Nat)) (bss : List (List Byte)) : Keeps a0 (blurReads s reads writes bss).1 := by
  unfold blurReads
  extract_lets x0
  clear_value x0
  split
  · rename_i z1
    exact h0
  · rename_i z2
    apply Keeps.foldFst
    · exact h0
    · intro y3 y4 y5
      split
      · rename_i z6 z7 z8 z9
        have k10 := Keeps.ofFst z9 (a := a0) (by
            apply blur_keeps
            exact y5)
        exact k10

theorem moveRows_keeps {a0 s : State} (h0 : Keeps a0 s) (i : Item) (reads : List (Nat × Nat)) (dests : List (Nat × Nat)) (f : List (List Byte) → List (Nat × List Byte)) : Keeps a0 (moveRows s i reads dests f) := by
  unfold moveRows
  split
  · rename_i z0 z1 z2 z3
    have k4 : Keeps a0 z1 := Keeps.ofGot z3 (by
        apply getRanges_keeps
        exact h0)
    apply failItem_keeps
    exact k4
  · rename_i z5 z6 z7
    have k8 : Keeps a0 z6 := Keeps.ofGot z7 (by
        apply getRanges_keeps
        exact h0)
    exact k8
  · rename_i z9 z10 z11 z12
    have k13 : Keeps a0 z10 := Keeps.ofGot z12 (by
        apply getRanges_keeps
        exact h0)
    split
    · rename_i z14 z15 z16 z17
      have k18 := Keeps.ofFst z17 (a := a0) (by
          apply blurReads_keeps
          exact k13)
      apply putRanges_keeps
      exact k18

theorem runCopy_keeps {a0 s : State} (h0 : Keeps a0 s) (i : Item) (d : HaulD) : Keeps a0 (runCopy s i d) := by
  unfold runCopy
  apply moveRows_keeps
  exact h0

theorem execCopy_keeps {a0 s : State} (h0 : Keeps a0 s) (c : CtxIx) (seq : Nat) : OutKeeps a0 (execCopy c seq s) := by
  unfold execCopy
  apply OutKeeps.next
  split
  · rename_i z0 z1 z2 z3
    apply runCopy_keeps
    exact h0
  · rename_i z4 z5
    exact h0

theorem runFill_keeps {a0 s : State} (h0 : Keeps a0 s) (i : Item) (d : HaulD) : Keeps a0 (runFill s i d) := by
  unfold runFill
  extract_lets x0 x1
  clear_value x0
  clear_value x1
  apply moveRows_keeps
  exact h0

theorem execFill_keeps {a0 s : State} (h0 : Keeps a0 s) (c : CtxIx) (seq : Nat) : OutKeeps a0 (execFill c seq s) := by
  unfold execFill
  apply OutKeeps.next
  split
  · rename_i z0 z1 z2 z3
    apply runFill_keeps
    exact h0
  · rename_i z4 z5
    exact h0

theorem runTranspose_keeps {a0 s : State} (h0 : Keeps a0 s) (i : Item) (d : HaulD) : Keeps a0 (runTranspose s i d) := by
  unfold runTranspose
  extract_lets x0 x1 x2 x3 x4
  clear_value x0
  clear_value x1
  clear_value x2
  clear_value x3
  clear_value x4
  apply moveRows_keeps
  exact h0

theorem execTranspose_keeps {a0 s : State} (h0 : Keeps a0 s) (c : CtxIx) (seq : Nat) : OutKeeps a0 (execTranspose c seq s) := by
  unfold execTranspose
  apply OutKeeps.next
  split
  · rename_i z0 z1 z2 z3
    apply runTranspose_keeps
    exact h0
  · rename_i z4 z5
    exact h0

theorem runGather_keeps {a0 s : State} (h0 : Keeps a0 s) (i : Item) (d : HaulD) : Keeps a0 (runGather s i d) := by
  unfold runGather
  split
  · rename_i z0 z1 z2 z3
    have k4 : Keeps a0 z1 := Keeps.ofGot z3 (by
        apply getRanges_keeps
        exact h0)
    apply failItem_keeps
    exact k4
  · rename_i z5 z6 z7
    have k8 : Keeps a0 z6 := Keeps.ofGot z7 (by
        apply getRanges_keeps
        exact h0)
    exact k8
  · rename_i z9 z10 z11 z12
    have k13 : Keeps a0 z10 := Keeps.ofGot z12 (by
        apply getRanges_keeps
        exact h0)
    split
    · rename_i z14 z15 z16 z17
      have k18 := Keeps.ofFst z17 (a := a0) (by
          apply blurReads_keeps
          exact k13)
      extract_lets x19 x20
      clear_value x19
      clear_value x20
      split
      · rename_i z21 z22 z23 z24 z25
        have k26 := Keeps.ofFst z25 (a := a0) (by
            apply readRows_keeps
            exact k18)
        apply failItem_keeps
        exact k26
      · rename_i z27 z28 z29
        have k30 := Keeps.ofFst z29 (a := a0) (by
            apply readRows_keeps
            exact k18)
        exact k30
      · rename_i z31 z32 z33 z34
        have k35 := Keeps.ofFst z34 (a := a0) (by
            apply readRows_keeps
            exact k18)
        split
        · rename_i z36 z37 z38 z39
          have k40 := Keeps.ofFst z39 (a := a0) (by
              apply blurReads_keeps
              exact k35)
          apply putRanges_keeps
          exact k40

theorem execGather_keeps {a0 s : State} (h0 : Keeps a0 s) (c : CtxIx) (seq : Nat) : OutKeeps a0 (execGather c seq s) := by
  unfold execGather
  apply OutKeeps.next
  split
  · rename_i z0 z1 z2 z3
    apply runGather_keeps
    exact h0
  · rename_i z4 z5
    exact h0

theorem runScatter_keeps {a0 s : State} (h0 : Keeps a0 s) (i : Item) (d : HaulD) : Keeps a0 (runScatter s i d) := by
  unfold runScatter
  extract_lets x0
  clear_value x0
  split
  · rename_i z1 z2 z3 z4
    have k5 : Keeps a0 z2 := Keeps.ofGot z4 (by
        apply getRanges_keeps
        exact h0)
    apply failItem_keeps
    exact k5
  · rename_i z6 z7 z8
    have k9 : Keeps a0 z7 := Keeps.ofGot z8 (by
        apply getRanges_keeps
        exact h0)
    exact k9
  · rename_i z10 z11 z12 z13
    have k14 : Keeps a0 z11 := Keeps.ofGot z13 (by
        apply getRanges_keeps
        exact h0)
    extract_lets x15
    split
    · rename_i z16 z17 z18 z19
      have k20 := Keeps.ofFst z19 (a := a0) (by
          apply blurReads_keeps
          exact k14)
      extract_lets x21
      clear_value x21
      apply putRanges_keeps
      exact k20

theorem execScatter_keeps {a0 s : State} (h0 : Keeps a0 s) (c : CtxIx) (seq : Nat) : OutKeeps a0 (execScatter c seq s) := by
  unfold execScatter
  apply OutKeeps.next
  split
  · rename_i z0 z1 z2 z3
    apply runScatter_keeps
    exact h0
  · rename_i z4 z5
    exact h0

theorem scrambleShared_keeps {a0 s : State} (h0 : Keeps a0 s) (r : ItemRef) (lines : List Nat) : Keeps a0 (scrambleShared s r lines) := by
  unfold scrambleShared
  apply Keeps.fold
  · exact h0
  · intro y0 y1 y2
    apply scrambleAt_keeps
    exact y2

theorem runAtomic_keeps {a0 s : State} (h0 : Keeps a0 s) (i : Item) (d : HaulD) : Keeps a0 (runAtomic s i d) := by
  unfold runAtomic
  extract_lets x0 x1 x2
  clear_value x0
  clear_value x1
  clear_value x2
  split
  · rename_i z3 z4 z5 z6 z7 z8
    extract_lets x9
    clear_value x9
    split
    · rename_i z10 z11 z12 z13
      have k14 : Keeps a0 z11 := Keeps.ofGot z13 (by
          apply getRanges_keeps
          exact h0)
      apply failItem_keeps
      exact k14
    · rename_i z15 z16 z17
      have k18 : Keeps a0 z16 := Keeps.ofGot z17 (by
          apply getRanges_keeps
          exact h0)
      exact k18
    · rename_i z19 z20 z21 z22
      have k23 : Keeps a0 z20 := Keeps.ofGot z22 (by
          apply getRanges_keeps
          exact h0)
      split
      · rename_i z24 z25 z26 z27
        have k28 := Keeps.ofFst z27 (a := a0) (by
            apply blurReads_keeps
            exact k23)
        extract_lets x29 x30
        have k31 : Keeps a0 x29 := by
          unfold x29
          apply State.modItem_keeps
          exact k28
        clear_value x29
        clear_value x30
        split
        · rename_i z32 z33 z34 z35
          have k36 := Keeps.ofFst z35 (a := a0) (by
              apply Keeps.foldFst
              · exact k31
              · intro y37 y38 y39
                split
                · rename_i z40 z41 z42
                  split
                  · rename_i z43 z44 z45
                    exact y39
                  · rename_i z46 z47
                    apply itemAtomic_keeps
                    exact y39)
          split
          · rename_i z48 z49
            have k50 := Keeps.ofFst z35 (a := a0) (by
                apply Keeps.foldFst
                · exact k31
                · intro y51 y52 y53
                  split
                  · rename_i z54 z55 z56
                    split
                    · rename_i z57 z58 z59
                      exact y53
                    · rename_i z60 z61
                      apply itemAtomic_keeps
                      exact y53)
            apply failItem_keeps
            exact k36
          · rename_i z62
            have k63 := Keeps.ofFst z35 (a := a0) (by
                apply Keeps.foldFst
                · exact k31
                · intro y64 y65 y66
                  split
                  · rename_i z67 z68 z69
                    split
                    · rename_i z70 z71 z72
                      exact y66
                    · rename_i z73 z74
                      apply itemAtomic_keeps
                      exact y66)
            apply issued_keeps
            apply scrambleShared_keeps
            exact k36

theorem execAtomic_keeps {a0 s : State} (h0 : Keeps a0 s) (c : CtxIx) (seq : Nat) : OutKeeps a0 (execAtomic c seq s) := by
  unfold execAtomic
  apply OutKeeps.next
  split
  · rename_i z0 z1 z2 z3
    apply runAtomic_keeps
    exact h0
  · rename_i z4 z5
    exact h0

theorem modEngines_keeps {a0 s : State} (h0 : Keeps a0 s) (l : Nat) (tipple : Bool) (f : List Engine → List Engine) : Keeps a0 (modEngines s l tipple f) := by
  unfold modEngines
  exact Keeps.put h0

theorem modQueue_keeps {a0 s : State} (h0 : Keeps a0 s) (l : Nat) (tipple : Bool) (f : List (Nat × Piece) → List (Nat × Piece)) : Keeps a0 (modQueue s l tipple f) := by
  unfold modQueue
  exact Keeps.put h0

theorem execLoadPieceDispatch_keeps {a0 s : State} (h0 : Keeps a0 s) (l : LandIx) (k : EngineKind) (arrival : Option Piece) : OutKeeps a0 (execLoadPieceDispatch l k arrival s) := by
  unfold execLoadPieceDispatch
  apply OutKeeps.next
  split
  · rename_i z0
    extract_lets x1 x2 x3
    clear_value x1
    have k4 : Keeps a0 x2 := by
      unfold x2
      split
      · rename_i z5 z6
        split
        · rename_i z7
          apply modQueue_keeps
          exact h0
        · rename_i z8
          exact h0
      · rename_i z9
        exact h0
    clear_value x2
    have k10 : Keeps a0 x3 := by
      unfold x3
      apply modQueue_keeps
      exact k4
    clear_value x3
    split
    · rename_i z11 z12
      exact k10
    · rename_i z13 z14 z15 z16 z17
      split
      · rename_i z18 z19
        exact k10
      · rename_i z20 z21 z22
        apply modEngines_keeps
        apply modQueue_keeps
        exact k10
  · rename_i z23
    exact h0

theorem freeEngine_keeps {a0 s : State} (h0 : Keeps a0 s) (l : Nat) (tipple : Bool) (e : Nat) : Keeps a0 (freeEngine s l tipple e) := by
  unfold freeEngine
  apply modEngines_keeps
  exact h0

theorem movePiece_keeps {a0 s : State} (h0 : Keeps a0 s) (l : Nat) (tipple : Bool) (e : Nat) (p : Piece) : Keeps a0 (movePiece s l tipple e p) := by
  unfold movePiece
  split
  · rename_i z0
    split
    · rename_i z1
      exact h0
    · rename_i z2
      split
      · rename_i z3 z4 z5 z6
        have k7 : Keeps a0 z4 := Keeps.ofGot z6 (by
            apply getRanges_keeps
            exact h0)
        apply freeEngine_keeps
        apply failItem_keeps
        exact k7
      · rename_i z8 z9 z10
        have k11 : Keeps a0 z9 := Keeps.ofGot z10 (by
            apply getRanges_keeps
            exact h0)
        exact k11
      · rename_i z12 z13 z14 z15
        have k16 : Keeps a0 z13 := Keeps.ofGot z15 (by
            apply getRanges_keeps
            exact h0)
        extract_lets x17 x18 x19 x20 x21 x22 x23 x24
        clear_value x17
        clear_value x18
        have k25 : Keeps a0 x19 := by
          unfold x19
          apply State.modMem_keeps
          · exact k16
          · intro y26
            exact MemKeeps.fold (.refl _) (fun _ _ h => pantryPut_keeps h ..)
        clear_value x19
        clear_value x20
        have k27 : Keeps a0 x21 := by
          unfold x21
          apply State.modItem_keeps
          exact k25
        clear_value x21
        clear_value x22
        clear_value x23
        have k28 : Keeps a0 x24 := by
          unfold x24
          apply Keeps.fold
          · exact k27
          · intro y29 y30 y31
            split
            · rename_i z32 z33 z34
              apply countPantry_keeps
              exact y31
        clear_value x24
        apply freeEngine_keeps
        apply count_keeps
        exact k28
  · rename_i z35
    split
    · rename_i z36
      exact h0
    · rename_i z37
      split
      · rename_i z38 z39 z40 z41
        have k42 : Keeps a0 z39 := Keeps.ofGot z41 (by
            apply getRanges_keeps
            exact h0)
        apply freeEngine_keeps
        apply failItem_keeps
        exact k42
      · rename_i z43 z44 z45
        have k46 : Keeps a0 z44 := Keeps.ofGot z45 (by
            apply getRanges_keeps
            exact h0)
        exact k46
      · rename_i z47 z48 z49 z50
        have k51 : Keeps a0 z48 := Keeps.ofGot z50 (by
            apply getRanges_keeps
            exact h0)
        extract_lets x52 x53 x54 x55 x56 x57 x58 x59
        clear_value x52
        clear_value x53
        have k60 : Keeps a0 x54 := by
          unfold x54
          apply State.modMem_keeps
          · exact k51
          · intro y61
            exact MemKeeps.fold (.refl _) (fun _ _ h => pantryPut_keeps h ..)
        clear_value x54
        clear_value x55
        have k62 : Keeps a0 x56 := by
          unfold x56
          apply State.modItem_keeps
          exact k60
        clear_value x56
        clear_value x57
        clear_value x58
        have k63 : Keeps a0 x59 := by
          unfold x59
          apply Keeps.fold
          · exact k62
          · intro y64 y65 y66
            split
            · rename_i z67 z68 z69
              apply countPantry_keeps
              exact y66
        clear_value x59
        apply freeEngine_keeps
        apply count_keeps
        exact k63

theorem execEnginePieceComplete_keeps {a0 s : State} (h0 : Keeps a0 s) (l : LandIx) (k : EngineKind) (engine : Nat) : OutKeeps a0 (execEnginePieceComplete l k engine s) := by
  unfold execEnginePieceComplete
  apply OutKeeps.next
  extract_lets x0
  clear_value x0
  split
  · rename_i z1
    split
    · rename_i z2 z3 z4
      split
      · rename_i z5 z6 z7
        split
        · rename_i z8
          apply freeEngine_keeps
          exact h0
        · rename_i z9
          apply movePiece_keeps
          exact h0
      · rename_i z10 z11
        apply freeEngine_keeps
        exact h0
    · rename_i z12 z13
      exact h0
  · rename_i z14
    exact h0

theorem execEngineClockStop_keeps {a0 s : State} (h0 : Keeps a0 s) (l : LandIx) (k : EngineKind) (engine : Nat) : OutKeeps a0 (execEngineClockStop l k engine s) := by
  unfold execEngineClockStop
  apply OutKeeps.next
  extract_lets x0 x1
  clear_value x0
  clear_value x1
  split
  · rename_i z2
    apply modEngines_keeps
    apply State.upTo_keeps
    exact h0
  · rename_i z3
    exact h0

/-! ## Machine/Bench.lean -/

theorem benchRows_keeps {a0 s : State} (h0 : Keeps a0 s) (t1 : Bool) (fmt : Nat) (cols : Nat) (bss : List (List Byte)) : Keeps a0 (benchRows s t1 fmt cols bss).1 := by
  unfold benchRows
  exact h0

theorem benchRun_keeps {a0 s : State} (h0 : Keeps a0 s) (i : Item) (reads : List (Nat × Nat)) (dests : List (Nat × Nat)) (f : State →   List (List Byte) → State × Fl (List (Nat × List Byte))) (h_f : ∀ (q0 : State) (q1 : List (List Byte)), Keeps a0 q0 → Keeps a0 (f q0 q1).1) : Keeps a0 (benchRun s i reads dests f) := by
  unfold benchRun
  split
  · rename_i z0 z1 z2 z3
    have k4 : Keeps a0 z1 := Keeps.ofGot z3 (by
        apply getRanges_keeps
        exact h0)
    apply failItem_keeps
    exact k4
  · rename_i z5 z6 z7
    have k8 : Keeps a0 z6 := Keeps.ofGot z7 (by
        apply getRanges_keeps
        exact h0)
    exact k8
  · rename_i z9 z10 z11 z12
    have k13 : Keeps a0 z10 := Keeps.ofGot z12 (by
        apply getRanges_keeps
        exact h0)
    split
    · rename_i z14 z15 z16 z17
      have k18 := Keeps.ofFst z17 (a := a0) (by
          apply blurReads_keeps
          exact k13)
      split
      · rename_i z19 z20 z21 z22
        have k23 := Keeps.ofFst z22 (a := a0) (by
            apply h_f
            exact k18)
        apply putRanges_keeps
        apply addFlags_keeps
        exact k23

theorem normBwdOut_keeps {a0 s : State} (h0 : Keeps a0 s) (i : Item) (d : BenchD) (bss : List (List Byte)) : Keeps a0 (normBwdOut s i d bss).1 := by
  unfold normBwdOut
  split
  · rename_i z0 z1 z2 z3
    have k4 := Keeps.ofFst z3 (a := a0) (by
        apply benchRows_keeps
        exact h0)
    split
    · rename_i z5 z6 z7 z8
      have k9 := Keeps.ofFst z8 (a := a0) (by
          apply benchRows_keeps
          exact k4)
      exact k9

theorem execNormBwd_keeps {a0 s : State} (h0 : Keeps a0 s) (c : CtxIx) (seq : Nat) : OutKeeps a0 (execNormBwd c seq s) := by
  unfold execNormBwd
  apply OutKeeps.next
  split
  · rename_i z0 z1 z2 z3
    extract_lets x4
    clear_value x4
    apply benchRun_keeps
    · exact h0
    · intro y5 y6 y7
      apply normBwdOut_keeps
      exact y7
  · rename_i z8 z9
    exact h0

theorem softmaxBwdOut_keeps {a0 s : State} (h0 : Keeps a0 s) (i : Item) (d : BenchD) (bss : List (List Byte)) : Keeps a0 (softmaxBwdOut s i d bss).1 := by
  unfold softmaxBwdOut
  split
  · rename_i z0 z1 z2 z3
    have k4 := Keeps.ofFst z3 (a := a0) (by
        apply benchRows_keeps
        exact h0)
    split
    · rename_i z5 z6 z7 z8
      have k9 := Keeps.ofFst z8 (a := a0) (by
          apply benchRows_keeps
          exact k4)
      exact k9

theorem execSoftmaxBwd_keeps {a0 s : State} (h0 : Keeps a0 s) (c : CtxIx) (seq : Nat) : OutKeeps a0 (execSoftmaxBwd c seq s) := by
  unfold execSoftmaxBwd
  apply OutKeeps.next
  split
  · rename_i z0 z1 z2 z3
    apply benchRun_keeps
    · exact h0
    · intro y4 y5 y6
      apply softmaxBwdOut_keeps
      exact y6
  · rename_i z7 z8
    exact h0

theorem rowStatsOut_keeps {a0 s : State} (h0 : Keeps a0 s) (d : BenchD) (bss : List (List Byte)) : Keeps a0 (rowStatsOut s d bss).1 := by
  unfold rowStatsOut
  split
  · rename_i z0 z1 z2 z3
    have k4 := Keeps.ofFst z3 (a := a0) (by
        apply benchRows_keeps
        exact h0)
    exact k4

theorem execRowStats_keeps {a0 s : State} (h0 : Keeps a0 s) (c : CtxIx) (seq : Nat) : OutKeeps a0 (execRowStats c seq s) := by
  unfold execRowStats
  apply OutKeeps.next
  split
  · rename_i z0 z1 z2 z3
    apply benchRun_keeps
    · exact h0
    · intro y4 y5 y6
      apply rowStatsOut_keeps
      exact y6
  · rename_i z7 z8
    exact h0

theorem execRubbleEncode_keeps {a0 s : State} (h0 : Keeps a0 s) (c : CtxIx) (seq : Nat) : OutKeeps a0 (execRubbleEncode c seq s) := by
  unfold execRubbleEncode
  apply OutKeeps.next
  split
  · rename_i z0 z1 z2 z3
    apply benchRun_keeps
    · exact h0
    · intro y4 y5 y6
      exact y6
  · rename_i z7 z8
    exact h0

theorem runRubbleDecode_keeps {a0 s : State} (h0 : Keeps a0 s) (i : Item) (d : BenchD) : Keeps a0 (runRubbleDecode s i d) := by
  unfold runRubbleDecode
  split
  · rename_i z0 z1 z2 z3
    have k4 : Keeps a0 z1 := Keeps.ofGot z3 (by
        apply getRanges_keeps
        exact h0)
    apply failItem_keeps
    exact k4
  · rename_i z5 z6 z7
    have k8 : Keeps a0 z6 := Keeps.ofGot z7 (by
        apply getRanges_keeps
        exact h0)
    exact k8
  · rename_i z9 z10 z11 z12
    have k13 : Keeps a0 z10 := Keeps.ofGot z12 (by
        apply getRanges_keeps
        exact h0)
    extract_lets x14 x15
    clear_value x14
    clear_value x15
    apply benchRun_keeps
    · exact k13
    · intro y16 y17 y18
      exact y18

theorem execRubbleDecode_keeps {a0 s : State} (h0 : Keeps a0 s) (c : CtxIx) (seq : Nat) : OutKeeps a0 (execRubbleDecode c seq s) := by
  unfold execRubbleDecode
  apply OutKeeps.next
  split
  · rename_i z0 z1 z2 z3
    apply runRubbleDecode_keeps
    exact h0
  · rename_i z4 z5
    exact h0

theorem copyRoundOut_keeps {a0 s : State} (h0 : Keeps a0 s) (i : Item) (d : BenchD) (bss : List (List Byte)) : Keeps a0 (copyRoundOut s i d bss).1 := by
  unfold copyRoundOut
  extract_lets x0 x1
  clear_value x0
  clear_value x1
  split
  · rename_i z2 z3 z4 z5
    have k6 := Keeps.ofFst z5 (a := a0) (by
        apply benchRows_keeps
        exact h0)
    exact k6

theorem execCopyRound_keeps {a0 s : State} (h0 : Keeps a0 s) (c : CtxIx) (seq : Nat) : OutKeeps a0 (execCopyRound c seq s) := by
  unfold execCopyRound
  apply OutKeeps.next
  split
  · rename_i z0 z1 z2 z3
    apply benchRun_keeps
    · exact h0
    · intro y4 y5 y6
      apply copyRoundOut_keeps
      exact y6
  · rename_i z7 z8
    exact h0

theorem modCore_keeps {a0 s : State} (h0 : Keeps a0 s) (d : Nat) (k : Nat) (f : Core → Core) : Keeps a0 (modCore s d k f) := by
  unfold modCore
  apply State.modDie_keeps
  exact h0

theorem execBenchCoreStop_keeps {a0 s : State} (h0 : Keeps a0 s) (d : DieIx) (core : DieIx) : OutKeeps a0 (execBenchCoreStop d core s) := by
  unfold execBenchCoreStop
  apply OutKeeps.next
  extract_lets x0
  clear_value x0
  split
  · rename_i z1
    apply modCore_keeps
    apply State.upTo_keeps
    exact h0
  · rename_i z2
    exact h0

theorem execBenchCoreWake_keeps {a0 s : State} (h0 : Keeps a0 s) (d : DieIx) (core : DieIx) : OutKeeps a0 (execBenchCoreWake d core s) := by
  unfold execBenchCoreWake
  apply OutKeeps.next
  extract_lets x0
  clear_value x0
  split
  · rename_i z1
    apply modCore_keeps
    apply State.upTo_keeps
    exact h0
  · rename_i z2
    exact h0

theorem preempted_keeps {a0 s : State} (h0 : Keeps a0 s) (d : Nat) (r : ItemRef) : Keeps a0 (preempted s d r) := by
  unfold preempted
  apply count_keeps
  exact h0

theorem takeFromItem_keeps {a0 s : State} (h0 : Keeps a0 s) (d : Nat) (k : Nat) (r : ItemRef) (o : CoreOwner) : Keeps a0 (takeFromItem s d k r o) := by
  unfold takeFromItem
  extract_lets x0
  have k1 : Keeps a0 x0 := by
    unfold x0
    apply noteWork_keeps
    apply State.modDie_keeps
    exact h0
  clear_value x0
  apply preempted_keeps
  apply State.modItem_keeps
  apply modCore_keeps
  exact k1

theorem collShed_keeps {a0 s : State} (h0 : Keeps a0 s) (d : Nat) : Keeps a0 (collShed s d) := by
  unfold collShed
  extract_lets x0
  clear_value x0
  apply giveBack_keeps
  apply Keeps.fold
  · exact h0
  · intro y1 y2 y3
    apply modCore_keeps
    exact y3

theorem collTake_keeps {a0 s : State} (h0 : Keeps a0 s) (d : Nat) (k : Nat) : Keeps a0 (collTake s d k) := by
  unfold collTake
  extract_lets x0
  have k1 : Keeps a0 x0 := by
    unfold x0
    apply collGrab_keeps
    apply collShed_keeps
    exact h0
  clear_value x0
  split
  · rename_i z2 z3 z4
    split
    · rename_i z5
      apply takeFromItem_keeps
      exact k1
    · rename_i z6
      exact k1
  · rename_i z7 z8
    exact k1

theorem replayTake_keeps {a0 s : State} (h0 : Keeps a0 s) (d : Nat) : Keeps a0 (replayTake s d) := by
  unfold replayTake
  extract_lets x0 x1
  clear_value x0
  split
  · rename_i z2
    exact h0
  · rename_i z3
    split
    · rename_i z4 z5
      dsimp only [x1]
      apply State.modDie_keeps
      apply ownCores_keeps
      exact h0
    · rename_i z6 z7 z8
      dsimp only [x1]
      apply State.modDie_keeps
      apply takeFromItem_keeps
      exact h0
    · rename_i z9 z10 z11
      exact h0

theorem replayGive_keeps {a0 s : State} (h0 : Keeps a0 s) (d : Nat) : Keeps a0 (replayGive s d) := by
  unfold replayGive
  extract_lets x0
  have k1 : Keeps a0 x0 := by
    unfold x0
    split
    · rename_i z2 z3 z4
      apply State.modFace_keeps
      exact h0
    · rename_i z5 z6
      exact h0
  clear_value x0
  apply giveBack_keeps
  apply modCore_keeps
  exact k1

theorem execBenchQuantum_keeps {a0 s : State} (h0 : Keeps a0 s) (d : DieIx) (core : DieIx) (replay : Bool) : OutKeeps a0 (execBenchQuantum d core replay s) := by
  unfold execBenchQuantum
  apply OutKeeps.next
  split
  · rename_i z0
    extract_lets x1 x2 x3
    have k4 : Keeps a0 x1 := by
      unfold x1
      apply State.upTo_keeps
      exact h0
    clear_value x1
    have k5 : Keeps a0 x2 := by
      unfold x2
      split
      · rename_i z6
        apply State.modDie_keeps
        exact k4
      · rename_i z7
        exact k4
    clear_value x2
    have k8 : Keeps a0 x3 := by
      unfold x3
      split
      · rename_i z9
        apply replayTake_keeps
        exact k5
      · rename_i z10
        exact k5
    clear_value x3
    split
    · rename_i z11 z12 z13
      apply replayGive_keeps
      exact k5
    · rename_i z14 z15
      split
      · rename_i z16 z17 z18
        exact k8
      · rename_i z19 z20
        apply collTake_keeps
        exact k8
  · rename_i z21
    exact h0

/-! ## Machine/Train.lean -/

theorem takeNorm_keeps {a0 s : State} (h0 : Keeps a0 s) (i : Item) (d : UpdateD) (bs : List Byte) : Keeps a0 (takeNorm s i d bs) := by
  unfold takeNorm
  extract_lets x0 x1 x2
  clear_value x0
  clear_value x1
  clear_value x2
  split
  · rename_i z3
    apply readAgain_keeps
    exact h0
  · rename_i z4
    split
    · rename_i z5
      apply endItem_keeps
      exact h0
    · rename_i z6
      apply State.modItem_keeps
      apply addFlags_keeps
      exact h0

theorem pollNorm_keeps {a0 s : State} (h0 : Keeps a0 s) (i : Item) : Keeps a0 (pollNorm s i) := by
  unfold pollNorm
  extract_lets x0
  clear_value x0
  split
  · rename_i z1 z2 z3 z4
    have k5 := Keeps.ofFst z4 (a := a0) (by
        apply itemRead_keeps
        exact h0)
    apply takeNorm_keeps
    apply acquire_keeps
    exact k5
  · rename_i z6 z7 z8 z9
    have k10 := Keeps.ofFst z9 (a := a0) (by
        apply itemRead_keeps
        exact h0)
    apply failItem_keeps
    exact k10
  · rename_i z11 z12 z13
    have k14 := Keeps.ofFst z13 (a := a0) (by
        apply itemRead_keeps
        exact h0)
    exact k14

theorem tryClaim_keeps {a0 s : State} (h0 : Keeps a0 s) (i : Item) : Keeps a0 (tryClaim s i) := by
  unfold tryClaim
  extract_lets x0
  clear_value x0
  split
  · rename_i z1
    exact h0
  · rename_i z2
    split
    · rename_i z3 z4 z5 z6
      have k7 := Keeps.ofFst z6 (a := a0) (by
          apply readRecord_keeps
          exact h0)
      apply failItem_keeps
      exact k7
    · rename_i z8 z9 z10
      have k11 := Keeps.ofFst z10 (a := a0) (by
          apply readRecord_keeps
          exact h0)
      exact k11
    · rename_i z12 z13 z14 z15
      have k16 := Keeps.ofFst z15 (a := a0) (by
          apply readRecord_keeps
          exact h0)
      extract_lets x17
      clear_value x17
      split
      · rename_i z18 z19
        apply forgetLine_keeps
        exact k16
      · rename_i z20 z21 z22
        extract_lets x23
        have k24 : Keeps a0 x23 := by
          unfold x23
          apply State.modItem_keeps
          exact k16
        clear_value x23
        split
        · rename_i z25 z26 z27 z28
          have k29 := Keeps.ofFst z28 (a := a0) (by
              apply casRecord_keeps
              exact k24)
          split
          · rename_i z30
            apply claimHeld_keeps
            exact k29
          · rename_i z31
            apply forgetLine_keeps
            exact k29
        · rename_i z32 z33 z34
          have k35 := Keeps.ofFst z34 (a := a0) (by
              apply casRecord_keeps
              exact k24)
          exact k35
        · rename_i z36 z37 z38 z39
          have k40 := Keeps.ofFst z39 (a := a0) (by
              apply casRecord_keeps
              exact k24)
          apply failItem_keeps
          exact k40

theorem startUpdate_keeps {a0 s : State} (h0 : Keeps a0 s) (i : Item) : Keeps a0 (startUpdate s i) := by
  unfold startUpdate
  extract_lets x0 x1 x2
  clear_value x0
  have k3 : Keeps a0 x1 := by
    unfold x1
    apply startItem_keeps
    exact h0
  clear_value x1
  have k4 : Keeps a0 x2 := by
    unfold x2
    apply State.modItem_keeps
    exact k3
  clear_value x2
  split
  · rename_i z5
    apply pollNorm_keeps
    exact k4
  · rename_i z6
    apply tryClaim_keeps
    exact k4

theorem recordWrite_keeps {a0 s : State} (h0 : Keeps a0 s) (i : Item) (a : Nat) (bs : List Byte) : Keeps a0 (recordWrite s i a bs).1 := by
  unfold recordWrite
  split
  · rename_i z0
    split
    · rename_i z1 z2 z3 z4
      have k5 := Keeps.ofFst z4 (a := a0) (by
          apply reachHome_keeps
          exact h0)
      split
      · rename_i z6
        have k7 := Keeps.ofFst z4 (a := a0) (by
            apply reachHome_keeps
            exact h0)
        split
        · rename_i z8 z9 z10 z11
          have k12 := Keeps.ofFst z11 (a := a0) (by
              apply State.request_keeps
              exact k5)
          dsimp only
          apply State.modItem_keeps
          exact k12
      · rename_i z13 z14
        exact k5
  · rename_i z15
    split
    · rename_i z16 z17 z18 z19
      have k20 := Keeps.ofFst z19 (a := a0) (by
          apply State.request_keeps
          exact h0)
      dsimp only
      apply State.modItem_keeps
      exact k20
    · rename_i z21 z22 z23
      have k24 := Keeps.ofFst z23 (a := a0) (by
          apply State.request_keeps
          exact h0)
      exact k24

theorem writeUpdate_keeps {a0 s : State} (h0 : Keeps a0 s) (i : Item) (d : UpdateD) (ws : List W64) (buf : Nat) (reads : List (Nat × Nat)) (o : UpdateOut) : Keeps a0 (writeUpdate s i d ws buf reads o) := by
  unfold writeUpdate
  extract_lets x0 x1
  clear_value x0
  clear_value x1
  split
  · rename_i z2 z3 z4 z5
    have k6 := Keeps.ofFst z5 (a := a0) (by
        apply recordWrite_keeps
        exact h0)
    apply failItem_keeps
    exact k6
  · rename_i z7 z8 z9
    have k10 := Keeps.ofFst z9 (a := a0) (by
        apply recordWrite_keeps
        exact h0)
    split
    · rename_i z11 z12 z13 z14
      have k15 := Keeps.ofFst z14 (a := a0) (by
          apply blurWrites_keeps
          exact k10)
      split
      · rename_i z16 z17 z18 z19
        have k20 := Keeps.ofFst z19 (a := a0) (by
            apply writeRanges_keeps
            exact k15)
        apply failItem_keeps
        exact k20
      · rename_i z21 z22 z23
        have k24 := Keeps.ofFst z23 (a := a0) (by
            apply writeRanges_keeps
            exact k15)
        apply State.modItem_keeps
        exact k24

theorem runUpdate_keeps {a0 s : State} (h0 : Keeps a0 s) (i : Item) : Keeps a0 (runUpdate s i) := by
  unfold runUpdate
  extract_lets x0 x1 x2
  clear_value x0
  clear_value x1
  clear_value x2
  split
  · rename_i z3 z4
    exact h0
  · rename_i z5 z6 z7 z8
    split
    · rename_i z9 z10 z11 z12
      have k13 := Keeps.ofFst z12 (a := a0) (by
          apply readRecord_keeps
          exact h0)
      apply failItem_keeps
      exact k13
    · rename_i z14 z15 z16
      have k17 := Keeps.ofFst z16 (a := a0) (by
          apply readRecord_keeps
          exact h0)
      exact k17
    · rename_i z18 z19 z20 z21
      have k22 := Keeps.ofFst z21 (a := a0) (by
          apply readRecord_keeps
          exact h0)
      extract_lets x23 x24
      clear_value x23
      clear_value x24
      split
      · rename_i z25 z26 z27 z28
        have k29 : Keeps a0 z26 := Keeps.ofGot z28 (by
            apply getRanges_keeps
            exact k22)
        apply failItem_keeps
        exact k29
      · rename_i z30 z31 z32
        have k33 : Keeps a0 z31 := Keeps.ofGot z32 (by
            apply getRanges_keeps
            exact k22)
        exact k33
      · rename_i z34 z35 z36 z37
        have k38 : Keeps a0 z35 := Keeps.ofGot z37 (by
            apply getRanges_keeps
            exact k22)
        split
        · rename_i z39 z40 z41 z42
          have k43 := Keeps.ofFst z42 (a := a0) (by
              apply blurReads_keeps
              exact k38)
          extract_lets x44 x45
          clear_value x44
          clear_value x45
          apply writeUpdate_keeps
          apply addFlags_keeps
          exact k43

theorem execUpdate_keeps {a0 s : State} (h0 : Keeps a0 s) (c : CtxIx) (seq : Nat) : OutKeeps a0 (execUpdate c seq s) := by
  unfold execUpdate
  apply OutKeeps.next
  split
  · rename_i z0 z1 z2
    split
    · rename_i z3
      apply startUpdate_keeps
      exact h0
    · rename_i z4
      split
      · rename_i z5
        apply runUpdate_keeps
        exact h0
      · rename_i z6
        exact h0
  · rename_i z7 z8
    exact h0

theorem execNormCellPoll_keeps {a0 s : State} (h0 : Keeps a0 s) (c : CtxIx) (seq : Nat) : OutKeeps a0 (execNormCellPoll c seq s) := by
  unfold execNormCellPoll
  apply OutKeeps.next
  split
  · rename_i z0 z1 z2
    split
    · rename_i z3
      apply pollNorm_keeps
      exact h0
    · rename_i z4
      exact h0
  · rename_i z5 z6
    exact h0

theorem execUpdateClaimPoll_keeps {a0 s : State} (h0 : Keeps a0 s) (c : CtxIx) (seq : Nat) : OutKeeps a0 (execUpdateClaimPoll c seq s) := by
  unfold execUpdateClaimPoll
  apply OutKeeps.next
  split
  · rename_i z0 z1 z2
    apply tryClaim_keeps
    apply State.upTo_keeps
    exact h0
  · rename_i z3 z4
    exact h0

theorem flushOwned_keeps {a0 s : State} (h0 : Keeps a0 s) (i : Item) : Keeps a0 (flushOwned s i) := by
  unfold flushOwned
  extract_lets x0 x1
  have k2 : Keeps a0 x0.s := by
    unfold x0
    apply writeBackAll_keeps
    exact h0
  clear_value x0
  have k3 : Keeps a0 x1 := by
    unfold x1
    apply State.modItem_keeps
    exact k2
  clear_value x1
  split
  · rename_i z4 z5 z6
    apply failItem_keeps
    exact k3
  · rename_i z7 z8
    exact k3

theorem commitBuffer_keeps {a0 s : State} (h0 : Keeps a0 s) (i : Item) (a : Nat) (b : Nat) : Keeps a0 (commitBuffer s i a b) := by
  unfold commitBuffer
  split
  · rename_i z0 z1 z2 z3
    have k4 := Keeps.ofFst z3 (a := a0) (by
        apply readRecord_keeps
        exact h0)
    apply failItem_keeps
    exact k4
  · rename_i z5 z6 z7
    have k8 := Keeps.ofFst z7 (a := a0) (by
        apply readRecord_keeps
        exact h0)
    exact k8
  · rename_i z9 z10 z11 z12
    have k13 := Keeps.ofFst z12 (a := a0) (by
        apply readRecord_keeps
        exact h0)
    extract_lets x14
    clear_value x14
    split
    · rename_i z15 z16 z17 z18
      have k19 := Keeps.ofFst z18 (a := a0) (by
          apply casRecord_keeps
          exact k13)
      split
      · rename_i z20
        apply committed_keeps
        exact k19
      · rename_i z21
        apply forgetLine_keeps
        exact k19
    · rename_i z22 z23 z24
      have k25 := Keeps.ofFst z24 (a := a0) (by
          apply casRecord_keeps
          exact k13)
      exact k25
    · rename_i z26 z27 z28 z29
      have k30 := Keeps.ofFst z29 (a := a0) (by
          apply casRecord_keeps
          exact k13)
      apply failItem_keeps
      exact k30

theorem ratioFailed_keeps {a0 s : State} (h0 : Keeps a0 s) (i : Item) (d : UpdateD) (rho : W64) : Keeps a0 (ratioFailed s i d rho) := by
  unfold ratioFailed
  extract_lets x0
  have k1 : Keeps a0 x0 := by
    unfold x0
    apply raiseError_keeps
    exact h0
  clear_value x0
  apply endItem_keeps
  exact k1

theorem tryCommit_keeps {a0 s : State} (h0 : Keeps a0 s) (i : Item) : Keeps a0 (tryCommit s i) := by
  unfold tryCommit
  extract_lets x0 x1
  clear_value x0
  clear_value x1
  split
  · rename_i z2 z3
    exact h0
  · rename_i z4 z5 z6 z7
    split
    · rename_i z8
      exact h0
    · rename_i z9
      split
      · rename_i z10
        apply ratioFailed_keeps
        exact h0
      · rename_i z11
        apply commitBuffer_keeps
        exact h0

theorem execUpdateCommit_keeps {a0 s : State} (h0 : Keeps a0 s) (c : CtxIx) (seq : Nat) : OutKeeps a0 (execUpdateCommit c seq s) := by
  unfold execUpdateCommit
  apply OutKeeps.next
  split
  · rename_i z0 z1 z2
    split
    · rename_i z3
      extract_lets x4
      have k5 : Keeps a0 x4 := by
        unfold x4
        apply flushOwned_keeps
        apply goStaged_keeps
        exact h0
      clear_value x4
      split
      · rename_i z6 z7 z8
        apply tryCommit_keeps
        exact k5
      · rename_i z9 z10
        exact k5
    · rename_i z11
      exact h0
  · rename_i z12 z13
    exact h0

end Sys2Proof.Machine
end

