-- ==== Sys2Proof/Laws/LeftColl.lean ====
section
/-! SUPPORT. What each operation leaves (Keeps): collectives, the Hearth, the front end and the Attic. -/

set_option Elab.async false
set_option linter.unusedVariables false

namespace Sys2Proof.Machine

/-! ## Machine/Coll.lean -/

theorem State.modColl_keeps {a0 s : State} (h0 : Keeps a0 s) (group : Nat) (number : Nat) (f : Coll → Coll) : Keeps a0 (State.modColl s group number f) := by
  unfold State.modColl
  exact Keeps.put h0

theorem modCollOf_keeps {a0 s : State} (h0 : Keeps a0 s) (r : ItemRef) (f : Coll → Coll) : Keeps a0 (modCollOf s r f) := by
  unfold modCollOf
  exact Keeps.put h0

theorem sendColl_keeps {a0 s : State} (h0 : Keeps a0 s) (r : CollRun) (number : Nat) (dest : Nat) (key : CollKey) (offset : Nat) (version : Nat) (chunk : Nat) (seq : Nat) (bs : List Byte) : Keeps a0 (sendColl s r number dest key offset version chunk seq bs) := by
  unfold sendColl
  extract_lets x0
  clear_value x0
  apply State.sendPacket_keeps
  exact h0

theorem sendChunk_keeps {a0 s : State} (h0 : Keeps a0 s) (r : CollRun) (number : Nat) (version : Nat) (o : CollOwed) : Keeps a0 (sendChunk s r number version o) := by
  unfold sendChunk
  extract_lets x0
  clear_value x0
  apply Keeps.fold
  · exact h0
  · intro y1 y2 y3
    split
    · rename_i z4 z5 z6
      apply sendColl_keeps
      exact y3

theorem sendAck_keeps {a0 s : State} (h0 : Keeps a0 s) (r : CollRun) (number : Nat) (version : Nat) (dest : Nat) (key : CollKey) (m : Nat) : Keeps a0 (sendAck s r number version dest key m) := by
  unfold sendAck
  apply sendColl_keeps
  exact h0

theorem sendMsg_keeps {a0 s : State} (h0 : Keeps a0 s) (dev : Nat) (typ : Nat) (words : List W64) (body : List Byte) : Keeps a0 (sendMsg s dev typ words body) := by
  unfold sendMsg
  extract_lets x0 x1
  clear_value x0
  clear_value x1
  apply State.sendPacket_keeps
  exact h0

theorem sendNotUsed_keeps {a0 s : State} (h0 : Keeps a0 s) (r : CollRun) (number : Nat) (dest : Nat) (key : CollKey) (m : Nat) : Keeps a0 (sendNotUsed s r number dest key m) := by
  unfold sendNotUsed
  apply sendMsg_keeps
  exact h0

theorem dropChunk_keeps {a0 s : State} (h0 : Keeps a0 s) (item : ItemRef) (key : CollKey) (src : Nat) (lo : Nat) (hi : Nat) : Keeps a0 (dropChunk s item key src lo hi) := by
  unfold dropChunk
  apply modCollOf_keeps
  exact h0

theorem discardCopy_keeps {a0 s : State} (h0 : Keeps a0 s) (r : CollRun) (x : Coll) (src : Nat) (m : Nat) : Keeps a0 (discardCopy s r x src m) := by
  unfold discardCopy
  split
  · rename_i z0
    exact h0
  · rename_i z1
    extract_lets x2 x3 x4
    clear_value x2
    clear_value x3
    have k5 : Keeps a0 x4 := by
      unfold x4
      apply modCollOf_keeps
      apply dropChunk_keeps
      exact h0
    clear_value x4
    apply sendAck_keeps
    apply sendNotUsed_keeps
    exact k5

theorem settleSlot_keeps {a0 s : State} (h0 : Keeps a0 s) (r : CollRun) (k : Nat) (m : Nat) : Keeps a0 (settleSlot s r k m) := by
  unfold settleSlot
  extract_lets x0 x1
  clear_value x0
  split
  · rename_i z2 z3
    exact h0
  · rename_i z4 z5 z6
    split
    · rename_i z7 z8 z9
      dsimp only [x1]
      apply Keeps.fold
      · exact h0
      · intro y10 y11 y12
        split
        · rename_i z13
          exact y12
        · rename_i z14
          split
          · rename_i z15 z16 z17
            apply discardCopy_keeps
            exact y12
          · rename_i z18 z19
            exact y12
    · rename_i z20 z21
      split
      · rename_i z22 z23 z24
        dsimp only [x1]
        apply Keeps.fold
        · apply modCollOf_keeps
          exact h0
        · intro y25 y26 y27
          split
          · rename_i z28
            exact y27
          · rename_i z29
            split
            · rename_i z30 z31 z32
              apply discardCopy_keeps
              exact y27
            · rename_i z33 z34
              exact y27
      · rename_i z35 z36
        exact h0

theorem settleSlots_keeps {a0 s : State} (h0 : Keeps a0 s) (r : CollRun) : Keeps a0 (settleSlots s r) := by
  unfold settleSlots
  split
  · rename_i z0
    exact h0
  · rename_i z1
    apply Keeps.fold
    · exact h0
    · intro y2 y3 y4
      apply Keeps.fold
      · exact y4
      · intro y5 y6 y7
        apply settleSlot_keeps
        exact y7

theorem readSource_keeps {a0 s : State} (h0 : Keeps a0 s) (r : CollRun) (rs : List (Nat × Nat)) : Keeps a0 (readSource s r rs).1 := by
  unfold readSource
  split
  · rename_i z0 z1 z2 z3 z4
    have k5 := Keeps.ofFst z4 (a := a0) (by
        apply itemReads_keeps
        exact h0)
    extract_lets x6
    have k7 : Keeps a0 x6.1 := by
      unfold x6
      apply Keeps.foldFst
      · exact k5
      · intro y8 y9 y10
        split
        · rename_i z11 z12 z13 z14
          have k15 := Keeps.ofFst z14 (a := a0) (by
              apply blur_keeps
              exact y10)
          exact k15
    clear_value x6
    exact k7
  · rename_i z16 z17
    apply itemReads_keeps
    exact h0

theorem readContribution_keeps {a0 s : State} (h0 : Keeps a0 s) (r : CollRun) (rs : List (Nat × Nat)) : Keeps a0 (readContribution s r rs).1 := by
  unfold readContribution
  split
  · rename_i z0 z1 z2 z3 z4
    have k5 := Keeps.ofFst z4 (a := a0) (by
        apply readSource_keeps
        exact h0)
    exact k5
  · rename_i z6 z7 z8 z9
    have k10 := Keeps.ofFst z9 (a := a0) (by
        apply readSource_keeps
        exact h0)
    exact k10

theorem collBytes_keeps {a0 s : State} (h0 : Keeps a0 s) (r : CollRun) (x : Coll) (f : Flow) (m : Nat) (lo : Nat) (hi : Nat) (src : CollIn) : Keeps a0 (collBytes s r x f m lo hi src).1 := by
  unfold collBytes
  split
  · rename_i z0 z1
    exact h0
  · rename_i z2 z3
    exact h0
  · rename_i z4 z5
    exact h0
  · rename_i z6
    exact h0
  · rename_i z7
    exact h0
  · rename_i z8
    exact h0
  · rename_i z9
    extract_lets x10
    clear_value x10
    split
    · rename_i z11 z12 z13 z14 z15
      have k16 := Keeps.ofFst z15 (a := a0) (by
          apply readContribution_keeps
          exact h0)
      exact k16
    · rename_i z17 z18 z19 z20
      have k21 := Keeps.ofFst z20 (a := a0) (by
          apply readContribution_keeps
          exact h0)
      exact k21
  · rename_i z22 z23
    split
    · rename_i z24
      extract_lets x25
      clear_value x25
      split
      · rename_i z26 z27 z28 z29 z30
        have k31 := Keeps.ofFst z30 (a := a0) (by
            apply readSource_keeps
            exact h0)
        exact k31
      · rename_i z32 z33 z34 z35
        have k36 := Keeps.ofFst z35 (a := a0) (by
            apply readSource_keeps
            exact h0)
        exact k36
    · rename_i z37
      split
      · rename_i z38 z39 z40 z41 z42
        have k43 := Keeps.ofFst z42 (a := a0) (by
            apply readSource_keeps
            exact h0)
        exact k43
      · rename_i z44 z45 z46 z47
        have k48 := Keeps.ofFst z47 (a := a0) (by
            apply readSource_keeps
            exact h0)
        exact k48

theorem allBytes_keeps {a0 s : State} (h0 : Keeps a0 s) (r : CollRun) (x : Coll) (f : Flow) (m : Nat) (lo : Nat) (hi : Nat) : Keeps a0 (allBytes s r x f m lo hi).1 := by
  unfold allBytes
  apply Keeps.foldFst
  · exact h0
  · intro y0 y1 y2
    split
    · rename_i z3 z4
      exact y2
    · rename_i z5 z6 z7
      split
      · rename_i z8 z9 z10 z11 z12
        have k13 := Keeps.ofFst z12 (a := a0) (by
            apply collBytes_keeps
            exact y2)
        exact k13
      · rename_i z14 z15 z16 z17
        have k18 := Keeps.ofFst z17 (a := a0) (by
            apply collBytes_keeps
            exact y2)
        exact k18

theorem writeAt_keeps {a0 s : State} (h0 : Keeps a0 s) (i : Item) (rs : List (Nat × Nat)) (bs : List Byte) : Keeps a0 (writeAt s i rs bs).1 := by
  unfold writeAt
  split
  · rename_i z0 z1 z2 z3 z4
    have k5 := Keeps.ofFst z4 (a := a0) (by
        apply Keeps.foldFst
        · exact h0
        · intro y6 y7 y8
          split
          · rename_i z9 z10 z11 z12
            have k13 := Keeps.ofFst z12 (a := a0) (by
                apply itemWrite_keeps
                exact y8)
            exact k13)
    exact k5

theorem writeOut_keeps {a0 s : State} (h0 : Keeps a0 s) (r : CollRun) (rs : List (Nat × Nat)) (bs : List Byte) : Keeps a0 (writeOut s r rs bs).1 := by
  unfold writeOut
  split
  · rename_i z0 z1 z2 z3
    have k4 := Keeps.ofFst z3 (a := a0) (by
        apply writeAt_keeps
        exact h0)
    dsimp only
    split
    · rename_i z5
      apply State.modItem_keeps
      exact k4
    · rename_i z6
      exact k4

theorem leaveChunk_keeps {a0 s : State} (h0 : Keeps a0 s) (r : CollRun) (f : Flow) (m : Nat) (lo : Nat) (hi : Nat) (bs : List Byte) : Keeps a0 (leaveChunk s r f m lo hi bs).1 := by
  unfold leaveChunk
  extract_lets x0 x1 x2
  clear_value x1
  clear_value x2
  split
  · rename_i z3 z4
    exact h0
  · rename_i z5 z6
    dsimp only [x0]
    apply modCollOf_keeps
    exact h0
  · rename_i z7 z8 z9
    split
    · rename_i z10 z11 z12 z13
      have k14 := Keeps.ofFst z13 (a := a0) (by
          apply writeOut_keeps
          apply addFlags_keeps
          exact h0)
      dsimp only
      apply modCollOf_keeps
      exact k14
  · rename_i z15 z16 z17
    apply writeOut_keeps
    exact h0
  · rename_i z18 z19
    dsimp only [x0]
    apply modCollOf_keeps
    exact h0
  · rename_i z20 z21
    dsimp only [x0]
    apply modCollOf_keeps
    exact h0
  · rename_i z22 z23 z24
    dsimp only [x0]
    apply modCollOf_keeps
    exact h0

theorem sendOwed_keeps {a0 s : State} (h0 : Keeps a0 s) (r : CollRun) : Keeps a0 (sendOwed s r) := by
  unfold sendOwed
  split
  · rename_i z0 z1
    exact h0
  · rename_i z2 z3 z4
    apply Keeps.fold
    · exact h0
    · intro y5 y6 y7
      split
      · rename_i z8 z9 z10
        split
        · rename_i z11
          apply modCollOf_keeps
          apply sendChunk_keeps
          exact y7
        · rename_i z12
          exact y7
      · rename_i z13 z14
        exact y7

theorem emitChunk_keeps {a0 s : State} (h0 : Keeps a0 s) (r : CollRun) (x : Coll) (f : Flow) (m : Nat) (lo : Nat) (hi : Nat) (bs : List Byte) : Keeps a0 (emitChunk s r x f m lo hi bs) := by
  unfold emitChunk
  split
  · rename_i z0 z1 z2 z3
    have k4 := Keeps.ofFst z3 (a := a0) (by
        apply leaveChunk_keeps
        exact h0)
    apply failItem_keeps
    exact k4
  · rename_i z5 z6 z7
    have k8 := Keeps.ofFst z7 (a := a0) (by
        apply leaveChunk_keeps
        exact h0)
    extract_lets x9
    have k10 : Keeps a0 x9 := by
      unfold x9
      apply Keeps.fold
      · exact k8
      · intro y11 y12 y13
        apply sendAck_keeps
        apply dropChunk_keeps
        exact y13
    clear_value x9
    apply sendOwed_keeps
    apply modCollOf_keeps
    exact k10

theorem stepFlow_keeps {a0 s : State} (h0 : Keeps a0 s) (r : CollRun) (f : Flow) : Keeps a0 (stepFlow s r f).1 := by
  unfold stepFlow
  split
  · rename_i z0 z1
    exact h0
  · rename_i z2 z3 z4
    extract_lets x5 x6 x7
    clear_value x5
    clear_value x6
    clear_value x7
    split
    · rename_i z8
      exact h0
    · rename_i z9
      split
      · rename_i z10 z11 z12 z13 z14
        have k15 := Keeps.ofFst z14 (a := a0) (by
            apply allBytes_keeps
            exact h0)
        dsimp only
        apply failItem_keeps
        exact k15
      · rename_i z16 z17 z18
        have k19 := Keeps.ofFst z18 (a := a0) (by
            apply allBytes_keeps
            exact h0)
        exact k19
      · rename_i z20 z21 z22 z23
        have k24 := Keeps.ofFst z23 (a := a0) (by
            apply allBytes_keeps
            exact h0)
        split
        · rename_i z25
          exact k24
        · rename_i z26
          extract_lets x27
          clear_value x27
          dsimp only
          apply emitChunk_keeps
          apply addFlags_keeps
          exact k24

theorem runFlows_keeps {a0 v1 : State} (h0 : Keeps a0 v1) (v0 : Nat) (v2 : CollRun) (v3 : List Flow) : Keeps a0 (runFlows v0 v1 v2 v3) := by
  induction v0 generalizing v1 v2 v3 with
  | zero =>
    unfold runFlows
    exact h0
  | succ n ih =>
    unfold runFlows
    split
    · rename_i z0 z1 z2 z3
      have k4 := Keeps.ofFst z3 (a := a0) (by
          apply Keeps.foldFst
          · dsimp only
            apply sendOwed_keeps
            exact h0
          · intro y5 y6 y7
            split
            · rename_i z8 z9 z10 z11
              have k12 := Keeps.ofFst z11 (a := a0) (by
                  apply stepFlow_keeps
                  exact y7)
              exact k12)
      split
      · rename_i z13
        apply ih
        exact k4
      · rename_i z14
        exact k4

theorem sendBlocks_keeps {a0 s : State} (h0 : Keeps a0 s) (r : CollRun) (bs : List (List Byte)) : Keeps a0 (sendBlocks s r bs) := by
  unfold sendBlocks
  split
  · rename_i z0 z1 z2
    apply Keeps.fold
    · exact h0
    · intro y3 y4 y5
      apply State.sendPacket_keeps
      exact y5
  · rename_i z6 z7
    exact h0

theorem finishBlock_keeps {a0 s : State} (h0 : Keeps a0 s) (r : CollRun) (b : List Byte) : Keeps a0 (finishBlock s r b) := by
  unfold finishBlock
  extract_lets x0 x1 x2 x3
  clear_value x0
  clear_value x1
  clear_value x2
  clear_value x3
  split
  · rename_i z4
    apply modCollOf_keeps
    exact h0
  · rename_i z5
    apply modCollOf_keeps
    apply addFlags_keeps
    exact h0

theorem localBlock_keeps {a0 s : State} (h0 : Keeps a0 s) (r : CollRun) (k : Nat) : Keeps a0 (localBlock s r k).1 := by
  unfold localBlock
  split
  · rename_i z0 z1 z2 z3
    have k4 := Keeps.ofFst z3 (a := a0) (by
        apply itemRead_keeps
        exact h0)
    exact k4
  · rename_i z5 z6 z7 z8 z9
    have k10 := Keeps.ofFst z9 (a := a0) (by
        apply itemRead_keeps
        exact h0)
    exact k10

theorem crushBlocks_keeps {a0 s : State} (h0 : Keeps a0 s) (r : CollRun) (bs : List (Nat × List Byte)) : Keeps a0 (crushBlocks s r bs) := by
  unfold crushBlocks
  split
  · rename_i z0 z1 z2 z3
    have k4 := Keeps.ofFst z3 (a := a0) (by
        apply Keeps.foldFst
        · exact h0
        · intro y5 y6 y7
          split
          · rename_i z8 z9 z10
            split
            · rename_i z11 z12 z13 z14
              have k15 := Keeps.ofFst z14 (a := a0) (by
                  apply localBlock_keeps
                  exact y7)
              extract_lets x16 x17
              clear_value x16
              have k18 : Keeps a0 x17 := by
                unfold x17
                split
                · rename_i z19
                  apply State.modPort_keeps
                  exact k15
                · rename_i z20
                  exact k15
              clear_value x17
              split
              · rename_i z21
                dsimp only
                apply finishBlock_keeps
                exact k18
              · rename_i z22
                exact k18
            · rename_i z23 z24 z25
              have k26 := Keeps.ofFst z25 (a := a0) (by
                  apply localBlock_keeps
                  exact y7)
              dsimp only
              apply modCollOf_keeps
              exact k26)
    split
    · rename_i z27
      exact k4
    · rename_i z28
      apply sendBlocks_keeps
      exact k4

theorem crushWaiting_keeps {a0 s : State} (h0 : Keeps a0 s) (r : CollRun) : Keeps a0 (crushWaiting s r) := by
  unfold crushWaiting
  split
  · rename_i z0 z1 z2
    split
    · rename_i z3
      apply crushBlocks_keeps
      apply modCollOf_keeps
      exact h0
    · rename_i z4
      exact h0
  · rename_i z5 z6
    exact h0

theorem startCrush_keeps {a0 s : State} (h0 : Keeps a0 s) (r : CollRun) (x : Coll) : Keeps a0 (startCrush s r x) := by
  unfold startCrush
  extract_lets x0 x1 x2
  clear_value x0
  clear_value x1
  clear_value x2
  split
  · rename_i z3 z4 z5 z6
    have k7 := Keeps.ofFst z6 (a := a0) (by
        apply clearWay_keeps
        exact h0)
    split
    · rename_i z8
      exact k7
    · rename_i z9
      split
      · rename_i z10 z11 z12 z13 z14
        have k15 := Keeps.ofFst z14 (a := a0) (by
            apply readContribution_keeps
            exact k7)
        apply failItem_keeps
        exact k15
      · rename_i z16 z17 z18
        have k19 := Keeps.ofFst z18 (a := a0) (by
            apply readContribution_keeps
            exact k7)
        exact k19
      · rename_i z20 z21 z22 z23
        have k24 := Keeps.ofFst z23 (a := a0) (by
            apply readContribution_keeps
            exact k7)
        extract_lets x25
        clear_value x25
        split
        · rename_i z26 z27 z28 z29
          have k30 := Keeps.ofFst z29 (a := a0) (by
              apply itemWrite_keeps
              exact k24)
          apply failItem_keeps
          exact k30
        · rename_i z31 z32 z33
          have k34 := Keeps.ofFst z33 (a := a0) (by
              apply itemWrite_keeps
              exact k24)
          extract_lets x35
          have k36 : Keeps a0 x35 := by
            unfold x35
            apply sendBlocks_keeps
            apply modCollOf_keeps
            exact k34
          clear_value x35
          apply crushWaiting_keeps
          exact k36

theorem rerunBlock_keeps {a0 s : State} (h0 : Keeps a0 s) (r : CollRun) (k : Nat) : Keeps a0 (rerunBlock s r k) := by
  unfold rerunBlock
  extract_lets x0 x1 x2 x3 x4
  clear_value x0
  clear_value x1
  clear_value x2
  clear_value x3
  split
  · rename_i z5 z6 z7 z8 z9
    have k10 := Keeps.ofFst z9 (a := a0) (by
        apply itemReads_keeps
        exact h0)
    apply failItem_keeps
    exact k10
  · rename_i z11 z12 z13
    have k14 := Keeps.ofFst z13 (a := a0) (by
        apply itemReads_keeps
        exact h0)
    exact k14
  · rename_i z15 z16 z17 z18
    have k19 := Keeps.ofFst z18 (a := a0) (by
        apply itemReads_keeps
        exact h0)
    extract_lets x20 x21 x22
    clear_value x20
    clear_value x21
    clear_value x22
    apply modCollOf_keeps
    apply addFlags_keeps
    exact k19

theorem sendDone_keeps {a0 s : State} (h0 : Keeps a0 s) (r : CollRun) (x : Coll) : Keeps a0 (sendDone s r x) := by
  unfold sendDone
  extract_lets x0
  have k1 : Keeps a0 x0 := by
    unfold x0
    apply Keeps.fold
    · exact h0
    · intro y2 y3 y4
      apply sendMsg_keeps
      exact y4
  clear_value x0
  apply modCollOf_keeps
  exact k1

theorem closeCrush_keeps {a0 s : State} (h0 : Keeps a0 s) (r : CollRun) (x : Coll) : Keeps a0 (closeCrush s r x) := by
  unfold closeCrush
  extract_lets x0 x1 x2 x3
  clear_value x0
  clear_value x1
  clear_value x2
  clear_value x3
  split
  · rename_i z4 z5 z6 z7
    have k8 := Keeps.ofFst z7 (a := a0) (by
        apply writeOut_keeps
        exact h0)
    apply failItem_keeps
    exact k8
  · rename_i z9 z10 z11
    have k12 := Keeps.ofFst z11 (a := a0) (by
        apply writeOut_keeps
        exact h0)
    apply sendDone_keeps
    apply modCollOf_keeps
    exact k12

theorem runCrush_keeps {a0 s : State} (h0 : Keeps a0 s) (r : CollRun) : Keeps a0 (runCrush s r) := by
  unfold runCrush
  split
  · rename_i z0
    exact h0
  · rename_i z1
    split
    · rename_i z2 z3
      exact h0
    · rename_i z4 z5 z6
      split
      · rename_i z7
        apply crushWaiting_keeps
        exact h0
      · rename_i z8
        split
        · rename_i z9
          split
          · rename_i z10
            apply startCrush_keeps
            exact h0
          · rename_i z11
            exact h0
        · rename_i z12
          extract_lets x13 x14
          have k15 : Keeps a0 x13 := by
            unfold x13
            apply crushWaiting_keeps
            exact h0
          clear_value x13
          have k16 : Keeps a0 x14 := by
            unfold x14
            split
            · rename_i z17 z18 z19
              split
              · rename_i z20
                apply Keeps.fold
                · exact k15
                · intro y21 y22 y23
                  apply rerunBlock_keeps
                  exact y23
              · rename_i z24
                exact k15
            · rename_i z25 z26
              exact k15
          clear_value x14
          split
          · rename_i z27 z28 z29
            split
            · rename_i z30
              apply closeCrush_keeps
              exact k16
            · rename_i z31
              exact k16
          · rename_i z32 z33
            exact k16

theorem scrambleStaging_keeps {a0 s : State} (h0 : Keeps a0 s) (r : CollRun) : Keeps a0 (scrambleStaging s r) := by
  unfold scrambleStaging
  apply scrambleAt_keeps
  exact h0

theorem writeNorm_keeps {a0 s : State} (h0 : Keeps a0 s) (r : CollRun) (x : Coll) : Keeps a0 (writeNorm s r x) := by
  unfold writeNorm
  extract_lets x0 x1 x2
  clear_value x0
  clear_value x1
  split
  · rename_i z3 z4 z5 z6
    have k7 := Keeps.ofFst z6 (a := a0) (by
        apply itemWrite_keeps
        apply addFlags_keeps
        exact h0)
    apply failItem_keeps
    exact k7
  · rename_i z8 z9 z10
    have k11 := Keeps.ofFst z10 (a := a0) (by
        apply itemWrite_keeps
        apply addFlags_keeps
        exact h0)
    apply addFlagged_keeps
    exact k11

theorem finishColl_keeps {a0 s : State} (h0 : Keeps a0 s) (r : CollRun) (x : Coll) : Keeps a0 (finishColl s r x) := by
  unfold finishColl
  extract_lets x0 x1 x2 x3 x4 x5
  have k6 : Keeps a0 x0 := by
    unfold x0
    apply scrambleStaging_keeps
    exact h0
  clear_value x0
  have k7 : Keeps a0 x1 := by
    unfold x1
    exact Keeps.put k6
  clear_value x1
  have k8 : Keeps a0 x2 := by
    unfold x2
    split
    · rename_i z9
      apply writeNorm_keeps
      exact k7
    · rename_i z10
      exact k7
  clear_value x2
  clear_value x3
  clear_value x4
  have k11 : Keeps a0 x5 := by
    unfold x5
    apply State.modItem_keeps
    split
    · rename_i z12
      apply addFlags_keeps
      exact k8
    · rename_i z13
      exact k8
  clear_value x5
  split
  · rename_i z14
    apply State.modItem_keeps
    exact k11
  · rename_i z15
    apply collShed_keeps
    apply issued_keeps
    exact k11

theorem advanceColl_keeps {a0 s : State} (h0 : Keeps a0 s) (item : ItemRef) : Keeps a0 (advanceColl s item) := by
  unfold advanceColl
  split
  · rename_i z0 z1
    exact h0
  · rename_i z2 z3 z4
    split
    · rename_i z5
      exact h0
    · rename_i z6
      split
      · rename_i z7 z8
        exact h0
      · rename_i z9 z10 z11
        extract_lets x12 x13 x14 x15 x16
        clear_value x12
        have k17 : Keeps a0 x13 := by
          unfold x13
          apply settleSlots_keeps
          exact h0
        clear_value x13
        have k18 : Keeps a0 x14 := by
          unfold x14
          apply runFlows_keeps
          exact k17
        clear_value x14
        have k19 : Keeps a0 x15 := by
          unfold x15
          apply runCrush_keeps
          exact k18
        clear_value x15
        have k20 : Keeps a0 x16 := by
          unfold x16
          split
          · rename_i z21
            apply runFlows_keeps
            exact k19
          · rename_i z22
            exact k19
        clear_value x16
        split
        · rename_i z23 z24 z25 z26 z27 z28
          split
          · rename_i z29
            apply finishColl_keeps
            exact k20
          · rename_i z30
            exact k20
        · rename_i z31 z32 z33
          exact k20

theorem collMismatch_keeps {a0 s : State} (h0 : Keeps a0 s) (r : CollRun) (t : CollTag) : Keeps a0 (collMismatch s r t) := by
  unfold collMismatch
  extract_lets x0 x1
  clear_value x0
  have k2 : Keeps a0 x1 := by
    unfold x1
    apply raiseError_keeps
    exact h0
  clear_value x1
  apply failItem_keeps
  exact k2

theorem takeTag_keeps {a0 s : State} (h0 : Keeps a0 s) (r : CollRun) (came : Nat) (t : CollTag) : Keeps a0 (takeTag s r came t) := by
  unfold takeTag
  split
  · rename_i z0 z1
    exact h0
  · rename_i z2 z3 z4
    split
    · rename_i z5
      apply collMismatch_keeps
      exact h0
    · rename_i z6
      split
      · rename_i z7
        split
        · rename_i z8
          apply modCollOf_keeps
          exact h0
        · rename_i z9
          extract_lets x10
          clear_value x10
          split
          · rename_i z11
            apply modCollOf_keeps
            exact h0
          · rename_i z12
            apply collMismatch_keeps
            exact h0
      · rename_i z13
        split
        · rename_i z14 z15
          apply collMismatch_keeps
          exact h0
        · rename_i z16 z17 z18
          split
          · rename_i z19
            apply collMismatch_keeps
            exact h0
          · rename_i z20
            extract_lets x21 x22
            clear_value x21
            clear_value x22
            apply modCollOf_keeps
            exact h0

theorem holdEarly_keeps {a0 s : State} (h0 : Keeps a0 s) (t : CollTag) : Keeps a0 (holdEarly s t) := by
  unfold holdEarly
  extract_lets x0
  have k1 : Keeps a0 x0 := by
    unfold x0
    split
    · rename_i z2
      exact h0
    · rename_i z3
      exact Keeps.put h0
  clear_value x0
  apply State.modColl_keeps
  exact k1

theorem beginColl_keeps {a0 s : State} (h0 : Keeps a0 s) (r : CollRun) (number : Nat) (version : Nat) (value : Option W64) : Keeps a0 (beginColl s r number version value) := by
  unfold beginColl
  extract_lets x0 x1 x2 x3
  clear_value x0
  clear_value x1
  clear_value x2
  have k4 : Keeps a0 x3 := by
    unfold x3
    exact Keeps.put h0
  clear_value x3
  apply Keeps.fold
  · exact k4
  · intro y5 y6 y7
    apply takeTag_keeps
    exact y7

theorem grantCredits_keeps {a0 s : State} (h0 : Keeps a0 s) (r : CollRun) (number : Nat) : Keeps a0 (grantCredits s r number) := by
  unfold grantCredits
  apply Keeps.fold
  · exact h0
  · intro y0 y1 y2
    apply sendColl_keeps
    exact y2

theorem takeOwnPin_keeps {a0 s : State} (h0 : Keeps a0 s) (i : Item) (a : Nat) : Keeps a0 (takeOwnPin s i a) := by
  unfold takeOwnPin
  split
  · rename_i z0
    exact h0
  · rename_i z1
    split
    · rename_i z2 z3 z4 z5
      have k6 := Keeps.ofFst z5 (a := a0) (by
          apply readRecord_keeps
          exact h0)
      apply failItem_keeps
      exact k6
    · rename_i z7 z8 z9
      have k10 := Keeps.ofFst z9 (a := a0) (by
          apply readRecord_keeps
          exact h0)
      exact k10
    · rename_i z11 z12 z13 z14
      have k15 := Keeps.ofFst z14 (a := a0) (by
          apply readRecord_keeps
          exact h0)
      extract_lets x16 x17
      clear_value x16
      clear_value x17
      split
      · rename_i z18
        apply forgetLine_keeps
        exact k15
      · rename_i z19
        split
        · rename_i z20 z21 z22 z23
          have k24 := Keeps.ofFst z23 (a := a0) (by
              apply casRecord_keeps
              exact k15)
          split
          · rename_i z25
            apply State.modItem_keeps
            exact k24
          · rename_i z26
            apply forgetLine_keeps
            exact k24
        · rename_i z27 z28 z29
          have k30 := Keeps.ofFst z29 (a := a0) (by
              apply casRecord_keeps
              exact k15)
          exact k30
        · rename_i z31 z32 z33 z34
          have k35 := Keeps.ofFst z34 (a := a0) (by
              apply casRecord_keeps
              exact k15)
          apply failItem_keeps
          exact k35

theorem takeFold_keeps {a0 s : State} (h0 : Keeps a0 s) (i : Item) (acc : Nat) : Keeps a0 (takeFold s i acc).1 := by
  unfold takeFold
  extract_lets x0 x1
  have k2 : Keeps a0 x0 := by
    unfold x0
    apply settleFolds_keeps
    exact h0
  clear_value x0
  clear_value x1
  dsimp only
  apply State.modCtx_keeps
  exact k2

theorem waitClaim_keeps {a0 s : State} (h0 : Keeps a0 s) (i : Item) : Keeps a0 (waitClaim s i) := by
  unfold waitClaim
  apply tryClaim_keeps
  apply State.modItem_keeps
  exact h0

theorem startColl_keeps {a0 s : State} (h0 : Keeps a0 s) (i : Item) : Keeps a0 (startColl s i) := by
  unfold startColl
  split
  · rename_i z0 z1 z2 z3 z4 z5
    split
    · rename_i z6 z7 z8 z9
      have k10 := Keeps.ofFst z9 (a := a0) (by
          split
          · rename_i z11
            extract_lets x12
            have k13 : Keeps a0 x12.1 := by
              unfold x12
              apply takeFold_keeps
              exact h0
            clear_value x12
            exact k13
          · rename_i z14
            exact h0)
      extract_lets x15 x16
      have k17 : Keeps a0 x15 := by
        unfold x15
        apply State.modItem_keeps
        apply beginColl_keeps
        exact k10
      clear_value x15
      have k18 : Keeps a0 x16 := by
        unfold x16
        split
        · rename_i z19
          apply grantCredits_keeps
          exact k17
        · rename_i z20
          exact k17
      clear_value x16
      apply advanceColl_keeps
      apply collGrab_keeps
      exact k18
  · rename_i z21 z22 z23
    exact h0

theorem runColl_keeps {a0 s : State} (h0 : Keeps a0 s) (i : Item) : Keeps a0 (runColl s i) := by
  unfold runColl
  split
  · rename_i z0
    apply advanceColl_keeps
    exact h0
  · rename_i z1
    extract_lets x2 x3
    clear_value x2
    have k4 : Keeps a0 x3 := by
      unfold x3
      split
      · rename_i z5
        apply takeOwnPin_keeps
        exact h0
      · rename_i z6
        exact h0
    clear_value x3
    split
    · rename_i z7 z8
      exact k4
    · rename_i z9 z10 z11
      split
      · rename_i z12
        exact k4
      · rename_i z13
        split
        · rename_i z14
          extract_lets x15
          have k16 : Keeps a0 x15 := by
            unfold x15
            apply waitClaim_keeps
            exact k4
          clear_value x15
          split
          · rename_i z17 z18 z19
            split
            · rename_i z20
              apply startColl_keeps
              exact k16
            · rename_i z21
              exact k16
          · rename_i z22 z23
            exact k16
        · rename_i z24
          apply startColl_keeps
          exact k4

theorem execReduceScatter_keeps {a0 s : State} (h0 : Keeps a0 s) (c : CtxIx) (seq : Nat) : OutKeeps a0 (execReduceScatter c seq s) := by
  unfold execReduceScatter
  apply OutKeeps.next
  split
  · rename_i z0 z1 z2
    apply runColl_keeps
    exact h0
  · rename_i z3 z4
    exact h0

theorem execAllGather_keeps {a0 s : State} (h0 : Keeps a0 s) (c : CtxIx) (seq : Nat) : OutKeeps a0 (execAllGather c seq s) := by
  unfold execAllGather
  apply OutKeeps.next
  split
  · rename_i z0 z1 z2
    apply runColl_keeps
    exact h0
  · rename_i z3 z4
    exact h0

theorem execAllReduce_keeps {a0 s : State} (h0 : Keeps a0 s) (c : CtxIx) (seq : Nat) : OutKeeps a0 (execAllReduce c seq s) := by
  unfold execAllReduce
  apply OutKeeps.next
  split
  · rename_i z0 z1 z2
    apply runColl_keeps
    exact h0
  · rename_i z3 z4
    exact h0

theorem execBroadcast_keeps {a0 s : State} (h0 : Keeps a0 s) (c : CtxIx) (seq : Nat) : OutKeeps a0 (execBroadcast c seq s) := by
  unfold execBroadcast
  apply OutKeeps.next
  split
  · rename_i z0 z1 z2
    apply runColl_keeps
    exact h0
  · rename_i z3 z4
    exact h0

theorem execAllToAll_keeps {a0 s : State} (h0 : Keeps a0 s) (c : CtxIx) (seq : Nat) : OutKeeps a0 (execAllToAll c seq s) := by
  unfold execAllToAll
  apply OutKeeps.next
  split
  · rename_i z0 z1 z2
    apply runColl_keeps
    exact h0
  · rename_i z3 z4
    exact h0

theorem execNormAllreduce_keeps {a0 s : State} (h0 : Keeps a0 s) (c : CtxIx) (seq : Nat) : OutKeeps a0 (execNormAllreduce c seq s) := by
  unfold execNormAllreduce
  apply OutKeeps.next
  split
  · rename_i z0 z1 z2
    apply runColl_keeps
    exact h0
  · rename_i z3 z4
    exact h0

theorem gatherCommit_keeps {a0 s : State} (h0 : Keeps a0 s) (i : Item) : Keeps a0 (gatherCommit s i) := by
  unfold gatherCommit
  split
  · rename_i z0 z1 z2 z3 z4 z5 z6
    split
    · rename_i z7
      exact h0
    · rename_i z8
      split
      · rename_i z9 z10 z11 z12
        have k13 := Keeps.ofFst z12 (a := a0) (by
            apply recordWrite_keeps
            exact h0)
        apply failItem_keeps
        exact k13
      · rename_i z14 z15 z16
        have k17 := Keeps.ofFst z16 (a := a0) (by
            apply recordWrite_keeps
            exact h0)
        split
        · rename_i z18 z19 z20
          split
          · rename_i z21
            exact k17
          · rename_i z22
            apply commitBuffer_keeps
            exact k17
        · rename_i z23 z24
          exact k17
  · rename_i z25 z26 z27
    exact h0

theorem execVersionedGatherCommit_keeps {a0 s : State} (h0 : Keeps a0 s) (c : CtxIx) (seq : Nat) : OutKeeps a0 (execVersionedGatherCommit c seq s) := by
  unfold execVersionedGatherCommit
  apply OutKeeps.next
  split
  · rename_i z0 z1 z2
    split
    · rename_i z3
      apply gatherCommit_keeps
      exact h0
    · rename_i z4
      exact h0
  · rename_i z5 z6
    exact h0

theorem execChunkDeadline_keeps {a0 s : State} (h0 : Keeps a0 s) (c : CtxIx) (seq : Nat) (chunk : Nat) : OutKeeps a0 (execChunkDeadline c seq chunk s) := by
  unfold execChunkDeadline
  apply OutKeeps.next
  split
  · rename_i z0 z1 z2
    split
    · rename_i z3 z4 z5
      split
      · rename_i z6 z7 z8 z9
        split
        · rename_i z10
          exact h0
        · rename_i z11
          apply advanceColl_keeps
          apply modCollOf_keeps
          apply State.upTo_keeps
          exact h0
      · rename_i z12 z13
        exact h0
    · rename_i z14 z15
      exact h0
  · rename_i z16 z17
    exact h0

theorem lateArrive_keeps {a0 s : State} (h0 : Keeps a0 s) (y : LateCopy) : Keeps a0 (lateArrive s y) := by
  unfold lateArrive
  split
  · rename_i z0
    exact Keeps.put h0
  · rename_i z1
    extract_lets x2
    have k3 : Keeps a0 x2 := by
      unfold x2
      exact Keeps.put h0
    clear_value x2
    split
    · rename_i z4 z5 z6
      extract_lets x7
      clear_value x7
      apply sendAck_keeps
      apply sendNotUsed_keeps
      exact k3
    · rename_i z8 z9
      exact k3

theorem collArrive_keeps {a0 s : State} (h0 : Keeps a0 s) (k : Packet) : Keeps a0 (collArrive s k) := by
  unfold collArrive
  extract_lets x0
  clear_value x0
  split
  · rename_i z1 z2 z3
    apply lateArrive_keeps
    exact h0
  · rename_i z4 z5
    split
    · rename_i z6
      exact h0
    · rename_i z7
      split
      · rename_i z8 z9 z10
        split
        · rename_i z11
          apply holdEarly_keeps
          exact h0
        · rename_i z12
          split
          · rename_i z13 z14 z15
            split
            · rename_i z16 z17 z18
              apply advanceColl_keeps
              apply takeTag_keeps
              exact h0
            · rename_i z19 z20
              exact h0
          · rename_i z21 z22
            exact h0
      · rename_i z23 z24
        apply holdEarly_keeps
        exact h0

theorem crushArrive_keeps {a0 s : State} (h0 : Keeps a0 s) (p : Nat) (k : Packet) : Keeps a0 (crushArrive s p k) := by
  unfold crushArrive
  split
  · rename_i z0 z1
    exact h0
  · rename_i z2 z3 z4
    extract_lets x5
    have k6 : Keeps a0 x5 := by
      unfold x5
      apply State.modColl_keeps
      exact h0
    clear_value x5
    split
    · rename_i z7
      apply advanceColl_keeps
      exact k6
    · rename_i z8
      exact k6

theorem notUsedArrive_keeps {a0 s : State} (h0 : Keeps a0 s) (m : FabMsg) : Keeps a0 (notUsedArrive s m) := by
  unfold notUsedArrive
  split
  · rename_i z0 z1 z2 z3
    extract_lets x4
    have k5 : Keeps a0 x4 := by
      unfold x4
      apply modCollOf_keeps
      exact h0
    clear_value x4
    split
    · rename_i z6 z7 z8 z9 z10 z11
      split
      · rename_i z12
        apply State.modItem_keeps
        exact k5
      · rename_i z13
        exact k5
    · rename_i z14 z15 z16
      exact k5
  · rename_i z17 z18
    exact h0

theorem crushDoneArrive_keeps {a0 s : State} (h0 : Keeps a0 s) (m : FabMsg) : Keeps a0 (crushDoneArrive s m) := by
  unfold crushDoneArrive
  split
  · rename_i z0 z1 z2 z3
    extract_lets x4
    clear_value x4
    split
    · rename_i z5
      exact h0
    · rename_i z6
      apply advanceColl_keeps
      apply modCollOf_keeps
      exact h0
  · rename_i z7 z8
    exact h0

/-! ## Machine/Hearth.lean -/

theorem execGeneratorLock_keeps {a0 s : State} (h0 : Keeps a0 s) (d : DieIx) : OutKeeps a0 (execGeneratorLock d s) := by
  unfold execGeneratorLock
  apply OutKeeps.next
  split
  · rename_i z0
    apply moveLevels_keeps
    apply State.modDie_keeps
    exact h0
  · rename_i z1
    exact h0

theorem stepVoltage_keeps {a0 s : State} (h0 : Keeps a0 s) (g : Nat) : Keeps a0 (stepVoltage s g) := by
  unfold stepVoltage
  extract_lets x0 x1 x2 x3
  clear_value x0
  clear_value x1
  have k4 : Keeps a0 x2 := by
    unfold x2
    apply State.upTo_keeps
    exact h0
  clear_value x2
  have k5 : Keeps a0 x3 := by
    unfold x3
    apply modGroup_keeps
    exact k4
  clear_value x3
  split
  · rename_i z6
    exact h0
  · rename_i z7
    apply moveLevels_keeps
    apply Keeps.fold
    · exact k5
    · intro y8 y9 y10
      apply State.modDie_keeps
      exact y10

theorem execVoltageStep_keeps {a0 s : State} (h0 : Keeps a0 s) (g : Fin 8) : OutKeeps a0 (execVoltageStep g s) := by
  unfold execVoltageStep
  apply OutKeeps.next
  split
  · rename_i z0
    apply stepVoltage_keeps
    exact h0
  · rename_i z1
    exact h0

theorem execDroopDetect_keeps {a0 s : State} (h0 : Keeps a0 s) (d : DieIx) (mv : Nat) : OutKeeps a0 (execDroopDetect d mv s) := by
  unfold execDroopDetect
  apply OutKeeps.next
  split
  · rename_i z0
    apply withCaps_keeps
    · exact h0
    · intro y1 y2
      extract_lets x3
      have k4 : Keeps a0 x3 := by
        unfold x3
        apply State.modDie_keeps
        exact y2
      clear_value x3
      apply State.modHearth_keeps
      apply modGroup_keeps
      exact k4
  · rename_i z5
    exact h0

theorem execDroopClear_keeps {a0 s : State} (h0 : Keeps a0 s) (d : DieIx) : OutKeeps a0 (execDroopClear d s) := by
  unfold execDroopClear
  apply OutKeeps.next
  split
  · rename_i z0
    apply withCaps_keeps
    · exact h0
    · intro y1 y2
      apply State.modHearth_keeps
      apply modGroup_keeps
      apply State.modDie_keeps
      exact y2
  · rename_i z3
    exact h0

theorem execDroopHoldExpiry_keeps {a0 s : State} (h0 : Keeps a0 s) (g : Fin 8) : OutKeeps a0 (execDroopHoldExpiry g s) := by
  unfold execDroopHoldExpiry
  apply OutKeeps.next
  extract_lets x0
  clear_value x0
  split
  · rename_i z1
    apply moveLevels_keeps
    apply modGroup_keeps
    apply State.upTo_keeps
    exact h0
  · rename_i z2
    exact h0

theorem execRailSense_keeps {a0 s : State} (h0 : Keeps a0 s) (r : List RailReading) : OutKeeps a0 (execRailSense r s) := by
  unfold execRailSense
  apply OutKeeps.next
  split
  · rename_i z0
    extract_lets x1
    have k2 : Keeps a0 x1 := by
      unfold x1
      apply State.upTo_keeps
      exact h0
    clear_value x1
    apply State.modHearth_keeps
    exact k2
  · rename_i z3
    exact h0

theorem execRegAlertAssert_keeps {a0 s : State} (h0 : Keeps a0 s) (i : PortIx) : OutKeeps a0 (execRegAlertAssert i s) := by
  unfold execRegAlertAssert
  apply OutKeeps.next
  split
  · rename_i z0
    apply withCaps_keeps
    · exact h0
    · intro y1 y2
      extract_lets x3 x4
      have k5 : Keeps a0 x4 := by
        unfold x4
        exact Keeps.put y2
      clear_value x4
      apply State.modHearth_keeps
      exact k5
  · rename_i z6
    exact h0

theorem execRegAlertDeassert_keeps {a0 s : State} (h0 : Keeps a0 s) (i : PortIx) : OutKeeps a0 (execRegAlertDeassert i s) := by
  unfold execRegAlertDeassert
  apply OutKeeps.next
  split
  · rename_i z0
    apply State.modHearth_keeps
    exact h0
  · rename_i z1
    exact h0

theorem execAlertHoldExpiry_keeps {a0 s : State} (h0 : Keeps a0 s) : OutKeeps a0 (execAlertHoldExpiry s) := by
  unfold execAlertHoldExpiry
  apply OutKeeps.next
  split
  · rename_i z0 z1 z2
    split
    · rename_i z3
      apply State.modHearth_keeps
      apply State.upTo_keeps
      exact h0
    · rename_i z4
      exact h0
  · rename_i z5 z6
    exact h0

theorem execPowerFault_keeps {a0 s : State} (h0 : Keeps a0 s) (i : PortIx) : OutKeeps a0 (execPowerFault i s) := by
  unfold execPowerFault
  apply OutKeeps.next
  split
  · rename_i z0
    extract_lets x1
    have k2 : Keeps a0 x1 := by
      unfold x1
      apply State.upTo_keeps
      exact h0
    clear_value x1
    apply enterSafe_keeps
    apply raiseError_keeps
    exact k2
  · rename_i z3
    exact h0

theorem refreshHint_keeps {a0 s : State} (h0 : Keeps a0 s) (f : Hearth → Hearth) : Keeps a0 (refreshHint s f) := by
  unfold refreshHint
  apply withCaps_keeps
  · exact h0
  · intro y0 y1
    extract_lets x2
    have k3 : Keeps a0 x2 := by
      unfold x2
      apply State.modHearth_keeps
      exact y1
    clear_value x2
    apply State.modHearth_keeps
    exact k3

theorem recordHint_keeps {a0 s : State} (h0 : Keeps a0 s) (r : ItemRef) (duration : Nat) (power : Nat) (lead : Nat) : Keeps a0 (recordHint s r duration power lead) := by
  unfold recordHint
  extract_lets x0
  clear_value x0
  apply State.modHearth_keeps
  exact h0

theorem execHintPhaseStart_keeps {a0 s : State} (h0 : Keeps a0 s) (c : CtxIx) (seq : Nat) : OutKeeps a0 (execHintPhaseStart c seq s) := by
  unfold execHintPhaseStart
  apply OutKeeps.next
  split
  · rename_i z0 z1 z2
    split
    · rename_i z3
      apply refreshHint_keeps
      apply State.upTo_keeps
      exact h0
    · rename_i z4
      exact h0
  · rename_i z5 z6
    exact h0

theorem execHintPhaseEnd_keeps {a0 s : State} (h0 : Keeps a0 s) (c : CtxIx) (seq : Nat) : OutKeeps a0 (execHintPhaseEnd c seq s) := by
  unfold execHintPhaseEnd
  apply OutKeeps.next
  split
  · rename_i z0 z1 z2
    split
    · rename_i z3
      apply refreshHint_keeps
      apply State.upTo_keeps
      exact h0
    · rename_i z4
      exact h0
  · rename_i z5 z6
    exact h0

theorem execDieTempRead_keeps {a0 s : State} (h0 : Keeps a0 s) (t : List (List Byte)) : OutKeeps a0 (execDieTempRead t s) := by
  unfold execDieTempRead
  apply OutKeeps.next
  split
  · rename_i z0
    apply withCaps_keeps
    · exact h0
    · intro y1 y2
      extract_lets x3 x4
      clear_value x3
      have k5 : Keeps a0 x4 := by
        unfold x4
        exact Keeps.put' y2 (by simp +contextual [State.HasUnits])
      clear_value x4
      apply State.modHearth_keeps
      exact k5
  · rename_i z6
    exact h0

theorem execThermalCapStep_keeps {a0 s : State} (h0 : Keeps a0 s) (d : DieIx) : OutKeeps a0 (execThermalCapStep d s) := by
  unfold execThermalCapStep
  apply OutKeeps.next
  extract_lets x0
  clear_value x0
  split
  · rename_i z1
    exact h0
  · rename_i z2
    split
    · rename_i z3
      apply withCaps_keeps
      · apply State.upTo_keeps
        exact h0
      · intro y4 y5
        apply State.modDie_keeps
        exact y5
    · rename_i z6
      split
      · rename_i z7
        apply withCaps_keeps
        · apply State.upTo_keeps
          exact h0
        · intro y8 y9
          apply State.modDie_keeps
          exact y9
      · rename_i z10
        exact h0

theorem execThermalTrip_keeps {a0 s : State} (h0 : Keeps a0 s) (unit : Byte) (temp : Byte) : OutKeeps a0 (execThermalTrip unit temp s) := by
  unfold execThermalTrip
  apply OutKeeps.next
  split
  · rename_i z0
    exact h0
  · rename_i z1
    extract_lets x2 x3
    have k4 : Keeps a0 x3 := by
      unfold x3
      exact Keeps.put h0
    clear_value x3
    split
    · rename_i z5 z6
      exact h0
    · rename_i z7 z8
      apply enterSafe_keeps
      apply raiseError_keeps
      exact k4
    · rename_i z9 z10
      apply enterSafe_keeps
      exact k4
    · rename_i z11 z12
      apply enterSafe_keeps
      exact k4

/-! ## Machine/Front.lean -/

theorem flushRange_keeps {a0 s : State} (h0 : Keeps a0 s) (i : Item) : Keeps a0 (flushRange s i) := by
  unfold flushRange
  extract_lets x0 x1
  clear_value x0
  have k2 : Keeps a0 x1.s := by
    unfold x1
    apply writeBackAll_keeps
    exact h0
  clear_value x1
  apply State.modItem_keeps
  exact k2

theorem acquireRange_keeps {a0 s : State} (h0 : Keeps a0 s) (i : Item) : Keeps a0 (acquireRange s i) := by
  unfold acquireRange
  apply acquire_keeps
  exact h0

theorem execFenceWrite_keeps {a0 s : State} (h0 : Keeps a0 s) (c : CtxIx) (seq : Nat) : OutKeeps a0 (execFenceWrite c seq s) := by
  unfold execFenceWrite
  apply OutKeeps.next
  split
  · rename_i z0 z1 z2
    extract_lets x3
    have k4 : Keeps a0 x3 := by
      unfold x3
      apply startItem_keeps
      exact h0
    clear_value x3
    apply issued_keeps
    split
    · rename_i z5
      apply flushRange_keeps
      exact k4
    · rename_i z6
      exact k4
  · rename_i z7 z8
    exact h0

theorem execFenceAcquire_keeps {a0 s : State} (h0 : Keeps a0 s) (c : CtxIx) (seq : Nat) : OutKeeps a0 (execFenceAcquire c seq s) := by
  unfold execFenceAcquire
  apply OutKeeps.next
  split
  · rename_i z0 z1 z2
    apply issued_keeps
    apply acquireRange_keeps
    apply startItem_keeps
    exact h0
  · rename_i z3 z4
    exact h0

theorem execFenceFull_keeps {a0 s : State} (h0 : Keeps a0 s) (c : CtxIx) (seq : Nat) : OutKeeps a0 (execFenceFull c seq s) := by
  unfold execFenceFull
  apply OutKeeps.next
  split
  · rename_i z0 z1 z2
    extract_lets x3
    have k4 : Keeps a0 x3 := by
      unfold x3
      apply startItem_keeps
      exact h0
    clear_value x3
    apply issued_keeps
    apply acquireRange_keeps
    split
    · rename_i z5
      apply flushRange_keeps
      exact k4
    · rename_i z6
      exact k4
  · rename_i z7 z8
    exact h0

theorem execHint_keeps {a0 s : State} (h0 : Keeps a0 s) (c : CtxIx) (seq : Nat) : OutKeeps a0 (execHint c seq s) := by
  unfold execHint
  apply OutKeeps.next
  split
  · rename_i z0 z1 z2
    apply issued_keeps
    apply recordHint_keeps
    apply startItem_keeps
    exact h0
  · rename_i z3 z4
    exact h0

theorem execNote_keeps {a0 s : State} (h0 : Keeps a0 s) (c : CtxIx) (seq : Nat) : OutKeeps a0 (execNote c seq s) := by
  unfold execNote
  apply OutKeeps.next
  split
  · rename_i z0 z1 z2
    apply endItem_keeps
    apply startItem_keeps
    exact h0
  · rename_i z3 z4
    exact h0

theorem execPinRelease_keeps {a0 s : State} (h0 : Keeps a0 s) (c : CtxIx) (seq : Nat) : OutKeeps a0 (execPinRelease c seq s) := by
  unfold execPinRelease
  apply OutKeeps.next
  split
  · rename_i z0 z1 z2
    apply endItem_keeps
    apply releasePins_keeps
    apply startItem_keeps
    exact h0
  · rename_i z3 z4
    exact h0

theorem execPublish_keeps {a0 s : State} (h0 : Keeps a0 s) (c : CtxIx) (seq : Nat) : OutKeeps a0 (execPublish c seq s) := by
  unfold execPublish
  apply OutKeeps.next
  split
  · rename_i z0 z1 z2
    apply addFlagged_keeps
    apply startItem_keeps
    exact h0
  · rename_i z3 z4
    exact h0

theorem waitRead_keeps {a0 s : State} (h0 : Keeps a0 s) (i : Item) (bs : List Byte) : Keeps a0 (waitRead s i bs) := by
  unfold waitRead
  extract_lets x0
  have k1 : Keeps a0 x0 := by
    unfold x0
    apply acquire_keeps
    exact h0
  clear_value x0
  split
  · rename_i z2
    apply endItem_keeps
    exact k1
  · rename_i z3
    apply forgetLine_keeps
    exact k1

theorem pollWait_keeps {a0 s : State} (h0 : Keeps a0 s) (i : Item) : Keeps a0 (pollWait s i) := by
  unfold pollWait
  split
  · rename_i z0 z1 z2 z3
    have k4 := Keeps.ofFst z3 (a := a0) (by
        apply itemRead_keeps
        exact h0)
    apply failItem_keeps
    exact k4
  · rename_i z5 z6 z7
    have k8 := Keeps.ofFst z7 (a := a0) (by
        apply itemRead_keeps
        exact h0)
    exact k8
  · rename_i z9 z10 z11 z12
    have k13 := Keeps.ofFst z12 (a := a0) (by
        apply itemRead_keeps
        exact h0)
    apply waitRead_keeps
    exact k13

theorem waitCame_keeps {a0 s : State} (h0 : Keeps a0 s) (r : ItemRef) : Keeps a0 (waitCame s r) := by
  unfold waitCame
  split
  · rename_i z0 z1 z2
    split
    · rename_i z3
      apply waitRead_keeps
      exact h0
    · rename_i z4
      exact h0
  · rename_i z5 z6
    exact h0

theorem execWait_keeps {a0 s : State} (h0 : Keeps a0 s) (c : CtxIx) (seq : Nat) : OutKeeps a0 (execWait c seq s) := by
  unfold execWait
  apply OutKeeps.next
  split
  · rename_i z0 z1 z2
    apply pollWait_keeps
    apply State.modItem_keeps
    apply startItem_keeps
    exact h0
  · rename_i z3 z4
    exact h0

theorem execMarkWaitPoll_keeps {a0 s : State} (h0 : Keeps a0 s) (c : CtxIx) (seq : Nat) : OutKeeps a0 (execMarkWaitPoll c seq s) := by
  unfold execMarkWaitPoll
  apply OutKeeps.next
  split
  · rename_i z0 z1 z2
    split
    · rename_i z3
      apply pollWait_keeps
      apply State.upTo_keeps
      exact h0
    · rename_i z4
      exact h0
  · rename_i z5 z6
    exact h0

/-! ## Machine/Attic.lean -/

theorem writeCopy_keeps {a0 s : State} (h0 : Keeps a0 s) (r : ItemRef) (head : Nat) (dataAt : Nat) (w0 : W64) (rest : List Byte) (bs : List Byte) : Keeps a0 (writeCopy s r head dataAt w0 rest bs).1 := by
  unfold writeCopy
  split
  · rename_i z0 z1 z2 z3
    have k4 := Keeps.ofFst z3 (a := a0) (by
        apply writeRanges_keeps
        exact h0)
    exact k4
  · rename_i z5 z6 z7
    have k8 := Keeps.ofFst z7 (a := a0) (by
        apply writeRanges_keeps
        exact h0)
    dsimp only
    apply addFlagged_keeps
    exact k8

theorem packCores_keeps {a0 s : State} (h0 : Keeps a0 s) (i : Item) (n : Nat) : Keeps a0 (packCores s i n).1 := by
  unfold packCores
  extract_lets x0
  have k1 : Keeps a0 x0 := by
    unfold x0
    split
    · rename_i z2
      split
      · rename_i z3 z4 z5
        apply takeCores_keeps
        exact h0
      · rename_i z6 z7
        exact h0
    · rename_i z8
      exact h0
  clear_value x0
  split
  · rename_i z9 z10 z11
    exact k1
  · rename_i z12 z13
    exact k1

theorem secureSource_keeps {a0 s : State} (h0 : Keeps a0 s) (i : Item) (d : SnapD) : Keeps a0 (secureSource s i d).1 := by
  unfold secureSource
  split
  · rename_i z0
    exact h0
  · rename_i z1
    split
    · rename_i z2 z3 z4 z5
      have k6 := Keeps.ofFst z5 (a := a0) (by
          apply readRecord_keeps
          exact h0)
      exact k6
    · rename_i z7 z8 z9
      have k10 := Keeps.ofFst z9 (a := a0) (by
          apply readRecord_keeps
          exact h0)
      exact k10
    · rename_i z11 z12 z13 z14
      have k15 := Keeps.ofFst z14 (a := a0) (by
          apply readRecord_keeps
          exact h0)
      exact k15

theorem advOf_keeps {a0 s : State} (h0 : Keeps a0 s) (v : SurvivalCfg) (d : SnapD) (version : Nat) : Keeps a0 (advOf s v d version).1 := by
  unfold advOf
  extract_lets x0
  clear_value x0
  split
  · rename_i z1 z2 z3 z4
    have k5 := Keeps.ofFst z4 (a := a0) (by
        apply heldRead_keeps
        exact h0)
    exact k5

theorem secureMirror_keeps {a0 s : State} (h0 : Keeps a0 s) (i : Item) (d : SnapD) (v : SurvivalCfg) (version : Nat) (adv : Nat) (bs : List Byte) : Keeps a0 (secureMirror s i d v version adv bs) := by
  unfold secureMirror
  extract_lets x0 x1 x2 x3 x4
  clear_value x0
  clear_value x1
  clear_value x2
  clear_value x3
  clear_value x4
  split
  · rename_i z5 z6 z7 z8
    have k9 := Keeps.ofFst z8 (a := a0) (by
        apply writeCopy_keeps
        exact h0)
    apply failItem_keeps
    exact k9
  · rename_i z10 z11 z12
    have k13 := Keeps.ofFst z12 (a := a0) (by
        apply writeCopy_keeps
        exact h0)
    split
    · rename_i z14 z15 z16 z17
      have k18 := Keeps.ofFst z17 (a := a0) (by
          split
          · rename_i z19
            apply writeCopy_keeps
            exact k13
          · rename_i z20
            exact k13)
      apply failItem_keeps
      exact k18
    · rename_i z21 z22 z23
      have k24 := Keeps.ofFst z23 (a := a0) (by
          split
          · rename_i z25
            apply writeCopy_keeps
            exact k13
          · rename_i z26
            exact k13)
      apply issued_keeps
      apply State.modItem_keeps
      exact k24

theorem secureParity_keeps {a0 s : State} (h0 : Keeps a0 s) (i : Item) (d : SnapD) (v : SurvivalCfg) (g : Group) (version : Nat) (adv : Nat) (bs : List Byte) : Keeps a0 (secureParity s i d v g version adv bs) := by
  unfold secureParity
  extract_lets x0 x1 x2
  clear_value x0
  clear_value x1
  clear_value x2
  split
  · rename_i z3 z4 z5 z6
    have k7 := Keeps.ofFst z6 (a := a0) (by
        apply writeCopy_keeps
        exact h0)
    apply failItem_keeps
    exact k7
  · rename_i z8 z9 z10
    have k11 := Keeps.ofFst z10 (a := a0) (by
        apply writeCopy_keeps
        exact h0)
    split
    · rename_i z12
      apply failItem_keeps
      exact k11
    · rename_i z13
      extract_lets x14 x15
      have k16 : Keeps a0 x14 := by
        unfold x14
        apply State.modItem_keeps
        exact k11
      clear_value x14
      clear_value x15
      exact Keeps.put k16

theorem sendParity_keeps {a0 s : State} (h0 : Keeps a0 s) (dev : Nat) (req : Nat) (tag : List Byte) (bs : List Byte) : Keeps a0 (sendParity s dev req tag bs) := by
  unfold sendParity
  extract_lets x0
  clear_value x0
  apply State.sendPacket_keeps
  exact h0

theorem sliceBytes_keeps {a0 s : State} (h0 : Keeps a0 s) (r : ItemRef) (d : SnapD) (dataAt : Nat) (n : Nat) (lo : Nat) (hi : Nat) : Keeps a0 (sliceBytes s r d dataAt n lo hi).1 := by
  unfold sliceBytes
  extract_lets x0
  clear_value x0
  split
  · rename_i z1 z2 z3 z4
    have k5 := Keeps.ofFst z4 (a := a0) (by
        apply itemRead_keeps
        exact h0)
    exact k5
  · rename_i z6 z7
    apply itemRead_keeps
    exact h0

theorem sendSlice_keeps {a0 s : State} (h0 : Keeps a0 s) (r : ItemRef) (d : SnapD) (v : SurvivalCfg) (g : Group) (h : Nat) (m : Nat) : Keeps a0 (sendSlice s r d v g h m).1 := by
  unfold sendSlice
  extract_lets x0
  clear_value x0
  split
  · rename_i z1 z2 z3 z4
    have k5 := Keeps.ofFst z4 (a := a0) (by
        apply sliceBytes_keeps
        exact h0)
    extract_lets x6
    clear_value x6
    dsimp only
    apply Keeps.fold
    · exact k5
    · intro y7 y8 y9
      apply sendParity_keeps
      exact y9
  · rename_i z10 z11
    apply sliceBytes_keeps
    exact h0

theorem pushSlice_keeps {a0 v1 : State} (h0 : Keeps a0 v1) (v0 : Nat) (v2 : ItemRef) (v3 : SnapD) (v4 : SurvivalCfg) (v5 : Group) (v6 : SliceSend) : Keeps a0 (pushSlice v0 v1 v2 v3 v4 v5 v6).1 := by
  induction v0 generalizing v1 v2 v3 v4 v5 v6 with
  | zero =>
    unfold pushSlice
    exact h0
  | succ n ih =>
    unfold pushSlice
    split
    · rename_i z0
      exact h0
    · rename_i z1
      split
      · rename_i z2 z3 z4 z5
        have k6 := Keeps.ofFst z5 (a := a0) (by
            apply sendSlice_keeps
            exact h0)
        apply ih
        exact k6
      · rename_i z7 z8 z9
        have k10 := Keeps.ofFst z9 (a := a0) (by
            apply sendSlice_keeps
            exact h0)
        exact k10
      · rename_i z11 z12 z13 z14
        have k15 := Keeps.ofFst z14 (a := a0) (by
            apply sendSlice_keeps
            exact h0)
        exact k15

theorem pushSlices_keeps {a0 s : State} (h0 : Keeps a0 s) (i : Item) (d : SnapD) (v : SurvivalCfg) (g : Group) (xs : List SliceSend) : Keeps a0 (pushSlices s i d v g xs).1 := by
  unfold pushSlices
  split
  · rename_i z0
    exact h0
  · rename_i z1
    apply Keeps.foldFst
    · exact h0
    · intro y2 y3 y4
      split
      · rename_i z5 z6 z7 z8 z9
        have k10 := Keeps.ofFst z9 (a := a0) (by
            apply pushSlice_keeps
            exact y4)
        exact k10

theorem foldChunks_keeps {a0 v1 : State} (h0 : Keeps a0 v1) (v0 : Nat) (v2 : ItemRef) (v3 : SnapD) (v4 : SurvivalCfg) (v5 : Group) (v6 : Nat) : Keeps a0 (foldChunks v0 v1 v2 v3 v4 v5 v6).1 := by
  induction v0 generalizing v1 v2 v3 v4 v5 v6 with
  | zero =>
    unfold foldChunks
    exact h0
  | succ n ih =>
    unfold foldChunks
    extract_lets x0 x1 x2
    clear_value x0
    clear_value x1
    clear_value x2
    split
    · rename_i z3
      exact h0
    · rename_i z4
      split
      · rename_i z5 z6 z7 z8
        have k9 := Keeps.ofFst z8 (a := a0) (by
            apply itemWrite_keeps
            exact h0)
        extract_lets x10 x11 x12 x13
        have k14 : Keeps a0 x10 := by
          unfold x10
          split
          · rename_i z15 z16
            have k17 := Keeps.ofFst z8 (a := a0) (by
                apply itemWrite_keeps
                exact h0)
            apply failItem_keeps
            exact k9
          · rename_i z18
            have k19 := Keeps.ofFst z8 (a := a0) (by
                apply itemWrite_keeps
                exact h0)
            exact k9
        clear_value x10
        clear_value x11
        have k20 : Keeps a0 x12 := by
          unfold x12
          exact Keeps.put k14
        clear_value x12
        have k21 : Keeps a0 x13 := by
          unfold x13
          apply Keeps.fold
          · exact k20
          · intro y22 y23 y24
            apply sendParity_keeps
            exact y24
        clear_value x13
        apply ih
        exact k21

theorem modRun_keeps {a0 s : State} (h0 : Keeps a0 s) (r : ItemRef) (f : ParityRun → ParityRun) : Keeps a0 (modRun s r f) := by
  unfold modRun
  exact Keeps.put h0

theorem sendNotices_keeps {a0 s : State} (h0 : Keeps a0 s) (d : SnapD) (v : SurvivalCfg) (g : Group) : Keeps a0 (sendNotices s d v g) := by
  unfold sendNotices
  extract_lets x0 x1 x2
  clear_value x0
  have k3 : Keeps a0 x1 := by
    unfold x1
    apply Keeps.fold
    · exact h0
    · intro y4 y5 y6
      apply sendMsg_keeps
      exact y6
  clear_value x1
  clear_value x2
  exact Keeps.put k3

theorem scrambleParity_keeps {a0 s : State} (h0 : Keeps a0 s) (r : ItemRef) (v : SurvivalCfg) (d : SnapD) : Keeps a0 (scrambleParity s r v d) := by
  unfold scrambleParity
  apply scrambleAt_keeps
  exact h0

theorem parityAdvance_keeps {a0 s : State} (h0 : Keeps a0 s) (r : ItemRef) : Keeps a0 (parityAdvance s r) := by
  unfold parityAdvance
  split
  · rename_i z0 z1 z2 z3 z4 z5 z6 z7 z8
    split
    · rename_i z9 z10
      exact h0
    · rename_i z11 z12 z13
      extract_lets x14
      clear_value x14
      split
      · rename_i z15 z16 z17 z18 z19
        have k20 := Keeps.ofFst z19 (a := a0) (by
            apply pushSlices_keeps
            exact h0)
        extract_lets x21 x22 x23
        have k24 : Keeps a0 x21 := by
          unfold x21
          apply modRun_keeps
          exact k20
        clear_value x21
        have k25 : Keeps a0 x22 := by
          unfold x22
          split
          · rename_i z26 z27
            have k28 := Keeps.ofFst z19 (a := a0) (by
                apply pushSlices_keeps
                exact h0)
            apply failItem_keeps
            exact k24
          · rename_i z29
            have k30 := Keeps.ofFst z19 (a := a0) (by
                apply pushSlices_keeps
                exact h0)
            exact k24
        clear_value x22
        clear_value x23
        split
        · rename_i z31 z32 z33 z34
          have k35 := Keeps.ofFst z34 (a := a0) (by
              split
              · rename_i z36
                apply packCores_keeps
                exact k25
              · rename_i z37
                exact k25)
          split
          · rename_i z38 z39 z40 z41
            have k42 := Keeps.ofFst z41 (a := a0) (by
                split
                · rename_i z43
                  apply foldChunks_keeps
                  exact k35
                · rename_i z44
                  exact k35)
            extract_lets x45 x46
            have k47 : Keeps a0 x45 := by
              unfold x45
              apply modRun_keeps
              exact k42
            clear_value x45
            clear_value x46
            split
            · rename_i z48
              exact k47
            · rename_i z49
              split
              · rename_i z50
                split
                · rename_i z51 z52 z53 z54
                  have k55 := Keeps.ofFst z54 (a := a0) (by
                      apply writeRanges_keeps
                      apply modRun_keeps
                      apply scrambleParity_keeps
                      exact k47)
                  apply failItem_keeps
                  exact k55
                · rename_i z56 z57 z58
                  have k59 := Keeps.ofFst z58 (a := a0) (by
                      apply writeRanges_keeps
                      apply modRun_keeps
                      apply scrambleParity_keeps
                      exact k47)
                  apply addFlagged_keeps
                  exact k59
              · rename_i z60
                split
                · rename_i z61 z62
                  exact k47
                · rename_i z63 z64 z65
                  extract_lets x66
                  have k67 : Keeps a0 x66 := by
                    unfold x66
                    split
                    · rename_i z68
                      apply modRun_keeps
                      apply sendNotices_keeps
                      exact k47
                    · rename_i z69
                      exact k47
                  clear_value x66
                  split
                  · rename_i z70
                    apply issued_keeps
                    exact k67
                  · rename_i z71
                    exact k67
  · rename_i z72 z73 z74 z75
    exact h0

theorem beginRound_keeps {a0 s : State} (h0 : Keeps a0 s) (d : SnapD) : Keeps a0 (beginRound s d) := by
  unfold beginRound
  split
  · rename_i z0
    exact h0
  · rename_i z1
    exact Keeps.put h0

theorem secureBytes_keeps {a0 s : State} (h0 : Keeps a0 s) (i : Item) (d : SnapD) (v : SurvivalCfg) (version : Nat) (adv : Nat) (bs : List Byte) : Keeps a0 (secureBytes s i d v version adv bs) := by
  unfold secureBytes
  split
  · rename_i z0
    split
    · rename_i z1 z2 z3
      apply parityAdvance_keeps
      apply secureParity_keeps
      exact h0
    · rename_i z4 z5
      apply secureMirror_keeps
      exact h0
  · rename_i z6
    apply secureMirror_keeps
    exact h0

theorem runSecure_keeps {a0 s : State} (h0 : Keeps a0 s) (i : Item) (d : SnapD) (v : SurvivalCfg) : Keeps a0 (runSecure s i d v) := by
  unfold runSecure
  split
  · rename_i z0
    apply parityAdvance_keeps
    exact h0
  · rename_i z1
    split
    · rename_i z2
      apply endItem_keeps
      exact h0
    · rename_i z3
      split
      · rename_i z4 z5 z6 z7
        have k8 := Keeps.ofFst z7 (a := a0) (by
            apply secureSource_keeps
            apply beginRound_keeps
            exact h0)
        apply failItem_keeps
        exact k8
      · rename_i z9 z10 z11
        have k12 := Keeps.ofFst z11 (a := a0) (by
            apply secureSource_keeps
            apply beginRound_keeps
            exact h0)
        exact k12
      · rename_i z13 z14 z15 z16 z17
        have k18 := Keeps.ofFst z17 (a := a0) (by
            apply secureSource_keeps
            apply beginRound_keeps
            exact h0)
        split
        · rename_i z19 z20 z21 z22
          have k23 : Keeps a0 z20 := Keeps.ofGot z22 (by
              apply getRanges_keeps
              exact k18)
          apply failItem_keeps
          exact k23
        · rename_i z24 z25 z26
          have k27 : Keeps a0 z25 := Keeps.ofGot z26 (by
              apply getRanges_keeps
              exact k18)
          exact k27
        · rename_i z28 z29 z30 z31
          have k32 : Keeps a0 z29 := Keeps.ofGot z31 (by
              apply getRanges_keeps
              exact k18)
          split
          · rename_i z33 z34 z35 z36
            have k37 := Keeps.ofFst z36 (a := a0) (by
                apply advOf_keeps
                exact k32)
            apply secureBytes_keeps
            exact k37
          · rename_i z38 z39 z40
            have k41 := Keeps.ofFst z40 (a := a0) (by
                apply advOf_keeps
                exact k32)
            exact k41

theorem execSecure_keeps {a0 s : State} (h0 : Keeps a0 s) (c : CtxIx) (seq : Nat) : OutKeeps a0 (execSecure c seq s) := by
  unfold execSecure
  apply OutKeeps.next
  split
  · rename_i z0 z1 z2 z3 z4
    apply runSecure_keeps
    exact h0
  · rename_i z5 z6
    exact h0

theorem parityMismatch_keeps {a0 s : State} (h0 : Keeps a0 s) (i : Item) (t : CollTag) : Keeps a0 (parityMismatch s i t) := by
  unfold parityMismatch
  extract_lets x0 x1
  clear_value x0
  have k2 : Keeps a0 x1 := by
    unfold x1
    apply raiseError_keeps
    exact h0
  clear_value x1
  apply failItem_keeps
  exact k2

theorem parityArrive_keeps {a0 s : State} (h0 : Keeps a0 s) (k : Packet) : Keeps a0 (parityArrive s k) := by
  unfold parityArrive
  extract_lets x0 x1 x2
  clear_value x0
  clear_value x1
  split
  · rename_i z3
    exact h0
  · rename_i z4
    split
    · rename_i z5
      split
      · rename_i z6 z7 z8
        apply parityAdvance_keeps
        apply modRun_keeps
        exact h0
      · rename_i z9 z10
        exact h0
    · rename_i z11
      split
      · rename_i z12 z13 z14
        extract_lets x15
        clear_value x15
        split
        · rename_i z16
          apply parityMismatch_keeps
          exact h0
        · rename_i z17
          apply parityAdvance_keeps
          dsimp only [x2]
          exact Keeps.put h0
      · rename_i z18 z19
        dsimp only [x2]
        exact Keeps.put h0

theorem foldNoticeArrive_keeps {a0 s : State} (h0 : Keeps a0 s) (m : FabMsg) : Keeps a0 (foldNoticeArrive s m) := by
  unfold foldNoticeArrive
  extract_lets x0 x1 x2 x3
  clear_value x0
  clear_value x1
  clear_value x2
  have k4 : Keeps a0 x3 := by
    unfold x3
    exact Keeps.put h0
  clear_value x3
  split
  · rename_i z5 z6 z7
    split
    · rename_i z8
      exact h0
    · rename_i z9
      split
      · rename_i z10 z11 z12
        apply parityAdvance_keeps
        exact k4
      · rename_i z13 z14
        exact k4
  · rename_i z15 z16
    exact h0

theorem sendReport_keeps {a0 s : State} (h0 : Keeps a0 s) (v : SurvivalCfg) (g : Group) (round : Nat) (rank : Nat) (cost : Nat) (step : Nat) : Keeps a0 (sendReport s v g round rank cost step) := by
  unfold sendReport
  apply sendMsg_keeps
  exact h0

theorem keepReport_keeps {a0 s : State} (h0 : Keeps a0 s) (round : Nat) (rank : Nat) (cost : Nat) : Keeps a0 (keepReport s round rank cost) := by
  unfold keepReport
  exact Keeps.put h0

theorem manifestWritten_keeps {a0 s : State} (h0 : Keeps a0 s) (i : Item) (d : SnapD) (t : Nat) (a : Nat) : Keeps a0 (manifestWritten s i d t a) := by
  unfold manifestWritten
  apply issued_keeps
  apply State.modItem_keeps
  apply addFlagged_keeps
  exact h0

theorem manifestOut_keeps {a0 s : State} (h0 : Keeps a0 s) (i : Item) (d : SnapD) (t : Nat) (cost : Nat) (a : Nat) : Keeps a0 (manifestOut s i d t cost a) := by
  unfold manifestOut
  split
  · rename_i z0 z1 z2 z3
    have k4 := Keeps.ofFst z3 (a := a0) (by
        apply writeRanges_keeps
        exact h0)
    apply failItem_keeps
    exact k4
  · rename_i z5 z6 z7
    have k8 := Keeps.ofFst z7 (a := a0) (by
        apply writeRanges_keeps
        exact h0)
    apply manifestWritten_keeps
    exact k8

theorem closeAdvance_keeps {a0 s : State} (h0 : Keeps a0 s) (i : Item) (d : SnapD) (v : SurvivalCfg) : Keeps a0 (closeAdvance s i d v) := by
  unfold closeAdvance
  split
  · rename_i z0 z1
    exact h0
  · rename_i z2 z3 z4
    split
    · rename_i z5 z6
      exact h0
    · rename_i z7 z8 z9
      apply manifestOut_keeps
      exact h0

theorem runClose_keeps {a0 s : State} (h0 : Keeps a0 s) (i : Item) (d : SnapD) (v : SurvivalCfg) : Keeps a0 (runClose s i d v) := by
  unfold runClose
  split
  · rename_i z0
    apply closeAdvance_keeps
    exact h0
  · rename_i z1
    split
    · rename_i z2
      split
      · rename_i z3
        apply endItem_keeps
        exact h0
      · rename_i z4
        split
        · rename_i z5 z6
          exact h0
        · rename_i z7 z8 z9
          extract_lets x10 x11 x12
          clear_value x10
          have k13 : Keeps a0 x11 := by
            unfold x11
            apply keepReport_keeps
            apply State.modItem_keeps
            exact h0
          clear_value x11
          have k14 : Keeps a0 x12 := by
            unfold x12
            split
            · rename_i z15
              apply sendReport_keeps
              exact k13
            · rename_i z16
              exact k13
          clear_value x12
          apply closeAdvance_keeps
          exact k14
    · rename_i z17
      split
      · rename_i z18
        apply endItem_keeps
        exact h0
      · rename_i z19
        split
        · rename_i z20 z21
          exact h0
        · rename_i z22 z23 z24
          extract_lets x25 x26 x27
          clear_value x25
          have k28 : Keeps a0 x26 := by
            unfold x26
            apply keepReport_keeps
            apply State.modItem_keeps
            exact h0
          clear_value x26
          have k29 : Keeps a0 x27 := by
            unfold x27
            split
            · rename_i z30
              apply sendReport_keeps
              exact k28
            · rename_i z31
              exact k28
          clear_value x27
          apply closeAdvance_keeps
          exact k29

theorem execClose_keeps {a0 s : State} (h0 : Keeps a0 s) (c : CtxIx) (seq : Nat) : OutKeeps a0 (execClose c seq s) := by
  unfold execClose
  apply OutKeeps.next
  split
  · rename_i z0 z1 z2 z3 z4
    apply runClose_keeps
    exact h0
  · rename_i z5 z6
    exact h0

theorem closeReportArrive_keeps {a0 s : State} (h0 : Keeps a0 s) (m : FabMsg) : Keeps a0 (closeReportArrive s m) := by
  unfold closeReportArrive
  extract_lets x0 x1 x2
  clear_value x0
  clear_value x1
  have k3 : Keeps a0 x2 := by
    unfold x2
    apply keepReport_keeps
    exact h0
  clear_value x2
  split
  · rename_i z4 z5
    exact h0
  · rename_i z6 z7 z8
    split
    · rename_i z9 z10
      exact h0
    · rename_i z11 z12 z13
      split
      · rename_i z14
        exact h0
      · rename_i z15
        extract_lets x16
        have k17 : Keeps a0 x16 := by
          unfold x16
          split
          · rename_i z18
            exact k3
          · rename_i z19
            apply sendReport_keeps
            exact k3
        clear_value x16
        split
        · rename_i z20 z21 z22
          apply closeAdvance_keeps
          exact k17
        · rename_i z23 z24
          exact k17

theorem runPriv_keeps {a0 s : State} (h0 : Keeps a0 s) (i : Item) (d : SnapD) (v : SurvivalCfg) : Keeps a0 (runPriv s i d v) := by
  unfold runPriv
  split
  · rename_i z0 z1 z2 z3
    have k4 : Keeps a0 z1 := Keeps.ofGot z3 (by
        apply getRanges_keeps
        exact h0)
    apply failItem_keeps
    exact k4
  · rename_i z5 z6 z7
    have k8 : Keeps a0 z6 := Keeps.ofGot z7 (by
        apply getRanges_keeps
        exact h0)
    exact k8
  · rename_i z9 z10 z11 z12
    have k13 : Keeps a0 z10 := Keeps.ofGot z12 (by
        apply getRanges_keeps
        exact h0)
    extract_lets x14 x15 x16 x17 x18
    clear_value x14
    clear_value x15
    clear_value x16
    clear_value x17
    clear_value x18
    split
    · rename_i z19 z20 z21 z22
      have k23 := Keeps.ofFst z22 (a := a0) (by
          apply writeCopy_keeps
          exact k13)
      apply failItem_keeps
      exact k23
    · rename_i z24 z25 z26
      have k27 := Keeps.ofFst z26 (a := a0) (by
          apply writeCopy_keeps
          exact k13)
      split
      · rename_i z28 z29 z30 z31
        have k32 := Keeps.ofFst z31 (a := a0) (by
            split
            · rename_i z33
              apply writeCopy_keeps
              exact k27
            · rename_i z34
              exact k27)
        apply failItem_keeps
        exact k32
      · rename_i z35 z36 z37
        have k38 := Keeps.ofFst z37 (a := a0) (by
            split
            · rename_i z39
              apply writeCopy_keeps
              exact k27
            · rename_i z40
              exact k27)
        apply issued_keeps
        exact k38

theorem execPriv_keeps {a0 s : State} (h0 : Keeps a0 s) (c : CtxIx) (seq : Nat) : OutKeeps a0 (execPriv c seq s) := by
  unfold execPriv
  apply OutKeeps.next
  split
  · rename_i z0 z1 z2 z3 z4
    apply runPriv_keeps
    exact h0
  · rename_i z5 z6
    exact h0

theorem packOut_keeps {a0 s : State} (h0 : Keeps a0 s) (i : Item) (d : SnapD) (a : Nat) (version : Nat) (bss : List (List Byte)) : Keeps a0 (packOut s i d a version bss) := by
  unfold packOut
  split
  · rename_i z0 z1 z2 z3
    have k4 := Keeps.ofFst z3 (a := a0) (by
        apply writeRanges_keeps
        exact h0)
    apply failItem_keeps
    exact k4
  · rename_i z5 z6 z7
    have k8 := Keeps.ofFst z7 (a := a0) (by
        apply writeRanges_keeps
        exact h0)
    apply releaseChain_keeps
    apply State.modItem_keeps
    exact k8

theorem packTo_keeps {a0 s : State} (h0 : Keeps a0 s) (i : Item) (d : SnapD) (v : SurvivalCfg) (from_ : Nat) (version : Nat) : Keeps a0 (packTo s i d v from_ version) := by
  unfold packTo
  split
  · rename_i z0 z1 z2 z3
    have k4 : Keeps a0 z1 := Keeps.ofGot z3 (by
        apply getRanges_keeps
        exact h0)
    apply failItem_keeps
    exact k4
  · rename_i z5 z6 z7
    have k8 : Keeps a0 z6 := Keeps.ofGot z7 (by
        apply getRanges_keeps
        exact h0)
    exact k8
  · rename_i z9 z10 z11 z12
    have k13 : Keeps a0 z10 := Keeps.ofGot z12 (by
        apply getRanges_keeps
        exact h0)
    apply packOut_keeps
    exact k13

theorem packEval_keeps {a0 s : State} (h0 : Keeps a0 s) (i : Item) (d : SnapD) (v : SurvivalCfg) (a : Nat) (b : Nat) : Keeps a0 (packEval s i d v a b) := by
  unfold packEval
  split
  · rename_i z0 z1 z2 z3
    have k4 := Keeps.ofFst z3 (a := a0) (by
        apply readRecord_keeps
        exact h0)
    apply failItem_keeps
    exact k4
  · rename_i z5 z6 z7
    have k8 := Keeps.ofFst z7 (a := a0) (by
        apply readRecord_keeps
        exact h0)
    exact k8
  · rename_i z9 z10 z11 z12
    have k13 := Keeps.ofFst z12 (a := a0) (by
        apply readRecord_keeps
        exact h0)
    split
    · rename_i z14 z15 z16
      have k17 := Keeps.ofFst z16 (a := a0) (by
          apply packCores_keeps
          exact k13)
      exact k17
    · rename_i z18 z19 z20
      have k21 := Keeps.ofFst z20 (a := a0) (by
          apply packCores_keeps
          exact k13)
      apply packTo_keeps
      exact k21

theorem shipEval_keeps {a0 s : State} (h0 : Keeps a0 s) (i : Item) (d : SnapD) (v : SurvivalCfg) : Keeps a0 (shipEval s i d v) := by
  unfold shipEval
  split
  · rename_i z0
    exact h0
  · rename_i z1
    extract_lets x2
    have k3 : Keeps a0 x2 := by
      unfold x2
      split
      · rename_i z4 z5 z6 z7 z8
        apply State.modItem_keeps
        apply issueRelease_keeps
        exact h0
      · rename_i z9 z10
        exact h0
    clear_value x2
    split
    · rename_i z11 z12 z13 z14
      have k15 : Keeps a0 z12 := Keeps.ofGot z14 (by
          apply getRanges_keeps
          exact k3)
      apply failItem_keeps
      exact k15
    · rename_i z16 z17 z18
      have k19 : Keeps a0 z17 := Keeps.ofGot z18 (by
          apply getRanges_keeps
          exact k3)
      exact k19
    · rename_i z20 z21 z22 z23
      have k24 : Keeps a0 z21 := Keeps.ofGot z23 (by
          apply getRanges_keeps
          exact k3)
      split
      · rename_i z25 z26 z27 z28
        have k29 := Keeps.ofFst z28 (a := a0) (by
            apply writeRanges_keeps
            exact k24)
        apply failItem_keeps
        exact k29
      · rename_i z30 z31 z32
        have k33 := Keeps.ofFst z32 (a := a0) (by
            apply writeRanges_keeps
            exact k24)
        apply issued_keeps
        exact k33

theorem runEval_keeps {a0 s : State} (h0 : Keeps a0 s) (i : Item) (d : SnapD) (v : SurvivalCfg) : Keeps a0 (runEval s i d v) := by
  unfold runEval
  split
  · rename_i z0
    apply shipEval_keeps
    exact h0
  · rename_i z1
    split
    · rename_i z2 z3 z4 z5 z6
      apply packEval_keeps
      exact h0
    · rename_i z7 z8
      extract_lets x9
      have k10 : Keeps a0 x9 := by
        unfold x9
        apply takeOwnPin_keeps
        exact h0
      clear_value x9
      split
      · rename_i z11 z12 z13
        split
        · rename_i z14 z15 z16 z17 z18
          apply packEval_keeps
          exact k10
        · rename_i z19 z20
          exact k10
      · rename_i z21 z22
        exact k10

theorem execEval_keeps {a0 s : State} (h0 : Keeps a0 s) (c : CtxIx) (seq : Nat) : OutKeeps a0 (execEval c seq s) := by
  unfold execEval
  apply OutKeeps.next
  split
  · rename_i z0 z1 z2 z3 z4
    apply runEval_keeps
    exact h0
  · rename_i z5 z6
    exact h0

theorem bufferAt_keeps {a0 s : State} (h0 : Keeps a0 s) (r : ItemRef) (area : Nat) (round : Nat) (tensor : Nat) (reach : Nat) : Keeps a0 (bufferAt s r area round tensor reach).1 := by
  unfold bufferAt
  split
  · rename_i z0
    exact h0
  · rename_i z1
    split
    · rename_i z2 z3 z4 z5
      have k6 := Keeps.ofFst z5 (a := a0) (by
          apply itemRead_keeps
          exact h0)
      exact k6
    · rename_i z7 z8 z9
      have k10 := Keeps.ofFst z9 (a := a0) (by
          apply itemRead_keeps
          exact h0)
      exact k10
    · rename_i z11 z12 z13 z14
      have k15 := Keeps.ofFst z14 (a := a0) (by
          apply itemRead_keeps
          exact h0)
      exact k15

theorem findCopy_keeps {a0 s : State} (h0 : Keeps a0 s) (r : ItemRef) (area : Nat) (round : Nat) (tensor : Nat) (reach : Nat) : Keeps a0 (findCopy s r area round tensor reach).1 := by
  unfold findCopy
  split
  · rename_i z0 z1 z2 z3 z4
    have k5 := Keeps.ofFst z4 (a := a0) (by
        apply bufferAt_keeps
        exact h0)
    split
    · rename_i z6 z7 z8 z9
      have k10 := Keeps.ofFst z9 (a := a0) (by
          apply itemRead_keeps
          exact k5)
      exact k10
    · rename_i z11 z12 z13
      have k14 := Keeps.ofFst z13 (a := a0) (by
          apply itemRead_keeps
          exact k5)
      exact k14
    · rename_i z15 z16 z17 z18
      have k19 := Keeps.ofFst z18 (a := a0) (by
          apply itemRead_keeps
          exact k5)
      extract_lets x20
      clear_value x20
      split
      · rename_i z21
        exact k19
      · rename_i z22
        exact k19
  · rename_i z23 z24
    apply bufferAt_keeps
    exact h0

theorem writeRestore_keeps {a0 s : State} (h0 : Keeps a0 s) (i : Item) (d : SnapD) (bs : List Byte) : Keeps a0 (writeRestore s i d bs) := by
  unfold writeRestore
  split
  · rename_i z0 z1 z2 z3
    have k4 := Keeps.ofFst z3 (a := a0) (by
        apply writeRanges_keeps
        exact h0)
    apply failItem_keeps
    exact k4
  · rename_i z5 z6 z7
    have k8 := Keeps.ofFst z7 (a := a0) (by
        apply writeRanges_keeps
        exact h0)
    apply issued_keeps
    apply State.modItem_keeps
    exact k8

theorem restoreRead_keeps {a0 s : State} (h0 : Keeps a0 s) (r : ItemRef) (d : SnapD) (a : Nat) (bs : List Byte) : Keeps a0 (restoreRead s r d a bs).1 := by
  unfold restoreRead
  extract_lets x0
  clear_value x0
  apply blur_keeps
  apply State.modItem_keeps
  exact h0

theorem restoreCopy_keeps {a0 s : State} (h0 : Keeps a0 s) (i : Item) (d : SnapD) (area : Nat) : Keeps a0 (restoreCopy s i d area) := by
  unfold restoreCopy
  split
  · rename_i z0 z1 z2 z3
    have k4 := Keeps.ofFst z3 (a := a0) (by
        apply findCopy_keeps
        exact h0)
    apply failItem_keeps
    exact k4
  · rename_i z5 z6 z7
    have k8 := Keeps.ofFst z7 (a := a0) (by
        apply findCopy_keeps
        exact h0)
    exact k8
  · rename_i z9 z10 z11 z12 z13
    have k14 := Keeps.ofFst z13 (a := a0) (by
        apply findCopy_keeps
        exact h0)
    split
    · rename_i z15 z16 z17 z18
      have k19 : Keeps a0 z16 := Keeps.ofGot z18 (by
          apply getRanges_keeps
          exact k14)
      apply failItem_keeps
      exact k19
    · rename_i z20 z21 z22
      have k23 : Keeps a0 z21 := Keeps.ofGot z22 (by
          apply getRanges_keeps
          exact k14)
      exact k23
    · rename_i z24 z25 z26 z27
      have k28 : Keeps a0 z25 := Keeps.ofGot z27 (by
          apply getRanges_keeps
          exact k14)
      split
      · rename_i z29 z30 z31 z32
        have k33 := Keeps.ofFst z32 (a := a0) (by
            apply restoreRead_keeps
            exact k28)
        apply writeRestore_keeps
        exact k33

theorem sourceBytes_keeps {a0 s : State} (h0 : Keeps a0 s) (r : ItemRef) (d : SnapD) (src : Nat × Nat × Bool) (lo : Nat) (len : Nat) : Keeps a0 (sourceBytes s r d src lo len).1 := by
  unfold sourceBytes
  split
  · rename_i z0 z1 z2 z3
    have k4 := Keeps.ofFst z3 (a := a0) (by
        apply findCopy_keeps
        exact h0)
    exact k4
  · rename_i z5 z6 z7
    have k8 := Keeps.ofFst z7 (a := a0) (by
        apply findCopy_keeps
        exact h0)
    exact k8
  · rename_i z9 z10 z11 z12 z13
    have k14 := Keeps.ofFst z13 (a := a0) (by
        apply findCopy_keeps
        exact h0)
    extract_lets x15 x16
    clear_value x15
    clear_value x16
    split
    · rename_i z17 z18 z19 z20
      have k21 := Keeps.ofFst z20 (a := a0) (by
          apply itemRead_keeps
          exact k14)
      split
      · rename_i z22 z23 z24 z25
        have k26 := Keeps.ofFst z25 (a := a0) (by
            apply restoreRead_keeps
            exact k21)
        exact k26
    · rename_i z27 z28
      apply itemRead_keeps
      exact k14

theorem rebuildPiece_keeps {a0 s : State} (h0 : Keeps a0 s) (r : ItemRef) (d : SnapD) (v : SurvivalCfg) (g : Group) (m : Nat) (n : Nat) (lo : Nat) (len : Nat) : Keeps a0 (rebuildPiece s r d v g m n lo len).1 := by
  unfold rebuildPiece
  split
  · rename_i z0 z1 z2 z3
    have k4 := Keeps.ofFst z3 (a := a0) (by
        apply Keeps.foldFst
        · exact h0
        · intro y5 y6 y7
          split
          · rename_i z8 z9 z10 z11
            have k12 := Keeps.ofFst z11 (a := a0) (by
                apply sourceBytes_keeps
                exact y7)
            exact k12)
    split
    · rename_i z13 z14 z15
      have k16 := Keeps.ofFst z3 (a := a0) (by
          apply Keeps.foldFst
          · exact h0
          · intro y17 y18 y19
            split
            · rename_i z20 z21 z22 z23
              have k24 := Keeps.ofFst z23 (a := a0) (by
                  apply sourceBytes_keeps
                  exact y19)
              exact k24)
      exact k4
    · rename_i z25 z26 z27 z28
      have k29 := Keeps.ofFst z3 (a := a0) (by
          apply Keeps.foldFst
          · exact h0
          · intro y30 y31 y32
            split
            · rename_i z33 z34 z35 z36
              have k37 := Keeps.ofFst z36 (a := a0) (by
                  apply sourceBytes_keeps
                  exact y32)
              exact k37)
      exact k4

theorem restoreParity_keeps {a0 s : State} (h0 : Keeps a0 s) (i : Item) (d : SnapD) (v : SurvivalCfg) : Keeps a0 (restoreParity s i d v) := by
  unfold restoreParity
  split
  · rename_i z0 z1
    apply failItem_keeps
    exact h0
  · rename_i z2 z3 z4
    split
    · rename_i z5 z6 z7
      have k8 := Keeps.ofFst z7 (a := a0) (by
          apply packCores_keeps
          exact h0)
      exact k8
    · rename_i z9 z10 z11
      have k12 := Keeps.ofFst z11 (a := a0) (by
          apply packCores_keeps
          exact h0)
      extract_lets x13 x14 x15
      clear_value x13
      clear_value x14
      clear_value x15
      split
      · rename_i z16 z17 z18 z19
        have k20 := Keeps.ofFst z19 (a := a0) (by
            apply Keeps.foldFst
            · exact k12
            · intro y21 y22 y23
              extract_lets x24 x25 x26
              clear_value x24
              clear_value x25
              clear_value x26
              split
              · rename_i z27 z28 z29 z30
                have k31 := Keeps.ofFst z30 (a := a0) (by
                    apply rebuildPiece_keeps
                    exact y23)
                exact k31)
        split
        · rename_i z32 z33
          have k34 := Keeps.ofFst z19 (a := a0) (by
              apply Keeps.foldFst
              · exact k12
              · intro y35 y36 y37
                extract_lets x38 x39 x40
                clear_value x38
                clear_value x39
                clear_value x40
                split
                · rename_i z41 z42 z43 z44
                  have k45 := Keeps.ofFst z44 (a := a0) (by
                      apply rebuildPiece_keeps
                      exact y37)
                  exact k45)
          apply failItem_keeps
          exact k20
        · rename_i z46
          have k47 := Keeps.ofFst z19 (a := a0) (by
              apply Keeps.foldFst
              · exact k12
              · intro y48 y49 y50
                extract_lets x51 x52 x53
                clear_value x51
                clear_value x52
                clear_value x53
                split
                · rename_i z54 z55 z56 z57
                  have k58 := Keeps.ofFst z57 (a := a0) (by
                      apply rebuildPiece_keeps
                      exact y50)
                  exact k58)
          exact k20
        · rename_i z59 z60
          have k61 := Keeps.ofFst z19 (a := a0) (by
              apply Keeps.foldFst
              · exact k12
              · intro y62 y63 y64
                extract_lets x65 x66 x67
                clear_value x65
                clear_value x66
                clear_value x67
                split
                · rename_i z68 z69 z70 z71
                  have k72 := Keeps.ofFst z71 (a := a0) (by
                      apply rebuildPiece_keeps
                      exact y64)
                  exact k72)
          apply writeRestore_keeps
          exact k20

theorem runRestore_keeps {a0 s : State} (h0 : Keeps a0 s) (i : Item) (d : SnapD) (v : SurvivalCfg) : Keeps a0 (runRestore s i d v) := by
  unfold runRestore
  split
  · rename_i z0
    apply restoreCopy_keeps
    exact h0
  · rename_i z1
    split
    · rename_i z2
      apply restoreCopy_keeps
      exact h0
    · rename_i z3
      split
      · rename_i z4
        apply restoreCopy_keeps
        exact h0
      · rename_i z5
        apply restoreParity_keeps
        exact h0

theorem execRestore_keeps {a0 s : State} (h0 : Keeps a0 s) (c : CtxIx) (seq : Nat) : OutKeeps a0 (execRestore c seq s) := by
  unfold execRestore
  apply OutKeeps.next
  split
  · rename_i z0 z1 z2 z3 z4
    apply runRestore_keeps
    exact h0
  · rename_i z5 z6
    exact h0

theorem runReform_keeps {a0 s : State} (h0 : Keeps a0 s) (i : Item) (d : SnapD) : Keeps a0 (runReform s i d) := by
  unfold runReform
  split
  · rename_i z0 z1
    apply endItem_keeps
    exact h0
  · rename_i z2 z3 z4
    split
    · rename_i z5 z6 z7 z8
      have k9 := Keeps.ofFst z8 (a := a0) (by
          apply itemRead_keeps
          exact h0)
      apply failItem_keeps
      exact k9
    · rename_i z10 z11 z12
      have k13 := Keeps.ofFst z12 (a := a0) (by
          apply itemRead_keeps
          exact h0)
      exact k13
    · rename_i z14 z15 z16 z17
      have k18 := Keeps.ofFst z17 (a := a0) (by
          apply itemRead_keeps
          exact h0)
      extract_lets x19 x20 x21
      clear_value x19
      clear_value x20
      have k22 : Keeps a0 x21 := by
        unfold x21
        exact Keeps.put k18
      clear_value x21
      split
      · rename_i z23
        apply endItem_keeps
        exact k18
      · rename_i z24
        apply endItem_keeps
        exact k22

theorem execReform_keeps {a0 s : State} (h0 : Keeps a0 s) (c : CtxIx) (seq : Nat) : OutKeeps a0 (execReform c seq s) := by
  unfold execReform
  apply OutKeeps.next
  split
  · rename_i z0 z1 z2
    apply runReform_keeps
    apply startItem_keeps
    exact h0
  · rename_i z3 z4
    exact h0

end Sys2Proof.Machine
end

