-- ==== Sys2Proof/Laws/LeftHost.lean ====
section
/-! SUPPORT. What each operation leaves (Keeps): requests that arrive, the Larder, the control space, the Porch and the Gatehouse. -/

set_option Elab.async false
set_option linter.unusedVariables false

namespace Sys2Proof.Machine

/-! ## Machine/Serve.lean -/

theorem chargePacket_keeps {a0 s : State} (h0 : Keeps a0 s) (who : Who) (k : Packet) : Keeps a0 (chargePacket s who k) := by
  unfold chargePacket
  split
  · rename_i z0 z1 z2 z3
    apply chargeRequest_keeps
    exact h0
  · rename_i z4 z5
    exact h0

theorem serve_keeps {a0 s : State} (h0 : Keeps a0 s) (src : Nat) (who : Who) (k : Packet) : Keeps a0 (serve s src who k).1 := by
  unfold serve
  extract_lets x0
  clear_value x0
  split
  · rename_i z1
    exact h0
  · rename_i z2
    split
    · rename_i z3
      exact h0
    · rename_i z4
      split
      · rename_i z5
        dsimp only
        apply chargePacket_keeps
        exact h0
      · rename_i z6
        split
        · rename_i z7 z8 z9 z10
          have k11 := Keeps.ofFst z10 (a := a0) (by
              apply Keeps.foldFst
              · dsimp only
                apply chargePacket_keeps
                exact h0
              · intro y12 y13 y14
                split
                · rename_i z15 z16 z17 z18
                  have k19 := Keeps.ofFst z18 (a := a0) (by
                      apply reachHome_keeps
                      exact y14)
                  exact k19)
          exact k11

theorem readDone_keeps {a0 s : State} (h0 : Keeps a0 s) (q : Req) (bs : List Byte) : Keeps a0 (readDone s q bs) := by
  unfold readDone
  extract_lets x0
  have k1 : Keeps a0 x0 := by
    unfold x0
    apply State.dropReq_keeps
    exact h0
  clear_value x0
  split
  · rename_i z2 z3 z4 z5 z6 z7 z8 z9
    apply waitCame_keeps
    apply State.modItem_keeps
    exact k1
  · rename_i z10 z11 z12 z13 z14 z15 z16 z17 z18
    apply resumeIntake_keeps
    apply State.modCtx_keeps
    exact k1
  · rename_i z19 z20 z21 z22 z23
    exact k1

theorem failRequest_keeps {a0 s : State} (h0 : Keeps a0 s) (q : Req) (code : Nat) : Keeps a0 (failRequest s q code) := by
  unfold failRequest
  split
  · rename_i z0 z1 z2 z3 z4 z5 z6 z7 z8
    apply resumeIntake_keeps
    apply State.modCtx_keeps
    apply State.dropReq_keeps
    exact h0
  · rename_i z9 z10 z11 z12
    apply fenceFailed_keeps
    apply requestFailed_keeps
    exact h0

theorem markRetry_keeps {a0 s : State} (h0 : Keeps a0 s) (q : Req) : Keeps a0 (markRetry s q) := by
  unfold markRetry
  extract_lets x0
  clear_value x0
  split
  · rename_i z1
    apply lateNoCommit_keeps
    apply State.dropReq_keeps
    exact h0
  · rename_i z2
    exact Keeps.put h0

theorem failLost_keeps {a0 v1 : State} (h0 : Keeps a0 v1) (v0 : Nat) : Keeps a0 (failLost v0 v1) := by
  induction v0 generalizing v1 with
  | zero =>
    unfold failLost
    exact h0
  | succ n ih =>
    unfold failLost
    split
    · rename_i z0 z1 z2
      apply ih
      apply failRequest_keeps
      exact h0
    · rename_i z3 z4
      exact h0

theorem settleOne_keeps {a0 s : State} (h0 : Keeps a0 s) (q : Req) (r : Reply) : Keeps a0 (settleOne s q r) := by
  unfold settleOne
  split
  · rename_i z0 z1
    split
    · rename_i z2
      apply readDone_keeps
      exact h0
    · rename_i z3
      exact h0
  · rename_i z4
    split
    · rename_i z5
      exact h0
    · rename_i z6
      apply writeDone_keeps
      exact h0
  · rename_i z7 z8 z9 z10
    split
    · rename_i z11
      apply afterSettle_keeps
      apply atomicDone_keeps
      apply State.dropReq_keeps
      exact h0
    · rename_i z12
      exact h0
  · rename_i z13 z14
    split
    · rename_i z15 z16 z17
      apply failRequest_keeps
      exact h0
    · rename_i z18 z19
      exact h0
  · rename_i z20
    apply markRetry_keeps
    exact h0

theorem settle_keeps {a0 s : State} (h0 : Keeps a0 s) (q : Req) (r : Reply) : Keeps a0 (settle s q r) := by
  unfold settle
  extract_lets x0
  have k1 : Keeps a0 x0 := by
    unfold x0
    apply settleOne_keeps
    exact h0
  clear_value x0
  apply failLost_keeps
  exact k1

theorem endRequest_keeps {a0 s : State} (h0 : Keeps a0 s) (q : Req) (code : Nat) : Keeps a0 (endRequest s q code) := by
  unfold endRequest
  extract_lets x0
  have k1 : Keeps a0 x0 := by
    unfold x0
    apply failRequest_keeps
    exact h0
  clear_value x0
  apply failLost_keeps
  exact k1

theorem reissue_keeps {a0 s : State} (h0 : Keeps a0 s) (q : Req) : Keeps a0 (reissue s q) := by
  unfold reissue
  split
  · rename_i z0
    split
    · rename_i z1 z2 z3 z4
      have k5 := Keeps.ofFst z4 (a := a0) (by
          apply serve_keeps
          exact h0)
      apply settle_keeps
      exact k5
    · rename_i z6 z7 z8
      have k9 := Keeps.ofFst z8 (a := a0) (by
          apply serve_keeps
          exact h0)
      exact k9
  · rename_i z10
    extract_lets x11
    have k12 : Keeps a0 x11 := by
      unfold x11
      apply sendFor_keeps
      exact h0
    clear_value x11
    apply failLost_keeps
    exact k12

/-! ## Machine/Larder.lean -/

theorem deliver_keeps {a0 s : State} (h0 : Keeps a0 s) (x : Access) (a : Ans) : Keeps a0 (deliver s x a) := by
  unfold deliver
  split
  · rename_i z0 z1 z2
    split
    · rename_i z3 z4 z5
      apply addFlags_keeps
      exact h0
    · rename_i z6
      extract_lets x7
      clear_value x7
      apply State.request_keeps
      exact h0
    · rename_i z8 z9 z10
      split
      · rename_i z11 z12 z13
        apply failItem_keeps
        exact h0
      · rename_i z14 z15
        exact h0
  · rename_i z16 z17 z18 z19
    apply State.sendPacket_keeps
    exact h0
  · rename_i z20 z21 z22
    split
    · rename_i z23
      apply joinLine_keeps
      exact h0
    · rename_i z24
      exact h0

theorem performAccess_keeps {a0 s : State} (h0 : Keeps a0 s) (x : Access) (ecc : Ecc) : Keeps a0 (performAccess s x ecc) := by
  unfold performAccess
  split
  · rename_i z0
    exact h0
  · rename_i z1
    split
    · rename_i z2 z3 z4 z5
      have k6 := Keeps.ofFst z5 (a := a0) (by
          apply performHome_keeps
          apply chargeRequest_keeps
          exact h0)
      apply deliver_keeps
      exact k6

theorem bringAccess_keeps {a0 s : State} (h0 : Keeps a0 s) (x : Access) : Keeps a0 (bringAccess s x) := by
  unfold bringAccess
  split
  · rename_i z0
    exact h0
  · rename_i z1
    split
    · rename_i z2 z3 z4 z5
      have k6 := Keeps.ofFst z5 (a := a0) (by
          apply reachHome_keeps
          apply chargeRequest_keeps
          exact h0)
      apply deliver_keeps
      exact k6

theorem deliverServed_keeps {a0 s : State} (h0 : Keeps a0 s) : Keeps a0 (deliverServed s) := by
  unfold deliverServed
  apply Keeps.fold
  · apply State.modMem_keeps
    · exact h0
    · intro y0
      exact (MemKeeps.refl _).put
  · intro y1 y2 y3
    apply deliver_keeps
    exact y3

theorem arriveLine_keeps {a0 s : State} (h0 : Keeps a0 s) (x : Access) : Keeps a0 (arriveLine s x) := by
  unfold arriveLine
  split
  · rename_i z0
    apply performAccess_keeps
    exact h0
  · rename_i z1
    apply joinLine_keeps
    exact h0

theorem execLarderAccess_keeps {a0 s : State} (h0 : Keeps a0 s) (arrivals : List Access) (line : Nat) (ecc : Ecc) : OutKeeps a0 (execLarderAccess arrivals line ecc s) := by
  unfold execLarderAccess
  apply OutKeeps.next
  split
  · rename_i z0
    extract_lets x1 x2
    have k3 : Keeps a0 x1 := by
      unfold x1
      apply Keeps.fold
      · apply deliverServed_keeps
        exact h0
      · intro y4 y5 y6
        apply arriveLine_keeps
        exact y6
    clear_value x1
    clear_value x2
    split
    · rename_i z7 z8 z9
      split
      · rename_i z10 z11 z12
        apply performAccess_keeps
        apply State.modMem_keeps
        · exact k3
        · intro y13
          exact putQueue_keeps (.refl _) ..
      · rename_i z14 z15
        exact k3
    · rename_i z16 z17
      exact k3
  · rename_i z18
    exact h0

theorem arriveCellar_keeps {a0 s : State} (h0 : Keeps a0 s) (k : Nat) (x : Access) : Keeps a0 (arriveCellar k s x) := by
  unfold arriveCellar
  split
  · rename_i z0
    exact h0
  · rename_i z1
    split
    · rename_i z2 z3 z4 z5 z6
      extract_lets x7
      clear_value x7
      apply State.modMem_keeps
      · apply modRegs_keeps
        exact h0
      · intro y8
        exact (MemKeeps.refl _).put
    · rename_i z9 z10 z11
      apply bringAccess_keeps
      exact h0

theorem grant_keeps {a0 s : State} (h0 : Keeps a0 s) (k : Nat) (s0 : Option Nat × List Int) : Keeps a0 (grant s k s0) := by
  unfold grant
  split
  · rename_i z0 z1
    exact h0
  · rename_i z2 z3 z4
    split
    · rename_i z5 z6
      exact h0
    · rename_i z7 z8 z9 z10
      extract_lets x11
      have k12 : Keeps a0 x11 := by
        unfold x11
        apply modRegs_keeps
        exact h0
      clear_value x11
      apply bringAccess_keeps
      exact k12

theorem execRegulatorGrant_keeps {a0 s : State} (h0 : Keeps a0 s) (k : LandIx) (arrivals : List Access) : OutKeeps a0 (execRegulatorGrant k arrivals s) := by
  unfold execRegulatorGrant
  apply OutKeeps.next
  split
  · rename_i z0
    extract_lets x1
    have k2 : Keeps a0 x1 := by
      unfold x1
      apply modRegs_keeps
      apply Keeps.fold
      · apply deliverServed_keeps
        exact h0
      · intro y3 y4 y5
        apply arriveCellar_keeps
        exact y5
    clear_value x1
    split
    · rename_i z6 z7 z8 z9
      apply grant_keeps
      exact k2
    · rename_i z10 z11 z12
      split
      · rename_i z13 z14 z15
        extract_lets x16 x17
        have k18 : Keeps a0 x16 := by
          unfold x16
          apply State.upTo_keeps
          exact k2
        clear_value x16
        have k19 : Keeps a0 x17 := by
          unfold x17
          apply modRegs_keeps
          exact k18
        clear_value x17
        apply grant_keeps
        exact k19
      · rename_i z20 z21
        exact k2
  · rename_i z22
    exact h0

theorem scrubBlock_keeps {a0 s : State} (h0 : Keeps a0 s) (off : Nat) (ecc : Ecc) : Keeps a0 (scrubBlock s off ecc) := by
  unfold scrubBlock
  split
  · rename_i z0
    exact h0
  · rename_i z1
    split
    · rename_i z2 z3
      exact h0
    · rename_i z4 z5
      apply foundCorrected_keeps
      exact h0
    · rename_i z6 z7
      apply drainDue_keeps
      apply foundUncorrectable_keeps
      exact h0
    · rename_i z8 z9
      apply State.modMem_keeps
      · exact h0
      · intro y10
        exact setPoison_keeps (.refl _) ..
    · rename_i z11 z12 z13 z14
      split
      · rename_i z15
        apply foundCorrected_keeps
        exact h0
      · rename_i z16
        exact h0

theorem scrubStack_keeps {a0 s : State} (h0 : Keeps a0 s) (st : StackIx) (ecc : Ecc) : Keeps a0 (scrubStack s st ecc) := by
  unfold scrubStack
  split
  · rename_i z0
    extract_lets x1
    clear_value x1
    apply State.modMem_keeps
    · apply scrubBlock_keeps
      exact h0
    · intro y2
      exact modStack_keeps (.refl _) ..
  · rename_i z3
    exact h0

theorem execPatrolScrubRead_keeps {a0 s : State} (h0 : Keeps a0 s) (st : StackIx) (x : ScrubRead) : OutKeeps a0 (execPatrolScrubRead st x s) := by
  unfold execPatrolScrubRead
  apply OutKeeps.next
  split
  · rename_i z0
    apply scrubStack_keeps
    apply Keeps.fold
    · exact h0
    · intro y1 y2 y3
      apply hitUpset_keeps
      exact y3
  · rename_i z4
    exact h0

theorem execStackTempRead_keeps {a0 s : State} (h0 : Keeps a0 s) (st : StackIx) (temp : Byte) : OutKeeps a0 (execStackTempRead st temp s) := by
  unfold execStackTempRead
  apply OutKeeps.next
  split
  · rename_i z0
    apply withCaps_keeps
    · exact h0
    · intro y1 y2
      apply State.modMem_keeps
      · exact y2
      · intro y3
        exact modStack_keeps (.refl _) ..
  · rename_i z4
    exact h0

theorem execStackThrottleStepDown_keeps {a0 s : State} (h0 : Keeps a0 s) (st : StackIx) : OutKeeps a0 (execStackThrottleStepDown st s) := by
  unfold execStackThrottleStepDown
  apply OutKeeps.next
  extract_lets x0
  clear_value x0
  split
  · rename_i z1
    apply withCaps_keeps
    · apply State.upTo_keeps
      exact h0
    · intro y2 y3
      apply State.modMem_keeps
      · exact y3
      · intro y4
        exact modStack_keeps (.refl _) ..
  · rename_i z5
    exact h0

theorem execDataEyeLockLoss_keeps {a0 s : State} (h0 : Keeps a0 s) (st : StackIx) : OutKeeps a0 (execDataEyeLockLoss st s) := by
  unfold execDataEyeLockLoss
  apply OutKeeps.next
  split
  · rename_i z0
    apply State.modMem_keeps
    · exact h0
    · intro y1
      exact modStack_keeps (.refl _) ..
  · rename_i z2
    exact h0

theorem execStackRetrainComplete_keeps {a0 s : State} (h0 : Keeps a0 s) (x : StackRetrain) : OutKeeps a0 (execStackRetrainComplete x s) := by
  unfold execStackRetrainComplete
  apply OutKeeps.next
  split
  · rename_i z0
    apply State.modMem_keeps
    · exact h0
    · intro y1
      exact modStack_keeps (.refl _) ..
  · rename_i z2
    exact h0

theorem execStackRetrainTimeout_keeps {a0 s : State} (h0 : Keeps a0 s) (st : StackIx) : OutKeeps a0 (execStackRetrainTimeout st s) := by
  unfold execStackRetrainTimeout
  apply OutKeeps.next
  extract_lets x0 x1
  clear_value x0
  have k2 : Keeps a0 x1 := by
    unfold x1
    apply State.upTo_keeps
    exact h0
  clear_value x1
  split
  · rename_i z3
    split
    · rename_i z4
      apply State.modMem_keeps
      · exact k2
      · intro y5
        exact modStack_keeps (.refl _) ..
    · rename_i z6
      apply raiseError_keeps
      apply State.modMem_keeps
      · exact k2
      · intro y7
        exact modStack_keeps (.refl _) ..
  · rename_i z8
    exact h0

theorem execPantryReleaseComplete_keeps {a0 s : State} (h0 : Keeps a0 s) (d : DieIx) : OutKeeps a0 (execPantryReleaseComplete d s) := by
  unfold execPantryReleaseComplete
  apply OutKeeps.next
  extract_lets x0 x1
  clear_value x0
  have k2 : Keeps a0 x1 := by
    unfold x1
    apply State.upTo_keeps
    exact h0
  clear_value x1
  split
  · rename_i z3
    apply State.modMem_keeps
    · exact k2
    · intro y4
      exact (MemKeeps.refl _).put
  · rename_i z5
    exact h0

/-! ## Machine/Tick.lean -/

theorem startRetrains_keeps {a0 s : State} (h0 : Keeps a0 s) : Keeps a0 (startRetrains s) := by
  unfold startRetrains
  apply State.modMem_keeps
  · exact h0
  · intro y0
    exact (MemKeeps.refl _).put

theorem execControlTick_keeps {a0 s : State} (h0 : Keeps a0 s) : OutKeeps a0 (execControlTick s) := by
  unfold execControlTick
  apply OutKeeps.next
  split
  · rename_i z0
    extract_lets x1 x2
    have k3 : Keeps a0 x1 := by
      unfold x1
      apply startRetrains_keeps
      apply deliverServed_keeps
      exact h0
    clear_value x1
    have k4 : Keeps a0 x2 := by
      unfold x2
      apply State.upTo_keeps
      exact k3
    clear_value x2
    apply withCaps_keeps
    · exact k4
    · intro y5 y6
      extract_lets x7 x8 x9 x10 x11 x12
      clear_value x7
      clear_value x8
      clear_value x9
      clear_value x10
      clear_value x11
      have k13 : Keeps a0 x12 := by
        unfold x12
        exact Keeps.put y6
      clear_value x12
      apply count_keeps
      exact k13
  · rename_i z14
    exact h0

/-! ## Machine/Control.lean -/

theorem touchLedger_keeps {a0 s : State} (h0 : Keeps a0 s) (who : Reader) (o : Nat) (n : Nat) : Keeps a0 (touchLedger s who o n) := by
  unfold touchLedger
  apply Keeps.fold
  · exact h0
  · intro y0 y1 y2
    apply deviceRead_keeps
    exact y2

theorem writeCtxReset_keeps {a0 s : State} (h0 : Keeps a0 s) (c : Nat) : Keeps a0 (writeCtxReset s c) := by
  unfold writeCtxReset
  split
  · rename_i z0
    apply resetContext_keeps
    exact h0
  · rename_i z1
    exact h0

theorem modBank_keeps {a0 s : State} (h0 : Keeps a0 s) (die : Nat) (f : Bank → Bank) : Keeps a0 (modBank s die f) := by
  unfold modBank
  split
  · rename_i z0
    exact h0
  · rename_i z1
    exact Keeps.put h0

theorem writeCounterCtl_keeps {a0 s : State} (h0 : Keeps a0 s) (die : Nat) (v : W64) : Keeps a0 (writeCounterCtl s die v) := by
  unfold writeCounterCtl
  extract_lets x0
  apply modBank_keeps
  exact h0

theorem regWrite_keeps {a0 s : State} (h0 : Keeps a0 s) (a : Authority) (o : Nat) (v : W64) : Keeps a0 (regWrite s a o v) := by
  unfold regWrite
  split
  · rename_i z0 z1 z2
    split
    · rename_i z3
      apply State.modHearth_keeps
      exact h0
    · rename_i z4
      exact h0
  · rename_i z5 z6 z7 z8
    split
    · rename_i z9
      exact h0
    · rename_i z10
      split
      · rename_i z11
        apply State.modCtx_keeps
        exact h0
      · rename_i z12
        split
        · rename_i z13
          apply writeCtxReset_keeps
          exact h0
        · rename_i z14
          exact h0
  · rename_i z15 z16 z17 z18
    split
    · rename_i z19
      split
      · rename_i z20
        exact Keeps.put h0
      · rename_i z21
        exact h0
    · rename_i z22
      split
      · rename_i z23
        split
        · rename_i z24
          apply writeCounterCtl_keeps
          exact h0
        · rename_i z25
          exact h0
      · rename_i z26
        split
        · rename_i z27
          apply writeCounterCtl_keeps
          exact h0
        · rename_i z28
          exact h0
  · rename_i z29 z30 z31 z32
    exact h0

theorem controlBytesWrite_keeps {a0 s : State} (h0 : Keeps a0 s) (a : Authority) (o : Nat) (bs : List Byte) : Keeps a0 (controlBytesWrite s a o bs) := by
  unfold controlBytesWrite
  extract_lets x0
  clear_value x0
  apply Keeps.fold
  · exact h0
  · intro y1 y2 y3
    apply regWrite_keeps
    exact y3

theorem execCtxCtlReset_keeps {a0 s : State} (h0 : Keeps a0 s) (w : Writer) (c : CtxIx) : OutKeeps a0 (execCtxCtlReset w c s) := by
  unfold execCtxCtlReset
  apply OutKeeps.next
  split
  · rename_i z0
    apply writeCtxReset_keeps
    exact h0
  · rename_i z1
    exact h0

theorem execCounterClear_keeps {a0 s : State} (h0 : Keeps a0 s) (w : Writer) (die : Fin 100) : OutKeeps a0 (execCounterClear w die s) := by
  unfold execCounterClear
  apply OutKeeps.next
  split
  · rename_i z0
    apply modBank_keeps
    exact h0
  · rename_i z1
    exact h0

theorem execCounterRun_keeps {a0 s : State} (h0 : Keeps a0 s) (w : Writer) (die : Fin 100) : OutKeeps a0 (execCounterRun w die s) := by
  unfold execCounterRun
  apply OutKeeps.next
  split
  · rename_i z0
    apply modBank_keeps
    exact h0
  · rename_i z1
    exact h0

theorem execCounterSelect_keeps {a0 s : State} (h0 : Keeps a0 s) (w : Writer) (die : Fin 100) (program : Fin 8) (run : Bool) : OutKeeps a0 (execCounterSelect w die program run s) := by
  unfold execCounterSelect
  apply OutKeeps.next
  split
  · rename_i z0
    apply modBank_keeps
    exact h0
  · rename_i z1
    exact h0

theorem execControlSpaceWrite_keeps {a0 s : State} (h0 : Keeps a0 s) (q : QpIx) (offset : BitVec 40) (value : W64) : OutKeeps a0 (execControlSpaceWrite q offset value s) := by
  unfold execControlSpaceWrite
  apply OutKeeps.next
  split
  · rename_i z0
    apply regWrite_keeps
    exact h0
  · rename_i z1
    exact h0

theorem execI3cOffsetWrite_keeps {a0 s : State} (h0 : Keeps a0 s) (offset : BitVec 16) : OutKeeps a0 (execI3cOffsetWrite offset s) := by
  unfold execI3cOffsetWrite
  apply OutKeeps.next
  split
  · rename_i z0
    exact h0
  · rename_i z1
    exact Keeps.put h0

theorem execI3cRead_keeps {a0 s : State} (h0 : Keeps a0 s) : OutKeeps a0 (execI3cRead s) := by
  unfold execI3cRead
  apply OutKeeps.next
  split
  · rename_i z0
    exact h0
  · rename_i z1
    exact Keeps.put h0

/-! ## Machine/Porch.lean -/

theorem discardFrame_keeps {a0 s : State} (h0 : Keeps a0 s) : Keeps a0 (discardFrame s) := by
  unfold discardFrame
  exact Keeps.put h0

theorem reportUnreachable_keeps {a0 s : State} (h0 : Keeps a0 s) (q : Nat) : Keeps a0 (reportUnreachable s q) := by
  unfold reportUnreachable
  apply Keeps.fold
  · exact h0
  · intro y0 y1 y2
    split
    · rename_i z3
      apply endRequest_keeps
      exact y2
    · rename_i z4
      exact y2

theorem pfcUpdate_keeps {a0 s : State} (h0 : Keeps a0 s) : Keeps a0 (pfcUpdate s) := by
  unfold pfcUpdate
  apply Keeps.fold
  · exact h0
  · intro y0 y1 y2
    split
    · rename_i z3
      exact y2
    · rename_i z4
      extract_lets x5 x6 x7 x8
      clear_value x5
      clear_value x6
      clear_value x7
      split
      · rename_i z9
        dsimp only [x8]
        refine Keeps.put (s := y0.porchOut (PorchOut.pause y1 true)) ?_
        apply State.porchOut_keeps
        exact y2
      · rename_i z10
        split
        · rename_i z11
          dsimp only [x8]
          refine Keeps.put (s := y0.porchOut (PorchOut.pause y1 false)) ?_
          apply State.porchOut_keeps
          exact y2
        · rename_i z12
          exact y2

theorem qpError_keeps {a0 s : State} (h0 : Keeps a0 s) (q : Nat) (cause : Nat) : Keeps a0 (qpError s q cause) := by
  unfold qpError
  split
  · rename_i z0
    extract_lets x1 x2 x3 x4
    have k5 : Keeps a0 x1 := by
      unfold x1
      apply State.modQp_keeps
      exact h0
    clear_value x1
    clear_value x2
    have k6 : Keeps a0 x3 := by
      unfold x3
      exact Keeps.put k5
    clear_value x3
    clear_value x4
    apply pfcUpdate_keeps
    apply reportUnreachable_keeps
    exact Keeps.put k6
  · rename_i z7
    exact h0

theorem nakFatal_keeps {a0 s : State} (h0 : Keeps a0 s) (q : Nat) (o : PorchOut) : Keeps a0 (nakFatal s q o) := by
  unfold nakFatal
  apply qpError_keeps
  apply State.porchOut_keeps
  exact h0

theorem ghReply_keeps {a0 s : State} (h0 : Keeps a0 s) (m : GhMsg) (status : Nat) (body : List W64) (data : List Byte) : Keeps a0 (ghReply s m status body data) := by
  unfold ghReply
  extract_lets x0
  clear_value x0
  split
  · rename_i z1
    apply State.sendHost_keeps
    exact h0
  · rename_i z2
    exact h0

theorem answerUnknown_keeps {a0 v1 : State} (h0 : Keeps a0 v1) (v0 : Nat) : Keeps a0 (answerUnknown v0 v1) := by
  induction v0 generalizing v1 with
  | zero =>
    unfold answerUnknown
    exact h0
  | succ n ih =>
    unfold answerUnknown
    split
    · rename_i z0 z1 z2 z3 z4 z5
      split
      · rename_i z6
        exact h0
      · rename_i z7
        apply ih
        apply ghReply_keeps
        exact Keeps.put h0
    · rename_i z8 z9 z10
      exact h0

theorem clearUnknown_keeps {a0 s : State} (h0 : Keeps a0 s) : Keeps a0 (clearUnknown s) := by
  unfold clearUnknown
  apply answerUnknown_keeps
  exact h0

theorem hostRead_keeps {a0 s : State} (h0 : Keeps a0 s) (q : Nat) (ps : List (Nat × Nat)) (ecc : List Ecc) : Keeps a0 (hostRead s q ps ecc).1 := by
  unfold hostRead
  extract_lets x0
  have k1 : Keeps a0 x0 := by
    unfold x0
    apply chargeRequest_keeps
    exact h0
  clear_value x0
  apply Keeps.foldFst
  · exact k1
  · intro y2 y3 y4
    split
    · rename_i z5
      split
      · rename_i z6 z7 z8 z9
        have k10 := Keeps.ofFst z9 (a := a0) (by
            apply reachHome_keeps
            exact y4)
        exact k10
      · rename_i z11 z12 z13 z14 z15
        have k16 := Keeps.ofFst z15 (a := a0) (by
            apply reachHome_keeps
            exact y4)
        exact k16
    · rename_i z17
      exact y4

theorem hostWrite_keeps {a0 s : State} (h0 : Keeps a0 s) (q : Nat) (off : Nat) (bs : List Byte) : Keeps a0 (hostWrite s q off bs) := by
  unfold hostWrite
  apply Keeps.fold
  · apply chargeRequest_keeps
    exact h0
  · intro y0 y1 y2
    apply reachHome_keeps
    exact y2

theorem hostTry_keeps {a0 s t : State} {a : HostAnswer} (h0 : Keeps a0 s) (k : QpCfg) (h : HeldHost) (e : hostTry s k h = some (t, a)) :
    Keeps a0 t := by
  unfold hostTry at e
  extract_lets q psn len off pieces part at e
  split at e
  · simp only [Option.some.injEq, Prod.mk.injEq] at e
    rw [← e.1]
    exact Keeps.put h0
  · simp only [Option.some.injEq, Prod.mk.injEq] at e
    rw [← e.1]
    exact h0
  · split at e
    · split at e
      · simp at e
      · simp only [Option.some.injEq, Prod.mk.injEq] at e
        rw [← e.1]
        exact touchLedger_keeps h0 _ _ _
    · split at e
      · simp only [Option.some.injEq, Prod.mk.injEq] at e
        rw [← e.1]
        exact h0
      · split at e
        · simp at e
        · split at e
          rename_i u bs whole hr
          have hu : Keeps a0 u := Keeps.ofFst hr (hostRead_keeps h0 _ _ _)
          split at e
          · simp only [Option.some.injEq, Prod.mk.injEq] at e
            rw [← e.1]
            exact hu
          · simp only [Option.some.injEq, Prod.mk.injEq] at e
            rw [← e.1]
            exact drainDue_keeps hu
  · split at e
    · simp only [Option.some.injEq, Prod.mk.injEq] at e
      rw [← e.1]
      exact controlBytesWrite_keeps h0 _ _ _
    · split at e
      · simp only [Option.some.injEq, Prod.mk.injEq] at e
        rw [← e.1]
        exact h0
      · split at e
        · simp at e
        · simp only [Option.some.injEq, Prod.mk.injEq] at e
          rw [← e.1]
          exact hostWrite_keeps h0 _ _ _

theorem serveOne_keeps {a0 s : State} (h0 : Keeps a0 s) (k : QpCfg) (i : Nat) : Keeps a0 (serveOne k s i) := by
  unfold serveOne
  split
  · split
    · split
      · split
        · rename_i hr
          exact State.modQp_keeps (hostTry_keeps h0 _ _ hr) _ _
        · exact State.modQp_keeps h0 _ _
      · exact h0
    · exact h0
  · exact h0

theorem sendAnswers_keeps {a0 v1 : State} (h0 : Keeps a0 v1) (v0 : Nat) (v2 : Nat) : Keeps a0 (sendAnswers v0 v1 v2) := by
  induction v0 generalizing v1 v2 with
  | zero =>
    unfold sendAnswers
    exact h0
  | succ n ih =>
    unfold sendAnswers
    split
    · rename_i z0 z1 z2
      split
      · rename_i z3 z4 z5
        extract_lets x6 x7
        have k8 : Keeps a0 x6 := by
          unfold x6
          apply State.modQp_keeps
          exact h0
        clear_value x6
        have k9 : Keeps a0 x7 := by
          unfold x7
          apply Keeps.fold
          · exact k8
          · intro y10 y11 y12
            apply State.porchOut_keeps
            exact y12
        clear_value x7
        split
        · rename_i z13
          apply qpError_keeps
          exact k9
        · rename_i z14
          apply ih
          exact k9
      · rename_i z15 z16
        exact h0
    · rename_i z17 z18
      exact h0

theorem serveHeld_keeps {a0 s : State} (h0 : Keeps a0 s) (q : Nat) : Keeps a0 (serveHeld s q) := by
  unfold serveHeld
  split
  · rename_i z0 z1 z2 z3 z4 z5
    apply sendAnswers_keeps
    apply Keeps.fold
    · exact h0
    · intro y6 y7 y8
      apply serveOne_keeps
      exact y8
  · rename_i z9 z10 z11
    exact h0

theorem noteCe_keeps {a0 s : State} (h0 : Keeps a0 s) (q : Nat) (ce : Bool) : Keeps a0 (noteCe s q ce) := by
  unfold noteCe
  split
  · rename_i z0 z1 z2 z3
    extract_lets x4
    clear_value x4
    split
    · rename_i z5
      apply State.modQp_keeps
      apply State.porchOut_keeps
      exact h0
    · rename_i z6
      exact h0
  · rename_i z7 z8 z9 z10
    exact h0

theorem hostMessage_keeps {a0 s : State} (h0 : Keeps a0 s) (q : Nat) (x : HostFrame) (use : State → State) (h_use : ∀ (q0 : State), Keeps a0 q0 → Keeps a0 (use q0)) : Keeps a0 (hostMessage s q x use) := by
  unfold hostMessage
  split
  · rename_i z0
    exact h0
  · rename_i z1
    split
    · rename_i z2
      apply discardFrame_keeps
      exact h0
    · rename_i z3
      split
      · rename_i z4
        apply h_use
        apply noteCe_keeps
        exact h0
      · rename_i z5
        exact h0

theorem takeAccess_keeps {a0 s : State} (h0 : Keeps a0 s) (k : QpCfg) (h : HeldHost) : Keeps a0 (takeAccess s k h) := by
  unfold takeAccess
  apply pfcUpdate_keeps
  apply serveHeld_keeps
  apply State.modQp_keeps
  exact h0

theorem nakNoRoom_keeps {a0 s : State} (h0 : Keeps a0 s) (q : Nat) (psn : BitVec 24) : Keeps a0 (nakNoRoom s q psn) := by
  unfold nakNoRoom
  extract_lets x0
  clear_value x0
  split
  · rename_i z1
    apply State.modQp_keeps
    apply State.porchOut_keeps
    exact h0
  · rename_i z2
    exact h0

theorem takeRequest_keeps {a0 s : State} (h0 : Keeps a0 s) (k : QpCfg) (x : Qp) (h : HeldHost) : Keeps a0 (takeRequest s k x h) := by
  unfold takeRequest
  extract_lets x0 x1 x2 x3
  clear_value x0
  clear_value x2
  clear_value x3
  split
  · rename_i z4
    apply takeAccess_keeps
    dsimp only [x1]
    apply State.modQp_keeps
    exact h0
  · rename_i z5
    split
    · rename_i z6
      apply nakNoRoom_keeps
      exact h0
    · rename_i z7
      apply nakNoRoom_keeps
      apply takeAccess_keeps
      dsimp only [x1]
      apply State.modQp_keeps
      exact h0

theorem hostRequest_keeps {a0 s : State} (h0 : Keeps a0 s) (h : HeldHost) (wellFormed : Bool) : Keeps a0 (hostRequest s h wellFormed) := by
  unfold hostRequest
  extract_lets x0
  clear_value x0
  apply hostMessage_keeps
  · exact h0
  · intro y1 y2
    split
    · rename_i z3 z4 z5 z6 z7 z8
      extract_lets x9
      have k10 : Keeps a0 x9 := by
        unfold x9
        apply count_keeps
        exact y2
      clear_value x9
      split
      · rename_i z11
        split
        · rename_i z12
          apply nakFatal_keeps
          exact k10
        · rename_i z13
          apply takeRequest_keeps
          exact k10
      · rename_i z14
        split
        · rename_i z15
          split
          · rename_i z16
            exact k10
          · rename_i z17
            split
            · rename_i z18
              apply takeAccess_keeps
              exact k10
            · rename_i z19
              apply State.porchOut_keeps
              exact k10
        · rename_i z20
          apply State.porchOut_keeps
          exact k10
    · rename_i z21 z22 z23
      exact y2

theorem execSend_keeps {a0 s : State} (h0 : Keeps a0 s) (m : GhMsg) (h : HostHead) : OutKeeps a0 (execSend m h s) := by
  unfold execSend
  extract_lets x0 x1
  clear_value x0
  clear_value x1
  apply OutKeeps.next
  apply hostMessage_keeps
  · exact h0
  · intro y2 y3
    split
    · rename_i z4 z5 z6 z7 z8 z9
      extract_lets x10 x11 x12
      clear_value x10
      have k13 : Keeps a0 x11 := by
        unfold x11
        apply count_keeps
        exact y3
      clear_value x11
      have k14 : Keeps a0 x12 := by
        unfold x12
        apply State.modQp_keeps
        exact k13
      clear_value x12
      split
      · rename_i z15
        split
        · rename_i z16
          apply nakFatal_keeps
          exact k13
        · rename_i z17
          split
          · rename_i z18
            apply State.porchOut_keeps
            exact k13
          · rename_i z19
            apply clearUnknown_keeps
            apply takeAccess_keeps
            exact k14
      · rename_i z20
        split
        · rename_i z21
          split
          · rename_i z22
            exact k13
          · rename_i z23
            apply State.porchOut_keeps
            exact k13
        · rename_i z24
          apply State.porchOut_keeps
          exact k13
    · rename_i z25 z26 z27
      exact y3

theorem goOnHeld_keeps {a0 s : State} (h0 : Keeps a0 s) : Keeps a0 (goOnHeld s) := by
  unfold goOnHeld
  apply Keeps.fold
  · exact h0
  · intro y0 y1 y2
    apply resumeIntake_keeps
    split
    · rename_i z3
      apply drain_keeps
      exact y2
    · rename_i z4
      exact y2

theorem execRetryReissue_keeps {a0 s : State} (h0 : Keeps a0 s) : OutKeeps a0 (execRetryReissue s) := by
  unfold execRetryReissue
  apply OutKeeps.next
  split
  · rename_i z0
    extract_lets x1 x2 x3
    clear_value x1
    have k4 : Keeps a0 x2 := by
      unfold x2
      apply Keeps.fold
      · apply State.upTo_keeps
        exact h0
      · intro y5 y6 y7
        split
        · rename_i z8
          apply reissue_keeps
          exact y7
        · rename_i z9
          exact y7
    clear_value x2
    have k10 : Keeps a0 x3 := by
      unfold x3
      apply goOnHeld_keeps
      exact k4
    clear_value x3
    apply clearUnknown_keeps
    apply State.transmit_keeps
    apply pfcUpdate_keeps
    apply Keeps.fold
    · exact k10
    · intro y11 y12 y13
      apply serveHeld_keeps
      exact y13
  · rename_i z14
    exact h0

theorem execRdmaWrite_keeps {a0 s : State} (h0 : Keeps a0 s) (r : HostReq) (bytes : List Byte) : OutKeeps a0 (execRdmaWrite r bytes s) := by
  unfold execRdmaWrite
  apply OutKeeps.next
  apply hostRequest_keeps
  exact h0

theorem execRdmaWriteWithImmediate_keeps {a0 s : State} (h0 : Keeps a0 s) (r : HostReq) (bytes : List Byte) (_imm : BitVec 32) : OutKeeps a0 (execRdmaWriteWithImmediate r bytes _imm s) := by
  unfold execRdmaWriteWithImmediate
  apply OutKeeps.next
  apply hostRequest_keeps
  exact h0

theorem execRdmaRead_keeps {a0 s : State} (h0 : Keeps a0 s) (r : HostReq) (a : ReadAsk) : OutKeeps a0 (execRdmaRead r a s) := by
  unfold execRdmaRead
  apply OutKeeps.next
  apply hostRequest_keeps
  exact h0

theorem execInvalidRequest_keeps {a0 s : State} (h0 : Keeps a0 s) (q : QpIx) (h : HostHead) : OutKeeps a0 (execInvalidRequest q h s) := by
  unfold execInvalidRequest
  apply OutKeeps.next
  apply hostMessage_keeps
  · exact h0
  · intro y0 y1
    apply nakFatal_keeps
    apply count_keeps
    exact y1

theorem drainWritten_keeps {a0 s : State} (h0 : Keeps a0 s) (q : Req) (c : Nat) (upTo : BitVec 32) : Keeps a0 (drainWritten s q c upTo) := by
  unfold drainWritten
  extract_lets x0
  have k1 : Keeps a0 x0 := by
    unfold x0
    apply State.modCtx_keeps
    apply State.dropReq_keeps
    exact h0
  clear_value x0
  split
  · rename_i z2 z3 z4
    extract_lets x5
    clear_value x5
    apply goOnIntake_keeps
    split
    · rename_i z6
      apply drain_keeps
      exact k1
    · rename_i z7
      exact k1
  · rename_i z8 z9
    exact k1

theorem errorsWritten_keeps {a0 s : State} (h0 : Keeps a0 s) (q : Req) (upTo : Nat) : Keeps a0 (errorsWritten s q upTo) := by
  unfold errorsWritten
  extract_lets x0 x1 x2
  have k3 : Keeps a0 x0 := by
    unfold x0
    apply State.dropReq_keeps
    exact h0
  clear_value x0
  clear_value x1
  have k4 : Keeps a0 x2 := by
    unfold x2
    exact Keeps.put k3
  clear_value x2
  split
  · rename_i z5
    apply drainErrors_keeps
    exact k4
  · rename_i z6
    apply drainDue_keeps
    exact k4

theorem hostSettle_keeps {a0 s : State} (h0 : Keeps a0 s) (q : Req) (bytes : List Byte) : Keeps a0 (hostSettle s q bytes) := by
  unfold hostSettle
  split
  · rename_i z0 z1 z2 z3
    split
    · rename_i z4
      apply readDone_keeps
      exact h0
    · rename_i z5
      exact h0
  · rename_i z6 z7 z8 z9
    apply drainWritten_keeps
    exact h0
  · rename_i z10 z11 z12
    apply errorsWritten_keeps
    exact h0
  · rename_i z13 z14
    apply State.dropReq_keeps
    exact h0
  · rename_i z15 z16 z17 z18 z19
    apply writeDone_keeps
    exact h0

theorem retransmit_keeps {a0 s : State} (h0 : Keeps a0 s) (q : Nat) : Keeps a0 (retransmit s q) := by
  unfold retransmit
  extract_lets x0 x1
  clear_value x0
  have k2 : Keeps a0 x1 := by
    unfold x1
    exact Keeps.put h0
  clear_value x1
  apply Keeps.fold
  · exact k2
  · intro y3 y4 y5
    split
    · rename_i z6 z7 z8
      apply State.readyOut_keeps
      exact y5
    · rename_i z9 z10
      exact y5

theorem settleUpTo_keeps {a0 v1 : State} (h0 : Keeps a0 v1) (v0 : Nat) (v2 : Nat) (v3 : BitVec 24) (v4 : List Byte) : Keeps a0 (settleUpTo v0 v1 v2 v3 v4) := by
  induction v0 generalizing v1 v2 v3 v4 with
  | zero =>
    unfold settleUpTo
    exact h0
  | succ n ih =>
    unfold settleUpTo
    split
    · rename_i z0 z1 z2 z3
      extract_lets x4
      split
      · rename_i z5 z6 z7 z8
        split
        · rename_i z9
          apply ih
          dsimp only [x4]
          apply hostSettle_keeps
          apply State.modQp_keeps
          apply State.sentRequest_keeps
          exact h0
        · rename_i z10
          split
          · rename_i z11
            apply retransmit_keeps
            exact h0
          · rename_i z12
            exact h0
      · rename_i z13 z14
        split
        · rename_i z15
          apply ih
          dsimp only [x4]
          apply hostSettle_keeps
          apply State.modQp_keeps
          apply State.sentRequest_keeps
          exact h0
        · rename_i z16
          exact h0
    · rename_i z17 z18
      exact h0

theorem execHostAck_keeps {a0 s : State} (h0 : Keeps a0 s) (q : QpIx) (a : HostAck) : OutKeeps a0 (execHostAck q a s) := by
  unfold execHostAck
  apply OutKeeps.next
  apply hostMessage_keeps
  · exact h0
  · intro y0 y1
    extract_lets x2
    have k3 : Keeps a0 x2 := by
      unfold x2
      apply count_keeps
      exact y1
    clear_value x2
    apply State.transmit_keeps
    apply settleUpTo_keeps
    exact k3

theorem retryQp_keeps {a0 s : State} (h0 : Keeps a0 s) (k : QpCfg) (x : Qp) : Keeps a0 (retryQp s k x) := by
  unfold retryQp
  split
  · rename_i z0
    apply qpError_keeps
    exact h0
  · rename_i z1
    apply retransmit_keeps
    apply State.modQp_keeps
    exact h0

theorem execHostNak_keeps {a0 s : State} (h0 : Keeps a0 s) (q : QpIx) (n : HostNak) : OutKeeps a0 (execHostNak q n s) := by
  unfold execHostNak
  apply OutKeeps.next
  apply hostMessage_keeps
  · exact h0
  · intro y0 y1
    extract_lets x2 x3
    have k4 : Keeps a0 x2 := by
      unfold x2
      apply count_keeps
      exact y1
    clear_value x2
    have k5 : Keeps a0 x3 := by
      unfold x3
      apply settleUpTo_keeps
      exact k4
    clear_value x3
    split
    · rename_i z6 z7 z8 z9 z10 z11
      split
      · rename_i z12
        exact k5
      · rename_i z13
        split
        · rename_i z14 z15
          apply retryQp_keeps
          exact k5
        · rename_i z16 z17
          split
          · rename_i z18
            apply qpError_keeps
            exact k5
          · rename_i z19
            apply retransmit_keeps
            apply State.modQp_keeps
            exact k5
        · rename_i z20 z21 z22
          apply qpError_keeps
          exact k5
    · rename_i z23 z24 z25
      exact k5

theorem execAckTimeout_keeps {a0 s : State} (h0 : Keeps a0 s) (q : QpIx) : OutKeeps a0 (execAckTimeout q s) := by
  unfold execAckTimeout
  apply OutKeeps.next
  split
  · rename_i z0 z1 z2 z3 z4 z5 z6 z7 z8 z9
    split
    · rename_i z10
      apply retryQp_keeps
      apply State.upTo_keeps
      exact h0
    · rename_i z11
      exact h0
  · rename_i z12 z13 z14 z15
    exact h0

theorem execCnp_keeps {a0 s : State} (h0 : Keeps a0 s) (q : QpIx) : OutKeeps a0 (execCnp q s) := by
  unfold execCnp
  apply OutKeeps.next
  split
  · rename_i z0 z1 z2
    extract_lets x3 x4 x5
    clear_value x3
    clear_value x4
    clear_value x5
    split
    · rename_i z6
      apply State.modQp_keeps
      exact h0
    · rename_i z7
      exact h0
  · rename_i z8 z9
    exact h0

theorem execRecIntervalExpiry_keeps {a0 s : State} (h0 : Keeps a0 s) (q : QpIx) : OutKeeps a0 (execRecIntervalExpiry q s) := by
  unfold execRecIntervalExpiry
  apply OutKeeps.next
  split
  · rename_i z0 z1 z2
    split
    · rename_i z3
      extract_lets x4 x5
      have k6 : Keeps a0 x4 := by
        unfold x4
        apply State.upTo_keeps
        exact h0
      clear_value x4
      clear_value x5
      apply State.transmit_keeps
      apply State.modQp_keeps
      exact k6
    · rename_i z7
      exact h0
  · rename_i z8 z9
    exact h0

theorem execPfcPause_keeps {a0 s : State} (h0 : Keeps a0 s) (prio : Fin 8) (xoff : Bool) : OutKeeps a0 (execPfcPause prio xoff s) := by
  unfold execPfcPause
  apply OutKeeps.next
  split
  · rename_i z0
    extract_lets x1 x2
    clear_value x1
    clear_value x2
    apply State.transmit_keeps
    exact Keeps.put h0
  · rename_i z3
    exact h0

theorem execArp_keeps {a0 s : State} (h0 : Keeps a0 s) (ip : BitVec 32) (mac : BitVec 48) : OutKeeps a0 (execArp ip mac s) := by
  unfold execArp
  apply OutKeeps.next
  split
  · rename_i z0
    split
    · rename_i z1
      apply State.porchOut_keeps
      exact h0
    · rename_i z2
      apply discardFrame_keeps
      exact h0
  · rename_i z3
    exact h0

theorem execNeighborSolicitation_keeps {a0 s : State} (h0 : Keeps a0 s) (ip : BitVec 128) (mac : BitVec 48) : OutKeeps a0 (execNeighborSolicitation ip mac s) := by
  unfold execNeighborSolicitation
  apply OutKeeps.next
  split
  · rename_i z0
    split
    · rename_i z1
      apply State.porchOut_keeps
      exact h0
    · rename_i z2
      apply discardFrame_keeps
      exact h0
  · rename_i z3
    exact h0

theorem execFrameDiscard_keeps {a0 s : State} (h0 : Keeps a0 s) : OutKeeps a0 (execFrameDiscard s) := by
  unfold execFrameDiscard
  apply OutKeeps.next
  split
  · rename_i z0
    apply discardFrame_keeps
    exact h0
  · rename_i z1
    exact h0

theorem porchDown_keeps {a0 s : State} (h0 : Keeps a0 s) : Keeps a0 (porchDown s) := by
  unfold porchDown
  split
  · rename_i z0
    exact Keeps.put h0
  · rename_i z1
    exact h0

theorem execPorchLinkDown_keeps {a0 s : State} (h0 : Keeps a0 s) : OutKeeps a0 (execPorchLinkDown s) := by
  unfold execPorchLinkDown
  apply OutKeeps.next
  split
  · rename_i z0
    apply porchDown_keeps
    exact h0
  · rename_i z1
    exact h0

theorem execPorchRetrainAttempt_keeps {a0 s : State} (h0 : Keeps a0 s) : OutKeeps a0 (execPorchRetrainAttempt s) := by
  unfold execPorchRetrainAttempt
  apply OutKeeps.next
  split
  · rename_i z0
    extract_lets x1 x2
    have k3 : Keeps a0 x1 := by
      unfold x1
      apply State.upTo_keeps
      exact h0
    clear_value x1
    clear_value x2
    exact Keeps.put k3
  · rename_i z4
    exact h0

theorem execPorchLinkUp_keeps {a0 s : State} (h0 : Keeps a0 s) : OutKeeps a0 (execPorchLinkUp s) := by
  unfold execPorchLinkUp
  apply OutKeeps.next
  split
  · rename_i z0
    apply State.transmit_keeps
    exact Keeps.put h0
  · rename_i z1
    exact h0

/-! ## Machine/Release.lean -/

theorem changeQps_keeps {a0 s : State} (h0 : Keeps a0 s) (old : Cfg) (new : Cfg) : Keeps a0 (changeQps s old new) := by
  unfold changeQps
  extract_lets x0 x1 x2 x3
  clear_value x1
  have k4 : Keeps a0 x2 := by
    unfold x2
    apply Keeps.fold
    · exact h0
    · intro y5 y6 y7
      apply reportUnreachable_keeps
      exact y7
  clear_value x2
  clear_value x3
  exact Keeps.put k4

theorem applyVariant_keeps {a0 s : State} (h0 : Keeps a0 s) (v : BitVec 4) : Keeps a0 (applyVariant s v) := by
  unfold applyVariant
  extract_lets old new moves s1 b0 m0 p0 t
  have k1 : Keeps a0 s1 := changeQps_keeps h0 _ _
  clear_value s1
  have k : Keeps a0 t := by
    refine Keeps.pantryMap k1 (m := t.memory) (fun p d => if moves.contains d then bytesIn (keptRanges old new d) p else p) rfl
      (fun p n h => ?_) rfl rfl rfl rfl rfl rfl ⟨rfl, rfl, rfl, rfl, rfl, rfl⟩
    split
    · exact canonical_filter h _
    · exact h
  clear_value t
  apply pfcUpdate_keeps
  apply Keeps.fold k
  intro s p h
  split
  · split
    · exact enablePort_keeps h _
    · exact h
  · extract_lets x
    have hx : Keeps a0 x := disablePort_keeps h _
    clear_value x
    split
    · exact hx
    · exact enablePort_keeps hx _

theorem reopenContexts_keeps {a0 s : State} (h0 : Keeps a0 s) : Keeps a0 (reopenContexts s) := by
  unfold reopenContexts
  extract_lets x0
  have k1 : Keeps a0 x0 := by
    unfold x0
    apply Keeps.fold
    · exact h0
    · intro y2 y3 y4
      split
      · rename_i z5
        apply releasePins_keeps
        exact y4
      · rename_i z6
        exact y4
  clear_value x0
  exact Keeps.put k1

theorem State.takeRelease_keeps {a0 s : State} (h0 : Keeps a0 s) : Keeps a0 (State.takeRelease s) := by
  unfold State.takeRelease
  exact Keeps.put h0

theorem releaseCReset_keeps {a0 s : State} (h0 : Keeps a0 s) (r : CReset) (at_ : Nat) : Keeps a0 (releaseCReset s r at_) := by
  unfold releaseCReset
  extract_lets x0 x1 x2 x3
  clear_value x0
  have k4 : Keeps a0 x1 := by
    unfold x1
    apply resetPantries_keeps
    apply abandonWriteBacks_keeps
    apply State.takeRelease_keeps
    apply State.upTo_keeps
    exact h0
  clear_value x1
  have k5 : Keeps a0 x2 := by
    unfold x2
    split
    · rename_i z6 z7 z8
      apply withCaps_keeps
      · exact k4
      · intro y9 y10
        apply applyVariant_keeps
        exact y10
    · rename_i z11 z12
      exact k4
  clear_value x2
  have k13 : Keeps a0 x3 := by
    unfold x3
    apply applyDefectMap_keeps
    exact k5
  clear_value x3
  split
  · rename_i z14
    apply enterNoImage_keeps
    exact k13
  · rename_i z15
    split
    · rename_i z16 z17 z18 z19
      have k20 := Keeps.ofSnd z19 (a := a0) (by
          apply State.takeFree_keeps
          exact k13)
      split
      · rename_i z21 z22 z23 z24
        have k25 := Keeps.ofSnd z24 (a := a0) (by
            apply State.takeFree_keeps
            exact k20)
        extract_lets x26 x27 x28 x29
        have k30 : Keeps a0 x27 := by
          unfold x27
          exact Keeps.put' k25 (by simp +contextual [State.HasUnits])
        clear_value x27
        have k31 : Keeps a0 x28 := by
          unfold x28
          apply reopenContexts_keeps
          exact k30
        clear_value x28
        have k32 : Keeps a0 x29 := by
          unfold x29
          apply State.upTo_keeps
          exact k31
        clear_value x29
        exact Keeps.put k32

theorem execComputeRstDeassert_keeps {a0 s : State} (h0 : Keeps a0 s) : OutKeeps a0 (execComputeRstDeassert s) := by
  unfold execComputeRstDeassert
  apply OutKeeps.next
  split
  · rename_i z0 z1 z2
    exact Keeps.put h0
  · rename_i z3 z4 z5 z6 z7
    split
    · rename_i z8
      apply releaseCReset_keeps
      exact h0
    · rename_i z9
      exact h0
  · rename_i z10 z11 z12 z13
    exact h0

theorem execGatehouseResetRelease_keeps {a0 s : State} (h0 : Keeps a0 s) : OutKeeps a0 (execGatehouseResetRelease s) := by
  unfold execGatehouseResetRelease
  apply OutKeeps.next
  split
  · rename_i z0 z1 z2 z3 z4
    split
    · rename_i z5
      apply releaseCReset_keeps
      exact h0
    · rename_i z6
      exact h0
  · rename_i z7 z8 z9
    exact h0

/-! ## Machine/Gate.lean -/

theorem takeMsg_keeps {a0 s : State} (h0 : Keeps a0 s) (m : GhMsg) (code : Nat) : OptKeeps a0 (takeMsg s m code) := by
  unfold takeMsg
  split
  · rename_i z0
    exact OptKeeps.none
  · rename_i z1
    split
    · rename_i z2 z3
      split
      · rename_i z4
        apply OptKeeps.some
        exact h0
      · rename_i z5
        exact OptKeeps.none
    · rename_i z6 z7 z8 z9
      split
      · rename_i z10
        apply OptKeeps.some
        exact Keeps.put h0
      · rename_i z11
        exact OptKeeps.none

theorem accept_keeps {a0 s : State} (h0 : Keeps a0 s) (c : Cmd) (m : GhMsg) : Keeps a0 (accept s c m) := by
  unfold accept
  extract_lets x0 x1
  have k2 : Keeps a0 x0 := by
    unfold x0
    apply count_keeps
    apply count_keeps
    exact h0
  clear_value x0
  clear_value x1
  split
  · rename_i z3
    apply chainAdd_keeps
    exact Keeps.put k2
  · rename_i z4
    exact k2

theorem runMsg_keeps {a0 s : State} (h0 : Keeps a0 s) (c : Cmd) (m : GhMsg) (effect : State → State) (h_effect : ∀ (q0 : State), Keeps a0 q0 → Keeps a0 (effect q0)) : Keeps a0 (runMsg s c m effect) := by
  unfold runMsg
  split
  · rename_i z0 z1
    exact h0
  · rename_i z2 z3 z4
    have k5 := OptKeeps.of z4 (a := a0) (by
        apply takeMsg_keeps
        exact h0)
    extract_lets x6
    clear_value x6
    apply clearUnknown_keeps
    split
    · rename_i z7
      apply h_effect
      apply accept_keeps
      exact k5
    · rename_i z8
      apply ghReply_keeps
      exact k5

theorem thenOk_keeps {a0 s : State} (h0 : Keeps a0 s) (m : GhMsg) (f : State → State) (h_f : ∀ (q0 : State), Keeps a0 q0 → Keeps a0 (f q0)) : Keeps a0 (thenOk m f s) := by
  unfold thenOk
  apply ghReply_keeps
  apply h_f
  exact h0

theorem okThen_keeps {a0 s : State} (h0 : Keeps a0 s) (m : GhMsg) (f : State → State) (h_f : ∀ (q0 : State), Keeps a0 q0 → Keeps a0 (f q0)) : Keeps a0 (okThen m f s) := by
  unfold okThen
  apply h_f
  apply ghReply_keeps
  exact h0

theorem execGetIdentity_keeps {a0 s : State} (h0 : Keeps a0 s) (m : GhMsg) : OutKeeps a0 (execGetIdentity m s) := by
  unfold execGetIdentity
  apply OutKeeps.next
  apply runMsg_keeps
  · exact h0
  · intro y0 y1
    apply ghReply_keeps
    exact y1

theorem execGetNonce_keeps {a0 s : State} (h0 : Keeps a0 s) (m : GhMsg) : OutKeeps a0 (execGetNonce m s) := by
  unfold execGetNonce
  apply OutKeeps.next
  apply runMsg_keeps
  · exact h0
  · intro y0 y1
    apply ghReply_keeps
    exact y1

theorem execQuote_keeps {a0 s : State} (h0 : Keeps a0 s) (m : GhMsg) : OutKeeps a0 (execQuote m s) := by
  unfold execQuote
  apply OutKeeps.next
  apply runMsg_keeps
  · exact h0
  · intro y0 y1
    apply ghReply_keeps
    exact y1

theorem execSelectVariant_keeps {a0 s : State} (h0 : Keeps a0 s) (m : GhMsg) : OutKeeps a0 (execSelectVariant m s) := by
  unfold execSelectVariant
  extract_lets x0
  clear_value x0
  apply OutKeeps.next
  apply runMsg_keeps
  · exact h0
  · intro y1 y2
    apply okThen_keeps
    · exact y2
    · intro y3 y4
      apply startCReset_keeps
      exact y4

theorem execComputeReset_keeps {a0 s : State} (h0 : Keeps a0 s) (m : GhMsg) : OutKeeps a0 (execComputeReset m s) := by
  unfold execComputeReset
  apply OutKeeps.next
  apply runMsg_keeps
  · exact h0
  · intro y0 y1
    apply okThen_keeps
    · exact y1
    · intro y2 y3
      apply startCReset_keeps
      exact y3

theorem execContextReset_keeps {a0 s : State} (h0 : Keeps a0 s) (m : GhMsg) : OutKeeps a0 (execContextReset m s) := by
  unfold execContextReset
  extract_lets x0
  clear_value x0
  apply OutKeeps.next
  apply runMsg_keeps
  · exact h0
  · intro y1 y2
    apply thenOk_keeps
    · exact y2
    · intro y3 y4
      apply writeCtxReset_keeps
      exact y4

theorem execStackRetrain_keeps {a0 s : State} (h0 : Keeps a0 s) (m : GhMsg) : OutKeeps a0 (execStackRetrain m s) := by
  unfold execStackRetrain
  extract_lets x0
  clear_value x0
  apply OutKeeps.next
  apply runMsg_keeps
  · exact h0
  · intro y1 y2
    apply thenOk_keeps
    · exact y2
    · intro y3 y4
      apply State.modMem_keeps
      · exact y4
      · intro y5
        exact modStack_keeps (.refl _) ..

theorem resumeDrains_keeps {a0 s : State} (h0 : Keeps a0 s) (q : Nat) : Keeps a0 (resumeDrains s q) := by
  unfold resumeDrains
  extract_lets x0
  have k1 : Keeps a0 x0 := by
    unfold x0
    apply Keeps.fold
    · exact h0
    · intro y2 y3 y4
      split
      · rename_i z5
        exact y4
      · rename_i z6
        apply drain_keeps
        exact y4
  clear_value x0
  split
  · rename_i z7
    apply drainErrors_keeps
    exact k1
  · rename_i z8
    exact k1

theorem resetQp_keeps {a0 s : State} (h0 : Keeps a0 s) (k : QpCfg) (tx : BitVec 24) (rx : BitVec 24) : Keeps a0 (resetQp s k tx rx) := by
  unfold resetQp
  extract_lets x0 x1 x2
  have k3 : Keeps a0 x0 := by
    unfold x0
    apply reportUnreachable_keeps
    exact h0
  clear_value x0
  clear_value x1
  have k4 : Keeps a0 x2 := by
    unfold x2
    exact Keeps.put k3
  clear_value x2
  apply pfcUpdate_keeps
  apply resumeDrains_keeps
  apply State.modQp_keeps
  exact k4

theorem execQpReset_keeps {a0 s : State} (h0 : Keeps a0 s) (m : GhMsg) : OutKeeps a0 (execQpReset m s) := by
  unfold execQpReset
  extract_lets x0 x1 x2
  clear_value x0
  clear_value x1
  clear_value x2
  apply OutKeeps.next
  apply runMsg_keeps
  · exact h0
  · intro y3 y4
    apply thenOk_keeps
    · exact y4
    · intro y5 y6
      split
      · rename_i z7 z8 z9
        apply resetQp_keeps
        exact y6
      · rename_i z10 z11
        exact y6

theorem execFenceClear_keeps {a0 s : State} (h0 : Keeps a0 s) (m : GhMsg) : OutKeeps a0 (execFenceClear m s) := by
  unfold execFenceClear
  extract_lets x0
  clear_value x0
  apply OutKeeps.next
  apply runMsg_keeps
  · exact h0
  · intro y1 y2
    apply thenOk_keeps
    · exact y2
    · intro y3 y4
      exact Keeps.put y4

theorem execSafeState_keeps {a0 s : State} (h0 : Keeps a0 s) (m : GhMsg) : OutKeeps a0 (execSafeState m s) := by
  unfold execSafeState
  apply OutKeeps.next
  apply runMsg_keeps
  · exact h0
  · intro y0 y1
    apply okThen_keeps
    · exact y1
    · intro y2 y3
      apply enterSafe_keeps
      apply raiseError_keeps
      exact y3

theorem Keeps.burn {a s : State} (h : Keeps a s) {f : Fuses} (hf : FuseLe s.fuses f) : Keeps a { s with fuses := f } :=
  ⟨h.queue, h.fuses.trans hf, h.canon, h.units, h.latched⟩

theorem FuseLe.floor (f : Fuses) (n : Nat) (v : BitVec 32) : FuseLe f { f with floors := f.floors.modify n (fun l => l ++ [v]) } := by
  refine ⟨⟨rfl, rfl, rfl⟩, ⟨rfl, rfl, rfl, rfl⟩, by simp, by simp, fun k => ?_, fun _ _ h => h⟩
  simp only [List.getD_eq_getElem?_getD, List.getElem?_modify]
  cases f.floors[k]? with
  | none => simp
  | some l =>
    by_cases e : n = k
    · simp [e]
    · simp [e]

theorem FuseLe.key (f : Fuses) (n : Nat) (k : BitVec 512) (hn : f.ownerKeys.getD n none = none) :
    FuseLe f { f with ownerKeys := f.ownerKeys.set n (some k) } := by
  refine ⟨⟨rfl, rfl, rfl⟩, ⟨rfl, rfl, rfl, rfl⟩, by simp, by simp, fun _ => List.prefix_rfl, fun m x hx => ?_⟩
  by_cases e : n = m
  · subst e; rw [hn] at hx; simp at hx
  · simp only [List.getD_eq_getElem?_getD, List.getElem?_set_ne e] at hx ⊢
    exact hx

theorem and_or_same {w : Nat} (a b : BitVec w) : a &&& (a ||| b) = a := by
  ext i hi
  simp
  intro h
  exact .inl h

theorem FuseLe.revoke (f : Fuses) (k : Nat) : FuseLe f (burnRevoke f k) := by
  unfold burnRevoke
  split
  · refine ⟨⟨rfl, rfl, rfl⟩, ⟨rfl, rfl, rfl, rfl⟩, by simp, and_or_same _ _, fun _ => List.prefix_rfl, fun _ _ h => h⟩
  · refine ⟨⟨rfl, rfl, rfl⟩, ⟨rfl, rfl, rfl, rfl⟩, and_or_same _ _, by simp, fun _ => List.prefix_rfl, fun _ _ h => h⟩

theorem burnFloors_keeps {a0 s : State} (h0 : Keeps a0 s) (ns : List Nat) : Keeps a0 (burnFloors s ns) := by
  unfold burnFloors
  apply Keeps.fold h0
  intro s n h
  exact h.burn (FuseLe.floor _ _ _)

theorem execRollbackRaise_keeps {a0 s : State} (h0 : Keeps a0 s) (m : GhMsg) : OutKeeps a0 (execRollbackRaise m s) := by
  unfold execRollbackRaise
  extract_lets x0
  clear_value x0
  apply OutKeeps.next
  apply runMsg_keeps
  · exact h0
  · intro y1 y2
    apply thenOk_keeps
    · exact y2
    · intro y3 y4
      apply burnFloors_keeps
      exact y4

theorem emptySlot_none {f : Fuses} {n : Nat} (h : emptySlot f = some n) : f.ownerKeys.getD n none = none := by
  unfold emptySlot at h
  have := List.find?_some h
  simpa using this

theorem execKeyEnroll_keeps {a0 s : State} (h0 : Keeps a0 s) (m : GhMsg) : OutKeeps a0 (execKeyEnroll m s) := by
  unfold execKeyEnroll
  extract_lets key
  clear_value key
  apply OutKeeps.next
  apply runMsg_keeps h0
  intro s h
  apply thenOk_keeps h
  intro s h
  split
  · rename_i n hn
    exact h.burn (FuseLe.key _ _ _ (emptySlot_none hn))
  · exact h

theorem execKeyRevoke_keeps {a0 s : State} (h0 : Keeps a0 s) (m : GhMsg) : OutKeeps a0 (execKeyRevoke m s) := by
  unfold execKeyRevoke
  extract_lets k valid
  clear_value valid k
  apply OutKeeps.next
  apply runMsg_keeps h0
  intro s h
  apply thenOk_keeps h
  intro s h
  exact h.burn (FuseLe.revoke _ _)

theorem execControlWrite_keeps {a0 s : State} (h0 : Keeps a0 s) (m : GhMsg) : OutKeeps a0 (execControlWrite m s) := by
  unfold execControlWrite
  extract_lets x0
  clear_value x0
  apply OutKeeps.next
  apply runMsg_keeps
  · exact h0
  · intro y1 y2
    apply thenOk_keeps
    · exact y2
    · intro y3 y4
      split
      · rename_i z5
        apply regWrite_keeps
        exact y4
      · rename_i z6
        exact y4

theorem modOther_keeps {a0 s : State} (h0 : Keeps a0 s) (f : SlotImage → SlotImage) : Keeps a0 (modOther s f) := by
  unfold modOther
  exact Keeps.put h0

theorem beginWrite_keeps {a0 s : State} (h0 : Keeps a0 s) (qp : Option QpIx) (port : Nat) (length : Nat) (measure : BitVec 512) : Keeps a0 (beginWrite s qp port length measure) := by
  unfold beginWrite
  extract_lets x0 x1
  have k2 : Keeps a0 x0 := by
    unfold x0
    apply modOther_keeps
    exact h0
  clear_value x0
  clear_value x1
  exact Keeps.put k2

theorem execImageWrite_keeps {a0 s : State} (h0 : Keeps a0 s) (m : GhMsg) : OutKeeps a0 (execImageWrite m s) := by
  unfold execImageWrite
  extract_lets x0
  clear_value x0
  apply OutKeeps.next
  apply runMsg_keeps
  · exact h0
  · intro y1 y2
    apply thenOk_keeps
    · exact y2
    · intro y3 y4
      apply beginWrite_keeps
      exact y4

theorem putData_keeps {a0 s : State} (h0 : Keeps a0 s) (w : ImageWrite) (at_ : Nat) (bs : List Byte) : Keeps a0 (putData s w at_ bs) := by
  unfold putData
  extract_lets x0 x1 x2 x3 x4
  clear_value x0
  clear_value x1
  clear_value x2
  have k5 : Keeps a0 x3 := by
    unfold x3
    apply modOther_keeps
    exact h0
  clear_value x3
  clear_value x4
  exact Keeps.put k5

theorem finishWrite_keeps {a0 s : State} (h0 : Keeps a0 s) (w : ImageWrite) : Keeps a0 (finishWrite s w).1 := by
  unfold finishWrite
  extract_lets x0 x1 x2
  have k3 : Keeps a0 x0 := by
    unfold x0
    apply modOther_keeps
    exact h0
  clear_value x0
  clear_value x1
  have k4 : Keeps a0 x2 := by
    unfold x2
    exact Keeps.put k3
  clear_value x2
  split
  · rename_i z5
    exact k4
  · rename_i z6
    split
    · rename_i z7 z8 z9
      exact k4
    · rename_i z10 z11 z12
      dsimp only
      apply chainAdd_keeps
      exact k4

theorem sendFwd_keeps {a0 s : State} (h0 : Keeps a0 s) (p : Nat) (typ : Nat) (word1 : Nat) (body : List Byte) : Keeps a0 (sendFwd s p typ word1 body) := by
  unfold sendFwd
  apply enqueue_keeps
  exact h0

theorem forwardImage_keeps {a0 s : State} (h0 : Keeps a0 s) (w : ImageWrite) (p : Nat) : Keeps a0 (forwardImage s w p) := by
  unfold forwardImage
  extract_lets x0 x1
  clear_value x0
  have k2 : Keeps a0 x1 := by
    unfold x1
    apply sendFwd_keeps
    exact h0
  clear_value x1
  apply Keeps.fold
  · exact k2
  · intro y3 y4 y5
    apply sendFwd_keeps
    exact y5

theorem settleForwarding_keeps {a0 s : State} (h0 : Keeps a0 s) : Keeps a0 (settleForwarding s) := by
  unfold settleForwarding
  split
  · rename_i z0 z1 z2
    split
    · rename_i z3
      apply clearUnknown_keeps
      apply ghReply_keeps
      exact Keeps.put h0
    · rename_i z4
      exact h0
  · rename_i z5 z6
    exact h0

theorem startForwarding_keeps {a0 s : State} (h0 : Keeps a0 s) (w : ImageWrite) (m : GhMsg) : Keeps a0 (startForwarding s w m) := by
  unfold startForwarding
  extract_lets x0 x1 x2
  clear_value x0
  have k3 : Keeps a0 x1 := by
    unfold x1
    apply Keeps.fold
    · exact h0
    · intro y4 y5 y6
      apply forwardImage_keeps
      exact y6
  clear_value x1
  clear_value x2
  apply settleForwarding_keeps
  exact Keeps.put k3

theorem execImageData_keeps {a0 s : State} (h0 : Keeps a0 s) (m : GhMsg) : OutKeeps a0 (execImageData m s) := by
  unfold execImageData
  apply OutKeeps.next
  apply runMsg_keeps
  · exact h0
  · intro y0 y1
    split
    · rename_i z2 z3
      exact y1
    · rename_i z4 z5 z6
      extract_lets x7
      have k8 : Keeps a0 x7 := by
        unfold x7
        apply putData_keeps
        exact y1
      clear_value x7
      split
      · rename_i z9 z10 z11
        split
        · rename_i z12
          split
          · rename_i z13 z14 z15 z16 z17
            have k18 := Keeps.ofFst z17 (a := a0) (by
                apply finishWrite_keeps
                exact k8)
            split
            · rename_i z19
              apply startForwarding_keeps
              exact k18
            · rename_i z20
              apply ghReply_keeps
              exact k18
        · rename_i z21
          apply ghReply_keeps
          exact k8
      · rename_i z22 z23
        exact k8

theorem execImageWriteAbandon_keeps {a0 s : State} (h0 : Keeps a0 s) : OutKeeps a0 (execImageWriteAbandon s) := by
  unfold execImageWriteAbandon
  apply OutKeeps.next
  split
  · rename_i z0 z1 z2
    split
    · rename_i z3
      extract_lets x4 x5
      have k6 : Keeps a0 x4 := by
        unfold x4
        apply State.upTo_keeps
        exact h0
      clear_value x4
      clear_value x5
      exact Keeps.put k6
    · rename_i z7
      exact h0
  · rename_i z8 z9
    exact h0

theorem takeFabMsg_keeps {a0 s : State} (h0 : Keeps a0 s) (p : Nat) (typ : Nat) (m : FabMsg) (f : State → State) (h_f : ∀ (q0 : State), Keeps a0 q0 → Keeps a0 (f q0)) : Keeps a0 (takeFabMsg s p typ m f) := by
  unfold takeFabMsg
  split
  · rename_i z0
    exact h0
  · rename_i z1
    split
    · rename_i z2
      apply State.modPort_keeps
      exact h0
    · rename_i z3
      split
      · rename_i z4
        exact h0
      · rename_i z5
        apply h_f
        exact h0

theorem sendResult_keeps {a0 s : State} (h0 : Keeps a0 s) (p : Nat) (status : Nat) (fail : Nat) : Keeps a0 (sendResult s p status fail) := by
  unfold sendResult
  apply sendFwd_keeps
  exact h0

theorem fwdStartArrive_keeps {a0 s : State} (h0 : Keeps a0 s) (p : Nat) (m : FabMsg) : Keeps a0 (fwdStartArrive s p m) := by
  unfold fwdStartArrive
  apply takeFabMsg_keeps
  · exact h0
  · intro y0 y1
    extract_lets x2 x3
    clear_value x2
    clear_value x3
    split
    · rename_i z4
      exact y1
    · rename_i z5
      split
      · rename_i z6
        apply beginWrite_keeps
        exact y1
      · rename_i z7
        apply sendResult_keeps
        exact y1

theorem fwdDataArrive_keeps {a0 s : State} (h0 : Keeps a0 s) (p : Nat) (m : FabMsg) : Keeps a0 (fwdDataArrive s p m) := by
  unfold fwdDataArrive
  apply takeFabMsg_keeps
  · exact h0
  · intro y0 y1
    split
    · rename_i z2 z3 z4
      extract_lets x5 x6
      clear_value x5
      have k7 : Keeps a0 x6 := by
        unfold x6
        apply putData_keeps
        exact y1
      clear_value x6
      split
      · rename_i z8
        exact y1
      · rename_i z9
        split
        · rename_i z10 z11 z12
          split
          · rename_i z13
            split
            · rename_i z14 z15 z16 z17 z18
              have k19 := Keeps.ofFst z18 (a := a0) (by
                  apply finishWrite_keeps
                  exact k7)
              apply sendResult_keeps
              exact k19
          · rename_i z20
            exact k7
        · rename_i z21 z22
          exact k7
    · rename_i z23 z24
      exact y1

theorem fwdResult_keeps {a0 s : State} (h0 : Keeps a0 s) (p : Nat) (r : Nat) : Keeps a0 (fwdResult s p r) := by
  unfold fwdResult
  split
  · rename_i z0 z1 z2
    split
    · rename_i z3
      apply settleForwarding_keeps
      exact Keeps.put h0
    · rename_i z4
      exact h0
  · rename_i z5 z6
    exact h0

theorem fwdResultArrive_keeps {a0 s : State} (h0 : Keeps a0 s) (p : Nat) (m : FabMsg) : Keeps a0 (fwdResultArrive s p m) := by
  unfold fwdResultArrive
  apply takeFabMsg_keeps
  · exact h0
  · intro y0 y1
    split
    · rename_i z2
      exact y1
    · rename_i z3
      apply fwdResult_keeps
      exact y1

theorem execImageFwdStart_keeps {a0 s : State} (h0 : Keeps a0 s) (p : PortIx) (m : FabMsg) : OutKeeps a0 (execImageFwdStart p m s) := by
  unfold execImageFwdStart
  apply OutKeeps.next
  split
  · rename_i z0
    apply fwdStartArrive_keeps
    exact h0
  · rename_i z1
    exact h0

theorem execImageFwdData_keeps {a0 s : State} (h0 : Keeps a0 s) (p : PortIx) (m : FabMsg) : OutKeeps a0 (execImageFwdData p m s) := by
  unfold execImageFwdData
  apply OutKeeps.next
  split
  · rename_i z0
    apply fwdDataArrive_keeps
    exact h0
  · rename_i z1
    exact h0

theorem execImageFwdResult_keeps {a0 s : State} (h0 : Keeps a0 s) (p : PortIx) (m : FabMsg) : OutKeeps a0 (execImageFwdResult p m s) := by
  unfold execImageFwdResult
  apply OutKeeps.next
  split
  · rename_i z0
    apply fwdResultArrive_keeps
    exact h0
  · rename_i z1
    exact h0

theorem execImageFwdTimeout_keeps {a0 s : State} (h0 : Keeps a0 s) (p : PortIx) : OutKeeps a0 (execImageFwdTimeout p s) := by
  unfold execImageFwdTimeout
  apply OutKeeps.next
  split
  · rename_i z0 z1 z2
    split
    · rename_i z3
      apply fwdResult_keeps
      apply State.upTo_keeps
      exact h0
    · rename_i z4
      exact h0
  · rename_i z5 z6
    exact h0

end Sys2Proof.Machine
end

