-- ==== Sys2Proof/Laws/LeftSpejan.lean ====
section
/-! SUPPORT. What each operation leaves (Keeps): the Spejan, the integrity monitors and accesses that go on. -/

set_option Elab.async false
set_option linter.unusedVariables false

namespace Sys2Proof.Machine

/-! ## Machine/Spejan.lean -/

theorem discardPacket_keeps {a0 s : State} (h0 : Keeps a0 s) (p : Nat) : Keeps a0 (discardPacket s p) := by
  unfold discardPacket
  apply State.modPort_keeps
  exact h0

theorem discardRecord_keeps {a0 s : State} (h0 : Keeps a0 s) (p : Nat) (k : Packet) (stall : Bool) : Keeps a0 (discardRecord s p k stall) := by
  unfold discardRecord
  apply raiseError_keeps
  exact h0

theorem answerArrive_keeps {a0 s : State} (h0 : Keeps a0 s) (k : Packet) : Keeps a0 (answerArrive s k) := by
  unfold answerArrive
  split
  · rename_i z0 z1 z2
    split
    · rename_i z3
      split
      · rename_i z4 z5 z6
        apply settle_keeps
        exact h0
      · rename_i z7 z8
        exact h0
    · rename_i z9
      exact h0
  · rename_i z10 z11
    exact h0

theorem requestArrive_keeps {a0 s : State} (h0 : Keeps a0 s) (p : Nat) (k : Packet) : Keeps a0 (requestArrive s p k) := by
  unfold requestArrive
  split
  · rename_i z0 z1 z2 z3
    have k4 := Keeps.ofFst z3 (a := a0) (by
        apply serve_keeps
        exact h0)
    apply drainDue_keeps
    apply State.sendPacket_keeps
    exact k4
  · rename_i z5 z6 z7
    have k8 := Keeps.ofFst z7 (a := a0) (by
        apply serve_keeps
        exact h0)
    exact k8

theorem msgArrive_keeps {a0 s : State} (h0 : Keeps a0 s) (p : Nat) (m : FabMsg) : Keeps a0 (msgArrive s p m) := by
  unfold msgArrive
  extract_lets x0
  clear_value x0
  split
  · rename_i z1
    apply discardPacket_keeps
    exact h0
  · rename_i z2
    split
    · rename_i z3
      split
      · rename_i z4
        apply notUsedArrive_keeps
        exact h0
      · rename_i z5
        exact h0
    · rename_i z6
      split
      · rename_i z7
        split
        · rename_i z8
          apply crushDoneArrive_keeps
          exact h0
        · rename_i z9
          exact h0
      · rename_i z10
        split
        · rename_i z11
          split
          · rename_i z12
            apply foldNoticeArrive_keeps
            exact h0
          · rename_i z13
            exact h0
        · rename_i z14
          split
          · rename_i z15
            split
            · rename_i z16
              apply closeReportArrive_keeps
              exact h0
            · rename_i z17
              exact h0
          · rename_i z18
            split
            · rename_i z19
              apply fwdStartArrive_keeps
              exact h0
            · rename_i z20
              split
              · rename_i z21
                apply fwdDataArrive_keeps
                exact h0
              · rename_i z22
                apply fwdResultArrive_keeps
                exact h0

theorem collPacketArrive_keeps {a0 s : State} (h0 : Keeps a0 s) (k : Packet) : Keeps a0 (collPacketArrive s k) := by
  unfold collPacketArrive
  split
  · rename_i z0
    exact h0
  · rename_i z1
    split
    · rename_i z2
      apply parityArrive_keeps
      exact h0
    · rename_i z3
      apply collArrive_keeps
      exact h0

theorem crushPacketArrive_keeps {a0 s : State} (h0 : Keeps a0 s) (p : Nat) (k : Packet) : Keeps a0 (crushPacketArrive s p k) := by
  unfold crushPacketArrive
  split
  · rename_i z0
    apply crushArrive_keeps
    apply count_keeps
    exact h0
  · rename_i z1
    exact h0

theorem ownArrive_keeps {a0 s : State} (h0 : Keeps a0 s) (p : Nat) (k : Packet) : Keeps a0 (ownArrive s p k) := by
  unfold ownArrive
  split
  · rename_i z0
    exact h0
  · rename_i z1
    split
    · rename_i z2
      apply requestArrive_keeps
      exact h0
    · rename_i z3
      split
      · rename_i z4
        apply answerArrive_keeps
        exact h0
      · rename_i z5
        split
        · rename_i z6
          apply collPacketArrive_keeps
          exact h0
        · rename_i z7
          split
          · rename_i z8
            apply crushPacketArrive_keeps
            exact h0
          · rename_i z9
            apply msgArrive_keeps
            exact h0

theorem transit_keeps {a0 s : State} (h0 : Keeps a0 s) (p : Nat) (lane : Nat) (k : Packet) : Keeps a0 (transit s p lane k) := by
  unfold transit
  extract_lets x0
  split
  · rename_i z1
    dsimp only [x0]
    apply owe_keeps
    apply discardRecord_keeps
    apply discardPacket_keeps
    exact h0
  · rename_i z2
    apply OptKeeps.getD
    · apply routePacket_keeps
      exact h0
    · dsimp only [x0]
      apply owe_keeps
      apply discardPacket_keeps
      exact h0

theorem packetArrive_keeps {a0 s : State} (h0 : Keeps a0 s) (p : Nat) (cls : Nat) (lane : Nat) (k : Packet) : Keeps a0 (packetArrive s p cls lane k) := by
  unfold packetArrive
  split
  · rename_i z0
    apply owe_keeps
    apply discardPacket_keeps
    exact h0
  · rename_i z1
    split
    · rename_i z2
      apply owe_keeps
      apply ownArrive_keeps
      exact h0
    · rename_i z3
      apply transit_keeps
      exact h0

theorem badFlit_keeps {a0 s : State} (h0 : Keeps a0 s) (p : Nat) (f : Flit) : Keeps a0 (badFlit s p f) := by
  unfold badFlit
  extract_lets x0 x1
  clear_value x0
  have k2 : Keeps a0 x1 := by
    unfold x1
    split
    · rename_i z3
      exact h0
    · rename_i z4
      apply State.modPort_keeps
      exact h0
  clear_value x1
  split
  · rename_i z5
    apply State.modPort_keeps
    exact k2
  · rename_i z6
    exact k2

theorem finishDisable_keeps {a0 s : State} (h0 : Keeps a0 s) (p : Nat) : Keeps a0 (finishDisable s p) := by
  unfold finishDisable
  extract_lets x0 x1 x2
  clear_value x0
  have k3 : Keeps a0 x1 := by
    unfold x1
    apply State.modPort_keeps
    apply sendTrain_keeps
    exact h0
  clear_value x1
  have k4 : Keeps a0 x2 := by
    unfold x2
    apply rerouteQueue_keeps
    exact k3
  clear_value x2
  split
  · rename_i z5
    apply State.modPort_keeps
    exact k4
  · rename_i z6
    exact k4

theorem disableDone_keeps {a0 s : State} (h0 : Keeps a0 s) (p : Nat) : Keeps a0 (disableDone s p) := by
  unfold disableDone
  extract_lets x0
  clear_value x0
  split
  · rename_i z1
    apply finishDisable_keeps
    exact h0
  · rename_i z2
    exact h0

theorem goodFlit_keeps {a0 s : State} (h0 : Keeps a0 s) (p : Nat) (f : Flit) : Keeps a0 (goodFlit s p f) := by
  unfold goodFlit
  extract_lets x0 x1
  clear_value x0
  apply disableDone_keeps
  apply State.pump_keeps
  apply State.modPort_keeps
  exact h0

theorem flitTime_keeps {a0 s : State} (h0 : Keeps a0 s) (p : Nat) : Keeps a0 (flitTime s p) := by
  unfold flitTime
  split
  · rename_i z0
    apply State.modPort_keeps
    exact h0
  · rename_i z1
    exact h0

theorem execIdle_keeps {a0 s : State} (h0 : Keeps a0 s) (p : PortIx) (f : Flit) : OutKeeps a0 (execIdle p f s) := by
  unfold execIdle
  apply OutKeeps.next
  split
  · rename_i z0
    exact h0
  · rename_i z1
    split
    · rename_i z2
      apply badFlit_keeps
      exact h0
    · rename_i z3
      split
      · rename_i z4
        apply flitTime_keeps
        apply goodFlit_keeps
        exact h0
      · rename_i z5
        exact h0

theorem joinFlit_keeps {a0 s : State} (h0 : Keeps a0 s) (p : Nat) (f : Flit) : Keeps a0 (joinFlit s p f) := by
  unfold joinFlit
  extract_lets x0 x1 x2 x3 x4 x5
  clear_value x0
  clear_value x1
  clear_value x2
  clear_value x3
  clear_value x4
  have k6 : Keeps a0 x5 := by
    unfold x5
    apply State.modPort_keeps
    exact h0
  clear_value x5
  split
  · rename_i z7 z8 z9 z10
    split
    · rename_i z11
      split
      · rename_i z12
        apply discardPacket_keeps
        exact h0
      · rename_i z13
        exact h0
    · rename_i z14
      split
      · rename_i z15
        split
        · rename_i z16
          apply owe_keeps
          apply discardPacket_keeps
          exact k6
        · rename_i z17
          apply packetArrive_keeps
          exact k6
      · rename_i z18
        apply State.modPort_keeps
        exact h0

theorem dataFlit_keeps {a0 s : State} (h0 : Keeps a0 s) (p : Nat) (f : Flit) : Keeps a0 (dataFlit s p f) := by
  unfold dataFlit
  extract_lets x0
  have k1 : Keeps a0 x0 := by
    unfold x0
    apply goodFlit_keeps
    exact h0
  clear_value x0
  split
  · rename_i z2
    apply joinFlit_keeps
    apply State.modPort_keeps
    exact k1
  · rename_i z3
    exact k1

theorem execData_keeps {a0 s : State} (h0 : Keeps a0 s) (p : PortIx) (f : Flit) : OutKeeps a0 (execData p f s) := by
  unfold execData
  apply OutKeeps.next
  split
  · rename_i z0
    exact h0
  · rename_i z1
    split
    · rename_i z2
      apply badFlit_keeps
      exact h0
    · rename_i z3
      split
      · rename_i z4
        apply flitTime_keeps
        apply dataFlit_keeps
        exact h0
      · rename_i z5
        exact h0

theorem nakFlit_keeps {a0 s : State} (h0 : Keeps a0 s) (p : Nat) (f : Flit) : Keeps a0 (nakFlit s p f) := by
  unfold nakFlit
  extract_lets x0 x1 x2
  have k3 : Keeps a0 x0 := by
    unfold x0
    apply goodFlit_keeps
    exact h0
  clear_value x0
  clear_value x1
  have k4 : Keeps a0 x2 := by
    unfold x2
    apply count_keeps
    apply State.modPort_keeps
    exact k3
  clear_value x2
  split
  · rename_i z5
    exact k3
  · rename_i z6
    split
    · rename_i z7
      apply linkDown_keeps
      exact k4
    · rename_i z8
      exact k4

theorem execNak_keeps {a0 s : State} (h0 : Keeps a0 s) (p : PortIx) (f : Flit) : OutKeeps a0 (execNak p f s) := by
  unfold execNak
  apply OutKeeps.next
  split
  · rename_i z0
    exact h0
  · rename_i z1
    split
    · rename_i z2
      apply badFlit_keeps
      exact h0
    · rename_i z3
      split
      · rename_i z4
        apply flitTime_keeps
        apply nakFlit_keeps
        exact h0
      · rename_i z5
        exact h0

theorem farDisable_keeps {a0 s : State} (h0 : Keeps a0 s) (p : Nat) : Keeps a0 (farDisable s p) := by
  unfold farDisable
  extract_lets x0
  clear_value x0
  split
  · rename_i z1
    apply finishDisable_keeps
    exact h0
  · rename_i z2
    apply rerouteQueue_keeps
    apply State.modPort_keeps
    exact h0

theorem identityCheck_keeps {a0 s : State} (h0 : Keeps a0 s) (p : Nat) (f : Flit) : Keeps a0 (identityCheck s p f) := by
  unfold identityCheck
  extract_lets x0 x1 x2 x3 x4 x5 x6
  clear_value x0
  clear_value x1
  clear_value x2
  clear_value x3
  have k7 : Keeps a0 x5 := by
    unfold x5
    apply sendTrain_keeps
    apply State.modPort_keeps
    exact h0
  clear_value x5
  have k8 : Keeps a0 x6 := by
    unfold x6
    apply State.modPort_keeps
    exact h0
  clear_value x6
  split
  · rename_i z9
    split
    · rename_i z10
      apply State.pump_keeps
      apply State.modPort_keeps
      exact k7
    · rename_i z11
      exact k7
  · rename_i z12
    split
    · rename_i z13
      apply State.modPort_keeps
      exact h0
    · rename_i z14
      apply raiseError_keeps
      exact k8

theorem execTrain_keeps {a0 s : State} (h0 : Keeps a0 s) (p : PortIx) (f : Flit) : OutKeeps a0 (execTrain p f s) := by
  unfold execTrain
  apply OutKeeps.next
  split
  · rename_i z0
    exact h0
  · rename_i z1
    split
    · rename_i z2
      apply badFlit_keeps
      exact h0
    · rename_i z3
      split
      · rename_i z4
        exact h0
      · rename_i z5
        split
        · rename_i z6
          apply farDisable_keeps
          exact h0
        · rename_i z7
          split
          · rename_i z8
            apply linkDown_keeps
            exact h0
          · rename_i z9
            split
            · rename_i z10
              apply identityCheck_keeps
              exact h0
            · rename_i z11
              exact h0

theorem execLinkDownTimeout_keeps {a0 s : State} (h0 : Keeps a0 s) (p : PortIx) : OutKeeps a0 (execLinkDownTimeout p s) := by
  unfold execLinkDownTimeout
  apply OutKeeps.next
  split
  · rename_i z0
    apply linkDown_keeps
    apply State.upTo_keeps
    exact h0
  · rename_i z1
    exact h0

theorem execPortRetrainTimeout_keeps {a0 s : State} (h0 : Keeps a0 s) (p : PortIx) : OutKeeps a0 (execPortRetrainTimeout p s) := by
  unfold execPortRetrainTimeout
  apply OutKeeps.next
  extract_lets x0 x1
  clear_value x0
  have k2 : Keeps a0 x1 := by
    unfold x1
    apply State.upTo_keeps
    exact h0
  clear_value x1
  split
  · rename_i z3
    split
    · rename_i z4
      apply State.modPort_keeps
      exact k2
    · rename_i z5
      apply raiseError_keeps
      apply State.modPort_keeps
      exact k2
  · rename_i z6
    exact h0

theorem execPortDisableTimeout_keeps {a0 s : State} (h0 : Keeps a0 s) (p : PortIx) : OutKeeps a0 (execPortDisableTimeout p s) := by
  unfold execPortDisableTimeout
  apply OutKeeps.next
  split
  · rename_i z0
    apply finishDisable_keeps
    apply State.upTo_keeps
    exact h0
  · rename_i z1
    exact h0

theorem execFecLock_keeps {a0 s : State} (h0 : Keeps a0 s) (p : PortIx) : OutKeeps a0 (execFecLock p s) := by
  unfold execFecLock
  apply OutKeeps.next
  split
  · rename_i z0
    apply sendTrain_keeps
    apply State.modPort_keeps
    exact h0
  · rename_i z1
    exact h0

theorem execTrainingPatternReceived_keeps {a0 s : State} (h0 : Keeps a0 s) (p : PortIx) : OutKeeps a0 (execTrainingPatternReceived p s) := by
  unfold execTrainingPatternReceived
  apply OutKeeps.next
  split
  · rename_i z0
    apply State.modPort_keeps
    exact h0
  · rename_i z1
    exact h0

theorem opArrive_keeps {a0 s : State} (h0 : Keeps a0 s) (p : Nat) (k : Packet) (op : Nat) : Keeps a0 (opArrive s p k op) := by
  unfold opArrive
  split
  · rename_i z0
    apply packetArrive_keeps
    exact h0
  · rename_i z1
    exact h0

theorem execRead_keeps {a0 s : State} (h0 : Keeps a0 s) (p : PortIx) (k : Packet) : OutKeeps a0 (execRead p k s) := by
  unfold execRead
  apply OutKeeps.next
  apply opArrive_keeps
  exact h0

theorem execWrite_keeps {a0 s : State} (h0 : Keeps a0 s) (p : PortIx) (k : Packet) : OutKeeps a0 (execWrite p k s) := by
  unfold execWrite
  apply OutKeeps.next
  apply opArrive_keeps
  exact h0

theorem execAtomicRequest_keeps {a0 s : State} (h0 : Keeps a0 s) (p : PortIx) (k : Packet) : OutKeeps a0 (execAtomicRequest p k s) := by
  unfold execAtomicRequest
  apply OutKeeps.next
  apply opArrive_keeps
  exact h0

theorem execPoison_keeps {a0 s : State} (h0 : Keeps a0 s) (p : PortIx) (k : Packet) : OutKeeps a0 (execPoison p k s) := by
  unfold execPoison
  apply OutKeeps.next
  apply opArrive_keeps
  exact h0

theorem execReadRsp_keeps {a0 s : State} (h0 : Keeps a0 s) (p : PortIx) (k : Packet) : OutKeeps a0 (execReadRsp p k s) := by
  unfold execReadRsp
  apply OutKeeps.next
  apply opArrive_keeps
  exact h0

theorem execWriteAck_keeps {a0 s : State} (h0 : Keeps a0 s) (p : PortIx) (k : Packet) : OutKeeps a0 (execWriteAck p k s) := by
  unfold execWriteAck
  apply OutKeeps.next
  apply opArrive_keeps
  exact h0

theorem execAtomicRsp_keeps {a0 s : State} (h0 : Keeps a0 s) (p : PortIx) (k : Packet) : OutKeeps a0 (execAtomicRsp p k s) := by
  unfold execAtomicRsp
  apply OutKeeps.next
  apply opArrive_keeps
  exact h0

theorem execRetry_keeps {a0 s : State} (h0 : Keeps a0 s) (p : PortIx) (k : Packet) : OutKeeps a0 (execRetry p k s) := by
  unfold execRetry
  apply OutKeeps.next
  apply opArrive_keeps
  exact h0

theorem execFault_keeps {a0 s : State} (h0 : Keeps a0 s) (p : PortIx) (k : Packet) : OutKeeps a0 (execFault p k s) := by
  unfold execFault
  apply OutKeeps.next
  apply opArrive_keeps
  exact h0

theorem execCollData_keeps {a0 s : State} (h0 : Keeps a0 s) (p : PortIx) (k : Packet) : OutKeeps a0 (execCollData p k s) := by
  unfold execCollData
  apply OutKeeps.next
  apply opArrive_keeps
  exact h0

theorem execCrushData_keeps {a0 s : State} (h0 : Keeps a0 s) (p : PortIx) (k : Packet) : OutKeeps a0 (execCrushData p k s) := by
  unfold execCrushData
  apply OutKeeps.next
  apply opArrive_keeps
  exact h0

theorem typeArrive_keeps {a0 s : State} (h0 : Keeps a0 s) (m : FabMsg) (typ : Nat) (f : State → FabMsg → State) (h_f : ∀ (q0 : State) (q1 : FabMsg), Keeps a0 q0 → Keeps a0 (f q0 q1)) : Keeps a0 (typeArrive s m typ f) := by
  unfold typeArrive
  split
  · rename_i z0
    exact h0
  · rename_i z1
    split
    · rename_i z2
      apply discardPacket_keeps
      exact h0
    · rename_i z3
      split
      · rename_i z4
        apply h_f
        exact h0
      · rename_i z5
        exact h0

theorem execNotUsed_keeps {a0 s : State} (h0 : Keeps a0 s) (m : FabMsg) : OutKeeps a0 (execNotUsed m s) := by
  unfold execNotUsed
  apply OutKeeps.next
  apply typeArrive_keeps
  · exact h0
  · intro y0 y1 y2
    apply notUsedArrive_keeps
    exact y2

theorem execCrushDone_keeps {a0 s : State} (h0 : Keeps a0 s) (m : FabMsg) : OutKeeps a0 (execCrushDone m s) := by
  unfold execCrushDone
  apply OutKeeps.next
  apply typeArrive_keeps
  · exact h0
  · intro y0 y1 y2
    apply crushDoneArrive_keeps
    exact y2

theorem execFoldNotice_keeps {a0 s : State} (h0 : Keeps a0 s) (m : FabMsg) : OutKeeps a0 (execFoldNotice m s) := by
  unfold execFoldNotice
  apply OutKeeps.next
  apply typeArrive_keeps
  · exact h0
  · intro y0 y1 y2
    apply foldNoticeArrive_keeps
    exact y2

theorem execCloseReport_keeps {a0 s : State} (h0 : Keeps a0 s) (m : FabMsg) : OutKeeps a0 (execCloseReport m s) := by
  unfold execCloseReport
  apply OutKeeps.next
  apply typeArrive_keeps
  · exact h0
  · intro y0 y1 y2
    apply closeReportArrive_keeps
    exact y2

theorem unqueue_keeps {a0 s : State} (h0 : Keeps a0 s) (p : Nat) (x : LanePacket) : Keeps a0 (unqueue s p x) := by
  unfold unqueue
  extract_lets x0
  apply State.modPort_keeps
  exact h0

theorem leaveMain_keeps {a0 s : State} (h0 : Keeps a0 s) (p : Nat) (x : LanePacket) : Keeps a0 (leaveMain s p x) := by
  unfold leaveMain
  split
  · rename_i z0 z1 z2
    apply enqueue_keeps
    apply unqueue_keeps
    exact h0
  · rename_i z3 z4
    split
    · rename_i z5 z6 z7
      apply enqueue_keeps
      apply unqueue_keeps
      exact h0
    · rename_i z8 z9
      exact h0

theorem execEscapeWaitExpiry_keeps {a0 s : State} (h0 : Keeps a0 s) (p : PortIx) (cls : Fin 4) : OutKeeps a0 (execEscapeWaitExpiry p cls s) := by
  unfold execEscapeWaitExpiry
  apply OutKeeps.next
  split
  · rename_i z0
    split
    · rename_i z1 z2 z3 z4
      apply leaveMain_keeps
      apply State.upTo_keeps
      exact h0
    · rename_i z5 z6
      exact h0
  · rename_i z7
    exact h0

theorem execStallLimitExpiry_keeps {a0 s : State} (h0 : Keeps a0 s) (p : PortIx) (cls : Fin 4) (lane : Fin 3) : OutKeeps a0 (execStallLimitExpiry p cls lane s) := by
  unfold execStallLimitExpiry
  apply OutKeeps.next
  split
  · rename_i z0
    split
    · rename_i z1 z2 z3 z4
      extract_lets x5 x6
      have k7 : Keeps a0 x5 := by
        unfold x5
        apply unqueue_keeps
        apply State.upTo_keeps
        exact h0
      clear_value x5
      have k8 : Keeps a0 x6 := by
        unfold x6
        apply State.modPort_keeps
        exact k7
      clear_value x6
      apply State.pump_keeps
      apply discardRecord_keeps
      apply owePacket_keeps
      exact k8
    · rename_i z9 z10
      exact h0
  · rename_i z11
    exact h0

theorem execRespTimeout_keeps {a0 s : State} (h0 : Keeps a0 s) (reqId : BitVec 16) : OutKeeps a0 (execRespTimeout reqId s) := by
  unfold execRespTimeout
  apply OutKeeps.next
  split
  · rename_i z0 z1 z2
    split
    · rename_i z3
      apply endRequest_keeps
      apply State.upTo_keeps
      exact h0
    · rename_i z4
      exact h0
  · rename_i z5 z6
    exact h0

/-! ## Machine/Integrity.lean -/

theorem leaveGenerator_keeps {a0 s : State} (h0 : Keeps a0 s) (d : Nat) (g : Nat) : Keeps a0 (leaveGenerator s d g) := by
  unfold leaveGenerator
  extract_lets x0
  clear_value x0
  split
  · rename_i z1
    apply State.modDie_keeps
    exact h0
  · rename_i z2
    split
    · rename_i z3
      apply State.modDie_keeps
      exact h0
    · rename_i z4
      apply State.modDie_keeps
      exact h0

theorem clockLost_keeps {a0 s : State} (h0 : Keeps a0 s) (k : ClockId) (err : Nat) : Keeps a0 (clockLost s k err) := by
  unfold clockLost
  split
  · rename_i z0 z1 z2
    split
    · rename_i z3
      exact h0
    · rename_i z4
      extract_lets x5 x6
      clear_value x5
      have k7 : Keeps a0 x6 := by
        unfold x6
        apply withCaps_keeps
        · exact h0
        · intro y8 y9
          apply leaveGenerator_keeps
          exact y9
      clear_value x6
      apply endMany_keeps
      exact k7
  · rename_i z10
    apply porchDown_keeps
    apply Keeps.fold
    · exact h0
    · intro y11 y12 y13
      split
      · rename_i z14
        apply linkDown_keeps
        exact y13
      · rename_i z15
        exact y13
  · rename_i z16 z17
    split
    · rename_i z18
      apply linkDown_keeps
      exact h0
    · rename_i z19
      exact h0
  · rename_i z20
    apply porchDown_keeps
    exact h0
  · rename_i z21 z22 z23 z24 z25
    extract_lets x26 x27 x28 x29 x30
    clear_value x26
    have k31 : Keeps a0 x27 := by
      unfold x27
      apply State.modHearth_keeps
      exact h0
    clear_value x27
    have k32 : Keeps a0 x30 := by
      unfold x30
      exact Keeps.put k31
    clear_value x30
    apply enterSafe_keeps
    exact k32

theorem execClockMonitorWindow_keeps {a0 s : State} (h0 : Keeps a0 s) (k : ClockId) (number : Byte) (count : Nat) (expected : Nat) : OutKeeps a0 (execClockMonitorWindow k number count expected s) := by
  unfold execClockMonitorWindow
  apply OutKeeps.next
  split
  · rename_i z0
    exact h0
  · rename_i z1
    split
    · rename_i z2
      apply State.modHearth_keeps
      exact h0
    · rename_i z3
      split
      · rename_i z4
        apply State.modHearth_keeps
        exact h0
      · rename_i z5
        extract_lets x6 x7
        clear_value x6
        have k8 : Keeps a0 x7 := by
          unfold x7
          apply raiseError_keeps
          exact h0
        clear_value x7
        apply clockLost_keeps
        apply State.modHearth_keeps
        exact k8

theorem execGatehouseMismatch_keeps {a0 s : State} (h0 : Keeps a0 s) (seq : W64) : OutKeeps a0 (execGatehouseMismatch seq s) := by
  unfold execGatehouseMismatch
  apply OutKeeps.next
  split
  · rename_i z0
    extract_lets x1 x2
    have k3 : Keeps a0 x1 := by
      unfold x1
      apply raiseError_keeps
      exact h0
    clear_value x1
    apply enterSafe_keeps
    exact Keeps.put k3
  · rename_i z4
    exact h0

theorem execErrorDrainTimer_keeps {a0 s : State} (h0 : Keeps a0 s) : OutKeeps a0 (execErrorDrainTimer s) := by
  unfold execErrorDrainTimer
  apply OutKeeps.next
  split
  · rename_i z0
    apply drainErrors_keeps
    apply State.upTo_keeps
    exact h0
  · rename_i z1
    exact h0

/-! ## Machine/Rerun.lean -/

theorem nextOr_keeps {a0 s : State} (h0 : Keeps a0 s) {o : Host.Outcome State Fault Refusal} (h : OutKeeps a0 o) : Keeps a0 (nextOr s o) := by
  unfold nextOr
  split
  · exact h _ rfl
  · exact h0

theorem issuers_keep {a0 s : State} (h0 : Keeps a0 s) (kind : Nat) (c : CtxIx) (seq : Nat)
    (f : CtxIx → Nat → State → Host.Outcome State Fault Refusal) (hf : f ∈ issuers kind) : OutKeeps a0 (f c seq s) := by
  unfold issuers at hf
  split at hf
  · simp only [List.mem_cons, List.not_mem_nil, or_false] at hf
    rcases hf with rfl
    exact execChain_keeps h0 _ _
  split at hf
  · simp only [List.mem_cons, List.not_mem_nil, or_false] at hf
    rcases hf with rfl | rfl | rfl | rfl | rfl | rfl
    · exact execCopy_keeps h0 _ _
    · exact execTranspose_keeps h0 _ _
    · exact execGather_keeps h0 _ _
    · exact execScatter_keeps h0 _ _
    · exact execFill_keeps h0 _ _
    · exact execAtomic_keeps h0 _ _
  split at hf
  · simp only [List.mem_cons, List.not_mem_nil, or_false] at hf
    rcases hf with rfl | rfl | rfl | rfl | rfl | rfl
    · exact execReduceScatter_keeps h0 _ _
    · exact execAllGather_keeps h0 _ _
    · exact execAllReduce_keeps h0 _ _
    · exact execBroadcast_keeps h0 _ _
    · exact execAllToAll_keeps h0 _ _
    · exact execNormAllreduce_keeps h0 _ _
  split at hf
  · simp only [List.mem_cons, List.not_mem_nil, or_false] at hf
    rcases hf with rfl | rfl | rfl | rfl | rfl | rfl
    · exact execNormBwd_keeps h0 _ _
    · exact execSoftmaxBwd_keeps h0 _ _
    · exact execRowStats_keeps h0 _ _
    · exact execRubbleEncode_keeps h0 _ _
    · exact execRubbleDecode_keeps h0 _ _
    · exact execCopyRound_keeps h0 _ _
  split at hf
  · simp only [List.mem_cons, List.not_mem_nil, or_false] at hf
    rcases hf with rfl | rfl
    · exact execUpdate_keeps h0 _ _
    · exact execUpdateCommit_keeps h0 _ _
  split at hf
  · simp only [List.mem_cons, List.not_mem_nil, or_false] at hf
    rcases hf with rfl | rfl | rfl | rfl | rfl
    · exact execSecure_keeps h0 _ _
    · exact execPriv_keeps h0 _ _
    · exact execClose_keeps h0 _ _
    · exact execEval_keeps h0 _ _
    · exact execRestore_keeps h0 _ _
  · simp at hf

theorem goOn_keeps {a0 s : State} (h0 : Keeps a0 s) (c : CtxIx) (seq : Nat) (i : Item) : Keeps a0 (goOn s c seq i) := by
  unfold goOn
  extract_lets t
  have k : Keeps a0 t := by
    have : ∀ (l : List (CtxIx → Nat → State → Host.Outcome State Fault Refusal)) (s : State), Keeps a0 s →
        (∀ f ∈ l, f ∈ issuers (kindOf i.words)) → Keeps a0 (l.foldl (fun s f => nextOr s (f c seq s)) s) := by
      intro l
      induction l with
      | nil => exact fun s h _ => h
      | cons f l ih =>
        intro s h hl
        exact ih _ (nextOr_keeps h (issuers_keep h _ _ _ _ (hl f (by simp)))) (fun g hg => hl g (by simp [hg]))
    exact this _ _ h0 (fun f hf => hf)
  exact nextOr_keeps k (execFlaggedFinalWriteIssue_keeps k _ _)

theorem execSpanConflictCleared_keeps {a0 s : State} (h0 : Keeps a0 s) (c : CtxIx) (seq : Nat) : OutKeeps a0 (execSpanConflictCleared c seq s) := by
  unfold execSpanConflictCleared
  apply OutKeeps.next
  split
  · rename_i z0 z1 z2
    split
    · rename_i z3
      apply goOn_keeps
      apply goStaged_keeps
      exact h0
    · rename_i z4
      exact h0
  · rename_i z5 z6
    exact h0

end Sys2Proof.Machine
end

