-- ==== Sys2Proof/WellFormed.lean ====
section
/-! DEFINITION. Which commands the hardware around the block can send: the lengths and ranges that the spec gives what
arrives, as checks. A meaning is total and does not ask whether its command is well formed. -/

namespace Sys2Proof

/-- An item number: seq of 64 bits (R163) under the number of generations before it, which the check takes to be below 2^32
(notes/assumptions/25.md). -/
def seqOk (seq : Nat) : Bool := seq < 2 ^ 96

/-- An item of one of the 48 contexts (R153, R163). -/
def ItemRef.ok (r : ItemRef) : Bool := r.ctx < 48 && seqOk r.seq

/-- A byte offset of a Pantry of 512 MiB, 64-byte aligned (R59, R206). -/
def pantryOffsetOk (o : Nat) : Bool := o < 2 ^ 29 && o % 64 == 0

/-- The ranges of a LOAD (R59): K to 512, N to 256, a base and a row stride of whole 64-byte lines. -/
def FaceLoad.ok (p : FaceLoad) : Bool :=
  p.item.ok && 1 ≤ p.k && p.k ≤ 512 && 1 ≤ p.n && p.n ≤ 256 && pantryOffsetOk p.base && p.stride % 64 == 0 && p.scaleBase < 2 ^ 29

/-- The ranges of a STREAM (R59): 1 to 2^32 rows, a base and a row stride of whole 64-byte lines. -/
def FaceStream.ok (p : FaceStream) : Bool :=
  p.item.ok && 1 ≤ p.rows && p.rows ≤ 2 ^ 32 && pantryOffsetOk p.base && p.stride % 64 == 0 && p.scaleBase < 2 ^ 29 && p.accBase < 2 ^ 29

/-- A Face operation within its limits (R59). -/
def FaceOp.ok : FaceOp → Bool
  | .load p => p.ok
  | .stream p => p.ok

/-- A piece moves at least one element of 4 to 64 bits (R235, R236). -/
def Piece.ok (p : Piece) : Bool := p.item.ok && p.load < 64 && 1 ≤ p.rows && 1 ≤ p.cols && 4 ≤ p.elemBits && p.elemBits ≤ 64

/-- Whether n bytes at an offset stay inside a Lomium line of 64 bytes (R226). -/
def inLine (off n : Nat) : Bool := 1 ≤ n && off % 64 + n ≤ 64

/-- An access stays inside its line, and a write has a mask bit for each byte (R226, R246). -/
def Access.ok (a : Access) : Bool :=
  match a.op with
  | .read len => inLine a.off len
  | .write bytes mask => inLine a.off bytes.length && mask.length == bytes.length
  | .atomic _ _ _ => true
  | .poison => a.off % 64 == 0

/-- A packet carries at most 4,096 bytes of data (R273). -/
def Packet.ok (k : Packet) : Bool := k.data.length ≤ 4096

/-- The body of a flit is 15 slots of 16 bytes (R270). -/
def Flit.ok (f : Flit) : Bool := f.body.length == 240

/-- A fabric message has a line of eight words and a body of at most 4,032 bytes, and comes from a 15-bit device number
(R297). -/
def FabMsg.ok (m : FabMsg) : Bool := m.line.length == 8 && m.body.length ≤ 4032 && m.src < 2 ^ 15

/-- A Gatehouse message begins with eight words (R451). -/
def GhMsg.ok (m : GhMsg) : Bool := m.hdr.length == 8

/-- A cold start trains 24 stacks (R364); firmware has 16 classes at most (R352). -/
def ColdInputs.ok (i : ColdInputs) : Bool := i.rowsTrained.length == 24 && i.releaseBad.all (fun cs => cs.all (· < 16))

/-- A clock of one of the 100 dies (R406). -/
def ClockId.ok : ClockId → Bool
  | .mesh die => die < 100
  | _ => true

/-- A Landing has 16 Haul and 4 Tipple engines (R233). -/
def engineOk (k : EngineKind) (engine : Nat) : Bool :=
  match k with
  | .haul => engine < 16
  | .tipple => engine < 4

/-- An upset of 8 bytes that a Pantry, a cache partition or a Larder has (R211, R212, R226). -/
def Upset.ok : Upset → Bool
  | .pantry _ off => off % 8 == 0 && off < 2 ^ 29
  | .cached _ _ line => line < 2 ^ 42
  | .larder line => line < 2 ^ 42

/-- A command whose operands the hardware around the block can send. -/
def Instr.ok : Instr → Bool
  | .porAssert => true
  | .coldStart i => i.ok
  | .xspiRelease => true
  | .computeRstAssert => true
  | .computeRstDeassert => true
  | .gatehouseResetRelease => true
  | .periodStart _ => true
  | .periodEnd _ => true
  | .poll _ => true
  | .controlBlockReadReturn _ => true
  | .schedulerRound _ => true
  | .deterministicRound _ => true
  | .chain _ seq => seqOk seq
  | .faceOperationIssue _ r0 r1 => r0.all FaceOp.ok && r1.all FaceOp.ok
  | .loadComplete _ => true
  | .rowEmerge _ bad => bad.all (fun b => b.1 < 256)
  | .confirmWindowExpiry _ => true
  | .checkAdvance _ => true
  | .replayComplete _ => true
  | .rampDownBegin _ => true
  | .rampColumnStep _ => true
  | .rampDownComplete _ => true
  | .rampUpComplete _ => true
  | .loadPieceDispatch _ _ arrival => arrival.all Piece.ok
  | .enginePieceComplete _ k engine => engineOk k engine
  | .engineClockStop _ k engine => engineOk k engine
  | .pinRetry _ seq => seqOk seq
  | .pinReleaseRetry _ => true
  | .update _ seq => seqOk seq
  | .normCellPoll _ seq => seqOk seq
  | .updateClaimPoll _ seq => seqOk seq
  | .updateCommit _ seq => seqOk seq
  | .copy _ seq => seqOk seq
  | .transpose _ seq => seqOk seq
  | .gather _ seq => seqOk seq
  | .scatter _ seq => seqOk seq
  | .fill _ seq => seqOk seq
  | .atomic _ seq => seqOk seq
  | .normBwd _ seq => seqOk seq
  | .softmaxBwd _ seq => seqOk seq
  | .rowStats _ seq => seqOk seq
  | .rubbleEncode _ seq => seqOk seq
  | .rubbleDecode _ seq => seqOk seq
  | .copyRound _ seq => seqOk seq
  | .benchCoreStop _ _ => true
  | .benchCoreWake _ _ => true
  | .benchQuantum _ _ _ => true
  | .reduceScatter _ seq => seqOk seq
  | .allGather _ seq => seqOk seq
  | .allReduce _ seq => seqOk seq
  | .broadcast _ seq => seqOk seq
  | .allToAll _ seq => seqOk seq
  | .normAllreduce _ seq => seqOk seq
  | .versionedGatherCommit _ seq => seqOk seq
  | .chunkDeadline _ seq chunk => seqOk seq && chunk < 2 ^ 32
  | .fenceWrite _ seq => seqOk seq
  | .fenceAcquire _ seq => seqOk seq
  | .fenceFull _ seq => seqOk seq
  | .hint _ seq => seqOk seq
  | .hintPhaseStart _ seq => seqOk seq
  | .hintPhaseEnd _ seq => seqOk seq
  | .note _ seq => seqOk seq
  | .pinRelease _ seq => seqOk seq
  | .publish _ seq => seqOk seq
  | .wait _ seq => seqOk seq
  | .markWaitPoll _ seq => seqOk seq
  | .secure _ seq => seqOk seq
  | .priv _ seq => seqOk seq
  | .close _ seq => seqOk seq
  | .eval _ seq => seqOk seq
  | .restore _ seq => seqOk seq
  | .reform _ seq => seqOk seq
  | .spanConflictCleared _ seq => seqOk seq
  | .flaggedFinalWriteIssue _ seq => seqOk seq
  | .itemEnd _ seq => seqOk seq
  | .drainIntervalExpiry _ => true
  | .dropPoisonComplete _ seq => seqOk seq
  | .larderAccess arrivals line _ => arrivals.all Access.ok && line < 2 ^ 42
  | .regulatorGrant _ arrivals => arrivals.all Access.ok
  | .retryReissue => true
  | .patrolScrubRead _ x => x.upsets.all Upset.ok
  | .stackTempRead _ _ => true
  | .stackThrottleStepDown _ => true
  | .dataEyeLockLoss _ => true
  | .stackRetrainComplete x => x.repaired < 2 ^ 16
  | .stackRetrainTimeout _ => true
  | .pantryReleaseComplete _ => true
  | .idle _ f => f.ok
  | .data _ f => f.ok
  | .nak _ f => f.ok
  | .train _ f => f.ok
  | .linkDownTimeout _ => true
  | .portRetrainTimeout _ => true
  | .portDisableTimeout _ => true
  | .read _ k => k.ok
  | .write _ k => k.ok
  | .atomicRequest _ k => k.ok
  | .poison _ k => k.ok
  | .readRsp _ k => k.ok
  | .writeAck _ k => k.ok
  | .atomicRsp _ k => k.ok
  | .retry _ k => k.ok
  | .fault _ k => k.ok
  | .collData _ k => k.ok
  | .crushData _ k => k.ok
  | .escapeWaitExpiry _ _ => true
  | .stallLimitExpiry _ _ _ => true
  | .respTimeout _ => true
  | .notUsed m => m.ok
  | .crushDone m => m.ok
  | .foldNotice m => m.ok
  | .closeReport m => m.ok
  | .imageFwdStart _ m => m.ok
  | .imageFwdData _ m => m.ok
  | .imageFwdResult _ m => m.ok
  | .imageFwdTimeout _ => true
  | .rdmaWrite _ _ => true
  | .rdmaWriteWithImmediate _ _ _ => true
  | .rdmaRead _ a => a.len < 2 ^ 32
  | .send m _ => m.ok
  | .invalidRequest _ _ => true
  | .hostAck _ _ => true
  | .hostNak _ _ => true
  | .ackTimeout _ => true
  | .cnp _ => true
  | .recIntervalExpiry _ => true
  | .pfcPause _ _ => true
  | .arp _ _ => true
  | .neighborSolicitation _ _ => true
  | .frameDiscard => true
  | .porchLinkDown => true
  | .porchRetrainAttempt => true
  | .getIdentity m => m.ok
  | .getNonce m => m.ok
  | .quote m => m.ok
  | .selectVariant m => m.ok
  | .imageWrite m => m.ok
  | .imageData m => m.ok
  | .imageWriteAbandon => true
  | .qpReset m => m.ok
  | .computeReset m => m.ok
  | .contextReset m => m.ok
  | .stackRetrain m => m.ok
  | .fenceClear m => m.ok
  | .safeState m => m.ok
  | .rollbackRaise m => m.ok
  | .keyEnroll m => m.ok
  | .keyRevoke m => m.ok
  | .controlWrite m => m.ok
  | .ctxCtlReset _ _ => true
  | .counterClear _ _ => true
  | .counterRun _ _ => true
  | .counterSelect _ _ _ _ => true
  | .controlSpaceWrite _ _ _ => true
  | .i3cOffsetWrite _ => true
  | .i3cRead => true
  | .extest => true
  | .controlTick => true
  | .railSense r => r.length == 16
  | .generatorLock _ => true
  | .voltageStep _ => true
  | .droopDetect _ mv => mv < 2 ^ 16
  | .droopClear _ => true
  | .droopHoldExpiry _ => true
  | .regAlertAssert _ => true
  | .alertHoldExpiry => true
  | .powerFault _ => true
  | .dieTempRead t => t.length == 100
  | .thermalCapStep _ => true
  | .thermalTrip _ _ => true
  | .clockMonitorWindow k _ _ expected => k.ok && 1 ≤ expected
  | .gatehouseMismatch _ => true
  | .errorDrainTimer => true
  | .regAlertDeassert _ => true
  | .porchLinkUp => true
  | .fecLock _ => true
  | .trainingPatternReceived _ => true
  | .railsInRange => true

end Sys2Proof
end

