-- ==== Sys2Proof/Laws/PerInstr.lean ====
section
/-! SUPPORT. Per command: the well-formedness check as a proposition over the command's operands, and one lemma for each
constructor of Instr that the check decides it. -/

set_option Elab.async false

namespace Sys2Proof.Laws.WellFormedness

/-- What the operands of a command meet when the hardware around the block can send it. -/
def Meets : Instr → Prop
  | .porAssert => True
  | .coldStart i => i.ok = true
  | .xspiRelease => True
  | .computeRstAssert => True
  | .computeRstDeassert => True
  | .gatehouseResetRelease => True
  | .periodStart _ => True
  | .periodEnd _ => True
  | .poll _ => True
  | .controlBlockReadReturn _ => True
  | .schedulerRound _ => True
  | .deterministicRound _ => True
  | .chain _ seq => seqOk seq = true
  | .faceOperationIssue _ r0 r1 => r0.all FaceOp.ok = true ∧ r1.all FaceOp.ok = true
  | .loadComplete _ => True
  | .rowEmerge _ bad => bad.all (fun b => b.1 < 256) = true
  | .confirmWindowExpiry _ => True
  | .checkAdvance _ => True
  | .replayComplete _ => True
  | .rampDownBegin _ => True
  | .rampColumnStep _ => True
  | .rampDownComplete _ => True
  | .rampUpComplete _ => True
  | .loadPieceDispatch _ _ arrival => arrival.all Piece.ok = true
  | .enginePieceComplete _ k engine => engineOk k engine = true
  | .engineClockStop _ k engine => engineOk k engine = true
  | .pinRetry _ seq => seqOk seq = true
  | .pinReleaseRetry _ => True
  | .update _ seq => seqOk seq = true
  | .normCellPoll _ seq => seqOk seq = true
  | .updateClaimPoll _ seq => seqOk seq = true
  | .updateCommit _ seq => seqOk seq = true
  | .copy _ seq => seqOk seq = true
  | .transpose _ seq => seqOk seq = true
  | .gather _ seq => seqOk seq = true
  | .scatter _ seq => seqOk seq = true
  | .fill _ seq => seqOk seq = true
  | .atomic _ seq => seqOk seq = true
  | .normBwd _ seq => seqOk seq = true
  | .softmaxBwd _ seq => seqOk seq = true
  | .rowStats _ seq => seqOk seq = true
  | .rubbleEncode _ seq => seqOk seq = true
  | .rubbleDecode _ seq => seqOk seq = true
  | .copyRound _ seq => seqOk seq = true
  | .benchCoreStop _ _ => True
  | .benchCoreWake _ _ => True
  | .benchQuantum _ _ _ => True
  | .reduceScatter _ seq => seqOk seq = true
  | .allGather _ seq => seqOk seq = true
  | .allReduce _ seq => seqOk seq = true
  | .broadcast _ seq => seqOk seq = true
  | .allToAll _ seq => seqOk seq = true
  | .normAllreduce _ seq => seqOk seq = true
  | .versionedGatherCommit _ seq => seqOk seq = true
  | .chunkDeadline _ seq chunk => seqOk seq = true ∧ chunk < 2 ^ 32
  | .fenceWrite _ seq => seqOk seq = true
  | .fenceAcquire _ seq => seqOk seq = true
  | .fenceFull _ seq => seqOk seq = true
  | .hint _ seq => seqOk seq = true
  | .hintPhaseStart _ seq => seqOk seq = true
  | .hintPhaseEnd _ seq => seqOk seq = true
  | .note _ seq => seqOk seq = true
  | .pinRelease _ seq => seqOk seq = true
  | .publish _ seq => seqOk seq = true
  | .wait _ seq => seqOk seq = true
  | .markWaitPoll _ seq => seqOk seq = true
  | .secure _ seq => seqOk seq = true
  | .priv _ seq => seqOk seq = true
  | .close _ seq => seqOk seq = true
  | .eval _ seq => seqOk seq = true
  | .restore _ seq => seqOk seq = true
  | .reform _ seq => seqOk seq = true
  | .spanConflictCleared _ seq => seqOk seq = true
  | .flaggedFinalWriteIssue _ seq => seqOk seq = true
  | .itemEnd _ seq => seqOk seq = true
  | .drainIntervalExpiry _ => True
  | .dropPoisonComplete _ seq => seqOk seq = true
  | .larderAccess arrivals line _ => arrivals.all Access.ok = true ∧ line < 2 ^ 42
  | .regulatorGrant _ arrivals => arrivals.all Access.ok = true
  | .retryReissue => True
  | .patrolScrubRead _ x => x.upsets.all Upset.ok = true
  | .stackTempRead _ _ => True
  | .stackThrottleStepDown _ => True
  | .dataEyeLockLoss _ => True
  | .stackRetrainComplete x => x.repaired < 2 ^ 16
  | .stackRetrainTimeout _ => True
  | .pantryReleaseComplete _ => True
  | .idle _ f => f.ok = true
  | .data _ f => f.ok = true
  | .nak _ f => f.ok = true
  | .train _ f => f.ok = true
  | .linkDownTimeout _ => True
  | .portRetrainTimeout _ => True
  | .portDisableTimeout _ => True
  | .read _ k => k.ok = true
  | .write _ k => k.ok = true
  | .atomicRequest _ k => k.ok = true
  | .poison _ k => k.ok = true
  | .readRsp _ k => k.ok = true
  | .writeAck _ k => k.ok = true
  | .atomicRsp _ k => k.ok = true
  | .retry _ k => k.ok = true
  | .fault _ k => k.ok = true
  | .collData _ k => k.ok = true
  | .crushData _ k => k.ok = true
  | .escapeWaitExpiry _ _ => True
  | .stallLimitExpiry _ _ _ => True
  | .respTimeout _ => True
  | .notUsed m => m.ok = true
  | .crushDone m => m.ok = true
  | .foldNotice m => m.ok = true
  | .closeReport m => m.ok = true
  | .imageFwdStart _ m => m.ok = true
  | .imageFwdData _ m => m.ok = true
  | .imageFwdResult _ m => m.ok = true
  | .imageFwdTimeout _ => True
  | .rdmaWrite _ _ => True
  | .rdmaWriteWithImmediate _ _ _ => True
  | .rdmaRead _ a => a.len < 2 ^ 32
  | .send m _ => m.ok = true
  | .invalidRequest _ _ => True
  | .hostAck _ _ => True
  | .hostNak _ _ => True
  | .ackTimeout _ => True
  | .cnp _ => True
  | .recIntervalExpiry _ => True
  | .pfcPause _ _ => True
  | .arp _ _ => True
  | .neighborSolicitation _ _ => True
  | .frameDiscard => True
  | .porchLinkDown => True
  | .porchRetrainAttempt => True
  | .getIdentity m => m.ok = true
  | .getNonce m => m.ok = true
  | .quote m => m.ok = true
  | .selectVariant m => m.ok = true
  | .imageWrite m => m.ok = true
  | .imageData m => m.ok = true
  | .imageWriteAbandon => True
  | .qpReset m => m.ok = true
  | .computeReset m => m.ok = true
  | .contextReset m => m.ok = true
  | .stackRetrain m => m.ok = true
  | .fenceClear m => m.ok = true
  | .safeState m => m.ok = true
  | .rollbackRaise m => m.ok = true
  | .keyEnroll m => m.ok = true
  | .keyRevoke m => m.ok = true
  | .controlWrite m => m.ok = true
  | .ctxCtlReset _ _ => True
  | .counterClear _ _ => True
  | .counterRun _ _ => True
  | .counterSelect _ _ _ _ => True
  | .controlSpaceWrite _ _ _ => True
  | .i3cOffsetWrite _ => True
  | .i3cRead => True
  | .extest => True
  | .controlTick => True
  | .railSense r => r.length = 16
  | .generatorLock _ => True
  | .voltageStep _ => True
  | .droopDetect _ mv => mv < 2 ^ 16
  | .droopClear _ => True
  | .droopHoldExpiry _ => True
  | .regAlertAssert _ => True
  | .alertHoldExpiry => True
  | .powerFault _ => True
  | .dieTempRead t => t.length = 100
  | .thermalCapStep _ => True
  | .thermalTrip _ _ => True
  | .clockMonitorWindow k _ _ expected => k.ok = true ∧ 1 ≤ expected
  | .gatehouseMismatch _ => True
  | .errorDrainTimer => True
  | .regAlertDeassert _ => True
  | .porchLinkUp => True
  | .fecLock _ => True
  | .trainingPatternReceived _ => True
  | .railsInRange => True

/-- The check answers true exactly for the operands that meet the ranges. -/
def Statement (i : Instr) : Prop := i.ok = true ↔ Meets i

theorem porAssert : Statement .porAssert := by simp [Statement, Meets, Instr.ok]
theorem coldStart : ∀ x0, Statement (.coldStart x0) := by intros; simp [Statement, Meets, Instr.ok]
theorem xspiRelease : Statement .xspiRelease := by simp [Statement, Meets, Instr.ok]
theorem computeRstAssert : Statement .computeRstAssert := by simp [Statement, Meets, Instr.ok]
theorem computeRstDeassert : Statement .computeRstDeassert := by simp [Statement, Meets, Instr.ok]
theorem gatehouseResetRelease : Statement .gatehouseResetRelease := by simp [Statement, Meets, Instr.ok]
theorem periodStart : ∀ x0, Statement (.periodStart x0) := by intros; simp [Statement, Meets, Instr.ok]
theorem periodEnd : ∀ x0, Statement (.periodEnd x0) := by intros; simp [Statement, Meets, Instr.ok]
theorem poll : ∀ x0, Statement (.poll x0) := by intros; simp [Statement, Meets, Instr.ok]
theorem controlBlockReadReturn : ∀ x0, Statement (.controlBlockReadReturn x0) := by intros; simp [Statement, Meets, Instr.ok]
theorem schedulerRound : ∀ x0, Statement (.schedulerRound x0) := by intros; simp [Statement, Meets, Instr.ok]
theorem deterministicRound : ∀ x0, Statement (.deterministicRound x0) := by intros; simp [Statement, Meets, Instr.ok]
theorem chain : ∀ x0 x1, Statement (.chain x0 x1) := by intros; simp [Statement, Meets, Instr.ok]
theorem faceOperationIssue : ∀ x0 x1 x2, Statement (.faceOperationIssue x0 x1 x2) := by intros; simp [Statement, Meets, Instr.ok]
theorem loadComplete : ∀ x0, Statement (.loadComplete x0) := by intros; simp [Statement, Meets, Instr.ok]
theorem rowEmerge : ∀ x0 x1, Statement (.rowEmerge x0 x1) := by intros; simp [Statement, Meets, Instr.ok]
theorem confirmWindowExpiry : ∀ x0, Statement (.confirmWindowExpiry x0) := by intros; simp [Statement, Meets, Instr.ok]
theorem checkAdvance : ∀ x0, Statement (.checkAdvance x0) := by intros; simp [Statement, Meets, Instr.ok]
theorem replayComplete : ∀ x0, Statement (.replayComplete x0) := by intros; simp [Statement, Meets, Instr.ok]
theorem rampDownBegin : ∀ x0, Statement (.rampDownBegin x0) := by intros; simp [Statement, Meets, Instr.ok]
theorem rampColumnStep : ∀ x0, Statement (.rampColumnStep x0) := by intros; simp [Statement, Meets, Instr.ok]
theorem rampDownComplete : ∀ x0, Statement (.rampDownComplete x0) := by intros; simp [Statement, Meets, Instr.ok]
theorem rampUpComplete : ∀ x0, Statement (.rampUpComplete x0) := by intros; simp [Statement, Meets, Instr.ok]
theorem loadPieceDispatch : ∀ x0 x1 x2, Statement (.loadPieceDispatch x0 x1 x2) := by intros; simp [Statement, Meets, Instr.ok]
theorem enginePieceComplete : ∀ x0 x1 x2, Statement (.enginePieceComplete x0 x1 x2) := by intros; simp [Statement, Meets, Instr.ok]
theorem engineClockStop : ∀ x0 x1 x2, Statement (.engineClockStop x0 x1 x2) := by intros; simp [Statement, Meets, Instr.ok]
theorem pinRetry : ∀ x0 x1, Statement (.pinRetry x0 x1) := by intros; simp [Statement, Meets, Instr.ok]
theorem pinReleaseRetry : ∀ x0, Statement (.pinReleaseRetry x0) := by intros; simp [Statement, Meets, Instr.ok]
theorem update : ∀ x0 x1, Statement (.update x0 x1) := by intros; simp [Statement, Meets, Instr.ok]
theorem normCellPoll : ∀ x0 x1, Statement (.normCellPoll x0 x1) := by intros; simp [Statement, Meets, Instr.ok]
theorem updateClaimPoll : ∀ x0 x1, Statement (.updateClaimPoll x0 x1) := by intros; simp [Statement, Meets, Instr.ok]
theorem updateCommit : ∀ x0 x1, Statement (.updateCommit x0 x1) := by intros; simp [Statement, Meets, Instr.ok]
theorem copy : ∀ x0 x1, Statement (.copy x0 x1) := by intros; simp [Statement, Meets, Instr.ok]
theorem transpose : ∀ x0 x1, Statement (.transpose x0 x1) := by intros; simp [Statement, Meets, Instr.ok]
theorem gather : ∀ x0 x1, Statement (.gather x0 x1) := by intros; simp [Statement, Meets, Instr.ok]
theorem scatter : ∀ x0 x1, Statement (.scatter x0 x1) := by intros; simp [Statement, Meets, Instr.ok]
theorem fill : ∀ x0 x1, Statement (.fill x0 x1) := by intros; simp [Statement, Meets, Instr.ok]
theorem atomic : ∀ x0 x1, Statement (.atomic x0 x1) := by intros; simp [Statement, Meets, Instr.ok]
theorem normBwd : ∀ x0 x1, Statement (.normBwd x0 x1) := by intros; simp [Statement, Meets, Instr.ok]
theorem softmaxBwd : ∀ x0 x1, Statement (.softmaxBwd x0 x1) := by intros; simp [Statement, Meets, Instr.ok]
theorem rowStats : ∀ x0 x1, Statement (.rowStats x0 x1) := by intros; simp [Statement, Meets, Instr.ok]
theorem rubbleEncode : ∀ x0 x1, Statement (.rubbleEncode x0 x1) := by intros; simp [Statement, Meets, Instr.ok]
theorem rubbleDecode : ∀ x0 x1, Statement (.rubbleDecode x0 x1) := by intros; simp [Statement, Meets, Instr.ok]
theorem copyRound : ∀ x0 x1, Statement (.copyRound x0 x1) := by intros; simp [Statement, Meets, Instr.ok]
theorem benchCoreStop : ∀ x0 x1, Statement (.benchCoreStop x0 x1) := by intros; simp [Statement, Meets, Instr.ok]
theorem benchCoreWake : ∀ x0 x1, Statement (.benchCoreWake x0 x1) := by intros; simp [Statement, Meets, Instr.ok]
theorem benchQuantum : ∀ x0 x1 x2, Statement (.benchQuantum x0 x1 x2) := by intros; simp [Statement, Meets, Instr.ok]
theorem reduceScatter : ∀ x0 x1, Statement (.reduceScatter x0 x1) := by intros; simp [Statement, Meets, Instr.ok]
theorem allGather : ∀ x0 x1, Statement (.allGather x0 x1) := by intros; simp [Statement, Meets, Instr.ok]
theorem allReduce : ∀ x0 x1, Statement (.allReduce x0 x1) := by intros; simp [Statement, Meets, Instr.ok]
theorem broadcast : ∀ x0 x1, Statement (.broadcast x0 x1) := by intros; simp [Statement, Meets, Instr.ok]
theorem allToAll : ∀ x0 x1, Statement (.allToAll x0 x1) := by intros; simp [Statement, Meets, Instr.ok]
theorem normAllreduce : ∀ x0 x1, Statement (.normAllreduce x0 x1) := by intros; simp [Statement, Meets, Instr.ok]
theorem versionedGatherCommit : ∀ x0 x1, Statement (.versionedGatherCommit x0 x1) := by intros; simp [Statement, Meets, Instr.ok]
theorem chunkDeadline : ∀ x0 x1 x2, Statement (.chunkDeadline x0 x1 x2) := by intros; simp [Statement, Meets, Instr.ok]
theorem fenceWrite : ∀ x0 x1, Statement (.fenceWrite x0 x1) := by intros; simp [Statement, Meets, Instr.ok]
theorem fenceAcquire : ∀ x0 x1, Statement (.fenceAcquire x0 x1) := by intros; simp [Statement, Meets, Instr.ok]
theorem fenceFull : ∀ x0 x1, Statement (.fenceFull x0 x1) := by intros; simp [Statement, Meets, Instr.ok]
theorem hint : ∀ x0 x1, Statement (.hint x0 x1) := by intros; simp [Statement, Meets, Instr.ok]
theorem hintPhaseStart : ∀ x0 x1, Statement (.hintPhaseStart x0 x1) := by intros; simp [Statement, Meets, Instr.ok]
theorem hintPhaseEnd : ∀ x0 x1, Statement (.hintPhaseEnd x0 x1) := by intros; simp [Statement, Meets, Instr.ok]
theorem note : ∀ x0 x1, Statement (.note x0 x1) := by intros; simp [Statement, Meets, Instr.ok]
theorem pinRelease : ∀ x0 x1, Statement (.pinRelease x0 x1) := by intros; simp [Statement, Meets, Instr.ok]
theorem publish : ∀ x0 x1, Statement (.publish x0 x1) := by intros; simp [Statement, Meets, Instr.ok]
theorem wait : ∀ x0 x1, Statement (.wait x0 x1) := by intros; simp [Statement, Meets, Instr.ok]
theorem markWaitPoll : ∀ x0 x1, Statement (.markWaitPoll x0 x1) := by intros; simp [Statement, Meets, Instr.ok]
theorem secure : ∀ x0 x1, Statement (.secure x0 x1) := by intros; simp [Statement, Meets, Instr.ok]
theorem priv : ∀ x0 x1, Statement (.priv x0 x1) := by intros; simp [Statement, Meets, Instr.ok]
theorem close : ∀ x0 x1, Statement (.close x0 x1) := by intros; simp [Statement, Meets, Instr.ok]
theorem eval : ∀ x0 x1, Statement (.eval x0 x1) := by intros; simp [Statement, Meets, Instr.ok]
theorem restore : ∀ x0 x1, Statement (.restore x0 x1) := by intros; simp [Statement, Meets, Instr.ok]
theorem reform : ∀ x0 x1, Statement (.reform x0 x1) := by intros; simp [Statement, Meets, Instr.ok]
theorem spanConflictCleared : ∀ x0 x1, Statement (.spanConflictCleared x0 x1) := by intros; simp [Statement, Meets, Instr.ok]
theorem flaggedFinalWriteIssue : ∀ x0 x1, Statement (.flaggedFinalWriteIssue x0 x1) := by intros; simp [Statement, Meets, Instr.ok]
theorem itemEnd : ∀ x0 x1, Statement (.itemEnd x0 x1) := by intros; simp [Statement, Meets, Instr.ok]
theorem drainIntervalExpiry : ∀ x0, Statement (.drainIntervalExpiry x0) := by intros; simp [Statement, Meets, Instr.ok]
theorem dropPoisonComplete : ∀ x0 x1, Statement (.dropPoisonComplete x0 x1) := by intros; simp [Statement, Meets, Instr.ok]
theorem larderAccess : ∀ x0 x1 x2, Statement (.larderAccess x0 x1 x2) := by intros; simp [Statement, Meets, Instr.ok]
theorem regulatorGrant : ∀ x0 x1, Statement (.regulatorGrant x0 x1) := by intros; simp [Statement, Meets, Instr.ok]
theorem retryReissue : Statement .retryReissue := by simp [Statement, Meets, Instr.ok]
theorem patrolScrubRead : ∀ x0 x1, Statement (.patrolScrubRead x0 x1) := by intros; simp [Statement, Meets, Instr.ok]
theorem stackTempRead : ∀ x0 x1, Statement (.stackTempRead x0 x1) := by intros; simp [Statement, Meets, Instr.ok]
theorem stackThrottleStepDown : ∀ x0, Statement (.stackThrottleStepDown x0) := by intros; simp [Statement, Meets, Instr.ok]
theorem dataEyeLockLoss : ∀ x0, Statement (.dataEyeLockLoss x0) := by intros; simp [Statement, Meets, Instr.ok]
theorem stackRetrainComplete : ∀ x0, Statement (.stackRetrainComplete x0) := by intros; simp [Statement, Meets, Instr.ok]
theorem stackRetrainTimeout : ∀ x0, Statement (.stackRetrainTimeout x0) := by intros; simp [Statement, Meets, Instr.ok]
theorem pantryReleaseComplete : ∀ x0, Statement (.pantryReleaseComplete x0) := by intros; simp [Statement, Meets, Instr.ok]
theorem idle : ∀ x0 x1, Statement (.idle x0 x1) := by intros; simp [Statement, Meets, Instr.ok]
theorem data : ∀ x0 x1, Statement (.data x0 x1) := by intros; simp [Statement, Meets, Instr.ok]
theorem nak : ∀ x0 x1, Statement (.nak x0 x1) := by intros; simp [Statement, Meets, Instr.ok]
theorem train : ∀ x0 x1, Statement (.train x0 x1) := by intros; simp [Statement, Meets, Instr.ok]
theorem linkDownTimeout : ∀ x0, Statement (.linkDownTimeout x0) := by intros; simp [Statement, Meets, Instr.ok]
theorem portRetrainTimeout : ∀ x0, Statement (.portRetrainTimeout x0) := by intros; simp [Statement, Meets, Instr.ok]
theorem portDisableTimeout : ∀ x0, Statement (.portDisableTimeout x0) := by intros; simp [Statement, Meets, Instr.ok]
theorem read : ∀ x0 x1, Statement (.read x0 x1) := by intros; simp [Statement, Meets, Instr.ok]
theorem write : ∀ x0 x1, Statement (.write x0 x1) := by intros; simp [Statement, Meets, Instr.ok]
theorem atomicRequest : ∀ x0 x1, Statement (.atomicRequest x0 x1) := by intros; simp [Statement, Meets, Instr.ok]
theorem poison : ∀ x0 x1, Statement (.poison x0 x1) := by intros; simp [Statement, Meets, Instr.ok]
theorem readRsp : ∀ x0 x1, Statement (.readRsp x0 x1) := by intros; simp [Statement, Meets, Instr.ok]
theorem writeAck : ∀ x0 x1, Statement (.writeAck x0 x1) := by intros; simp [Statement, Meets, Instr.ok]
theorem atomicRsp : ∀ x0 x1, Statement (.atomicRsp x0 x1) := by intros; simp [Statement, Meets, Instr.ok]
theorem retry : ∀ x0 x1, Statement (.retry x0 x1) := by intros; simp [Statement, Meets, Instr.ok]
theorem fault : ∀ x0 x1, Statement (.fault x0 x1) := by intros; simp [Statement, Meets, Instr.ok]
theorem collData : ∀ x0 x1, Statement (.collData x0 x1) := by intros; simp [Statement, Meets, Instr.ok]
theorem crushData : ∀ x0 x1, Statement (.crushData x0 x1) := by intros; simp [Statement, Meets, Instr.ok]
theorem escapeWaitExpiry : ∀ x0 x1, Statement (.escapeWaitExpiry x0 x1) := by intros; simp [Statement, Meets, Instr.ok]
theorem stallLimitExpiry : ∀ x0 x1 x2, Statement (.stallLimitExpiry x0 x1 x2) := by intros; simp [Statement, Meets, Instr.ok]
theorem respTimeout : ∀ x0, Statement (.respTimeout x0) := by intros; simp [Statement, Meets, Instr.ok]
theorem notUsed : ∀ x0, Statement (.notUsed x0) := by intros; simp [Statement, Meets, Instr.ok]
theorem crushDone : ∀ x0, Statement (.crushDone x0) := by intros; simp [Statement, Meets, Instr.ok]
theorem foldNotice : ∀ x0, Statement (.foldNotice x0) := by intros; simp [Statement, Meets, Instr.ok]
theorem closeReport : ∀ x0, Statement (.closeReport x0) := by intros; simp [Statement, Meets, Instr.ok]
theorem imageFwdStart : ∀ x0 x1, Statement (.imageFwdStart x0 x1) := by intros; simp [Statement, Meets, Instr.ok]
theorem imageFwdData : ∀ x0 x1, Statement (.imageFwdData x0 x1) := by intros; simp [Statement, Meets, Instr.ok]
theorem imageFwdResult : ∀ x0 x1, Statement (.imageFwdResult x0 x1) := by intros; simp [Statement, Meets, Instr.ok]
theorem imageFwdTimeout : ∀ x0, Statement (.imageFwdTimeout x0) := by intros; simp [Statement, Meets, Instr.ok]
theorem rdmaWrite : ∀ x0 x1, Statement (.rdmaWrite x0 x1) := by intros; simp [Statement, Meets, Instr.ok]
theorem rdmaWriteWithImmediate : ∀ x0 x1 x2, Statement (.rdmaWriteWithImmediate x0 x1 x2) := by intros; simp [Statement, Meets, Instr.ok]
theorem rdmaRead : ∀ x0 x1, Statement (.rdmaRead x0 x1) := by intros; simp [Statement, Meets, Instr.ok]
theorem send : ∀ x0 x1, Statement (.send x0 x1) := by intros; simp [Statement, Meets, Instr.ok]
theorem invalidRequest : ∀ x0 x1, Statement (.invalidRequest x0 x1) := by intros; simp [Statement, Meets, Instr.ok]
theorem hostAck : ∀ x0 x1, Statement (.hostAck x0 x1) := by intros; simp [Statement, Meets, Instr.ok]
theorem hostNak : ∀ x0 x1, Statement (.hostNak x0 x1) := by intros; simp [Statement, Meets, Instr.ok]
theorem ackTimeout : ∀ x0, Statement (.ackTimeout x0) := by intros; simp [Statement, Meets, Instr.ok]
theorem cnp : ∀ x0, Statement (.cnp x0) := by intros; simp [Statement, Meets, Instr.ok]
theorem recIntervalExpiry : ∀ x0, Statement (.recIntervalExpiry x0) := by intros; simp [Statement, Meets, Instr.ok]
theorem pfcPause : ∀ x0 x1, Statement (.pfcPause x0 x1) := by intros; simp [Statement, Meets, Instr.ok]
theorem arp : ∀ x0 x1, Statement (.arp x0 x1) := by intros; simp [Statement, Meets, Instr.ok]
theorem neighborSolicitation : ∀ x0 x1, Statement (.neighborSolicitation x0 x1) := by intros; simp [Statement, Meets, Instr.ok]
theorem frameDiscard : Statement .frameDiscard := by simp [Statement, Meets, Instr.ok]
theorem porchLinkDown : Statement .porchLinkDown := by simp [Statement, Meets, Instr.ok]
theorem porchRetrainAttempt : Statement .porchRetrainAttempt := by simp [Statement, Meets, Instr.ok]
theorem getIdentity : ∀ x0, Statement (.getIdentity x0) := by intros; simp [Statement, Meets, Instr.ok]
theorem getNonce : ∀ x0, Statement (.getNonce x0) := by intros; simp [Statement, Meets, Instr.ok]
theorem quote : ∀ x0, Statement (.quote x0) := by intros; simp [Statement, Meets, Instr.ok]
theorem selectVariant : ∀ x0, Statement (.selectVariant x0) := by intros; simp [Statement, Meets, Instr.ok]
theorem imageWrite : ∀ x0, Statement (.imageWrite x0) := by intros; simp [Statement, Meets, Instr.ok]
theorem imageData : ∀ x0, Statement (.imageData x0) := by intros; simp [Statement, Meets, Instr.ok]
theorem imageWriteAbandon : Statement .imageWriteAbandon := by simp [Statement, Meets, Instr.ok]
theorem qpReset : ∀ x0, Statement (.qpReset x0) := by intros; simp [Statement, Meets, Instr.ok]
theorem computeReset : ∀ x0, Statement (.computeReset x0) := by intros; simp [Statement, Meets, Instr.ok]
theorem contextReset : ∀ x0, Statement (.contextReset x0) := by intros; simp [Statement, Meets, Instr.ok]
theorem stackRetrain : ∀ x0, Statement (.stackRetrain x0) := by intros; simp [Statement, Meets, Instr.ok]
theorem fenceClear : ∀ x0, Statement (.fenceClear x0) := by intros; simp [Statement, Meets, Instr.ok]
theorem safeState : ∀ x0, Statement (.safeState x0) := by intros; simp [Statement, Meets, Instr.ok]
theorem rollbackRaise : ∀ x0, Statement (.rollbackRaise x0) := by intros; simp [Statement, Meets, Instr.ok]
theorem keyEnroll : ∀ x0, Statement (.keyEnroll x0) := by intros; simp [Statement, Meets, Instr.ok]
theorem keyRevoke : ∀ x0, Statement (.keyRevoke x0) := by intros; simp [Statement, Meets, Instr.ok]
theorem controlWrite : ∀ x0, Statement (.controlWrite x0) := by intros; simp [Statement, Meets, Instr.ok]
theorem ctxCtlReset : ∀ x0 x1, Statement (.ctxCtlReset x0 x1) := by intros; simp [Statement, Meets, Instr.ok]
theorem counterClear : ∀ x0 x1, Statement (.counterClear x0 x1) := by intros; simp [Statement, Meets, Instr.ok]
theorem counterRun : ∀ x0 x1, Statement (.counterRun x0 x1) := by intros; simp [Statement, Meets, Instr.ok]
theorem counterSelect : ∀ x0 x1 x2 x3, Statement (.counterSelect x0 x1 x2 x3) := by intros; simp [Statement, Meets, Instr.ok]
theorem controlSpaceWrite : ∀ x0 x1 x2, Statement (.controlSpaceWrite x0 x1 x2) := by intros; simp [Statement, Meets, Instr.ok]
theorem i3cOffsetWrite : ∀ x0, Statement (.i3cOffsetWrite x0) := by intros; simp [Statement, Meets, Instr.ok]
theorem i3cRead : Statement .i3cRead := by simp [Statement, Meets, Instr.ok]
theorem extest : Statement .extest := by simp [Statement, Meets, Instr.ok]
theorem controlTick : Statement .controlTick := by simp [Statement, Meets, Instr.ok]
theorem railSense : ∀ x0, Statement (.railSense x0) := by intros; simp [Statement, Meets, Instr.ok]
theorem generatorLock : ∀ x0, Statement (.generatorLock x0) := by intros; simp [Statement, Meets, Instr.ok]
theorem voltageStep : ∀ x0, Statement (.voltageStep x0) := by intros; simp [Statement, Meets, Instr.ok]
theorem droopDetect : ∀ x0 x1, Statement (.droopDetect x0 x1) := by intros; simp [Statement, Meets, Instr.ok]
theorem droopClear : ∀ x0, Statement (.droopClear x0) := by intros; simp [Statement, Meets, Instr.ok]
theorem droopHoldExpiry : ∀ x0, Statement (.droopHoldExpiry x0) := by intros; simp [Statement, Meets, Instr.ok]
theorem regAlertAssert : ∀ x0, Statement (.regAlertAssert x0) := by intros; simp [Statement, Meets, Instr.ok]
theorem alertHoldExpiry : Statement .alertHoldExpiry := by simp [Statement, Meets, Instr.ok]
theorem powerFault : ∀ x0, Statement (.powerFault x0) := by intros; simp [Statement, Meets, Instr.ok]
theorem dieTempRead : ∀ x0, Statement (.dieTempRead x0) := by intros; simp [Statement, Meets, Instr.ok]
theorem thermalCapStep : ∀ x0, Statement (.thermalCapStep x0) := by intros; simp [Statement, Meets, Instr.ok]
theorem thermalTrip : ∀ x0 x1, Statement (.thermalTrip x0 x1) := by intros; simp [Statement, Meets, Instr.ok]
theorem clockMonitorWindow : ∀ x0 x1 x2 x3, Statement (.clockMonitorWindow x0 x1 x2 x3) := by intros; simp [Statement, Meets, Instr.ok]
theorem gatehouseMismatch : ∀ x0, Statement (.gatehouseMismatch x0) := by intros; simp [Statement, Meets, Instr.ok]
theorem errorDrainTimer : Statement .errorDrainTimer := by simp [Statement, Meets, Instr.ok]
theorem regAlertDeassert : ∀ x0, Statement (.regAlertDeassert x0) := by intros; simp [Statement, Meets, Instr.ok]
theorem porchLinkUp : Statement .porchLinkUp := by simp [Statement, Meets, Instr.ok]
theorem fecLock : ∀ x0, Statement (.fecLock x0) := by intros; simp [Statement, Meets, Instr.ok]
theorem trainingPatternReceived : ∀ x0, Statement (.trainingPatternReceived x0) := by intros; simp [Statement, Meets, Instr.ok]
theorem railsInRange : Statement .railsInRange := by simp [Statement, Meets, Instr.ok]

end Sys2Proof.Laws.WellFormedness
end

