-- ==== Sys2Proof/Laws/State.lean ====
section
/-! SUPPORT. What each small update of a state writes and leaves, field by field. -/

namespace Sys2Proof.Machine

variable (s : State)

/-! ## upTo -/

@[simp] theorem State.upTo_pending (t : Nat) : (s.upTo t).pending = s.pending := rfl
@[simp] theorem State.upTo_now (t : Nat) : (s.upTo t).now = Nat.max s.now t := rfl
@[simp] theorem State.upTo_t0 (t : Nat) : (s.upTo t).t0 = s.t0 := rfl
@[simp] theorem State.upTo_stampAt (t : Nat) : (s.upTo t).stampAt = s.stampAt := rfl
@[simp] theorem State.upTo_free (t : Nat) : (s.upTo t).free = s.free := rfl
@[simp] theorem State.upTo_boot (t : Nat) : (s.upTo t).boot = s.boot := rfl
@[simp] theorem State.upTo_fuses (t : Nat) : (s.upTo t).fuses = s.fuses := rfl
@[simp] theorem State.upTo_gate (t : Nat) : (s.upTo t).gate = s.gate := rfl
@[simp] theorem State.upTo_errors (t : Nat) : (s.upTo t).errors = s.errors := rfl
@[simp] theorem State.upTo_cfg (t : Nat) : (s.upTo t).cfg = s.cfg := rfl
@[simp] theorem State.upTo_ctxs (t : Nat) : (s.upTo t).ctxs = s.ctxs := rfl
@[simp] theorem State.upTo_items (t : Nat) : (s.upTo t).items = s.items := rfl
@[simp] theorem State.upTo_rounds (t : Nat) : (s.upTo t).rounds = s.rounds := rfl
@[simp] theorem State.upTo_reqs (t : Nat) : (s.upTo t).reqs = s.reqs := rfl
@[simp] theorem State.upTo_nextReq (t : Nat) : (s.upTo t).nextReq = s.nextReq := rfl
@[simp] theorem State.upTo_memory (t : Nat) : (s.upTo t).memory = s.memory := rfl
@[simp] theorem State.upTo_faces (t : Nat) : (s.upTo t).faces = s.faces := rfl
@[simp] theorem State.upTo_dies (t : Nat) : (s.upTo t).dies = s.dies := rfl
@[simp] theorem State.upTo_landings (t : Nat) : (s.upTo t).landings = s.landings := rfl
@[simp] theorem State.upTo_ports (t : Nat) : (s.upTo t).ports = s.ports := rfl
@[simp] theorem State.upTo_colls (t : Nat) : (s.upTo t).colls = s.colls := rfl
@[simp] theorem State.upTo_collNext (t : Nat) : (s.upTo t).collNext = s.collNext := rfl
@[simp] theorem State.upTo_lateCopies (t : Nat) : (s.upTo t).lateCopies = s.lateCopies := rfl
@[simp] theorem State.upTo_attic (t : Nat) : (s.upTo t).attic = s.attic := rfl
@[simp] theorem State.upTo_porch (t : Nat) : (s.upTo t).porch = s.porch := rfl
@[simp] theorem State.upTo_hearth (t : Nat) : (s.upTo t).hearth = s.hearth := rfl
@[simp] theorem State.upTo_banks (t : Nat) : (s.upTo t).banks = s.banks := rfl

/-! ## modCtx -/

@[simp] theorem State.modCtx_pending (c : Nat) (f : Ctx → Ctx) : (s.modCtx c f).pending = s.pending := rfl
@[simp] theorem State.modCtx_now (c : Nat) (f : Ctx → Ctx) : (s.modCtx c f).now = s.now := rfl
@[simp] theorem State.modCtx_t0 (c : Nat) (f : Ctx → Ctx) : (s.modCtx c f).t0 = s.t0 := rfl
@[simp] theorem State.modCtx_stampAt (c : Nat) (f : Ctx → Ctx) : (s.modCtx c f).stampAt = s.stampAt := rfl
@[simp] theorem State.modCtx_free (c : Nat) (f : Ctx → Ctx) : (s.modCtx c f).free = s.free := rfl
@[simp] theorem State.modCtx_boot (c : Nat) (f : Ctx → Ctx) : (s.modCtx c f).boot = s.boot := rfl
@[simp] theorem State.modCtx_fuses (c : Nat) (f : Ctx → Ctx) : (s.modCtx c f).fuses = s.fuses := rfl
@[simp] theorem State.modCtx_gate (c : Nat) (f : Ctx → Ctx) : (s.modCtx c f).gate = s.gate := rfl
@[simp] theorem State.modCtx_errors (c : Nat) (f : Ctx → Ctx) : (s.modCtx c f).errors = s.errors := rfl
@[simp] theorem State.modCtx_cfg (c : Nat) (f : Ctx → Ctx) : (s.modCtx c f).cfg = s.cfg := rfl
@[simp] theorem State.modCtx_ctxs (c : Nat) (f : Ctx → Ctx) : (s.modCtx c f).ctxs = s.ctxs.modify c f := rfl
@[simp] theorem State.modCtx_items (c : Nat) (f : Ctx → Ctx) : (s.modCtx c f).items = s.items := rfl
@[simp] theorem State.modCtx_rounds (c : Nat) (f : Ctx → Ctx) : (s.modCtx c f).rounds = s.rounds := rfl
@[simp] theorem State.modCtx_reqs (c : Nat) (f : Ctx → Ctx) : (s.modCtx c f).reqs = s.reqs := rfl
@[simp] theorem State.modCtx_nextReq (c : Nat) (f : Ctx → Ctx) : (s.modCtx c f).nextReq = s.nextReq := rfl
@[simp] theorem State.modCtx_memory (c : Nat) (f : Ctx → Ctx) : (s.modCtx c f).memory = s.memory := rfl
@[simp] theorem State.modCtx_faces (c : Nat) (f : Ctx → Ctx) : (s.modCtx c f).faces = s.faces := rfl
@[simp] theorem State.modCtx_dies (c : Nat) (f : Ctx → Ctx) : (s.modCtx c f).dies = s.dies := rfl
@[simp] theorem State.modCtx_landings (c : Nat) (f : Ctx → Ctx) : (s.modCtx c f).landings = s.landings := rfl
@[simp] theorem State.modCtx_ports (c : Nat) (f : Ctx → Ctx) : (s.modCtx c f).ports = s.ports := rfl
@[simp] theorem State.modCtx_colls (c : Nat) (f : Ctx → Ctx) : (s.modCtx c f).colls = s.colls := rfl
@[simp] theorem State.modCtx_collNext (c : Nat) (f : Ctx → Ctx) : (s.modCtx c f).collNext = s.collNext := rfl
@[simp] theorem State.modCtx_lateCopies (c : Nat) (f : Ctx → Ctx) : (s.modCtx c f).lateCopies = s.lateCopies := rfl
@[simp] theorem State.modCtx_attic (c : Nat) (f : Ctx → Ctx) : (s.modCtx c f).attic = s.attic := rfl
@[simp] theorem State.modCtx_porch (c : Nat) (f : Ctx → Ctx) : (s.modCtx c f).porch = s.porch := rfl
@[simp] theorem State.modCtx_hearth (c : Nat) (f : Ctx → Ctx) : (s.modCtx c f).hearth = s.hearth := rfl
@[simp] theorem State.modCtx_banks (c : Nat) (f : Ctx → Ctx) : (s.modCtx c f).banks = s.banks := rfl

/-! ## modItem -/

@[simp] theorem State.modItem_pending (r : ItemRef) (f : Item → Item) : (s.modItem r f).pending = s.pending := rfl
@[simp] theorem State.modItem_now (r : ItemRef) (f : Item → Item) : (s.modItem r f).now = s.now := rfl
@[simp] theorem State.modItem_t0 (r : ItemRef) (f : Item → Item) : (s.modItem r f).t0 = s.t0 := rfl
@[simp] theorem State.modItem_stampAt (r : ItemRef) (f : Item → Item) : (s.modItem r f).stampAt = s.stampAt := rfl
@[simp] theorem State.modItem_free (r : ItemRef) (f : Item → Item) : (s.modItem r f).free = s.free := rfl
@[simp] theorem State.modItem_boot (r : ItemRef) (f : Item → Item) : (s.modItem r f).boot = s.boot := rfl
@[simp] theorem State.modItem_fuses (r : ItemRef) (f : Item → Item) : (s.modItem r f).fuses = s.fuses := rfl
@[simp] theorem State.modItem_gate (r : ItemRef) (f : Item → Item) : (s.modItem r f).gate = s.gate := rfl
@[simp] theorem State.modItem_errors (r : ItemRef) (f : Item → Item) : (s.modItem r f).errors = s.errors := rfl
@[simp] theorem State.modItem_cfg (r : ItemRef) (f : Item → Item) : (s.modItem r f).cfg = s.cfg := rfl
@[simp] theorem State.modItem_ctxs (r : ItemRef) (f : Item → Item) : (s.modItem r f).ctxs = s.ctxs := rfl
@[simp] theorem State.modItem_items (r : ItemRef) (f : Item → Item) : (s.modItem r f).items = s.items.map (fun i => if i.ref = r then f i else i) := rfl
@[simp] theorem State.modItem_rounds (r : ItemRef) (f : Item → Item) : (s.modItem r f).rounds = s.rounds := rfl
@[simp] theorem State.modItem_reqs (r : ItemRef) (f : Item → Item) : (s.modItem r f).reqs = s.reqs := rfl
@[simp] theorem State.modItem_nextReq (r : ItemRef) (f : Item → Item) : (s.modItem r f).nextReq = s.nextReq := rfl
@[simp] theorem State.modItem_memory (r : ItemRef) (f : Item → Item) : (s.modItem r f).memory = s.memory := rfl
@[simp] theorem State.modItem_faces (r : ItemRef) (f : Item → Item) : (s.modItem r f).faces = s.faces := rfl
@[simp] theorem State.modItem_dies (r : ItemRef) (f : Item → Item) : (s.modItem r f).dies = s.dies := rfl
@[simp] theorem State.modItem_landings (r : ItemRef) (f : Item → Item) : (s.modItem r f).landings = s.landings := rfl
@[simp] theorem State.modItem_ports (r : ItemRef) (f : Item → Item) : (s.modItem r f).ports = s.ports := rfl
@[simp] theorem State.modItem_colls (r : ItemRef) (f : Item → Item) : (s.modItem r f).colls = s.colls := rfl
@[simp] theorem State.modItem_collNext (r : ItemRef) (f : Item → Item) : (s.modItem r f).collNext = s.collNext := rfl
@[simp] theorem State.modItem_lateCopies (r : ItemRef) (f : Item → Item) : (s.modItem r f).lateCopies = s.lateCopies := rfl
@[simp] theorem State.modItem_attic (r : ItemRef) (f : Item → Item) : (s.modItem r f).attic = s.attic := rfl
@[simp] theorem State.modItem_porch (r : ItemRef) (f : Item → Item) : (s.modItem r f).porch = s.porch := rfl
@[simp] theorem State.modItem_hearth (r : ItemRef) (f : Item → Item) : (s.modItem r f).hearth = s.hearth := rfl
@[simp] theorem State.modItem_banks (r : ItemRef) (f : Item → Item) : (s.modItem r f).banks = s.banks := rfl

/-! ## modMem -/

@[simp] theorem State.modMem_pending (f : Memory → Memory) : (s.modMem f).pending = s.pending := rfl
@[simp] theorem State.modMem_now (f : Memory → Memory) : (s.modMem f).now = s.now := rfl
@[simp] theorem State.modMem_t0 (f : Memory → Memory) : (s.modMem f).t0 = s.t0 := rfl
@[simp] theorem State.modMem_stampAt (f : Memory → Memory) : (s.modMem f).stampAt = s.stampAt := rfl
@[simp] theorem State.modMem_free (f : Memory → Memory) : (s.modMem f).free = s.free := rfl
@[simp] theorem State.modMem_boot (f : Memory → Memory) : (s.modMem f).boot = s.boot := rfl
@[simp] theorem State.modMem_fuses (f : Memory → Memory) : (s.modMem f).fuses = s.fuses := rfl
@[simp] theorem State.modMem_gate (f : Memory → Memory) : (s.modMem f).gate = s.gate := rfl
@[simp] theorem State.modMem_errors (f : Memory → Memory) : (s.modMem f).errors = s.errors := rfl
@[simp] theorem State.modMem_cfg (f : Memory → Memory) : (s.modMem f).cfg = s.cfg := rfl
@[simp] theorem State.modMem_ctxs (f : Memory → Memory) : (s.modMem f).ctxs = s.ctxs := rfl
@[simp] theorem State.modMem_items (f : Memory → Memory) : (s.modMem f).items = s.items := rfl
@[simp] theorem State.modMem_rounds (f : Memory → Memory) : (s.modMem f).rounds = s.rounds := rfl
@[simp] theorem State.modMem_reqs (f : Memory → Memory) : (s.modMem f).reqs = s.reqs := rfl
@[simp] theorem State.modMem_nextReq (f : Memory → Memory) : (s.modMem f).nextReq = s.nextReq := rfl
@[simp] theorem State.modMem_memory (f : Memory → Memory) : (s.modMem f).memory = f s.memory := rfl
@[simp] theorem State.modMem_faces (f : Memory → Memory) : (s.modMem f).faces = s.faces := rfl
@[simp] theorem State.modMem_dies (f : Memory → Memory) : (s.modMem f).dies = s.dies := rfl
@[simp] theorem State.modMem_landings (f : Memory → Memory) : (s.modMem f).landings = s.landings := rfl
@[simp] theorem State.modMem_ports (f : Memory → Memory) : (s.modMem f).ports = s.ports := rfl
@[simp] theorem State.modMem_colls (f : Memory → Memory) : (s.modMem f).colls = s.colls := rfl
@[simp] theorem State.modMem_collNext (f : Memory → Memory) : (s.modMem f).collNext = s.collNext := rfl
@[simp] theorem State.modMem_lateCopies (f : Memory → Memory) : (s.modMem f).lateCopies = s.lateCopies := rfl
@[simp] theorem State.modMem_attic (f : Memory → Memory) : (s.modMem f).attic = s.attic := rfl
@[simp] theorem State.modMem_porch (f : Memory → Memory) : (s.modMem f).porch = s.porch := rfl
@[simp] theorem State.modMem_hearth (f : Memory → Memory) : (s.modMem f).hearth = s.hearth := rfl
@[simp] theorem State.modMem_banks (f : Memory → Memory) : (s.modMem f).banks = s.banks := rfl

/-! ## modPort -/

@[simp] theorem State.modPort_pending (p : Nat) (f : Port → Port) : (s.modPort p f).pending = s.pending := rfl
@[simp] theorem State.modPort_now (p : Nat) (f : Port → Port) : (s.modPort p f).now = s.now := rfl
@[simp] theorem State.modPort_t0 (p : Nat) (f : Port → Port) : (s.modPort p f).t0 = s.t0 := rfl
@[simp] theorem State.modPort_stampAt (p : Nat) (f : Port → Port) : (s.modPort p f).stampAt = s.stampAt := rfl
@[simp] theorem State.modPort_free (p : Nat) (f : Port → Port) : (s.modPort p f).free = s.free := rfl
@[simp] theorem State.modPort_boot (p : Nat) (f : Port → Port) : (s.modPort p f).boot = s.boot := rfl
@[simp] theorem State.modPort_fuses (p : Nat) (f : Port → Port) : (s.modPort p f).fuses = s.fuses := rfl
@[simp] theorem State.modPort_gate (p : Nat) (f : Port → Port) : (s.modPort p f).gate = s.gate := rfl
@[simp] theorem State.modPort_errors (p : Nat) (f : Port → Port) : (s.modPort p f).errors = s.errors := rfl
@[simp] theorem State.modPort_cfg (p : Nat) (f : Port → Port) : (s.modPort p f).cfg = s.cfg := rfl
@[simp] theorem State.modPort_ctxs (p : Nat) (f : Port → Port) : (s.modPort p f).ctxs = s.ctxs := rfl
@[simp] theorem State.modPort_items (p : Nat) (f : Port → Port) : (s.modPort p f).items = s.items := rfl
@[simp] theorem State.modPort_rounds (p : Nat) (f : Port → Port) : (s.modPort p f).rounds = s.rounds := rfl
@[simp] theorem State.modPort_reqs (p : Nat) (f : Port → Port) : (s.modPort p f).reqs = s.reqs := rfl
@[simp] theorem State.modPort_nextReq (p : Nat) (f : Port → Port) : (s.modPort p f).nextReq = s.nextReq := rfl
@[simp] theorem State.modPort_memory (p : Nat) (f : Port → Port) : (s.modPort p f).memory = s.memory := rfl
@[simp] theorem State.modPort_faces (p : Nat) (f : Port → Port) : (s.modPort p f).faces = s.faces := rfl
@[simp] theorem State.modPort_dies (p : Nat) (f : Port → Port) : (s.modPort p f).dies = s.dies := rfl
@[simp] theorem State.modPort_landings (p : Nat) (f : Port → Port) : (s.modPort p f).landings = s.landings := rfl
@[simp] theorem State.modPort_ports (p : Nat) (f : Port → Port) : (s.modPort p f).ports = s.ports.modify p f := rfl
@[simp] theorem State.modPort_colls (p : Nat) (f : Port → Port) : (s.modPort p f).colls = s.colls := rfl
@[simp] theorem State.modPort_collNext (p : Nat) (f : Port → Port) : (s.modPort p f).collNext = s.collNext := rfl
@[simp] theorem State.modPort_lateCopies (p : Nat) (f : Port → Port) : (s.modPort p f).lateCopies = s.lateCopies := rfl
@[simp] theorem State.modPort_attic (p : Nat) (f : Port → Port) : (s.modPort p f).attic = s.attic := rfl
@[simp] theorem State.modPort_porch (p : Nat) (f : Port → Port) : (s.modPort p f).porch = s.porch := rfl
@[simp] theorem State.modPort_hearth (p : Nat) (f : Port → Port) : (s.modPort p f).hearth = s.hearth := rfl
@[simp] theorem State.modPort_banks (p : Nat) (f : Port → Port) : (s.modPort p f).banks = s.banks := rfl

/-! ## modFace -/

@[simp] theorem State.modFace_pending (i : Nat) (g : Face → Face) : (s.modFace i g).pending = s.pending := rfl
@[simp] theorem State.modFace_now (i : Nat) (g : Face → Face) : (s.modFace i g).now = s.now := rfl
@[simp] theorem State.modFace_t0 (i : Nat) (g : Face → Face) : (s.modFace i g).t0 = s.t0 := rfl
@[simp] theorem State.modFace_stampAt (i : Nat) (g : Face → Face) : (s.modFace i g).stampAt = s.stampAt := rfl
@[simp] theorem State.modFace_free (i : Nat) (g : Face → Face) : (s.modFace i g).free = s.free := rfl
@[simp] theorem State.modFace_boot (i : Nat) (g : Face → Face) : (s.modFace i g).boot = s.boot := rfl
@[simp] theorem State.modFace_fuses (i : Nat) (g : Face → Face) : (s.modFace i g).fuses = s.fuses := rfl
@[simp] theorem State.modFace_gate (i : Nat) (g : Face → Face) : (s.modFace i g).gate = s.gate := rfl
@[simp] theorem State.modFace_errors (i : Nat) (g : Face → Face) : (s.modFace i g).errors = s.errors := rfl
@[simp] theorem State.modFace_cfg (i : Nat) (g : Face → Face) : (s.modFace i g).cfg = s.cfg := rfl
@[simp] theorem State.modFace_ctxs (i : Nat) (g : Face → Face) : (s.modFace i g).ctxs = s.ctxs := rfl
@[simp] theorem State.modFace_items (i : Nat) (g : Face → Face) : (s.modFace i g).items = s.items := rfl
@[simp] theorem State.modFace_rounds (i : Nat) (g : Face → Face) : (s.modFace i g).rounds = s.rounds := rfl
@[simp] theorem State.modFace_reqs (i : Nat) (g : Face → Face) : (s.modFace i g).reqs = s.reqs := rfl
@[simp] theorem State.modFace_nextReq (i : Nat) (g : Face → Face) : (s.modFace i g).nextReq = s.nextReq := rfl
@[simp] theorem State.modFace_memory (i : Nat) (g : Face → Face) : (s.modFace i g).memory = s.memory := rfl
@[simp] theorem State.modFace_faces (i : Nat) (g : Face → Face) : (s.modFace i g).faces = s.faces.modify i g := rfl
@[simp] theorem State.modFace_dies (i : Nat) (g : Face → Face) : (s.modFace i g).dies = s.dies := rfl
@[simp] theorem State.modFace_landings (i : Nat) (g : Face → Face) : (s.modFace i g).landings = s.landings := rfl
@[simp] theorem State.modFace_ports (i : Nat) (g : Face → Face) : (s.modFace i g).ports = s.ports := rfl
@[simp] theorem State.modFace_colls (i : Nat) (g : Face → Face) : (s.modFace i g).colls = s.colls := rfl
@[simp] theorem State.modFace_collNext (i : Nat) (g : Face → Face) : (s.modFace i g).collNext = s.collNext := rfl
@[simp] theorem State.modFace_lateCopies (i : Nat) (g : Face → Face) : (s.modFace i g).lateCopies = s.lateCopies := rfl
@[simp] theorem State.modFace_attic (i : Nat) (g : Face → Face) : (s.modFace i g).attic = s.attic := rfl
@[simp] theorem State.modFace_porch (i : Nat) (g : Face → Face) : (s.modFace i g).porch = s.porch := rfl
@[simp] theorem State.modFace_hearth (i : Nat) (g : Face → Face) : (s.modFace i g).hearth = s.hearth := rfl
@[simp] theorem State.modFace_banks (i : Nat) (g : Face → Face) : (s.modFace i g).banks = s.banks := rfl

/-! ## modDie -/

@[simp] theorem State.modDie_pending (d : Nat) (f : Die → Die) : (s.modDie d f).pending = s.pending := rfl
@[simp] theorem State.modDie_now (d : Nat) (f : Die → Die) : (s.modDie d f).now = s.now := rfl
@[simp] theorem State.modDie_t0 (d : Nat) (f : Die → Die) : (s.modDie d f).t0 = s.t0 := rfl
@[simp] theorem State.modDie_stampAt (d : Nat) (f : Die → Die) : (s.modDie d f).stampAt = s.stampAt := rfl
@[simp] theorem State.modDie_free (d : Nat) (f : Die → Die) : (s.modDie d f).free = s.free := rfl
@[simp] theorem State.modDie_boot (d : Nat) (f : Die → Die) : (s.modDie d f).boot = s.boot := rfl
@[simp] theorem State.modDie_fuses (d : Nat) (f : Die → Die) : (s.modDie d f).fuses = s.fuses := rfl
@[simp] theorem State.modDie_gate (d : Nat) (f : Die → Die) : (s.modDie d f).gate = s.gate := rfl
@[simp] theorem State.modDie_errors (d : Nat) (f : Die → Die) : (s.modDie d f).errors = s.errors := rfl
@[simp] theorem State.modDie_cfg (d : Nat) (f : Die → Die) : (s.modDie d f).cfg = s.cfg := rfl
@[simp] theorem State.modDie_ctxs (d : Nat) (f : Die → Die) : (s.modDie d f).ctxs = s.ctxs := rfl
@[simp] theorem State.modDie_items (d : Nat) (f : Die → Die) : (s.modDie d f).items = s.items := rfl
@[simp] theorem State.modDie_rounds (d : Nat) (f : Die → Die) : (s.modDie d f).rounds = s.rounds := rfl
@[simp] theorem State.modDie_reqs (d : Nat) (f : Die → Die) : (s.modDie d f).reqs = s.reqs := rfl
@[simp] theorem State.modDie_nextReq (d : Nat) (f : Die → Die) : (s.modDie d f).nextReq = s.nextReq := rfl
@[simp] theorem State.modDie_memory (d : Nat) (f : Die → Die) : (s.modDie d f).memory = s.memory := rfl
@[simp] theorem State.modDie_faces (d : Nat) (f : Die → Die) : (s.modDie d f).faces = s.faces := rfl
@[simp] theorem State.modDie_dies (d : Nat) (f : Die → Die) : (s.modDie d f).dies = s.dies.modify d f := rfl
@[simp] theorem State.modDie_landings (d : Nat) (f : Die → Die) : (s.modDie d f).landings = s.landings := rfl
@[simp] theorem State.modDie_ports (d : Nat) (f : Die → Die) : (s.modDie d f).ports = s.ports := rfl
@[simp] theorem State.modDie_colls (d : Nat) (f : Die → Die) : (s.modDie d f).colls = s.colls := rfl
@[simp] theorem State.modDie_collNext (d : Nat) (f : Die → Die) : (s.modDie d f).collNext = s.collNext := rfl
@[simp] theorem State.modDie_lateCopies (d : Nat) (f : Die → Die) : (s.modDie d f).lateCopies = s.lateCopies := rfl
@[simp] theorem State.modDie_attic (d : Nat) (f : Die → Die) : (s.modDie d f).attic = s.attic := rfl
@[simp] theorem State.modDie_porch (d : Nat) (f : Die → Die) : (s.modDie d f).porch = s.porch := rfl
@[simp] theorem State.modDie_hearth (d : Nat) (f : Die → Die) : (s.modDie d f).hearth = s.hearth := rfl
@[simp] theorem State.modDie_banks (d : Nat) (f : Die → Die) : (s.modDie d f).banks = s.banks := rfl

/-! ## modHearth -/

@[simp] theorem State.modHearth_pending (f : Hearth → Hearth) : (s.modHearth f).pending = s.pending := rfl
@[simp] theorem State.modHearth_now (f : Hearth → Hearth) : (s.modHearth f).now = s.now := rfl
@[simp] theorem State.modHearth_t0 (f : Hearth → Hearth) : (s.modHearth f).t0 = s.t0 := rfl
@[simp] theorem State.modHearth_stampAt (f : Hearth → Hearth) : (s.modHearth f).stampAt = s.stampAt := rfl
@[simp] theorem State.modHearth_free (f : Hearth → Hearth) : (s.modHearth f).free = s.free := rfl
@[simp] theorem State.modHearth_boot (f : Hearth → Hearth) : (s.modHearth f).boot = s.boot := rfl
@[simp] theorem State.modHearth_fuses (f : Hearth → Hearth) : (s.modHearth f).fuses = s.fuses := rfl
@[simp] theorem State.modHearth_gate (f : Hearth → Hearth) : (s.modHearth f).gate = s.gate := rfl
@[simp] theorem State.modHearth_errors (f : Hearth → Hearth) : (s.modHearth f).errors = s.errors := rfl
@[simp] theorem State.modHearth_cfg (f : Hearth → Hearth) : (s.modHearth f).cfg = s.cfg := rfl
@[simp] theorem State.modHearth_ctxs (f : Hearth → Hearth) : (s.modHearth f).ctxs = s.ctxs := rfl
@[simp] theorem State.modHearth_items (f : Hearth → Hearth) : (s.modHearth f).items = s.items := rfl
@[simp] theorem State.modHearth_rounds (f : Hearth → Hearth) : (s.modHearth f).rounds = s.rounds := rfl
@[simp] theorem State.modHearth_reqs (f : Hearth → Hearth) : (s.modHearth f).reqs = s.reqs := rfl
@[simp] theorem State.modHearth_nextReq (f : Hearth → Hearth) : (s.modHearth f).nextReq = s.nextReq := rfl
@[simp] theorem State.modHearth_memory (f : Hearth → Hearth) : (s.modHearth f).memory = s.memory := rfl
@[simp] theorem State.modHearth_faces (f : Hearth → Hearth) : (s.modHearth f).faces = s.faces := rfl
@[simp] theorem State.modHearth_dies (f : Hearth → Hearth) : (s.modHearth f).dies = s.dies := rfl
@[simp] theorem State.modHearth_landings (f : Hearth → Hearth) : (s.modHearth f).landings = s.landings := rfl
@[simp] theorem State.modHearth_ports (f : Hearth → Hearth) : (s.modHearth f).ports = s.ports := rfl
@[simp] theorem State.modHearth_colls (f : Hearth → Hearth) : (s.modHearth f).colls = s.colls := rfl
@[simp] theorem State.modHearth_collNext (f : Hearth → Hearth) : (s.modHearth f).collNext = s.collNext := rfl
@[simp] theorem State.modHearth_lateCopies (f : Hearth → Hearth) : (s.modHearth f).lateCopies = s.lateCopies := rfl
@[simp] theorem State.modHearth_attic (f : Hearth → Hearth) : (s.modHearth f).attic = s.attic := rfl
@[simp] theorem State.modHearth_porch (f : Hearth → Hearth) : (s.modHearth f).porch = s.porch := rfl
@[simp] theorem State.modHearth_hearth (f : Hearth → Hearth) : (s.modHearth f).hearth = f s.hearth := rfl
@[simp] theorem State.modHearth_banks (f : Hearth → Hearth) : (s.modHearth f).banks = s.banks := rfl

end Sys2Proof.Machine
end

