-- ==== Sys2Proof/Tests/Slice0.lean ====
section
/-! SUPPORT. The model's own tests. Ill-formed terms that the checks of WellFormed refuse, single steps on small states, the example words of
the spec, and for each statement of Certificates/Slice0/Obligations.lean that has hypotheses a state and operands that meet them (wit_…). A
hypothesis about a signature that verifies rests on an opaque constant, so its witness takes that one fact as a hypothesis. -/

set_option linter.unusedVariables false
set_option Elab.async false

namespace Sys2Proof.Tests

open Sys2Proof Sys2Proof.Machine

/-! ## Small states -/

/-- A context with the rights to every kind, on die 0. -/
def ctx0 : CtxCfg :=
  { index := 0, partition := 0, priority := 1, kinds := 0x1FF, hostQp := 1, dieSet := 1, period := 1000, offset := 0, poll := 100, ringLog2 := 4,
    ledgerLog2 := 4, hostLog2 := 4, drainBatch := 4, ctlBlock := 0x1000, ringBase := 0x2000, ledgerBase := 0x3000, hostBase := 0x4000,
    drainUs := 10, pantryAlloc := 0 }

def part0 : PartitionCfg :=
  { weight := 1, detSched := false, backupEn := true, crusherEn := true, extendedEn := true, srEn := true, rubbleEn := true, seed := 0, t1 := 0 }

def qpCfg1 : QpCfg :=
  { index := 1, remoteQpn := 0, partition := 0, supervisor := false, mgmt := true, ipv6 := false, pmtu := 4096, weight := 1, dscp := 0, pcp := 0,
    vlanEn := false, vlanId := 0, txPsn := 0, rxPsn := 0, ackTimeout := 1, retryCnt := 2, rnrRetry := 3, nextHopMac := 0, udpSport := 0,
    remoteIp := 0, ledgerRkey := 0 }

def region0 : Region :=
  { base := 0, size := 2 ^ 32, read := 0xFF, write := 0xFF, atomic := 0xFF, remoteRead := true, remoteWrite := true, remoteAtomic := true,
    hostRead := true, hostWrite := true, cache := 0, rubble := false, rubbleFormat := 0, tagBase := 0 }

/-- A queue pair in service. -/
def qp1 : Qp :=
  { index := 1, error := false, cause := 0, rate := 400, txPsn := 0, rxPsn := 0, retries := 0, rnrs := 0, held := [], cnpAt := none, recoverAt := 0,
    cnpSentAt := none, seqNakAt := none, credit := 0, nextAt := 0 }

/-- A running device with one partition, context, region and queue pair, its Porch link up. -/
def run : State := { State.reset with
  boot := { Boot.por with phase := .running }
  cfg := { Cfg.empty with partitions := [part0], ctxs := [ctx0], regions := [region0], qps := [qpCfg1] }
  porch := { Porch.cold with link := 2, qps := [qp1] } }

/-- The item of context 0 with number 0, at a stage, with the given descriptor words. -/
def item (ws : List W64) (st : Stage) : Item :=
  { (default : Item) with ref := ⟨0, 0⟩, gen := 1, words := ws, deadline := 1000000, stage := st, status := .done }

/-- Word 0 of a descriptor of a kind, and word 1 with an action or op in its top four bits. -/
def w0 (kind : Nat) : W64 := BitVec.ofNat 64 (kind * 2 ^ 60)
def w1 (op : Nat) : W64 := BitVec.ofNat 64 (op * 2 ^ 60)

/-- The running device with one item. -/
def withItem (i : Item) : State := { run with items := [i] }

/-- A context's state changed. -/
def withCtx (f : Ctx → Ctx) : State := run.modCtx 0 f

/-- The state that a command leaves. -/
def after (c : Instr) (s : State) : State := match exec c s with
  | .next t => t
  | _ => s

/-! ## Witnesses: start-up, periods, intake -/

theorem wit_StepRunsFrontCommand : { run with pending := [.poll 0, .retryReissue] }.pending = Instr.poll 0 :: [.retryReissue] := rfl
theorem wit_EmptyQueueIdles : run.pending = [] := rfl
theorem wit_sound : run.Sound := by
  refine ⟨⟨?_, ?_, ?_⟩, ?_⟩
  · decide
  · decide
  · decide
  · unfold State.HasUnits; decide
theorem wit_EveryStepKeepsSound : run.Sound ∧ step run = .next run := ⟨wit_sound, rfl⟩
theorem wit_FusesOnlyBurn : step { run with pending := [.i3cRead] } = exec .i3cRead run := rfl
theorem wit_SafeStateLasts : restarts .controlTick = false ∧ { run with boot := { run.boot with safe := true } }.boot.safe = true := by decide

/-- The inputs of a cold start at a board without an image. -/
def cold (rails : Bool) : ColdInputs :=
  { boardPos := 0, railsInRange := rails, programmed := none, answersA := true, answersB := true, entropyA := 1, entropyB := 2, disagreeAt := none,
    firmwareBad := [], releaseBad := [], stacksBad := [], rowsTrained := List.replicate 24 0, portsUp := [], porchUp := true, romMeasure := 0 }

/-- The device held at cold-start step 1 until its rails are in range. -/
def railWait : State := { run with boot := { Boot.por with phase := .railWait, inputs := some (cold false) } }

theorem wit_ColdStartOpensLedger_held : State.reset.boot.phase = .por ∧ (cold false).railsInRange = false := by decide
theorem wit_ColdStartOpensLedger_starts : State.reset.boot.phase = .por ∧ (cold true).railsInRange ≠ false := by decide
theorem wit_ColdStartOpensLedger_rails : railWait.boot.phase = .railWait ∧ railWait.boot.inputs = some (cold false) ∧
    railWait.boot.cresetLatched = none := ⟨rfl, rfl, rfl⟩
theorem wit_XspiReleaseAndExtest : ({ run with boot := { Boot.por with phase := .noImage } } : State).boot.xspiHighZ = false ∧
    State.reset.boot.phase = .por ∧ run.boot.phase ≠ .por := by decide

/-- A compute-domain reset in progress, held by the pin or issued by the Gatehouse. -/
def inReset (pin : Bool) : State := { run with boot := { run.boot with creset := some { since := 0, pin := pin, variant := none } } }

theorem wit_ComputeResetBegins_begins : run.boot.phase = .running ∧ run.boot.safe = false ∧ run.boot.creset = none ∧
    (∀ i ∈ run.items, i.over = true) ∧ run.memory.cache = [] := by decide
theorem wit_ComputeResetBegins_joins : (inReset false).boot.phase = .running ∧ (inReset false).boot.safe = false ∧
    (inReset false).boot.creset = some { since := 0, pin := false, variant := none } ∧ railWait.boot.phase = .railWait := by decide
theorem wit_ComputeResetReleases_pin : (inReset true).boot.phase = .running ∧ (inReset true).boot.safe = false ∧
    (inReset true).boot.creset = some { since := 0, pin := true, variant := none } ∧ (inReset true).Sound ∧
    (inReset true).reqs = [] ∧ ∀ x ∈ (inReset true).ctxs, x.pins = [] := ⟨rfl, rfl, rfl, wit_sound, rfl, by decide⟩
theorem wit_ComputeResetReleases_gatehouse : (inReset false).boot.phase = .running ∧
    (inReset false).boot.creset = some { since := 0, pin := false, variant := none } ∧ (inReset false).Sound := ⟨rfl, rfl, wit_sound⟩
/-- Firmware of class 1 that stays wrong. -/
theorem wit_ComputeResetReleases_firmware :
    let s : State := { inReset true with
      cfg := { run.cfg with fwVersions := [(1, 0)] }
      boot := { (inReset true).boot with inputs := some { cold true with releaseBad := [[1], []] } } }
    s.boot.phase = .running ∧ s.boot.creset = some { since := 0, pin := true, variant := none } ∧
    1 ∈ (s.boot.inputs.elim [] ColdInputs.releaseBad).headD [] ∧ (∃ v ∈ s.cfg.fwVersions, v.1 = 1) ∧ s.takeRelease.releaseBad = [] ∧
    (∀ c ∈ (run.boot.inputs.elim [] ColdInputs.releaseBad).headD [], c = 0 ∨ 3 < c) := by decide
theorem wit_WorkLeavesDevice : worksOnly .controlTick = false ∧ worksOnly (.poll 0) = true ∧ ∃ t, exec (.poll 0) run = .next t := ⟨rfl, rfl, _, rfl⟩

theorem wit_PeriodStartAndPoll_start : live run = true ∧ run.ctxCfg 0 = some ctx0 ∧ (run.ctx 0).started = false ∧ run.ctxs.length = 48 := by decide

/-- Context 0 in its period, n polls made, with a control-block read pending. -/
def inPeriod (n : Nat) : State := withCtx (fun y => { y with started := true, polls := n, readPending := true, firstReturned := true })

/-- The last poll of a period of 1,000 ticks polled every 100 is the ninth. -/
theorem wit_PeriodStartAndPoll_poll : live (inPeriod 8) = true ∧ (inPeriod 8).ctxCfg 0 = some ctx0 ∧ ((inPeriod 8).ctx 0).started = true ∧
    ctx0.poll ≠ 0 ∧ (((inPeriod 8).ctx 0).polls + 1) * ctx0.poll < ctx0.period ∧
    ¬ (((inPeriod 9).ctx 0).polls + 1) * ctx0.poll < ctx0.period := by decide

/-- A control block in HBM3E with the given bytes. -/
def block (bs : Mem) : State := { inPeriod 0 with memory := { (inPeriod 0).memory with hbm := bs } }

/-- Whether a control-block read of context 0 returned data. -/
def returned (s : State) : Option (List W64) := ((readBlock s ctx0.ctlBlock).2).getD none

theorem wit_ControlBlock_read : live (block []) = true ∧ (block []).ctxCfg 0 = some ctx0 ∧ ((block []).ctx 0).started = true ∧
    ((block []).ctx 0).readPending = true ∧ (block []).ctxs.length = 48 := by decide
/-- A read of a poisoned line returns no data. -/
theorem wit_ControlBlock_fault : let s : State := { inPeriod 0 with memory := { run.memory with poison := [0x40] } }
    (readBlock s ctx0.ctlBlock).2 = some none ∧ (readBlock s ctx0.ctlBlock).1.ctxs.length = 48 := by decide +kernel
/-- A read from a stack that retrains is held for its reissue. -/
theorem wit_ControlBlock_held : (readBlock { inPeriod 0 with memory := { run.memory with
    hbmStacks := run.memory.hbmStacks.map (fun k => { k with service := 1 }) } } ctx0.ctlBlock).2 = none := by decide +kernel
/-- A block of zeros has another gen than the context; byte 6 set to 1 gives gen 1. -/
theorem wit_ControlBlock_gen : returned (block []) = some (List.replicate 8 0) ∧
    ((returned (block [(0x1006, 1)])).map (fun ws => (bits (wd ws 0) 63 48, bits (wd ws 0) 31 0))) = some (1, 0) := by decide +kernel
/-- A ring of 16 records: tail 16 is within it, tail 17 is not. -/
theorem wit_ControlBlock_tail : 2 ^ ctx0.ringLog2 = 16 ∧
    ((returned (block [(0x1000, 16), (0x1006, 1)])).map (fun ws => (bits (wd ws 0) 63 48, bits (wd ws 0) 31 0))) = some (1, 16) ∧
    ((returned (block [(0x1000, 17), (0x1006, 1)])).map (fun ws => (bits (wd ws 0) 63 48, bits (wd ws 0) 31 0))) = some (1, 17) := by decide +kernel
/-- A context whose reset runs. -/
theorem wit_ControlBlock_resetting : ctxResetting (withCtx (fun y => { y with resetting := true, releases := [(0x5000, 1)] })) 0 = true := by decide +kernel

theorem wit_IntakeNumbersItems : 0 < run.ctxs.length := by decide
theorem wit_PeriodEnd_clear : live (inPeriod 0) = true ∧ (inPeriod 0).ctxCfg 0 = some ctx0 ∧ ((inPeriod 0).ctx 0).started = true ∧
    (∀ i ∈ (inPeriod 0).items, i.stage = .recorded ∧ i.over = true) ∧ undrained ((inPeriod 0).ctx 0) = 0 ∧
    ((inPeriod 0).ctx 0).firstReturned = true ∧ (inPeriod 0).errors.count - (inPeriod 0).errors.drained < 16 := by decide

/-! ## Witnesses: scheduling and the ends of items -/

/-- Whether a round selects an item. -/
def selects (x : State × List Int × Option Item) : Bool := x.2.2.isSome

/-- A partition in deterministic mode. -/
def det (s : State) : State := { s with cfg := { s.cfg with partitions := [{ part0 with detSched := true }] } }

theorem wit_Rounds_sequencer : let s := withItem (item [w0 1] .queued)
    live s = true ∧ dieDet s 0 = false ∧ sequencerFree s 0 0 = true ∧
    selects (runRound s (offerOf s (chainCandidate s 0) (chainStartable s 0)) (s.die 0).credits) = true := by decide +kernel
theorem wit_Rounds_bench : let s := withItem (item [w0 4] .queued)
    let u := collGrab 32 (giveBack s 0) 0
    live s = true ∧ dieDet s 0 = false ∧
    selects (runRound u (offerOf u (benchCandidate u 0) (benchStartable u 0)) (u.die 0).benchCredits) = true := by decide +kernel
theorem wit_Rounds_engines : let s := withItem (item [w0 2] .queued)
    live s = true ∧ selects (runRound s (offerOf s (engineCandidate s 0 false) (engineStartable s 0)) (s.landing 0).haulCredits) = true ∧
    selects (runRound s (offerOf s (engineCandidate s 0 true) (engineStartable s 0)) (s.landing 0).tippleCredits) = false := by decide +kernel
theorem wit_Rounds_tipple : let s := withItem (item [w0 2, w1 1] .queued)
    live s = true ∧ selects (runRound s (offerOf s (engineCandidate s 0 true) (engineStartable s 0)) (s.landing 0).tippleCredits) = true := by
  decide +kernel
theorem run_lossOrder (d : Nat) : (run.die d).lossOrder = [] := by
  have : run.dies = List.replicate 32 Die.cold := rfl
  unfold State.die
  rw [this, List.getD_eq_getElem?_getD, List.getElem?_replicate]
  split <;> rfl
theorem wit_Rounds_none : let s := withItem (item [w0 1] .running)
    live s = true ∧ (∀ i ∈ s.items, i.stage ≠ .queued ∧ i.waitFor ≠ .cores) ∧ ∀ d, (s.die d).lossOrder = [] ∧ collNeed s d = 0 :=
  ⟨rfl, by decide, fun d => ⟨run_lossOrder d, rfl⟩⟩
theorem wit_Rounds_detSequencer : let s := det (withItem (item [w0 1] .queued))
    live s = true ∧ dieDet s 0 = true ∧ sequencerFree s 0 0 = true ∧ detTurn s 0 (s.die 0).detNext unstartedChain = some 0 ∧
    detHead s 0 unstartedChain = some (item [w0 1] .queued) ∧ chainCandidate s 0 (item [w0 1] .queued) = true ∧
    chainStartable s 0 (item [w0 1] .queued) = true := by decide +kernel
theorem wit_Rounds_detBench : let s := det (withItem (item [w0 4] .queued))
    let u := collGrab 32 (giveBack s 0) 0
    live s = true ∧ dieDet s 0 = true ∧ detTurn u 0 (u.die 0).detBenchNext unstartedBench = some 0 ∧
    detHead u 0 unstartedBench = some (item [w0 4] .queued) ∧ benchCandidate u 0 (item [w0 4] .queued) = true ∧
    benchStartable u 0 (item [w0 4] .queued) = true := by decide +kernel

/-- Of two candidates that differ in their number alone the first is selected. -/
theorem wit_SelectedItemIsFirst : let i := item [w0 1] .queued
    (∀ j ∈ [{ i with ref := ⟨0, 1⟩ }, i], j.aged = none) ∧ selectItem run [{ i with ref := ⟨0, 1⟩ }, i] = some i := by decide +kernel

theorem wit_ItemsEnd_settled : let i := { item [w0 2] .issued with startAt := some 0 }
    (withItem i).item ⟨0, 0⟩ = some i ∧ settled (withItem i) i = true := by decide +kernel
theorem wit_ItemsEnd_dropping : let i := { item [w0 2] .dropping with poisonSent := true }
    (withItem i).item ⟨0, 0⟩ = some i ∧ i.stage = .dropping ∧ i.poisonSent = true ∧ outstanding (withItem i) i = false := by decide +kernel
theorem wit_ItemsEnd_drain : let s := withCtx (fun y => { y with appended := 1 })
    s.ctxCfg 0 = some ctx0 ∧ s.up = true ∧ 0 < undrained (s.ctx 0) ∧ drainInFlight s 0 = false := by decide +kernel

/-- A PUBLISH that has started, alone or behind an earlier item that writes its address. -/
def publishing : Item := { item [w0 9, w1 2, 0x8000, 7] .issued with ref := ⟨0, 1⟩, flagged := [{ addr := 0x8000, value := 7, waits := [], issued := false }] }
def writer : Item := { item [w0 2] .running with writeSpan := [(0x8000, 64)] }

theorem wit_ItemsEnd_flagged : let s := { run with items := [publishing] }
    s.item ⟨0, 1⟩ = some publishing ∧
    publishing.flagged.find? (fun f => !f.issued) = some { addr := 0x8000, value := 7, waits := [], issued := false } ∧ publishing.over = false ∧
    publishing.staged = [] ∧ outstanding s publishing = false ∧ s.reqs = [] ∧ poisonPending s publishing.ref = false ∧
    (clearWay s publishing.ref none (0x8000, 8) true).2 = true := by decide +kernel
theorem wit_ItemsEnd_flaggedHeld : let s := { run with items := [writer, publishing] }
    s.item ⟨0, 1⟩ = some publishing ∧ outstanding s publishing = false ∧ (clearWay s publishing.ref none (0x8000, 8) true).2 = false := by decide +kernel
theorem wit_ItemsEnd_endOne : let i := item [w0 2] .running
    (withItem i).item ⟨0, 0⟩ = some i ∧ i.over = false ∧ Status.done.poisons = false ∧ i.claim = none ∧ i.ownPin = none := by decide +kernel
theorem wit_ItemsEnd_over : let i := item [w0 2] .ended
    (withItem i).item ⟨0, 0⟩ = some i ∧ i.over = true := by decide +kernel
theorem wit_RecordGoesToItsSlot : let i := item [w0 2] .ended
    let s := withItem i
    s.ctxCfg i.ref.ctx = some ctx0 ∧ i.ref.ctx < s.ctxs.length ∧ undrained (s.ctx i.ref.ctx) + 1 < ctx0.drainBatch ∧
    undrained (s.ctx i.ref.ctx) + 1 < 2 ^ 32 ∧ i.period = (s.ctx i.ref.ctx).period ∧ i.gen = (s.ctx i.ref.ctx).gen ∧
    (deviceWrite s (ctx0.ledgerBase + 32 * ((s.ctx i.ref.ctx).appended.toNat % 2 ^ ctx0.ledgerLog2)) (wordsBytes (recordWords i))).ctxs = s.ctxs ∧
    (deviceWrite s (ctx0.ledgerBase + 32 * ((s.ctx i.ref.ctx).appended.toNat % 2 ^ ctx0.ledgerLog2)) (wordsBytes (recordWords i))).boot.safe = false := by
  decide +kernel
theorem wit_RecordGoesToItsSlot_safe : let i := item [w0 2] .ended
    let s : State := { withItem i with boot := { run.boot with safe := true } }
    s.ctxCfg i.ref.ctx = some ctx0 ∧ i.ref.ctx < s.ctxs.length ∧ s.boot.safe = true ∧
    (deviceWrite s (ctx0.ledgerBase + 32 * ((s.ctx i.ref.ctx).appended.toNat % 2 ^ ctx0.ledgerLog2)) (wordsBytes (recordWords i))).boot.safe = true := by
  decide +kernel
theorem wit_SpanConflict_goesOn : let i := item [w0 2] .running
    (withItem i).item ⟨0, 0⟩ = some i ∧ live (withItem i) = true ∧ i.over = false := by decide +kernel
theorem wit_SpanConflict_conflict : let s := { run with items := [writer, publishing] }
    s.item publishing.ref = some publishing ∧ conflicts s publishing (0x8000, 8) true = true := by decide +kernel
theorem wit_SpanConflict_barred : let i : Item := { item [w0 6, w1 8] .issued with writeSpan := [] }
    let s := { run with items := [i, publishing] }
    s.item publishing.ref = some publishing ∧ barredBy s publishing false = true := by decide +kernel

/-! ## Witnesses: Faces -/

/-- A running chain with one MATMUL on Face 0, at its die's sequencer 0. -/
def chainItem : Item :=
  { item [w0 1, BitVec.ofNat 64 (2 ^ 48), 0, 0, 0, 0, 0, 0, w1 2] .running with die := some 0, faces := [0], sequencer := some 0, startAt := some 0 }

/-- The device that runs it, with Face 0 as given. -/
def onFace (g : Face → Face) : State := { withItem chainItem with
  dies := run.dies.modify 0 (fun d => { d with sequencers := [⟨some ⟨0, 0⟩⟩, ⟨none⟩] }), faces := run.faces.modify 0 g }

/-- INT8 operations of one element, and the tile that the LOAD fills. -/
def load1 : FaceLoad := { item := ⟨0, 0⟩, fmt := 0, k := 1, n := 1, base := 0, stride := 64, scaleBase := 0 }
def stream1 : FaceStream :=
  { item := ⟨0, 0⟩, block := 0, chunk := 0, fmt := 0, rows := 1, base := 4096, stride := 64, scaleBase := 0, swap := false, mode := .pass, accBase := 0, stage := 0 }
def tile1 : Tile := { load := load1, w := [[1]], scales := [] }

/-- The state in which a Face chooses the operation whose turn it is. -/
def woken (s : State) : State :=
  let w0 := wakeFace (enterDie s 0) 0
  if (w0.face 0).runs then beginPending w0 0 else w0

theorem wit_Faces_none : live (onFace id) = true ∧ ((onFace id).face 0).fenced = false ∧ (onFace id).faces.length = 64 ∧
    ((onFace id).face 0).inFlight = [] ∧ ((onFace id).face 1).inFlight = [] ∧ ((onFace id).face 0).pendingOp = none ∧
    chooseTurn (woken (onFace id)) 0 none none = none := by decide +kernel
theorem wit_Faces_stopped : ((woken (onFace id)).face 0).state = .stopped ∧
    chooseTurn (woken (onFace id)) 0 (some (.load load1)) none = some (0, .load load1) := by decide +kernel
theorem wit_Faces_load : let s := woken (onFace (fun x => { x with state := .run }))
    (s.face 0).state = .run ∧ chooseTurn s 0 (some (.load load1)) none = some (0, .load load1) := by decide +kernel
theorem wit_Faces_stream : let s := woken (onFace (fun x => { x with state := .idleDummy, active := some tile1 }))
    (s.face 0).state = .idleDummy ∧ chooseTurn s 0 (some (.stream stream1)) none = some (0, .stream stream1) ∧
    streamTile ((toBoundary (s.modFace 0 (fun x => { x with turn := turnAfter 0 (.stream stream1) })) 0).face 0) stream1 = some tile1 := by
  decide +kernel
theorem wit_Faces_swap : let s := woken (onFace (fun x => { x with state := .run, shadow := some tile1 }))
    chooseTurn s 0 (some (.stream { stream1 with swap := true })) none = some (0, .stream { stream1 with swap := true }) ∧
    streamTile (s.face 0) { stream1 with swap := true } = some tile1 := by decide +kernel
theorem wit_Faces_rampUp : let s := woken (onFace (fun x => { x with state := .rampUp }))
    (s.face 0).state = .rampUp ∧ chooseTurn s 0 (some (.load load1)) none = some (0, .load load1) := by decide +kernel
theorem wit_Faces_rampDown : let s := woken (onFace (fun x => { x with state := .rampDown }))
    (s.face 0).state = .rampDown ∧ chooseTurn s 0 (some (.load load1)) none = some (0, .load load1) := by decide +kernel
/-- A held LOAD waits while the shadow tile is full and begins when it is free. -/
theorem wit_Faces_heldWaits : let s := wakeFace (enterDie (onFace (fun x =>
      { x with state := .run, pendingOp := some (.load load1), shadow := some tile1 })) 0) 0
    (s.face 0).pendingOp = some (.load load1) ∧ (s.face 0).runs = true ∧ s.item (opItem (.load load1)) = some chainItem ∧
    chainItem.over = false ∧ canBegin (atBoundary s 0 (.load load1)) 0 (.load load1) = false := by decide +kernel
theorem wit_Faces_heldBegins : let s := wakeFace (enterDie (onFace (fun x => { x with state := .run, pendingOp := some (.load load1) })) 0) 0
    (s.face 0).pendingOp = some (.load load1) ∧ (s.face 0).runs = true ∧
    canBegin (atBoundary s 0 (.load load1)) 0 (.load load1) = true := by decide +kernel

/-- A stream of one row, before and after the row has entered, and the Face that holds it. -/
def ahead1 : InFlight := { stamp := 0, stream := stream1, tile := tile1, takenUnit := 0, perRow := 1, next := 0, entries := [] }
def flight : InFlight := { ahead1 with entries := [⟨0, 0, 0⟩] }
def streaming (g : Face → Face) : State := onFace (fun x => g { x with state := .run, active := some tile1, inFlight := [flight] })

theorem wit_Faces_enters : { ahead1 with stream := { stream1 with swap := true } }.entries = [] ∧ ahead1.next = 0 := ⟨rfl, rfl⟩

theorem wit_Ramps_begin : let s := onFace (fun x => { x with state := .run })
    live s = true ∧ (s.face 0).runs = true ∧ (s.face 0).loading = none ∧ (s.face 0).inFlight = [] ∧ (s.face 1).inFlight = [] := by decide +kernel
/-- A row that waits for one of the other Face, in the same tile of the same chain, does not keep the Face from ramping down; one that can enter does. -/
def held1 : State := { onFace (fun x => { x with state := .run, active := some tile1, inFlight := [{ ahead1 with stamp := 1 }] }) with
  faces := (onFace (fun x => { x with state := .run, active := some tile1, inFlight := [{ ahead1 with stamp := 1 }] })).faces.modify 1 (fun x => { x with
    inFlight := [{ ahead1 with stream := { stream1 with mode := .openAcc, accBase := 4096 } }] }) }
theorem wit_Ramps_waits : let t := enterDie { held1 with now := 100 } 0
    (∀ x ∈ (held1.face 0).inFlight, x.entries = []) ∧ (∀ x ∈ (t.face 0).inFlight, x.entries = []) ∧ (t.face 0).loading = none := by decide +kernel
theorem wit_Ramps_enters : let s := onFace (fun x => { x with state := .run, active := some tile1, inFlight := [ahead1] })
    (∀ x ∈ (s.face 0).inFlight, x.entries = []) ∧ ∃ x ∈ ((enterDie { s with now := 100 } 0).face 0).inFlight, x.entries ≠ [] := by decide +kernel
theorem wit_Ramps_stepDown : let s := onFace (fun x => { x with state := .rampDown, columns := 1 })
    s.up = true ∧ (s.face 0).state = .rampDown ∧ 0 < (s.face 0).columns ∧ (s.face 0).restartLatched = false ∧ s.faces.length = 64 := by decide +kernel
theorem wit_Ramps_restart : let s := onFace (fun x => { x with state := .rampDown, columns := 0, restartLatched := true })
    s.up = true ∧ (s.face 0).state = .rampDown ∧ (s.face 0).restartLatched = true ∧ s.faces.length = 64 := by decide +kernel
theorem wit_Ramps_stepUp : let s := onFace (fun x => { x with state := .rampUp, columns := 4 })
    s.up = true ∧ live s = true ∧ (s.face 0).state = .rampUp ∧ (s.face 0).columns < 5 ∧ (s.face 0).pendingOp = none ∧
    (s.face 0).inFlight = [] ∧ (s.face 1).inFlight = [] := by decide +kernel
theorem wit_Ramps_held : let s := onFace (fun x => { x with state := .rampUp, columns := 5, pendingOp := some (.load load1) })
    let u := enterDie { s with now := 2000, faces := s.faces.modify 0 (fun y => { y with
      state := .run, columns := 5, freeAt := (s.die 0).unitsAt 2000, idleSince := 2000 }) } 0
    live s = true ∧ (s.face 0).state = .rampUp ∧ (u.face 0).pendingOp = some (.load load1) ∧
    u.item (opItem (.load load1)) = some chainItem ∧ chainItem.over = false := by decide +kernel

/-- The Face before its row emerges, the state in which it does, and that state once the row has left the array. -/
def ahead (s : State) : State := enterDie (wakeFace s 0) 0
def emerging (s : State) : State :=
  enterDie { ahead s with now := Nat.max (ahead s).now (((ahead s).die 0).nsAt (0 + 40 * 524)) } 0
def stepped (s : State) : State := noteWork ((emerging s).modFace 0 stepRow) ⟨0, 0⟩ 0

theorem wit_Rows_load : let s := onFace (fun x => { x with state := .run, loading := some load1 })
    live s = true ∧ (s.face 0).loading = some load1 ∧
    (earlierStreams s 0 (s.face 0).loadStamp 0).any (fun y => (tileSpans load1).any (y.willWrite y.next)) = false ∧
    (facePoison s ⟨0, 0⟩ 0 (tileRows load1)).2 = none := by decide +kernel
/-- A LOAD whose tile an earlier stream's row is still to write, and one whose tile a poisoned line holds. -/
theorem wit_Rows_loadBarred : let s := { streaming (fun x => { x with
      loading := some load1, loadStamp := 1, inFlight := [{ flight with stream := { stream1 with mode := .openAcc, accBase := 0 } }] }) with now := 0 }
    live s = true ∧ (s.face 0).loading = some load1 ∧
    (earlierStreams s 0 (s.face 0).loadStamp 0).any (fun y => (tileSpans load1).any (y.willWrite y.next)) = true := by decide +kernel
theorem wit_Rows_loadPoisoned : (facePoison { run with memory := { run.memory with pantryPoison := [(0, 0)] } } ⟨0, 0⟩ 0 (tileRows load1)).2 =
    some codePoison := by decide +kernel
theorem wit_Rows_none : (onFace id).faces.length = 64 ∧ ((onFace id).face 0).inFlight = [] ∧ ((onFace id).face 1).inFlight = [] ∧
    ((onFace id).face 0).pendingOp = none := by decide +kernel
/-- A row that ADDs to the accumulator row of an earlier stream of the other Face waits for it. -/
theorem wit_Rows_waits : let x : InFlight := { flight with stamp := 1, stream := { stream1 with mode := .add, accBase := 8192 } }
    let s := streaming (fun y => { y with inFlight := [x] })
    let s := { s with faces := s.faces.modify 1 (fun y => { y with inFlight := [{ flight with stream := { stream1 with mode := .openAcc, accBase := 8192 } }] }) }
    live s = true ∧ ((ahead s).face 0).inFlight = x :: [] ∧ x.entries = ⟨0, 0, 0⟩ :: [] ∧ emergeWaits (ahead s) 0 x = true := by decide +kernel
theorem wit_Rows_emerges : let s := streaming id
    live s = true ∧ ((ahead s).face 0).inFlight = flight :: [] ∧ flight.entries = ⟨0, 0, 0⟩ :: [] ∧ emergeWaits (ahead s) 0 flight = false ∧
    (stepped s).item ⟨0, 0⟩ ≠ none ∧ ((stepped s).item ⟨0, 0⟩).map Item.over = some false ∧ (facePoison (stepped s) ⟨0, 0⟩ 0 [(4096, 1)]).2 = none ∧
    ((stepped s).face 0).spareYield = false := by decide +kernel
theorem wit_Rows_poisoned : let s := { streaming id with memory := { run.memory with pantryPoison := [(0, 64)] } }
    ((stepped s).item ⟨0, 0⟩).map Item.over = some false ∧ (facePoison (stepped s) ⟨0, 0⟩ 0 [(4096, 1)]).2 = some codePoison := by decide +kernel
theorem wit_Rows_over : let s := { streaming id with items := [{ chainItem with stage := .ended }] }
    ((emerging s).item ⟨0, 0⟩).map Item.over = some true ∧ (emerging { streaming id with items := [] }).item ⟨0, 0⟩ = none := by decide +kernel
/-- The check compares from checkFrom on. -/
theorem wit_Rows_compared : 0 + 40 * 524 < ((emerging (streaming (fun x => { x with checkFrom := 1000000 }))).face 0).checkFrom ∧
    ((emerging (streaming id)).face 0).checkFrom ≤ 0 + 40 * 524 := by decide +kernel
/-- A row of the right output agrees with its mirror, one whose output the array got wrong does not. -/
theorem wit_Rows_mismatch : let s := streaming id
    let ops := (List.range 1).map (operands false 0 [1] [] tile1)
    (checkRow (s.face 0) false true ops (rowOut false true .pass ops [] []).tile ⟨0, 0⟩ 0).isSome = false ∧
    (checkRow (s.face 0) false true ops (rowOut false true .pass ops [] [(0, 5)]).tile ⟨0, 0⟩ 0).isSome = true := by decide +kernel

theorem wit_Checks_advance : let s := onFace (fun x => { x with state := .run, runNs := 62500, checkCol := 3 })
    live s = true ∧ (s.face 0).suspect = false ∧ (s.face 0).spareYield = false ∧ (s.face 0).fenced = false ∧
    (s.face 0).checkSince + 62500 ≤ (s.face 0).runNs ∧ s.faces.length = 64 := by decide +kernel
theorem wit_Checks_confirm : let s := onFace (fun x => { x with state := .run, suspect := true })
    live s = true ∧ (s.face 0).suspect = true ∧ (s.face 0).spareYield = false ∧ (s.face 0).fenced = false ∧
    (s.face 0).suspectAt + bits s.cfg.safety 23 16 * 100000 ≤ (s.face 0).runNs ∧ s.faces.length = 64 := by decide +kernel

/-- A sample whose output is right (1 × 1), and one whose is not. -/
def sample (v : BitVec 40) : Sample :=
  { item := ⟨0, 0⟩, row := 0, codes := [1], rowScales := [], narrow := [v], load := load1, fmt := 0, t1 := false, takenAt := 0, quanta := 0 }
def sampled (v : BitVec 40) : State := { onFace (fun x => { x with state := .run, samples := [sample v] }) with
  dies := run.dies.modify 0 (fun d => { d with sparesFree := 0 })
  memory := { run.memory with pantry := [(0, 1)] :: List.replicate 31 [] } }

theorem wit_Checks_replay : live (sampled 1) = true ∧ ((sampled 1).face 0).samples = sample 1 :: [] ∧ (sampled 1).faces.length = 64 ∧
    ((sampled 1).die 0).sparesFree = 0 ∧ (sample 1).quanta = 0 ∧ (sampled 1).now ≤ (sample 1).takenAt + 4000000 ∧
    (replayRow (sampled 1) 0 (sample 1)).isSome = false ∧ (replayRow (sampled 2) 0 (sample 2)).isSome = true := by decide +kernel

/-! ## Witnesses: memory, chains, HAUL, engines -/

/-- What a home answers to an access of the device. -/
def answer (off : Nat) (op : AccOp) (s : State) : State × Ans := performHome s .device off op .clean
def ackd (x : State × Ans) : Bool := match x.2 with | .ack => true | _ => false

theorem wit_HomeWrites_hbm : ackd (answer 0x1000 (.write (List.replicate 64 1) (List.replicate 64 true)) run) = true ∧
    (List.replicate 64 true).length = (List.replicate 64 (1 : Byte)).length ∧ 0x1000 % 64 + (List.replicate 64 (1 : Byte)).length ≤ 64 ∧
    locOf 0x1000 = .hbm ∧ coversLine 0x1000 (.write (List.replicate 64 1) (List.replicate 64 true)) = true := by decide +kernel
theorem wit_HomeWrites_pantry : ackd (answer (pantryBase + 63) (.write [1] [true]) run) = true ∧ locOf (pantryBase + 63) = .pantry 0 63 ∧
    0 < run.memory.pantry.length ∧ (pantryBase + 63) % 64 + 1 ≤ 64 := by decide +kernel
theorem wit_HomeWrites_poisoned : let s := { run with memory := { run.memory with poison := [0x40] } }
    ackd (answer 0x1000 (.write [1] [true]) s) = true ∧ linePoisoned s.memory 0x1000 = true ∧ coversLine 0x1000 (.write [1] [true]) = false := by
  decide +kernel

/-- What the code of a block of a stack finds with no error in it: nothing that it takes for other data. -/
theorem wit_HomeWrites_code : (match stackFinds run.memory 0x1000 .clean with | .other _ _ => false | _ => true) = true ∧
    Ecc.clean.errors = [] := by decide +kernel

def dataOf (x : State × Ans) : Option (List Byte) := match x.2 with | .data bs => some bs | _ => none
def oldOf (x : State × Ans) : Option Nat := match x.2 with | .old o _ => some o | _ => none

/-- An add of 5 to the word 3. -/
theorem wit_HomeReads : let s : State := { run with memory := { run.memory with hbm := [(0x1000, 3)] } }
    dataOf (answer 0x1000 (.read 2) s) = some [3, 0] ∧ oldOf (answer 0x1000 (.atomic 0 5 0) s) = some 3 ∧ locOf 0x1000 = .hbm ∧
    (answer 0x1000 (.atomic 0 5 0) s).1.memory.hbm = [(0x1000, 8)] := by decide +kernel
theorem wit_HomeReads_poisoned : (match (answer 0x1000 (.read 2) { run with memory := { run.memory with poison := [0x40] } }).2 with
    | .poisoned => true | _ => false) = true := by decide +kernel

theorem wit_ItemWritesStayInside : (0x1000 : Nat) < 2 ^ 48 ∧
    (∀ w ∈ [(0x2000, [(1 : Byte)])], ¬ (w.1 ≤ run.deviceNumber * 2 ^ 48 + 0x1000 ∧ run.deviceNumber * 2 ^ 48 + 0x1000 < w.1 + w.2.length)) ∧
    (∀ l ∈ run.memory.cache, l.ctx = 0 → l.dirty ≠ 0 → l.line ≠ (run.deviceNumber * 2 ^ 48 + 0x1000) / 64) := by decide +kernel

/-- A HAUL of an op over one row of 8 elements of 1 byte, 64-byte strides, source 0x10000, destination 0x20000, auxiliary 0x30000. -/
def haul (op : Nat) : Item := { item [w0 2, BitVec.ofNat 64 (op * 2 ^ 60 + 2 ^ 50), BitVec.ofNat 64 (8 * 2 ^ 32 + 1), 0x10000, 0x20000, 0x30000,
  BitVec.ofNat 64 (64 * 2 ^ 32 + 64), 0, 0x0807060504030201] .running with startAt := some 0 }
def hauling (op : Nat) : State := { withItem (haul op) with memory := { run.memory with hbm := [(0x10000, 1), (0x10001, 2), (0x10009, 9)] } }

/-- A FILL writes its pattern and issues all its accesses. -/
theorem wit_ItemWritesStayInside_fill : (hauling 4).item ⟨0, 0⟩ = some (haul 4) ∧
    ((after (.fill 0 0) (hauling 4)).item ⟨0, 0⟩).map Item.stage = some .issued ∧
    (∀ p ∈ haulDests (haulD (haul 4).words), ¬ (p.1 ≤ 0x1000 ∧ 0x1000 < p.1 + (haulD (haul 4).words).cols)) ∧
    (after (.fill 0 0) (hauling 4)).memory.hbm.read 0x20007 = 8 := by decide +kernel

/-- Whether reads are there, wait, or fail. -/
def got (x : State × Option (List (List Byte)) × Option Nat) : Nat := match x.2.2, x.2.1 with
  | some _, _ => 2
  | none, none => 1
  | none, some _ => 0
def rowsOf (i : Item) : List (Nat × Nat) := rowRanges (haulD i.words).src (haulD i.words).srcStride (haulD i.words).rows (haulD i.words).cols

theorem wit_Haul_copy : live (hauling 0) = true ∧ (hauling 0).item ⟨0, 0⟩ = some (haul 0) ∧ (haul 0).stage = .running ∧ kindOf (haul 0).words = kHaul ∧
    (haulD (haul 0).words).op = 0 ∧ got (itemReads (hauling 0) ⟨0, 0⟩ none (rowsOf (haul 0))) = 0 := by decide +kernel
/-- A stack that retrains holds the reads; a poisoned line fails them. -/
theorem wit_Haul_waits : let s := { hauling 0 with memory := { (hauling 0).memory with hbmStacks := List.replicate 24 { Stack.cold with service := 1 } } }
    got (itemReads s ⟨0, 0⟩ none (rowsOf (haul 0))) = 1 := by decide +kernel
theorem wit_Haul_fails : let s := { hauling 0 with memory := { (hauling 0).memory with poison := [0x400] } }
    got (itemReads s ⟨0, 0⟩ none (rowsOf (haul 0))) = 2 := by decide +kernel
theorem wit_Haul_transpose : (haulD (haul 1).words).op = 1 ∧ fmtMX (haulD (haul 1).words).fmt = false ∧
    got (itemReads (hauling 1) ⟨0, 0⟩ none (rowRanges 0x10000 64 1 (rowBytes (haulD (haul 1).words).fmt 8))) = 0 := by decide +kernel
theorem wit_Haul_gather : (haulD (haul 2).words).op = 2 ∧ got (itemReads (hauling 2) ⟨0, 0⟩ none [(0x30000, 4)]) = 0 ∧
    (blurReads (hauling 2) [(0x30000, 4)] (haulDests (haulD (haul 2).words)) [[0, 0, 0, 0]]).1.cfg = (hauling 2).cfg ∧
    got (readRows (hauling 2) ⟨0, 0⟩ none (rowAddrs [] 0x10000 64 1 8 (some [0])) 8) = 0 ∧
    rowAddrs [] 0x10000 64 1 8 (some [0xFFFFFFFF]) = [none] := by decide +kernel
theorem wit_Haul_scatter : (haulD (haul 3).words).op = 3 ∧ got (itemReads (hauling 3) ⟨0, 0⟩ none ((0x30000, 4) :: rowsOf (haul 3))) = 0 ∧
    (itemReads (hauling 3) ⟨0, 0⟩ none ((0x30000, 4) :: rowsOf (haul 3))).1.cfg = (hauling 3).cfg := by decide +kernel
theorem wit_Haul_fill : (haulD (haul 4).words).op = 4 ∧ (hauling 4).item ⟨0, 0⟩ = some (haul 4) ∧ (haul 4).stage = .running := by decide +kernel
theorem wit_Haul_atomic : let d := haulD (haul 5).words
    d.op = 5 ∧ got (itemReads (hauling 5) ⟨0, 0⟩ none (rowRanges d.src d.srcStride d.rows d.rowShape.1)) = 0 ∧
    (writeWay (hauling 5) ⟨0, 0⟩ none (d.dst, atomicBytes d.aop)).2 = true ∧
    ((after (.atomic 0 0) (hauling 5)).item ⟨0, 0⟩).map Item.stage = some .issued := by decide +kernel
theorem wit_Haul_atomicHeld : let s := { hauling 5 with items := [{ writer with writeSpan := [(0x20000, 64)] }, { haul 5 with ref := ⟨0, 1⟩ }] }
    (writeWay s ⟨0, 1⟩ none (0x20000, 4)).2 = false := by decide +kernel
theorem wit_Haul_codes : sharedLines [] (writeSpans [(0x20000, [(1 : Byte)])]) = [] ∧
    (writeRanges (hauling 0) ⟨0, 0⟩ none [(0x20000, [(1 : Byte)])] false).2 = none ∧
    (writeRanges { hauling 0 with cfg := { run.cfg with lomium := 1 } } ⟨0, 0⟩ none [(0x20000, [(1 : Byte)])] false).2.isSome = true := by decide +kernel

/-- A chain of one FP32 element that copies 0x10000 to 0x20000, with or without a versioned source. -/
def copyChain (versioned : Nat) : Item :=
  { item [w0 1, BitVec.ofNat 64 (2 * 2 ^ 52 + 2 * 2 ^ 48 + 2 ^ 32), BitVec.ofNat 64 (2 ^ 32 + 1), 0, 0, 0, 0, 0,
      BitVec.ofNat 64 (2 ^ 60 + 11 * 2 ^ 48), BitVec.ofNat 64 (11 * 2 ^ 60 + 2 ^ 57 + 11 * 2 ^ 53), 0, 0, 0, 0, 0, 0,
      0x10000, BitVec.ofNat 64 (64 + versioned * 2 ^ 56), 0x20000, 64] .running with die := some 0, startAt := some 0 }
def chaining (v : Nat) (hbm : Mem) : State := { withItem (copyChain v) with memory := { run.memory with hbm := hbm } }

/-- Where the pins of a chain stand. -/
def pinned (s : State) (i : Item) : Nat :=
  match (takePins s i.ref ((((chainD i.words).loads.map (chainD i.words).entry).filter tnVersioned).map tnBase).dedup).2 with
  | .ok _ => 0
  | .wait => 1
  | .fail _ => 2
/-- Where its loads stand. -/
def loaded (s : State) (i : Item) : Loaded :=
  readLoads (s.modItem i.ref (fun j => { j with waitFor := .none })) (chainD i.words) i.ref i.die []

/-- 1.0 copied: the chain runs to its end. -/
theorem wit_Chains_runs : let s := chaining 0 [(0x10002, 0x80), (0x10003, 0x3F)]
    live s = true ∧ s.item ⟨0, 0⟩ = some (copyChain 0) ∧ (copyChain 0).stage = .running ∧ kindOf (copyChain 0).words = kChain ∧
    pinned s (copyChain 0) = 0 ∧ (loaded s (copyChain 0)).code = none ∧ (loaded s (copyChain 0)).raw.isSome = true ∧
    (chainD (copyChain 0).words).sharedBy (loaded s (copyChain 0)) = [] ∧ coresAwake s (copyChain 0) = true ∧
    storesHeld s 0 [(0x20000, [0, 0, 0x80, 0x3F])] = false ∧
    (after (.chain 0 0) s).memory.hbm = [(0x10002, 0x80), (0x10003, 0x3F), (0x20002, 0x80), (0x20003, 0x3F)] ∧
    ((after (.chain 0 0) s).item ⟨0, 0⟩).map Item.stage = some .issued := by decide +kernel
theorem wit_Chains_loadWaits : let s := { chaining 0 [] with memory := { run.memory with hbmStacks := List.replicate 24 { Stack.cold with service := 1 } } }
    (loaded s (copyChain 0)).code = none ∧ (loaded s (copyChain 0)).raw = none := by decide +kernel
theorem wit_Chains_loadFails : let s := { chaining 0 [] with memory := { run.memory with poison := [0x400] } }
    (loaded s (copyChain 0)).code.isSome = true := by decide +kernel
/-- A version record of zeros has no live buffer; one on a poisoned line cannot be read. -/
theorem wit_Chains_pinFails : pinned { chaining 1 [] with memory := { run.memory with poison := [0x400] } } (copyChain 1) = 2 := by decide +kernel
theorem wit_Chains_pinWaits : pinned { chaining 1 [] with memory := { run.memory with hbmStacks := List.replicate 24 { Stack.cold with service := 1 } } }
    (copyChain 1) = 1 := by decide +kernel
theorem wit_Chains_retry : let i := { copyChain 1 with waitFor := .pin }
    live (withItem i) = true ∧ (withItem i).item ⟨0, 0⟩ = some i ∧ i.stage = .running ∧ kindOf i.words = kChain ∧ i.waitFor = .pin := by decide +kernel
theorem wit_Chains_releases : let s := withCtx (fun y => { y with releases := [(0x10000, 0)] })
    s.up = true ∧ (s.ctx 0).releases ≠ [] := by decide +kernel

/-- A piece of the LOAD of a queued chain's die, for Landing 0. -/
def piece1 : Piece :=
  { item := ⟨0, 0⟩, load := 0, index := 0, src := 0x10000, srcStride := 64, rows := 1, cols := 1, elemBits := 32, transpose := false,
    dstDie := 0, dst := 0, dstStride := 64 }
def queued (ps : List (Nat × Piece)) : State := { chaining 0 [(0x10000, 7)] with landings := run.landings.modify 0 (fun x => { x with haulQueue := ps }) }

theorem wit_Pieces_dispatch : let s := queued [(0, piece1)]
    live s = true ∧ (∀ q ∈ (s.landing 0).queue false, ((s.item q.2.item).map Item.over) = some false) ∧ 0 < s.landings.length ∧
    (s.landing 0).queue false = (0, piece1) :: [] ∧ pieceEngine s 0 false 0 = some 0 := by decide +kernel
theorem wit_Pieces_arrives : let busy := { queued [] with landings := run.landings.modify 0 (fun x =>
      { x with haul := x.haul.map (fun e => { e with busy := some ⟨0, 0⟩ }) }) }
    live busy = true ∧ pieceOk busy 0 false piece1 = true ∧ (busy.landing 0).queue false = [] ∧ pieceEngine busy 0 false 0 = none := by decide +kernel
/-- Engine 15 of Landing 0 moves the piece, or is idle with its clock running. -/
def moving (st : Stage) : State := { queued [] with
  items := [{ copyChain 0 with stage := st }]
  landings := run.landings.modify 0 (fun x => { x with haul := x.haul.modify 15 (fun e => { e with busy := some ⟨0, 0⟩, piece := some piece1, clock := true }) }) }
theorem wit_Pieces_complete : (moving .running).up = true ∧ (moving .running).boot.creset = none ∧
    ((((moving .running).landing 0).engines false).getD 15 Engine.cold).piece = some piece1 ∧
    (moving .running).item piece1.item = some { copyChain 0 with stage := .running } ∧
    got (itemReads (moving .running) ⟨0, 0⟩ none (rowRanges 0x10000 64 1 4)) = 0 ∧
    (after (.enginePieceComplete 0 .haul 15) (moving .running)).memory.pantry.head? = some [(0, 7)] := by decide +kernel
theorem wit_Pieces_held : tileHeld (sampled 1) 0 0 0 4 = true ∧ tileHeld (moving .running) 0 0 0 4 = false ∧
    (moving .running).items.map Item.over = [false] := by decide +kernel
theorem wit_Pieces_waits : got (itemReads { moving .running with memory := { run.memory with
    hbmStacks := List.replicate 24 { Stack.cold with service := 1 } } } ⟨0, 0⟩ none (rowRanges 0x10000 64 1 4)) = 1 := by decide +kernel
theorem wit_Pieces_fails : got (itemReads { moving .running with memory := { run.memory with poison := [0x400] } } ⟨0, 0⟩ none
    (rowRanges 0x10000 64 1 4)) = 2 := by decide +kernel
theorem wit_Pieces_none : (((queued []).landing 0).engines false).getD 0 Engine.cold = Engine.cold ∧ Engine.cold.piece = none ∧
    Engine.cold.clock = false := by decide +kernel
theorem wit_Pieces_over : ((moving .ended).item piece1.item).map Item.over = some true := by decide +kernel
theorem wit_Pieces_clock : let s := { run with landings := run.landings.modify 0 (fun x => { x with tipple := x.tipple.modify 3 (fun e => { e with clock := true }) }) }
    (((s.landing 0).engines true).getD 3 Engine.cold).clock = true ∧ (((s.landing 0).engines true).getD 3 Engine.cold).busy = none ∧ s.up = true := by
  decide +kernel

/-! ## Witnesses: BENCH, UPDATE, collectives -/

/-- A running BENCH of a function over one row of 64 BF16 elements on core 0 of die 0. -/
def bench (fn : Nat) : Item := { item [w0 4, BitVec.ofNat 64 (fn * 2 ^ 56 + 2 ^ 41 + 2 ^ 37), BitVec.ofNat 64 (64 * 2 ^ 32 + 1), 0x10000, 0x11000, 0x12000, 0x20000,
  0x21000, BitVec.ofNat 64 (128 * 2 ^ 32 + 128), 0, 0, 0, 0] .running with die := some 0, cores := [0], startAt := some 0 }
/-- Core 0 of die 0 with its clock running or not, owned by item 0 or free. -/
def withCore (k : Core) (s : State) : State := { s with dies := s.dies.modify 0 (fun x => { x with cores := x.cores.set 0 k }) }
def core1 : Core := { awake := true, waking := false, wakeLatched := false, owner := .item ⟨0, 0⟩, idleSince := 0 }
def benching (fn : Nat) : State := withCore core1 (withItem (bench fn))

/-- What a BENCH reads. -/
def benchReads (d : BenchD) : List (Nat × Nat) :=
  if d.fn = 1 then backReads d ++ (if d.src2 = 0 then [] else [(d.src2, 4 * d.cols)]) ++ gradRanges d
  else if d.fn = 2 then backReads d
  else if d.fn = 4 then rowRanges d.src0 2048 d.rows 2048
  else rowRanges d.src0 d.inStride d.rows (rowBytes d.fmtIn d.cols)

theorem wit_Bench_reads : ∀ fn ∈ [1, 2, 3, 4, 5, 6], live (benching fn) = true ∧ (benching fn).item ⟨0, 0⟩ = some (bench fn) ∧
    (bench fn).stage = .running ∧ kindOf (bench fn).words = kBench ∧ (benchD (bench fn).words).fn = fn ∧ coresAwake (benching fn) (bench fn) = true ∧
    got (itemReads (benching fn) ⟨0, 0⟩ (some 0) (benchReads (benchD (bench fn).words))) = 0 := by decide +kernel
theorem wit_Bench_waits : ∀ fn ∈ [1, 2, 3, 4, 6], got (itemReads { benching fn with memory := { run.memory with
    hbmStacks := List.replicate 24 { Stack.cold with service := 1 } } } ⟨0, 0⟩ (some 0) (benchReads (benchD (bench fn).words))) = 1 := by decide +kernel
theorem wit_Bench_fails : ∀ fn ∈ [1, 2, 3, 4, 6], got (itemReads { benching fn with memory := { run.memory with poison := [0x400] } } ⟨0, 0⟩ (some 0)
    (benchReads (benchD (bench fn).words))) = 2 := by decide +kernel
theorem wit_Bench_asleep : coresAwake (withCore { core1 with awake := false } (withItem (bench 1))) (bench 1) = false := by decide +kernel

theorem wit_Cores_stop : let s := withCore { core1 with owner := .free } run
    s.up = true ∧ ((s.die 0).core 0).awake = true ∧ ((s.die 0).core 0).owner = .free := by decide +kernel
theorem wit_Cores_wake : let s := withCore { core1 with awake := false, waking := true } run
    s.up = true ∧ ((s.die 0).core 0).awake = false ∧ ((s.die 0).core 0).waking = true := by decide +kernel
theorem wit_Cores_quantum : live (benching 1) = true ∧ (((benching 1).die 0).core 0).owner = .item ⟨0, 0⟩ ∧
    (∀ i ∈ (benching 1).items, kindOf i.words ≠ kColl) ∧ ((benching 1).die 0).lossOrder = [] ∧
    (∀ k ∈ ((benching 1).die 0).cores, k.owner ≠ .collective) ∧ pendingSample (benching 1) 0 = none := by decide +kernel
/-- A replay sample that waits for quanta on a die without a spare core, core 31 free or replaying. -/
def replaying (k : Core) (n : Nat) : State := { sampled 1 with
  faces := run.faces.modify 0 (fun x => { x with samples := [{ sample 1 with quanta := 4 }] })
  dies := run.dies.modify 0 (fun d => { d with sparesFree := 0, quanta31 := n, cores := d.cores.set 31 k }) }
theorem wit_Cores_replay : let s := replaying { core1 with owner := .free } 15
    live s = true ∧ 0 < s.dies.length ∧ ((s.die 0).core 31).owner = .free ∧ (s.die 0).sparesFree = 0 ∧ (pendingSample s 0).isSome = true ∧
    (nextQuantum (s.die 0)).replayDue = true ∧ (s.die 0).cores.length = 32 := by decide +kernel
theorem wit_Cores_replays : let s := replaying { core1 with owner := .replay none } 3
    live s = true ∧ 0 < s.dies.length ∧ ((s.die 0).core 31).owner = .replay none := by decide +kernel
theorem wit_Cores_due : Die.cold.replayDue = false ∧ ({ Die.cold with replayDue := true } : Die).replayDue = true := ⟨rfl, rfl⟩

/-- An UPDATE at a stage. -/
def upd (st : Stage) : Item := { item [w0 5] st with startAt := some 0 }
theorem wit_Updates_starts : updateItem (withItem (upd .queued)) 0 0 = some (upd .queued) ∧ candidate (withItem (upd .queued)) (upd .queued) = true := by
  decide +kernel
theorem wit_Updates_runs : updateItem (withItem (upd .running)) 0 0 = some (upd .running) ∧ (upd .running).shipped = false ∧
    coresAwake (withItem (upd .running)) (upd .running) = true := by decide +kernel
theorem wit_Updates_asleep : let i := { upd .running with die := some 0, cores := [0] }
    coresAwake (withCore { core1 with awake := false } (withItem i)) i = false := by decide +kernel
theorem wit_Updates_norm : let i := { upd .waiting with waitFor := .normCell }
    updateItem (withItem i) 0 0 = some i ∧ i.stage = .waiting ∧ i.waitFor = .normCell := by decide +kernel
theorem wit_Updates_claim : let i := { upd .waiting with waitFor := .claim }
    claimWaiter (withItem i) 0 0 = some i := by decide +kernel
theorem wit_Updates_commits : let i := { upd .running with shipped := true }
    updateItem (withItem i) 0 0 = some i ∧ updateItem (flushOwned (goStaged (withItem i) i.ref) i) 0 0 = some i := by decide +kernel

/-- A norm cell of the number 1 for step 0, of an infinity, and one not valid. -/
def cell (v : Nat) (valid : Nat) : List Byte := wordsBytes [0, BitVec.ofNat 64 v, BitVec.ofNat 64 valid, 0, 0, 0, 0, 0]
def cellNorm (bs : List Byte) : Machine.Num := decodeFloat fmtFP64 (wd (bytesWords bs) 1).toNat
def cellValid (bs : List Byte) (d : UpdateD) : Bool := bitAt (wd (bytesWords bs) 2) 0 && bits (wd (bytesWords bs) 2) 63 32 == d.step
theorem wit_Updates_cell : let d := updateD [w0 5, 0, 0, 0, 0, 0, 0, 0, 0, 0, BitVec.ofNat 64 0x3F800000]
    cellValid (cell 0 0) d = false ∧ cellValid (cell 0 1) d = true ∧ (cellNorm (cell 0x7FF0000000000000 1)).isInf = true ∧
    (cellNorm (cell 0x7FF8000000000000 1)).isNan = true ∧ (cellNorm (cell 0x3FF0000000000000 1)).isNan = false ∧
    (cellNorm (cell 0x3FF0000000000000 1)).isInf = false ∧ Machine.Num.le (cellNorm (cell 0x3FF0000000000000 1)) (fp32 d.maxNorm) = true := by decide +kernel

/-- A running COLLECTIVE of an op; bit 44 of its word 1 makes it versioned. -/
def coll (op versioned : Nat) : Item := { item [w0 3, BitVec.ofNat 64 (op * 2 ^ 60 + versioned * 2 ^ 44), 16, 0x10000, 0x20000, 0x30000, 0, 0, 0, 0] .running with
  startAt := some 0, collNo := some 0 }
/-- Its instance, begun, with the deadline of chunk 3. -/
def begun : Coll := { freshColl 0 0 with item := ⟨0, 0⟩, early := false, deadlines := [(3, 500)] }
theorem wit_Collectives_advance : ∀ op ∈ [0, 1, 2, 3, 4, 5], let s := { withItem (coll op 0) with colls := [begun] }
    live s = true ∧ s.item ⟨0, 0⟩ = some (coll op 0) ∧ kindOf (coll op 0).words = kColl ∧ (coll op 0).shipped = false ∧
    (collD (coll op 0).words).op = op ∧ (collOf s ⟨0, 0⟩).isSome = true := by decide +kernel
theorem wit_Collectives_begin : ∀ op ∈ [0, 1, 2, 3, 4, 5], collOf (withItem (coll op 0)) ⟨0, 0⟩ = none ∧ (collD (coll op 0).words).versioned = false := by
  decide +kernel
theorem wit_Collectives_pin : (collD (coll 1 1).words).versioned = true ∧ (coll 1 1).ownPin = none ∧
    ((takeOwnPin { withItem (coll 1 1) with memory := { run.memory with hbmStacks := List.replicate 24 { Stack.cold with service := 1 } } }
      (coll 1 1) (collD (coll 1 1).words).src).item ⟨0, 0⟩).map (fun j => j.ownPin.isSome) = some false := by decide +kernel
theorem wit_Collectives_commit : let i := { coll 1 1 with shipped := true }
    (withItem i).item ⟨0, 0⟩ = some i ∧ (collD i.words).versioned = true ∧ i.shipped = true := by decide +kernel
theorem wit_Collectives_deadline : let s := { withItem (coll 0 0) with colls := [begun] }
    collOf s ⟨0, 0⟩ = some begun ∧ begun.deadlines.find? (fun d => d.1 == 3) = some (3, 500) ∧ 3 ∉ begun.passed ∧
    3 ∈ ({ begun with passed := [3] } : Coll).passed := by decide +kernel

/-! ## Witnesses: FENCE, MARK, HINT, SNAPSHOT -/

theorem wit_Fences : ∀ ty ∈ [0, 1, 2], let i := item [w0 6, BitVec.ofNat 64 (ty * 2 ^ 62), 0, 0] .queued
    live (withItem i) = true ∧ (withItem i).item ⟨0, 0⟩ = some i ∧ candidate (withItem i) i = true ∧ kindOf i.words = kFence ∧ fenceType i.words = ty ∧
    fenceBase i.words = 0 ∧ fenceLen i.words = 0 := by decide +kernel

theorem wit_Marks : ∀ a ∈ [0, 1, 2, 3], let i := item [w0 9, w1 a, 0x8000, 7] .queued
    live (withItem i) = true ∧ (withItem i).item ⟨0, 0⟩ = some i ∧ candidate (withItem i) i = true ∧ kindOf i.words = kMark ∧ markAction i.words = a := by
  decide +kernel
/-- A WAIT that runs. -/
def waiting : Item := { item [w0 9, w1 3, 0x8000, 7] .running with startAt := some 0, waitFor := .value }
/-- What a WAIT reads. -/
def read8 (s : State) (i : Item) : Option (List Byte) := match (itemRead s i.ref none (markAddr i.words) 8).2 with
  | .ok bs => some bs
  | _ => none
theorem wit_Marks_poll : live (withItem waiting) = true ∧ (withItem waiting).item ⟨0, 0⟩ = some waiting ∧ waiting.stage = .running ∧
    kindOf waiting.words = kMark ∧ waiting.waitFor = .value ∧ waiting.startAt = some 0 ∧ 0 ≤ (withItem waiting).now := by decide +kernel
theorem wit_Marks_read : read8 (withItem waiting) waiting = some [0, 0, 0, 0, 0, 0, 0, 0] ∧
    waitHolds (markCmp waiting.words) (wordAt [0, 0, 0, 0, 0, 0, 0, 0] 0) (markValue waiting.words) = false ∧
    waitHolds (markCmp waiting.words) (wordAt [7, 0, 0, 0, 0, 0, 0, 0] 0) (markValue waiting.words) = true := by decide +kernel
/-- The word that another home returned to it. -/
theorem wit_Marks_came : let i := { waiting with inbound := [(0x8000, 7), (0x8001, 0), (0x8002, 0), (0x8003, 0), (0x8004, 0), (0x8005, 0), (0x8006, 0), (0x8007, 0)] }
    (withItem i).item i.ref = some i ∧ i.stage = .running ∧ kindOf i.words = kMark ∧ i.waitFor = .value ∧
    inboundHas i (markAddr i.words) 8 = true ∧ waitHolds (markCmp i.words) (wordAt (inboundRead i (markAddr i.words) 8) 0) (markValue i.words) = true := by
  decide +kernel
theorem wit_Hints : let i := item [w0 7, BitVec.ofNat 64 (2 ^ 32 + 5 * 2 ^ 16 + 3)] .queued
    live (withItem i) = true ∧ (withItem i).item ⟨0, 0⟩ = some i ∧ candidate (withItem i) i = true ∧ kindOf i.words = kHint := by decide +kernel
theorem wit_Hints_phase : ∀ b : Bool, let p : HintPhase := { item := ⟨0, 0⟩, start := 10, stop := 20, power := 3, active := b }
    hintOf { run with hearth := { run.hearth with hints := [p] } } 0 0 = some p := by decide +kernel

/-- A SURVIVAL record whose run group is group 0, alone on this device. -/
def surv (cfg : Nat) : SurvivalCfg := { cfg := BitVec.ofNat 64 cfg, bounds := BitVec.ofNat 64 (4 * 2 ^ 24), atticBase := 0x1000000, atticSize := 0x10000000 }
def group0 : Group := { index := 0, n := 1, rank := 0, partition := 0, b := 0, ring2dA := 0, members := [0], backupMap := [], reformed := false, failed := [] }
/-- A running SNAPSHOT of an action, for round 1, over 64 bytes. -/
def snap (action source : Nat) : Item := { item [w0 8, BitVec.ofNat 64 (action * 2 ^ 60 + source * 2 ^ 22), BitVec.ofNat 64 (2 ^ 32), 0x10000, 0x20000, 64, 0, 0, 0, 0, 0,
  0, 0, 0, 0, 0x30000] .running with startAt := some 0 }
def snapping (i : Item) (cfg : Nat) : State := { withItem i with cfg := { run.cfg with survival := some (surv cfg), groups := [group0] } }

theorem wit_Snapshots_item : ∀ a ∈ [0, 1, 2, 3, 4], live (snapping (snap a 0) 0) = true ∧ (snapping (snap a 0) 0).item ⟨0, 0⟩ = some (snap a 0) ∧
    kindOf (snap a 0).words = kSnap ∧ (snapD (snap a 0).words).action = a ∧ (snapping (snap a 0) 0).cfg.survival = some (surv 0) := by decide +kernel
theorem wit_Snapshots_rounds : (snapD (snap 0 0).words).round = lastRound (snapping (snap 0 0) 0) + 1 ∧
    (snapD (snap 0 0).words).round ≠ lastRound { snapping (snap 0 0) 0 with attic := { run.attic with lastRound := some 5 } } + 1 ∧
    (snapD (snap 2 0).words).round = lastRound (snapping (snap 2 0) 0) + 1 := by decide +kernel
/-- The address that a SECURE reads its tensor at. -/
def secureAt (s : State) (i : Item) : Option Nat := match (secureSource (beginRound s (snapD i.words)) i (snapD i.words)).2 with
  | .at_ a _ => some a
  | _ => none
theorem wit_Snapshots_secure : secureAt (snapping (snap 0 0) 0) (snap 0 0) = some 0x10000 ∧
    got (itemReads (beginRound (snapping (snap 0 0) 0) (snapD (snap 0 0).words)) ⟨0, 0⟩ none [(0x10000, 64)]) = 0 := by decide +kernel
/-- A PRIV entry written at an address. -/
def privWrite (s : State) (a : Nat) : State × Option Nat := writeCopy s ⟨0, 0⟩ a (a + 64) (headWord (lastRound s) 0 methodPriv) (headRest 0 0 64) (List.replicate 64 0)
theorem wit_Snapshots_priv : let s := snapping (snap 1 0) 0
    got (itemReads s ⟨0, 0⟩ none [(0x10000, 64)]) = 0 ∧ (privWrite s (atticAddr (surv 0) s.deviceNumber 0)).2 = none ∧ buddyEn (surv 0) = false := by
  decide +kernel
/-- The head of the last copy read, and one on a stack that retrains, whose read is held. -/
theorem wit_Snapshots_adv : let s := snapping (snap 0 0) 0
    (advOf s (surv 0) (snapD (snap 0 0).words) 0).2 = some 0 ∧
    (advOf { s with memory := { run.memory with hbmStacks := List.replicate 24 { Stack.cold with service := 1 } } } (surv 0)
      (snapD (snap 0 0).words) 0).2 = none := by decide +kernel
theorem wit_Snapshots_close : let s := snapping (snap 2 0) 0
    (snapD (snap 2 0).words).count ≤ (if s.attic.round = 1 then s.attic.secured else 0) ∧ groupAt s (runGroup (surv 0)) = some group0 := by decide +kernel
theorem wit_Snapshots_restore : ∀ src ∈ [0, 1, 2, 3], (snapD (snap 4 src).words).source = src ∧ (snapD (snap 4 src).words).action = 4 := by decide +kernel

/-- A REFORM of group 0 with three members, of which the mask read is 0. -/
def group3 : Group := { group0 with n := 3, members := [0, 1, 2] }
def reforming : State := { withItem { snap 5 0 with stage := .queued } with cfg := { run.cfg with groups := [group3] } }
/-- The mask that a REFORM reads. -/
def maskRead (s : State) (i : Item) : Option (List Byte) := match (itemRead s i.ref none (snapD i.words).mask (maskBytes s (snapD i.words).group)).2 with
  | .ok bs => some bs
  | _ => none
theorem wit_Snapshots_shipped : ∀ a ∈ [0, 2, 3], let i := { snap a 0 with shipped := true }
    (snapping i 0).item ⟨0, 0⟩ = some i ∧ i.shipped = true ∧ (snapD i.words).action = a := by decide +kernel
theorem wit_Snapshots_eval : let i := { snap 3 0 with ownPin := some (0x10000, 0, 0) }
    (snapping i 0).item ⟨0, 0⟩ = some i ∧ i.shipped = false ∧ i.ownPin.isSome = true := by decide +kernel
theorem wit_Snapshots_buddy : buddyEn (surv (2 ^ 48)) = true := by decide +kernel
theorem wit_Snapshots_reform : let i := { snap 5 0 with stage := .queued }
    let u := startItem reforming i.ref id
    reformItem reforming 0 0 = some i ∧ groupAt u (snapD i.words).group = some group3 ∧ maskRead u i = some (List.replicate 8 0) ∧
    ¬ (reformGroup group3 (maskRanks 3 (List.replicate 8 0))).n < 2 ∧ (reformGroup group3 (maskRanks 3 [6, 0, 0, 0, 0, 0, 0, 0])).n < 2 := by decide +kernel
theorem wit_Reform : group3.members.length = group3.n ∧ group3.rank < group3.n ∧ group3.rank ∉ [1] := by decide +kernel

/-! ## Witnesses: the Larder, stacks, Pantries -/

/-- A device read of one line that waits at its slice. -/
def access0 : Access := { source := 3, who := .device, off := 0x1000, op := .read 8 }
def queued1 : State := arriveLine run access0

theorem wit_Larder_serves : queued1.up = true ∧ queued1.memory.served = [] ∧ nextSource (lineQueue queued1.memory 0x40) = some 3 ∧
    (lineQueue queued1.memory 0x40).waiting.find? (fun y => y.source.val == 3) = some access0 := by decide +kernel
theorem wit_Larder_empty : run.up = true ∧ run.memory.served = [] ∧ homePermits run .device (accKind access0.op) access0.off = true ∧
    homePermits run (.item ⟨0, 0⟩) .rd controlBase = false ∧ (lineQueue run.memory 0x40).waiting = [] := by decide +kernel
/-- Partition 0 may send 64 bytes at a Cellar as soon as it has filled its buckets. -/
theorem wit_Larder_grant : let s := { arriveCellar 0 { run with cfg := { run.cfg with regCfg := [BitVec.ofNat 64 (2 ^ 48 + 1000 * 2 ^ 32 + 1000 * 2 ^ 16)] } }
      { access0 with who := .item ⟨0, 0⟩, off := 0 } with now := 10000000 }
    s.up = true ∧ s.memory.served = [] ∧ (nextGrant (modRegs s 0 (fillBuckets s)) 0).1 = some 0 := by decide +kernel
theorem wit_Larder_noGrant : (List.range 8).all (fun p => (regAt (modRegs run 0 (fillBuckets run)) 0 p).waiting.isEmpty) = true := by decide +kernel
theorem wit_Larder_reissue : run.up = true ∧ run.reqs = [] ∧ (∀ x ∈ run.porch.qps, x.held = []) ∧
    (∀ c < 64, (run.ctx c).drainHeld = false ∧ (run.ctx c).awaiting = false) := by decide +kernel

/-- Two symbols in error. -/
def twoBad : Ecc := ⟨[⟨0, 1⟩, ⟨1, 1⟩]⟩
theorem wit_Accesses_stopped : homeStopped { run with hearth := { run.hearth with stopped := [.refCore] } } 0x1000 = true := by decide +kernel
theorem wit_Accesses_answers : homeStopped run 0x1000 = false ∧
    ackd (performHome run (.item ⟨0, 0⟩) 0x1000 (.write [1] [true]) .clean) = true ∧
    (dataOf (performHome run (.item ⟨0, 0⟩) 0x1000 (.read 8) .clean)).isSome = true ∧
    oldOf (performHome run (.item ⟨0, 0⟩) 0x1000 (.atomic 0 5 0) .clean) = some 0 ∧
    (performHome run (.item ⟨0, 0⟩) controlBase (.read 8) .clean).2 = .refused ∧
    (performHome { run with memory := { run.memory with poison := [0x40] } } (.item ⟨0, 0⟩) 0x1000 (.read 8) .clean).2 = .poisoned ∧
    (performHome run (.item ⟨0, 0⟩) 0x1000 (.read 8) twoBad).2 = .uncorrectable false ∧
    (performHome { run with memory := { run.memory with hbmStacks := List.replicate 24 { Stack.cold with service := 1 } } } .device 0x1000 (.read 8) .clean).2 =
      .retry := by decide +kernel
/-- A release counts the request against its partition first; the errors of two symbols are found. -/
theorem wit_Accesses_code : stackFinds run.memory 0x1000 twoBad = .uncorrectable ∧ stackFinds run.memory 0x1000 .clean ≠ .poison := by decide +kernel

/-- Stack 0 in a state. -/
def withStack (k : Stack) : State := { run with memory := { run.memory with hbmStacks := run.memory.hbmStacks.set 0 k } }
theorem wit_Stacks : let k := { Stack.cold with throttle := 2, belowSince := 5 }
    (0 : Nat) < (withStack k).memory.hbmStacks.length ∧ ((withStack k).memory.hbmStacks.getD 0 Stack.cold).throttle ≠ 0 ∧
    ((withStack k).memory.hbmStacks.getD 0 Stack.cold).belowSince ≠ 0 ∧ ((withStack k).memory.hbmStacks.getD 0 Stack.cold).service = 0 := by decide +kernel
theorem wit_Stacks_retrain : ∀ n ∈ [1, 3], ((withStack { Stack.cold with service := 1, attempts := n }).memory.hbmStacks.getD 0 Stack.cold).service = 1 ∧
    ((withStack { Stack.cold with service := 1, attempts := n }).memory.hbmStacks.getD 0 Stack.cold).attempts = n := by decide +kernel
theorem wit_Stacks_release : let s := { run with memory := { run.memory with releasing := run.memory.releasing.set 0 (7, true) } }
    (s.memory.releasing.getD 0 (0, false)).1 ≠ 0 ∧ (run.memory.releasing.getD 0 (0, false)).1 = 0 := by decide +kernel

/-! ## Witnesses: Spejan -/

/-- A WRITE of one line from device 5 to a device, by way of a port. -/
def wr (dst hops : Nat) : Packet := mkPacket dst 5 opWrite hops 7 1 0x1000 (BitVec.allOnes 64) 0 (List.replicate 64 9)
theorem wit_FlitsCarryPackets : (wr 1 1).data.length % 16 = 0 ∧ (wr 1 1).data.length ≤ 4096 ∧ ((2 : Nat) < 4 ∧ (2 : Nat) < 3) ∧
    (List.replicate 4096 (9 : Byte)).length % 16 = 0 := by decide +kernel

/-- Port 0 changed; its configuration has role 1. -/
def withPort (f : Port → Port) : State := { run with
  ports := run.ports.modify 0 f
  cfg := { run.cfg with portCfg := [BitVec.ofNat 64 (2 ^ 34)] } }
def upPort : State := withPort (fun q => { q with state := .up })
/-- A good flit of a type with a sequence number, and with body words. -/
def flit (type seq : Nat) (body : List Byte) : Flit := mkFlit (BitVec.ofNat 64 (type * 2 ^ 60 + seq * 2 ^ 36)) body

theorem wit_Flits_good : upPort.up = true ∧ (upPort.port 0).state = .up ∧ (upPort.port 0).queue = [] ∧ (upPort.port 0).replay = [] ∧
    (∀ ty ∈ [0, 1, 2, 3], flitGood (flit ty 0 []) = true ∧ flitType (flit ty 0 []) = ty) ∧ flitSeq (flit 1 0 []) = (upPort.port 0).expect := by decide +kernel
theorem wit_Flits_other : flitType (flit 1 1 []) = 1 ∧ flitSeq (flit 1 1 []) ≠ (upPort.port 0).expect := by decide +kernel
theorem wit_Flits_bad : flitGood { flit 0 0 [] with fecOk := false } = false ∧ (upPort.port 0).nakSent = false ∧
    flitGood { flit 0 0 [] with crc := 0 } = false ∧ ({ flit 0 0 [] with crc := 0 } : Flit).fecOk = true ∧ flitType { flit 0 0 [] with crc := 0 } ≠ 1 ∧
    ((withPort (fun q => { q with state := .up, nakSent := true })).port 0).nakSent = true := by decide +kernel
/-- TRAIN flits of intent TRAIN, ready, and of intent DISABLE. -/
theorem wit_Flits_train : trainOk (flit 3 0 (wordsBytes [BitVec.ofNat 64 (2 ^ 42)])) = true ∧ trainIntent (flit 3 0 (wordsBytes [BitVec.ofNat 64 (2 ^ 42)])) = 0 ∧
    trainIntent (flit 3 0 (wordsBytes [BitVec.ofNat 64 (2 ^ 43)])) = 1 ∧ trainOk (flit 3 0 (wordsBytes [BitVec.ofNat 64 (2 ^ 43)])) = true := by decide +kernel
theorem wit_Flits_training : let s := withPort (fun q => { q with state := .training, fecLocked := true })
    let f := flit 3 0 (wordsBytes [BitVec.ofNat 64 (2 ^ 42)])
    (s.port 0).state = .training ∧ (s.port 0).fecLocked = true ∧ flitGood f = true ∧ (s.port 0).queue = [] ∧ 0 < s.ports.length ∧
    bits (trainWord f) 63 49 = bits (portCfg s 0) 63 49 ∧ bits (trainWord f) 48 45 = bits (portCfg s 0) 48 45 ∧ bitAt (trainWord f) 42 = true := by
  decide +kernel
theorem wit_Flits_down : ((withPort (fun q => { q with state := .down })).port 0).state = .down := by decide +kernel
theorem wit_Flits_listening : let s := withPort (fun q => { q with state := .off, listening := true })
    (s.port 0).state = .off ∧ (s.port 0).listening = true ∧ portRole s 0 ≠ 0 := by decide +kernel

theorem wit_Timers_retrain : ∀ n ∈ [1, 3], ((withPort (fun q => { q with state := .training, attempts := n })).port 0).attempts = n ∧
    ((withPort (fun q => { q with state := .training, attempts := n })).port 0).state = .training := by decide +kernel
theorem wit_Timers_disable : ((withPort (fun q => { q with state := .disabling })).port 0).state = .disabling ∧
    ((withPort (fun q => { q with state := .disabling })).port 0).queue = [] := by decide +kernel
/-- A packet that stalls at the head of a lane for want of credit. -/
def stalled (lane source : Nat) : State := withPort (fun q => { q with state := .up, credits := List.replicate 12 0, queue :=
  [{ cls := 0, lane := lane, source := source, inLane := 0, epoch := 0, mesh := none, since := 3, packet := wr 9 3 }] })
theorem wit_Timers_stall : ((stalled 0 16).port 0).state = .up ∧ (stalledHeads ((stalled 0 16).port 0) 0 0).length = 1 ∧
    (stalledHeads ((stalled 1 2).port 0) 0 1).length = 1 ∧ (stalledHeads ((stalled 2 16).port 0) 0 2).length = 1 ∧
    stalledHeads (upPort.port 0) 0 0 = [] ∧ ((stalled 1 2).port 2).epoch = 0 ∧ ((stalled 1 2).port 2).epoch ≠ 1 := by decide +kernel
/-- A request of item 0 to device 9, number 7. -/
def req7 : Req := { id := 7, qp := none, item := some ⟨0, 0⟩, ctx := some 0, purpose := .write, packet := { wr 9 3 with w0 := (mkPacket 9 0 opWrite 3 7 1 0 0 0 []).w0 },
                    issued := 0, sent := true, retry := false, lost := false, imm := none, psn := 0, psns := 1, out := none }
def asking : State := { upPort with reqs := [req7] }
theorem wit_Timers_request : requestOf asking 7 = some req7 ∧ req7.retry = false ∧ pktDst req7.packet ≠ asking.deviceNumber := by decide +kernel

theorem wit_Packets_invalid : pktOp { wr 0 1 with w1 := BitVec.ofNat 64 (2 ^ 50) } = opWrite ∧ pktValid { wr 0 1 with w1 := BitVec.ofNat 64 (2 ^ 50) } = false ∧
    pktOp (wr 0 1) ≠ 0x01 := by decide +kernel
theorem wit_Packets_transit : pktValid (wr 9 0) = true ∧ pktDst (wr 9 0) ≠ upPort.deviceNumber ∧ pktHops (wr 9 0) = 0 ∧ pktHops (wr 9 3) ≠ 0 := by decide +kernel
theorem wit_Packets_home : ∀ op ∈ [0x01, 0x02, 0x03, 0x04, 0x10, 0x11, 0x12, 0x13, 0x14, 0x20, 0x21], let k := mkPacket 0 5 op 1 7 1 0x1000 0 0 []
    pktOp k = op ∧ pktValid k = true ∧ pktDst k = upPort.deviceNumber ∧ dieCut upPort 0 = false ∧ isParity upPort k = false ∧ live upPort = true := by
  decide +kernel
theorem wit_Packets_cut : dieCut { upPort with hearth := { upPort.hearth with stopped := [.refCore] } } 0 = true := by decide +kernel
/-- A packet with the tag of a parity chunk of group 0. -/
theorem wit_Packets_parity : let k := mkPacket 0 5 0x20 1 7 1 0x1000 0 0 (wordsBytes [BitVec.ofNat 64 (0xF * 2 ^ 50), 0, 0, 0, 0, 0, 0, 0])
    isParity { upPort with cfg := { upPort.cfg with survival := some { cfg := 0, bounds := 0, atticBase := 0, atticSize := 0 } } } k = true ∧
    pktOp k = 0x20 ∧ pktValid k = true := by decide +kernel
theorem wit_Packets_answer : let k := mkPacket 0 9 0x11 1 7 1 0 0 0 []
    requestOf asking (pktReq k) = some req7 ∧ pktDst req7.packet = pktSrc k ∧ (replyOf? req7 k).isSome = true := by decide +kernel
/-- Messages of the four types. -/
def msg (type : Nat) : FabMsg := { src := 5, line := BitVec.ofNat 64 (type * 2 ^ 56) :: List.replicate 7 0, body := [] }
theorem wit_Packets_messages : ∀ ty ∈ [1, 2, 3, 4], msgOk (msg ty) = true ∧ msgType (msg ty) = ty := by decide +kernel

/-! ## Witnesses: the Porch -/

/-- A frame that fits, with no tag and a good ICRC. -/
def frame0 : HostFrame := { bytes := 200, tags := 0, ce := false, icrcOk := true }
/-- A request of queue pair 1 with a PSN, of 16 bytes at 0x1000 by R_Key 5, and the window that admits it. -/
def hreq (psn : Nat) : HostReq := { qp := 1, frame := frame0, psn := BitVec.ofNat 24 psn, rkey := 5, va := 0x1000 }
def window5 : DevWindow := { rkey := 5, base := 0, size := 0x100000, partitions := 1 }
def hosted : State := { run with cfg := { run.cfg with devWindows := [window5] } }
/-- Queue pair 1 changed. -/
def withQp (x : Qp) : State := { hosted with porch := { run.porch with qps := [x] } }
def heldRead (n : Nat) : HeldHost := { req := hreq n, bytes := [], readLen := some 8, imm := false, ecc := [], msg := none, answer := none }

theorem wit_Host_open : porchOpen hosted = true ∧ hosted.qp 1 = some qp1 ∧ hosted.qpCfg 1 = some qpCfg1 ∧ qp1.error = false ∧ (hreq 0).psn = qp1.rxPsn ∧
    frame0.bytes ≤ 9216 ∧ frame0.tags ≤ 1 ∧ frame0.icrcOk = true ∧ 16 ≤ bufferRoom hosted ∧ heldReads qp1 < 16 ∧ (hreq 0).va.toNat % 8 = 0 := by decide +kernel
/-- Frames that are discarded and counted, or taken for nothing. -/
theorem wit_Host_frames : 9216 < ({ frame0 with bytes := 9217 } : HostFrame).bytes ∧ 1 < ({ frame0 with tags := 2 } : HostFrame).tags ∧
    ({ frame0 with icrcOk := false } : HostFrame).icrcOk = false := by decide
theorem wit_Host_psn : (hreq 5).psn ≠ qp1.rxPsn ∧ 2 ^ 23 ≤ (qp1.rxPsn - (hreq 5).psn).toNat ∧ (hreq 0xFFFFFF).psn ≠ qp1.rxPsn ∧
    (qp1.rxPsn - (hreq 0xFFFFFF).psn).toNat < 2 ^ 23 ∧ psnHeld hosted qp1 (hreq 0xFFFFFF).psn = false ∧
    psnHeld (withQp { qp1 with held := [heldRead 0xFFFFFF] }) { qp1 with held := [heldRead 0xFFFFFF] } (hreq 0xFFFFFF).psn = true := by decide +kernel
theorem wit_Host_reads : 16 ≤ heldReads { qp1 with held := List.replicate 16 (heldRead 0) } := by decide +kernel
/-- The receive buffer with 15 MiB, and with all of its 16 MiB, held. -/
def buffered (mib : Nat) : State := withQp { qp1 with held := [{ heldRead 0 with readLen := none, bytes := List.replicate (mib * 2 ^ 20) 0 }] }
theorem buffered_room (mib : Nat) : bufferRoom (buffered mib) = 16 * 2 ^ 20 - mib * 2 ^ 20 := by
  simp only [bufferRoom, bufferShare, buffered, withQp, State.qpCfg, hosted, run, qp1, qpCfg1, HeldHost.size, List.map_cons, List.map_nil]
  simp [heldRead]
/-- A Write of 2 MiB does not fit in the room of 1 MiB, of which 256 packets do, and nothing fits in none. -/
theorem wit_Host_full : bufferRoom (buffered 15) = 2 ^ 20 ∧ bufferRoom (buffered 16) = 0 ∧ 2 ^ 20 / Nat.max 1 (hosted.pmtu 1) = 256 :=
  ⟨by rw [buffered_room]; decide, by rw [buffered_room]; decide, by decide +kernel⟩
theorem wit_Host_nakAgain : (∃ t, ({ qp1 with seqNakAt := some 5 } : Qp).seqNakAt = some t ∧ (run.now < t + 10000 ∨ t + 10000 ≤ run.now)) :=
  ⟨5, rfl, .inl (by decide)⟩
theorem wit_Host_closed : porchOpen { run with porch := { run.porch with link := 1 } } = false ∧ run.qp 2 = none ∧ run.qpUp 2 = false ∧ run.qpUp 1 = true := by
  decide +kernel
theorem wit_Host_error : (withQp { qp1 with error := true }).qp 1 = some { qp1 with error := true } := by decide +kernel
def getNonce : GhMsg := { qp := 1, sendLength := 64, hdr := [BitVec.ofNat 64 (2 * 2 ^ 48 + 64), 0, 0, 0, 0, 0, 0, 0], body := [], sig := [] }
theorem wit_Host_send : qpCfg1.mgmt = true ∧ getNonce.sendLength ≤ 65536 ∧ getNonce.qp.val = 1 ∧ queuedSends hosted 1 < 8 ∧
    8 ≤ queuedSends { hosted with gate := { run.gate with queue := List.replicate 8 getNonce } } 1 ∧
    65536 < ({ getNonce with sendLength := 65537 } : GhMsg).sendLength ∧ ({ qpCfg1 with mgmt := false } : QpCfg).mgmt = false := by decide +kernel

/-- A Write of 16 bytes and a Read of 8 as taken up. -/
def heldWrite : HeldHost := { req := hreq 0, bytes := List.replicate 16 1, readLen := none, imm := false, ecc := [], msg := none, answer := none }
theorem wit_Access_admitted : admittedBy hosted qpCfg1 (hreq 0) 16 = some window5 ∧ admittedBy run qpCfg1 (hreq 0) 16 = none ∧ offOf (hreq 0).va.toNat < controlBase ∧
    (∀ p ∈ cutLines 0x1000 16, homePermits hosted (.host 1) .wr p.1 = true ∧ homePermits hosted (.host 1) .rd p.1 = true ∧
      homePermits { hosted with cfg := { hosted.cfg with regions := [] } } (.host 1) .wr p.1 = false ∧
      mustHold hosted p.1 (.read p.2) = false ∧ mustHold hosted p.1 (.write (List.replicate 16 1) (List.replicate p.2 true)) = false) := by decide +kernel
theorem wit_Access_held : let s := { hosted with memory := { run.memory with hbmStacks := List.replicate 24 { Stack.cold with service := 1 } } }
    ∀ p ∈ cutLines 0x1000 16, mustHold s p.1 (.read p.2) = true ∧ mustHold s p.1 (.write (List.replicate 16 1) (List.replicate p.2 true)) = true := by decide +kernel
theorem wit_Access_read : (hostRead hosted 1 (cutLines 0x1000 8) []).2 = (List.replicate 8 0, true) ∧
    (hostRead hosted 1 (cutLines 0x1000 8) [twoBad]).2 = ([], false) := by decide +kernel

/-- A message taken up, an access answered, and what may pass before another. -/
theorem wit_Access_message : ({ heldWrite with msg := some getNonce } : HeldHost).msg = some getNonce ∧ heldWrite.msg = none ∧
    mayPass [{ heldWrite with answer := some { outs := [.ack 1 0], fatal := false } }] { heldWrite with imm := true } = true := by decide +kernel
theorem wit_Access_answers : ∀ a : Option HostAnswer, (withQp { qp1 with held := [{ heldWrite with answer := a }] }).qp 1 =
    some { qp1 with held := [{ heldWrite with answer := a }] } := fun _ => rfl

/-- A request to the host on queue pair 1. -/
def hostReq1 : Req := { req7 with id := 0, qp := some 1 }
def hostAsking (x : Qp) : State := { withQp x with reqs := [hostReq1] }
theorem wit_Answers : qpReqs (hostAsking qp1) 1 = [hostReq1] ∧ porchOpen (hostAsking qp1) = true ∧ (hostAsking qp1).qpUp 1 = true ∧ qpReqs hosted 1 = [] ∧
    (hostAsking qp1).qp 1 = some qp1 ∧ qp1.retries < qpCfg1.retryCnt ∧ qpCfg1.retryCnt ≤ ({ qp1 with retries := 2 } : Qp).retries ∧
    qp1.rnrs < qpCfg1.rnrRetry ∧ qpCfg1.rnrRetry ≠ 7 ∧ qpCfg1.rnrRetry ≤ ({ qp1 with rnrs := 3 } : Qp).rnrs := by decide +kernel

/-- Answers of the host: a write covered and not, a read whose data come and one whose data were lost. -/
theorem wit_Answers_psn : psnLe hostReq1.lastPsn 0 = true ∧ psnLe hostReq1.lastPsn 0xFFFFFF = false ∧ psnLe hostReq1.psn 0 = true ∧ psnLe 0 hostReq1.lastPsn = true ∧
    psnLe 5 hostReq1.lastPsn = false ∧ psnLe hostReq1.lastPsn 5 = true ∧ (∀ a len, hostReq1.purpose ≠ .read a len) ∧
    ({ hostReq1 with purpose := .read 0 8 } : Req).purpose = .read 0 8 := by
  refine ⟨by decide +kernel, by decide +kernel, by decide +kernel, by decide +kernel, by decide +kernel, by decide +kernel, ?_, rfl⟩
  intro a len h; cases h
theorem wit_Frames_cnp : qp1.cnpAt = none ∧ ({ qp1 with cnpAt := some 0 } : Qp).cnpAt = some 0 ∧
    ({ run with cfg := { run.cfg with porchCc := BitVec.ofNat 64 (2 ^ 16) } } : State).now < 0 + bits (BitVec.ofNat 64 (2 ^ 16)) 23 16 * 1000 := by decide +kernel
theorem wit_Frames_pfc : (∃ v : W64, pfcEnabled { run with cfg := { run.cfg with porch := v } } 0 = true) ∧ pfcEnabled run 0 = false :=
  ⟨⟨BitVec.ofNat 64 (2 ^ 50), by decide +kernel⟩, by decide +kernel⟩
theorem wit_Frames_addresses : (0 : BitVec 32) = run.cfg.ipv4 ∧ (1 : BitVec 32) ≠ run.cfg.ipv4 ∧ (0 : BitVec 128) = run.cfg.ipv6 ∧ (1 : BitVec 128) ≠ run.cfg.ipv6 := by
  decide +kernel
theorem wit_Frames_link : run.porch.link = 2 ∧ ({ run with porch := { run.porch with link := 1 } } : State).porch.link = 1 := by decide +kernel

/-! ## Witnesses: the Gatehouse -/

/-- A device whose owner key 0 is set. -/
def keyed : State := { run with fuses := { run.fuses with ownerKeys := run.fuses.ownerKeys.set 0 (some 1) } }
/-- A signature block of key 0x100 over all zeros. -/
def block0 : List Byte := wordsBytes [BitVec.ofNat 64 0x304749533254464B, BitVec.ofNat 64 (2 ^ 48 + 0x100 * 2 ^ 32 + 29792), 0, 0, 0, 0, 0, 0] ++ List.replicate 29792 0
theorem block0_length : block0.length = sigBlock := by
  unfold block0
  rw [List.length_append, List.length_replicate]
  decide +kernel
/-- A signed message of a command with counter 1. -/
def signed (code : Nat) (body : List W64) : GhMsg :=
  { qp := 1, sendLength := 29920 + 8 * body.length,
    hdr := [BitVec.ofNat 64 (code * 2 ^ 48 + 29920 + 8 * body.length), BitVec.ofNat 64 (0x100 * 2 ^ 48 + 1), 0, 0, 0, 0, 0, 0], body := body, sig := block0 }

/-- What SignedOk asks of a message but for the length of its signature block and the signature itself. -/
def plainOk (s : State) (m : GhMsg) (layout : List W64 → Bool) : Bool :=
  let w := wd m.hdr
  m.hdr.length == 8 && bits (w 0) 47 32 == 0 && bits (w 0) 31 0 == m.sendLength && m.sendLength == 64 + 8 * m.body.length + sigBlock
    && bits (w 1) 47 32 == 0 && bits (w 4) 31 0 == 0 && w 5 == 0 && w 6 == 0 && w 7 == 0 && layout m.body && keyIdOf m == 0x100
    && ownerKey s.fuses 0x100 == some 1 && w 3 == s.fuses.serial && w 2 == s.gate.bootNonce && decide (s.gate.lastCounter.toNat < (counterOf m).toNat)

/-- With a signature that verifies, such a message passes its checks. -/
theorem signed_ok (hv : ∀ k m s, Config.slhVerify k m s = true) (s : State) (m : GhMsg) (code : Nat) (layout : List W64 → Bool) (hs : m.sig = block0)
    (h : plainOk s m layout = true) : SignedOk s m code layout := by
  simp only [plainOk, Bool.and_eq_true, beq_iff_eq, decide_eq_true_eq] at h
  obtain ⟨⟨⟨⟨⟨⟨⟨⟨⟨⟨⟨⟨⟨⟨h1, h2⟩, h3⟩, h4⟩, h5⟩, h6⟩, h7⟩, h8⟩, h9⟩, h10⟩, h11⟩, h12⟩, h13⟩, h14⟩, h15⟩ := h
  refine ⟨?_, ⟨1, h11 ▸ h12, ?_⟩, ⟨h13, h14⟩, h15⟩
  · simp [formatOk, byOwner, hs, block0_length, h1, h2, h3, h4, h5, h6, h7, h8, h9, h10]
  · have hk : bits (wd (bytesWords (block0.take 64)) 1) 47 32 = 0x100 := by decide +kernel
    simp only [blockValid, hs, block0_length, hv, h11, hk]
    decide +kernel
/-- The eleven signed commands with a body each, all checks but the signature's passed. -/
theorem wit_Gate_signed : ∀ e ∈ ([(0x10, [0], bodyIs [0xF]), (0x11, 64 :: List.replicate 8 0, bodyIs ((2 ^ 32 - 1) :: List.replicate 8 all64)),
      (0x13, [1, BitVec.ofNat 64 (2 ^ 40)], bodyIs [0xFFF, 2 ^ 64 - 2 ^ 16]), (0x14, [], bodyIs []), (0x15, [0], bodyIs [0x3F]), (0x15, [5], bodyIs [0x3F]),
      (0x16, [3], bodyIs [0x1F]), (0x17, [0], bodyIs [0x3F]), (0x18, [], bodyIs []), (0x19, [1], bodyIs [0x3FF]),
      (0x1A, List.replicate 8 2, bodyIs (List.replicate 8 all64)), (0x1B, [0x101], bodyIs [0xFFFF]), (0x1C, [0x100, 7], bodyIs [2 ^ 48 - 1, all64])] :
      List (Nat × List W64 × (List W64 → Bool))),
    plainOk keyed (signed e.1 e.2.1) e.2.2 = true ∧ takeMsg keyed (signed e.1 e.2.1) e.1 = some keyed := by
  intro e he
  simp only [List.mem_cons, List.not_mem_nil, or_false] at he
  rcases he with rfl | rfl | rfl | rfl | rfl | rfl | rfl | rfl | rfl | rfl | rfl | rfl | rfl <;> exact ⟨by decide +kernel, rfl⟩
/-- For the messages of wit_Gate_signed. -/
theorem wit_Gate_key (hv : ∀ k m s, Config.slhVerify k m s = true) : SignedOk keyed (signed 0x14 []) 0x14 (bodyIs []) :=
  signed_ok hv _ _ _ _ rfl (by decide +kernel)
/-- A message of a wrong length, one with no usable key, with another target, with a counter that is not new. -/
theorem wit_Gate_checks : plainOk keyed { signed 0x14 [] with sendLength := 0 } (bodyIs []) = false ∧ ownerKey run.fuses 0x105 = none ∧
    wd (signed 0x14 []).hdr 3 ≠ ({ keyed.fuses with serial := 5 } : Fuses).serial ∧ (counterOf (signed 0x14 [])).toNat ≤ (9 : BitVec 32).toNat := by
  decide +kernel
theorem wit_Gate_signature (hv : ∀ k m s, Config.slhVerify k m s = false) (m : GhMsg) (k : BitVec 512) :
    blockValid (some k) (keyIdOf m) m.sig (Config.shake256 (signedBytes m)) = false := by simp [blockValid, hv]

/-- Messages without a signature: GET_IDENTITY, GET_NONCE, QUOTE from entry 0. -/
def plain (code : Nat) (body : List W64) : GhMsg :=
  { qp := 1, sendLength := 64 + 8 * body.length, hdr := [BitVec.ofNat 64 (code * 2 ^ 48 + 64 + 8 * body.length), 0, 0, 0, 0, 0, 0, 0], body := body, sig := [] }
theorem wit_Gate_plain : (∀ c ∈ [1, 2], takeMsg run (plain c []) c = some run ∧ formatOk ⟨c, none, bodyIs [], noOwn⟩ (plain c []) = true) ∧
    takeMsg run (plain 3 (List.replicate 16 0)) 3 = some run ∧
    formatOk ⟨3, none, bodyIs (List.replicate 8 all64 ++ [2 ^ 32 - 1] ++ List.replicate 7 0), noOwn⟩ (plain 3 (List.replicate 16 0)) = true := by
  refine ⟨?_, rfl, by decide +kernel⟩
  intro c hc
  simp only [List.mem_cons, List.not_mem_nil, or_false] at hc
  rcases hc with rfl | rfl <;> exact ⟨rfl, by decide +kernel⟩
theorem wit_Gate_quote : run.gate.chainTotal ≤ quoteStart (plain 3 (List.replicate 16 0)) ∧
    (let g := { run.gate with chainTotal := 1, chain := [{ kind := 0, aux := 0, index := 0, time := 0, digest := 0 }] }
     chainFirst g ≤ quoteStart (plain 3 (List.replicate 16 0)) ∧ quoteStart (plain 3 (List.replicate 16 0)) < g.chainTotal) := by decide +kernel
theorem wit_Gate_own : keyed.boot.safe = false ∧ bits (wd [(0 : W64)] 0) 3 0 ≤ variantsM1 keyed ∧ variantsM1 keyed < bits (wd [(15 : W64)] 0) 3 0 ∧
    (keyed.ctxCfg 0).isSome = true ∧ keyed.ctxCfg 5 = none ∧ keyed.qpCfg 1 = some qpCfg1 ∧
    fenceEntries { keyed with gate := { keyed.gate with log := [{ (default : LogEntry) with kind := 3, face := 0 }] } } 0 ≠ [] := by decide +kernel
/-- A message at the head of the queue is taken up from there. -/
theorem wit_Gate_queued : takeMsg { run with gate := { run.gate with queue := [plain 2 []] } } (plain 2 []) 2 = some run := rfl
theorem wit_Gate_accepted : (accepted keyed (signed 0x13 [1, BitVec.ofNat 64 (2 ^ 40)]) 0x13).qpCfg 1 = some qpCfg1 := rfl

/-! ## Witnesses: fuses and images -/

theorem wit_Fuses_floors : (∃ f, f = { keyed.fuses with floors := List.replicate 11 (List.replicate 16 (0 : BitVec 32)) } ∧ 16 ≤ (f.floors.getD 0 []).length) ∧
    (keyed.fuses.floors.getD 0 []).length < 16 := ⟨⟨_, rfl, by decide +kernel⟩, by decide +kernel⟩
theorem wit_Fuses_slots : emptySlot keyed.fuses = some 1 ∧
    emptySlot { keyed.fuses with ownerKeys := List.replicate 8 (some 1) } = none := by decide +kernel
theorem wit_Fuses_revoke : 0x100 ≤ revoked (signed 0x1B [0x101]) ∧ revoked (signed 0x1B [0x101]) ≤ 0x107 ∧
    hasOwnerKey (burnRevoke keyed.fuses 0x101) = true ∧ hasOwnerKey (burnRevoke keyed.fuses 0x100) = false := by decide +kernel

/-- A write of 128 bytes from queue pair 1. -/
def write1 (covered : List Nat) : ImageWrite := { qp := some 1, port := 0, length := 128, measure := 0, head := List.replicate 64 0, covered := covered, last := 0 }
def writing (w : ImageWrite) : State := { run with gate := { run.gate with writing := some w } }
/-- 64 bytes of the image at an offset. -/
def piece64 (off : Nat) : GhMsg := plain 0x12 (BitVec.ofNat 64 off :: List.replicate 8 0)
theorem wit_Images_data : takeMsg (writing (write1 [])) (piece64 0) 0x12 = some (writing (write1 [])) ∧
    formatOk ⟨0x12, none, dataLayout, noOwn⟩ (piece64 0) = true ∧ (write1 []).qp = some (piece64 0).qp ∧ dataOffset (piece64 0) < (write1 []).length ∧
    (write1 []).length ≤ dataOffset (piece64 128) := ⟨rfl, by decide +kernel, rfl, by decide +kernel, by decide +kernel⟩
/-- Whether a write that has taken 64 bytes is whole. -/
def wholeAfter (s : State) (w : ImageWrite) (off : Nat) : Option Bool := (putData s w off (List.replicate 64 0)).gate.writing.map writeWhole
theorem wit_Images_whole : wholeAfter (writing (write1 [])) (write1 []) 0 = some false := by decide +kernel
theorem wit_Images_last : wholeAfter (writing (write1 [0])) (write1 [0]) 64 = some true ∨ wholeAfter (writing (write1 [1])) (write1 [1]) 0 = some true := by decide +kernel
/-- IMAGE_WRITE lengths, and a device that writes already. -/
theorem wit_Images_begin : run.gate.writing = none ∧ (64 : Nat) ≤ slotSize ∧ (writing (write1 [])).gate.writing.isSome = true ∧ slotSize < 2 ^ 32 := by decide +kernel
/-- Forwarded messages on an UP port. -/
def fwd (type : Nat) (w1 : W64) (n : Nat) : FabMsg :=
  { src := 5, line := [BitVec.ofNat 64 (type * 2 ^ 56 + n * 2 ^ 32), w1, 0, 0, 0, 0, 0, 0], body := List.replicate n 0 }
theorem wit_Images_forwarded : upPort.portUp 0 = true ∧ upPort.up = true ∧ msgOk (fwd 5 128 64) = true ∧ msgType (fwd 5 128 64) = 5 ∧
    writeStatus upPort (bits (msgWord (fwd 5 128 64) 1) 31 0) = 0 ∧ writeStatus upPort (bits (msgWord (fwd 5 0 64) 1) 31 0) ≠ 0 ∧ msgOk (fwd 5 0 64) = true ∧
    msgOk (fwd 6 64 64) = true ∧ (msgWord (fwd 6 64 64) 1).toNat % 64 = 0 ∧ msgOk (fwd 7 0 0) = true ∧ upPort.boot.comparatorStopped = false := by
  decide +kernel
theorem wit_Images_timeout : let f : Forwarding := { qp := 1, msg := getNonce, results := List.replicate 16 none, lastData := 0 }
    f.results.getD 3 (some 0) = none := by decide +kernel

/-! ## Witnesses: control, power, alerts -/

/-- The Gatehouse may write everything, a queue pair that is none of a supervisor nothing. -/
theorem wit_Control_writers : (authorityOf run .gatehouse).ctx run 0 = true ∧ (authorityOf run (.host 2)).ctx run 0 = false := by decide +kernel
theorem wit_Control_reset : (run.ctxCfg 0).isSome = true ∧ run.boot.creset = none ∧ run.ctxCfg 5 = none ∧ (inReset true).boot.creset.isSome = true := by
  decide +kernel
theorem wit_Control_banks : (authorityOf run .gatehouse).bank run 96 none = true ∧ (authorityOf run (.host 2)).bank run 96 none = false ∧
    run.banks[96]?.isSome = true ∧ run.boot.creset = none := ⟨by decide +kernel, by decide +kernel, by decide +kernel, rfl⟩
/-- A die and a power group in given states. -/
def withDie (f : Die → Die) : State := { run with dies := run.dies.modify 0 f }
def withGroup (g : PowerGroup) : State := { run with hearth := { run.hearth with groups := run.hearth.groups.set 0 g } }
theorem wit_Hearth_dies : ((withDie (fun x => { x with locking := true })).die 0).locking = true ∧ ((withDie (fun x => { x with stretch := 2 })).die 0).stretch ≠ 0 ∧
    ((withDie (fun x => { x with hotSince := 5 })).die 0).hotSince ≠ 0 ∧
    ((withDie (fun x => { x with belowSince := 5, capThermal := 2 })).die 0).belowSince ≠ 0 := by decide +kernel
theorem wit_Hearth_groups : ((withGroup { (run.powerGroup 0) with held := true }).powerGroup 0).held = true ∧
    (∀ d ∈ groupDies 0, ((withGroup { (run.powerGroup 0) with held := true }).die d).stretch = 0) ∧
    ((withGroup { (run.powerGroup 0) with vid := 127 }).powerGroup 0).vid.toNat ≠ groupVid (withGroup { (run.powerGroup 0) with vid := 127 }) 0 := by
  decide +kernel
/-- A die that locks to level 3 in a group with, and without, the voltage of it; one that locks with no change; dies of each kind of thermal step. -/
def locking3 : Die := { Die.cold with locking := true, target := 3 }
theorem wit_Hearth_lock : (withDie (fun _ => locking3)).dies[0]? = some locking3 ∧ locking3.level ≠ locking3.target ∧
    levelVid 3 ≤ ((withGroup { (run.powerGroup 0) with vid := 127 }).powerGroup 0).vid.toNat ∧
    ((withGroup { (run.powerGroup 0) with vid := 0 }).powerGroup 0).vid.toNat < levelVid 3 ∧ ({ locking3 with target := 0 } : Die).level = 0 := by decide +kernel
theorem wit_Hearth_groupAt : (withGroup { (run.powerGroup 0) with vid := 127 }).hearth.groups[0]? = some { (run.powerGroup 0) with vid := 127 } := by decide +kernel
theorem wit_Hearth_thermal : Die.cold.hotSince = 0 ∧ Die.cold.belowSince = 0 ∧ run.dies[0]? = some Die.cold ∧
    ({ Die.cold with belowSince := 5, capThermal := 2 } : Die).capThermal ≠ 0 := by decide +kernel
/-- Readings of the four sensors of Face die 0, the hottest of them 90 degrees, at a threshold of 80. -/
theorem wit_Hearth_temps : sensed 0 ([[60, 90, 70, 50]].getD 0 []) = some 90 ∧
    hotDies { run with cfg := { run.cfg with thermal := BitVec.ofNat 64 (80 * 2 ^ 24) } } [some 90] 0 ≠ [] ∧
    hotDies { run with cfg := { run.cfg with thermal := BitVec.ofNat 64 (80 * 2 ^ 24) } } [some 70] 0 = [] := by decide +kernel
/-- With a limit of 100 W an average of 200 W is above it, one of 50 W below 95 percent, one of 97 W neither. -/
theorem wit_Hearth_tick : let s (mw : Nat) : State := { run with
      cfg := { run.cfg with power := BitVec.ofNat 64 (100 + 2 ^ 19) }, hearth := { run.hearth with senseSum := mw / 1000, senseCount := 1 } }
    powerLimit (s 0) * 1000 < averageMw (s 200000) [200000] ∧ 100 * averageMw (s 50000) [50000] < 95 * (powerLimit (s 50000) * 1000) ∧
    ¬ 100 * averageMw (s 97000) [97000] < 95 * (powerLimit (s 97000) * 1000) := by decide +kernel
theorem wit_Hearth_droop : droopMv run < 1000 ∧ 0 ≤ droopMv run := by decide +kernel

/-- Alert input 0 monitored, and asserted. -/
def alerted : State := { run with hearth := { run.hearth with alertNow := inputBit 0, alertHighAt := some 5 } }
theorem wit_Alerts : (∃ v : W64, alertMask { run with cfg := { run.cfg with thermal := v } } 0 = true) ∧ alertMask run 0 = false ∧
    alerted.hearth.alertNow &&& inputBit 0 ≠ 0 ∧ run.hearth.alertNow &&& inputBit 0 = 0 ∧ alerted.boot.safe = false ∧ alerted.hearth.alertHighAt = some 5 :=
  ⟨⟨BitVec.allOnes 64, by decide +kernel⟩, by decide +kernel, by decide +kernel, by decide +kernel, rfl, rfl⟩
theorem wit_Alerts_phases : run.boot.phase ≠ .por ∧ ({ run with boot := { Boot.por with phase := .noImage } } : State).up = false := by decide
theorem wit_Alerts_temps : (120 : Byte).toInt ≥ 115 ∧ (50 : Byte).toInt < 110 ∧ isStackUnit 0x60 = true ∧ isStackUnit 0 = false := by decide +kernel
theorem wit_Alerts_mismatch : ({ run with boot := { run.boot with comparatorStopped := true } } : State).boot.comparatorStopped = true ∧
    run.boot.comparatorStopped = false ∧ run.boot.safe = false := by decide +kernel
theorem wit_Alerts_clocks : (ClockId.refCore ∉ run.hearth.stopped) ∧ (∃ c e, clockOffBy run c e = true) ∧ (∃ c e, clockOffBy run c e = false) :=
  ⟨by decide +kernel, ⟨0, 1000, by decide +kernel⟩, ⟨1000, 1000, by decide +kernel⟩⟩
theorem wit_Alerts_drain : let s := { run with errors := { run.errors with count := 1 } }
    s.errors.drained < s.errors.count ∧ errorDrainInFlight s = false ∧ run.errors.count ≤ run.errors.drained := by decide +kernel

/-! ## Ill-formed commands -/

def load9 : FaceLoad := { item := ⟨0, 0⟩, fmt := 0, k := 16, n := 16, base := 0, stride := 64, scaleBase := 0 }
def stream9 : FaceStream := { item := ⟨0, 0⟩, block := 0, chunk := 0, fmt := 0, rows := 4, base := 0, stride := 64, scaleBase := 0, swap := true, mode := .pass, accBase := 0, stage := 0 }
def longFlit : Flit := { link := 0, body := List.replicate 241 0, crc := 0, tail := 0, fecOk := true }
def longPacket : Packet := { wr 1 1 with data := List.replicate 4097 0 }
def cold1 : ColdInputs := { boardPos := 0, railsInRange := true, programmed := none, answersA := true, answersB := true, entropyA := 0, entropyB := 0, disagreeAt := none,
                            firmwareBad := [], releaseBad := [], stacksBad := [], rowsTrained := List.replicate 24 0, portsUp := [], porchUp := true, romMeasure := 0 }

/-- One term for each check of WellFormed, which the check refuses. -/
theorem test_illFormed : ∀ c ∈ [Instr.chain 0 (2 ^ 96), .coldStart { cold1 with rowsTrained := [] }, .coldStart { cold1 with releaseBad := [[16]] }, .stackRetrainComplete ⟨0, 2 ^ 16⟩,
    .patrolScrubRead 0 ⟨.clean, [.pantry 0 (2 ^ 29)]⟩,
    .faceOperationIssue (0 : Fin 64) (some (.load { load9 with k := 513 })) none, .faceOperationIssue (0 : Fin 64) none (some (.load { load9 with k := 0 })),
    .faceOperationIssue (0 : Fin 64) (some (.load { load9 with n := 257 })) none, .faceOperationIssue (0 : Fin 64) (some (.load { load9 with base := 2 ^ 29 })) none,
    .faceOperationIssue (0 : Fin 64) (some (.load { load9 with base := 32 })) none, .faceOperationIssue (0 : Fin 64) (some (.load { load9 with stride := 65 })) none,
    .faceOperationIssue (0 : Fin 64) (some (.load { load9 with item := ⟨48, 0⟩ })) none, .faceOperationIssue (0 : Fin 64) (some (.stream { stream9 with rows := 0 })) none,
    .faceOperationIssue (0 : Fin 64) (some (.stream { stream9 with rows := 2 ^ 32 + 1 })) none,
    .faceOperationIssue (0 : Fin 64) (some (.stream { stream9 with accBase := 2 ^ 29 })) none, .rowEmerge (0 : Fin 64) [(256, 0)],
    .loadPieceDispatch 0 .haul (some { piece1 with load := 64 }), .loadPieceDispatch 0 .haul (some { piece1 with rows := 0 }),
    .loadPieceDispatch 0 .tipple (some { piece1 with elemBits := 65 }), .enginePieceComplete 0 .haul 16, .engineClockStop 0 .tipple 4, .chunkDeadline 0 0 (2 ^ 32),
    .larderAccess [{ access0 with off := 63 }] 0 .clean, .larderAccess [] (2 ^ 42) .clean, .larderAccess [{ access0 with op := .write [1, 2] [true] }] 0 .clean,
    .regulatorGrant 0 [{ access0 with off := 1, op := .poison }], .idle 0 longFlit, .read 0 longPacket, .notUsed { src := 0, line := [], body := [] },
    .closeReport { msg 4 with src := 2 ^ 15 }, .rdmaRead (hreq 0) ⟨2 ^ 32, []⟩, .send { getNonce with hdr := [] } ⟨0, frame0⟩, .railSense [], .droopDetect 0 (2 ^ 16),
    .dieTempRead [], .clockMonitorWindow (.mesh 100) 0 1 1, .clockMonitorWindow .sill 0 1 0], c.ok = false := by decide +kernel
/-- And well-formed ones of the same commands. -/
theorem test_wellFormed : ∀ c ∈ [Instr.chain 0 5, .coldStart cold1, .faceOperationIssue (0 : Fin 64) (some (.load load9)) (some (.stream stream9)), .rowEmerge (0 : Fin 64) [(255, 0)],
    .loadPieceDispatch 0 .haul (some piece1), .enginePieceComplete 0 .haul 15, .larderAccess [access0] 0x40 .clean, .idle 0 (flit 0 0 []), .read 0 (wr 1 1),
    .notUsed (msg 1), .rdmaRead (hreq 0) ⟨8, []⟩, .send getNonce ⟨0, frame0⟩, .clockMonitorWindow (.mesh 99) 0 1 1], c.ok = true := by decide +kernel

/-- The table gives no row bits: no word spells a command, and a machine told to fetch one is unchanged. -/
theorem test_noWords : decodeTableWord 16 0x1234 = none ∧ (State.withFetchWord run 16 0x1234).pending = run.pending := ⟨rfl, rfl⟩

/-! ## Values worked out from the rules by hand -/

/-- R26, R43: codes of 1.0 and of the largest number. -/
theorem test_codes : roundEncode fmtBF16 .one = 0x3F80 ∧ roundEncode fmtFP32 .one = 0x3F800000 ∧ roundEncode fmtE4M3 .one = 0x38 ∧ roundEncode fmtE5M2 .one = 0x3C ∧
    fmtE4M3.maxCode = 0x7E ∧ fmtE5M2.maxCode = 0x7B ∧ fmtFP16.maxCode = 0x7BFF := by decide +kernel
/-- R43: ties go to the even code: 1 + 2^-8 and 1 + 3 x 2^-8 in BF16. -/
theorem test_ties : roundEncode fmtBF16 (.fin false 257 (-8)) = 0x3F80 ∧ roundEncode fmtBF16 (.fin false 259 (-8)) = 0x3F82 := by decide +kernel
/-- R44, R45: 448 fits E4M3, 480 saturates to it with overflow; 200 saturates INT8 to 127 with int_sat. -/
theorem test_saturation : (convFloat { mode := .nearest, nonsat := false, t1 := false } 1 (.ofNat 448)).val = 0x7E ∧
    (convFloat { mode := .nearest, nonsat := false, t1 := false } 1 (.ofNat 480)).val = 0x7E ∧ (convInt8 (.ofNat 200)).val = 127 ∧
    (convInt8 (.ofNat 200)).fl = flIntSat := by decide +kernel
/-- R166: the three comparisons of a WAIT; GE_WRAP takes 2 to be past 2^64 - 1. -/
theorem test_waits : waitHolds 0 5 5 = true ∧ waitHolds 1 5 6 = false ∧ waitHolds 2 2 (BitVec.ofNat 64 (2 ^ 64 - 1)) = true ∧
    waitHolds 1 2 (BitVec.ofNat 64 (2 ^ 64 - 1)) = false := by decide +kernel
/-- R273: 208 data bytes fill the head flit, 209 need a second one, 4096 need 18 in all. -/
theorem test_flits : flitCount { wr 1 1 with data := List.replicate 208 0 } = 1 ∧ flitCount { wr 1 1 with data := List.replicate 224 0 } = 2 ∧
    flitCount { wr 1 1 with data := List.replicate 4096 0 } = 18 := by decide +kernel
/-- R270: CRC-32C of the nine digits is its published check value. -/
theorem test_crc : crc32c [0x31, 0x32, 0x33, 0x34, 0x35, 0x36, 0x37, 0x38, 0x39] = 0xE3069283 := by decide +kernel
/-- One command taken from the front of the queue. -/
theorem test_step : (match step { run with pending := [.porchLinkDown, .frameDiscard] } with
    | .next t => (t.pending.length, t.porch.link, t.porch.downCount)
    | _ => (0, 0, 0)) = (1, 1, 1) := by decide +kernel
/-- R439: of three ranks the second fails: two remain, and the third becomes rank 1. -/
theorem test_reform : (reformGroup { group3 with rank := 2 } [1]).members = [0, 2] ∧ (reformGroup { group3 with rank := 2 } [1]).rank = 1 := by decide +kernel

end Sys2Proof.Tests
end

section
/-! PROOF. Every step keeps the units of the device and the canonical form of memory: the machine at reset has them, and every
command leaves them. -/

namespace Sys2Proof.Machine

/-! ## Sound states -/

/-- What an operation keeps includes soundness. -/
theorem Keeps.sound {a b : State} (h : Keeps a b) (hs : a.Sound) : b.Sound := by
  obtain ⟨hcanon, hunits⟩ := hs
  exact ⟨h.canon hcanon, h.units hunits⟩

theorem State.Sound.withPending {s : State} (h : s.Sound) (l : List Instr) : State.Sound { s with pending := l } := h

theorem porState_sound (s : State) : (porState s).Sound := by
  obtain ⟨-, -, h⟩ := porState_leaves s
  exact h

/-- The device at reset is the one that POR_N leaves of it (R346). -/
theorem reset_sound : State.reset.Sound := porState_sound State.reset

theorem coldSteps_sound {s : State} (h : s.Sound) (hs : s.boot.safe = false) (i : ColdInputs) : (coldSteps s i).Sound :=
  (coldSteps_keeps (.refl s) hs i).sound h

/-! ## The commands that restart the device (R346, R347, R494) -/

theorem execPorAssert_sound {s t : State} (h : execPorAssert s = .next t) : t.Sound := by
  cases h
  exact porState_sound s

theorem execColdStart_sound {i : ColdInputs} {s t : State} (h : execColdStart i s = .next t) (hs : s.Sound) : t.Sound := by
  unfold execColdStart at h
  cases h
  split
  · dsimp only
    split
    · exact coldSteps_sound (porState_sound s) rfl i
    · exact porState_sound s
  · exact hs

theorem execRailsInRange_sound {s t : State} (h : execRailsInRange s = .next t) (hs : s.Sound) : t.Sound := by
  unfold execRailsInRange at h
  cases h
  split
  · split
    · exact hs
    · rename_i hsafe
      exact coldSteps_sound hs (by simpa using hsafe) _
  · exact hs

theorem exec_sound_of_restarts {c : Instr} (hc : restarts c = true) {s t : State} (h : exec c s = .next t) (hs : s.Sound) : t.Sound := by
  cases c with
  | porAssert => exact execPorAssert_sound h
  | coldStart i => exact execColdStart_sound h hs
  | railsInRange => exact execRailsInRange_sound h hs
  | _ => nomatch hc

/-! ## Every other command -/

/-- A command that does not restart the device leaves what its operations leave: one lemma of Laws/Left*.lean for each. -/
theorem exec_keeps {a0 s : State} (h : Keeps a0 s) (c : Instr) (hc : restarts c = false) : OutKeeps a0 (exec c s) := by
  cases c with
  | porAssert => nomatch hc
  | coldStart => nomatch hc
  | xspiRelease => exact execXspiRelease_keeps h
  | computeRstAssert => exact execComputeRstAssert_keeps h
  | computeRstDeassert => exact execComputeRstDeassert_keeps h
  | gatehouseResetRelease => exact execGatehouseResetRelease_keeps h
  | periodStart => exact execPeriodStart_keeps h _
  | periodEnd => exact execPeriodEnd_keeps h _
  | poll => exact execPoll_keeps h _
  | controlBlockReadReturn => exact execControlBlockReadReturn_keeps h _
  | schedulerRound => exact execSchedulerRound_keeps h _
  | deterministicRound => exact execDeterministicRound_keeps h _
  | chain => exact execChain_keeps h _ _
  | faceOperationIssue => exact execFaceOperationIssue_keeps h _ _ _
  | loadComplete => exact execLoadComplete_keeps h _
  | rowEmerge => exact execRowEmerge_keeps h _ _
  | confirmWindowExpiry => exact execConfirmWindowExpiry_keeps h _
  | checkAdvance => exact execCheckAdvance_keeps h _
  | replayComplete => exact execReplayComplete_keeps h _
  | rampDownBegin => exact execRampDownBegin_keeps h _
  | rampColumnStep => exact execRampColumnStep_keeps h _
  | rampDownComplete => exact execRampDownComplete_keeps h _
  | rampUpComplete => exact execRampUpComplete_keeps h _
  | loadPieceDispatch => exact execLoadPieceDispatch_keeps h _ _ _
  | enginePieceComplete => exact execEnginePieceComplete_keeps h _ _ _
  | engineClockStop => exact execEngineClockStop_keeps h _ _ _
  | pinRetry => exact execPinRetry_keeps h _ _
  | pinReleaseRetry => exact execPinReleaseRetry_keeps h _
  | update => exact execUpdate_keeps h _ _
  | normCellPoll => exact execNormCellPoll_keeps h _ _
  | updateClaimPoll => exact execUpdateClaimPoll_keeps h _ _
  | updateCommit => exact execUpdateCommit_keeps h _ _
  | copy => exact execCopy_keeps h _ _
  | transpose => exact execTranspose_keeps h _ _
  | gather => exact execGather_keeps h _ _
  | scatter => exact execScatter_keeps h _ _
  | fill => exact execFill_keeps h _ _
  | atomic => exact execAtomic_keeps h _ _
  | normBwd => exact execNormBwd_keeps h _ _
  | softmaxBwd => exact execSoftmaxBwd_keeps h _ _
  | rowStats => exact execRowStats_keeps h _ _
  | rubbleEncode => exact execRubbleEncode_keeps h _ _
  | rubbleDecode => exact execRubbleDecode_keeps h _ _
  | copyRound => exact execCopyRound_keeps h _ _
  | benchCoreStop => exact execBenchCoreStop_keeps h _ _
  | benchCoreWake => exact execBenchCoreWake_keeps h _ _
  | benchQuantum => exact execBenchQuantum_keeps h _ _ _
  | reduceScatter => exact execReduceScatter_keeps h _ _
  | allGather => exact execAllGather_keeps h _ _
  | allReduce => exact execAllReduce_keeps h _ _
  | broadcast => exact execBroadcast_keeps h _ _
  | allToAll => exact execAllToAll_keeps h _ _
  | normAllreduce => exact execNormAllreduce_keeps h _ _
  | versionedGatherCommit => exact execVersionedGatherCommit_keeps h _ _
  | chunkDeadline => exact execChunkDeadline_keeps h _ _ _
  | fenceWrite => exact execFenceWrite_keeps h _ _
  | fenceAcquire => exact execFenceAcquire_keeps h _ _
  | fenceFull => exact execFenceFull_keeps h _ _
  | hint => exact execHint_keeps h _ _
  | hintPhaseStart => exact execHintPhaseStart_keeps h _ _
  | hintPhaseEnd => exact execHintPhaseEnd_keeps h _ _
  | note => exact execNote_keeps h _ _
  | pinRelease => exact execPinRelease_keeps h _ _
  | publish => exact execPublish_keeps h _ _
  | wait => exact execWait_keeps h _ _
  | markWaitPoll => exact execMarkWaitPoll_keeps h _ _
  | secure => exact execSecure_keeps h _ _
  | priv => exact execPriv_keeps h _ _
  | close => exact execClose_keeps h _ _
  | eval => exact execEval_keeps h _ _
  | restore => exact execRestore_keeps h _ _
  | reform => exact execReform_keeps h _ _
  | spanConflictCleared => exact execSpanConflictCleared_keeps h _ _
  | flaggedFinalWriteIssue => exact execFlaggedFinalWriteIssue_keeps h _ _
  | itemEnd => exact execItemEnd_keeps h _ _
  | drainIntervalExpiry => exact execDrainIntervalExpiry_keeps h _
  | dropPoisonComplete => exact execDropPoisonComplete_keeps h _ _
  | larderAccess => exact execLarderAccess_keeps h _ _ _
  | regulatorGrant => exact execRegulatorGrant_keeps h _ _
  | retryReissue => exact execRetryReissue_keeps h
  | patrolScrubRead => exact execPatrolScrubRead_keeps h _ _
  | stackTempRead => exact execStackTempRead_keeps h _ _
  | stackThrottleStepDown => exact execStackThrottleStepDown_keeps h _
  | dataEyeLockLoss => exact execDataEyeLockLoss_keeps h _
  | stackRetrainComplete => exact execStackRetrainComplete_keeps h _
  | stackRetrainTimeout => exact execStackRetrainTimeout_keeps h _
  | pantryReleaseComplete => exact execPantryReleaseComplete_keeps h _
  | idle => exact execIdle_keeps h _ _
  | data => exact execData_keeps h _ _
  | nak => exact execNak_keeps h _ _
  | train => exact execTrain_keeps h _ _
  | linkDownTimeout => exact execLinkDownTimeout_keeps h _
  | portRetrainTimeout => exact execPortRetrainTimeout_keeps h _
  | portDisableTimeout => exact execPortDisableTimeout_keeps h _
  | read => exact execRead_keeps h _ _
  | write => exact execWrite_keeps h _ _
  | atomicRequest => exact execAtomicRequest_keeps h _ _
  | poison => exact execPoison_keeps h _ _
  | readRsp => exact execReadRsp_keeps h _ _
  | writeAck => exact execWriteAck_keeps h _ _
  | atomicRsp => exact execAtomicRsp_keeps h _ _
  | retry => exact execRetry_keeps h _ _
  | fault => exact execFault_keeps h _ _
  | collData => exact execCollData_keeps h _ _
  | crushData => exact execCrushData_keeps h _ _
  | escapeWaitExpiry => exact execEscapeWaitExpiry_keeps h _ _
  | stallLimitExpiry => exact execStallLimitExpiry_keeps h _ _ _
  | respTimeout => exact execRespTimeout_keeps h _
  | notUsed => exact execNotUsed_keeps h _
  | crushDone => exact execCrushDone_keeps h _
  | foldNotice => exact execFoldNotice_keeps h _
  | closeReport => exact execCloseReport_keeps h _
  | imageFwdStart => exact execImageFwdStart_keeps h _ _
  | imageFwdData => exact execImageFwdData_keeps h _ _
  | imageFwdResult => exact execImageFwdResult_keeps h _ _
  | imageFwdTimeout => exact execImageFwdTimeout_keeps h _
  | rdmaWrite => exact execRdmaWrite_keeps h _ _
  | rdmaWriteWithImmediate r bytes imm => exact execRdmaWriteWithImmediate_keeps h r bytes imm
  | rdmaRead => exact execRdmaRead_keeps h _ _
  | send => exact execSend_keeps h _ _
  | invalidRequest => exact execInvalidRequest_keeps h _ _
  | hostAck => exact execHostAck_keeps h _ _
  | hostNak => exact execHostNak_keeps h _ _
  | ackTimeout => exact execAckTimeout_keeps h _
  | cnp => exact execCnp_keeps h _
  | recIntervalExpiry => exact execRecIntervalExpiry_keeps h _
  | pfcPause => exact execPfcPause_keeps h _ _
  | arp => exact execArp_keeps h _ _
  | neighborSolicitation => exact execNeighborSolicitation_keeps h _ _
  | frameDiscard => exact execFrameDiscard_keeps h
  | porchLinkDown => exact execPorchLinkDown_keeps h
  | porchRetrainAttempt => exact execPorchRetrainAttempt_keeps h
  | getIdentity => exact execGetIdentity_keeps h _
  | getNonce => exact execGetNonce_keeps h _
  | quote => exact execQuote_keeps h _
  | selectVariant => exact execSelectVariant_keeps h _
  | imageWrite => exact execImageWrite_keeps h _
  | imageData => exact execImageData_keeps h _
  | imageWriteAbandon => exact execImageWriteAbandon_keeps h
  | qpReset => exact execQpReset_keeps h _
  | computeReset => exact execComputeReset_keeps h _
  | contextReset => exact execContextReset_keeps h _
  | stackRetrain => exact execStackRetrain_keeps h _
  | fenceClear => exact execFenceClear_keeps h _
  | safeState => exact execSafeState_keeps h _
  | rollbackRaise => exact execRollbackRaise_keeps h _
  | keyEnroll => exact execKeyEnroll_keeps h _
  | keyRevoke => exact execKeyRevoke_keeps h _
  | controlWrite => exact execControlWrite_keeps h _
  | ctxCtlReset => exact execCtxCtlReset_keeps h _ _
  | counterClear => exact execCounterClear_keeps h _ _
  | counterRun => exact execCounterRun_keeps h _ _
  | counterSelect => exact execCounterSelect_keeps h _ _ _ _
  | controlSpaceWrite => exact execControlSpaceWrite_keeps h _ _ _
  | i3cOffsetWrite => exact execI3cOffsetWrite_keeps h _
  | i3cRead => exact execI3cRead_keeps h
  | extest => exact execExtest_keeps h
  | controlTick => exact execControlTick_keeps h
  | railSense => exact execRailSense_keeps h _
  | generatorLock => exact execGeneratorLock_keeps h _
  | voltageStep => exact execVoltageStep_keeps h _
  | droopDetect => exact execDroopDetect_keeps h _ _
  | droopClear => exact execDroopClear_keeps h _
  | droopHoldExpiry => exact execDroopHoldExpiry_keeps h _
  | regAlertAssert => exact execRegAlertAssert_keeps h _
  | alertHoldExpiry => exact execAlertHoldExpiry_keeps h
  | powerFault => exact execPowerFault_keeps h _
  | dieTempRead => exact execDieTempRead_keeps h _
  | thermalCapStep => exact execThermalCapStep_keeps h _
  | thermalTrip => exact execThermalTrip_keeps h _ _
  | clockMonitorWindow => exact execClockMonitorWindow_keeps h _ _ _ _
  | gatehouseMismatch => exact execGatehouseMismatch_keeps h _
  | errorDrainTimer => exact execErrorDrainTimer_keeps h
  | regAlertDeassert => exact execRegAlertDeassert_keeps h _
  | porchLinkUp => exact execPorchLinkUp_keeps h
  | fecLock => exact execFecLock_keeps h _
  | trainingPatternReceived => exact execTrainingPatternReceived_keeps h _
  | railsInRange => nomatch hc

theorem exec_sound {c : Instr} {s t : State} (h : exec c s = .next t) (hs : s.Sound) : t.Sound := by
  cases hc : restarts c with
  | true => exact exec_sound_of_restarts hc h hs
  | false => exact (exec_keeps (.refl s) c hc t h).sound hs

/-! ## A step -/

/-- What a step that answers a next state has done: nothing on an empty queue, else the command at its front. -/
theorem step_cases {s t : State} (h : step s = .next t) :
    (s.pending = [] ∧ t = s) ∨ ∃ c rest, s.pending = c :: rest ∧ exec c { s with pending := rest } = .next t := by
  unfold step at h
  split at h
  · rename_i hp
    cases h
    exact .inl ⟨hp, rfl⟩
  · rename_i c rest hp
    exact .inr ⟨c, rest, hp, h⟩

/-- Settles O3: reset is the state that POR_N leaves, whose units are lists of their lengths and whose memories are empty. -/
theorem resetIsSound : Obligations.ResetIsSound := reset_sound

/-- Settles O4, by the cases of a step and of the command that it runs. -/
theorem everyStepKeepsSound : Obligations.EveryStepKeepsSound := by
  intro s t h hs
  obtain ⟨-, rfl⟩ | ⟨c, rest, -, hexec⟩ := step_cases h
  · exact hs
  · exact exec_sound hexec (hs.withPending rest)

end Sys2Proof.Machine
end

section
/-! SUPPORT. The frame of HBM3E: a write that its home performs changes no byte outside its own range, whatever the Larder, the codes and
poison do at its line (R173, R218, R226). -/

namespace Sys2Proof.Machine

/-! ## One byte of HBM3E across an operation on memory -/

/-- An operation on memory that leaves the HBM3E byte at x and the queues of the lines as they were. -/
structure SameAt (x : Nat) (m n : Memory) : Prop where
  byte : n.hbm.read x = m.hbm.read x
  queues : n.queues = m.queues

variable {x : Nat}

theorem SameAt.refl (m : Memory) : SameAt x m m := ⟨rfl, rfl⟩

theorem SameAt.trans {a b c : Memory} (h : SameAt x a b) (k : SameAt x b c) : SameAt x a c :=
  ⟨k.byte.trans h.byte, k.queues.trans h.queues⟩

/-- A change of other parts of memory. -/
theorem SameAt.put {a m b : Memory} (h : SameAt x a m) (h1 : b.hbm = m.hbm := by rfl) (h2 : b.queues = m.queues := by rfl) : SameAt x a b :=
  ⟨by rw [h1, h.byte], h2.trans h.queues⟩

/-- A fold whose every step leaves the byte, seen through the memory of what is folded. -/
theorem SameAt.fold {β γ : Type} {a : Memory} (mem : γ → Memory) {f : γ → β → γ} {l : List β} {s : γ} (h : SameAt x a (mem s))
    (hf : ∀ s, ∀ y ∈ l, SameAt x a (mem s) → SameAt x a (mem (f s y))) : SameAt x a (mem (l.foldl f s)) := by
  induction l generalizing s with
  | nil => exact h
  | cons y l ih => exact ih (hf s y (by simp) h) (fun s z hz => hf s z (by simp [hz]))

theorem modStack_sameAt (m : Memory) (st : Nat) (f : Stack → Stack) : SameAt x m (modStack m st f) := (SameAt.refl m).put

theorem retag_sameAt (c : Cfg) (m : Memory) (off : Nat) : SameAt x m (retag c m off) := by
  unfold retag
  split
  · exact (SameAt.refl m).put
  · exact .refl m

theorem toStack_sameAt (c : Cfg) (m : Memory) (line : Nat) : SameAt x m (toStack c m line) := by
  unfold toStack
  split
  · exact (SameAt.refl m).put.trans (retag_sameAt ..)
  · exact .refl m

theorem clearUpset_sameAt (m : Memory) (off : Nat) : SameAt x m (clearUpset m off) := by
  unfold clearUpset
  split
  · exact (SameAt.refl m).put
  · exact (SameAt.refl m).put
  · exact .refl m

theorem setPoison_sameAt (c : Cfg) (m : Memory) (off : Nat) (on : Bool) : SameAt x m (setPoison c m off on) := by
  unfold setPoison
  extract_lets u rest n
  have hu : SameAt x m u := clearUpset_sameAt m off
  have hn : SameAt x m n := hu.put
  clear_value n u
  split
  · split
    · exact hn.trans (retag_sameAt ..)
    · exact hn
  · exact hu.put
  · exact hu

theorem unpoison_sameAt (c : Cfg) (m : Memory) (off : Nat) : SameAt x m (unpoison c m off) := by
  unfold unpoison
  split
  · exact setPoison_sameAt ..
  · exact .refl m

/-- Bytes written beside x. -/
theorem rawWrite_sameAt (m : Memory) {off : Nat} {bs : List Byte} (hx : x < off ∨ off + bs.length ≤ x) : SameAt x m (rawWrite m off bs) := by
  unfold rawWrite
  split
  · exact ⟨Mem.read_writeBytes_out m.hbm off bs x hx, rfl⟩
  · exact (SameAt.refl m).put
  · exact .refl m

theorem mergeMask_length_le (old new : List Byte) (mask : List Bool) : (mergeMask old new mask).length ≤ new.length := by
  simp only [mergeMask, List.length_map, List.length_zip]
  omega

theorem lineWrite_sameAt (c : Cfg) (m : Memory) {off : Nat} {bs : List Byte} (mask : List Bool) (hx : x < off ∨ off + bs.length ≤ x) :
    SameAt x m (lineWrite c m off bs mask) := by
  unfold lineWrite
  extract_lets raw merged
  have hraw : SameAt x m raw := by
    have hlen := mergeMask_length_le (rawRead m off bs.length) bs mask
    exact rawWrite_sameAt m (by omega)
  have hmerged : SameAt x m merged := by
    unfold merged
    split
    · exact hraw
    · exact hraw.put
  split
  · exact hmerged.trans (setPoison_sameAt ..)
  · exact hmerged

theorem larderTouch_sameAt (c : Cfg) (m : Memory) (line : Nat) (dirty : Bool) : SameAt x m (larderTouch c m line dirty) := by
  unfold larderTouch
  extract_lets fresh stamped
  have hs : SameAt x m stamped := (SameAt.refl m).put
  clear_value stamped
  split
  · exact hs.put
  · split
    · exact hs.put
    · split
      · extract_lets left
        have hleft : SameAt x m left := by
          unfold left
          split
          · exact hs.trans (toStack_sameAt ..)
          · exact hs
        exact hleft.put
      · split
        · exact hs.trans (toStack_sameAt ..)
        · exact hs

/-! ## One byte of HBM3E across an access at its home -/

@[simp] theorem count_memory (s : State) (o : Occ) : (count s o).memory = s.memory := by
  unfold count
  split <;> rfl

@[simp] theorem writeError_memory (s : State) (e : ErrInfo) : (writeError s e).memory = s.memory := by
  unfold writeError
  split
  · rfl
  · simp only [count_memory]

theorem foldl_count_memory (l : List Occ) (s : State) : (l.foldl count s).memory = s.memory := by
  induction l generalizing s with
  | nil => rfl
  | cons o l ih => rw [List.foldl_cons, ih, count_memory]

theorem countPantry_memory (s : State) (o : Occ) (d a n : Nat) : (countPantry s o d a n).memory = s.memory := foldl_count_memory ..

theorem foundUncorrectable_sameAt (s : State) (who : Who) (off : Nat) (stack scrub : Bool) :
    SameAt x s.memory (foundUncorrectable s who off stack scrub).memory := by
  unfold foundUncorrectable
  split
  · rw [writeError_memory]
    exact setPoison_sameAt ..
  · split
    · rw [writeError_memory]
      exact setPoison_sameAt ..
    · dsimp only
      rw [writeError_memory]
      exact SameAt.fold id (modStack_sameAt ..) (fun m o _ h => h.trans (setPoison_sameAt ..))
  · exact .refl _

theorem evictUpset_sameAt (s : State) (off : Nat) : SameAt x s.memory (evictUpset s off).memory := by
  unfold evictUpset
  split
  · split
    · exact foundUncorrectable_sameAt ..
    · exact .refl _
  · exact .refl _

theorem modRegs_sameAt (s : State) (k : Nat) (f : Nat → Regulator → Regulator) : SameAt x s.memory (modRegs s k f).memory :=
  (SameAt.refl s.memory).put

theorem chargeRequest_sameAt (s : State) (who : Who) (k : AccKind) (off n : Nat) : SameAt x s.memory (chargeRequest s who k off n).memory := by
  unfold chargeRequest
  refine SameAt.fold State.memory (.refl _) (fun t p _ h => h.trans ?_)
  unfold chargeCellar
  split
  · exact modRegs_sameAt ..
  · exact .refl _

/-- With no error in a stored block the code finds it as it was written: data, or the pattern of poison (R218, R219). -/
theorem stackFinds_clean (m : Memory) (off : Nat) : stackFinds m off .clean = .clean ∨ stackFinds m off .clean = .poison := by
  unfold stackFinds
  split
  · exact .inr (by decide)
  · exact .inl (by decide)

section
variable {off : Nat} {bs : List Byte} (hx : x < off ∨ off + bs.length ≤ x)
include hx

theorem applyOp_write_sameAt (s : State) (mask : List Bool) : SameAt x s.memory (applyOp s off (.write bs mask)).1.memory :=
  lineWrite_sameAt _ _ mask hx

theorem applyUncorrectable_write_sameAt (s : State) (who : Who) (stack : Bool) (mask : List Bool) :
    SameAt x s.memory (applyUncorrectable s who off stack (.write bs mask)).1.memory :=
  (foundUncorrectable_sameAt s who off stack false).trans (applyOp_write_sameAt hx _ mask)

theorem applyArray_write_sameAt (s : State) (who : Who) (mask : List Bool) : SameAt x s.memory (applyArray s who off (.write bs mask)).1.memory := by
  unfold applyArray
  split
  · exact applyOp_write_sameAt hx s mask
  · split
    · exact applyUncorrectable_write_sameAt hx s who false mask
    · exact applyOp_write_sameAt hx s mask

theorem applyFound_write_sameAt (s : State) (who : Who) (mask : List Bool) :
    SameAt x s.memory (applyFound s who off (.write bs mask) (stackFinds s.memory off .clean)).1.memory := by
  rcases stackFinds_clean s.memory off with h | h
  · rw [h]
    exact (unpoison_sameAt s.cfg s.memory off).trans (applyOp_write_sameAt hx (s.modMem (fun m => unpoison s.cfg m off)) mask)
  · rw [h]
    exact (setPoison_sameAt s.cfg s.memory off true).trans (applyOp_write_sameAt hx (s.modMem (fun m => setPoison s.cfg m off true)) mask)

theorem performAt_write_sameAt (s : State) (who : Who) (mask : List Bool) :
    SameAt x s.memory (performAt s who off (.write bs mask) .clean).1.memory := by
  unfold performAt
  split
  · exact .refl _
  · split
    · exact .refl _
    · exact applyArray_write_sameAt hx s who mask
    · split
      · exact .refl _
      · dsimp only
        refine SameAt.trans ?_ (larderTouch_sameAt ..)
        split
        · exact applyFound_write_sameAt hx s who mask
        · exact applyArray_write_sameAt hx s who mask

theorem performHome_write_sameAt (s : State) (who : Who) (mask : List Bool) :
    SameAt x s.memory (performHome s who off (.write bs mask) .clean).1.memory := by
  unfold performHome
  extract_lets u
  have hu : SameAt x s.memory u.memory := by
    unfold u
    split
    · exact evictUpset_sameAt s off
    · exact .refl _
  have ht := hu.trans (performAt_write_sameAt hx u who mask)
  dsimp only
  split
  · exact ht
  · exact ht
  · dsimp only
    rw [foldl_count_memory]
    exact ht
  · exact ht
  · dsimp only
    rw [countPantry_memory]
    exact ht
  · exact ht

/-- Where no access waits, a write is performed at once. -/
theorem reachHome_write_sameAt (s : State) (hq : s.memory.queues = []) (src : Nat) (who : Who) (mask : List Bool) :
    SameAt x s.memory (reachHome s src who off (.write bs mask) .clean).1.memory := by
  have hwait : (lineQueue s.memory (off / 64)).waiting.length = 0 := by simp [lineQueue, hq]
  unfold reachHome
  dsimp only
  rw [if_pos (.inl hwait)]
  exact performHome_write_sameAt hx s who mask

end

/-- The pieces of a range lie in it. -/
theorem cutLines_bounds {off n : Nat} {p : Nat × Nat} (hp : p ∈ cutLines off n) : off ≤ p.1 ∧ p.1 + p.2 ≤ off + n := by
  unfold cutLines at hp
  split at hp
  · simp at hp
  · obtain ⟨i, hi, rfl⟩ := List.mem_map.mp hp
    rw [List.mem_range] at hi
    have hmax : Nat.max off ((off / 64 + i) * 64) = max off ((off / 64 + i) * 64) := rfl
    have hmin : Nat.min (off + n) ((off / 64 + i + 1) * 64) = min (off + n) ((off / 64 + i + 1) * 64) := rfl
    dsimp only
    rw [hmax, hmin]
    omega

end Sys2Proof.Machine
end

section
/-! PROOF. Accesses of the host (R330 to R334): what a try of each kind answers, the order in which answers leave, and the bytes of HBM3E that
a write leaves alone. -/

namespace Sys2Proof.Machine

/-! ## What a write leaves alone -/

/-- A write of the host that meets no access waiting at a line leaves every HBM3E byte outside its range as it was. -/
theorem hostWrite_hbm_outside (s : State) (q off : Nat) (bs : List Byte) {x : Nat} (hq : s.memory.queues = [])
    (hx : x < off ∨ off + bs.length ≤ x) :
    (hostWrite s q off bs).memory.hbm.read x = s.memory.hbm.read x := by
  have h : SameAt x s.memory (hostWrite s q off bs).memory := by
    unfold hostWrite
    refine SameAt.fold State.memory (chargeRequest_sameAt ..) (fun t p hp ht => ht.trans ?_)
    obtain ⟨hlo, hhi⟩ := cutLines_bounds hp
    have hlen : ((bs.drop (p.1 - off)).take p.2).length ≤ p.2 := List.length_take_le ..
    exact reachHome_write_sameAt (by omega) t (ht.queues.trans hq) 60 _ _
  exact h.byte

/-! ## What a try of an access answers (Table 5 of 12_porch.md) -/

/-- The choice between three outcomes for the pieces of an access: refused whole when one is not permitted, else held when one has to
wait, else performed. -/
def pieceOutcome {α β : Type} (l : List α) (permits waits : α → Bool) (refused held performed : β) : β :=
  if l.any (fun p => !permits p) then refused else if l.any waits then held else performed

section
variable {α β : Type} {l : List α} {permits waits : α → Bool} {refused held performed : β}

theorem pieceOutcome_refused (hno : ∃ p ∈ l, permits p = false) : pieceOutcome l permits waits refused held performed = refused :=
  if_pos (by simpa using hno)

theorem pieceOutcome_held (hyes : ∀ p ∈ l, permits p = true) (hwait : ∃ p ∈ l, waits p = true) :
    pieceOutcome l permits waits refused held performed = held :=
  (if_neg (by simpa using hyes)).trans (if_pos (by simpa using hwait))

theorem pieceOutcome_performed (hyes : ∀ p ∈ l, permits p = true) (hgo : ∀ p ∈ l, waits p = false) :
    pieceOutcome l permits waits refused held performed = performed :=
  (if_neg (by simpa using hyes)).trans (if_neg (by simpa using hgo))

end

theorem hostTry_message {h : HeldHost} {m : GhMsg} (hm : h.msg = some m) (s : State) (k : QpCfg) :
    hostTry s k h = some ({ s with gate := { s.gate with queue := s.gate.queue ++ [m] } }, answerWith (.ack k.index h.req.psn)) := by
  simp [hostTry, hm]

section
variable {s : State} {k : QpCfg} {h : HeldHost} (hmsg : h.msg = none)
include hmsg

theorem hostTry_not_admitted (hadm : admittedBy s k h.req (h.readLen.getD h.bytes.length) = none) :
    hostTry s k h = some (s, nakWith (.nakAccess k.index h.req.psn)) := by
  simp [hostTry, hmsg, hadm]

/-- A write that a window admits below control space. -/
theorem hostTry_write {w : DevWindow} (hadm : admittedBy s k h.req h.bytes.length = some w) (hread : h.readLen = none)
    (hoff : offOf h.req.va.toNat < controlBase) :
    hostTry s k h = pieceOutcome (cutLines (offOf h.req.va.toNat) h.bytes.length) (fun p => homePermits s (.host k.index) .wr p.1)
      (fun p => mustHold s p.1 (.write ((h.bytes.drop (p.1 - offOf h.req.va.toNat)).take p.2) (List.replicate p.2 true)))
      (some (s, nakWith (.nakAccess k.index h.req.psn))) none
      (some (hostWrite s k.index (offOf h.req.va.toNat) h.bytes, answerWith (.ack k.index h.req.psn))) := by
  simp only [hostTry, hmsg, hread, Option.getD_none, hadm, if_neg (Nat.not_le.mpr hoff)]
  rfl

/-- A read that a window admits below control space, performed line by line: what a line without data leaves of it is sent in whole packets. -/
theorem hostTry_read {w : DevWindow} {n : Nat} (hadm : admittedBy s k h.req n = some w) (hread : h.readLen = some n)
    (hoff : offOf h.req.va.toNat < controlBase) {t : State} {bs : List Byte} {whole : Bool}
    (hbytes : hostRead s k.index (cutLines (offOf h.req.va.toNat) n) h.ecc = (t, bs, whole)) :
    hostTry s k h = pieceOutcome (cutLines (offOf h.req.va.toNat) n) (fun p => homePermits s (.host k.index) .rd p.1)
      (fun p => mustHold s p.1 (.read p.2)) (some (s, nakWith (.nakAccess k.index h.req.psn))) none
      (if whole then some (t, answerWith (.readResponse k.index h.req.psn bs))
      else
        let sent := bs.length / Nat.max 1 (s.pmtu k.index)
        some (drainDue t, {
          outs := (if sent = 0 then [] else [.readResponse k.index h.req.psn (bs.take (sent * s.pmtu k.index))])
            ++ [.nakOperational k.index (h.req.psn + BitVec.ofNat 24 sent)]
          fatal := true })) := by
  simp only [hostTry, hmsg, hread, Option.getD_some, hadm, if_neg (Nat.not_le.mpr hoff), hbytes]
  rfl

end

/-! ## The order of answers (R330, R331, R334) -/

section
variable {s : State} {q : Nat} {x : Qp} {h : HeldHost} {rest : List HeldHost} (hx : s.qp q = some x) (hheld : x.held = h :: rest)
include hx hheld

theorem sendAnswers_unanswered (hnone : h.answer = none) (n : Nat) : sendAnswers (n + 1) s q = s := by
  simp [sendAnswers, hx, hheld, hnone]

/-- The answer of the oldest access is sent, and a NAK that ends the pair ends the sending. -/
theorem sendAnswers_answered {a : HostAnswer} (hans : h.answer = some a) (n : Nat) :
    sendAnswers (n + 1) s q =
      if a.fatal then qpError (a.outs.foldl State.porchOut (s.modQp q (fun y => { y with held := y.held.drop 1 }))) q causeNakSent
      else sendAnswers n (a.outs.foldl State.porchOut (s.modQp q (fun y => { y with held := y.held.drop 1 }))) q := by
  simp [sendAnswers, hx, hheld, hans]

end

/-- A flagged write and a message pass nothing that waits for its answer. -/
theorem answered_of_mayPass {before : List HeldHost} {h : HeldHost} (hpass : mayPass before h = true) (hlast : h.imm = true ∨ h.msg.isSome = true)
    {b : HeldHost} (hb : b ∈ before) : b.answer.isSome = true := by
  have hor : (h.imm || h.msg.isSome) = true := by simpa using hlast
  have hempty : before.filter (fun b => b.answer.isNone) = [] := by
    unfold mayPass at hpass
    extract_lets waiting at hpass
    rw [if_pos hor] at hpass
    obtain ⟨-, hwaiting⟩ := Bool.and_eq_true_iff.mp hpass
    exact List.isEmpty_iff.mp hwaiting
  simpa [Option.isSome_iff_ne_none] using List.filter_eq_nil_iff.mp hempty b hb

/-! ## The statement -/

/-- Settles O53, by what a try of each kind of access answers, the order of the answers, and the bytes that a write leaves alone. -/
theorem hostAccessesFollowTable5 : Obligations.HostAccessesFollowTable5 := by
  refine ⟨?notAdmitted, ?write, ?read, ?message, ?answers, ?order, ?outside⟩
  case notAdmitted =>
    intro s k h hmsg hadm
    exact hostTry_not_admitted hmsg hadm
  case write =>
    intro s k h w hmsg hadm hread hoff
    have htry := hostTry_write hmsg hadm hread hoff
    exact ⟨fun hno => htry.trans (pieceOutcome_refused hno), fun hyes hwait => htry.trans (pieceOutcome_held hyes hwait),
      fun hyes hgo => htry.trans (pieceOutcome_performed hyes hgo)⟩
  case read =>
    intro s k h w n hmsg hadm hread hoff
    have htry := @hostTry_read s k h hmsg w n hadm hread hoff
    refine ⟨fun hno => (htry rfl).trans (pieceOutcome_refused hno), fun hyes hgo => ⟨fun t bs hbytes => ?_, fun t bs sent hbytes hsent hpmtu => ?_⟩,
      fun hyes hwait => (htry rfl).trans (pieceOutcome_held hyes hwait)⟩
    · exact (htry hbytes).trans (pieceOutcome_performed hyes hgo)
    · rw [hsent, hpmtu]
      exact (htry hbytes).trans (pieceOutcome_performed hyes hgo)
  case message =>
    intro s k h m hm
    exact hostTry_message hm s k
  case answers =>
    intro n s q x h rest hx hheld
    refine ⟨fun hnone => sendAnswers_unanswered hx hheld hnone n, fun a hans hgo => ?_, fun a hans hfatal => ?_⟩
    · rw [sendAnswers_answered hx hheld hans, if_neg (by simp [hgo])]
    · rw [sendAnswers_answered hx hheld hans, if_pos hfatal]
      rfl
  case order =>
    intro before h hpass hlast b hb
    exact answered_of_mayPass hpass hlast hb
  case outside =>
    intro s q off bs x hq hx
    exact hostWrite_hbm_outside s q off bs hq hx

end Sys2Proof.Machine
end

section
/-! PROOF. The codes of a float format (R28, R29, R34): what a code decodes to is encoded as the same code, whatever the widths, the bias and
the special encodings of the format. -/

namespace Sys2Proof.Machine

variable (f : FloatFmt)

/-! ## The fields of a code -/

/-- The bit of a truth value of a bit is that bit. -/
theorem b2n_beq_one {n : Nat} (h : n < 2) : b2n (n == 1) = n := by
  match n, h with
  | 0, _ => rfl
  | 1, _ => rfl

/-- A code of a format's width is its sign bit, its exponent field and its fraction, each at its place. -/
theorem code_eq_fields {code : Nat} (h : code < 2 ^ (1 + f.expBits + f.fracBits)) :
    b2n (code / 2 ^ (f.fracBits + f.expBits) % 2 == 1) * 2 ^ (f.expBits + f.fracBits)
      + code / 2 ^ f.fracBits % 2 ^ f.expBits * 2 ^ f.fracBits + code % 2 ^ f.fracBits = code := by
  have hsign : code / 2 ^ (f.fracBits + f.expBits) < 2 :=
    Nat.div_lt_of_lt_mul (by rwa [← Nat.pow_succ, show (f.fracBits + f.expBits).succ = 1 + f.expBits + f.fracBits by omega])
  have hlow := Nat.div_add_mod code (2 ^ f.fracBits)
  have hhigh := Nat.div_add_mod (code / 2 ^ f.fracBits) (2 ^ f.expBits)
  rw [Nat.div_div_eq_div_mul, ← Nat.pow_add] at hhigh
  rw [Nat.mod_eq_of_lt hsign, b2n_beq_one hsign]
  calc code / 2 ^ (f.fracBits + f.expBits) * 2 ^ (f.expBits + f.fracBits)
        + code / 2 ^ f.fracBits % 2 ^ f.expBits * 2 ^ f.fracBits + code % 2 ^ f.fracBits
      = 2 ^ f.fracBits * (2 ^ f.expBits * (code / 2 ^ (f.fracBits + f.expBits)) + code / 2 ^ f.fracBits % 2 ^ f.expBits)
        + code % 2 ^ f.fracBits := by rw [Nat.pow_add]; ring
    _ = code := by rw [hhigh, hlow]

/-! ## What a code decodes to -/

/-- The finite number that a sign, an exponent field and a fraction stand for: a subnormal where the exponent field is 0 (R28). -/
def FloatFmt.fieldsNum (neg : Bool) (ex frac : Nat) : Num :=
  if ex = 0 then .fin neg frac (1 - f.bias - f.fracBits) else .fin neg (2 ^ f.fracBits + frac) ((ex : Int) - f.bias - f.fracBits)

/-- A code decodes to NaN, to the finite number of its fields, or, where these are those of an infinity, to that infinity. -/
theorem decodeFloat_cases (code : Nat) :
    decodeFloat f code = .nan ∨
    decodeFloat f code = f.fieldsNum (code / 2 ^ (f.fracBits + f.expBits) % 2 == 1) (code / 2 ^ f.fracBits % 2 ^ f.expBits) (code % 2 ^ f.fracBits) ∨
    (code / 2 ^ f.fracBits % 2 ^ f.expBits = 2 ^ f.expBits - 1 ∧ code % 2 ^ f.fracBits = 0 ∧
      decodeFloat f code = .inf (code / 2 ^ (f.fracBits + f.expBits) % 2 == 1)) := by
  unfold decodeFloat
  extract_lets frac ex neg value
  cases f.special with
  | ieee =>
    by_cases hex : ex = 2 ^ f.expBits - 1
    · by_cases hfrac : frac = 0
      · exact .inr (.inr ⟨hex, hfrac, by rw [if_pos hex, if_pos hfrac]⟩)
      · exact .inl (by rw [if_pos hex, if_neg hfrac])
    · exact .inr (.inl (if_neg hex))
  | nanOnly =>
    by_cases hnan : ex = 2 ^ f.expBits - 1 ∧ frac = 2 ^ f.fracBits - 1
    · exact .inl (if_pos hnan)
    · exact .inr (.inl (if_neg hnan))
  | none => exact .inr (.inl rfl)

/-! ## How a number is encoded -/

/-- A magnitude of fewer bits than a normal one, at the lowest exponent, is encoded with exponent field 0. -/
theorem encodeFloat_subnormal (neg : Bool) {m : Nat} (hm : m < 2 ^ f.fracBits) :
    encodeFloat f (.fin neg m (1 - f.bias - f.fracBits)) = b2n neg * 2 ^ (f.expBits + f.fracBits) + m := by
  by_cases hzero : m = 0
  · simp [encodeFloat, hzero]
  · have hlog : Nat.log2 m < f.fracBits := (Nat.log2_lt hzero).mpr hm
    have hq : max ((Nat.log2 m : Int) + (1 - f.bias - f.fracBits) - f.fracBits) (1 - f.bias - f.fracBits) = 1 - f.bias - f.fracBits :=
      max_eq_right (by omega)
    simp [encodeFloat, hzero, hq, hm]

/-- A magnitude with the leading bit of a normal one is encoded with its exponent field and the bits below the leading one. -/
theorem encodeFloat_normal (neg : Bool) {ex frac : Nat} (hex : 0 < ex) (hfrac : frac < 2 ^ f.fracBits) :
    encodeFloat f (.fin neg (2 ^ f.fracBits + frac) ((ex : Int) - f.bias - f.fracBits)) =
      b2n neg * 2 ^ (f.expBits + f.fracBits) + ex * 2 ^ f.fracBits + frac := by
  have hpos : 2 ^ f.fracBits + frac ≠ 0 := by have := Nat.two_pow_pos f.fracBits; omega
  have hlog : Nat.log2 (2 ^ f.fracBits + frac) = f.fracBits :=
    (Nat.log2_eq_iff hpos).mpr ⟨Nat.le_add_right .., by rw [Nat.pow_succ]; omega⟩
  have hq : max ((f.fracBits : Int) + ((ex : Int) - f.bias - f.fracBits) - f.fracBits) (1 - f.bias - f.fracBits) =
      (ex : Int) - f.bias - f.fracBits := by omega
  have hfield : (((ex : Int) - f.bias - f.fracBits) - (1 - f.bias - f.fracBits)).toNat = ex - 1 := by omega
  have hone : ex * 2 ^ f.fracBits = (ex - 1) * 2 ^ f.fracBits + 2 ^ f.fracBits := by
    rw [← Nat.succ_mul, Nat.succ_eq_add_one, Nat.sub_add_cancel hex]
  simp only [encodeFloat, if_neg hpos, hlog, hq, hfield, le_refl, if_true, sub_self, Int.toNat_zero, pow_zero, mul_one,
    if_neg (Nat.not_lt.mpr (Nat.le_add_right (2 ^ f.fracBits) frac))]
  omega

/-- The number of three fields is encoded as these fields. -/
theorem encodeFloat_fieldsNum (neg : Bool) (ex : Nat) {frac : Nat} (hfrac : frac < 2 ^ f.fracBits) :
    encodeFloat f (f.fieldsNum neg ex frac) = b2n neg * 2 ^ (f.expBits + f.fracBits) + ex * 2 ^ f.fracBits + frac := by
  by_cases hex : ex = 0
  · rw [FloatFmt.fieldsNum, if_pos hex, encodeFloat_subnormal f neg hfrac, hex, Nat.zero_mul, Nat.add_zero]
  · rw [FloatFmt.fieldsNum, if_neg hex, encodeFloat_normal f neg (Nat.pos_of_ne_zero hex) hfrac]

/-! ## The statement -/

/-- In every format, a code of its width that is not a NaN's is the encoding of what it decodes to. -/
theorem encodeFloat_decodeFloat {code : Nat} (h : code < 2 ^ (1 + f.expBits + f.fracBits)) :
    decodeFloat f code = .nan ∨ encodeFloat f (decodeFloat f code) = code := by
  have hcode := code_eq_fields f h
  obtain hnan | hfin | ⟨hex, hfrac, hinf⟩ := decodeFloat_cases f code
  · exact .inl hnan
  · right
    rw [hfin, encodeFloat_fieldsNum f _ _ (Nat.mod_lt _ (Nat.two_pow_pos _)), hcode]
  · right
    rw [hex, hfrac] at hcode
    rw [hinf]
    exact hcode

/-- Settles O24: the round trip holds in every format, so in the eleven of the statement. -/
theorem floatCodesRoundTrip : Obligations.FloatCodesRoundTrip := fun f _ _ h => encodeFloat_decodeFloat f h

end Sys2Proof.Machine
end

section
/-! PROOF. INT8 arithmetic (R38) and the conversion of a NaN to INT8 (R42, R45). -/

namespace Sys2Proof.Machine

/-! ## Integers held as numbers -/

@[simp] theorem signedMag_natAbs (v : Int) : signedMag (decide (v < 0)) v.natAbs = v := by
  by_cases h : v < 0
  · simp only [signedMag, h, decide_true, if_true]
    omega
  · simp only [signedMag, h, decide_false, Bool.false_eq_true, if_false]
    omega

@[simp] theorem numInt_ofInt (v : Int) : numInt (Num.ofInt v) = v := by
  simp [numInt, Num.ofInt, Num.nearestInt]

/-- The accumulator code of an integer is its 40 bits. -/
@[simp] theorem accCode_ofInt (v : Int) : accCode true (Num.ofInt v) = BitVec.ofInt 40 v := by
  simp [accCode]

/-! ## The exact sum of products -/

/-- The tile result of integers is the sum of their products. -/
theorem intOutput_ofInt (xs ws : List Int) :
    intOutput (xs.map Num.ofInt) (ws.map Num.ofInt) = ((xs.zip ws).map (fun q => q.1 * q.2)).sum := by
  simp [intOutput, List.zip_map, List.foldl_map, List.sum_eq_foldl]

/-- A product of two INT8 values lies within 2^14 of zero. -/
theorem int8_mul_bounds {x w : Int} (hx : -128 ≤ x ∧ x ≤ 127) (hw : -128 ≤ w ∧ w ≤ 127) : -2 ^ 14 ≤ x * w ∧ x * w ≤ 2 ^ 14 := by
  constructor <;> nlinarith

/-- A tile result of INT8 values lies within 2^14 times the number of its terms. -/
theorem intOutput_int8_bounds {xs ws : List Int} (hx : ∀ x ∈ xs, -128 ≤ x ∧ x ≤ 127) (hw : ∀ w ∈ ws, -128 ≤ w ∧ w ≤ 127) :
    -(2 ^ 14 * (xs.length : Int)) ≤ intOutput (xs.map Num.ofInt) (ws.map Num.ofInt) ∧
      intOutput (xs.map Num.ofInt) (ws.map Num.ofInt) ≤ 2 ^ 14 * (xs.length : Int) := by
  have hterms : ∀ v ∈ (xs.zip ws).map (fun q => q.1 * q.2), -2 ^ 14 ≤ v ∧ v ≤ 2 ^ 14 := by
    intro v hv
    obtain ⟨q, hq, rfl⟩ := List.mem_map.mp hv
    obtain ⟨hqx, hqw⟩ := List.of_mem_zip hq
    exact int8_mul_bounds (hx _ hqx) (hw _ hqw)
  have hlow := List.card_nsmul_le_sum _ _ (fun v hv => (hterms v hv).1)
  have hhigh := List.sum_le_card_nsmul _ _ (fun v hv => (hterms v hv).2)
  rw [List.length_map, List.length_zip, nsmul_eq_mul] at hlow hhigh
  rw [intOutput_ofInt]
  omega

/-! ## A row passed on, and accumulation -/

/-- The values of a computation over a list are those of its elements. -/
@[simp] theorem Fl.mapList_val {α β : Type} (g : α → Fl β) (l : List α) : (Fl.mapList g l).val = l.map (fun a => (g a).val) := by
  induction l with
  | nil => rfl
  | cons a l ih => simp [Fl.mapList, ih]

/-- The elements of a list beside their positions, taken without these, are the list. -/
theorem map_fst_zip_range {α β : Type} (g : α → β) (l : List α) {n : Nat} (hn : l.length = n) :
    (l.zip (List.range n)).map (fun p => g p.1) = l.map g := by
  calc (l.zip (List.range n)).map (fun p => g p.1)
      = ((l.zip (List.range n)).map Prod.fst).map g := List.map_map.symm
    _ = l.map g := by rw [List.map_fst_zip (by simp [hn])]

/-- What a row passed on without errors of the array holds: the codes of its tile results. -/
theorem rowOut_pass_out (t1 int : Bool) (ops : List Operands) (old : List (BitVec 40)) :
    (rowOut t1 int .pass ops old []).out = ops.map (fun o => accCode int (narrowOutput t1 int o).val) := by
  have h := map_fst_zip_range (accCode int) (Fl.mapList (narrowOutput t1 int) ops).val (n := ops.length) (by simp)
  simpa [rowOut, Function.comp_def] using h

/-- The accumulation of two integers is their sum in INT40. -/
theorem accumulate_ofInt (a b : Int) (o : Operands) :
    accumulate false true (Num.ofInt a) o (Num.ofInt b) = (satInt40 (a + b)).map Num.ofInt := by
  simp [accumulate]

/-! ## The statements -/

/-- Settles O26, by what integers held as numbers stand for, and by the bound of a sum over the bound of its terms. -/
theorem int8ProductsAreExact : Obligations.Int8ProductsAreExact := by
  refine ⟨intOutput_ofInt, ?pass, ?accumulation, ?bound⟩
  case pass =>
    intro ops
    simp [rowOut_pass_out, narrowOutput]
  case accumulation =>
    intro a b o
    rw [accumulate_ofInt, satInt40, apply_ite (Fl.map Num.ofInt), apply_ite (Fl.map Num.ofInt)]
    rfl
  case bound =>
    intro xs ws hx hw hlen
    have hsum := intOutput_int8_bounds hx hw
    omega

/-- A NaN converted to INT8 sets invalid, and nan_in beside it: it is an operand consumed (R42). -/
theorem convInt8_nan : convInt8 .nan = ⟨0, flInvalid ||| flNanIn⟩ := rfl

/-- Refutes O25: the statement gives a NaN stored to INT8 the flag invalid alone, and the model's conversion sets nan_in as well. -/
theorem not_int8DestinationSaturates : ¬ Obligations.Int8DestinationSaturates := by
  intro h
  obtain ⟨hnan, -⟩ := h
  rw [convInt8_nan] at hnan
  exact absurd (congrArg Fl.fl hnan) (by decide)

end Sys2Proof.Machine
end

section
/-! PROOF. Fuses only burn: the commands that restart the device keep them or run the steps of a cold start, and every other command keeps
what its operations keep (R81, R363, R441, R443, R446, R456). -/

namespace Sys2Proof.Machine

/-! ## The commands that restart the device -/

/-- POR_N leaves the fuses as they are (R346). -/
theorem porState_fuses (s : State) : (porState s).fuses = s.fuses := by
  obtain ⟨-, hfuses, -⟩ := porState_leaves s
  exact hfuses

theorem execPorAssert_fuseLe {s t : State} (h : execPorAssert s = .next t) : FuseLe s.fuses t.fuses := by
  cases h
  rw [porState_fuses]
  exact .refl _

/-- The steps of a cold start only burn. -/
theorem coldSteps_fuseLe {s : State} (hs : s.boot.safe = false) (i : ColdInputs) : FuseLe s.fuses (coldSteps s i).fuses :=
  (coldSteps_keeps (.refl s) hs i).fuses

theorem execColdStart_fuseLe {i : ColdInputs} {s t : State} (h : execColdStart i s = .next t) : FuseLe s.fuses t.fuses := by
  unfold execColdStart at h
  cases h
  split
  · dsimp only
    split
    · exact porState_fuses s ▸ coldSteps_fuseLe (s := porState s) rfl i
    · exact .refl _
  · exact .refl _

theorem execRailsInRange_fuseLe {s t : State} (h : execRailsInRange s = .next t) : FuseLe s.fuses t.fuses := by
  unfold execRailsInRange at h
  cases h
  split
  · split
    · exact .refl _
    · rename_i hsafe
      exact coldSteps_fuseLe (by simpa using hsafe) _
  · exact .refl _

theorem exec_fuseLe_of_restarts {c : Instr} (hc : restarts c = true) {s t : State} (h : exec c s = .next t) : FuseLe s.fuses t.fuses := by
  cases c with
  | porAssert => exact execPorAssert_fuseLe h
  | coldStart i => exact execColdStart_fuseLe h
  | railsInRange => exact execRailsInRange_fuseLe h
  | _ => nomatch hc

/-! ## Every command and every step -/

theorem exec_fuseLe {c : Instr} {s t : State} (h : exec c s = .next t) : FuseLe s.fuses t.fuses := by
  cases hc : restarts c with
  | true => exact exec_fuseLe_of_restarts hc h
  | false => exact (exec_keeps (.refl s) c hc t h).fuses

/-- Settles O5, by the cases of a step and of the command that it runs. -/
theorem fusesOnlyBurn : Obligations.FusesOnlyBurn := by
  intro s t h
  obtain ⟨-, rfl⟩ | ⟨c, rest, -, hexec⟩ := step_cases h
  · exact .refl _
  · exact exec_fuseLe (s := { s with pending := rest }) hexec

end Sys2Proof.Machine
end

section
/-! PROOF. The machine at reset: every unit is its cold form, repeated, and every list of work or memory is empty. -/

namespace Sys2Proof.Machine

/-- Every counter of a bank at reset is 0 (R460). -/
theorem bankCold_values : ∀ v ∈ Bank.cold.values, v = 0 := List.forall_mem_replicate.mpr (.inr rfl)

/-- Every core of a die at reset has its clock stopped (R193). -/
theorem dieCold_cores : ∀ k ∈ Die.cold.cores, k.awake = false := List.forall_mem_replicate.mpr (.inr rfl)

/-- Settles O8, by the cold form of each unit. -/
theorem resetValues : Obligations.ResetValues := by
  have hctxs : ∀ x ∈ State.reset.ctxs, x.gen = 1 ∧ x.head = 0 := List.forall_mem_replicate.mpr (.inr ⟨rfl, rfl⟩)
  have hfaces : ∀ f ∈ State.reset.faces, f.state = .stopped := List.forall_mem_replicate.mpr (.inr rfl)
  have hdies : ∀ d ∈ State.reset.dies, (∀ k ∈ d.cores, k.awake = false) ∧ d.mismatchW = 0 ∧ d.mismatchE = 0 ∧ d.replayLate = 0 :=
    List.forall_mem_replicate.mpr (.inr ⟨dieCold_cores, rfl, rfl, rfl⟩)
  have hports : ∀ p ∈ State.reset.ports, p.state = .off ∧ p.seenDevice = 0 ∧ p.seenPort = 0 ∧ p.replayCount = 0 ∧ p.downCount = 0 :=
    List.forall_mem_replicate.mpr (.inr ⟨rfl, rfl, rfl, rfl, rfl⟩)
  have hstacks : ∀ k ∈ State.reset.memory.hbmStacks, k.ueCount = 0 ∧ k.ceCount = 0 ∧ k.scrubPass = 0 ∧ k.throttle = 0 :=
    List.forall_mem_replicate.mpr (.inr ⟨rfl, rfl, rfl, rfl⟩)
  have hbanks : ∀ b ∈ State.reset.banks, b.running = false ∧ b.program = 0 ∧ ∀ v ∈ b.values, v = 0 :=
    List.forall_mem_replicate.mpr (.inr ⟨rfl, rfl, bankCold_values⟩)
  exact ⟨rfl, rfl, rfl, rfl, rfl, rfl, rfl, rfl, rfl, rfl, hctxs, hfaces, hdies, hports, hstacks, hbanks, rfl, rfl, rfl, rfl, rfl, rfl, rfl⟩

end Sys2Proof.Machine
end

section
/-! SUPPORT. The Faces: what a read of a Face gives after a change, and what rows, waiting operations and turns do where there is nothing to
do (R59, R63, R69, R71, R74, R78). -/

namespace Sys2Proof.Machine

variable {s : State} {f : Nat} {u : Face → Face}

/-! ## A Face after a change -/

theorem State.modFace_face_same (h : f < s.faces.length) : (s.modFace f u).face f = u (s.face f) := by
  simp [State.face, h]

/-- What a change of a Face leaves of every Face, it leaves of those of the device. -/
theorem State.modFace_face_proj {α : Type} (π : Face → α) (h : ∀ x, π (u x) = π x) (g : Nat) :
    π ((s.modFace f u).face g) = π (s.face g) := by
  simp only [State.face, State.modFace_faces, List.getD_eq_getElem?_getD, List.getElem?_modify]
  cases s.faces[g]? with
  | none => rfl
  | some x =>
    by_cases hg : f = g
    · simp [hg, h]
    · simp [hg]

/-- A change that leaves a Face as it was leaves the state as it was. -/
theorem State.modFace_eq_self (h : u (s.face f) = s.face f) : s.modFace f u = s := by
  have hfaces : s.faces.modify f u = s.faces := by
    refine List.ext_getElem (by simp) fun n _ hn => ?_
    rw [List.getElem_modify]
    split
    · next hfn =>
      subst hfn
      simpa [State.face, hn] using h
    · rfl
  rw [State.modFace, hfaces]

@[simp] theorem noteWork_face (s : State) (f : Nat) (r : ItemRef) (d : Nat) : (noteWork s r d).face f = s.face f := rfl

@[simp] theorem count_face (s : State) (f : Nat) (o : Occ) : (count s o).face f = s.face f := by
  unfold count
  split <;> rfl

/-! ## Nothing in flight, nothing held -/

section
variable (hempty : (s.face f).inFlight = [])
include hempty

theorem cutEnded_of_empty : cutEnded s f = s := State.modFace_eq_self (by
  simp only [hempty, List.filterMap_nil]
  rw [← hempty])

theorem enterRows_of_empty (h : Option Nat) : enterRows h s f = s := by
  simp [enterRows, cutEnded_of_empty hempty, hempty]

theorem enterDie_of_empty (hother : (s.face (f / 2 * 2 + (1 - f % 2))).inFlight = []) : enterDie s f = s := by
  simp only [enterDie, enterRows_of_empty hempty, enterRows_of_empty hother]

theorem wakeFace_of_empty (hheld : (s.face f).pendingOp = none) : wakeFace s f = s := by
  have hwaits : waitingReady s f = none := by simp [waitingReady, nextEntry, hempty, hheld]
  simp [wakeFace, cutEnded_of_empty hempty, hwaits]

end

/-! ## An operation that a Face holds (R78) -/

theorem beginPending_of_none (h : (s.face f).pendingOp = none) : beginPending s f = s := by
  simp [beginPending, h]

/-- A held operation of an unended item begins if it can, and is held on otherwise. -/
theorem beginPending_of_unended {o : FaceOp} {i : Item} (hheld : (s.face f).pendingOp = some o) (hitem : s.item (opItem o) = some i)
    (hover : i.over = false) : beginPending s f =
      if canBegin (atBoundary s f o) f o then beginOp (s.modFace f (fun y => { y with pendingOp := none })) f o else s := by
  simp [beginPending, hheld, hitem, hover]

/-- A Face that holds an operation takes none. -/
theorem chooseTurn_of_held {o : FaceOp} (hheld : (s.face f).pendingOp = some o) (r0 r1 : Option FaceOp) : chooseTurn s f r0 r1 = none := by
  have hready : ∀ sq r, ready s f sq r = false := by
    intro sq r
    cases r <;> simp [ready, hheld]
  simp [chooseTurn, hready]

end Sys2Proof.Machine
end

section
/-! PROOF. FACE_OPERATION_ISSUE (R59, R63, R64, R66, R71, R72, R74, R78, R121). -/

namespace Sys2Proof.Machine

/-! ## The Face at its boundary -/

/-- What comes before a turn is chosen: rows enter, the Face wakes, and a running one begins what it holds. -/
def readied (s : State) (f : Nat) : State :=
  let w := wakeFace (enterDie s f) f
  if (w.face f).runs then beginPending w f else w

/-- An operation taken: begun by a Face that runs, kept by one that does not, which ramps up or will (R74, R78). -/
def takeOp (s : State) (f : Nat) (o : FaceOp) : State := match (s.face f).state with
  | .run | .idleDummy => beginOp s f o
  | .stopped => s.modFace f (fun x => { x with state := .rampUp, rampAt := s.now, columns := 1, pendingOp := some o })
  | .rampUp => s.modFace f (fun x => { x with pendingOp := some o })
  | .rampDown => s.modFace f (fun x => { x with restartLatched := true, pendingOp := some o })

section
variable {s : State} {f : FaceIx} {r0 r1 : Option FaceOp} (hlive : live s = true) (hfence : (s.face f.val).fenced = false)
include hlive hfence

theorem exec_faceOperationIssue_of_no_turn (h : chooseTurn (readied s f.val) f.val r0 r1 = none) :
    exec (.faceOperationIssue f r0 r1) s = .next (readied s f.val) := by
  simp only [readied] at h
  simp only [exec, execFaceOperationIssue, hlive, hfence, and_self, if_true, h, readied]

theorem exec_faceOperationIssue_of_turn {sq : Nat} {o : FaceOp} (h : chooseTurn (readied s f.val) f.val r0 r1 = some (sq, o)) :
    exec (.faceOperationIssue f r0 r1) s =
      .next (takeOp ((readied s f.val).modFace f.val (fun x => { x with turn := turnAfter sq o })) f.val o) := by
  simp only [readied] at h
  simp only [exec, execFaceOperationIssue, hlive, hfence, and_self, if_true, h, readied]
  rfl

end

/-! ## What a taken operation does (R63, R66, R74, R78) -/

section
variable {s : State} {f : Nat}

/-- The order of operations does not change a die's Face time. -/
theorem unitNow_nextStamp : unitNow (nextStamp s f).1 f = unitNow s f := by
  simp only [unitNow, nextStamp, State.modDie, State.die, List.getD_eq_getElem?_getD, List.getElem?_modify_eq]
  cases s.dies[f / 2]? <;> rfl

theorem takeOp_of_runs (h : (s.face f).state = .run ∨ (s.face f).state = .idleDummy) (o : FaceOp) : takeOp s f o = beginOp s f o := by
  rcases h with h | h <;> simp [takeOp, h]

theorem takeOp_of_stopped (h : (s.face f).state = .stopped) (o : FaceOp) :
    takeOp s f o = s.modFace f (fun x => { x with state := .rampUp, rampAt := s.now, columns := 1, pendingOp := some o }) := by
  simp [takeOp, h]

theorem takeOp_of_rampUp (h : (s.face f).state = .rampUp) (o : FaceOp) : takeOp s f o = s.modFace f (fun x => { x with pendingOp := some o }) := by
  simp [takeOp, h]

theorem takeOp_of_rampDown (h : (s.face f).state = .rampDown) (o : FaceOp) :
    takeOp s f o = s.modFace f (fun x => { x with restartLatched := true, pendingOp := some o }) := by
  simp [takeOp, h]

/-- A STREAM taken at its boundary: a stream in flight of the tile that it meets, whose rows enter as they can. -/
theorem beginStream_of_tile {b : State} {p : FaceStream} {tile : Tile} (hb : b = toBoundary s f) (htile : streamTile (b.face f) p = some tile) :
    beginStream s f p = enterDie ((nextStamp b f).1.modFace f (fun y => { y with
      state := .run
      inFlight := y.inFlight ++ [{
        stamp := (nextStamp b f).2, stream := p, tile := tile, takenUnit := unitNow b f,
        perRow := rowCycles (isT1 b p.item.ctx) p.fmt.val tile.load.fmt.val, next := 0, entries := [] }] })) f := by
  subst hb
  simp only [beginStream, htile, unitNow_nextStamp]

end

/-! ## The first row of a stream with swap (R63, R64) -/

theorem swapIn_first {x : InFlight} (hswap : x.stream.swap = true) (hnone : x.entries = []) (hfirst : x.next = 0) (y : Face) (ns unit : Nat) :
    (swapIn y x ns unit).active = some x.tile ∧ (swapIn y x ns unit).shadow = none := by
  have hentered : (x.stream.swap && x.entered == 0) = true := by simp [InFlight.entered, hswap, hnone, hfirst]
  simp only [swapIn, hentered, if_true]
  split <;> exact ⟨rfl, rfl⟩

/-- What a row's entry writes in its Face. -/
theorem enterRow_face {s : State} {f : Nat} (hf : f < s.faces.length) (x : InFlight) (unit : Nat) :
    ∃ ns, ((enterRow s f x unit).face f).active = (swapIn (s.face f) x ns unit).active ∧
      ((enterRow s f x unit).face f).shadow = (swapIn (s.face f) x ns unit).shadow ∧
      ((enterRow s f x unit).face f).freeAt = unit + 40 * x.perRow := by
  refine ⟨(s.die (f / 2)).nsAt unit, ?_⟩
  unfold enterRow
  dsimp only
  split
  · rw [noteWork_face, State.modFace_face_same hf]
    exact ⟨rfl, rfl, rfl⟩
  · rw [count_face, noteWork_face, State.modFace_face_same hf]
    exact ⟨rfl, rfl, rfl⟩

/-! ## The statement -/

/-- Settles O27, by what comes before a turn, what a taken operation does on a Face in each of its states, and what a row's entry writes. -/
theorem facesTakeOperations : Obligations.FacesTakeOperations := by
  intro f r0 r1 s w0 w hlive hfence hlen hw0 hw
  have hready : w = readied s f.val := by subst hw0; exact hw
  refine ⟨?nothing, ?noTurn, ?held, ?turn, ?swap⟩
  case nothing =>
    intro hempty hother hheld
    rw [enterDie_of_empty hempty hother, wakeFace_of_empty hempty hheld] at hw0
    subst hw0
    rw [hw, beginPending_of_none hheld, ite_self]
  case noTurn =>
    intro hnone
    subst hready
    exact exec_faceOperationIssue_of_no_turn hlive hfence hnone
  case held =>
    intro o i hheld hitem hover hruns
    rw [if_pos hruns, beginPending_of_unended hheld hitem hover] at hw
    refine ⟨fun hwait => ?_, fun hgo => by rw [hw, if_pos hgo]⟩
    rw [if_neg (ne_true_of_eq_false hwait)] at hw
    rw [← hw, hready] at hheld ⊢
    exact exec_faceOperationIssue_of_no_turn hlive hfence (chooseTurn_of_held hheld r0 r1)
  case turn =>
    intro sq o v hturn hv
    have hstate : (v.face f.val).state = (w.face f.val).state := hv ▸ State.modFace_face_proj Face.state (fun _ => by rfl) f.val
    have hexec : exec (.faceOperationIssue f r0 r1) s = .next (takeOp v f.val o) := by
      rw [hv, hready]
      exact exec_faceOperationIssue_of_turn hlive hfence (hready ▸ hturn)
    rw [hexec, ← hstate]
    refine ⟨fun p ho hruns => ?load, fun p b tile ho hruns hb htile => ?stream, fun h => ?stopped, fun h => ?rampUp, fun h => ?rampDown⟩
    case load =>
      rw [takeOp_of_runs hruns, ho]
      rfl
    case stream =>
      rw [takeOp_of_runs hruns, ho, beginOp, beginStream_of_tile hb htile]
      rfl
    case stopped => exact congrArg _ (takeOp_of_stopped h o)
    case rampUp => exact congrArg _ (takeOp_of_rampUp h o)
    case rampDown => exact congrArg _ (takeOp_of_rampDown h o)
  case swap =>
    intro x unit hswap hnone hfirst
    obtain ⟨ns, hactive, hshadow, hfree⟩ := enterRow_face (s := s) (f := f.val) (by omega) x unit
    obtain ⟨htile, hnoShadow⟩ := swapIn_first hswap hnone hfirst (s.face f.val) ns unit
    exact ⟨hactive.trans htile, hshadow.trans hnoShadow, hfree⟩

end Sys2Proof.Machine
end

section
/-! PROOF. The ramps of a Face (R75 to R78). -/

namespace Sys2Proof.Machine

section
variable {s : State} {f : FaceIx}

/-! ## RAMP_DOWN_BEGIN (R76, R77) -/

/-- No row is in a Face's array and no LOAD is in progress. -/
def arrayIdle (s : State) (f : Nat) : Bool := (s.face f).inFlight.all (fun x => x.entries.isEmpty) && (s.face f).loading.isNone

theorem arrayIdle_iff {f : Nat} : arrayIdle s f = true ↔ (∀ x ∈ (s.face f).inFlight, x.entries = []) ∧ (s.face f).loading = none := by
  simp [arrayIdle]

/-- The ramp begins if no row has entered by the time the gap is over. -/
theorem exec_rampDownBegin (hlive : live s = true) (hruns : (s.face f.val).runs = true) (hidle : arrayIdle s f.val = true) {t : State}
    (ht : t = enterDie (s.upTo ((s.face f.val).idleFrom (s.die (f.val / 2)) + gapNs s)) f.val) :
    exec (.rampDownBegin f) s = .next (if arrayIdle t f.val then
      t.modFace f.val (fun y => { y with state := .rampDown, rampAt := t.now, columns := 4 }) else t) := by
  subst ht
  unfold arrayIdle at hidle
  simp only [exec, execRampDownBegin, hlive, hruns, hidle, and_self, if_true]
  rfl

/-! ## Steps and ends of ramps (R77, R78) -/

theorem exec_rampColumnStep_down (hup : s.up = true) (hstate : (s.face f.val).state = .rampDown) (hcol : 0 < (s.face f.val).columns) :
    exec (.rampColumnStep f) s = .next ((s.upTo ((s.face f.val).rampAt + 400 * (5 - (s.face f.val).columns))).modFace f.val
      (fun y => { y with columns := y.columns - 1 })) := by
  simp only [exec, execRampColumnStep, hup, hstate, hcol, and_self, if_true, rampStepNs]

theorem exec_rampColumnStep_up (hup : s.up = true) (hstate : (s.face f.val).state = .rampUp) (hcol : (s.face f.val).columns < 5) :
    exec (.rampColumnStep f) s = .next ((s.upTo ((s.face f.val).rampAt + 400 * (s.face f.val).columns)).modFace f.val
      (fun y => { y with columns := y.columns + 1 })) := by
  simp [exec, execRampColumnStep, hup, hstate, hcol, rampStepNs]

/-- A ramp down ends in a stop, or in a ramp up where a restart is latched. -/
def rampedDown (now : Nat) (y : Face) : Face :=
  if y.restartLatched then { y with state := .rampUp, restartLatched := false, rampAt := now, columns := 1 }
  else { y with state := .stopped, columns := 0 }

theorem exec_rampDownComplete (hup : s.up = true) (hstate : (s.face f.val).state = .rampDown) :
    exec (.rampDownComplete f) s = .next ((s.upTo ((s.face f.val).rampAt + 2000)).modFace f.val
      (rampedDown (Nat.max s.now ((s.face f.val).rampAt + 2000)))) := by
  simp only [exec, execRampDownComplete, hup, hstate, and_self, if_true, rampNs, State.upTo_now]
  rfl

/-- The end of a ramp down writes the clock and its own Face. -/
theorem exec_rampDownComplete_face (hup : s.up = true) (hstate : (s.face f.val).state = .rampDown) (hlen : s.faces.length = 64) :
    ∃ t, exec (.rampDownComplete f) s = .next t ∧ t.now = Nat.max s.now ((s.face f.val).rampAt + 2000) ∧
      t.face f.val = rampedDown t.now (s.face f.val) ∧ t = { s with now := t.now, faces := t.faces } ∧
      ∀ g : Nat, g ≠ f.val → t.faces[g]? = s.faces[g]? :=
  ⟨_, exec_rampDownComplete hup hstate, rfl, State.modFace_face_same (by rw [State.upTo_faces]; omega), rfl,
    fun _ hg => List.getElem?_modify_ne _ _ hg.symm⟩

/-- A ramp up has ended: the Face runs with all its columns, and is idle from then on. -/
def rampedUp (s : State) (f : Nat) : State :=
  let t := s.upTo ((s.face f).rampAt + 2000)
  t.modFace f (fun y => { y with state := .run, columns := 5, freeAt := unitNow t f, idleSince := t.now })

/-- At the end of a ramp up rows enter, and what the Face holds begins. -/
theorem exec_rampUpComplete (hlive : live s = true) (hstate : (s.face f.val).state = .rampUp) :
    exec (.rampUpComplete f) s = .next (beginPending (enterDie (rampedUp s f.val) f.val) f.val) := by
  simp only [exec, execRampUpComplete, hlive, hstate, and_self, if_true]
  rfl

@[simp] theorem rampedUp_inFlight (f g : Nat) : ((rampedUp s f).face g).inFlight = (s.face g).inFlight :=
  State.modFace_face_proj Face.inFlight (fun _ => by rfl) g

@[simp] theorem rampedUp_pendingOp (f g : Nat) : ((rampedUp s f).face g).pendingOp = (s.face g).pendingOp :=
  State.modFace_face_proj Face.pendingOp (fun _ => by rfl) g

end

/-! ## The statement -/

/-- Settles O28, by what each of the four commands does to a Face in each state of its ramp. -/
theorem faceRampsStepThroughColumns : Obligations.FaceRampsStepThroughColumns := by
  refine ⟨?begin, ?stepDown, ?stepUp, ?stop, ?restart, ?upIdle, ?upHeld⟩
  case begin =>
    intro f s at_ hlive hruns hload hat
    refine ⟨fun hempty hother => ?_, fun hgone t ht => ?_⟩
    · have hidle : arrayIdle s f.val = true := arrayIdle_iff.mpr ⟨by simp [hempty], hload⟩
      have hstays (t : Nat) : s.upTo t = enterDie (s.upTo t) f.val := (enterDie_of_empty (s := s.upTo t) hempty hother).symm
      rw [exec_rampDownBegin hlive hruns hidle (hstays _), if_pos (show arrayIdle (s.upTo _) f.val = true from hidle), hat]
      rfl
    · have hexec := exec_rampDownBegin hlive hruns (arrayIdle_iff.mpr ⟨hgone, hload⟩) (t := t) (by rw [ht, hat]; rfl)
      refine ⟨fun hnone hfree => ?_, fun ⟨x, hx, hentered⟩ => ?_⟩
      · rw [hexec, if_pos (arrayIdle_iff.mpr ⟨hnone, hfree⟩)]
        rfl
      · rw [hexec, if_neg fun h => hentered ((arrayIdle_iff.mp h).1 x hx)]
  case stepDown =>
    intro f s hup hstate hcol
    exact exec_rampColumnStep_down hup hstate hcol
  case stepUp =>
    intro f s hup hstate hcol
    exact exec_rampColumnStep_up hup hstate hcol
  case stop =>
    intro f s hup hstate hlatched hlen
    have h := exec_rampDownComplete_face hup hstate hlen
    simpa only [rampedDown, hlatched, Bool.false_eq_true, if_false] using h
  case restart =>
    intro f s hup hstate hlatched hlen
    have h := exec_rampDownComplete_face hup hstate hlen
    simpa only [rampedDown, hlatched, if_true] using h
  case upIdle =>
    intro f s hlive hstate hheld hempty hother
    rw [exec_rampUpComplete hlive hstate, enterDie_of_empty (by simpa using hempty) (by simpa using hother),
      beginPending_of_none (by simpa using hheld)]
    rfl
  case upHeld =>
    intro f s u o i hlive hstate hu hheld hitem hover
    rw [exec_rampUpComplete hlive hstate, ← beginPending_of_unended hheld hitem hover, hu]
    rfl

end Sys2Proof.Machine
end

section
/-! PROOF. LOAD_COMPLETE and ROW_EMERGE (R60, R63, R66, R68 to R71, R82, R83, R397, R398, R402). -/

namespace Sys2Proof.Machine

/-! ## LOAD_COMPLETE (R63, R66, R71, R173) -/

/-- A row that an earlier stream has still to emerge writes the tile that a Face loads. -/
def loadBarred (s : State) (f : Nat) (p : FaceLoad) : Bool :=
  (earlierStreams s (f / 2) (s.face f).loadStamp p.item.ctx).any (fun y => (tileSpans p).any (y.willWrite y.next))

/-- The shadow tile filled from the Pantry at the load's end. -/
def tileLoaded (s : State) (f : Nat) (p : FaceLoad) : State :=
  let t := s.upTo ((s.die (f / 2)).nsAt (s.face f).loadAt)
  t.modFace f (fun x => { x with shadow := some (readTile t (f / 2) p), loading := none })

/-- The reads of a tile's rows, counted. -/
def countTile (s : State) (f : Nat) (p : FaceLoad) : State :=
  (List.range p.k).foldl (fun s k => countPantry s (Occ.ofItem s p.item (f / 2) 0x020 (masterFace (f % 2)) s.now) (f / 2)
    (p.base + k * p.stride) (rowBytes p.fmt.val p.n)) s

section
variable {s : State} {f : FaceIx} {p : FaceLoad} (hlive : live s = true) (hload : (s.face f.val).loading = some p)
include hload

theorem exec_loadComplete_of_barred (h : loadBarred s f.val p = true) : exec (.loadComplete f) s = .next s := by
  unfold loadBarred at h
  simp [exec, execLoadComplete, hload, h]

include hlive

theorem exec_loadComplete_of_poison (h : loadBarred s f.val p = false) {w : State} {c : Nat}
    (hmet : facePoison (countTile (tileLoaded s f.val p) f.val p) p.item (f.val / 2) (tileRows p) = (w, some c)) :
    exec (.loadComplete f) s = .next (failItem w p.item c none) := by
  unfold loadBarred at h
  simp only [countTile, tileLoaded] at hmet
  simp [exec, execLoadComplete, hload, hlive, h, hmet]

theorem exec_loadComplete_of_clean (h : loadBarred s f.val p = false) {w : State}
    (hmet : facePoison (countTile (tileLoaded s f.val p) f.val p) p.item (f.val / 2) (tileRows p) = (w, none)) :
    exec (.loadComplete f) s = .next w := by
  unfold loadBarred at h
  simp only [countTile, tileLoaded] at hmet
  simp [exec, execLoadComplete, hload, hlive, h, hmet]

end

/-! ## The next row of a Face (R69, R71) -/

section
variable {s : State} {f : Nat} {bad : NarrowFaults}

theorem emerge_of_empty (hempty : (s.face f).inFlight = []) (hother : (s.face (f / 2 * 2 + (1 - f % 2))).inFlight = []) :
    emerge s f bad = s := by
  simp [emerge, enterDie_of_empty hempty hother, hempty]

variable {x : InFlight} {e : RowEntry} {rest : List InFlight} {es : List RowEntry} {w : State} (hw : w = enterDie s f)
  (hrows : (w.face f).inFlight = x :: rest) (hentered : x.entries = e :: es)
include hw hrows hentered

/-- A row that has entered emerges, once the rows that it follows have. -/
theorem emerge_of_entered : emerge s f bad =
    if emergeWaits w f x then w
    else
      let u := enterDie (w.upTo ((w.die (f / 2)).nsAt (e.unit + cyc faceLatency))) f
      emergeRow u f ((u.face f).inFlight.headD x) e bad := by
  subst hw
  cases rest <;> simp [emerge, hrows, hentered]

end

/-! ## An item's end (R171) -/

/-- A row's item has ended, or is gone. -/
def itemEnded (s : State) (r : ItemRef) : Bool := match s.item r with
  | some i => i.over
  | none => true

theorem itemEnded_iff {s : State} {r : ItemRef} : itemEnded s r = true ↔ s.item r = none ∨ ∃ i, s.item r = some i ∧ i.over = true := by
  unfold itemEnded
  cases s.item r <;> simp

/-! ## What an emerging row reads and gives (R60, R68, R82, R397) -/

section
variable (s : State) (f : Nat) (x : InFlight) (e : RowEntry) (bad : NarrowFaults)

/-- The row's step: it is the next no more, and its item has worked on the die. -/
def rowStepped : State := noteWork (s.modFace f stepRow) x.stream.item (f / 2)

/-- What the row's item meets in the row and in its scales; an ended item meets nothing. -/
def rowMeets : State × Option Nat :=
  if itemEnded s x.stream.item then (s, none)
  else facePoison s x.stream.item (f / 2) ((x.stream.base + x.next * x.stream.stride, x.rowLen) ::
    (if x.groups = 0 then [] else [(x.stream.scaleBase + x.next * x.groups, x.groups)]))

def rowCodes : List Nat :=
  unpackCodes (fmtWidth x.stream.fmt.val) x.tile.load.k (pantryRead s (f / 2) (x.stream.base + x.next * x.stream.stride) x.rowLen)

def rowScales : List Nat :=
  if fmtMX x.stream.fmt.val then (pantryRead s (f / 2) (x.stream.scaleBase + x.next * x.groups) x.groups).map BitVec.toNat else []

/-- The operands of the row's outputs against a tile. -/
def rowOperands (t : Tile) : List Operands :=
  (List.range x.tile.load.n).map (operands (isT1 s x.stream.item.ctx) x.stream.fmt.val (rowCodes s f x) (rowScales s f x) t)

/-- The operands that the check multiplies: the spare's own weights where it has read them (R83). -/
def wideOperands : List Operands := match (s.face f).spare with
  | some t => if t.load = x.tile.load then rowOperands s f x t else rowOperands s f x x.tile
  | none => rowOperands s f x x.tile

def rowGives : RowOut :=
  rowOut (isT1 s x.stream.item.ctx) (x.stream.fmt.val == 0) x.stream.mode (rowOperands s f x x.tile)
    (readAcc s (f / 2) (x.accRow x.next).1 x.tile.load.n) bad

/-- The check has its column's weights when the row emerges, on a Face whose spare is not used by yield. -/
def rowCompared : Bool := !(s.face f).spareYield && decide ((s.face f).checkFrom ≤ e.unit + cyc faceLatency)

/-- The output that the check finds wrong. -/
def rowMismatch : Option Mismatch :=
  if rowCompared s f e then
    checkRow (s.face f) (isT1 s x.stream.item.ctx) (x.stream.fmt.val == 0) (wideOperands s f x) (rowGives s f x bad).tile x.stream.item x.next
  else none

/-- The row as a replay sample (R402). -/
def rowSample (t : State) : Sample :=
  { item := x.stream.item, row := x.next, codes := rowCodes s f x, rowScales := rowScales s f x, narrow := (rowGives s f x bad).tile,
    load := x.tile.load, fmt := x.stream.fmt, t1 := isT1 s x.stream.item.ctx, takenAt := t.now
    quanta := 2 * replayQuanta x.stream.fmt.val x.tile.load }

/-- A row without poison is counted, and goes on by what the check finds. -/
def rowGoesOn : State :=
  let t := rowEvents s f x e.ns x.next (rowCompared s f e)
  match rowMismatch s f x e bad with
  | some m => mismatched t f e.run codeFaceCheck 0x0E m ((s.face f).suspect && decide (e.run < (s.face f).suspectAt + confirmNs t))
  | none => sendRow (takeSample t f e.run (rowSample s f x bad t)) f x (e.unit + cyc faceLatency) (rowGives s f x bad)

theorem emergeRow_eq : emergeRow s f x e bad = match rowMeets (rowStepped s f x) f x with
    | (w, some c) => failItem w x.stream.item c none
    | (v, none) => rowGoesOn v f x e bad := rfl

variable {s f x e bad}

theorem rowMeets_of_ended (h : itemEnded s x.stream.item = true) : rowMeets s f x = (s, none) := if_pos h

theorem rowMeets_of_unended (h : ¬ itemEnded s x.stream.item = true) : rowMeets s f x =
    facePoison s x.stream.item (f / 2) ((x.stream.base + x.next * x.stream.stride, x.rowLen) ::
      (if x.groups = 0 then [] else [(x.stream.scaleBase + x.next * x.groups, x.groups)])) := if_neg h

theorem emergeRow_of_poison {w : State} {c : Nat} (h : rowMeets (rowStepped s f x) f x = (w, some c)) :
    emergeRow s f x e bad = failItem w x.stream.item c none := by
  rw [emergeRow_eq, h]

theorem emergeRow_of_clean {v : State} (h : rowMeets (rowStepped s f x) f x = (v, none)) :
    emergeRow s f x e bad = rowGoesOn v f x e bad := by
  rw [emergeRow_eq, h]

theorem rowGoesOn_of_mismatch {m : Mismatch} (h : rowMismatch s f x e bad = some m) {t : State}
    (ht : t = rowEvents s f x e.ns x.next (rowCompared s f e)) : rowGoesOn s f x e bad =
      mismatched t f e.run codeFaceCheck 0x0E m ((s.face f).suspect && decide (e.run < (s.face f).suspectAt + confirmNs t)) := by
  subst ht
  simp only [rowGoesOn, h]

theorem rowGoesOn_of_agree (h : rowMismatch s f x e bad = none) {t : State} (ht : t = rowEvents s f x e.ns x.next (rowCompared s f e)) :
    rowGoesOn s f x e bad =
      sendRow (takeSample t f e.run (rowSample s f x bad t)) f x (e.unit + cyc faceLatency) (rowGives s f x bad) := by
  subst ht
  simp only [rowGoesOn, h]

end

/-! ## Where a row's outputs go (R68, R171, R402) -/

section
variable {s : State} {f unit : Nat} {x : InFlight} {r : RowOut}

theorem takeSample_of_no_yield (h : (s.face f).spareYield = false) (run : Nat) (y : Sample) : takeSample s f run y = s := by
  simp [takeSample, h]

theorem sendRow_of_ended (h : itemEnded s x.stream.item = true) : sendRow s f x unit r = s := by
  rcases itemEnded_iff.mp h with hnone | ⟨i, hitem, hover⟩
  · simp [sendRow, hnone]
  · simp [sendRow, hitem, hover]

/-- The outputs of an unended item's row go by the mode of its stream. -/
theorem sendRow_of_unended {i : Item} (hitem : s.item x.stream.item = some i) (hover : i.over = false) :
    sendRow s f x unit r = match x.stream.mode with
      | .openAcc | .add => storeAcc (addFlags s i.ref r.fl) i.ref (f / 2) (x.accRow x.next).1 unit r.out
      | .addClose | .pass => sendClosed (addFlags s i.ref r.fl) f x.stream x.next unit r.out := by
  cases hmode : x.stream.mode <;> simp [sendRow, hitem, hover, InFlight.writesAcc, hmode]

end

/-! ## The statement -/

/-- Settles O29, by what a LOAD's end does, when a row emerges, and what an emerging row meets, gives and leaves. -/
theorem rowsAndTilesArrive : Obligations.RowsAndTilesArrive := by
  refine ⟨?load, ?none, ?emerges, ?row, ?sample, ?send⟩
  case load =>
    intro f p s u hlive hload
    refine ⟨fun hbarred => exec_loadComplete_of_barred hload hbarred, fun hfree hu => ?_⟩
    subst hu
    exact ⟨fun w c hmet => exec_loadComplete_of_poison hlive hload hfree hmet, fun w hmet => exec_loadComplete_of_clean hlive hload hfree hmet⟩
  case none =>
    intro f bad s _ hempty hother hheld
    simp only [exec, execRowEmerge, wakeFace_of_empty hempty hheld, emerge_of_empty hempty hother, ite_self]
  case emerges =>
    intro f bad x e rest es s w hlive hw hrows hentered
    have hexec : exec (.rowEmerge f bad) s = .next (emerge (wakeFace s f.val) f.val bad) := by
      simp only [exec, execRowEmerge, hlive, if_true]
    rw [hexec, emerge_of_entered hw hrows hentered]
    refine ⟨fun hwaits => by rw [if_pos hwaits], fun hgo u y hu hy => ?_⟩
    rw [if_neg (by simp [hgo]), hy, hu]
    rfl
  case row =>
    intro f bad x e s u
    refine fun hu => ⟨fun w c hgoes hmet => ?_, fun v hmet => ?_⟩
    · subst hu
      exact emergeRow_of_poison ((rowMeets_of_unended fun h => hgoes (itemEnded_iff.mp h)).trans hmet)
    · have hclean : rowMeets (rowStepped s f.val x) f.val x = (v, none) := by
        subst hu
        rcases hmet with ⟨hended, rfl⟩ | ⟨hgoes, hnone⟩
        · exact rowMeets_of_ended (itemEnded_iff.mpr hended)
        · exact (rowMeets_of_unended fun h => hgoes (itemEnded_iff.mp h)).trans hnone
      refine ⟨fun m hcompared hm => (emergeRow_of_clean hclean).trans (rowGoesOn_of_mismatch ((if_pos hcompared).trans hm) rfl),
        fun hagree => (emergeRow_of_clean hclean).trans (rowGoesOn_of_agree ?_ rfl)⟩
      rcases hagree with hno | hnone
      · exact if_neg (ne_true_of_eq_false hno)
      · exact ite_eq_right_iff.mpr fun _ => hnone
  case sample =>
    intro s f run x hyield
    exact takeSample_of_no_yield hyield run x
  case send =>
    intro s f unit x r
    exact ⟨fun hended => sendRow_of_ended (itemEnded_iff.mpr hended), fun i hitem hover => sendRow_of_unended hitem hover⟩

end Sys2Proof.Machine
end

section
/-! PROOF. The rotating check and the replays (R83, R84, R398, R402 to R404). -/

namespace Sys2Proof.Machine

/-! ## The check goes to the next column (R83) -/

section
variable {s : State} {f run : Nat}

/-- What an advance of the check writes in its Face: the next column, a full rotation where it comes back to column 0, and the spare's weights. -/
theorem advanceCheck_face (hf : f < s.faces.length) {y : Face} (hy : y = (advanceCheck s f run).face f) :
    y.checkCol = (s.face f).checkCol + 1 ∧
    y.rotations = (if (s.face f).checkCol = 3 then (s.face f).rotations + 1 else (s.face f).rotations) ∧
    y.checkSince = run ∧ y.suspect = (s.face f).suspect ∧
    y.spare = (s.face f).active.map (fun v => readTile s (f / 2) v.load) := by
  subst hy
  rw [advanceCheck, State.modFace_face_same hf]
  exact ⟨rfl, rfl, rfl, rfl, rfl⟩

theorem advanceCheck_otherFace {g : Nat} (hg : g ≠ f) : (advanceCheck s f run).faces[g]? = s.faces[g]? :=
  List.getElem?_modify_ne _ _ hg.symm

end

/-- The suspicion of a Face is over (R398). -/
def suspicionEnded (s : State) (f : Nat) : State := s.modFace f (fun y => { y with suspect := false })

theorem suspicionEnded_face {s : State} {f : Nat} (hf : f < s.faces.length) :
    (suspicionEnded s f).face f = { s.face f with suspect := false } := State.modFace_face_same hf

section
variable {s : State} {f : FaceIx} (hlive : live s = true) (hyield : (s.face f.val).spareYield = false) (hfence : (s.face f.val).fenced = false)
include hlive hyield hfence

theorem exec_checkAdvance (hsuspect : (s.face f.val).suspect = false) (hrun : (s.face f.val).checkSince + 62500 ≤ (s.face f.val).runNs) :
    ∃ now, exec (.checkAdvance f) s = .next (advanceCheck (s.upTo now) f.val ((s.face f.val).checkSince + 62500)) := by
  refine ⟨runClock (s.face f.val) ((s.face f.val).checkSince + 62500) s.now, ?_⟩
  simp [exec, execCheckAdvance, hlive, hsuspect, hyield, hfence, checkNs, hrun]

theorem exec_confirmWindowExpiry (hsuspect : (s.face f.val).suspect = true)
    (hrun : (s.face f.val).suspectAt + confirmNs s ≤ (s.face f.val).runNs) :
    ∃ now, exec (.confirmWindowExpiry f) s = .next (advanceCheck (suspicionEnded (s.upTo now) f.val) f.val
      ((s.face f.val).suspectAt + confirmNs s)) := by
  refine ⟨runClock (s.face f.val) ((s.face f.val).suspectAt + confirmNs s) s.now, ?_⟩
  simp [exec, execConfirmWindowExpiry, hlive, hsuspect, hyield, hfence, hrun, suspicionEnded]

end

/-! ## Replays (R402 to R404) -/

/-- The oldest sample of a Face has been replayed: the buffer gives it up, and its item waits for one replay less. -/
def sampleTaken (s : State) (f : Nat) (x : Sample) (rest : List Sample) : State :=
  (s.modFace f (fun z => { z with samples := rest, watch := z.watch - 1 })).modItem x.item (fun i => { i with replays := i.replays - 1 })

section
variable {s : State} {f : FaceIx} {x : Sample} {rest : List Sample} (hlive : live s = true) (hsamples : (s.face f.val).samples = x :: rest)
  (hcores : (s.die (f.val / 2)).sparesFree = 0) (hquanta : x.quanta = 0) (hsoon : s.now ≤ x.takenAt + 4000000)
include hlive hsamples hcores hquanta hsoon

theorem exec_replayComplete_of_agree (hagree : replayRow (sampleTaken s f.val x rest) f.val x = none) :
    exec (.replayComplete f) s = .next ((sampleTaken s f.val x rest).modFace f.val
      (fun z => { z with lastRotation := s.now, suspect := z.suspect && z.watch != 0 })) := by
  unfold sampleTaken at hagree ⊢
  simp [exec, execReplayComplete, hsamples, hcores, hquanta, hlive, Nat.not_lt.mpr hsoon, hagree]

theorem exec_replayComplete_of_mismatch {m : Mismatch} (hmiss : replayRow (sampleTaken s f.val x rest) f.val x = some m) :
    exec (.replayComplete f) s = .next (mismatched (sampleTaken s f.val x rest) f.val (s.face f.val).runNs codeReplay 0x10 m
      (0 < (s.face f.val).watch)) := by
  unfold sampleTaken at hmiss ⊢
  simp [exec, execReplayComplete, hsamples, hcores, hquanta, hlive, Nat.not_lt.mpr hsoon, hmiss]

end

/-! ## The statement -/

/-- Settles O30, by what an advance of the check writes, and by what a replay that agrees and one that does not leave. -/
theorem checksRotate : Obligations.ChecksRotate := by
  refine ⟨?advance, ?confirm, ?replay⟩
  case advance =>
    intro f s hlive hsuspect hyield hfence hrun hlen
    obtain ⟨now, hexec⟩ := exec_checkAdvance hlive hyield hfence hsuspect hrun
    obtain ⟨hcol, hrotations, hsince, hsame, hspare⟩ := advanceCheck_face (s := s.upTo now) (f := f.val) (by rw [State.upTo_faces]; omega) rfl
    exact ⟨_, hexec, hcol, hrotations, hsince, hsame.trans hsuspect, hspare, rfl, fun g hg => advanceCheck_otherFace hg⟩
  case confirm =>
    intro f s hlive hsuspect hyield hfence hrun hlen
    obtain ⟨now, hexec⟩ := exec_confirmWindowExpiry hlive hyield hfence hsuspect hrun
    have hcleared := suspicionEnded_face (s := s.upTo now) (f := f.val) (by rw [State.upTo_faces]; omega)
    obtain ⟨hcol, -, -, hsame, -⟩ := advanceCheck_face (s := suspicionEnded (s.upTo now) f.val) (f := f.val)
      (run := (s.face f.val).suspectAt + confirmNs s) (by simp [suspicionEnded, hlen]) rfl
    rw [hcleared] at hcol hsame
    exact ⟨_, hexec, hsame, hcol, rfl, fun g hg => (advanceCheck_otherFace hg).trans (List.getElem?_modify_ne _ _ hg.symm)⟩
  case replay =>
    intro f x rest s u hlive hsamples hlen hcores hquanta hsoon hu
    obtain rfl : u = sampleTaken s f.val x rest := hu
    exact ⟨exec_replayComplete_of_agree hlive hsamples hcores hquanta hsoon,
      fun m => exec_replayComplete_of_mismatch hlive hsamples hcores hquanta hsoon⟩

end Sys2Proof.Machine
end

section
/-! PROOF. Rounds of the scheduler on the sequencers, the Benches and the engines (R116, R178 to R182, R199, R200, R239). -/

namespace Sys2Proof.Machine

/-! ## The round of a unit -/

/-- One round of the weighted round-robin on a unit. -/
def unitRound (s : State) : RoundUnit → State
  | .sequencer d sq => sequencerRound s d.val sq.val
  | .bench d => benchRound s d.val
  | .engines l k => engineRound s l.val (k == .tipple)

theorem exec_schedulerRound {s : State} (hlive : live s = true) (u : RoundUnit) : exec (.schedulerRound u) s = .next (unitRound s u) := by
  simp only [exec, execSchedulerRound, hlive, if_true]
  cases u <;> rfl

section
variable {s t : State} {d : Nat} {cs : List Int} {i : Item}

theorem sequencerRound_of_selects {sq : Nat} (hdet : dieDet s d = false) (hfree : sequencerFree s d sq = true)
    (hround : runRound s (offerOf s (chainCandidate s d) (chainStartable s d)) (s.die d).credits = (t, cs, some i)) :
    sequencerRound s d sq = chainStart (t.modDie d (fun x => { x with credits := cs })) d sq i := by
  simp [sequencerRound, hdet, hfree, hround]

/-- A Bench round selects after lost cores have gone back and collective work has taken the cores it needs (R181, R200). -/
theorem benchRound_of_selects {u : State} (hdet : dieDet s d = false) (hu : u = collGrab 32 (giveBack s d) d)
    (hround : runRound u (offerOf u (benchCandidate u d) (benchStartable u d)) (u.die d).benchCredits = (t, cs, some i)) :
    benchRound s d = benchStart (t.modDie d (fun x => { x with benchCredits := cs })) d i := by
  subst hu
  simp [benchRound, hdet, hround]

end

/-- The engines of each kind have credits of their own. -/
theorem engineRound_of_selects {s t : State} {l : Nat} {k : EngineKind} {cs : List Int} {i : Item}
    (hround : runRound s (offerOf s (engineCandidate s l (k == .tipple)) (engineStartable s l))
      (if k = .tipple then (s.landing l).tippleCredits else (s.landing l).haulCredits) = (t, cs, some i)) :
    engineRound s l (k == .tipple) = engineStart { t with landings := t.landings.modify l (fun y =>
      if k = .tipple then { y with tippleCredits := cs } else { y with haulCredits := cs }) } l i := by
  simp [engineRound, hround]

/-! ## A round with nothing to start (R179) -/

/-- Without a startable candidate no partition takes part in the round-robin, and nothing is passed over. -/
theorem runRound_of_ready_nil {s : State} {o : Offer} (hready : o.ready = []) (credits : List Int) :
    runRound s o credits = (s, credits, none) := by
  have hparts : (reserve o).parts = [] := by simp [Offer.parts, reserve, hready]
  simp [runRound, hparts, wrr]

theorem offerOf_ready_nil {s : State} {cand ready : Item → Bool} (hnone : ∀ i ∈ s.items, cand i = false) :
    (offerOf s cand ready).ready = [] := by
  simp only [offerOf, List.filter_filter, List.filter_eq_nil_iff]
  intro i hi
  simp [hnone i hi]

theorem runRound_of_noCandidate {s : State} {cand ready : Item → Bool} (hnone : ∀ i ∈ s.items, cand i = false) (credits : List Int) :
    runRound s (offerOf s cand ready) credits = (s, credits, none) :=
  runRound_of_ready_nil (offerOf_ready_nil hnone) credits

theorem candidate_of_notQueued {i : Item} (hstage : i.stage ≠ .queued) (s : State) : candidate s i = false := by
  simp [candidate, hstage]

theorem chainCandidate_of_notQueued {i : Item} (hstage : i.stage ≠ .queued) (s : State) (d : Nat) : chainCandidate s d i = false := by
  simp [chainCandidate, candidate_of_notQueued hstage]

/-- Besides what is queued only an UPDATE that waits for its cores is a candidate for the Benches (R133). -/
theorem benchCandidate_of_notQueued {i : Item} (hstage : i.stage ≠ .queued) (hwait : i.waitFor ≠ .cores) (s : State) (d : Nat) :
    benchCandidate s d i = false := by
  simp [benchCandidate, candidate_of_notQueued hstage, wantsCores, hwait]

theorem engineCandidate_of_notQueued {i : Item} (hstage : i.stage ≠ .queued) (s : State) (l : Nat) (tipple : Bool) :
    engineCandidate s l tipple i = false := by
  simp [engineCandidate, candidate_of_notQueued hstage]

theorem giveBack_of_noLoss {s : State} {d : Nat} (hloss : (s.die d).lossOrder = []) : giveBack s d = s := by
  simp [giveBack, hloss]

theorem collGrab_of_noNeed {s : State} {d : Nat} (hneed : collNeed s d = 0) : ∀ n, collGrab n s d = s
  | 0 => rfl
  | n + 1 => by simp [collGrab, collWants, hneed]

section
variable {s : State} (hidle : ∀ i ∈ s.items, i.stage ≠ .queued ∧ i.waitFor ≠ .cores)
include hidle

theorem sequencerRound_of_idle (d sq : Nat) : sequencerRound s d sq = s := by
  simp only [sequencerRound, runRound_of_noCandidate (fun i hi => chainCandidate_of_notQueued (hidle i hi).1 s d), ite_self]

theorem benchRound_of_idle {d : Nat} (hloss : (s.die d).lossOrder = []) (hneed : collNeed s d = 0) : benchRound s d = s := by
  have hnone (i : Item) (hi : i ∈ s.items) : benchCandidate s d i = false :=
    benchCandidate_of_notQueued (hidle i hi).1 (hidle i hi).2 s d
  simp only [benchRound, giveBack_of_noLoss hloss, collGrab_of_noNeed hneed, runRound_of_noCandidate hnone, ite_self]

theorem engineRound_of_idle (l : Nat) (tipple : Bool) : engineRound s l tipple = s := by
  simp only [engineRound, runRound_of_noCandidate (fun i hi => engineCandidate_of_notQueued (hidle i hi).1 s l tipple)]

theorem unitRound_of_idle (hquiet : ∀ d, (s.die d).lossOrder = [] ∧ collNeed s d = 0) (u : RoundUnit) : unitRound s u = s := by
  cases u with
  | sequencer d sq => exact sequencerRound_of_idle hidle d.val sq.val
  | bench d =>
    obtain ⟨hloss, hneed⟩ := hquiet d.val
    exact benchRound_of_idle hidle hloss hneed
  | engines l k => exact engineRound_of_idle hidle l.val (k == .tipple)

end

/-! ## Deterministic rounds (R182) -/

theorem exec_deterministicRound_sequencer {s : State} {d : DieIx} (hlive : live s = true) (hdet : dieDet s d.val = true) (sq : Fin 2) :
    exec (.deterministicRound (.sequencer d sq)) s = .next (detSequencerRound s d.val sq.val) := by
  simp only [exec, execDeterministicRound, hlive, hdet, if_true]

theorem exec_deterministicRound_bench {s : State} {d : DieIx} (hlive : live s = true) (hdet : dieDet s d.val = true) :
    exec (.deterministicRound (.bench d)) s = .next (detBenchRound s d.val) := by
  simp only [exec, execDeterministicRound, hlive, hdet, if_true]

section
variable {s : State} {d c : Nat} {i : Item}

theorem detSequencerRound_of_turn {sq : Nat} (hfree : sequencerFree s d sq = true)
    (hturn : detTurn s d (s.die d).detNext unstartedChain = some c) (hhead : detHead s c unstartedChain = some i)
    (hcand : chainCandidate s d i = true) (hstarts : chainStartable s d i = true) :
    detSequencerRound s d sq = chainStart (s.modDie d (fun x => { x with detNext := (c + 1) % 48 })) d sq i := by
  simp [detSequencerRound, hfree, hturn, hhead, hcand, hstarts]

theorem detBenchRound_of_turn {u : State} (hu : u = collGrab 32 (giveBack s d) d)
    (hturn : detTurn u d (u.die d).detBenchNext unstartedBench = some c) (hhead : detHead u c unstartedBench = some i)
    (hcand : benchCandidate u d i = true) (hstarts : benchStartable u d i = true) :
    detBenchRound s d = benchStart (u.modDie d (fun x => { x with detBenchNext := (c + 1) % 48 })) d i := by
  subst hu
  simp [detBenchRound, hturn, hhead, hcand, hstarts]

end

/-! ## The statement -/

/-- Settles O19, by the round of each unit where its selection gives an item, and by the empty offer of a device in which no item can start. -/
theorem roundsStartWhatTheySelect : Obligations.RoundsStartWhatTheySelect := by
  refine ⟨?sequencer, ?bench, ?engines, ?idle, ?detSequencer, ?detBench⟩
  case sequencer =>
    intro d sq s t cs i hlive hdet hfree hround
    rw [exec_schedulerRound hlive, unitRound, sequencerRound_of_selects hdet hfree hround]
  case bench =>
    intro d s u t cs i hlive hdet hu hround
    rw [exec_schedulerRound hlive, unitRound, benchRound_of_selects hdet hu hround]
  case engines =>
    intro l k s t cs i hlive hround
    rw [exec_schedulerRound hlive, unitRound, engineRound_of_selects hround]
  case idle =>
    intro u s hlive hidle hquiet
    rw [exec_schedulerRound hlive, unitRound_of_idle hidle hquiet]
  case detSequencer =>
    intro d sq s c i hlive hdet hfree hturn hhead hcand hstarts
    rw [exec_deterministicRound_sequencer hlive hdet, detSequencerRound_of_turn hfree hturn hhead hcand hstarts]
  case detBench =>
    intro d s u c i hlive hdet hu hturn hhead hcand hstarts
    rw [exec_deterministicRound_bench hlive hdet, detBenchRound_of_turn hu hturn hhead hcand hstarts]

end Sys2Proof.Machine
end

section
/-! PROOF. CHAIN, PIN_RETRY and PIN_RELEASE_RETRY (R97, R116, R128, R131, R168, R191, R402). -/

namespace Sys2Proof.Machine

/-! ## The commands on a running chain -/

theorem runningItem_eq_some {s : State} {c seq kind : Nat} {i : Item} (hlive : live s = true) (hitem : s.item ⟨c, seq⟩ = some i)
    (hstage : i.stage = .running) (hkind : kindOf i.words = kind) : runningItem s c seq kind = some i := by
  simp [runningItem, hitem, hlive, hstage, hkind]

section
variable {c : CtxIx} {seq : Nat} {s : State} {i : Item} (hrunning : runningItem s c.val seq kChain = some i)
include hrunning

theorem exec_chain_of_asleep (hawake : coresAwake s i = false) : exec (.chain c seq) s = .next s := by
  simp [exec, execChain, hrunning, hawake]

theorem exec_chain_of_awake (hawake : coresAwake s i = true) : exec (.chain c seq) s = .next (runChain s i) := by
  simp [exec, execChain, hrunning, hawake]

theorem exec_pinRetry (hpin : i.waitFor = .pin) (hawake : coresAwake s i = true) :
    exec (.pinRetry c seq) s = .next (runChain (s.upTo (s.now + 1000)) i) := by
  simp [exec, execPinRetry, hrunning, hpin, hawake]

end

theorem exec_pinReleaseRetry {c : CtxIx} {s : State} (hup : s.up = true) (hwaiting : (s.ctx c.val).releases ≠ []) :
    exec (.pinReleaseRetry c) s = .next (retryReleases (s.upTo (s.now + 1000)) c.val) := by
  simp [exec, execPinReleaseRetry, hup, hwaiting]

/-! ## Lines that are only read or only written keep their bytes (R255) -/

/-- A fold that puts each element at the end of a list and leaves the rest alone. -/
theorem foldl_snoc {σ α : Type} {f : σ × List α → α → σ × List α} (hf : ∀ s out x, f (s, out) x = (s, out ++ [x])) (l : List α) (s : σ)
    (out : List α) : l.foldl f (s, out) = (s, out ++ l) := by
  induction l generalizing out with
  | nil => simp
  | cons x l ih => simp [hf, ih]

@[simp] theorem blurRows_nil (s : State) (as_ : List (Option Nat)) (bs : List (List Byte)) : blurRows s [] as_ bs = (s, bs) := rfl

@[simp] theorem blurWrites_nil (s : State) (ws : List (Nat × List Byte)) : blurWrites s [] ws = (s, ws) := rfl

@[simp] theorem Loaded.blurred_nil (l : Loaded) (done : List Nat) : l.blurred [] done = l := by
  obtain ⟨s, raw, code⟩ := l
  cases raw with
  | none => rfl
  | some ls =>
    simp only [Loaded.blurred, blurRows_nil, ite_self]
    rw [foldl_snoc (fun _ _ _ => rfl), List.nil_append]

/-! ## What a chain does when its LOADs are read -/

/-- The pins that a chain takes: one for each version record that its LOADs name (R127, R128). -/
def chainPins (s : State) (i : Item) : State × Pins :=
  takePins s i.ref ((((chainD i.words).loads.map (chainD i.words).entry).filter tnVersioned).map tnBase).dedup

/-- The LOADs of a chain with its pins. -/
def chainLoads (s : State) (i : Item) (bases : List (Nat × Nat)) : Loaded :=
  readLoads (s.modItem i.ref (fun j => { j with waitFor := .none })) (chainD i.words) i.ref i.die bases

/-- What a chain computes with, its LOADs read. -/
def chainEnv (l : Loaded) (i : Item) : Env :=
  { c := chainD i.words, t1 := isT1 l.s i.ref.ctx, seed := (l.s.partCfg i.partition).seed.toNat, hosts := l.s.cfg.hostWindows,
    loads := loadVals (chainD i.words) (isT1 l.s i.ref.ctx) l }

/-- The rows that a chain stores. -/
def storedRows (i : Item) (e : Env) : List StoreRow := (chainD i.words).storeRows e e.results.val

/-- The bytes that a chain stores. -/
def storedBytes (i : Item) (e : Env) (olds : Olds) : Fl (List (Nat × List Byte)) := (chainD i.words).allBytes e olds (storedRows i e)

/-- The flags and the tile-rows of a chain noted, its stores written, with the code of the first that failed. -/
def writeStores (s : State) (i : Item) (e : Env) (ws : Fl (List (Nat × List Byte))) : State × Option Nat :=
  writeRanges (countTileRows (addFlags s i.ref (e.results.fl ||| ws.fl)) i (chainD i.words)) i.ref i.die ws.val false

/-- A chain whose stores are written has issued all its accesses (R168). -/
def storesIssued (s : State) (i : Item) (ws : List (Nat × List Byte)) : State :=
  releaseIssued (issued ((noteStores s (i.die.getD 0) ws).modItem i.ref (fun j => { j with rowBlocks := (chainD i.words).blocks.length }))
    i.ref) i.ref

/-- A chain's stores from its accumulated rows on, where no line is both read and stored to. -/
def storeChain (s : State) (i : Item) (e : Env) : State :=
  match readOlds s i.ref i.die (chainD i.words) e.t1 (storedRows i e) with
  | (t, _, some code) => failItem t i.ref code none
  | (t, none, none) => t
  | (t, some olds, none) =>
    if storesHeld t i.ref.ctx (storedBytes i e olds).val then t
    else match writeStores t i e (storedBytes i e olds) with
      | (u, some code) => failItem u i.ref code none
      | (u, none) => storesIssued u i (storedBytes i e olds).val

/-! ## The cases of a chain's run (R97, R128, R168, R402) -/

section
variable {s t u : State} {i : Item} {code : Nat}

theorem runChain_of_pinWaits (hpins : chainPins s i = (t, .wait)) : runChain s i = t.modItem i.ref (fun j => { j with waitFor := .pin }) := by
  unfold chainPins at hpins
  simp [runChain, hpins]

theorem runChain_of_pinFails (hpins : chainPins s i = (t, .fail code)) : runChain s i = failItem t i.ref code none := by
  unfold chainPins at hpins
  simp [runChain, hpins]

section
variable {bases : List (Nat × Nat)} {l : Loaded} (hpins : chainPins s i = (t, .ok bases)) (hl : l = chainLoads t i bases)
include hpins hl

theorem runChain_of_loadFails (hcode : l.code = some code) : runChain s i = failItem l.s i.ref code none := by
  unfold chainPins at hpins
  unfold chainLoads at hl
  simp [runChain, hpins, ← hl, hcode]

theorem runChain_of_loadWaits (hcode : l.code = none) (hraw : l.raw = none) : runChain s i = l.s := by
  unfold chainPins at hpins
  unfold chainLoads at hl
  simp [runChain, hpins, ← hl, hcode, hraw]

theorem runChain_of_loaded (hcode : l.code = none) (hraw : l.raw.isSome = true) (hshared : (chainD i.words).sharedBy l = []) :
    runChain s i = storeChain l.s i (chainEnv l i) := by
  obtain ⟨ls, hls⟩ := Option.isSome_iff_exists.mp hraw
  unfold chainPins at hpins
  unfold chainLoads at hl
  simp only [runChain, hpins, ← hl, hcode, hls, hshared, Loaded.blurred_nil, blurWrites_nil]
  rfl

end

section
variable {e : Env} {x : Option Olds}

theorem storeChain_of_oldsFail (holds : readOlds s i.ref i.die (chainD i.words) e.t1 (storedRows i e) = (t, x, some code)) :
    storeChain s i e = failItem t i.ref code none := by
  simp [storeChain, holds]

theorem storeChain_of_oldsWait (holds : readOlds s i.ref i.die (chainD i.words) e.t1 (storedRows i e) = (t, none, none)) :
    storeChain s i e = t := by
  simp [storeChain, holds]

section
variable {olds : Olds} (holds : readOlds s i.ref i.die (chainD i.words) e.t1 (storedRows i e) = (t, some olds, none))
include holds

theorem storeChain_of_held (hheld : storesHeld t i.ref.ctx (storedBytes i e olds).val = true) : storeChain s i e = t := by
  simp [storeChain, holds, hheld]

theorem storeChain_of_writeFails (hheld : storesHeld t i.ref.ctx (storedBytes i e olds).val = false)
    (hwrite : writeStores t i e (storedBytes i e olds) = (u, some code)) : storeChain s i e = failItem u i.ref code none := by
  simp [storeChain, holds, hheld, hwrite]

theorem storeChain_of_written (hheld : storesHeld t i.ref.ctx (storedBytes i e olds).val = false)
    (hwrite : writeStores t i e (storedBytes i e olds) = (u, none)) : storeChain s i e = storesIssued u i (storedBytes i e olds).val := by
  simp [storeChain, holds, hheld, hwrite]

end
end
end

/-! ## The statement -/

/-- Settles O34, by the cases of a chain's run: its pins, its LOADs, its accumulated rows, and its stores, each there, waiting or failing. -/
theorem chainsAndPins : Obligations.ChainsAndPins := by
  refine ⟨?chain, ?retry, ?releases⟩
  case chain =>
    intro c seq s i hlive hitem hstage hkind
    have hrunning : runningItem s c.val seq kChain = some i := runningItem_eq_some hlive hitem hstage hkind
    refine ⟨exec_chain_of_asleep hrunning, fun hawake => ?_⟩
    rw [exec_chain_of_awake hrunning hawake]
    refine ⟨fun v hpins => congrArg _ (runChain_of_pinWaits hpins), fun v code hpins => congrArg _ (runChain_of_pinFails hpins),
      fun v bases l hpins hl => ⟨fun code hcode => congrArg _ (runChain_of_loadFails hpins hl hcode),
        fun hcode hraw => congrArg _ (runChain_of_loadWaits hpins hl hcode hraw), fun hcode hraw hshared e rows he hrows => ?_⟩⟩
    obtain rfl : e = chainEnv l i := he
    obtain rfl : rows = storedRows i (chainEnv l i) := hrows
    rw [runChain_of_loaded hpins hl hcode hraw hshared]
    refine ⟨fun x olds code holds => congrArg _ (storeChain_of_oldsFail holds), fun x holds => congrArg _ (storeChain_of_oldsWait holds),
      fun y olds ws holds hws => ?_⟩
    obtain rfl : ws = storedBytes i (chainEnv l i) olds := hws
    exact ⟨fun hheld => congrArg _ (storeChain_of_held holds hheld), fun hheld =>
      ⟨fun z hwrite => congrArg _ (storeChain_of_written holds hheld hwrite),
        fun z code hwrite => congrArg _ (storeChain_of_writeFails holds hheld hwrite)⟩⟩
  case retry =>
    intro c seq s i hlive hitem hstage hkind hpin hawake
    exact exec_pinRetry (runningItem_eq_some hlive hitem hstage hkind) hpin hawake
  case releases =>
    intro c s hup hwaiting
    exact exec_pinReleaseRetry hup hwaiting

end Sys2Proof.Machine
end

section
/-! PROOF. MARK and HINT items (R131, R165, R166, R258, R259, R388). -/

namespace Sys2Proof.Machine

/-! ## What a candidate's own command finds -/

theorem frontItem_eq_some {s : State} {c seq kind : Nat} {i : Item} (hlive : live s = true) (hitem : s.item ⟨c, seq⟩ = some i)
    (hcand : candidate s i = true) (hkind : kindOf i.words = kind) : frontItem s c seq kind = some i := by
  simp [frontItem, hitem, hlive, hcand, hkind]

theorem markItem_eq_some {s : State} {c seq action : Nat} {i : Item} (hfront : frontItem s c seq kMark = some i)
    (haction : markAction i.words = action) : markItem s c seq action = some i := by
  simp [markItem, hfront, haction]

/-! ## The four actions of a MARK (R131, R166, R258) -/

section
variable {c : CtxIx} {seq : Nat} {s : State} {i : Item}

theorem exec_note (hmark : markItem s c.val seq 0 = some i) :
    exec (.note c seq) s = .next (endItem (startItem s i.ref id) i.ref .done 0 (BitVec.ofNat 32 (bits (markValue i.words) 31 0))) := by
  simp only [exec, execNote, hmark]

theorem exec_pinRelease (hmark : markItem s c.val seq 1 = some i) :
    exec (.pinRelease c seq) s = .next (endItem (releasePins (startItem s i.ref id) c.val) i.ref .done 0 0) := by
  simp only [exec, execPinRelease, hmark]

theorem exec_publish (hmark : markItem s c.val seq 2 = some i) :
    exec (.publish c seq) s = .next (addFlagged (startItem s i.ref id) i.ref (markAddr i.words) (markValue i.words)) := by
  simp only [exec, execPublish, hmark]

theorem exec_wait (hmark : markItem s c.val seq 3 = some i) :
    exec (.wait c seq) s = .next (pollWait ((startItem s i.ref id).modItem i.ref (fun j => { j with waitFor := .value })) i) := by
  simp only [exec, execWait, hmark]

end

/-! ## The reads of a WAIT (R166, R259) -/

section
variable {s : State} {i : Item} {bs : List Byte}

theorem waitRead_of_holds (hholds : waitHolds (markCmp i.words) (wordAt bs 0) (markValue i.words) = true) :
    waitRead s i bs = endItem (acquire s i.ref.ctx none) i.ref .done 0 0 := if_pos hholds

theorem waitRead_of_fails (hfails : waitHolds (markCmp i.words) (wordAt bs 0) (markValue i.words) = false) :
    waitRead s i bs = forgetLine (acquire s i.ref.ctx none) i.ref (markAddr i.words / 64 * 64) := if_neg (by simp [hfails])

theorem pollWait_of_read {v : State} (hread : itemRead s i.ref none (markAddr i.words) 8 = (v, .ok bs)) : pollWait s i = waitRead v i bs := by
  simp only [pollWait, hread]

theorem waitCame_of_inbound (hitem : s.item i.ref = some i) (hstage : i.stage = .running) (hkind : kindOf i.words = kMark)
    (hwait : i.waitFor = .value) (hcame : inboundHas i (markAddr i.words) 8 = true) :
    waitCame s i.ref = waitRead s i (inboundRead i (markAddr i.words) 8) := by
  simp only [waitCame, hitem, hstage, hkind, hwait, hcame, and_self, if_true]

end

theorem State.upTo_of_le {s : State} {t : Nat} (h : s.now ≤ t) : s.upTo t = { s with now := t } :=
  congrArg (fun n => { s with now := n }) (Nat.max_eq_right h)

theorem lt_nextPollAt (now start : Nat) : now < nextPollAt now start := by
  unfold nextPollAt
  omega

theorem exec_markWaitPoll {c : CtxIx} {seq t0 : Nat} {s : State} {i : Item} (hlive : live s = true) (hitem : s.item ⟨c.val, seq⟩ = some i)
    (hstage : i.stage = .running) (hkind : kindOf i.words = kMark) (hwait : i.waitFor = .value) (hstart : i.startAt = some t0) :
    exec (.markWaitPoll c seq) s = .next (pollWait { s with now := nextPollAt s.now t0 } i) := by
  simp [exec, execMarkWaitPoll, hlive, hitem, hstage, hkind, hwait, hstart, State.upTo_of_le (lt_nextPollAt s.now t0).le]

/-- The codes of cmp: EQ, GE and GE_WRAP. -/
theorem waitHolds_codes (w v : W64) :
    waitHolds 0 w v = (w == v) ∧ waitHolds 1 w v = decide (v.toNat ≤ w.toNat) ∧ waitHolds 2 w v = decide (0 ≤ (w - v).toInt) :=
  ⟨rfl, rfl, rfl⟩

/-! ## HINT and its phase (R165, R388) -/

theorem exec_hint {c : CtxIx} {seq : Nat} {s : State} {i : Item} (hfront : frontItem s c.val seq kHint = some i) :
    exec (.hint c seq) s = .next (issued
      (recordHint (startItem s i.ref id) i.ref (hintDuration i.words) (hintPower i.words) (hintLead i.words)) i.ref) := by
  simp only [exec, execHint, hfront]

section
variable {c : CtxIx} {seq : Nat} {s : State} {p : HintPhase} (hphase : hintOf s c.val seq = some p)
include hphase

theorem exec_hintPhaseStart_of_waiting (hup : s.up = true) (hactive : p.active = false) :
    exec (.hintPhaseStart c seq) s = .next (refreshHint (s.upTo p.start)
      (fun h => { h with hints := h.hints.map (fun x => if x.item = p.item then { x with active := true } else x) })) := by
  simp [exec, execHintPhaseStart, hphase, hup, hactive]

theorem exec_hintPhaseStart_of_active (hactive : p.active = true) : exec (.hintPhaseStart c seq) s = .next s := by
  simp [exec, execHintPhaseStart, hphase, hactive]

theorem exec_hintPhaseEnd_of_active (hup : s.up = true) (hactive : p.active = true) :
    exec (.hintPhaseEnd c seq) s = .next (refreshHint (s.upTo p.stop) (fun h => { h with hints := h.hints.filter (fun x => x.item != p.item) })) := by
  simp [exec, execHintPhaseEnd, hphase, hup, hactive]

theorem exec_hintPhaseEnd_of_waiting (hactive : p.active = false) : exec (.hintPhaseEnd c seq) s = .next s := by
  simp [exec, execHintPhaseEnd, hphase, hactive]

end

/-! ## The statement -/

/-- Settles O42, by what each action of a MARK does, by what a read of a WAIT does, and by the two states of a HINT's phase. -/
theorem marksAndHintsActAsTold : Obligations.MarksAndHintsActAsTold := by
  refine ⟨?actions, ?poll, ?read, ?came, waitHolds_codes, ?hint, ?phases⟩
  case actions =>
    intro c seq s i hlive hitem hcand hkind
    have hfront : frontItem s c.val seq kMark = some i := frontItem_eq_some hlive hitem hcand hkind
    exact ⟨fun h => exec_note (markItem_eq_some hfront h), fun h => exec_pinRelease (markItem_eq_some hfront h),
      fun h => exec_publish (markItem_eq_some hfront h), fun h => exec_wait (markItem_eq_some hfront h)⟩
  case poll =>
    intro c seq t0 s i hlive hitem hstage hkind hwait hstart _
    exact exec_markWaitPoll hlive hitem hstage hkind hwait hstart
  case read =>
    intro s v i bs hread
    rw [pollWait_of_read hread]
    exact ⟨waitRead_of_holds, waitRead_of_fails⟩
  case came =>
    intro s i hitem hstage hkind hwait hcame hholds
    rw [waitCame_of_inbound hitem hstage hkind hwait hcame]
    exact waitRead_of_holds hholds
  case hint =>
    intro c seq s i hlive hitem hcand hkind
    exact exec_hint (frontItem_eq_some hlive hitem hcand hkind)
  case phases =>
    intro c seq s p hup hphase
    exact ⟨exec_hintPhaseStart_of_waiting hphase hup, exec_hintPhaseEnd_of_active hphase hup,
      exec_hintPhaseStart_of_active hphase, exec_hintPhaseEnd_of_waiting hphase⟩

end Sys2Proof.Machine
end

section
/-! SUPPORT. A list changed at one place, and a context after a change. -/

namespace Sys2Proof.Machine

/-- Two changes of a list at one place that agree on the element there are one. -/
theorem modify_congr_getD {α : Type} {xs : List α} {n : Nat} {d : α} {f g : α → α} (h : f (xs.getD n d) = g (xs.getD n d)) :
    xs.modify n f = xs.modify n g := by
  refine List.ext_getElem? fun m => ?_
  rw [List.getElem?_modify, List.getElem?_modify]
  rw [List.getD_eq_getElem?_getD] at h
  by_cases hm : n = m
  · subst hm
    cases hx : xs[n]? with
    | none => rfl
    | some x => simpa [hx] using h
  · simp [hm]

theorem State.modCtx_ctx_same {s : State} {c : Nat} {f : Ctx → Ctx} (h : c < s.ctxs.length) : (s.modCtx c f).ctx c = f (s.ctx c) := by
  simp [State.ctx, h]

/-- A change that leaves a context as it was leaves the state as it was. -/
theorem State.modCtx_eq_self {s : State} {c : Nat} {f : Ctx → Ctx} (h : f (s.ctx c) = s.ctx c) : s.modCtx c f = s := by
  have hctxs : s.ctxs.modify c f = s.ctxs.modify c id := modify_congr_getD (d := Ctx.cold) h
  rw [State.modCtx, hctxs, List.modify_id]

end Sys2Proof.Machine
end

section
/-! PROOF. Periods, polls, the control block and intake (R154, R155, R157, R163, R169, R176, R177, R259). -/

namespace Sys2Proof.Machine

/-! ## PERIOD_START and POLL (R154, R155, R177) -/

/-- An operation that changes only items and contexts, and no count of contexts. -/
structure OnlyWork (s t : State) : Prop where
  rest : t = { s with items := t.items, ctxs := t.ctxs }
  ctxs : t.ctxs.length = s.ctxs.length

theorem OnlyWork.refl (s : State) : OnlyWork s s := ⟨rfl, rfl⟩

theorem OnlyWork.trans {a b c : State} (h : OnlyWork a b) (k : OnlyWork b c) : OnlyWork a c := by
  refine ⟨?_, k.ctxs.trans h.ctxs⟩
  rw [k.rest, h.rest]

theorem OnlyWork.foldl {α : Type} {f : State → α → State} (hf : ∀ s x, OnlyWork s (f s x)) (l : List α) (s : State) : OnlyWork s (l.foldl f s) := by
  induction l generalizing s with
  | nil => exact .refl s
  | cons x l ih => exact (hf s x).trans (ih _)

theorem countFold_onlyWork (s : State) (i : Item) (a : Nat) : OnlyWork s (countFold s i a) := ⟨rfl, by simp [countFold]⟩

theorem settleFolds_onlyWork (s : State) (c : Nat) : OnlyWork s (settleFolds s c) :=
  .foldl (fun s a => .foldl (fun s i => countFold_onlyWork s i a) _ s) _ s

theorem prune_onlyWork (s : State) (c : Nat) : OnlyWork s (prune s c) := (settleFolds_onlyWork s c).trans ⟨rfl, rfl⟩

theorem modCtx_onlyWork (s : State) (c : Nat) (f : Ctx → Ctx) : OnlyWork s (s.modCtx c f) := ⟨rfl, by simp⟩

theorem nextPeriodAt_of_defined {s : State} {c : Nat} {k : CtxCfg} (hcfg : s.ctxCfg c = some k) :
    nextPeriodAt s c = if (s.ctx c).periodAt = 0 then 10 * (s.t0 + k.offset) else (s.ctx c).periodAt := by
  simp only [nextPeriodAt, hcfg]

/-- What PERIOD_START writes to its context. -/
def periodBegun (at_ : Nat) (x : Ctx) : Ctx :=
  { x with started := true, periodAt := at_, polls := 0, readPending := true, firstReturned := false, intakeClosed := false, awaiting := false }

theorem exec_periodStart {c : CtxIx} {k : CtxCfg} {s : State} (hlive : live s = true) (hcfg : s.ctxCfg c.val = some k)
    (hstarted : (s.ctx c.val).started = false) : exec (.periodStart c) s =
      .next ((prune (s.upTo (nextPeriodAt s c.val)) c.val).modCtx c.val (periodBegun (nextPeriodAt s c.val))) := by
  simp only [exec, execPeriodStart, hlive, hcfg, hstarted, Option.isSome_some, and_self, if_true]
  rfl

theorem exec_poll {c : CtxIx} {k : CtxCfg} {s : State} (hlive : live s = true) (hcfg : s.ctxCfg c.val = some k)
    (hstarted : (s.ctx c.val).started = true) (hpoll : k.poll ≠ 0) (hbefore : ((s.ctx c.val).polls + 1) * k.poll < k.period) :
    exec (.poll c) s = .next ((s.upTo ((s.ctx c.val).periodAt + 10 * (((s.ctx c.val).polls + 1) * k.poll))).modCtx c.val
      (fun y => { y with polls := y.polls + 1, readPending := true })) := by
  simp [exec, execPoll, hlive, hcfg, hstarted, hpoll, hbefore]

/-- Settles O15, by what the pruning of items at a period's start leaves, and by the branches of POLL. -/
theorem periodStartAndPoll : Obligations.PeriodStartAndPoll := by
  refine ⟨fun c k s hlive hcfg hstarted hlen => ⟨_, exec_periodStart hlive hcfg hstarted, ?_⟩, fun c k s hlive hcfg hstarted hpoll hbefore =>
    exec_poll hlive hcfg hstarted hpoll hbefore⟩
  have hpruned := prune_onlyWork (s.upTo (nextPeriodAt s c.val)) c.val
  have hbegun := hpruned.trans (modCtx_onlyWork _ c.val (periodBegun (nextPeriodAt s c.val)))
  have hctx := State.modCtx_ctx_same (s := prune (s.upTo (nextPeriodAt s c.val)) c.val) (c := c.val) (f := periodBegun (nextPeriodAt s c.val))
    (by rw [hpruned.ctxs, State.upTo_ctxs, hlen]; exact c.isLt)
  rw [hctx, ← nextPeriodAt_of_defined hcfg]
  refine ⟨?_, rfl, rfl, rfl, rfl, rfl, ?_⟩
  · rw [hbegun.rest]; rfl
  · rw [hbegun.rest]; rfl

/-! ## The control block (R155, R157, R176, R259) -/

section
variable {c : CtxIx} {k : CtxCfg} {s u : State} (hlive : live s = true) (hcfg : s.ctxCfg c.val = some k) (hstarted : (s.ctx c.val).started = true)
  (hpending : (s.ctx c.val).readPending = true)
include hlive hcfg hstarted hpending

theorem exec_controlBlockReadReturn_of_held (hread : readBlock s k.ctlBlock = (u, none)) : exec (.controlBlockReadReturn c) s = .next u := by
  simp [exec, execControlBlockReadReturn, hlive, hcfg, hstarted, hpending, hread]

theorem exec_controlBlockReadReturn_of_noData (hread : readBlock s k.ctlBlock = (u, some none)) :
    exec (.controlBlockReadReturn c) s = .next (u.modCtx c.val (fun y => { y with
      readFault := true, taking := false, readPending := false, firstReturned := true, intakeClosed := y.intakeClosed || lastRead y k })) := by
  simp [exec, execControlBlockReadReturn, hlive, hcfg, hstarted, hpending, hread]

end

/-- Settles O16, by the branches of CONTROL_BLOCK_READ_RETURN: held, no data, and the four outcomes of data. -/
theorem controlBlockReadIsActedOn : Obligations.ControlBlockReadIsActedOn := by
  intro c k s hlive hcfg hstarted hpending _
  refine ⟨fun u hread => exec_controlBlockReadReturn_of_held hlive hcfg hstarted hpending hread, fun u hread hlen =>
    ⟨_, exec_controlBlockReadReturn_of_noData hlive hcfg hstarted hpending hread, ?_⟩, ?data⟩
  · have hctx {f : Ctx → Ctx} : (u.modCtx c.val f).ctx c.val = f (u.ctx c.val) := State.modCtx_ctx_same (by rw [hlen]; exact c.isLt)
    rw [hctx]
    exact ⟨rfl, rfl, rfl, rfl, rfl⟩
  case data =>
    intro u ws hread ack gen tail a b w tooFar
    have hexec : exec (.controlBlockReadReturn c) s = .next (
        if ctxResetting w c.val then w.modCtx c.val (fun y =>
          { y with staleGen := y.staleGen || gen != (s.ctx c.val).gen, taking := false, intakeClosed := y.intakeClosed || lastRead y k })
        else if gen ≠ (s.ctx c.val).gen then w.modCtx c.val (fun y =>
          { y with staleGen := true, taking := false, intakeClosed := y.intakeClosed || lastRead y k })
        else if 2 ^ k.ringLog2 < (tail - (s.ctx c.val).head).toNat then w.modCtx c.val (fun y =>
          { y with publishError := true, taking := false, intakeClosed := y.intakeClosed || lastRead y k })
        else runIntake (w.modCtx c.val (fun y => { y with lastTail := tail, taking := true })) c.val k) := by
      simp only [exec, execControlBlockReadReturn, hlive, hcfg, hstarted, hpending, hread, and_self, if_true]
      rfl
    rw [hexec]
    refine ⟨fun hreset => ?_, fun hreset hgen => ?_, fun hreset hgen hfar => ?_, fun hreset hgen hfar => ?_⟩
    · rw [if_pos hreset]
    · rw [if_neg (by simp [hreset]), if_pos hgen]
    · rw [if_neg (by simp [hreset]), if_neg (by simp [hgen]), if_pos (of_decide_eq_true hfar)]
    · rw [if_neg (by simp [hreset]), if_neg (by simp [hgen]), if_neg (of_decide_eq_false hfar)]

/-! ## Intake numbers items (R163) -/

theorem takeCollNo_leaves (s : State) (c : Nat) (ws : List W64) : (takeCollNo s c ws).1.items = s.items ∧ (takeCollNo s c ws).1.ctxs = s.ctxs := by
  unfold takeCollNo
  split
  · exact ⟨rfl, rfl⟩
  · split <;> exact ⟨rfl, rfl⟩

/-- What taking a descriptor in writes to its context. -/
def takenIn (ws : List W64) (pins : List PinEntry) (x : Ctx) : Ctx :=
  { x with nextSeq := x.nextSeq + 1, head := x.head + BitVec.ofNat 32 (ws.length / 8), fetched := [], taken := [], pins := x.pins ++ pins }

theorem takeIn_eq (s : State) (c : Nat) (k : CtxCfg) (ws : List W64) (rs : Recs) : ∃ i pins,
    takeIn s c k ws rs = State.modCtx { (takeCollNo s c ws).1 with items := (takeCollNo s c ws).1.items ++ [i] } c (takenIn ws pins) ∧
    i.ref = ⟨c, (s.ctx c).nextSeq⟩ := ⟨_, _, rfl, rfl⟩

theorem takeIn_numbers {s : State} {c : Nat} (hc : c < s.ctxs.length) (k : CtxCfg) (ws : List W64) (rs : Recs) :
    ∃ i, (takeIn s c k ws rs).items = s.items ++ [i] ∧ i.ref = ⟨c, (s.ctx c).nextSeq⟩ ∧
      ((takeIn s c k ws rs).ctx c).nextSeq = (s.ctx c).nextSeq + 1 := by
  obtain ⟨hitems, hctxs⟩ := takeCollNo_leaves s c ws
  obtain ⟨i, pins, heq, href⟩ := takeIn_eq s c k ws rs
  refine ⟨i, ?_, href, ?_⟩
  · rw [heq, State.modCtx_items, hitems]
  · rw [heq, State.modCtx_ctx_same (by rw [hctxs]; exact hc)]
    simp only [takenIn, State.ctx, hctxs]

theorem advanceGen_nextSeq_mod (x : Ctx) : (advanceGen x).nextSeq % 2 ^ 64 = 0 := Nat.mul_mod_left _ _

/-- Settles O17, by what taking a descriptor in adds to the items and to its context. -/
theorem intakeNumbersItems : Obligations.IntakeNumbersItems :=
  ⟨rfl, advanceGen_nextSeq_mod, fun _ _ k ws rs hc => takeIn_numbers hc k ws rs, fun _ => rfl⟩

/-! ## PERIOD_END (R154, R169, R170, R176, R177, R186) -/

/-- What PERIOD_END writes to its context. -/
def periodLeft (at_ : Nat) (x : Ctx) : Ctx :=
  { x with period := x.period + 1, periodAt := at_, started := false, readPending := false, awaiting := false, taking := false, fetched := [] }

theorem drain_of_drained {s : State} {c : Nat} (h : undrained (s.ctx c) = 0) : drain s c = s := by
  unfold drain
  split
  · rfl
  · simp [h]

theorem endMany_nil {s : State} (h : s.errors.count - s.errors.drained < 16) : endMany s [] = s := by
  simp [endMany, drainDue, Nat.not_le.mpr h]

theorem periodItems_of_over {s : State} (hover : ∀ i ∈ s.items, i.over = true) (c : Nat) : periodItems s c = [] := by
  simp +contextual [periodItems, List.filter_eq_nil_iff, hover]

theorem recordsIncomplete_of_recorded {s : State} (hrecorded : ∀ i ∈ s.items, i.stage = .recorded) (c : Nat) : recordsIncomplete s c = false := by
  simp +contextual [recordsIncomplete, List.any_eq_false, hrecorded]

theorem exec_periodEnd {c : CtxIx} {k : CtxCfg} {s u v : State} (hlive : live s = true) (hcfg : s.ctxCfg c.val = some k)
    (hstarted : (s.ctx c.val).started = true) (hu : u = s.upTo ((s.ctx c.val).periodAt + 10 * k.period))
    (hv : v = (if recordsIncomplete u c.val ∨ (u.ctx c.val).firstReturned = false
      then watchdog (endMany u (((periodItems u c.val).filter (settled u)).map endOf)) c.val else u)) :
    exec (.periodEnd c) s = .next ((drain (endMany v (((periodItems v c.val).filter (settled v)).map endOf ++
      ((periodItems v c.val).filter (fun i => !settled v i)).map (fun i => (i.ref, Status.droppedLate, lateCode v i, lateAux v i)))) c.val).modCtx
        c.val (periodLeft ((s.ctx c.val).periodAt + 10 * k.period))) := by
  subst hv hu
  simp only [exec, execPeriodEnd, hlive, hcfg, hstarted, and_self, if_true]
  rfl

theorem exec_periodEnd_of_quiet {c : CtxIx} {k : CtxCfg} {s u : State} (hlive : live s = true) (hcfg : s.ctxCfg c.val = some k)
    (hstarted : (s.ctx c.val).started = true) (hu : u = s.upTo ((s.ctx c.val).periodAt + 10 * k.period))
    (hitems : ∀ i ∈ u.items, i.stage = .recorded ∧ i.over = true) (hdrained : undrained (u.ctx c.val) = 0)
    (hreturned : (u.ctx c.val).firstReturned = true) (herrors : u.errors.count - u.errors.drained < 16) :
    exec (.periodEnd c) s = .next (u.modCtx c.val (periodLeft ((s.ctx c.val).periodAt + 10 * k.period))) := by
  have hwhole : recordsIncomplete u c.val = false := recordsIncomplete_of_recorded (fun i hi => (hitems i hi).1) _
  have hnone : periodItems u c.val = [] := periodItems_of_over (fun i hi => (hitems i hi).2) _
  rw [exec_periodEnd hlive hcfg hstarted hu (v := u) (by simp [hwhole, hreturned]), hnone]
  simp only [List.filter_nil, List.map_nil, List.append_nil, endMany_nil herrors, drain_of_drained hdrained]

/-- Settles O18, by PERIOD_END as a whole, and by what it finds where every item is recorded: no item to end and no record to drain. -/
theorem periodEndLeavesPeriod : Obligations.PeriodEndLeavesPeriod :=
  ⟨fun _ _ _ hlive hcfg hstarted hitems hdrained hreturned herrors =>
    exec_periodEnd_of_quiet hlive hcfg hstarted rfl hitems hdrained hreturned herrors,
   fun _ _ _ _ _ hlive hcfg hstarted hu hv => exec_periodEnd hlive hcfg hstarted hu hv⟩

end Sys2Proof.Machine
end

section
/-! PROOF. The order in which a round selects (R178). -/

namespace Sys2Proof.Machine

/-! ## The least of a list -/

theorem minOn_eq_none {α : Type} {key : α → Nat} {l : List α} (h : minOn key l = none) : l = [] := by
  cases l with
  | nil => rfl
  | cons a l =>
    rw [minOn] at h
    split at h
    · cases h
    · split at h <;> cases h

theorem minOn_eq_some {α : Type} {key : α → Nat} {l : List α} {x : α} (h : minOn key l = some x) : x ∈ l ∧ ∀ y ∈ l, key x ≤ key y := by
  induction l generalizing x with
  | nil => cases h
  | cons a l ih =>
    rw [minOn] at h
    split at h
    · next hl =>
      cases h
      simp [minOn_eq_none hl]
    · next m hl =>
      obtain ⟨hmem, hle⟩ := ih hl
      split at h <;> cases h
      · next hlt => exact ⟨.tail _ hmem, List.forall_mem_cons.mpr ⟨hlt.le, hle⟩⟩
      · next hge => exact ⟨.head _, List.forall_mem_cons.mpr ⟨le_rfl, fun y hy => (Nat.le_of_not_lt hge).trans (hle y hy)⟩⟩

theorem mem_narrow {α : Type} {key : α → Nat} {l : List α} {x : α} : x ∈ narrow key l ↔ x ∈ l ∧ ∀ y ∈ l, key x ≤ key y := by
  unfold narrow
  split
  · next m hm =>
    obtain ⟨hmem, hle⟩ := minOn_eq_some hm
    simp only [List.mem_filter, beq_iff_eq, and_congr_right_iff]
    exact fun hx => ⟨fun heq => heq ▸ hle, fun hx' => Nat.le_antisymm (hx' m hmem) (hle x hx)⟩
  · next hm => simp [minOn_eq_none hm]

/-- What a key leaves comes before everything else of the list, or ties with what else it leaves. -/
theorem lt_or_mem_narrow {α : Type} {key : α → Nat} {l : List α} {x y : α} (hx : x ∈ narrow key l) (hy : y ∈ l) :
    key x < key y ∨ (key x = key y ∧ y ∈ narrow key l) := by
  obtain ⟨-, hle⟩ := mem_narrow.mp hx
  refine (Nat.lt_or_eq_of_le (hle y hy)).imp_right fun heq => ⟨heq, mem_narrow.mpr ⟨hy, heq ▸ hle⟩⟩

theorem mem_of_mem_narrow {α : Type} {key : α → Nat} {l : List α} {x : α} (h : x ∈ narrow key l) : x ∈ l := (mem_narrow.mp h).1

/-! ## The item that a round selects -/

/-- The priority code of an item's context. -/
def priorityOf (s : State) (i : Item) : Nat := match s.ctxCfg i.ref.ctx with
  | some k => k.priority
  | none => 0

theorem selectItem_of_none_aged {s : State} {l : List Item} (haged : ∀ j ∈ l, j.aged = none) : selectItem s l =
    (narrow (fun i => i.ref.seq) (narrow (fun i => i.ref.ctx) (narrow Item.intake (narrow Item.deadline (narrow (priorityOf s) l))))).head? := by
  have hnone : l.filter (fun i => i.aged.isSome) = [] := List.filter_eq_nil_iff.mpr fun j hj => by simp [haged j hj]
  unfold selectItem
  rw [hnone]
  rfl

/-- Settles O20, by the keys of R178 one after another: what each leaves comes before what it drops. -/
theorem selectedItemIsFirst : Obligations.SelectedItemIsFirst := by
  intro s l i haged hsel
  rw [selectItem_of_none_aged haged] at hsel
  have hseq := List.mem_of_head? hsel
  have hctx := mem_of_mem_narrow hseq
  have hintake := mem_of_mem_narrow hctx
  have hdeadline := mem_of_mem_narrow hintake
  have hpriority := mem_of_mem_narrow hdeadline
  refine ⟨mem_of_mem_narrow hpriority, fun j hj => ?_⟩
  refine (lt_or_mem_narrow hpriority hj).imp_right (And.imp_right fun hj => ?_)
  refine (lt_or_mem_narrow hdeadline hj).imp_right (And.imp_right fun hj => ?_)
  refine (lt_or_mem_narrow hintake hj).imp_right (And.imp_right fun hj => ?_)
  exact (lt_or_mem_narrow hctx hj).imp_right (And.imp_right fun hj => (mem_narrow.mp hseq).2 j hj)

end Sys2Proof.Machine
end

section
/-! PROOF. The Ledger record of an item and its slot (R183, R184, R186, R415). -/

namespace Sys2Proof.Machine

/-- Record n stands in slot n mod ledger_records (R184). -/
def recordWritten (s : State) (i : Item) (k : CtxCfg) : State :=
  deviceWrite s (k.ledgerBase + 32 * ((s.ctx i.ref.ctx).appended.toNat % 2 ^ k.ledgerLog2)) (wordsBytes (recordWords i))

/-- What the append of a record at a time writes to its context. -/
def recordCounted (now : Nat) (x : Ctx) : Ctx :=
  { x with appended := x.appended + 1, oldestAt := if x.appended = x.drained then now else x.oldestAt, appendTimes := x.appendTimes ++ [now] }

/-- An item recorded in the slot of its context's next record. -/
def recordNoted (s w : State) (i : Item) : State :=
  (w.modItem i.ref (fun j => { j with stage := .recorded, slot := (s.ctx i.ref.ctx).appended.toNat })).modCtx i.ref.ctx (recordCounted w.now)

section
variable {s w : State} {i : Item} {k : CtxCfg} (hcfg : s.ctxCfg i.ref.ctx = some k) (hw : w = recordWritten s i k)
include hcfg hw

theorem appendRecord_of_defined : appendRecord s i =
    if k.drainBatch ≤ undrained ((recordNoted s w i).ctx i.ref.ctx) ∨ i.period ≠ (s.ctx i.ref.ctx).period ∨ i.gen ≠ (s.ctx i.ref.ctx).gen ∨
      w.boot.safe = true then drain (recordNoted s w i) i.ref.ctx else recordNoted s w i := by
  subst hw
  simp only [appendRecord, hcfg]
  rfl

theorem appendRecord_of_safe (hsafe : w.boot.safe = true) : appendRecord s i = drain (recordNoted s w i) i.ref.ctx := by
  rw [appendRecord_of_defined hcfg hw, if_pos (.inr (.inr (.inr hsafe)))]

theorem appendRecord_of_waits (hbatch : undrained ((recordNoted s w i).ctx i.ref.ctx) < k.drainBatch) (hperiod : i.period = (s.ctx i.ref.ctx).period)
    (hgen : i.gen = (s.ctx i.ref.ctx).gen) (hsafe : w.boot.safe = false) : appendRecord s i = recordNoted s w i := by
  rw [appendRecord_of_defined hcfg hw, if_neg (by simp [Nat.not_le.mpr hbatch, hperiod, hgen, hsafe])]

end

/-- One more record waits, while the count of those that wait has room for it. -/
theorem undrained_recordCounted {x : Ctx} (h : undrained x + 1 < 2 ^ 32) (now : Nat) : undrained (recordCounted now x) = undrained x + 1 := by
  simp only [undrained, recordCounted] at h ⊢
  bv_omega

/-- Settles O22, by the layout of a record's words, and by when the append of a record starts a drain. -/
theorem recordGoesToItsSlot : Obligations.RecordGoesToItsSlot := by
  refine ⟨fun _ => rfl, fun s i k hcfg hlen hbatch hcount hperiod hgen w hw hctxs hsafe => ?_, fun s i k hcfg _ _ w hw hsafe =>
    appendRecord_of_safe hcfg hw hsafe⟩
  have hctx : (recordNoted s w i).ctx i.ref.ctx = recordCounted w.now (s.ctx i.ref.ctx) := by
    rw [recordNoted, State.modCtx_ctx_same (by simp [hctxs, hlen])]
    simp only [State.ctx, State.modItem_ctxs, hctxs]
  exact appendRecord_of_waits hcfg hw (by rw [hctx, undrained_recordCounted hcount]; exact hbatch) hperiod hgen hsafe

end Sys2Proof.Machine
end

section
/-! PROOF. HAUL items (R168, R236 to R238, R253 to R255). -/

namespace Sys2Proof.Machine

/-! ## What reading ranges gives -/

section
variable {s t : State} {r : ItemRef} {die : Option Nat} {rs : List (Nat × Nat)}

theorem getRanges_of_data {bss : List (List Byte)} (h : itemReads s r die rs = (t, some bss, none)) : getRanges s r die rs = .ok t bss := by
  simp only [getRanges, h]

theorem getRanges_of_wait (h : itemReads s r die rs = (t, none, none)) : getRanges s r die rs = .wait t := by
  simp only [getRanges, h]

theorem getRanges_of_code {x : Option (List (List Byte))} {code : Nat} (h : itemReads s r die rs = (t, x, some code)) :
    getRanges s r die rs = .fail t code := by
  simp only [getRanges, h]

end

/-- What stands in the lines that an item also writes is arbitrary; then the item writes what it makes of the rest (R255). -/
def putBlurred (t : State) (i : Item) (reads dests : List (Nat × Nat)) (bss : List (List Byte))
    (f : List (List Byte) → List (Nat × List Byte)) : State :=
  putRanges (blurReads t reads dests bss).1 i.ref none reads (f (blurReads t reads dests bss).2) false

section
variable {s t : State} {i : Item} {reads dests : List (Nat × Nat)} {f : List (List Byte) → List (Nat × List Byte)}

theorem moveRows_of_data {bss : List (List Byte)} (h : itemReads s i.ref none reads = (t, some bss, none)) :
    moveRows s i reads dests f = putBlurred t i reads dests bss f := by
  simp only [moveRows, getRanges_of_data h]
  rfl

theorem moveRows_of_wait (h : itemReads s i.ref none reads = (t, none, none)) : moveRows s i reads dests f = t := by
  simp only [moveRows, getRanges_of_wait h]

theorem moveRows_of_code {x : Option (List (List Byte))} {code : Nat} (h : itemReads s i.ref none reads = (t, x, some code)) :
    moveRows s i reads dests f = failItem t i.ref code none := by
  simp only [moveRows, getRanges_of_code h]

end

/-- A move that reads nothing only writes. -/
theorem moveRows_nil (s : State) (i : Item) (dests : List (Nat × Nat)) (f : List (List Byte) → List (Nat × List Byte)) :
    moveRows s i [] dests f = putRanges s i.ref none [] (f []) false := rfl

/-! ## The commands of a running HAUL -/

theorem haulItem_eq_some {s : State} {c seq op : Nat} {i : Item} (hrunning : runningItem s c seq kHaul = some i) (hop : (haulD i.words).op = op) :
    haulItem s c seq op = some (i, haulD i.words) := by
  simp [haulItem, hrunning, hop]

section
variable {c : CtxIx} {seq : Nat} {s : State} {i : Item} {d : HaulD}

theorem exec_copy (h : haulItem s c.val seq 0 = some (i, d)) : exec (.copy c seq) s = .next (runCopy s i d) := by
  simp only [exec, execCopy, h]

theorem exec_transpose (h : haulItem s c.val seq 1 = some (i, d)) : exec (.transpose c seq) s = .next (runTranspose s i d) := by
  simp only [exec, execTranspose, h]

theorem exec_gather (h : haulItem s c.val seq 2 = some (i, d)) : exec (.gather c seq) s = .next (runGather s i d) := by
  simp only [exec, execGather, h]

theorem exec_scatter (h : haulItem s c.val seq 3 = some (i, d)) : exec (.scatter c seq) s = .next (runScatter s i d) := by
  simp only [exec, execScatter, h]

theorem exec_fill (h : haulItem s c.val seq 4 = some (i, d)) : exec (.fill c seq) s = .next (runFill s i d) := by
  simp only [exec, execFill, h]

theorem exec_atomic (h : haulItem s c.val seq 5 = some (i, d)) : exec (.atomic c seq) s = .next (runAtomic s i d) := by
  simp only [exec, execAtomic, h]

end

/-! ## Rows that an index names (R238) -/

/-- The rows that the entries of an index list name; an entry 0xFFFFFFFF names an empty one. -/
def namedRows (s : State) (d : HaulD) (base stride : Nat) (ix : List Byte) : List (Nat × Nat) :=
  (rowAddrs s.cfg.hostWindows base stride d.rows d.cols (some (words32 ix))).map (fun a => (a.getD 0, if a.isSome then d.cols else 0))

section
variable {s t : State} {i : Item} {d : HaulD}

theorem runGather_of_data {ix jx bss : List (List Byte)} {w v : State} (hix : itemReads s i.ref none [(d.aux, 4 * d.rows)] = (t, some ix, none))
    (hblur : blurReads t [(d.aux, 4 * d.rows)] (haulDests d) ix = (w, jx)) (hcfg : w.cfg = s.cfg)
    (hrows : readRows w i.ref none (rowAddrs s.cfg.hostWindows d.src d.srcStride d.rows d.cols (some (words32 (jx.headD [])))) d.cols =
      (v, some bss, none)) {src : List (Nat × Nat)} (hsrc : src = namedRows s d d.src d.srcStride (jx.headD [])) :
    runGather s i d = putRanges (blurReads v src (haulDests d) bss).1 i.ref none ((d.aux, 4 * d.rows) :: src)
      (((haulDests d).zip (blurReads v src (haulDests d) bss).2).map (fun p => (p.1.1, p.2))) false := by
  subst hsrc
  simp only [runGather, getRanges_of_data hix, hblur, hcfg, hrows]
  rfl

theorem runScatter_of_data {bss : List (List Byte)} {reads : List (Nat × Nat)}
    (hreads : reads = (d.aux, 4 * d.rows) :: rowRanges d.src d.srcStride d.rows d.cols)
    (hread : itemReads s i.ref none reads = (t, some bss, none)) (hcfg : t.cfg = s.cfg) :
    runScatter s i d = putBlurred t i reads (namedRows s d d.dst d.dstStride (bss.headD [])) bss (fun b =>
      ((b.drop 1).zip (namedRows s d d.dst d.dstStride (b.headD []))).filterMap (fun p => if p.2.2 = 0 then none else some (p.2.1, p.1))) := by
  subst hreads
  simp only [runScatter, getRanges_of_data hread, hcfg]
  rfl

end

/-! ## ATOMIC (R228 to R230, R238) -/

/-- The atomics of an ATOMIC one after another, until one raises a code. -/
def atomicsDone (s : State) (r : ItemRef) (d : HaulD) (es : List (Nat × Nat × Nat)) : State × Option Nat :=
  (es.zip (List.range es.length)).foldl (fun acc e => match acc.2 with
    | some _ => acc
    | none => itemAtomic acc.1 r e.1.1 d.aop e.1.2.1 e.1.2.2 (if d.ret then some (d.aux + e.2 * atomicBytes d.aop) else none)) (s, none)

/-- How an ATOMIC goes on from its atomics: a code ends it, and otherwise all are issued. -/
def atomicEnds (r : ItemRef) (shared : List Nat) (done : State × Option Nat) : State := match done.2 with
  | some k => failItem done.1 r k none
  | none => issued (scrambleShared done.1 r shared) r

theorem runAtomic_of_data {s t w : State} {i : Item} {d : HaulD} {reads targets results : List (Nat × Nat)} {bss ass : List (List Byte)}
    (hreads : reads = rowRanges d.src d.srcStride d.rows d.rowShape.1)
    (htargets : targets = rowRanges d.dst d.dstStride d.rows (d.cols * atomicBytes d.aop))
    (hresults : results = if d.ret then [(d.aux, d.rows * d.cols * atomicBytes d.aop)] else [])
    (hread : itemReads s i.ref none reads = (t, some bss, none)) (hblur : blurReads t reads (targets ++ results) bss = (w, ass)) :
    runAtomic s i d = atomicEnds i.ref (sharedLines reads targets ++ sharedLines results targets)
      (atomicsDone (w.modItem i.ref (fun j => { j with blur := sharedLines (reads ++ targets) results })) i.ref d (atomicElems d ass)) := by
  subst hreads htargets hresults
  simp only [runAtomic, getRanges_of_data hread, hblur]
  rfl

section
variable {s u : State} {r : ItemRef} {a code : Nat} (v cmp : Nat) (ret : Option Nat)

theorem itemAtomic_of_clear (h : writeWay s r none (a, atomicBytes code) = (u, true)) :
    itemAtomic s r a code v cmp ret = issueAtomic u r a code v cmp ret := by
  simp only [itemAtomic, h]

theorem itemAtomic_of_held (h : writeWay s r none (a, atomicBytes code) = (u, false)) : itemAtomic s r a code v cmp ret =
    (stageWrite u r ⟨none, a, List.replicate (atomicBytes code) 0, false, some (code, v, cmp, ret)⟩, none) := by
  simp only [itemAtomic, h]

end

/-! ## The writes of an item that shares no line with its reads (R168, R255) -/

section
variable {t v : State} {r : ItemRef} {reads : List (Nat × Nat)} {ws : List (Nat × List Byte)} (hshared : sharedLines reads (writeSpans ws) = [])
include hshared

theorem putRanges_of_written (h : writeRanges t r none ws false = (v, none)) : putRanges t r none reads ws false = issued v r := by
  simp only [putRanges, hshared, blurWrites_nil, h]

theorem putRanges_of_code {code : Nat} (h : writeRanges t r none ws false = (v, some code)) :
    putRanges t r none reads ws false = failItem v r code none := by
  simp only [putRanges, hshared, blurWrites_nil, h]

end

/-! ## The statement -/

/-- Settles O35, by what each op does with the ranges it has read, by the way of an atomic, and by the writes of an item. -/
theorem haulItemsMove : Obligations.HaulItemsMove := by
  refine ⟨?ops, ?atomics, ?writes⟩
  case ops =>
    intro c seq s i hlive hitem hstage hkind d rows put named
    have hrunning : runningItem s c.val seq kHaul = some i := runningItem_eq_some hlive hitem hstage hkind
    refine ⟨?copy, ?copyWaits, ?copyFails, ?transpose, ?gather, ?scatter, ?fill, ?atomic⟩
    case copy =>
      intro hop t bss hread
      rw [exec_copy (haulItem_eq_some hrunning hop), runCopy, moveRows_of_data hread]
      rfl
    case copyWaits =>
      intro hop t hread
      rw [exec_copy (haulItem_eq_some hrunning hop), runCopy, moveRows_of_wait hread]
    case copyFails =>
      intro hop t x code hread
      rw [exec_copy (haulItem_eq_some hrunning hop), runCopy, moveRows_of_code hread]
    case transpose =>
      intro hop t bss scales turned reads hread
      rw [exec_transpose (haulItem_eq_some hrunning hop), runTranspose, moveRows_of_data hread]
      rfl
    case gather =>
      intro hop t ix w jx v bss hix hblur hcfg hrows
      rw [exec_gather (haulItem_eq_some hrunning hop), runGather_of_data hix hblur hcfg hrows rfl]
      rfl
    case scatter =>
      intro hop t bss hread hcfg
      rw [exec_scatter (haulItem_eq_some hrunning hop), runScatter_of_data rfl hread hcfg]
      rfl
    case fill =>
      intro hop
      rw [exec_fill (haulItem_eq_some hrunning hop), runFill, moveRows_nil]
    case atomic =>
      intro hop reads targets results t bss w ass v code hread hblur hdone
      rw [exec_atomic (haulItem_eq_some hrunning hop), runAtomic_of_data rfl rfl rfl hread hblur]
      have hdone : atomicsDone _ i.ref d (atomicElems d ass) = (v, code) := hdone
      rw [hdone]
      exact ⟨fun h => h ▸ rfl, fun k h => h ▸ rfl⟩
  case atomics =>
    intro s u r a code v cmp ret
    refine ⟨fun h => itemAtomic_of_clear v cmp ret h, fun h => ?_⟩
    rw [itemAtomic_of_held v cmp ret h]
    rfl
  case writes => exact fun t v r reads ws hshared => ⟨putRanges_of_written hshared, fun _ => putRanges_of_code hshared⟩

end Sys2Proof.Machine
end

section
/-! PROOF. Pieces of chain LOADs on the engines, and the engines' clocks (R171, R233 to R236, R392). -/

namespace Sys2Proof.Machine

/-! ## The queue of a Landing -/

section
variable (s : State) (l : Nat) (tipple : Bool) (f g : List (Nat × Piece) → List (Nat × Piece))

theorem modQueue_modQueue : modQueue (modQueue s l tipple f) l tipple g = modQueue s l tipple (g ∘ f) := by
  simp only [modQueue, List.modify_modify_eq]
  cases tipple <;> rfl

/-- A change of a Landing's queue puts a queue in its place. -/
theorem modQueue_eq_put : modQueue s l tipple f = modQueue s l tipple (fun _ => f ((s.landing l).queue tipple)) := by
  refine congrArg (fun ls => { s with landings := ls }) (modify_congr_getD (d := Landing.cold) ?_)
  cases tipple <;> rfl

theorem modQueue_queue (h : l < s.landings.length) : ((modQueue s l tipple f).landing l).queue tipple = f ((s.landing l).queue tipple) := by
  cases tipple <;> simp [modQueue, State.landing, Landing.queue, h]

end

/-! ## LOAD_PIECE_DISPATCH (R171, R234, R235) -/

/-- A piece that arrives and may be sent, with the time. -/
def arrivedPiece (s : State) (l : Nat) (tipple : Bool) : Option Piece → List (Nat × Piece)
  | some p => if pieceOk s l tipple p then [(s.now, p)] else []
  | none => []

/-- The chain of a waiting piece has not ended. -/
def pieceAlive (s : State) (q : Nat × Piece) : Bool := match s.item q.2.item with
  | some i => !i.over
  | none => false

/-- The pieces that wait at a Landing once one may have arrived. -/
def waitingPieces (s : State) (l : Nat) (tipple : Bool) (arrival : Option Piece) : List (Nat × Piece) :=
  ((s.landing l).queue tipple ++ arrivedPiece s l tipple arrival).filter (pieceAlive s)

/-- The first waiting piece given to an engine. -/
def givePiece (s : State) (l : Nat) (tipple : Bool) (e : Nat) (p : Piece) (rest : List (Nat × Piece)) : State :=
  modEngines (modQueue s l tipple (fun _ => rest)) l tipple (fun es => es.modify e (fun x => { x with busy := some p.item, piece := some p, clock := true }))

/-- LOAD_PIECE_DISPATCH where the Landing's waiting pieces stand in its queue. -/
def dispatchFirst (s : State) (l : Nat) (tipple : Bool) : State :=
  match (s.landing l).queue tipple with
  | [] => s
  | (t, p) :: rest => match pieceEngine s l tipple t with
    | none => s
    | some e => givePiece s l tipple e p rest

/-- The queue of a Landing set. -/
def queuePut (s : State) (l : Nat) (tipple : Bool) (q : List (Nat × Piece)) : State := modQueue s l tipple (fun _ => q)

theorem exec_loadPieceDispatch {s : State} (hlive : live s = true) (l : LandIx) (k : EngineKind) (arrival : Option Piece) :
    exec (.loadPieceDispatch l k arrival) s =
      .next (dispatchFirst (queuePut s l.val (k == .tipple) (waitingPieces s l.val (k == .tipple) arrival)) l.val (k == .tipple)) := by
  simp only [exec, execLoadPieceDispatch, hlive, if_true]
  refine congrArg (fun t => Host.Outcome.next (dispatchFirst t l.val (k == .tipple))) ?_
  cases arrival with
  | none =>
    dsimp only
    rw [modQueue_eq_put, queuePut, waitingPieces, arrivedPiece, List.append_nil]
    rfl
  | some p =>
    dsimp only
    by_cases hok : pieceOk s l.val (k == .tipple) p = true
    · rw [if_pos hok, modQueue_modQueue, modQueue_eq_put, queuePut, waitingPieces, arrivedPiece, if_pos hok]
      rfl
    · rw [if_neg hok, modQueue_eq_put, queuePut, waitingPieces, arrivedPiece, if_neg hok, List.append_nil]
      rfl

section
variable {s : State} {l : Nat} (hl : l < s.landings.length) (tipple : Bool)
include hl

theorem dispatchFirst_of_nil : dispatchFirst (queuePut s l tipple []) l tipple = queuePut s l tipple [] := by
  simp only [dispatchFirst, queuePut, modQueue_queue _ _ _ _ hl]

variable {t : Nat} {p : Piece} {rest : List (Nat × Piece)}

theorem dispatchFirst_of_noEngine (h : pieceEngine (queuePut s l tipple ((t, p) :: rest)) l tipple t = none) :
    dispatchFirst (queuePut s l tipple ((t, p) :: rest)) l tipple = queuePut s l tipple ((t, p) :: rest) := by
  simp only [dispatchFirst, queuePut, modQueue_queue _ _ _ _ hl] at h ⊢
  rw [h]

theorem dispatchFirst_of_engine {e : Nat} (h : pieceEngine (queuePut s l tipple ((t, p) :: rest)) l tipple t = some e) :
    dispatchFirst (queuePut s l tipple ((t, p) :: rest)) l tipple = givePiece s l tipple e p rest := by
  simp only [dispatchFirst, queuePut, modQueue_queue _ _ _ _ hl] at h ⊢
  rw [h]
  simp only [givePiece, modQueue_modQueue]
  rfl

end

theorem givePiece_eq (s : State) (l : Nat) (tipple : Bool) (e : Nat) (p : Piece) (rest : List (Nat × Piece)) : givePiece s l tipple e p rest = { s with
    landings := s.landings.modify l (fun x =>
      if tipple then { x with tippleQueue := rest, tipple := x.tipple.modify e (fun y => { y with busy := some p.item, piece := some p, clock := true }) }
      else { x with haulQueue := rest, haul := x.haul.modify e (fun y => { y with busy := some p.item, piece := some p, clock := true }) }) } := by
  simp only [givePiece, modEngines, modQueue, List.modify_modify_eq]
  cases tipple <;> rfl

/-- The lowest free engine of the first m. -/
theorem firstFree_eq_some {es : List Engine} {m e : Nat} (h : (List.range m).find? (fun e => (es.getD e Engine.cold).busy.isNone) = some e) :
    (es.getD e Engine.cold).busy = none ∧ (∀ d < e, (es.getD d Engine.cold).busy ≠ none) ∧ e < m := by
  obtain ⟨hfree, hlt, hfirst⟩ := List.find?_range_eq_some.mp h
  refine ⟨Option.isNone_iff_eq_none.mp hfree, fun d hd hnone => ?_, List.mem_range.mp hlt⟩
  simpa only [hnone, Option.isNone_none, Bool.not_true, Bool.false_eq_true] using hfirst d hd

theorem pieceEngine_eq_some {s : State} {l t e : Nat} {tipple : Bool} (h : pieceEngine s l tipple t = some e) :
    (((s.landing l).engines tipple).getD e Engine.cold).busy = none ∧
    (∀ d < e, (((s.landing l).engines tipple).getD d Engine.cold).busy ≠ none) ∧
    e < (if chainEngines s tipple ≠ 0 then chainEngines s tipple else if tipple then 4 else 16) ∧
    (chainEngines s tipple = 0 → itemBefore s l tipple t = false) := by
  unfold pieceEngine at h
  split at h
  · next hreserved =>
    obtain ⟨hfree, hfirst, hlt⟩ := firstFree_eq_some h
    rw [if_pos hreserved]
    exact ⟨hfree, hfirst, hlt, fun hnone => absurd hnone hreserved⟩
  · next hshared =>
    split at h
    · cases h
    · next hbefore =>
      obtain ⟨hfree, hfirst, hlt⟩ := firstFree_eq_some h
      rw [if_neg hshared]
      exact ⟨hfree, hfirst, hlt, fun _ => by simpa using hbefore⟩

/-! ## ENGINE_PIECE_COMPLETE (R233, R234, R236, R402) -/

section
variable {l : LandIx} {k : EngineKind} {engine : Nat} {s : State} {p : Piece} (hup : s.up = true) (hreset : s.boot.creset = none)
  (hpiece : (((s.landing l.val).engines (k == .tipple)).getD engine Engine.cold).piece = some p)
include hup hreset hpiece

theorem exec_enginePieceComplete_of_ended (hended : s.item p.item = none ∨ ∃ i, s.item p.item = some i ∧ i.over = true) :
    exec (.enginePieceComplete l k engine) s = .next (freeEngine s l.val (k == .tipple) engine) := by
  obtain hnone | ⟨i, hitem, hover⟩ := hended
  · simp only [exec, execEnginePieceComplete, hup, hreset, hpiece, hnone, and_self, if_true]
  · simp only [exec, execEnginePieceComplete, hup, hreset, hpiece, hitem, hover, and_self, if_true]

theorem exec_enginePieceComplete_of_unended {i : Item} (hitem : s.item p.item = some i) (hover : i.over = false) :
    exec (.enginePieceComplete l k engine) s = .next (movePiece s l.val (k == .tipple) engine p) := by
  simp only [exec, execEnginePieceComplete, hup, hreset, hpiece, hitem, hover, and_self, if_true, Bool.false_eq_true, if_false]

end

theorem exec_enginePieceComplete_of_noPiece {l : LandIx} {k : EngineKind} {engine : Nat} {s : State}
    (hpiece : (((s.landing l.val).engines (k == .tipple)).getD engine Engine.cold).piece = none) : exec (.enginePieceComplete l k engine) s = .next s := by
  simp only [exec, execEnginePieceComplete, hpiece, ite_self]

/-- A replay still reads what a piece would write (R402). -/
def pieceHeld (s : State) (p : Piece) : Bool :=
  tileHeld s p.dstDie.val p.item.ctx p.dst (if p.transpose then rowsLen p.cols p.dstStride ((p.rows * p.elemBits + 7) / 8)
    else rowsLen p.rows p.dstStride ((p.cols * p.elemBits + 7) / 8))

/-- The rows that a piece writes, with their numbers. -/
def numberedRows (p : Piece) (bss : List (List Byte)) : List (List Byte × Nat) := (pieceRows p bss).zip (List.range (pieceRows p bss).length)

/-- The rows of a piece stored in the Pantry of its die and noted as its item's (R236). -/
def pieceStored (u : State) (p : Piece) (bss : List (List Byte)) : State :=
  (u.modMem (fun m => (numberedRows p bss).foldl (fun m q => pantryPut m p.dstDie.val (p.dst + q.2 * p.dstStride) q.1) m)).modItem p.item
    (fun j => { j with areas := j.areas ++ [(p.dst, maxOf (p.dst ::
      (List.range (pieceRows p bss).length).map (fun r => p.dst + r * p.dstStride + ((pieceRows p bss).getD r []).length)))] })

/-- The occurrence that a moved piece counts as. -/
def pieceOcc (v : State) (l : Nat) (tipple : Bool) (engine : Nat) (p : Piece) : Occ :=
  { Occ.ofItem v p.item (76 + l) 0x036 (if tipple then masterTipple engine else masterHaul engine) v.now with
    lomium := some (v.deviceNumber * 2 ^ 48 + pantryBase + p.dstDie.val * pantrySize + p.dst) }

section
variable {s u : State} {l : Nat} {tipple : Bool} {engine : Nat} {p : Piece}

theorem movePiece_of_held (hheld : pieceHeld s p = true) : movePiece s l tipple engine p = s := if_pos hheld

variable (hheld : pieceHeld s p = false) {reads : List (Nat × Nat)} (hreads : reads = rowRanges p.src p.srcStride p.rows ((p.cols * p.elemBits + 7) / 8))
include hheld hreads

theorem movePiece_of_wait (hread : itemReads s p.item none reads = (u, none, none)) : movePiece s l tipple engine p = u := by
  subst hreads
  rw [movePiece, if_neg (by simpa [pieceHeld] using hheld), getRanges_of_wait hread]

theorem movePiece_of_code {x : Option (List (List Byte))} {c : Nat} (hread : itemReads s p.item none reads = (u, x, some c)) :
    movePiece s l tipple engine p = freeEngine (failItem u p.item c none) l tipple engine := by
  subst hreads
  rw [movePiece, if_neg (by simpa [pieceHeld] using hheld), getRanges_of_code hread]

theorem movePiece_of_data {bss : List (List Byte)} (hread : itemReads s p.item none reads = (u, some bss, none)) {v : State} (hv : v = pieceStored u p bss) :
    movePiece s l tipple engine p = freeEngine (count ((numberedRows p bss).foldl
      (fun t q => countPantry t { pieceOcc v l tipple engine p with lomium := none } p.dstDie.val (p.dst + q.2 * p.dstStride) q.1.length) v)
      (pieceOcc v l tipple engine p)) l tipple engine := by
  subst hreads hv
  rw [movePiece, if_neg (by simpa [pieceHeld] using hheld), getRanges_of_data hread]
  rfl

end

/-! ## ENGINE_CLOCK_STOP (R392) -/

section
variable {l : LandIx} {k : EngineKind} {engine : Nat} {s : State} {e : Engine} (he : e = ((s.landing l.val).engines (k == .tipple)).getD engine Engine.cold)
include he

theorem exec_engineClockStop_of_idle (hclock : e.clock = true) (hidle : e.busy = none) (hup : s.up = true) :
    exec (.engineClockStop l k engine) s = .next (modEngines (s.upTo (e.idleSince + 1050)) l.val (k == .tipple)
      (fun es => es.modify engine (fun x => { x with clock := false }))) := by
  subst he
  simp only [exec, execEngineClockStop, hclock, hidle, hup, and_self, if_true]

theorem exec_engineClockStop_of_other (h : e.clock = false ∨ e.busy ≠ none) : exec (.engineClockStop l k engine) s = .next s := by
  subst he
  rw [exec, execEngineClockStop, if_neg]
  rintro ⟨-, hclock, hidle⟩
  exact h.elim (fun hstopped => Bool.noConfusion (hclock.symm.trans hstopped)) (fun hbusy => hbusy hidle)

end

/-! ## The statement -/

/-- Settles O36, by the queue a dispatch finds and the engine that it names, by the cases of a piece that is complete, and by an engine's state
at its clock's stop. -/
theorem piecesAndEngines : Obligations.PiecesAndEngines := by
  refine ⟨?dispatch, fun s l t e tipple h => pieceEngine_eq_some h, ?complete,
    fun l k engine s hpiece => exec_enginePieceComplete_of_noPiece hpiece, ?stop⟩
  case dispatch =>
    intro l k arrival s hlive hl tipple came alive q with_
    have hq : waitingPieces s l.val tipple arrival = q := by
      cases arrival <;> rfl
    rw [exec_loadPieceDispatch hlive l k arrival]
    change (q = [] → Host.Outcome.next (dispatchFirst (queuePut s l.val tipple (waitingPieces s l.val tipple arrival)) l.val tipple) = _) ∧ _
    rw [hq]
    refine ⟨fun hnil => ?_, fun t p rest hcons => ?_⟩
    · rw [hnil, dispatchFirst_of_nil hl]
      rfl
    · rw [hcons]
      exact ⟨fun hnone => congrArg _ (dispatchFirst_of_noEngine hl tipple hnone),
        fun e hsome => congrArg _ ((dispatchFirst_of_engine hl tipple hsome).trans (givePiece_eq ..))⟩
  case complete =>
    intro l k engine s p hup hreset hpiece tipple d reads held
    refine ⟨exec_enginePieceComplete_of_ended hup hreset hpiece, fun i hitem hover hheld => ?_, fun i hitem hover hheld => ?_⟩
    · rw [exec_enginePieceComplete_of_unended hup hreset hpiece hitem hover, movePiece_of_held hheld]
    · rw [exec_enginePieceComplete_of_unended hup hreset hpiece hitem hover]
      refine ⟨fun u hread => ?_, fun u x c hread => ?_, ?_⟩
      · rw [movePiece_of_wait hheld rfl hread]
      · rw [movePiece_of_code hheld rfl hread]
      · intro u bss hread rows ends v o hv ho
        rw [movePiece_of_data hheld rfl hread hv, ho]
        rfl
  case stop =>
    exact fun l k engine s => ⟨exec_engineClockStop_of_idle rfl, exec_engineClockStop_of_other rfl⟩

end Sys2Proof.Machine
end

section
/-! PROOF. FENCE items (R164, R210, R211, R259 to R261). -/

namespace Sys2Proof.Machine

/-! ## The invalidation of clean lines (R211, R259) -/

section
variable {s : State} {p : CacheLine → Bool} {l : CacheLine}

/-- A line that an invalidation leaves is one that it passed over, or one cut to its dirty bytes. -/
theorem mem_invalidateClean (h : l ∈ (invalidateClean s p).memory.cache) :
    (p l = false ∧ l ∈ s.memory.cache) ∨ ∃ x ∈ s.memory.cache, p x = true ∧ x.dirty ≠ 0 ∧ l = { x with valid := x.dirty } := by
  obtain ⟨x, hx, rfl⟩ := List.mem_map.mp h
  obtain ⟨hmem, hkept⟩ := List.mem_filter.mp hx
  cases hp : p x with
  | false => exact .inl ⟨by simpa using hp, by simpa using hmem⟩
  | true => exact .inr ⟨x, hmem, hp, by simpa [hp] using hkept, by simp⟩

theorem mem_invalidateClean_of_outside (hmem : l ∈ s.memory.cache) (hp : p l = false) : l ∈ (invalidateClean s p).memory.cache :=
  List.mem_map.mpr ⟨l, List.mem_filter.mpr ⟨hmem, by simp [hp]⟩, by simp [hp]⟩

end

/-- After an acquire every line left of its range holds dirty bytes and no others. -/
theorem acquire_leaves {s : State} {c : Nat} {range : Option (Nat × Nat)} {l : CacheLine} (h : l ∈ (acquire s c range).memory.cache)
    (hin : inRange c range l = true) : l.valid = l.dirty ∧ l.dirty ≠ 0 := by
  obtain ⟨hout, -⟩ | ⟨x, -, -, hdirty, rfl⟩ := mem_invalidateClean h
  · exact absurd (hin.symm.trans hout) Bool.noConfusion
  · exact ⟨rfl, hdirty⟩

/-! ## The commands of a FENCE -/

theorem fenceItem_eq_some {s : State} {c seq type : Nat} {i : Item} (hfront : frontItem s c seq kFence = some i) (htype : fenceType i.words = type) :
    fenceItem s c seq type = some i := by
  simp [fenceItem, hfront, htype]

section
variable {c : CtxIx} {seq : Nat} {s : State} {i : Item}

theorem exec_fenceWrite (h : fenceItem s c.val seq 0 = some i) : exec (.fenceWrite c seq) s =
    .next (issued (if fenceFlush i.words then flushRange (startItem s i.ref id) i else startItem s i.ref id) i.ref) := by
  simp only [exec, execFenceWrite, h]

theorem exec_fenceAcquire (h : fenceItem s c.val seq 1 = some i) : exec (.fenceAcquire c seq) s =
    .next (issued (acquireRange (startItem s i.ref id) i) i.ref) := by
  simp only [exec, execFenceAcquire, h]

theorem exec_fenceFull (h : fenceItem s c.val seq 2 = some i) : exec (.fenceFull c seq) s =
    .next (issued (acquireRange (if fenceFlush i.words then flushRange (startItem s i.ref id) i else startItem s i.ref id) i) i.ref) := by
  simp only [exec, execFenceFull, h]

end

theorem issued_acquireRange_leaves {s : State} {i : Item} {l : CacheLine} (h : l ∈ (issued (acquireRange s i) i.ref).memory.cache)
    (hin : inRange i.ref.ctx (fenceRange i.words) l = true) : l.valid = l.dirty ∧ l.dirty ≠ 0 := acquire_leaves h hin

/-- With base and length 0 a FENCE concerns every line of its context (R164). -/
theorem inRange_of_whole {ws : List W64} (hbase : fenceBase ws = 0) (hlen : fenceLen ws = 0) (c : Nat) (l : CacheLine) :
    inRange c (fenceRange ws) l = (l.ctx == c) := by
  simp [inRange, fenceRange, hbase, hlen]

/-- Settles O41, by what each type of FENCE does, and by the lines that the invalidation of its range leaves. -/
theorem fencesStart : Obligations.FencesStart := by
  intro c seq s i hlive hitem hcand hkind
  have hfront : frontItem s c.val seq kFence = some i := frontItem_eq_some hlive hitem hcand hkind
  refine ⟨fun htype => exec_fenceWrite (fenceItem_eq_some hfront htype), fun htype => ?acquire, fun htype => ?full,
    fun hbase hlen => inRange_of_whole hbase hlen _⟩
  case acquire =>
    exact ⟨_, exec_fenceAcquire (fenceItem_eq_some hfront htype), fun l => issued_acquireRange_leaves,
      fun l hmem hout => mem_invalidateClean_of_outside hmem hout, rfl, rfl⟩
  case full => exact ⟨_, exec_fenceFull (fenceItem_eq_some hfront htype), fun l => issued_acquireRange_leaves, rfl⟩

end Sys2Proof.Machine
end

section
/-! PROOF. Answers of the host (R186, R329 to R331, R336, R337, R340). -/

namespace Sys2Proof.Machine

/-! ## A message of the host on an open queue pair -/

theorem noteCe_pmtu (s : State) (q : Nat) (ce : Bool) (p : Nat) : (noteCe s q ce).pmtu p = s.pmtu p := by
  simp only [State.pmtu, State.qpCfg, (noteCe_calm (.refl s) q ce).cfg]

section
variable {s : State} {q : QpIx} {y : Qp} {c : QpCfg} {x : HostFrame}

theorem hostMessage_of_good (hopen : porchOpen s = true) (hqp : s.qp q.val = some y) (hcfg : s.qpCfg q.val = some c) (herror : y.error = false)
    (hbytes : x.bytes ≤ 9216) (htags : x.tags ≤ 1) (hicrc : x.icrcOk = true) (use : State → State) :
    hostMessage s q.val x use = use (noteCe s q.val x.ce) := by
  have hup : s.qpUp q.val = true := by simp [State.qpUp, hqp, herror]
  simp [hostMessage, hopen, hqp, hcfg, Nat.not_lt.mpr hbytes, Nat.not_lt.mpr htags, hicrc, hup]

end

/-! ## Retries and ERROR (R330, R331) -/

section
variable {s : State} {k : QpCfg} {x : Qp}

theorem retryQp_of_left (h : x.retries < k.retryCnt) :
    retryQp s k x = retransmit (s.modQp k.index (fun y => { y with retries := y.retries + 1 })) k.index := if_neg (Nat.not_le.mpr h)

theorem retryQp_of_used (h : k.retryCnt ≤ x.retries) : retryQp s k x = qpError s k.index 1 := if_pos h

end

/-- What a NAK does on a queue pair that still has a request once what lies before its PSN is settled. -/
def nakActs (v : State) (q : Nat) (c : QpCfg) (z : Qp) : NakKind → State
  | .sequenceError => retryQp v c z
  | .rnr => if c.rnrRetry ≠ 7 ∧ c.rnrRetry ≤ z.rnrs then qpError v q causeRnr else retransmit (v.modQp q (fun y => { y with rnrs := y.rnrs + 1 })) q
  | _ => qpError v q causeNakReceived

section
variable {v : State} {q : Nat} {c : QpCfg} {z : Qp}

theorem nakActs_rnr_of_left (h : c.rnrRetry = 7 ∨ z.rnrs < c.rnrRetry) :
    nakActs v q c z .rnr = retransmit (v.modQp q (fun y => { y with rnrs := y.rnrs + 1 })) q :=
  if_neg fun hused => h.elim hused.1 (Nat.not_lt.mpr hused.2)

theorem nakActs_rnr_of_used (hlimit : c.rnrRetry ≠ 7) (h : c.rnrRetry ≤ z.rnrs) : nakActs v q c z .rnr = qpError v q 2 := if_pos ⟨hlimit, h⟩

theorem nakActs_of_other {k : NakKind} (hseq : k ≠ .sequenceError) (hrnr : k ≠ .rnr) : nakActs v q c z k = qpError v q 3 := by
  cases k with
  | sequenceError => exact absurd rfl hseq
  | rnr => exact absurd rfl hrnr
  | _ => rfl

end

theorem qpError_of_up {s : State} {q : Nat} (hup : s.qpUp q = true) (cause : Nat) {t : State}
    (ht : t = s.modQp q (fun k => { k with error := true, cause := BitVec.ofNat 4 cause, held := [] })) :
    qpError s q cause = pfcUpdate (reportUnreachable { t with porch := { t.porch with
      waiting := s.porch.waiting.filter (fun w => w.out.qp != some q || w.out.fatal), qpErrors := satInc s.porch.qpErrors } } q) := by
  subst ht
  exact if_pos hup

/-! ## Settlement, oldest first (R330, R336) -/

theorem psnLe_refl (a : BitVec 24) : psnLe a a = true := by
  simp [psnLe]

/-- A request settled by an answer: it waits no more, and its queue pair's retries are cleared. -/
def requestSettled (s : State) (q : Nat) (r : Req) (bytes : List Byte) : State :=
  hostSettle ((s.sentRequest r.id).modQp q (fun k => { k with retries := 0, rnrs := 0 })) r bytes

theorem settleUpTo_of_none {s : State} {q : Nat} (h : qpReqs s q = []) (n : Nat) (psn : BitVec 24) (bytes : List Byte) :
    settleUpTo n s q psn bytes = s := by
  cases n with
  | zero => rfl
  | succ n => simp only [settleUpTo, h]

section
variable {s : State} {q : Nat} {r : Req} {rest : List Req} (hreqs : qpReqs s q = r :: rest) (n : Nat) {psn : BitVec 24} {bytes : List Byte}
include hreqs

section
variable (hwrite : ∀ a len, r.purpose ≠ .read a len)
include hwrite

theorem settleUpTo_of_write : settleUpTo (n + 1) s q psn bytes =
    if psnLe r.lastPsn psn then settleUpTo n (requestSettled s q r []) q psn bytes else s := by
  simp only [settleUpTo, hreqs]
  cases hp : r.purpose with
  | read a len => exact absurd hp (hwrite a len)
  | _ => rfl

theorem settleUpTo_of_coveredWrite (h : psnLe r.lastPsn psn = true) :
    settleUpTo (n + 1) s q psn bytes = settleUpTo n (requestSettled s q r []) q psn bytes := by
  rw [settleUpTo_of_write hreqs n hwrite, if_pos h]

theorem settleUpTo_of_laterWrite (h : psnLe r.lastPsn psn = false) : settleUpTo (n + 1) s q psn bytes = s := by
  rw [settleUpTo_of_write hreqs n hwrite, if_neg (by simp [h])]

end

variable {a len : Nat} (hread : r.purpose = .read a len)
include hread

theorem settleUpTo_of_readData (hfirst : psnLe r.psn psn = true) (hlast : psnLe psn r.lastPsn = true) (hlen : bytes.length = len) :
    settleUpTo (n + 1) s q psn bytes = settleUpTo n (requestSettled s q r bytes) q psn [] := by
  simp only [settleUpTo, hreqs, hread, hfirst, hlast, hlen, BEq.rfl, Bool.and_self, if_true]
  rfl

theorem settleUpTo_of_readPassed (hbeyond : psnLe psn r.lastPsn = false) (hafter : psnLe r.lastPsn psn = true) :
    settleUpTo (n + 1) s q psn bytes = retransmit s q := by
  have hne : r.lastPsn ≠ psn := fun heq => by
    rw [heq, psnLe_refl] at hbeyond
    exact Bool.noConfusion hbeyond
  simp [settleUpTo, hreqs, hread, hbeyond, hafter, hne]

end

/-! ## The commands -/

section
variable {s : State} {q : QpIx} {y : Qp} {c : QpCfg} {x : HostFrame} (hopen : porchOpen s = true) (hqp : s.qp q.val = some y)
  (hcfg : s.qpCfg q.val = some c) (herror : y.error = false) (hbytes : x.bytes ≤ 9216) (htags : x.tags ≤ 1) (hicrc : x.icrcOk = true)
  (psn : BitVec 24)
include hopen hqp hcfg herror hbytes htags hicrc

theorem exec_hostAck (bytes : List Byte) {w u : State} (hw : w = noteCe s q.val x.ce)
    (hu : u = count w (porchOcc w q.val 0x090 (psnCount (s.pmtu q.val) bytes.length))) :
    exec (.hostAck q ⟨psn, x, bytes⟩) s = .next (State.transmit (settleUpTo (qpReqs u q.val).length u q.val psn bytes)) := by
  subst hu hw
  simp only [exec, execHostAck, hostMessage_of_good hopen hqp hcfg herror hbytes htags hicrc, noteCe_pmtu]

section
variable {w u v : State} (hw : w = noteCe s q.val x.ce) (hu : u = count w (porchOcc w q.val 0x090 1))
  (hv : v = settleUpTo (qpReqs u q.val).length u q.val (psn - 1) []) {z : Qp} (hvqp : v.qp q.val = some z) (hvcfg : v.qpCfg q.val = some c)
include hw hu hv hvqp hvcfg

theorem exec_hostNak_of_none (hnone : qpReqs v q.val = []) (k : NakKind) : exec (.hostNak q ⟨k, psn, x⟩) s = .next v := by
  simp only [exec, execHostNak, hostMessage_of_good hopen hqp hcfg herror hbytes htags hicrc, ← hw, ← hu, ← hv, hvqp, hvcfg, hnone,
    List.isEmpty_nil, if_true]

theorem exec_hostNak_of_left (hleft : qpReqs v q.val ≠ []) (k : NakKind) : exec (.hostNak q ⟨k, psn, x⟩) s = .next (nakActs v q.val c z k) := by
  simp only [exec, execHostNak, hostMessage_of_good hopen hqp hcfg herror hbytes htags hicrc, ← hw, ← hu, ← hv, hvqp, hvcfg,
    List.isEmpty_iff, hleft, if_false]
  cases k <;> rfl

end
end

section
variable {q : QpIx} {s : State} {x : Qp} {c : QpCfg} {r : Req} {rest : List Req}

theorem exec_ackTimeout (hup : s.up = true) (hqp : s.qp q.val = some x) (hcfg : s.qpCfg q.val = some c) (herror : x.error = false)
    (hreqs : qpReqs s q.val = r :: rest) : exec (.ackTimeout q) s = .next (retryQp (s.upTo (r.issued + 4096 * 2 ^ c.ackTimeout)) c x) := by
  simp only [exec, execAckTimeout, hup, hqp, hcfg, herror, hreqs, and_self, if_true, ackTimeoutNs]

end

/-! ## The statement -/

/-- Settles O54, by the oldest request's part in an answer, by what is left of a queue pair's retries, and by what ERROR drops. -/
theorem hostAnswersSettleRequests : Obligations.HostAnswersSettleRequests := by
  refine ⟨?messages, fun n s q psn bytes h => settleUpTo_of_none h n psn bytes, ?settle, ?timeout, ?error⟩
  case messages =>
    intro q psn bytes x s y c hopen hqp hcfg herror hbytes htags hicrc w u a
    refine ⟨exec_hostAck hopen hqp hcfg herror hbytes htags hicrc psn bytes rfl rfl, fun v z hv hvqp hvcfg => ⟨fun hnone k => ?_, fun hleft => ?_⟩⟩
    · exact exec_hostNak_of_none hopen hqp hcfg herror hbytes htags hicrc psn rfl rfl hv hvqp hvcfg hnone k
    · have hnak := exec_hostNak_of_left hopen hqp hcfg herror hbytes htags hicrc psn rfl rfl hv hvqp hvcfg hleft
      refine ⟨fun h => ?_, fun h => ?_, fun h => ?_, fun hlimit h => ?_, fun k hseq hrnr => ?_⟩
      · rw [hnak, nakActs, retryQp_of_left h]
      · rw [hnak, nakActs, retryQp_of_used h]
      · rw [hnak, nakActs_rnr_of_left h]
      · rw [hnak, nakActs_rnr_of_used hlimit h]
      · rw [hnak, nakActs_of_other hseq hrnr]
  case settle =>
    intro n s q psn bytes r rest hreqs done
    exact ⟨fun hwrite => ⟨settleUpTo_of_coveredWrite hreqs n hwrite, settleUpTo_of_laterWrite hreqs n hwrite⟩,
      fun a len hread => ⟨settleUpTo_of_readData hreqs n hread, settleUpTo_of_readPassed hreqs n hread⟩⟩
  case timeout =>
    intro q s x c r rest hup hqp hcfg herror hreqs v
    rw [exec_ackTimeout hup hqp hcfg herror hreqs]
    exact ⟨fun h => congrArg _ (retryQp_of_left h), fun h => congrArg _ (retryQp_of_used h)⟩
  case error =>
    intro s q cause hup t
    exact qpError_of_up hup cause rfl

end Sys2Proof.Machine
end

section
/-! PROOF. The release of a compute-domain reset (R156, R300, R349, R361, R366 to R368, R370). -/

namespace Sys2Proof.Machine

/-! ## Boot state and time across what a release applies -/

/-- An operation that leaves the boot state, and does not put the clock back. -/
structure Boots (a b : State) : Prop where
  boot : b.boot = a.boot
  clock : a.now ≤ b.now

theorem Boots.trans {a b c : State} (h : Boots a b) (k : Boots b c) : Boots a c := ⟨k.boot.trans h.boot, h.clock.trans k.clock⟩

theorem Calm.boots {a b : State} (h : Calm a b) : Boots a b := ⟨h.boot, h.clock⟩

theorem State.modHearth_boots (s : State) (f : Hearth → Hearth) : Boots s (s.modHearth f) := ⟨rfl, le_rfl⟩

theorem setDies_boots (s : State) (ds : List Die) : Boots s { s with dies := ds } := ⟨rfl, le_rfl⟩

theorem accrue_boots (s : State) : Boots s (accrue s) := by
  unfold accrue
  exact (syncUnits_calm (countStretch_calm (.refl s))).boots.trans (State.modHearth_boots _ _)

theorem moveLevels_boots (s : State) : Boots s (moveLevels s) := by
  unfold moveLevels
  exact ((accrue_boots s).trans (setDies_boots _ _)).trans (setDies_boots _ _)

/-- The ports that a variant changes, disabled and retrained (R359). -/
theorem variantPorts_boots (old new : Cfg) (s : State) (l : List Nat) : Boots s (l.foldl (fun s p =>
    if old.portCfg.getD p 0 = new.portCfg.getD p 0 then
      if (s.ports.getD p Port.cold).state = .failed ∧ bits (new.portCfg.getD p 0) 35 34 ≠ 0 then enablePort s p else s
    else
      let t := disablePort s p
      if bits (new.portCfg.getD p 0) 35 34 = 0 then t else enablePort t p) s) := by
  refine (Calm.fold (.refl s) fun t p h => ?_).boots
  split
  · split
    · exact enablePort_calm h p
    · exact h
  · split
    · exact disablePort_calm h p
    · exact enablePort_calm (disablePort_calm h p) p

/-- What a variant's records leave: the position's variant is it, and the clock has not gone back. -/
theorem applyVariant_leaves (s : State) (v : BitVec 4) :
    (applyVariant s v).boot = { s.boot with variant := v } ∧ s.now ≤ (applyVariant s v).now := by
  unfold applyVariant
  extract_lets old new moves w b m p t
  have hqps : Boots s w := (changeQps_calm (.refl s) old new).boots
  have hports := (variantPorts_boots old new t (List.range 16)).trans (pfcUpdate_calm (.refl _)).boots
  exact ⟨hports.boot.trans (congrArg (fun x : Boot => { x with variant := v }) hqps.boot), hqps.clock.trans hports.clock⟩

/-- Entries of the measurement chain change the Gatehouse alone. -/
theorem foldl_chainAdd {α : Type} (time kind : Nat) (aux : α → Nat) (l : List α) (s : State) :
    ∃ g, l.foldl (fun s e => chainAdd s time kind (aux e) 0) s = { s with gate := g } := by
  induction l generalizing s with
  | nil => exact ⟨s.gate, rfl⟩
  | cons e l ih =>
    obtain ⟨g, hg⟩ := ih (chainAdd s time kind (aux e) 0)
    exact ⟨g, hg⟩

/-- The defect map stops every Face without a tile, and changes no more than Faces, dies and the Gatehouse's chain. -/
theorem applyDefectMap_leaves (s : State) (time : Nat) : ∃ fs ds g, applyDefectMap s time = { s with faces := fs, dies := ds, gate := g } ∧
    ∀ f ∈ fs, f.state = .stopped ∧ f.active = none ∧ f.shadow = none := by
  unfold applyDefectMap
  extract_lets src faces retired dies entries
  obtain ⟨g, hg⟩ := foldl_chainAdd time 0x05 (fun e : LogEntry => e.face / 2 * 2 ^ 19 + e.face % 2 * 2 ^ 18 + e.column * 2 ^ 15) entries
    { s with faces := faces, dies := dies }
  refine ⟨faces, dies, g, hg, fun f hf => ?_⟩
  obtain ⟨⟨old, n⟩, -, rfl⟩ := List.mem_map.mp hf
  exact ⟨rfl, rfl, rfl⟩

/-! ## The contexts reopen (R156, R367, R368) -/

/-- What a release writes to a context. -/
def reopened (x : Ctx) : Ctx :=
  { advanceGen x with resetting := false, period := 0, periodAt := 0, started := false, polls := 0, readPending := false,
                      firstReturned := false, intakeClosed := false }

theorem releasePins_of_none {s : State} {c : Nat} (h : (s.ctx c).pins = []) : releasePins s c = s := by
  simp only [releasePins, h, List.filterMap_nil, List.foldl_nil]
  exact State.modCtx_eq_self (by rw [← h])

theorem ctx_pins_of_forall {s : State} (h : ∀ x ∈ s.ctxs, x.pins = []) (c : Nat) : (s.ctx c).pins = [] := by
  unfold State.ctx
  rw [List.getD_eq_getElem?_getD]
  cases hx : s.ctxs[c]? with
  | none => rfl
  | some x => exact h x (List.mem_of_getElem? hx)

theorem reopenContexts_of_noPins {s : State} (h : ∀ x ∈ s.ctxs, x.pins = []) : reopenContexts s = { s with ctxs := s.ctxs.map reopened } := by
  have hfold : (List.range 48).foldl (fun s c => if (s.ctxCfg c).isSome then releasePins s c else s) s = s :=
    List.foldl_fixed' (fun c => by rw [releasePins_of_none (ctx_pins_of_forall h c), ite_self]) _
  unfold reopenContexts
  rw [hfold]
  rfl

theorem reopenContexts_ctxs (s : State) : ∃ xs : List Ctx, (reopenContexts s).ctxs = xs.map reopened := by
  unfold reopenContexts
  extract_lets w
  clear_value w
  exact ⟨w.ctxs, rfl⟩

theorem mem_reopenContexts {s : State} {x : Ctx} (h : x ∈ (reopenContexts s).ctxs) : ∃ y, x = reopened y := by
  obtain ⟨xs, hxs⟩ := reopenContexts_ctxs s
  rw [hxs] at h
  obtain ⟨y, -, rfl⟩ := List.mem_map.mp h
  exact ⟨y, rfl⟩

/-! ## The release as a whole (R367) -/

/-- What a release has before its variant: its time reached, its deliveries taken, write-backs abandoned and Pantries reset. -/
def releaseBegun (s : State) (at_ : Nat) : State := resetPantries (abandonWriteBacks ((s.upTo at_).takeRelease))

/-- The variant that waits is applied. -/
def releaseVariant (s : State) (r : CReset) : State := match r.variant with
  | some v => withCaps s (fun s => applyVariant s v)
  | none => s

/-- What the release of a reset finds before its firmware is judged. -/
def releaseMapped (s : State) (r : CReset) (at_ : Nat) : State :=
  applyDefectMap (releaseVariant (releaseBegun s at_) r) ((releaseVariant (releaseBegun s at_) r).now + 20000000)

/-- The device with its counters, collectives and reset given up, as the contexts find it when they reopen. -/
def releaseCleared (s : State) : State :=
  { s with
    free := s.free + 2
    boot := { s.boot with creset := none, crossingResyncs := satAdd s.boot.crossingResyncs (1 + (Config.arbitrary s.free).toNat),
                          crossingDiscarded := satAdd s.boot.crossingDiscarded (Config.arbitrary (s.free + 1)).toNat }
    banks := (s.banks.zip (List.range 100)).map (fun (b, i) => if i < 64 then Bank.cold else b)
    colls := [], collNext := [], lateCopies := [] }

/-- The Ledger reopens 270 ms after the release, and device time begins there. -/
def ledgerReopened (s : State) : State := { s.upTo (s.now + 270000000) with t0 := (s.upTo (s.now + 270000000)).now / 10 }

theorem releaseCReset_eq (s : State) (r : CReset) (at_ : Nat) : releaseCReset s r at_ =
    if s.releaseBad.any (fun c => computeClasses.contains c && (releaseMapped s r at_).cfg.fwVersions.any (fun v => v.1 == c)) then
      enterNoImage (releaseMapped s r at_) ((releaseMapped s r at_).now + 250000000) 0x0A
    else ledgerReopened (reopenContexts (releaseCleared (releaseMapped s r at_))) := rfl

/-! ## What stands once the variant and the defect map are applied -/

theorem releaseBegun_now (s : State) (at_ : Nat) : Nat.max s.now at_ ≤ (releaseBegun s at_).now :=
  (resetPantries_calm (abandonWriteBacks_calm (.refl (s.upTo at_).takeRelease))).clock

theorem releaseVariant_some {s : State} {r : CReset} {v : BitVec 4} (hv : r.variant = some v) :
    (releaseVariant s r).boot.variant = v ∧ s.now ≤ (releaseVariant s r).now := by
  obtain ⟨hboot, hnow⟩ := applyVariant_leaves (accrue s) v
  have hmoved := moveLevels_boots (applyVariant (accrue s) v)
  simp only [releaseVariant, hv, withCaps]
  exact ⟨by rw [hmoved.boot, hboot], ((accrue_boots s).clock.trans hnow).trans hmoved.clock⟩

theorem releaseVariant_none {s : State} {r : CReset} (hv : r.variant = none) : releaseVariant s r = s := by
  simp only [releaseVariant, hv]

theorem releaseVariant_now (s : State) (r : CReset) : s.now ≤ (releaseVariant s r).now := by
  cases hv : r.variant with
  | none => rw [releaseVariant_none hv]
  | some v => exact (releaseVariant_some hv).2

theorem releaseMapped_eq (s : State) (r : CReset) (at_ : Nat) : ∃ fs ds g,
    releaseMapped s r at_ = { releaseVariant (releaseBegun s at_) r with faces := fs, dies := ds, gate := g } ∧
    ∀ f ∈ fs, f.state = .stopped ∧ f.active = none ∧ f.shadow = none := applyDefectMap_leaves _ _

theorem releaseMapped_boots (s : State) (r : CReset) (at_ : Nat) : Boots (releaseVariant (releaseBegun s at_) r) (releaseMapped s r at_) := by
  obtain ⟨fs, ds, g, hmap, -⟩ := releaseMapped_eq s r at_
  rw [hmap]
  exact ⟨rfl, le_rfl⟩

theorem releaseMapped_now (s : State) (r : CReset) (at_ : Nat) : Nat.max s.now at_ ≤ (releaseMapped s r at_).now :=
  ((releaseBegun_now s at_).trans (releaseVariant_now _ r)).trans (releaseMapped_boots s r at_).clock

theorem releaseMapped_cfg_of_noVariant (s : State) {r : CReset} (hv : r.variant = none) (at_ : Nat) : (releaseMapped s r at_).cfg = s.cfg := by
  obtain ⟨fs, ds, g, hmap, -⟩ := releaseMapped_eq s r at_
  rw [hmap]
  change (releaseVariant (releaseBegun s at_) r).cfg = s.cfg
  rw [releaseVariant_none hv]
  exact (resetPantries_calm (abandonWriteBacks_calm (.refl (s.upTo at_).takeRelease))).cfg

theorem abandonWriteBacks_of_noReqs {s : State} (h : s.reqs = []) : abandonWriteBacks s = s := by
  simp [abandonWriteBacks, h]

/-- Where nothing is outstanding and no variant waits, the caches are empty, the Faces have no tile, and contexts are as they were. -/
theorem releaseMapped_of_quiet {s : State} {r : CReset} (hv : r.variant = none) (hreqs : s.reqs = []) (at_ : Nat) :
    (releaseMapped s r at_).now = Nat.max s.now at_ ∧ (releaseMapped s r at_).ctxs = s.ctxs ∧ (releaseMapped s r at_).memory.cache = [] ∧
    ∀ f ∈ (releaseMapped s r at_).faces, f.state = .stopped ∧ f.active = none ∧ f.shadow = none := by
  obtain ⟨fs, ds, g, hmap, hfaces⟩ := releaseMapped_eq s r at_
  rw [hmap]
  refine ⟨?_, ?_, ?_, hfaces⟩ <;> rw [releaseVariant_none hv, releaseBegun, abandonWriteBacks_of_noReqs (s := (s.upTo at_).takeRelease) hreqs] <;> rfl

/-! ## The outcome of a release -/

theorem mem_computeClasses {c : Nat} : c ∈ computeClasses ↔ 1 ≤ c ∧ c ≤ 3 := by
  simp only [computeClasses, List.mem_cons, List.not_mem_nil, or_false]
  omega

section
variable {s : State} {r : CReset} {at_ : Nat}

theorem releaseCReset_of_good (hgood : ∀ c ∈ s.releaseBad, c = 0 ∨ 3 < c) :
    releaseCReset s r at_ = ledgerReopened (reopenContexts (releaseCleared (releaseMapped s r at_))) := by
  rw [releaseCReset_eq, if_neg]
  simp only [List.any_eq_true, Bool.and_eq_true, List.contains_iff_mem, mem_computeClasses, not_exists, not_and]
  intro c hc hclass
  have := hgood c hc
  omega

theorem releaseCReset_of_bad {c : Nat} (hbad : c ∈ s.releaseBad) (hlow : 1 ≤ c) (hhigh : c ≤ 3) (hv : r.variant = none)
    (hfw : ∃ v ∈ s.cfg.fwVersions, v.1 = c) :
    releaseCReset s r at_ = enterNoImage (releaseMapped s r at_) ((releaseMapped s r at_).now + 250000000) 0x0A := by
  rw [releaseCReset_eq, if_pos]
  simp only [List.any_eq_true, Bool.and_eq_true, List.contains_iff_mem, mem_computeClasses, releaseMapped_cfg_of_noVariant s hv, beq_iff_eq]
  exact ⟨c, hbad, ⟨hlow, hhigh⟩, hfw⟩

end

/-- What a release whose firmware is good leaves of boot state, time and contexts. -/
theorem ledgerReopened_leaves {b t : State} (ht : t = ledgerReopened (reopenContexts (releaseCleared b))) :
    t.boot.creset = none ∧ t.boot.variant = b.boot.variant ∧ b.now + 270000000 ≤ t.now ∧ t.t0 = t.now / 10 ∧
    ∀ x ∈ t.ctxs, x.started = false ∧ x.intakeClosed = false ∧ x.readPending = false ∧ x.resetting = false := by
  have hreopened := (reopenContexts_calm (.refl (releaseCleared b))).boots
  have hctxs : ∀ x ∈ (reopenContexts (releaseCleared b)).ctxs, ∃ y, x = reopened y := fun x => mem_reopenContexts
  generalize reopenContexts (releaseCleared b) = w at ht hreopened hctxs
  subst ht
  have hboot : (ledgerReopened w).boot = (releaseCleared b).boot := hreopened.boot
  refine ⟨by rw [hboot]; rfl, by rw [hboot]; rfl, ?_, rfl, fun x hx => ?_⟩
  · exact (Nat.add_le_add_right hreopened.clock 270000000).trans (Nat.le_max_right _ _)
  · obtain ⟨y, rfl⟩ := hctxs x hx
    exact ⟨rfl, rfl, rfl, rfl⟩

/-- Where no context holds a pin, a release gives each the next generation and no more than its 270 ms pass. -/
theorem ledgerReopened_of_noPins {b t : State} (hpins : ∀ x ∈ b.ctxs, x.pins = []) (ht : t = ledgerReopened (reopenContexts (releaseCleared b))) :
    t.now = b.now + 270000000 ∧ t.ctxs = b.ctxs.map reopened ∧ t.faces = b.faces ∧ t.memory = b.memory ∧ t.colls = [] ∧ t.collNext = [] := by
  subst ht
  rw [reopenContexts_of_noPins (s := releaseCleared b) hpins]
  exact ⟨Nat.max_eq_right (Nat.le_add_right _ _), rfl, rfl, rfl, rfl, rfl⟩

/-- A release reaches its time and, with good firmware, opens the Ledger 270 ms later with no reset in progress (R367, R368). -/
theorem releaseCReset_of_good_leaves {s t : State} {r : CReset} {at_ : Nat} (hgood : ∀ c ∈ s.releaseBad, c = 0 ∨ 3 < c) (ht : t = releaseCReset s r at_) :
    Nat.max s.now at_ + 270000000 ≤ t.now ∧ t.t0 = t.now / 10 ∧ t.boot.creset = none ∧ (∀ v, r.variant = some v → t.boot.variant = v) ∧
    ∀ x ∈ t.ctxs, x.started = false ∧ x.intakeClosed = false ∧ x.readPending = false ∧ x.resetting = false := by
  rw [releaseCReset_of_good hgood] at ht
  obtain ⟨hcreset, hvariant, hnow, ht0, hctxs⟩ := ledgerReopened_leaves ht
  refine ⟨(Nat.add_le_add_right (releaseMapped_now s r at_) _).trans hnow, ht0, hcreset, fun v hv => ?_, hctxs⟩
  rw [hvariant, (releaseMapped_boots s r at_).boot, (releaseVariant_some hv).1]

theorem releaseCReset_of_quiet_leaves {s t : State} {r : CReset} {at_ : Nat} (hgood : ∀ c ∈ s.releaseBad, c = 0 ∨ 3 < c) (ht : t = releaseCReset s r at_)
    (hv : r.variant = none) (hreqs : s.reqs = []) (hpins : ∀ x ∈ s.ctxs, x.pins = []) (hlen : s.ctxs.length = 48) :
    t.now = Nat.max s.now at_ + 270000000 ∧
    (∀ c : Nat, c < 48 → (t.ctx c).gen = nextGen (s.ctx c).gen ∧ (t.ctx c).head = (s.ctx c).lastTail) ∧
    (∀ f ∈ t.faces, f.state = .stopped ∧ f.active = none ∧ f.shadow = none) ∧ t.memory.cache = [] ∧ t.colls = [] ∧ t.collNext = [] := by
  obtain ⟨hbnow, hbctxs, hbcache, hbfaces⟩ := releaseMapped_of_quiet hv hreqs at_
  rw [releaseCReset_of_good hgood] at ht
  obtain ⟨hnow, hctxs, hfaces, hmemory, hcolls, hcollNext⟩ := ledgerReopened_of_noPins (hbctxs ▸ hpins) ht
  refine ⟨by rw [hnow, hbnow], fun c hc => ?_, by rw [hfaces]; exact hbfaces, by rw [hmemory]; exact hbcache, hcolls, hcollNext⟩
  have hctx : t.ctx c = reopened (s.ctx c) := by
    simp [State.ctx, hctxs, hbctxs, hlen, hc]
  rw [hctx]
  exact ⟨rfl, rfl⟩

theorem releaseCReset_of_bad_leaves {s t : State} {r : CReset} {at_ c : Nat} (hbad : c ∈ s.releaseBad) (hlow : 1 ≤ c) (hhigh : c ≤ 3)
    (hv : r.variant = none) (hfw : ∃ v ∈ s.cfg.fwVersions, v.1 = c) (ht : t = releaseCReset s r at_) :
    t.InNoImage 0x0A ∧ Nat.max s.now at_ + 250000000 ≤ t.now := by
  rw [releaseCReset_of_bad hbad hlow hhigh hv hfw] at ht
  subst ht
  exact ⟨⟨rfl, rfl, rfl, rfl, rfl⟩, Nat.add_le_add_right (releaseMapped_now s r at_) _⟩

/-! ## The commands -/

section
variable {s : State} {r : CReset} (hrunning : s.boot.phase = .running) (hreset : s.boot.creset = some r)
include hrunning hreset

theorem exec_computeRstDeassert (hsafe : s.boot.safe = false) (hpin : r.pin = true) :
    exec .computeRstDeassert s = .next (releaseCReset s r (r.since + 150000000)) := by
  simp [exec, execComputeRstDeassert, hrunning, hreset, hsafe, hpin]

theorem exec_gatehouseResetRelease (hsafe : s.boot.safe = false) (hpin : r.pin = false) :
    exec .gatehouseResetRelease s = .next (releaseCReset s r (r.since + 150000000)) := by
  simp [exec, execGatehouseResetRelease, hrunning, hreset, hsafe, hpin]

theorem exec_computeRstDeassert_of_gatehouse (hpin : r.pin = false) : exec .computeRstDeassert s = .next s := by
  simp [exec, execComputeRstDeassert, hrunning, hreset, hpin]

theorem exec_gatehouseResetRelease_of_pin (hpin : r.pin = true) : exec .gatehouseResetRelease s = .next s := by
  simp [exec, execGatehouseResetRelease, hrunning, hreset, hpin]

end

/-- Settles O13, by the stages of a release: what comes before its firmware is judged, and what each verdict leaves. -/
theorem computeResetReleases : Obligations.ComputeResetReleases := by
  refine ⟨?release, fun s r hrunning hreset hpin => exec_computeRstDeassert_of_gatehouse hrunning hreset hpin,
    fun s r hrunning hreset hpin => exec_gatehouseResetRelease_of_pin hrunning hreset hpin⟩
  intro s r cmd hrunning hsafe hreset hcmd hsound bad
  have hexec : exec cmd s = .next (releaseCReset s r (r.since + 150000000)) := by
    obtain ⟨rfl, hpin⟩ | ⟨rfl, hpin⟩ := hcmd
    · exact exec_computeRstDeassert hrunning hreset hsafe hpin
    · exact exec_gatehouseResetRelease hrunning hreset hsafe hpin
  refine ⟨fun hgood => ⟨_, hexec, ?_⟩, fun c hc hlow hhigh hv hfw => ⟨_, hexec, releaseCReset_of_bad_leaves hc hlow hhigh hv hfw rfl⟩⟩
  obtain ⟨-, hlen, -⟩ := hsound
  obtain ⟨hnow, ht0, hcreset, hvariant, hctxs⟩ := releaseCReset_of_good_leaves (r := r) (at_ := r.since + 150000000) hgood rfl
  exact ⟨hnow, ht0, hcreset, hvariant, hctxs, fun hv hreqs hpins =>
    releaseCReset_of_quiet_leaves hgood rfl hv hreqs hpins hlen⟩

end Sys2Proof.Machine
end

section
/-! SUPPORT. One byte of HBM3E and of a Pantry: what reads and writes of byte lists are, byte by byte (R3, R214, R248). -/

namespace Sys2Proof.Machine

/-! ## One byte memory -/

theorem Mem.readBytes_length (m : Mem) (a n : Nat) : (m.readBytes a n).length = n := by
  simp [Mem.readBytes]

theorem Mem.readBytes_getElem? (m : Mem) (a : Nat) {n i : Nat} (hi : i < n) : (m.readBytes a n)[i]? = some (m.read (a + i)) := by
  have hnear : (m.filter (fun c => a ≤ c.1 && c.1 < a + n)).find? (fun c => c.1 == a + i) = m.find? (fun c => c.1 == a + i) := by
    refine find_filter_of_imp _ _ m fun c _ hc => ?_
    simp only [beq_iff_eq] at hc
    simp [hc, hi]
  simp only [Mem.readBytes, List.getElem?_map, List.getElem?_range hi, Option.map_some]
  rw [Mem.read, hnear]
  rfl

/-- A byte after a write: as written within the range, and as before elsewhere. -/
theorem Mem.read_writeBytes (m : Mem) (a : Nat) (bs : List Byte) (x : Nat) :
    (m.writeBytes a bs).read x = if a ≤ x ∧ x < a + bs.length then bs.getD (x - a) 0 else m.read x := by
  split
  · next h =>
    obtain ⟨i, rfl⟩ := Nat.exists_eq_add_of_le h.1
    have hi : i < bs.length := by omega
    rw [Mem.read_writeBytes_in m a bs i hi, Nat.add_sub_cancel_left, List.getD_eq_getElem _ _ hi]
  · exact Mem.read_writeBytes_out m a bs x (by omega)

/-! ## Bytes under a mask -/

theorem mergeMask_length {old new : List Byte} {mask : List Bool} (hold : old.length = new.length) (hmask : mask.length = new.length) :
    (mergeMask old new mask).length = new.length := by
  simp [mergeMask, hold, hmask]

theorem mergeMask_getD {old new : List Byte} {mask : List Bool} (hold : old.length = new.length) (hmask : mask.length = new.length) {i : Nat}
    (hi : i < new.length) : (mergeMask old new mask).getD i 0 = if mask.getD i false then new.getD i 0 else old.getD i 0 := by
  simp [mergeMask, List.getD_eq_getElem?_getD, hi, hold ▸ hi, hmask ▸ hi]

/-! ## One byte of a Pantry (R214) -/

/-- A range of arbitrary contents holds a byte of a die's Pantry. -/
def staleAt (d x : Nat) (r : Stale) : Bool := r.die == d && r.lo ≤ x && x < r.hi

/-- One byte of a die's Pantry: a free value where a reset left it arbitrary, and the stored byte elsewhere. -/
def pantryByte (m : Memory) (d x : Nat) : Byte := match (m.stale.find? (staleAt d x)).map Stale.seed with
  | some seed => (Config.arbitrary (seed + x)).setWidth 8
  | none => (m.pantry.getD d []).read x

theorem pantryBytes_getElem? (m : Memory) (d a : Nat) {n i : Nat} (hi : i < n) : (pantryBytes m d a n)[i]? = some (pantryByte m d (a + i)) := by
  unfold pantryBytes
  extract_lets bs near
  have hbs : bs[i]? = some ((m.pantry.getD d []).read (a + i)) := Mem.readBytes_getElem? _ a hi
  have hfind : near.find? (fun r => r.lo ≤ a + i && a + i < r.hi) = m.stale.find? (staleAt d (a + i)) := by
    unfold near
    rw [List.find?_filter]
    refine congrArg (fun p => m.stale.find? p) (funext fun r => Bool.eq_iff_iff.mpr ?_)
    simp only [staleAt, Bool.and_eq_true, beq_iff_eq, decide_eq_true_eq]
    omega
  clear_value bs near
  unfold pantryByte
  split
  · next hnone =>
    rw [List.isEmpty_iff.mp hnone, List.find?_nil] at hfind
    rw [← hfind, hbs]
    rfl
  · have hzip : (bs.zip (List.range n))[i]? = some ((m.pantry.getD d []).read (a + i), i) :=
      List.getElem?_zip_eq_some.mpr ⟨hbs, List.getElem?_range hi⟩
    simp only [List.getElem?_map, hzip, Option.map_some, hfind]
    cases m.stale.find? (staleAt d (a + i)) with
    | none => rfl
    | some r => simp only [Option.map_some, Nat.add_assoc]

theorem pantryBytes_length (m : Memory) (d a n : Nat) : (pantryBytes m d a n).length = n := by
  unfold pantryBytes
  extract_lets bs near
  have hbs : bs.length = n := Mem.readBytes_length ..
  split
  · exact hbs
  · simp [hbs]

theorem pantryBytes_one (m : Memory) (d x : Nat) : pantryBytes m d x 1 = [pantryByte m d x] := by
  obtain ⟨b, hb⟩ := List.length_eq_one_iff.mp (pantryBytes_length m d x 1)
  have := pantryBytes_getElem? m d x Nat.zero_lt_one
  simpa [hb] using this

/-- What a write leaves of one range of arbitrary contents. -/
def cutOne (r : Stale) (d a n : Nat) : List Stale :=
  if r.die = d then
    (if r.lo < min r.hi a then [{ r with hi := min r.hi a }] else []) ++
      (if max r.lo (a + n) < r.hi then [{ r with lo := max r.lo (a + n) }] else [])
  else [r]

theorem find_cutOne_inside (r : Stale) {d a n x : Nat} (hx : a ≤ x ∧ x < a + n) : (cutOne r d a n).find? (staleAt d x) = none := by
  rw [List.find?_eq_none]
  intro y hy
  unfold cutOne at hy
  simp only [staleAt, Bool.and_eq_true, beq_iff_eq, decide_eq_true_eq]
  grind

theorem find_cutOne_outside (r : Stale) {d a n x : Nat} (hx : ¬ (a ≤ x ∧ x < a + n)) :
    ((cutOne r d a n).find? (staleAt d x)).map Stale.seed = if staleAt d x r then some r.seed else none := by
  unfold cutOne staleAt
  grind

/-- What a write cuts out of the ranges of arbitrary contents is what it covers. -/
theorem find_cutStale (l : List Stale) (d a n x : Nat) : ((cutStale l d a n).find? (staleAt d x)).map Stale.seed =
    if a ≤ x ∧ x < a + n then none else (l.find? (staleAt d x)).map Stale.seed := by
  induction l with
  | nil => simp [cutStale]
  | cons r l ih =>
    have hcons : cutStale (r :: l) d a n = cutOne r d a n ++ cutStale l d a n := List.flatMap_cons ..
    rw [hcons, List.find?_append]
    by_cases hx : a ≤ x ∧ x < a + n
    · rw [find_cutOne_inside r hx, Option.none_or, ih]
      simp only [if_pos hx]
    · rw [Option.map_or, find_cutOne_outside r hx, ih, if_neg hx, if_neg hx, List.find?_cons]
      cases staleAt d x r <;> rfl

theorem pantryByte_pantryPut {m : Memory} {d : Nat} (hd : d < m.pantry.length) (a : Nat) (bs : List Byte) (x : Nat) :
    pantryByte (pantryPut m d a bs) d x = if a ≤ x ∧ x < a + bs.length then bs.getD (x - a) 0 else pantryByte m d x := by
  have hpantry : (pantryPut m d a bs).pantry.getD d [] = (m.pantry.getD d []).writeBytes a bs := by
    simp [pantryPut, hd]
  have hstale : (pantryPut m d a bs).stale = cutStale m.stale d a bs.length := rfl
  unfold pantryByte
  rw [hpantry, hstale, find_cutStale, Mem.read_writeBytes]
  by_cases hin : a ≤ x ∧ x < a + bs.length
  · simp only [hin, and_self, if_true]
  · simp only [if_neg hin]

end Sys2Proof.Machine
end

section
/-! PROOF. A write at its home (R173, R205, R218 to R220, R226, R247, R248). -/

namespace Sys2Proof.Machine

/-! ## Operations on memory that move no byte -/

/-- An operation on memory that leaves every byte of HBM3E and of the Pantries as it was. -/
structure SameBytes (m n : Memory) : Prop where
  hbm : n.hbm = m.hbm
  pantry : n.pantry = m.pantry
  stale : n.stale = m.stale

/-- One that leaves the poison of every line as it was too. -/
structure SameLines (m n : Memory) : Prop extends SameBytes m n where
  poison : n.poison = m.poison
  pantryPoison : n.pantryPoison = m.pantryPoison

theorem SameBytes.refl (m : Memory) : SameBytes m m := ⟨rfl, rfl, rfl⟩

theorem SameBytes.trans {a b c : Memory} (h : SameBytes a b) (k : SameBytes b c) : SameBytes a c :=
  ⟨k.hbm.trans h.hbm, k.pantry.trans h.pantry, k.stale.trans h.stale⟩

theorem SameBytes.fold {β : Type} {a m : Memory} {f : Memory → β → Memory} {l : List β} (h : SameBytes a m)
    (hf : ∀ m x, SameBytes m (f m x)) : SameBytes a (l.foldl f m) := by
  induction l generalizing m with
  | nil => exact h
  | cons x l ih => exact ih (h.trans (hf m x))

theorem SameLines.refl (m : Memory) : SameLines m m := ⟨.refl m, rfl, rfl⟩

theorem SameLines.trans {a b c : Memory} (h : SameLines a b) (k : SameLines b c) : SameLines a c :=
  ⟨h.toSameBytes.trans k.toSameBytes, k.poison.trans h.poison, k.pantryPoison.trans h.pantryPoison⟩

theorem SameLines.linePoisoned {m n : Memory} (h : SameLines m n) (off : Nat) : linePoisoned n off = linePoisoned m off := by
  simp only [Machine.linePoisoned, h.poison, h.pantryPoison]

theorem SameBytes.pantryByte {m n : Memory} (h : SameBytes m n) (d x : Nat) : pantryByte n d x = pantryByte m d x := by
  simp only [Machine.pantryByte, h.pantry, h.stale]

theorem retag_sameLines (c : Cfg) (m : Memory) (off : Nat) : SameLines m (retag c m off) := by
  unfold retag
  split <;> exact ⟨⟨rfl, rfl, rfl⟩, rfl, rfl⟩

theorem setLarder_sameLines (m : Memory) (l : List LarderLine) : SameLines m { m with larder := l } := ⟨⟨rfl, rfl, rfl⟩, rfl, rfl⟩

theorem setStamp_sameLines (m : Memory) (n : Nat) : SameLines m { m with stamp := n } := ⟨⟨rfl, rfl, rfl⟩, rfl, rfl⟩

theorem modStack_sameLines (m : Memory) (st : Nat) (f : Stack → Stack) : SameLines m (modStack m st f) := ⟨⟨rfl, rfl, rfl⟩, rfl, rfl⟩

theorem toStack_sameLines (c : Cfg) (m : Memory) (line : Nat) : SameLines m (toStack c m line) := by
  unfold toStack
  split
  · exact (setLarder_sameLines m _).trans (retag_sameLines ..)
  · exact .refl m

theorem larderTouch_sameLines (c : Cfg) (m : Memory) (line : Nat) (dirty : Bool) : SameLines m (larderTouch c m line dirty) := by
  unfold larderTouch
  extract_lets fresh stamped
  have hs : SameLines m stamped := setStamp_sameLines m _
  clear_value stamped
  split
  · exact hs.trans (setLarder_sameLines ..)
  · split
    · exact hs.trans (setLarder_sameLines ..)
    · split
      · extract_lets left
        have hleft : SameLines m left := by
          unfold left
          split
          · exact hs.trans (toStack_sameLines ..)
          · exact hs
        exact hleft.trans (setLarder_sameLines ..)
      · split
        · exact hs.trans (toStack_sameLines ..)
        · exact hs

theorem clearUpset_sameLines (m : Memory) (off : Nat) : SameLines m (clearUpset m off) := by
  unfold clearUpset
  split <;> exact ⟨⟨rfl, rfl, rfl⟩, rfl, rfl⟩

/-- Poison set or taken moves no byte, and concerns the line named alone. -/
theorem setPoison_sameBytes (c : Cfg) (m : Memory) (off : Nat) (on : Bool) : SameBytes m (setPoison c m off on) := by
  unfold setPoison
  extract_lets u rest n
  have hu : SameBytes m u := (clearUpset_sameLines m off).toSameBytes
  have hn : SameBytes m n := hu.trans ⟨rfl, rfl, rfl⟩
  clear_value n u
  split
  · split
    · exact hn.trans (retag_sameLines ..).toSameBytes
    · exact hn
  · exact hu.trans ⟨rfl, rfl, rfl⟩
  · exact hu

/-- A list of poisoned lines with one of them set or taken. -/
def poisonSet {α : Type} [BEq α] (l : List α) (x : α) (on : Bool) : List α :=
  if on then x :: l.filter (fun y => y != x) else l.filter (fun y => y != x)

theorem contains_poisonSet_self {α : Type} [BEq α] [LawfulBEq α] (l : List α) (x : α) (on : Bool) : (poisonSet l x on).contains x = on := by
  cases on <;> simp [poisonSet]

theorem contains_poisonSet_ne {α : Type} [BEq α] [LawfulBEq α] (l : List α) {x y : α} (hne : x ≠ y) (on : Bool) :
    (poisonSet l x on).contains y = l.contains y := by
  cases on <;> simp [poisonSet, hne.symm]

theorem setPoison_poison (c : Cfg) (m : Memory) {off : Nat} (h : locOf off = .hbm) (on : Bool) :
    (setPoison c m off on).poison = poisonSet m.poison (off / 64) on := by
  have hu := (clearUpset_sameLines m off).poison
  unfold setPoison
  simp only [h]
  split
  · rw [(retag_sameLines ..).poison, hu]
    rfl
  · rw [hu]
    rfl

theorem setPoison_pantryPoison (c : Cfg) (m : Memory) {off d o : Nat} (h : locOf off = .pantry d o) (on : Bool) :
    (setPoison c m off on).pantryPoison = poisonSet m.pantryPoison (d, o / 64) on := by
  have hu := (clearUpset_sameLines m off).pantryPoison
  unfold setPoison
  simp only [h]
  rw [hu]
  rfl

theorem setPoison_poison_of_ne (c : Cfg) (m : Memory) {off : Nat} (h : locOf off ≠ .hbm) (on : Bool) :
    (setPoison c m off on).poison = m.poison := by
  have hu := (clearUpset_sameLines m off).poison
  unfold setPoison
  cases hloc : locOf off with
  | hbm => exact absurd hloc h
  | pantry d o => exact hu
  | nothing => exact hu

/-- The line named is poisoned afterwards exactly when poison was set. -/
theorem linePoisoned_setPoison (c : Cfg) (m : Memory) {off : Nat} (hmap : locOf off ≠ .nothing) (on : Bool) :
    linePoisoned (setPoison c m off on) off = on := by
  unfold linePoisoned
  cases hloc : locOf off with
  | hbm => simp only [setPoison_poison c m hloc, contains_poisonSet_self]
  | pantry d o => simp only [setPoison_pantryPoison c m hloc, contains_poisonSet_self]
  | nothing => exact absurd hloc hmap

/-- Poison at another line is none of a line's of HBM3E. -/
theorem linePoisoned_setPoison_ne (c : Cfg) (m : Memory) {off x : Nat} (hoff : locOf off = .hbm) (hne : x / 64 ≠ off / 64) (on : Bool) :
    linePoisoned (setPoison c m x on) off = linePoisoned m off := by
  simp only [linePoisoned, hoff]
  by_cases hx : locOf x = .hbm
  · rw [setPoison_poison c m hx, contains_poisonSet_ne _ hne]
  · rw [setPoison_poison_of_ne c m hx]

theorem unpoison_sameBytes (c : Cfg) (m : Memory) (off : Nat) : SameBytes m (unpoison c m off) := by
  unfold unpoison
  split
  · exact setPoison_sameBytes ..
  · exact .refl m

theorem foundUncorrectable_sameBytes (s : State) (who : Who) (off : Nat) (stack scrub : Bool) :
    SameBytes s.memory (foundUncorrectable s who off stack scrub).memory := by
  unfold foundUncorrectable
  split
  · rw [writeError_memory]
    exact setPoison_sameBytes ..
  · split
    · rw [writeError_memory]
      exact setPoison_sameBytes ..
    · dsimp only
      rw [writeError_memory]
      exact SameBytes.fold (modStack_sameLines ..).toSameBytes (fun m o => setPoison_sameBytes ..)
  · exact .refl _

theorem foundCorrected_sameLines (s : State) (off : Nat) : SameLines s.memory (foundCorrected s off).memory :=
  (modStack_sameLines ..).trans (larderTouch_sameLines ..)

/-! ## What a write of a line stores -/

/-- The bytes that a write under a mask lays over a range. -/
def mergedBytes (m : Memory) (off : Nat) (bs : List Byte) (mask : List Bool) : List Byte := mergeMask (rawRead m off bs.length) bs mask

theorem lineWrite_sameBytes (c : Cfg) (m : Memory) (off : Nat) (bs : List Byte) (mask : List Bool) :
    SameBytes (rawWrite m off (mergedBytes m off bs mask)) (lineWrite c m off bs mask) := by
  unfold lineWrite
  extract_lets raw merged
  have hmerged : SameBytes raw merged := by
    unfold merged
    split
    · exact .refl _
    · exact ⟨rfl, rfl, rfl⟩
  split
  · exact hmerged.trans (setPoison_sameBytes ..)
  · exact hmerged

theorem coversLine_write {off : Nat} {bs : List Byte} {mask : List Bool} :
    coversLine off (.write bs mask) = true ↔ off % 64 = 0 ∧ bs.length = 64 ∧ mask.length = 64 ∧ mask.all id = true := by
  simp [coversLine, and_assoc]

/-- A write of a whole line takes its poison (R173). -/
theorem linePoisoned_lineWrite_of_covers (c : Cfg) (m : Memory) {off : Nat} (hmap : locOf off ≠ .nothing) {bs : List Byte} {mask : List Bool}
    (hcovers : coversLine off (.write bs mask) = true) : linePoisoned (lineWrite c m off bs mask) off = false := by
  unfold lineWrite
  extract_lets raw merged
  rw [if_pos (coversLine_write.mp hcovers)]
  exact linePoisoned_setPoison c merged hmap false

theorem rawRead_length (m : Memory) (off n : Nat) : (rawRead m off n).length = n := by
  unfold rawRead
  split
  · exact Mem.readBytes_length ..
  · exact pantryBytes_length ..
  · exact List.length_replicate

theorem lineWrite_pantry_of_hbm (c : Cfg) (m : Memory) {off : Nat} (hoff : locOf off = .hbm) (bs : List Byte) (mask : List Bool) :
    (lineWrite c m off bs mask).pantry = m.pantry := by
  rw [(lineWrite_sameBytes ..).pantry]
  simp only [rawWrite, hoff]

/-- A write shorter than a line covers no line of a Pantry whole. -/
theorem pantryPut_pantryPoison_of_short (m : Memory) (d a : Nat) {bs : List Byte} (hshort : bs.length < 64) :
    (pantryPut m d a bs).pantryPoison = m.pantryPoison := by
  refine List.filter_eq_self.mpr fun x _ => ?_
  simp only [Bool.not_eq_true', Bool.and_eq_false_iff, decide_eq_false_iff_not]
  omega

theorem rawWrite_linePoisoned_of_short (m : Memory) (off : Nat) {bs : List Byte} (hshort : bs.length < 64) :
    linePoisoned (rawWrite m off bs) off = linePoisoned m off := by
  unfold rawWrite
  cases hloc : locOf off with
  | hbm => simp only [linePoisoned, hloc]
  | pantry d o => simp only [linePoisoned, hloc, pantryPut_pantryPoison_of_short m d o hshort]
  | nothing => rfl

theorem rawWrite_poison (m : Memory) (off : Nat) (bs : List Byte) : (rawWrite m off bs).poison = m.poison := by
  unfold rawWrite
  split <;> rfl

section
variable {bs : List Byte} {mask : List Bool} (hmask : mask.length = bs.length)
include hmask

theorem mergedBytes_length (m : Memory) (off : Nat) : (mergedBytes m off bs mask).length = bs.length :=
  mergeMask_length (rawRead_length ..) hmask

theorem mergedBytes_getD (m : Memory) (off : Nat) {i : Nat} (hi : i < bs.length) :
    (mergedBytes m off bs mask).getD i 0 = if mask.getD i false then bs.getD i 0 else (rawRead m off bs.length).getD i 0 :=
  mergeMask_getD (rawRead_length ..) hmask hi

/-- A part write leaves it (R173). -/
theorem linePoisoned_lineWrite_of_part (c : Cfg) (m : Memory) {off : Nat} (hline : off % 64 + bs.length ≤ 64)
    (hpart : coversLine off (.write bs mask) = false) (hpoison : linePoisoned m off = true) :
    linePoisoned (lineWrite c m off bs mask) off = true := by
  have hnot : ¬ (off % 64 = 0 ∧ bs.length = 64 ∧ mask.length = 64 ∧ mask.all id = true) := by
    rw [← coversLine_write, hpart]
    exact Bool.false_ne_true
  unfold lineWrite
  rw [if_neg hnot]
  split
  · next hall =>
    have hshort : (mergedBytes m off bs mask).length < 64 := by
      rw [mergedBytes_length hmask]
      by_contra hlong
      exact hnot ⟨by omega, by omega, by omega, hall⟩
    exact (rawWrite_linePoisoned_of_short m off hshort).trans hpoison
  · rw [← hpoison]
    simp only [linePoisoned, rawWrite_poison]

/-- A byte of HBM3E after a write: the masked bytes as written, every other one as before (R248). -/
theorem lineWrite_hbm (c : Cfg) (m : Memory) {off : Nat} (hoff : locOf off = .hbm) (a : Nat) : (lineWrite c m off bs mask).hbm.read a =
    if off ≤ a ∧ a < off + bs.length ∧ mask.getD (a - off) false = true then bs.getD (a - off) 0 else m.hbm.read a := by
  have hraw : (rawWrite m off (mergedBytes m off bs mask)).hbm = m.hbm.writeBytes off (mergedBytes m off bs mask) := by
    simp only [rawWrite, hoff]
  rw [(lineWrite_sameBytes ..).hbm, hraw, Mem.read_writeBytes, mergedBytes_length hmask]
  by_cases hin : off ≤ a ∧ a < off + bs.length
  · have hold : (rawRead m off bs.length).getD (a - off) 0 = m.hbm.read a := by
      simp only [rawRead, hoff, List.getD_eq_getElem?_getD, Mem.readBytes_getElem? m.hbm off (show a - off < bs.length by omega),
        Option.getD_some, Nat.add_sub_cancel' hin.1]
    rw [if_pos hin, mergedBytes_getD hmask m off (by omega), hold]
    simp only [hin, true_and]
  · rw [if_neg hin, if_neg (fun h => hin ⟨h.1, h.2.1⟩)]

/-- A byte of a Pantry after a write, likewise at the Pantry's own offset. -/
theorem lineWrite_pantryByte (c : Cfg) {m : Memory} {off d o : Nat} (hoff : locOf off = .pantry d o) (hd : d < m.pantry.length) (a : Nat) :
    pantryByte (lineWrite c m off bs mask) d a =
      if o ≤ a ∧ a < o + bs.length ∧ mask.getD (a - o) false = true then bs.getD (a - o) 0 else pantryByte m d a := by
  have hraw : rawWrite m off (mergedBytes m off bs mask) = pantryPut m d o (mergedBytes m off bs mask) := by
    simp only [rawWrite, hoff]
  rw [(lineWrite_sameBytes ..).pantryByte, hraw, pantryByte_pantryPut hd, mergedBytes_length hmask]
  by_cases hin : o ≤ a ∧ a < o + bs.length
  · have hold : (rawRead m off bs.length).getD (a - o) 0 = pantryByte m d a := by
      simp only [rawRead, hoff, List.getD_eq_getElem?_getD, pantryBytes_getElem? m d o (show a - o < bs.length by omega),
        Option.getD_some, Nat.add_sub_cancel' hin.1]
    rw [if_pos hin, mergedBytes_getD hmask m off (by omega), hold]
    simp only [hin, true_and]
  · rw [if_neg hin, if_neg (fun h => hin ⟨h.1, h.2.1⟩)]

end

theorem lineWrite_other_of_pantry (c : Cfg) (m : Memory) {off d o : Nat} (hoff : locOf off = .pantry d o) (bs : List Byte) (mask : List Bool) :
    (lineWrite c m off bs mask).hbm = m.hbm ∧
      ∀ e, e ≠ d → (lineWrite c m off bs mask).pantry.getD e [] = m.pantry.getD e [] := by
  have hsame := lineWrite_sameBytes c m off bs mask
  rw [hsame.hbm, hsame.pantry]
  simp only [rawWrite, hoff, pantryPut, true_and]
  intro e he
  rw [List.getD_eq_getElem?_getD, List.getElem?_modify_ne _ _ he.symm, ← List.getD_eq_getElem?_getD]

/-! ## A write performed at its home -/

/-- Memory b is memory a with a write of a line in it: what comes before the write moves no byte and, under a condition, leaves the poison
of the line; what comes after it moves no byte and no poison. -/
def Landed (c : Cfg) (off : Nat) (bs : List Byte) (mask : List Bool) (calm : Prop) (a b : Memory) : Prop :=
  ∃ m, SameBytes a m ∧ (calm → linePoisoned a off = true → linePoisoned m off = true) ∧ SameLines (lineWrite c m off bs mask) b

section
variable {c : Cfg} {off : Nat} {bs : List Byte} {mask : List Bool} {calm : Prop} {a b m n : Memory}

theorem Landed.after (h : Landed c off bs mask calm a b) (k : SameLines b n) : Landed c off bs mask calm a n := by
  obtain ⟨x, hbytes, hpoison, hwrite⟩ := h
  exact ⟨x, hbytes, hpoison, hwrite.trans k⟩

theorem Landed.before (h : Landed c off bs mask calm a b) (k : SameBytes m a)
    (hp : calm → linePoisoned m off = true → linePoisoned a off = true) : Landed c off bs mask calm m b := by
  obtain ⟨x, hbytes, hpoison, hwrite⟩ := h
  exact ⟨x, k.trans hbytes, fun hc hm => hpoison hc (hp hc hm), hwrite⟩

/-- With no further error the code finds a poisoned block poisoned (R219). -/
theorem stackFinds_of_poisoned {ecc : Ecc} (hclean : ecc.errors = []) (hpoison : linePoisoned m off = true) : stackFinds m off ecc = .poison := by
  unfold stackFinds
  rw [if_pos hpoison, hclean, List.append_nil]
  decide

theorem applyOp_landed (s : State) : Landed s.cfg off bs mask calm s.memory (applyOp s off (.write bs mask)).1.memory :=
  ⟨s.memory, .refl _, fun _ h => h, .refl _⟩

theorem applyUncorrectable_landed (s : State) (who : Who) (stack : Bool) (hnot : calm → linePoisoned s.memory off = false) :
    Landed s.cfg off bs mask calm s.memory (applyUncorrectable s who off stack (.write bs mask)).1.memory := by
  have hwrite := applyOp_landed (off := off) (bs := bs) (mask := mask) (calm := calm) (foundUncorrectable s who off stack false)
  rw [(foundUncorrectable_calm (.refl s) who off stack false).cfg] at hwrite
  refine hwrite.before (foundUncorrectable_sameBytes ..) fun hc hp => ?_
  rw [hnot hc] at hp
  contradiction

theorem applyArray_landed (s : State) (who : Who) :
    Landed s.cfg off bs mask calm s.memory (applyArray s who off (.write bs mask)).1.memory := by
  unfold applyArray
  split
  · exact applyOp_landed s
  · next hclean =>
    split
    · exact applyUncorrectable_landed s who false fun _ => Bool.eq_false_iff.mpr hclean
    · exact applyOp_landed s

/-- What the code finds moves no byte unless it takes an error for other data (R218 to R220). -/
theorem applyFound_landed (s : State) (who : Who) (hmap : locOf off ≠ .nothing) {f : Found} (hother : ∀ counted flip, f ≠ .other counted flip)
    (hfound : calm → linePoisoned s.memory off = true → f = .poison) :
    Landed s.cfg off bs mask calm s.memory (applyFound s who off (.write bs mask) f).1.memory := by
  cases f with
  | poison =>
    exact (applyOp_landed (s.modMem (fun m => setPoison s.cfg m off true))).before (setPoison_sameBytes ..)
      fun _ _ => linePoisoned_setPoison s.cfg s.memory hmap true
  | uncorrectable =>
    refine applyUncorrectable_landed s who true fun hc => Bool.eq_false_iff.mpr fun hp => ?_
    cases hfound hc hp
  | clean =>
    refine (applyOp_landed (s.modMem (fun m => unpoison s.cfg m off))).before (unpoison_sameBytes ..) fun hc hp => ?_
    cases hfound hc hp
  | corrected =>
    let read := s.modMem (fun m => unpoison s.cfg m off)
    refine (applyOp_landed (foundCorrected read off)).before
      ((unpoison_sameBytes s.cfg s.memory off).trans (foundCorrected_sameLines read off).toSameBytes) fun hc hp => ?_
    cases hfound hc hp
  | other counted flip => exact absurd rfl (hother counted flip)

/-- A write that its home acknowledges has landed (R247, R248). -/
theorem performAt_landed {s t : State} {who : Who} {ecc : Ecc} (h : performAt s who off (.write bs mask) ecc = (t, .ack))
    (hother : ∀ counted flip, stackFinds s.memory off ecc ≠ .other counted flip) :
    locOf off ≠ .nothing ∧ Landed s.cfg off bs mask (ecc.errors = []) s.memory t.memory := by
  unfold performAt at h
  split at h
  · cases h
  · split at h
    · cases h
    · next d o hloc =>
      have ht : t = (applyArray s who off (.write bs mask)).1 := by rw [h]
      rw [ht]
      exact ⟨by simp [hloc], applyArray_landed s who⟩
    · next hloc =>
      have hmap : locOf off ≠ .nothing := by simp [hloc]
      refine ⟨hmap, ?_⟩
      split at h
      · cases h
      · dsimp only at h
        obtain ⟨rfl, -⟩ := Prod.mk.inj h
        refine Landed.after ?_ (larderTouch_sameLines ..)
        split
        · exact applyFound_landed s who hmap hother stackFinds_of_poisoned
        · exact applyArray_landed s who

end

/-- The line that an access pushes out is another than its own. -/
theorem evictedLine_ne {c : Cfg} {m : Memory} {off l : Nat} (h : evictedLine c m off = some l) : l ≠ off / 64 := by
  unfold evictedLine at h
  split at h
  · cases h
  · next hfresh =>
    split at h
    · next v hv =>
      split at h
      · obtain rfl := Option.some.inj h
        have hmem : v ∈ m.larder := List.mem_of_mem_filter (minOn_eq_some hv).1
        intro heq
        refine hfresh ?_
        rw [larderFind, List.find?_isSome.mpr ⟨v, hmem, by simp [heq]⟩, Bool.true_or]
      · cases h
    · cases h

/-- An error met at a line pushed out moves no byte and leaves the poison of the line that is reached. -/
theorem evictUpset_poison (s : State) {off : Nat} (hoff : locOf off = .hbm) :
    SameBytes s.memory (evictUpset s off).memory ∧ linePoisoned (evictUpset s off).memory off = linePoisoned s.memory off := by
  unfold evictUpset
  split
  · next l hl =>
    split
    · refine ⟨foundUncorrectable_sameBytes .., ?_⟩
      have hne : 64 * l / 64 ≠ off / 64 := by
        rw [Nat.mul_div_cancel_left l (by omega)]
        exact evictedLine_ne hl
      unfold foundUncorrectable
      split
      · rw [writeError_memory]
        exact linePoisoned_setPoison_ne _ _ hoff hne true
      · simp only [Bool.not_false, if_true, writeError_memory]
        exact linePoisoned_setPoison_ne _ _ hoff hne true
      · rfl
    · exact ⟨.refl _, rfl⟩
  · exact ⟨.refl _, rfl⟩

theorem performHome_landed {s t : State} {who : Who} {off : Nat} {bs : List Byte} {mask : List Bool} {ecc : Ecc}
    (h : performHome s who off (.write bs mask) ecc = (t, .ack))
    (hother : ∀ counted flip, stackFinds s.memory off ecc ≠ .other counted flip) :
    locOf off ≠ .nothing ∧ Landed s.cfg off bs mask (ecc.errors = []) s.memory t.memory := by
  unfold performHome at h
  extract_lets u at h
  obtain ⟨hcfg, hbytes, hpoison⟩ : u.cfg = s.cfg ∧ SameBytes s.memory u.memory ∧ linePoisoned u.memory off = linePoisoned s.memory off := by
    unfold u
    split
    · next hoff => exact ⟨(evictUpset_calm (.refl s) off).cfg, evictUpset_poison s hoff⟩
    · exact ⟨rfl, .refl _, rfl⟩
  clear_value u
  cases hp : performAt u who off (.write bs mask) ecc with | mk p ans
  obtain ⟨hans, hmem⟩ : ans = .ack ∧ t.memory = p.memory := by
    rw [hp] at h
    dsimp only at h
    split at h <;> obtain ⟨rfl, hans⟩ := Prod.mk.inj h <;> simp_all [foldl_count_memory, countPantry_memory]
  subst hans
  obtain ⟨hmap, hlanded⟩ := performAt_landed hp (by simpa only [stackFinds, hpoison] using hother)
  rw [hmem, ← hcfg]
  exact ⟨hmap, hlanded.before hbytes fun _ hs => hpoison.trans hs⟩

/-- Settles O31: what a write performed at its home does to memory is the write of its line, with nothing before or after it that moves a
byte. -/
theorem homeWritesStoreExactly : Obligations.HomeWritesStoreExactly := by
  unfold Obligations.HomeWritesStoreExactly
  intro s t who off bs mask ecc h hmask hline hother
  obtain ⟨hmap, m, hbytes, hpoison, hwrite⟩ := performHome_landed h hother
  have ht : t = (performHome s who off (.write bs mask) ecc).1 := by rw [h]
  refine ⟨fun hoff => ⟨fun a => ?_, ?_⟩, fun d o hoff hd => ⟨fun a => ?_, fun e he => ?_, ?_⟩, fun hcovers => ?_,
    fun hp hclean hpart => ?_, ?_, ?_⟩
  · rw [hwrite.hbm, lineWrite_hbm hmask s.cfg m hoff, hbytes.hbm]
  · rw [hwrite.pantry, lineWrite_pantry_of_hbm s.cfg m hoff, hbytes.pantry]
  · rw [pantryBytes_one, pantryBytes_one, hwrite.pantryByte, lineWrite_pantryByte hmask s.cfg hoff (hbytes.pantry ▸ hd), hbytes.pantryByte,
      apply_ite (fun b => [b])]
  · rw [hwrite.pantry, (lineWrite_other_of_pantry s.cfg m hoff bs mask).2 e he, hbytes.pantry]
  · rw [hwrite.hbm, (lineWrite_other_of_pantry s.cfg m hoff bs mask).1, hbytes.hbm]
  · rw [hwrite.linePoisoned, linePoisoned_lineWrite_of_covers s.cfg m hmap hcovers]
  · rw [hwrite.linePoisoned, linePoisoned_lineWrite_of_part hmask s.cfg m hline hpart (hpoison hclean hp)]
  · rw [ht, (performHome_calm (.refl s) who off _ ecc).cfg]
  · rw [ht, (performHome_keeps (.refl s) who off _ ecc).queue]

end Sys2Proof.Machine
end

section
/-! PROOF. Bench cores stop and wake, and the boundary of a quantum (R191, R200, R201, R203, R370, R404). -/

namespace Sys2Proof.Machine

/-! ## A die after a change, and a core of it -/

theorem State.die_modDie_same {s : State} {d : Nat} {f : Die → Die} (h : d < s.dies.length) : (s.modDie d f).die d = f (s.die d) := by
  simp [State.die, h]

theorem Die.core_cold (k : Nat) : Die.cold.core k = Core.cold := by
  simp only [Die.core, Die.cold, List.getD_eq_getElem?_getD, List.getElem?_replicate]
  split <;> rfl

/-- Past the last die every core is free, so a core that has an owner is on a die that there is. -/
theorem State.die_lt_of_owner_ne_free {s : State} {d k : Nat} (howner : ((s.die d).core k).owner ≠ .free) : d < s.dies.length := by
  by_contra hge
  have hcold : s.die d = Die.cold := List.getD_eq_default _ _ (Nat.le_of_not_lt hge)
  exact howner (by rw [hcold, Die.core_cold]; rfl)

theorem Die.core_owner_ne_collective {x : Die} (hcores : ∀ k ∈ x.cores, k.owner ≠ .collective) (k : Nat) : (x.core k).owner ≠ .collective := by
  rw [Die.core, List.getD_eq_getElem?_getD]
  cases hk : x.cores[k]? with
  | none => simp [Core.cold]
  | some y => exact hcores y (List.mem_of_getElem? hk)

/-- A core given to an owner, on a die that has it, has that owner. -/
theorem ownCores_owner {s : State} {d k : Nat} (o : CoreOwner) (hd : d < s.dies.length) (hk : k < (s.die d).cores.length) (hrange : k < 32) :
    (((ownCores s d [k] o).die d).core k).owner = o := by
  rw [ownCores, State.die_modDie_same hd]
  simp [Die.core, hk, hrange, giveCore]

/-! ## A core's clock (R191) -/

section
variable {d core : DieIx} {s : State} {k : Core} (hk : k = (s.die d.val).core core.val) (hup : s.up = true)
include hk hup

theorem exec_benchCoreStop_of_idle (hawake : k.awake = true) (hidle : k.owner = .free ∨ k.wakeLatched = true) :
    exec (.benchCoreStop d core) s = .next (modCore (s.upTo (k.idleSince + idleGapNs s + 200)) d.val core.val
      (fun x => { x with awake := false, waking := x.wakeLatched, wakeLatched := false })) := by
  subst hk
  simp only [exec, execBenchCoreStop, hup, hawake, hidle, and_self, if_true]

theorem exec_benchCoreWake_of_waking (hawake : k.awake = false) (hwaking : k.waking = true) :
    exec (.benchCoreWake d core) s = .next (modCore (s.upTo (s.now + 1000)) d.val core.val
      (fun x => { x with awake := true, waking := false, idleSince := s.now + 1000 })) := by
  subst hk
  simp only [exec, execBenchCoreWake, hup, hawake, hwaking, and_self, if_true]

end

/-! ## The window of core 31 (R203) -/

theorem nextQuantum_of_notDue {x : Die} (hdue : x.replayDue = false) :
    nextQuantum x = { x with quanta31 := (x.quanta31 + 1) % 16, replayDue := (x.quanta31 + 1) % 16 == 0 } := by
  simp [nextQuantum, hdue]

/-- A share still to be used stays due, and its window does not end. -/
theorem nextQuantum_of_due {x : Die} (hdue : x.replayDue = true) :
    nextQuantum x = { x with quanta31 := if x.quanta31 = 15 then 15 else (x.quanta31 + 1) % 16 } := by
  simp [nextQuantum, hdue]

/-! ## A boundary at which collective work holds and needs no core (R200, R201) -/

theorem collNeed_of_noColl {s : State} (hitems : ∀ i ∈ s.items, kindOf i.words ≠ kColl) (d : Nat) : collNeed s d = 0 := by
  rw [collNeed, List.length_eq_zero_iff, List.filter_eq_nil_iff]
  intro i hi
  simp [collWorks, hitems i hi]

section
variable {s : State} {d : Nat}

theorem collShed_of_noneHeld (hloss : (s.die d).lossOrder = []) (hcores : ∀ k ∈ (s.die d).cores, k.owner ≠ .collective) : collShed s d = s := by
  have hheld : (List.range 32).filter (fun k => ((s.die d).core k).owner == .collective) = [] := by
    rw [List.filter_eq_nil_iff]
    intro k _
    simpa using Die.core_owner_ne_collective hcores k
  simp [collShed, hheld, giveBack_of_noLoss hloss]

theorem collTake_of_noneNeeded (hneed : collNeed s d = 0) (hloss : (s.die d).lossOrder = [])
    (hcores : ∀ k ∈ (s.die d).cores, k.owner ≠ .collective) (k : Nat) : collTake s d k = s := by
  have hwants : collWants s d = false := by simp [collWants, hneed]
  simp only [collTake, collShed_of_noneHeld hloss hcores, collGrab_of_noNeed hneed, hwants, Bool.false_and, Bool.false_eq_true, if_false]
  split <;> rfl

end

/-! ## The replay's share of core 31 (R203, R404) -/

theorem replayTake_of_noSample {s : State} {d : Nat} (hsample : pendingSample s d = none) : replayTake s d = s := by
  simp [replayTake, hsample]

theorem replayTake_of_free {s : State} {d : Nat} (hspares : (s.die d).sparesFree = 0) (hdue : (s.die d).replayDue = true)
    (hsample : (pendingSample s d).isSome = true) (howner : ((s.die d).core 31).owner = .free) :
    replayTake s d = (ownCores s d [31] (.replay none)).modDie d (fun y => { y with replayDue := false }) := by
  simp [replayTake, hspares, hdue, Option.isNone_eq_false_iff.mpr hsample, howner]

/-! ## BENCH_QUANTUM (R200 to R203) -/

/-- The state at a boundary of a core, before any core changes hands. -/
def atQuantum (s : State) (d k : Nat) : State :=
  if k = 31 then (s.upTo (s.now + quantumNs)).modDie d nextQuantum else s.upTo (s.now + quantumNs)

theorem upTo_quantum (s : State) : s.upTo (s.now + quantumNs) = { s with now := s.now + 2048 } :=
  State.upTo_of_le (Nat.le_add_right _ _)

theorem atQuantum_eq (s : State) (d k : Nat) : atQuantum s d k = if k = 31 then
    { s with now := s.now + 2048, dies := s.dies.modify d nextQuantum } else { s with now := s.now + 2048 } := by
  rw [atQuantum, upTo_quantum]
  rfl

@[simp] theorem atQuantum_items (s : State) (d k : Nat) : (atQuantum s d k).items = s.items := by
  unfold atQuantum; split <;> rfl

@[simp] theorem atQuantum_dies_length (s : State) (d k : Nat) : (atQuantum s d k).dies.length = s.dies.length := by
  unfold atQuantum; split <;> simp

@[simp] theorem pendingSample_atQuantum (s : State) (d k : Nat) : pendingSample (atQuantum s d k) d = pendingSample s d := by
  unfold atQuantum; split <;> rfl

theorem atQuantum_die {s : State} {d : Nat} (hd : d < s.dies.length) (k : Nat) :
    (atQuantum s d k).die d = if k = 31 then nextQuantum (s.die d) else s.die d := by
  unfold atQuantum
  split
  · exact State.die_modDie_same hd
  · rfl

section
variable {s : State} {d : Nat} (hd : d < s.dies.length) (k : Nat)
include hd

theorem atQuantum_cores : ((atQuantum s d k).die d).cores = (s.die d).cores := by
  rw [atQuantum_die hd]; split <;> rfl

theorem atQuantum_core (n : Nat) : ((atQuantum s d k).die d).core n = (s.die d).core n := by
  rw [Die.core, atQuantum_cores hd]; rfl

theorem atQuantum_lossOrder : ((atQuantum s d k).die d).lossOrder = (s.die d).lossOrder := by
  rw [atQuantum_die hd]; split <;> rfl

theorem atQuantum_sparesFree : ((atQuantum s d k).die d).sparesFree = (s.die d).sparesFree := by
  rw [atQuantum_die hd]; split <;> rfl

end

section
variable {d core : DieIx} {s u : State} (hlive : live s = true) (hu : u = atQuantum s d.val core.val)
include hlive hu

/-- A core that replays gives its quantum to the sample. -/
theorem exec_benchQuantum_of_replay {o : Option ItemRef} (howner : ((u.die d.val).core core.val).owner = .replay o) (replay : Bool) :
    exec (.benchQuantum d core replay) s = .next (replayGive u d.val) := by
  subst hu
  unfold atQuantum at howner ⊢
  simp only [exec, execBenchQuantum, hlive, if_true, howner]

/-- A core that an item holds at a boundary at which no replay takes it is left to collective work. -/
theorem exec_benchQuantum_of_item {r : ItemRef} (howner : ((u.die d.val).core core.val).owner = .item r) (htake : replayTake u d.val = u)
    (replay : Bool) : exec (.benchQuantum d core replay) s = .next (collTake u d.val core.val) := by
  subst hu
  unfold atQuantum at howner htake ⊢
  simp only [exec, execBenchQuantum, hlive, if_true, howner, htake, ite_self]

/-- Core 31 goes from no owner to the replay that uses its share. -/
theorem exec_benchQuantum_of_taken {t : State} {o : Option ItemRef} {replay : Bool} (hcore : core = 31)
    (howner : ((u.die d.val).core core.val).owner = .free) (huse : replay = true ∨ (u.die d.val).quanta31 = 15)
    (ht : replayTake u d.val = t) (htaken : ((t.die d.val).core core.val).owner = .replay o) :
    exec (.benchQuantum d core replay) s = .next t := by
  have h31 : core.val = 31 := congrArg Fin.val hcore
  subst hu ht
  unfold atQuantum at howner huse htaken ⊢
  simp only [h31, if_true] at howner huse htaken ⊢
  simp only [exec, execBenchQuantum, hlive, h31, if_true, howner, huse, and_self, htaken]

end

/-- Settles O38, by a core's state where its clock stops or starts again, and by what a boundary of a quantum does to the owner of its core. -/
theorem benchCoresStopAndWake : Obligations.BenchCoresStopAndWake := by
  refine ⟨?stop, ?wake, ?quantum, fun x => ⟨nextQuantum_of_notDue, nextQuantum_of_due⟩, ?replay⟩
  case stop =>
    intro d core s hup hawake hidle
    exact exec_benchCoreStop_of_idle rfl hup hawake hidle
  case wake =>
    intro d core s hup hawake hwaking
    rw [exec_benchCoreWake_of_waking rfl hup hawake hwaking, State.upTo_of_le (Nat.le_add_right _ _)]
    rfl
  case quantum =>
    intro d core s r hlive howner hitems hloss hcores hsample replay
    have hd : d.val < s.dies.length := State.die_lt_of_owner_ne_free (by rw [howner]; exact CoreOwner.noConfusion)
    rw [exec_benchQuantum_of_item hlive rfl ((congrArg Core.owner (atQuantum_core hd _ _)).trans howner)
        (replayTake_of_noSample (by rw [pendingSample_atQuantum, hsample])),
      collTake_of_noneNeeded (collNeed_of_noColl (by rwa [atQuantum_items]) _) (by rw [atQuantum_lossOrder hd, hloss])
        (by rwa [atQuantum_cores hd]), atQuantum_eq]
  case replay =>
    intro d replay s u o hlive hd hu
    replace hu : u = atQuantum s d.val 31 := hu.trans (atQuantum_eq s d.val 31).symm
    have hcore : (u.die d.val).core 31 = (s.die d.val).core 31 := by rw [hu, atQuantum_core hd]
    refine ⟨fun howner => exec_benchQuantum_of_replay hlive hu (hcore ▸ howner) replay, fun howner hspares hsample hdue huse hlen => ?_⟩
    have hdie : u.die d.val = nextQuantum (s.die d.val) := by rw [hu, atQuantum_die hd, if_pos rfl]
    have hdies : d.val < u.dies.length := by rwa [hu, atQuantum_dies_length]
    have hcores : 31 < (u.die d.val).cores.length := by rw [hu, atQuantum_cores hd, hlen]; decide
    have htake : replayTake u d.val = (ownCores u d.val [31] (.replay none)).modDie d.val (fun y => { y with replayDue := false }) :=
      replayTake_of_free (by rw [hu, atQuantum_sparesFree hd, hspares]) (by rw [hdie, hdue]) (by rw [hu, pendingSample_atQuantum, hsample])
        (by rw [hcore, howner])
    refine exec_benchQuantum_of_taken (o := none) hlive hu rfl (hcore ▸ howner) (by rwa [hdie]) htake ?_
    rw [State.die_modDie_same (by simpa [ownCores] using hdies)]
    exact ownCores_owner _ hdies hcores (by decide)

end Sys2Proof.Machine
end

section
/-! PROOF. What an access does to the bytes of its home, whatever it answers (R173, R205, R218 to R220, R226, R228 to R230, R232, R247). -/

namespace Sys2Proof.Machine

theorem SameBytes.rawRead {m n : Memory} (h : SameBytes m n) (off k : Nat) : rawRead n off k = rawRead m off k := by
  unfold Machine.rawRead pantryBytes
  rw [h.hbm, h.pantry, h.stale]

/-- The answers of an access that its home did not perform, or that met poison or an error. -/
def Ans.failed : Ans → Bool
  | .refused | .retry | .poisoned | .uncorrectable _ => true
  | _ => false

theorem applyOp_not_failed (s : State) (off : Nat) (op : AccOp) : (applyOp s off op).2.failed = false := by
  cases op <;> rfl

/-- Memory b is what an access with an answer leaves of memory a: one that failed moved no byte; any other operated on what it found, with no
byte moved afterwards, nor before it under a condition. -/
def Answered (off : Nat) (op : AccOp) (calm : Prop) (a b : Memory) (ans : Ans) : Prop :=
  (ans.failed = true ∧ SameBytes a b) ∨
    ∃ u : State, (calm → SameBytes a u.memory) ∧ (applyOp u off op).2 = ans ∧ SameBytes (applyOp u off op).1.memory b

section
variable {off : Nat} {op : AccOp} {calm : Prop} {a b m n : Memory} {ans : Ans}

theorem Answered.after (h : Answered off op calm a b ans) (k : SameBytes b n) : Answered off op calm a n ans := by
  obtain ⟨hfailed, hsame⟩ | ⟨u, hbefore, hans, hafter⟩ := h
  · exact .inl ⟨hfailed, hsame.trans k⟩
  · exact .inr ⟨u, hbefore, hans, hafter.trans k⟩

theorem Answered.before (h : Answered off op calm a b ans) (k : SameBytes m a) : Answered off op calm m b ans := by
  obtain ⟨hfailed, hsame⟩ | ⟨u, hbefore, hans, hafter⟩ := h
  · exact .inl ⟨hfailed, k.trans hsame⟩
  · exact .inr ⟨u, fun hc => k.trans (hbefore hc), hans, hafter⟩

theorem Answered.of_applied {u : State} (h : calm → SameBytes a u.memory) :
    Answered off op calm a (applyOp u off op).1.memory (applyOp u off op).2 := .inr ⟨u, h, rfl, .refl _⟩

theorem Answered.of_failed (h : SameBytes a b) (hfailed : ans.failed = true) : Answered off op calm a b ans := .inl ⟨hfailed, h⟩

theorem applyPoisoned_answered (s : State) : Answered off op calm s.memory (applyPoisoned s off op).1.memory (applyPoisoned s off op).2 := by
  cases op with
  | read k => exact .of_failed (.refl _) rfl
  | atomic code v c => exact .of_failed (.refl _) rfl
  | write bs mask => exact .of_applied fun _ => .refl _
  | poison => exact .of_applied fun _ => .refl _

theorem applyUncorrectable_answered (s : State) (who : Who) (stack : Bool) :
    Answered off op calm s.memory (applyUncorrectable s who off stack op).1.memory (applyUncorrectable s who off stack op).2 := by
  have hfound := foundUncorrectable_sameBytes s who off stack false
  cases op with
  | write bs mask => exact .of_applied fun _ => hfound
  | read k => exact .of_failed hfound rfl
  | atomic code v c => exact .of_failed hfound rfl
  | poison => exact .of_failed hfound rfl

theorem applyArray_answered (s : State) (who : Who) :
    Answered off op calm s.memory (applyArray s who off op).1.memory (applyArray s who off op).2 := by
  unfold applyArray
  split
  · exact applyPoisoned_answered s
  · split
    · exact applyUncorrectable_answered s who false
    · exact .of_applied fun _ => .refl _

theorem applyFound_answered (s : State) (who : Who) {f : Found} (hother : calm → ∀ counted flip, f ≠ .other counted flip) :
    Answered off op calm s.memory (applyFound s who off op f).1.memory (applyFound s who off op f).2 := by
  cases f with
  | poison => exact (applyPoisoned_answered (s.modMem (fun m => setPoison s.cfg m off true))).before (setPoison_sameBytes ..)
  | uncorrectable => exact applyUncorrectable_answered s who true
  | clean => exact .of_applied fun _ => unpoison_sameBytes ..
  | corrected => exact .of_applied fun _ =>
      (unpoison_sameBytes s.cfg s.memory off).trans (foundCorrected_sameLines (s.modMem (fun m => unpoison s.cfg m off)) off).toSameBytes
  | other counted flip => exact .of_applied fun hc => absurd rfl (hother hc counted flip)

theorem performAt_answered (s : State) (who : Who) {ecc : Ecc}
    (hother : calm → ∀ counted flip, stackFinds s.memory off ecc ≠ .other counted flip) :
    Answered off op calm s.memory (performAt s who off op ecc).1.memory (performAt s who off op ecc).2 := by
  unfold performAt
  split
  · exact .of_failed (.refl _) rfl
  · split
    · exact .of_failed (.refl _) rfl
    · exact applyArray_answered s who
    · split
      · exact .of_failed (.refl _) rfl
      · dsimp only
        refine Answered.after ?_ (larderTouch_sameLines ..).toSameBytes
        split
        · exact applyFound_answered s who hother
        · exact applyArray_answered s who

end

/-- What a home counts moves nothing. -/
theorem performHome_memory_and_answer {s : State} {who : Who} {off : Nat} {op : AccOp} {ecc : Ecc} {u : State}
    (hu : u = if locOf off = .hbm then evictUpset s off else s) :
    (performHome s who off op ecc).1.memory = (performAt u who off op ecc).1.memory ∧
      (performHome s who off op ecc).2 = (performAt u who off op ecc).2 := by
  subst hu
  unfold performHome
  dsimp only
  split <;> simp [foldl_count_memory, countPantry_memory]

/-- An access at its home, by its answer; before it no byte moves where the code takes no error for other data. -/
theorem performHome_answered (s : State) (who : Who) (off : Nat) (op : AccOp) (ecc : Ecc) :
    Answered off op (∀ counted flip, stackFinds s.memory off ecc ≠ .other counted flip) s.memory
      (performHome s who off op ecc).1.memory (performHome s who off op ecc).2 := by
  obtain ⟨hmemory, hans⟩ := performHome_memory_and_answer (s := s) (who := who) (off := off) (op := op) (ecc := ecc) rfl
  rw [hmemory, hans]
  split
  · next hoff =>
    obtain ⟨hbytes, hpoison⟩ := evictUpset_poison s hoff
    exact (performAt_answered _ who fun h => by simpa only [stackFinds, hpoison] using h).before hbytes
  · exact performAt_answered s who id

/-- Settles O32, by what an access at its home leaves of memory under its answer: one that failed moved no byte, and a read or an atomic that
did not operated on the bytes that stood there. -/
theorem homeReadsAndAtomics : Obligations.HomeReadsAndAtomics := by
  refine ⟨?read, ?atomic, ?failed, fun o v c => rfl, fun o v c => rfl⟩
  case read =>
    intro s t who off n ecc bs h
    have hanswered := performHome_answered s who off (.read n) ecc
    rw [h] at hanswered
    obtain ⟨hfailed, -⟩ | ⟨u, hbefore, hans, hafter⟩ := hanswered
    · cases hfailed
    · obtain rfl : rawRead u.memory off n = bs := Ans.data.inj hans
      have hafter : SameBytes u.memory t.memory := hafter
      refine ⟨(hafter.rawRead off n).symm, fun hother => ?_⟩
      have hsame := hbefore hother
      exact ⟨hsame.rawRead off n, hafter.hbm.trans hsame.hbm, hafter.pantry.trans hsame.pantry⟩
  case atomic =>
    intro s t who off code v c o fl ecc h hoff hother
    have hanswered := performHome_answered s who off (.atomic code v c) ecc
    rw [h] at hanswered
    obtain ⟨hfailed, -⟩ | ⟨u, hbefore, hans, hafter⟩ := hanswered
    · cases hfailed
    · have hsame := hbefore hother
      obtain ⟨rfl, rfl⟩ := Ans.old.inj hans
      simp only [applyOp, State.modMem_memory, rawWrite, hoff] at hafter
      rw [← hsame.rawRead off, ← hsame.hbm, ← hsame.pantry]
      exact ⟨rfl, rfl, hafter.hbm, hafter.pantry⟩
  case failed =>
    intro s t who off op ecc ans h hans
    have hanswered := performHome_answered s who off op ecc
    rw [h] at hanswered
    have hfailed : ans.failed = true := by
      obtain rfl | rfl | rfl | ⟨p, rfl⟩ := hans <;> rfl
    obtain ⟨-, hsame⟩ | ⟨u, -, hu, -⟩ := hanswered
    · exact ⟨hsame.hbm, hsame.pantry⟩
    · have := applyOp_not_failed u off op
      simp [hu, hfailed] at this

end Sys2Proof.Machine
end

section
/-! PROOF. Stacks and Pantries: temperatures, retrains, patrol scrub and released bytes (R213, R220, R221, R231, R364, R365). -/

namespace Sys2Proof.Machine

theorem modStack_hbmStacks_getD {m : Memory} {st : Nat} (h : st < m.hbmStacks.length) (f : Stack → Stack) :
    (modStack m st f).hbmStacks.getD st Stack.cold = f (m.hbmStacks.getD st Stack.cold) := by
  simp [modStack, h]

/-! ## A change of caps beside memory (R377) -/

/-- An operation that changes the Hearth, Faces, dies and counters alone. -/
def Levels (a b : State) : Prop := b = { a with hearth := b.hearth, faces := b.faces, dies := b.dies, banks := b.banks, free := b.free }

theorem Levels.refl (a : State) : Levels a a := rfl

theorem Levels.trans {a b c : State} (h : Levels a b) (k : Levels b c) : Levels a c := by
  unfold Levels at h k ⊢
  exact k.trans (by rw [h])

theorem Levels.fold {β : Type} {a s : State} {f : State → β → State} {l : List β} (h : Levels a s) (hf : ∀ s x, Levels s (f s x)) :
    Levels a (l.foldl f s) := by
  induction l generalizing s with
  | nil => exact h
  | cons x l ih => exact ih (h.trans (hf s x))

theorem count_levels (s : State) (o : Occ) : Levels s (count s o) := by
  unfold count
  split <;> rfl

theorem countStretch_levels (s : State) : Levels s (countStretch s) := by
  refine Levels.fold (.refl s) fun t n => ?_
  dsimp only
  split
  · exact .refl t
  · exact count_levels ..

theorem syncUnits_levels (s : State) : Levels s (syncUnits s) := rfl

theorem State.modHearth_levels (s : State) (f : Hearth → Hearth) : Levels s (s.modHearth f) := rfl

theorem setDies_levels (s : State) (ds : List Die) : Levels s { s with dies := ds } := rfl

theorem accrue_levels (s : State) : Levels s (accrue s) := by
  unfold accrue
  exact (countStretch_levels s).trans ((syncUnits_levels _).trans (State.modHearth_levels ..))

theorem moveLevels_levels (s : State) : Levels s (moveLevels s) := by
  unfold moveLevels
  exact (accrue_levels s).trans ((setDies_levels ..).trans (setDies_levels ..))

theorem Levels.setMemory {a b : State} (h : Levels a b) (m : Memory) : Levels { a with memory := m } { b with memory := m } := by
  unfold Levels at h ⊢
  exact congrArg (fun x : State => { x with memory := m }) h

/-- A change of a stack that the dies' caps follow: the stack changes at the moment of the change, and nothing else of memory. -/
theorem withCaps_modStack (s : State) (st : Nat) (f : State → Stack → Stack) {t : State}
    (ht : t = withCaps s (fun u => u.modMem (fun m => modStack m st (f u)))) :
    t.memory = modStack s.memory st (f (accrue s)) ∧
      t = { s with hearth := t.hearth, faces := t.faces, dies := t.dies, banks := t.banks, free := t.free,
                   memory := { s.memory with hbmStacks := t.memory.hbmStacks } } := by
  have haccrue := accrue_levels s
  have hmemory : (accrue s).memory = s.memory := by rw [haccrue]
  have hlevels : Levels { s with memory := modStack s.memory st (f (accrue s)) } t := by
    rw [ht, withCaps, State.modMem, hmemory]
    exact (haccrue.setMemory _).trans (moveLevels_levels _)
  have hafter : t.memory = modStack s.memory st (f (accrue s)) := by rw [hlevels]
  refine ⟨hafter, ?_⟩
  rw [hafter]
  exact hlevels

theorem stepEntered_accrue (s : State) (x : Int) : stepEntered (accrue s) x = stepEntered s x := by
  have hcfg : (accrue s).cfg = s.cfg := by rw [accrue_levels s]
  rw [stepEntered, stackThrottleTemp, hcfg]
  rfl

/-! ## Temperatures (R231) -/

/-- A stack after a reading. -/
def afterReading (u : State) (temp : Byte) (k : Stack) : Stack :=
  { k with
    temp := temp, throttle := Nat.max k.throttle (stepEntered u temp.toInt)
    belowSince := if belowLeave u (Nat.max k.throttle (stepEntered u temp.toInt)) temp.toInt then
      (if k.belowSince = 0 then u.now else k.belowSince) else 0 }

theorem exec_stackTempRead {s : State} (hup : s.up = true) (st : StackIx) (temp : Byte) :
    exec (.stackTempRead st temp) s = .next (withCaps s (fun u => u.modMem (fun m => modStack m st.val (afterReading u temp)))) := by
  simp only [exec, execStackTempRead, hup, if_true]
  rfl

/-- A stack one step lower. -/
def steppedDown (u : State) (k : Stack) : Stack :=
  { k with throttle := k.throttle - 1, belowSince := if belowLeave u (k.throttle - 1) k.temp.toInt then u.now else 0 }

/-! ## Patrol scrub (R220, R221) -/

theorem scrubBlock_of_clean (s : State) (off : Nat) : scrubBlock s off .clean = s := by
  unfold scrubBlock
  split
  · rfl
  · next hskip =>
    have hpoison : linePoisoned s.memory off = false := by simpa using fun h => hskip (.inr h)
    have hclean : stackFinds s.memory off .clean = .clean := by
      rw [stackFinds, if_neg (by simp [hpoison])]
      decide
    rw [hclean]

/-- A block in which scrub finds neither poison nor an uncorrectable error keeps every byte, and the poison of every line. -/
theorem scrubBlock_sameLines (s : State) {off : Nat} {ecc : Ecc}
    (h : linePoisoned s.memory off = false → stackFinds s.memory off ecc ≠ .uncorrectable ∧ stackFinds s.memory off ecc ≠ .poison) :
    SameLines s.memory (scrubBlock s off ecc).memory := by
  unfold scrubBlock
  split
  · exact .refl _
  · next hskip =>
    obtain ⟨hue, hpoison⟩ := h (by simpa using fun h => hskip (.inr h))
    split
    · exact .refl _
    · exact foundCorrected_sameLines ..
    · contradiction
    · contradiction
    · split
      · exact foundCorrected_sameLines ..
      · exact .refl _

/-- An operation that leaves the bytes and poison of memory, its stacks and the configuration: where scrub is, and what it finds there. -/
structure ScrubSame (s t : State) : Prop where
  cfg : t.cfg = s.cfg
  hbmStacks : t.memory.hbmStacks = s.memory.hbmStacks
  lines : SameLines s.memory t.memory

theorem hitUpset_scrubSame (s : State) (u : Upset) : ScrubSame s (hitUpset s u) := by
  unfold hitUpset upsetMemory
  cases u with
  | pantry d o =>
    simp only [State.modMem]
    split <;> exact ⟨rfl, rfl, ⟨rfl, rfl, rfl⟩, rfl, rfl⟩
  | cached d c l => exact ⟨rfl, rfl, ⟨rfl, rfl, rfl⟩, rfl, rfl⟩
  | larder l => exact ⟨rfl, rfl, ⟨rfl, rfl, rfl⟩, rfl, rfl⟩

theorem hitUpsets_scrubSame (us : List Upset) (s : State) : ScrubSame s (us.foldl hitUpset s) := by
  induction us generalizing s with
  | nil => exact ⟨rfl, rfl, .refl _⟩
  | cons u us ih =>
    obtain ⟨hcfg, hstacks, hlines⟩ := hitUpset_scrubSame s u
    obtain ⟨kcfg, kstacks, klines⟩ := ih (hitUpset s u)
    exact ⟨kcfg.trans hcfg, kstacks.trans hstacks, hlines.trans klines⟩

section
variable {s : State} {st : StackIx}

theorem scrubStack_of_clean (h : stackUp s.memory st.val = true) :
    scrubStack s st .clean = s.modMem (fun m => modStack m st.val scrubNext) := by
  rw [scrubStack, if_pos h]
  exact congrArg (fun t : State => t.modMem _) (scrubBlock_of_clean ..)

theorem scrubStack_sameLines {ecc : Ecc} (h : ∀ off, off = blockOffset s.cfg st.val (s.memory.hbmStacks.getD st.val Stack.cold).scrubAt →
    stackFinds s.memory off ecc ≠ .uncorrectable ∧ stackFinds s.memory off ecc ≠ .poison) :
    SameLines s.memory (scrubStack s st ecc).memory := by
  unfold scrubStack
  split
  · exact (scrubBlock_sameLines s fun _ => h _ rfl).trans (modStack_sameLines ..)
  · exact .refl _

end

/-! ## The commands -/

theorem stackUp_of_inService {m : Memory} {st : Nat} (h : (m.hbmStacks.getD st Stack.cold).service = 0) : stackUp m st = true := by
  rw [stackUp, h]
  rfl

section
variable {s : State} {st : StackIx} {k : Stack} (hk : k = s.memory.hbmStacks.getD st.val Stack.cold) (hup : s.up = true)
include hk hup

theorem exec_stackThrottleStepDown (hstep : k.throttle ≠ 0) (hbelow : k.belowSince ≠ 0) :
    exec (.stackThrottleStepDown st) s = .next (withCaps (s.upTo (k.belowSince + 1000000)) (fun u => u.modMem (fun m =>
      modStack m st.val (steppedDown u)))) := by
  subst hk
  simp only [exec, execStackThrottleStepDown, hup, hstep, hbelow, ne_eq, not_false_eq_true, and_self, if_true]
  rfl

theorem exec_dataEyeLockLoss (hservice : k.service = 0) :
    exec (.dataEyeLockLoss st) s = .next (s.modMem (fun m => modStack m st.val (fun k => k.retrain s.now))) := by
  subst hk
  simp only [exec, execDataEyeLockLoss, hup, stackUp_of_inService hservice, and_self, if_true]

section
variable (hservice : k.service = 1)
include hservice

theorem exec_stackRetrainComplete (n : Nat) :
    exec (.stackRetrainComplete ⟨st, n⟩) s = .next (s.modMem (fun m => modStack m st.val (fun k => { k with
      service := 0, attempts := 0, rowsTrained := BitVec.ofNat 16 (Nat.min 65535 (k.rowsTrained.toNat + n)) }))) := by
  subst hk
  simp only [exec, execStackRetrainComplete, hup, hservice, and_self, if_true]

variable {u : State} (hu : u = s.upTo (k.retrainAt + 300000000))
include hu

theorem exec_stackRetrainTimeout_of_left (hleft : k.attempts < 3) :
    exec (.stackRetrainTimeout st) s = .next (u.modMem (fun m => modStack m st.val (fun k => { k with
      attempts := k.attempts + 1, retrainAt := u.now }))) := by
  subst hk hu
  simp only [exec, execStackRetrainTimeout, hup, hservice, hleft, and_self, if_true]

theorem exec_stackRetrainTimeout_of_used (hused : 3 ≤ k.attempts) :
    exec (.stackRetrainTimeout st) s = .next (raiseError (u.modMem (fun m => modStack m st.val (fun k => { k with service := 2 })))
      { cls := 0x08, sev := sevUnit, unit := 0x60 + st.val, item := none, ctx := none, detail := [BitVec.ofNat 64 k.attempts] }) := by
  subst hk hu
  simp only [exec, execStackRetrainTimeout, hup, hservice, Nat.not_lt.mpr hused, and_self, if_true, if_false]

end

end

theorem exec_patrolScrubRead {s : State} (hup : s.up = true) (st : StackIx) (x : ScrubRead) :
    exec (.patrolScrubRead st x) s = .next (scrubStack (x.upsets.foldl hitUpset s) st x.ecc) := by
  simp only [exec, execPatrolScrubRead, hup, if_true]

theorem exec_patrolScrubRead_of_down {s : State} (hdown : s.up = false) (st : StackIx) (x : ScrubRead) :
    exec (.patrolScrubRead st x) s = .next s := by
  simp [exec, execPatrolScrubRead, hdown]

section
variable {s : State} {d : DieIx} {r : Nat × Bool} (hr : r = s.memory.releasing.getD d.val (0, false))
include hr

theorem exec_pantryReleaseComplete_of_underWay (hup : s.up = true) {u : State} (hu : u = s.upTo r.1) (hunder : r.1 ≠ 0) :
    exec (.pantryReleaseComplete d) s = .next (u.modMem (fun m => { m with
      releasing := m.releasing.set d.val (if r.2 then (u.now + 1048576, false) else (0, false)) })) := by
  subst hr hu
  simp only [exec, execPantryReleaseComplete, hup, hunder, ne_eq, not_false_eq_true, and_self, if_true]

theorem exec_pantryReleaseComplete_of_none (hnone : r.1 = 0) : exec (.pantryReleaseComplete d) s = .next s := by
  subst hr
  simp only [exec, execPantryReleaseComplete, hnone, ne_eq, not_true_eq_false, and_false, if_false]

end

/-! ## The statement -/

/-- Settles O47, by what each event does to its stack or die, and by what scrub finds in a block. -/
theorem stacksAndPantriesAreKept : Obligations.StacksAndPantriesAreKept := by
  refine ⟨?temperature, ?stepDown, fun st s hup => exec_dataEyeLockLoss rfl hup, fun st s hup => exec_stackRetrainComplete rfl hup,
    fun st s hup hservice => ⟨exec_stackRetrainTimeout_of_left rfl hup hservice rfl, exec_stackRetrainTimeout_of_used rfl hup hservice rfl⟩,
    ?scrubClean, ?scrubKeeps,
    fun d s hup => ⟨exec_pantryReleaseComplete_of_underWay rfl hup rfl, exec_pantryReleaseComplete_of_none rfl⟩⟩
  case temperature =>
    intro st temp s hup hst
    obtain ⟨hmemory, hrest⟩ := withCaps_modStack s st.val (fun u => afterReading u temp) rfl
    refine ⟨_, _, exec_stackTempRead hup st temp, rfl, ?_, ?_, hrest⟩
    · rw [hmemory, modStack_hbmStacks_getD hst]
      rfl
    · rw [hmemory, modStack_hbmStacks_getD hst, afterReading, stepEntered_accrue]
  case stepDown =>
    intro st s hup hst hstep hbelow
    obtain ⟨hmemory, hrest⟩ :=
      withCaps_modStack (s.upTo ((s.memory.hbmStacks.getD st.val Stack.cold).belowSince + 1000000)) st.val steppedDown rfl
    have hnow := congrArg State.now hrest
    refine ⟨_, exec_stackThrottleStepDown rfl hup hstep hbelow, hnow, ?_, ?_⟩
    · rw [hmemory, State.upTo_memory, modStack_hbmStacks_getD hst]
      rfl
    · rw [hnow]
      exact hrest
  case scrubClean =>
    intro st s hup hservice
    rw [exec_patrolScrubRead hup]
    exact congrArg _ (scrubStack_of_clean (stackUp_of_inService hservice))
  case scrubKeeps =>
    intro st ecc us s t ht hfound
    have hsame : SameLines s.memory t.memory := by
      cases hup : s.up with
      | false =>
        rw [exec_patrolScrubRead_of_down hup] at ht
        obtain rfl := Host.Outcome.next.inj ht
        exact .refl _
      | true =>
        rw [exec_patrolScrubRead hup] at ht
        obtain rfl := Host.Outcome.next.inj ht
        obtain ⟨hcfg, hstacks, hlines⟩ := hitUpsets_scrubSame us s
        refine hlines.trans (scrubStack_sameLines fun off hoff => ?_)
        rw [hoff, hcfg, hstacks, stackFinds, hlines.linePoisoned]
        exact hfound
    exact ⟨hsame.hbm, hsame.pantry, hsame.poison⟩

end Sys2Proof.Machine
end

section
/-! PROOF. Packets that come whole, and fabric messages (R273 to R277, R282, R297, R417). -/

namespace Sys2Proof.Machine

/-- The class field of a valid header is the class of its opcode (R274). -/
theorem pktClass_of_valid {k : Packet} (h : pktValid k = true) : pktClass k = opClass (pktOp k) := by
  have hfour : bits k.w0 31 28 = opClass (pktOp k) := by
    simp only [pktValid, Bool.and_eq_true, beq_iff_eq] at h
    exact h.1.2
  have hlt : opClass (pktOp k) < 4 := by
    unfold opClass
    split_ifs <;> decide
  rw [← hfour] at hlt ⊢
  simp only [bits, pktClass, Nat.shiftRight_eq_div_pow] at hlt ⊢
  omega

/-! ## Packets of an opcode (R273, R274) -/

section
variable {s : State} {p op : Nat} {k : Packet}

theorem opArrive_of_other (h : pktOp k ≠ op) : opArrive s p k op = s := if_neg fun hboth => h hboth.2

theorem opArrive_of_linked (hlinked : portLinked s p = true) (hop : pktOp k = op) : opArrive s p k op = packetArrive s p (opClass op) 0 k :=
  if_pos ⟨hlinked, hop⟩

theorem portLinked_of_state (hup : s.up = true) (hstate : (s.port p).state = .up ∨ (s.port p).state = .disabling) : portLinked s p = true := by
  obtain h | h := hstate <;> simp [portLinked, hup, h]

variable {cls lane : Nat}

theorem packetArrive_of_invalid (h : pktValid k = false) : packetArrive s p cls lane k = owe (discardPacket s p) p cls lane (flitCount k) :=
  if_pos (.inl h)

section
variable (hvalid : pktValid k = true) (hclass : cls = pktClass k) (hlane : lane ≤ 2)
include hvalid hclass hlane

theorem packetArrive_of_own (hdst : pktDst k = s.deviceNumber) : packetArrive s p cls lane k = owe (ownArrive s p k) p cls lane (flitCount k) := by
  simp [packetArrive, hvalid, hclass, Nat.not_lt.mpr hlane, hdst]

theorem packetArrive_of_other (hdst : pktDst k ≠ s.deviceNumber) : packetArrive s p cls lane k = transit s p lane k := by
  simp [packetArrive, hvalid, hclass, Nat.not_lt.mpr hlane, hdst]

end

theorem transit_of_noHops (h : pktHops k = 0) :
    transit s p lane k = owe (discardRecord (discardPacket s p) p k false) p (pktClass k) lane (flitCount k) := if_pos h

theorem transit_of_hops (h : pktHops k ≠ 0) :
    transit s p lane k = (routePacket s (some (p, lane)) k).getD (owe (discardPacket s p) p (pktClass k) lane (flitCount k)) := if_neg h

/-! ## A packet at its destination -/

theorem ownArrive_of_cut (h : dieCut s p = true) : ownArrive s p k = s := if_pos h

section
variable (hway : dieCut s p = false)
include hway

theorem ownArrive_of_request (h : pktClass k = 0) : ownArrive s p k = requestArrive s p k := by
  simp [ownArrive, hway, h]

theorem ownArrive_of_answer (h : pktClass k = 1) : ownArrive s p k = answerArrive s k := by
  simp [ownArrive, hway, h]

section
variable (hclass : pktClass k = 2) (hlive : live s = true)
include hclass hlive

theorem ownArrive_of_collData (hop : pktOp k = opCollData) :
    ownArrive s p k = if isParity s k then parityArrive s k else collArrive s k := by
  simp [ownArrive, collPacketArrive, hway, hclass, hop, hlive]

theorem ownArrive_of_crushData (hop : pktOp k = opCrushData) :
    ownArrive s p k = crushArrive (count s (spejanOcc s p 0x053 (pktLines k))) p k := by
  simp [ownArrive, crushPacketArrive, hway, hclass, hop, hlive, opCrushData, opCollData]

end
end
end

/-- The commands of whole packets, each with the opcode of its packets. -/
theorem exec_packet {p : PortIx} {k : Packet} {e : Instr} {op : Nat}
    (he : (e, op) ∈ [(Instr.read p k, 0x01), (.write p k, 0x02), (.atomicRequest p k, 0x03), (.poison p k, 0x04), (.readRsp p k, 0x10),
      (.writeAck p k, 0x11), (.atomicRsp p k, 0x12), (.retry p k, 0x13), (.fault p k, 0x14), (.collData p k, 0x20), (.crushData p k, 0x21)])
    (s : State) : exec e s = .next (opArrive s p.val k op) := by
  simp only [List.mem_cons, Prod.mk.injEq, List.not_mem_nil, or_false] at he
  obtain ⟨rfl, rfl⟩ | ⟨rfl, rfl⟩ | ⟨rfl, rfl⟩ | ⟨rfl, rfl⟩ | ⟨rfl, rfl⟩ | ⟨rfl, rfl⟩ | ⟨rfl, rfl⟩ | ⟨rfl, rfl⟩ | ⟨rfl, rfl⟩ | ⟨rfl, rfl⟩ |
    ⟨rfl, rfl⟩ := he <;> rfl

/-! ## One hop fewer (R276) -/

theorem hopped_w0_toNat {k : Packet} (h : pktHops k ≠ 0) : (hopped k).w0.toNat + 2 ^ 16 = k.w0.toNat := by
  have hle : 2 ^ 16 ≤ k.w0.toNat := by
    simp only [pktHops, bits, Nat.shiftRight_eq_div_pow] at h
    omega
  have hlt := k.w0.isLt
  simp only [hopped, if_neg h, BitVec.toNat_sub, BitVec.toNat_ofNat]
  omega

/-- A packet that goes on has one hop fewer and every other field of its header as it came. -/
theorem hopped_fields {k : Packet} (h : pktHops k ≠ 0) :
    pktHops (hopped k) = pktHops k - 1 ∧ pktDst (hopped k) = pktDst k ∧ pktSrc (hopped k) = pktSrc k ∧ pktClass (hopped k) = pktClass k ∧
      pktOp (hopped k) = pktOp k ∧ pktReq (hopped k) = pktReq k := by
  have hw := hopped_w0_toNat h
  simp only [pktHops, pktDst, pktSrc, pktClass, pktOp, pktReq, bits, Nat.shiftRight_eq_div_pow] at h ⊢
  omega

/-! ## Answers and fabric messages (R275, R297) -/

theorem answerArrive_of_reply {s : State} {k : Packet} {q : Req} {r : Reply} (hreq : requestOf s (pktReq k) = some q)
    (hsrc : pktDst q.packet = pktSrc k) (hreply : replyOf? q k = some r) : answerArrive s k = settle s q r := by
  simp [answerArrive, hreq, hsrc, hreply]

theorem typeArrive_of_ok {s : State} {m : FabMsg} {typ : Nat} (hlive : live s = true) (hok : msgOk m = true) (htype : msgType m = typ)
    (f : State → FabMsg → State) : typeArrive s m typ f = f s m := by
  have hup : s.up = true := by
    simp only [live, Bool.and_eq_true] at hlive
    exact hlive.1.1
  simp [typeArrive, hup, hok, htype, hlive]

/-! ## The statement -/

/-- Settles O51, by the header of a packet, its destination and its hops, and by its class where this device is its destination. -/
theorem packetsAreServedOrRouted : Obligations.PacketsAreServedOrRouted := by
  refine ⟨?packets, ?hopped, fun s k q r => answerArrive_of_reply, ?messages⟩
  case packets =>
    intro p k s e op he
    have hclass : opClass op < 4 := by
      unfold opClass
      split_ifs <;> decide
    rw [exec_packet he]
    refine ⟨fun hne => by rw [opArrive_of_other hne], fun hup hstate hop => ?_⟩
    rw [opArrive_of_linked (portLinked_of_state hup hstate) hop]
    intro gone back
    have hback (t : State) : owe t p.val (opClass op) 0 (flitCount k) = back t := by
      have hix : laneIx (opClass op) 0 = 3 * opClass op := by
        simp [laneIx, Nat.mod_eq_of_lt hclass]
      rw [owe, hix]
      rfl
    have hcls (hvalid : pktValid k = true) : opClass op = pktClass k := by rw [pktClass_of_valid hvalid, hop]
    refine ⟨fun hinvalid => ?_, fun hvalid hdst hhops => ?_, fun hvalid hdst hhops => ?_, fun hvalid hdst hcut => ?_, fun hvalid hdst hway => ?_⟩
    · rw [packetArrive_of_invalid hinvalid, hback]
      rfl
    · rw [packetArrive_of_other hvalid (hcls hvalid) (by decide) hdst, transit_of_noHops hhops, ← hcls hvalid, hback, discardRecord, hop]
      rfl
    · rw [packetArrive_of_other hvalid (hcls hvalid) (by decide) hdst, transit_of_hops hhops, ← hcls hvalid, hback]
      rfl
    · rw [packetArrive_of_own hvalid (hcls hvalid) (by decide) hdst, ownArrive_of_cut hcut, hback]
    · rw [packetArrive_of_own hvalid (hcls hvalid) (by decide) hdst, hback]
      have hkcls := (hcls hvalid).symm
      refine ⟨fun hlow => ?_, fun hlow hhigh => ?_, fun hcoll hlive hparity => ?_, fun hcoll hlive hparity => ?_, fun hcrush hlive => ?_⟩
      · rw [ownArrive_of_request hway (hkcls.trans (if_pos hlow))]
      · rw [ownArrive_of_answer hway (hkcls.trans ((if_neg (Nat.not_lt.mpr hlow)).trans (if_pos hhigh)))]
      · rw [ownArrive_of_collData hway (by rw [hkcls, hcoll]; rfl) hlive (hop.trans hcoll), hparity]
        rfl
      · rw [ownArrive_of_collData hway (by rw [hkcls, hcoll]; rfl) hlive (hop.trans hcoll), hparity]
        rfl
      · rw [ownArrive_of_crushData hway (by rw [hkcls, hcrush]; rfl) hlive (hop.trans hcrush)]
  case hopped =>
    intro k h
    obtain ⟨hhops, hdst, hsrc, hclass, hop, hreq⟩ := hopped_fields h
    have hrest : hopped k = { k with w0 := (hopped k).w0 } := by simp [hopped, h]
    exact ⟨hhops, hdst, hsrc, hclass, hop, hreq, by rw [hrest], by rw [hrest], by rw [hrest], by rw [hrest]⟩
  case messages =>
    intro m s hlive hok
    exact ⟨fun h => congrArg _ (typeArrive_of_ok hlive hok h _), fun h => congrArg _ (typeArrive_of_ok hlive hok h _),
      fun h => congrArg _ (typeArrive_of_ok hlive hok h _), fun h => congrArg _ (typeArrive_of_ok hlive hok h _)⟩

end Sys2Proof.Machine
end

section
/-! SUPPORT. What leaves memory and items alone: packets and messages on their way out, error records, drains of them; and what an access at
its home leaves beside bytes (R226, R227, R278, R282, R341, R411). -/

namespace Sys2Proof.Machine

/-! ## Outside memory -/

/-- An operation that leaves memory and the items alone. -/
structure Outside (s t : State) : Prop where
  memory : t.memory = s.memory
  items : t.items = s.items

theorem Outside.refl (s : State) : Outside s s := ⟨rfl, rfl⟩

theorem Outside.trans {a b c : State} (h : Outside a b) (k : Outside b c) : Outside a c :=
  ⟨k.memory.trans h.memory, k.items.trans h.items⟩

theorem Outside.fold {β γ : Type} (π : γ → State) {a : State} {f : γ → β → γ} {l : List β} {p : γ} (h : Outside a (π p))
    (hf : ∀ p x, Outside (π p) (π (f p x))) : Outside a (π (l.foldl f p)) :=
  List.foldlRecOn (motive := fun p => Outside a (π p)) l f h fun p hp x _ => hp.trans (hf p x)

theorem count_outside (s : State) (o : Occ) : Outside s (count s o) := by
  unfold count
  split <;> exact ⟨rfl, rfl⟩

theorem foldl_count_outside (l : List Occ) (s : State) : Outside s (l.foldl count s) := Outside.fold id (.refl s) count_outside

theorem writeError_outside (s : State) (e : ErrInfo) : Outside s (writeError s e) := by
  refine ⟨writeError_memory s e, ?_⟩
  unfold writeError
  split
  · rfl
  · exact (count_outside ..).items.trans (count_outside ..).items

/-! ### Packets to the fabric (R278, R279, R282) -/

theorem State.modPort_outside (s : State) (p : Nat) (f : Port → Port) : Outside s (s.modPort p f) := ⟨rfl, rfl⟩

theorem owePacket_outside (s : State) (x : LanePacket) : Outside s (owePacket s x) := by
  unfold owePacket
  split
  · exact State.modPort_outside ..
  · exact .refl s

theorem oweMoved_outside (s : State) (before after : List LanePacket) : Outside s (oweMoved s before after) := by
  refine Outside.fold Prod.fst (.refl s) fun p x => ?_
  split
  · exact .refl _
  · exact owePacket_outside ..

theorem State.pump_outside (s : State) (p : Nat) : Outside s (s.pump p) := by
  unfold State.pump
  split
  · extract_lets t n u
    have ht : Outside s t := State.modPort_outside ..
    split
    · exact ht
    · exact ht.trans ((oweMoved_outside ..).trans (count_outside ..))
  · exact .refl s

theorem enqueue_outside (s : State) (p : Nat) (x : LanePacket) : Outside s (enqueue s p x) :=
  (State.modPort_outside ..).trans (State.pump_outside ..)

theorem routePacket_outside {s t : State} {arrival : Option (Nat × Nat)} {k : Packet} (h : routePacket s arrival k = some t) : Outside s t := by
  unfold routePacket routeLane routeSince at h
  obtain ⟨⟨p, escape⟩, -, rfl⟩ := Option.map_eq_some_iff.mp h
  dsimp only
  split
  · exact owePacket_outside ..
  · exact enqueue_outside ..

theorem State.request_outside (s : State) (item : Option ItemRef) (ctx : Option Nat) (p : Purpose) (mk : Nat → Packet) :
    Outside s (s.request item ctx p mk).1 := by
  unfold State.request
  extract_lets id add
  split
  · exact ⟨rfl, rfl⟩
  · split
    · exact .refl s
    · split
      · split
        · next hroute => exact (routePacket_outside hroute).trans ⟨rfl, rfl⟩
        · exact .refl s
      · exact ⟨rfl, rfl⟩

/-! ### Messages to the host (R339, R341) -/

theorem State.modQp_outside (s : State) (q : Nat) (f : Qp → Qp) : Outside s (s.modQp q f) := ⟨rfl, rfl⟩

theorem State.setPorch_outside (s : State) (x : Porch) : Outside s { s with porch := x } := ⟨rfl, rfl⟩

theorem chargeRate_outside (s : State) (w : PorchWait) : Outside s (chargeRate s w) := by
  unfold chargeRate
  split
  · split
    · exact State.modQp_outside ..
    · exact .refl s
  · exact .refl s

theorem State.sentOut_outside (s : State) (o : PorchOut) : Outside s (s.sentOut o) :=
  (State.setPorch_outside ..).trans (count_outside ..)

theorem sendPart_outside (s : State) (p : PorchWait → Bool) (w : PorchWait) : Outside s (sendPart s p w) := by
  unfold sendPart
  extract_lets rest waits paid
  have hpaid : Outside s paid := (State.setPorch_outside s _).trans (chargeRate_outside ..)
  split
  · exact hpaid.trans (State.sentOut_outside ..)
  · exact hpaid

theorem sendFirst_outside (n : Nat) (s : State) : Outside s (sendFirst n s) := by
  induction n generalizing s with
  | zero => exact .refl s
  | succ n ih =>
    unfold sendFirst
    split
    · exact (sendPart_outside ..).trans (ih _)
    · exact .refl s

theorem sendPacketOf_outside (s : State) (q : Nat) : Outside s (sendPacketOf s q) := by
  unfold sendPacketOf
  split
  · exact .refl s
  · exact sendPart_outside ..

theorem sendData_outside (n : Nat) (s : State) : Outside s (sendData n s) := by
  induction n generalizing s with
  | zero => exact .refl s
  | succ n ih =>
    unfold sendData
    split
    · exact (State.setPorch_outside ..).trans ((sendPacketOf_outside ..).trans (ih _))
    · exact .refl s

theorem State.transmit_outside (s : State) : Outside s s.transmit := by
  unfold State.transmit
  split
  · exact (sendFirst_outside ..).trans (sendData_outside ..)
  · exact .refl s

theorem State.readyOut_outside (s : State) (o : PorchOut) (req : Option Nat) : Outside s (s.readyOut o req) := by
  unfold State.readyOut
  split
  · exact .refl s
  · exact (State.setPorch_outside ..).trans (State.transmit_outside _)

theorem State.sendHost_outside (s : State) (q : Nat) (item : Option ItemRef) (ctx : Option Nat) (p : Purpose) (len : Nat)
    (mk : BitVec 24 → PorchOut) (imm : Option (BitVec 32)) : Outside s (s.sendHost q item ctx p len mk imm) :=
  (State.readyOut_outside ..).trans ⟨rfl, rfl⟩

theorem drainErrors_outside (s : State) : Outside s (drainErrors s) := by
  unfold drainErrors
  extract_lets q size n
  split
  · exact .refl s
  · exact (Outside.fold id (.refl s) fun _ _ => State.sendHost_outside ..).trans (State.sendHost_outside ..)

theorem drainDue_outside (s : State) : Outside s (drainDue s) := by
  unfold drainDue
  split
  · exact drainErrors_outside s
  · exact .refl s

/-! ## At a home -/

/-- An operation on memory that leaves the waiting accesses and the cache partitions of the contexts alone. -/
structure AtHome (m n : Memory) : Prop where
  queues : n.queues = m.queues
  cache : n.cache = m.cache

theorem AtHome.refl (m : Memory) : AtHome m m := ⟨rfl, rfl⟩

theorem AtHome.trans {a b c : Memory} (h : AtHome a b) (k : AtHome b c) : AtHome a c := ⟨k.queues.trans h.queues, k.cache.trans h.cache⟩

theorem AtHome.fold {β : Type} {a m : Memory} {f : Memory → β → Memory} {l : List β} (h : AtHome a m) (hf : ∀ m x, AtHome m (f m x)) :
    AtHome a (l.foldl f m) :=
  List.foldlRecOn l f h fun m hm x _ => hm.trans (hf m x)

theorem retag_atHome (c : Cfg) (m : Memory) (off : Nat) : AtHome m (retag c m off) := by
  unfold retag
  split <;> exact ⟨rfl, rfl⟩

theorem setLarder_atHome (m : Memory) (l : List LarderLine) : AtHome m { m with larder := l } := ⟨rfl, rfl⟩

theorem modStack_atHome (m : Memory) (st : Nat) (f : Stack → Stack) : AtHome m (modStack m st f) := ⟨rfl, rfl⟩

theorem toStack_atHome (c : Cfg) (m : Memory) (line : Nat) : AtHome m (toStack c m line) := by
  unfold toStack
  split
  · exact (setLarder_atHome m _).trans (retag_atHome ..)
  · exact .refl m

theorem larderTouch_atHome (c : Cfg) (m : Memory) (line : Nat) (dirty : Bool) : AtHome m (larderTouch c m line dirty) := by
  unfold larderTouch
  extract_lets fresh stamped
  have hs : AtHome m stamped := ⟨rfl, rfl⟩
  clear_value stamped
  split
  · exact hs.trans ⟨rfl, rfl⟩
  · split
    · exact hs.trans ⟨rfl, rfl⟩
    · split
      · extract_lets left
        have hleft : AtHome m left := by
          unfold left
          split
          · exact hs.trans (toStack_atHome ..)
          · exact hs
        exact hleft.trans ⟨rfl, rfl⟩
      · split
        · exact hs.trans (toStack_atHome ..)
        · exact hs

theorem clearUpset_atHome (m : Memory) (off : Nat) : AtHome m (clearUpset m off) := by
  unfold clearUpset
  split <;> exact ⟨rfl, rfl⟩

theorem setPoison_atHome (c : Cfg) (m : Memory) (off : Nat) (on : Bool) : AtHome m (setPoison c m off on) := by
  unfold setPoison
  extract_lets u rest n
  have hu : AtHome m u := clearUpset_atHome m off
  have hn : AtHome m n := hu.trans ⟨rfl, rfl⟩
  clear_value n u
  split
  · split
    · exact hn.trans (retag_atHome ..)
    · exact hn
  · exact hu.trans ⟨rfl, rfl⟩
  · exact hu

theorem unpoison_atHome (c : Cfg) (m : Memory) (off : Nat) : AtHome m (unpoison c m off) := by
  unfold unpoison
  split
  · exact setPoison_atHome ..
  · exact .refl m

theorem rawWrite_atHome (m : Memory) (off : Nat) (bs : List Byte) : AtHome m (rawWrite m off bs) := by
  unfold rawWrite
  split <;> exact ⟨rfl, rfl⟩

theorem lineWrite_atHome (c : Cfg) (m : Memory) (off : Nat) (bs : List Byte) (mask : List Bool) : AtHome m (lineWrite c m off bs mask) := by
  unfold lineWrite
  extract_lets raw merged
  have hmerged : AtHome m merged := by
    unfold merged
    split
    · exact rawWrite_atHome ..
    · exact (rawWrite_atHome ..).trans ⟨rfl, rfl⟩
  split
  · exact hmerged.trans (setPoison_atHome ..)
  · exact hmerged

theorem miscorrected_atHome (c : Cfg) (m : Memory) (off : Nat) (flip : BitVec 512) : AtHome m (miscorrected c m off flip) :=
  (unpoison_atHome ..).trans (rawWrite_atHome ..)

/-- An access at its home: it leaves the waiting accesses, the cache partitions and the items. -/
structure Homely (s t : State) : Prop where
  memory : AtHome s.memory t.memory
  items : t.items = s.items

theorem Homely.refl (s : State) : Homely s s := ⟨.refl _, rfl⟩

theorem Homely.trans {a b c : State} (h : Homely a b) (k : Homely b c) : Homely a c :=
  ⟨h.memory.trans k.memory, k.items.trans h.items⟩

theorem Outside.homely {s t : State} (h : Outside s t) : Homely s t := ⟨h.memory ▸ .refl _, h.items⟩

theorem State.modMem_homely (s : State) {f : Memory → Memory} (h : ∀ m, AtHome m (f m)) : Homely s (s.modMem f) := ⟨h _, rfl⟩

theorem foundUncorrectable_homely (s : State) (who : Who) (off : Nat) (stack scrub : Bool) :
    Homely s (foundUncorrectable s who off stack scrub) := by
  unfold foundUncorrectable
  split
  · exact (s.modMem_homely fun _ => setPoison_atHome ..).trans (writeError_outside ..).homely
  · split
    · exact (s.modMem_homely fun _ => setPoison_atHome ..).trans (writeError_outside ..).homely
    · refine Homely.trans (State.modMem_homely _ fun _ => ?_) (writeError_outside ..).homely
      exact AtHome.fold (modStack_atHome ..) fun _ _ => setPoison_atHome ..
  · exact .refl s

theorem foundCorrected_homely (s : State) (off : Nat) : Homely s (foundCorrected s off) :=
  s.modMem_homely fun _ => (modStack_atHome ..).trans (larderTouch_atHome ..)

theorem evictUpset_homely (s : State) (off : Nat) : Homely s (evictUpset s off) := by
  unfold evictUpset
  split
  · split
    · exact foundUncorrectable_homely ..
    · exact .refl s
  · exact .refl s

section
variable (s : State) (who : Who) (off : Nat) (op : AccOp)

theorem applyOp_homely : Homely s (applyOp s off op).1 := by
  cases op with
  | read n => exact .refl s
  | write bs mask => exact s.modMem_homely fun _ => lineWrite_atHome ..
  | atomic code v c => exact s.modMem_homely fun _ => rawWrite_atHome ..
  | poison => exact s.modMem_homely fun _ => setPoison_atHome ..

theorem applyPoisoned_homely : Homely s (applyPoisoned s off op).1 := by
  unfold applyPoisoned
  split
  · exact .refl s
  · exact .refl s
  · exact applyOp_homely ..

theorem applyUncorrectable_homely (stack : Bool) : Homely s (applyUncorrectable s who off stack op).1 := by
  have hfound := foundUncorrectable_homely s who off stack false
  unfold applyUncorrectable
  split
  · exact hfound.trans (applyOp_homely ..)
  · exact hfound

theorem applyArray_homely : Homely s (applyArray s who off op).1 := by
  unfold applyArray
  split
  · exact applyPoisoned_homely ..
  · split
    · exact applyUncorrectable_homely ..
    · exact applyOp_homely ..

theorem applyFound_homely (f : Found) : Homely s (applyFound s who off op f).1 := by
  cases f with
  | poison => exact (s.modMem_homely fun _ => setPoison_atHome ..).trans (applyPoisoned_homely ..)
  | uncorrectable => exact applyUncorrectable_homely ..
  | clean => exact (s.modMem_homely fun _ => unpoison_atHome ..).trans (applyOp_homely ..)
  | corrected => exact (s.modMem_homely fun _ => unpoison_atHome ..).trans ((foundCorrected_homely ..).trans (applyOp_homely ..))
  | other counted flip =>
    refine (s.modMem_homely fun m => miscorrected_atHome s.cfg m off flip).trans (Homely.trans ?_ (applyOp_homely ..))
    split
    · exact foundCorrected_homely ..
    · exact .refl _

theorem performAt_homely (ecc : Ecc) : Homely s (performAt s who off op ecc).1 := by
  unfold performAt
  split
  · exact .refl s
  · split
    · exact .refl s
    · exact applyArray_homely ..
    · split
      · exact .refl s
      · refine Homely.trans ?_ (State.modMem_homely _ fun _ => larderTouch_atHome ..)
        split
        · exact applyFound_homely ..
        · exact applyArray_homely ..

theorem performHome_homely (ecc : Ecc) : Homely s (performHome s who off op ecc).1 := by
  unfold performHome
  extract_lets u
  have hu : Homely s u := by
    unfold u
    split
    · exact evictUpset_homely ..
    · exact .refl s
  have ht := hu.trans (performAt_homely u who off op ecc)
  dsimp only
  split
  · exact ht
  · exact ht
  · exact ht.trans (foldl_count_outside ..).homely
  · exact ht
  · exact ht.trans (foldl_count_outside ..).homely
  · exact ht

theorem modRegs_homely (k : Nat) (f : Nat → Regulator → Regulator) : Homely s (modRegs s k f) := ⟨⟨rfl, rfl⟩, rfl⟩

theorem chargeRequest_homely (k : AccKind) (n : Nat) : Homely s (chargeRequest s who k off n) := by
  unfold chargeRequest
  refine List.foldlRecOn (motive := Homely s) _ _ (.refl s) fun t ht x _ => ht.trans ?_
  unfold chargeCellar
  split
  · exact modRegs_homely ..
  · exact .refl t

end

end Sys2Proof.Machine
end

section
/-! PROOF. The bytes that an item's writes leave alone (R237, R238, R247, R248, R253 to R255). -/

namespace Sys2Proof.Machine

theorem eq_or_mem_of_mem_upsert {α : Type} {p : α → Bool} {x y : α} {l : List α} (h : y ∈ upsert p x l) : y = x ∨ y ∈ l := by
  unfold upsert at h
  split at h
  · obtain ⟨z, hz, rfl⟩ := List.mem_map.mp h
    split
    · exact .inl rfl
    · exact .inr hz
  · obtain hmem | hmem := List.mem_append.mp h
    · exact .inr hmem
    · exact .inl (List.mem_singleton.mp hmem)

theorem leBytes_length (n v : Nat) : (leBytes n v).length = n := by
  induction n generalizing v with
  | zero => rfl
  | succ n ih => rw [leBytes, List.length_cons, ih]

/-- The pieces of a range at the block boundaries lie in it. -/
theorem cutBlocks_bounds {a n : Nat} {p : Nat × Nat} (hp : p ∈ cutBlocks a n) : a ≤ p.1 ∧ p.1 + p.2 ≤ a + n := by
  unfold cutBlocks at hp
  split at hp
  · simp at hp
  · obtain ⟨i, hi, rfl⟩ := List.mem_map.mp hp
    rw [List.mem_range] at hi
    have hmax : Nat.max a ((a / 4096 + i) * 4096) = max a ((a / 4096 + i) * 4096) := rfl
    have hmin : Nat.min (a + n) ((a / 4096 + i + 1) * 4096) = min (a + n) ((a / 4096 + i + 1) * 4096) := rfl
    dsimp only
    rw [hmax, hmin]
    omega

/-! ## An access where none waits -/

theorem reachHome_of_noneWaiting {s : State} (hq : s.memory.queues = []) (src : Nat) (who : Who) (off : Nat) (op : AccOp) (ecc : Ecc) :
    reachHome s src who off op ecc = performHome s who off op ecc := by
  have hwait : (lineQueue s.memory (off / 64)).waiting.length = 0 := by simp [lineQueue, hq]
  unfold reachHome
  dsimp only
  rw [if_pos (.inl hwait)]

/-- A line poisoned at its home keeps its bytes. -/
theorem performHome_poison_hbm (s : State) (who : Who) (off : Nat) : (performHome s who off .poison .clean).1.memory.hbm = s.memory.hbm := by
  have hclean : ∀ counted flip, stackFinds s.memory off .clean ≠ .other counted flip := by
    intro counted flip
    obtain h | h := stackFinds_clean s.memory off <;> simp [h]
  obtain ⟨-, hsame⟩ | ⟨u, hbefore, -, hafter⟩ := performHome_answered s who off .poison .clean
  · exact hsame.hbm
  · exact hafter.hbm.trans ((setPoison_sameBytes u.cfg u.memory off true).hbm.trans (hbefore hclean).hbm)

/-! ## One byte that no write of an item reaches -/

/-- The byte x of a device's HBM3E has a value, no access waits at a line, and a context holds the line of x dirty in no cache partition. -/
structure Spared (c x device : Nat) (b : Byte) (s : State) : Prop where
  number : s.deviceNumber = device
  byte : s.memory.hbm.read x = b
  queues : s.memory.queues = []
  dirty : ∀ l ∈ s.memory.cache, l.ctx = c → l.dirty ≠ 0 → l.line ≠ (device * 2 ^ 48 + x) / 64

section
variable {c x device : Nat} {b : Byte} {s t : State}

theorem deviceNumber_of_cfg (h : t.cfg = s.cfg) : t.deviceNumber = s.deviceNumber := by
  simp only [State.deviceNumber, h]

theorem Spared.outside (h : Spared c x device b s) (k : Outside s t) (hcfg : t.cfg = s.cfg) : Spared c x device b t := by
  obtain ⟨hdevice, hbyte, hqueues, hdirty⟩ := h
  exact ⟨(deviceNumber_of_cfg hcfg).trans hdevice, by rw [k.memory, hbyte], by rw [k.memory, hqueues], by rwa [k.memory]⟩

theorem Spared.homely (h : Spared c x device b s) (k : Homely s t) (hcfg : t.cfg = s.cfg) (hbyte : t.memory.hbm.read x = s.memory.hbm.read x) :
    Spared c x device b t := by
  refine ⟨(deviceNumber_of_cfg hcfg).trans h.number, hbyte.trans h.byte, k.memory.queues.trans h.queues, ?_⟩
  rw [k.memory.cache]
  exact h.dirty

/-- A change of the cache partitions alone that brings no dirty line of the context at x. -/
theorem Spared.setCache (h : Spared c x device b s) {l : List CacheLine}
    (hl : ∀ y ∈ l, y.ctx = c → y.dirty ≠ 0 → y.line ≠ (device * 2 ^ 48 + x) / 64) :
    Spared c x device b (s.modMem (fun m => { m with cache := l })) := ⟨h.number, h.byte, h.queues, hl⟩

theorem Spared.fold {β γ : Type} (π : γ → State) {f : γ → β → γ} {l : List β} {p : γ} (h : Spared c x device b (π p))
    (hf : ∀ p, ∀ y ∈ l, Spared c x device b (π p) → Spared c x device b (π (f p y))) : Spared c x device b (π (l.foldl f p)) :=
  List.foldlRecOn (motive := fun p => Spared c x device b (π p)) l f h fun p hp y hy => hf p y hy hp

theorem Spared.ofFst {β : Type} {p : State × β} {y : β} (e : p = (t, y)) (h : Spared c x device b p.1) : Spared c x device b t := by
  rw [e] at h
  exact h

theorem Spared.request (h : Spared c x device b s) (item : Option ItemRef) (ctx : Option Nat) (p : Purpose) (mk : Nat → Packet) :
    Spared c x device b (s.request item ctx p mk).1 :=
  h.outside (State.request_outside ..) (State.request_calm (.refl s) item ctx p mk).cfg

theorem Spared.sendHost (h : Spared c x device b s) (q : Nat) (item : Option ItemRef) (ctx : Option Nat) (p : Purpose) (len : Nat)
    (mk : BitVec 24 → PorchOut) (imm : Option (BitVec 32)) : Spared c x device b (s.sendHost q item ctx p len mk imm) :=
  h.outside (State.sendHost_outside ..) (State.sendHost_calm (.refl s) q item ctx p len mk imm).cfg

theorem Spared.modItem (h : Spared c x device b s) (r : ItemRef) (f : Item → Item) : Spared c x device b (s.modItem r f) :=
  ⟨h.number, h.byte, h.queues, h.dirty⟩

theorem Spared.charge (h : Spared c x device b s) (who : Who) (k : AccKind) (off n : Nat) : Spared c x device b (chargeRequest s who k off n) :=
  h.homely (chargeRequest_homely ..) (chargeRequest_calm (.refl s) who k off n).cfg (chargeRequest_sameAt s who k off n).byte

/-- A write beside x at a home of this device. -/
theorem Spared.reachHome_write (h : Spared c x device b s) {off : Nat} {bs : List Byte} (hx : x < off ∨ off + bs.length ≤ x)
    (src : Nat) (who : Who) (mask : List Bool) : Spared c x device b (reachHome s src who off (.write bs mask) .clean).1 := by
  rw [reachHome_of_noneWaiting h.queues]
  exact h.homely (performHome_homely ..) (performHome_calm (.refl s) who off _ _).cfg (performHome_write_sameAt hx s who mask).byte

theorem Spared.reachHome_poison (h : Spared c x device b s) (src : Nat) (who : Who) (off : Nat) :
    Spared c x device b (reachHome s src who off .poison .clean).1 := by
  rw [reachHome_of_noneWaiting h.queues]
  exact h.homely (performHome_homely ..) (performHome_calm (.refl s) who off _ _).cfg (by rw [performHome_poison_hbm])

/-- A local address is the device's number and the offset. -/
theorem Spared.addr_of_local (h : Spared c x device b s) {a : Nat} (hlocal : isLocal s a = true) : device * 2 ^ 48 + offOf a = a := by
  have hdev : devOf a = s.deviceNumber := by simpa [isLocal] using hlocal
  rw [← h.number, ← hdev, devOf, offOf]
  omega

/-! ## Writes at homes (R247, R248) -/

theorem Spared.issueWrite (h : Spared c x device b s) (item : Option ItemRef) (ctx : Nat) (p : Purpose) {a : Nat} {bs : List Byte}
    (hout : ¬ (a ≤ device * 2 ^ 48 + x ∧ device * 2 ^ 48 + x < a + bs.length)) :
    Spared c x device b (Machine.issueWrite s item ctx p a bs).s := by
  unfold Machine.issueWrite
  extract_lets who charged
  have hcharged : Spared c x device b charged := h.charge ..
  split
  · next hlocal =>
    have haddr := h.addr_of_local hlocal
    refine Spared.fold Issued.s hcharged fun acc y hy hacc => ?_
    obtain ⟨hlo, hhi⟩ := cutLines_bounds hy
    have hlen : ((bs.drop (y.1 - offOf a)).take y.2).length ≤ y.2 := List.length_take_le ..
    have ht := hacc.reachHome_write (off := y.1) (bs := (bs.drop (y.1 - offOf a)).take y.2) (by omega) (sourceOf acc.s who) who
      (List.replicate y.2 true)
    dsimp only
    split
    · exact ht.request ..
    · exact ht
  · split
    · exact h
    · split
      · split
        · split
          · exact h
          · split
            · exact h.sendHost ..
            · exact h
        · exact h
      · refine Spared.fold Issued.s h fun acc y _ hacc => ?_
        split
        · next hsent => exact Spared.ofFst hsent (hacc.request ..)
        · next hsent => exact Spared.ofFst hsent (hacc.request ..)

/-- One line other than that of x written under a mask. -/
theorem Spared.issueMasked (h : Spared c x device b s) (die ctx : Nat) {line : Nat} (hline : line ≠ (device * 2 ^ 48 + x) / 64) {bs : List Byte}
    (hlen : bs.length = 64) (mask : W64) : Spared c x device b (Machine.issueMasked s die ctx (64 * line) bs mask).s := by
  unfold Machine.issueMasked
  split
  · next hlocal =>
    have haddr := h.addr_of_local hlocal
    have hx : x < offOf (64 * line) ∨ offOf (64 * line) + bs.length ≤ x := by
      by_contra hin
      exact hline (by omega)
    have ht := (h.charge (.item ⟨ctx, 0⟩) .wr (offOf (64 * line)) bs.length).reachHome_write hx (die % 32) (.item ⟨ctx, 0⟩) (maskBits mask)
    dsimp only
    split
    · exact ht.request ..
    · exact ht
  · split
    · next hsent => exact Spared.ofFst hsent (h.request ..)
    · next hsent => exact Spared.ofFst hsent (h.request ..)

theorem Spared.issuePoison (h : Spared c x device b s) (item : Option ItemRef) (ctx a : Nat) :
    Spared c x device b (Machine.issuePoison s item ctx a).s := by
  unfold Machine.issuePoison
  split
  · exact h
  · split
    · split
      · next hheld => exact (Spared.ofFst hheld (h.reachHome_poison ..)).request ..
      · next hdone => exact Spared.ofFst hdone (h.reachHome_poison ..)
    · split
      · next hsent => exact Spared.ofFst hsent (h.request ..)
      · next hsent => exact Spared.ofFst hsent (h.request ..)

/-! ## Write-backs of dirty lines (R210, R253) -/

section
variable {l : CacheLine}

/-- A line of the cache partitions replaced by a clean one, or by one other than that of x. -/
theorem Spared.putCache (h : Spared c x device b s) (hl : l.dirty = 0 ∨ l.line ≠ (device * 2 ^ 48 + x) / 64) :
    Spared c x device b (s.modMem (fun m => Machine.putCache m l)) := by
  refine h.setCache fun y hy hctx hdirty => ?_
  obtain rfl | hmem := eq_or_mem_of_mem_upsert hy
  · exact hl.resolve_left hdirty
  · exact h.dirty y hmem hctx hdirty

theorem Spared.foundCached (h : Spared c x device b s) (item : Option ItemRef) (hl : l.line ≠ (device * 2 ^ 48 + x) / 64) :
    Spared c x device b (Machine.foundCached s item l).1 := by
  have hfree : Spared c x device b s.takeFree.2 := ⟨h.number, h.byte, h.queues, h.dirty⟩
  exact (hfree.putCache (l := { l with poison := true, upset := false }) (.inr hl)).outside (writeError_outside ..)
    (writeError_calm (.refl _) _).cfg

theorem Spared.writeBack (h : Spared c x device b s) (hl : l.line ≠ (device * 2 ^ 48 + x) / 64) :
    Spared c x device b (Machine.writeBack s l).s := by
  unfold Machine.writeBack
  cases hread : (if l.upset then Machine.foundCached s none l else (s, l)) with | mk u k
  obtain ⟨hu, hk⟩ : Spared c x device b u ∧ k.line ≠ (device * 2 ^ 48 + x) / 64 := by
    split at hread
    · obtain rfl : k = { l with poison := true, upset := false } := congrArg Prod.snd hread.symm
      exact ⟨Spared.ofFst hread (h.foundCached none hl), hl⟩
    · obtain ⟨rfl, rfl⟩ := Prod.mk.inj hread
      exact ⟨h, hl⟩
  have hclean := hu.putCache (l := { k with dirty := 0, owners := [] }) (.inl rfl)
  have hwritten := hclean.issueMasked k.die k.ctx hk (leBytes_length 64 k.data.toNat) k.dirty
  dsimp only
  split
  · exact hwritten.issuePoison ..
  · exact hwritten

end

theorem Spared.writeBackAll (h : Spared c x device b s) {ls : List CacheLine} (hls : ∀ l ∈ ls, l.line ≠ (device * 2 ^ 48 + x) / 64) :
    Spared c x device b (Machine.writeBackAll s ls).s :=
  Spared.fold Issued.s h fun _ l hl hacc => hacc.writeBack (hls l hl)

/-! ## Writes of an item (R209, R253, R254) -/

section
variable {r : ItemRef}

theorem Spared.clearWay (h : Spared r.ctx x device b s) (die : Option Nat) (range : Nat × Nat) (writes : Bool) :
    Spared r.ctx x device b (Machine.clearWay s r die range writes).1 := by
  unfold Machine.clearWay
  split
  · exact h
  · split
    · exact h
    · refine h.writeBackAll fun l hl => ?_
      obtain ⟨hmem, hdirty⟩ := List.mem_filter.mp hl
      simp only [Bool.and_eq_true, beq_iff_eq, bne_iff_ne] at hdirty
      exact h.dirty l hmem hdirty.1.1.1 hdirty.1.1.2

theorem Spared.writeWay (h : Spared r.ctx x device b s) (die : Option Nat) (range : Nat × Nat) :
    Spared r.ctx x device b (Machine.writeWay s r die range).1 := by
  unfold Machine.writeWay
  split
  · exact h
  · exact h.clearWay ..

theorem Spared.invalidateClean (h : Spared c x device b s) (p : CacheLine → Bool) : Spared c x device b (Machine.invalidateClean s p) := by
  refine h.setCache fun y hy => ?_
  obtain ⟨l, hl, rfl⟩ := List.mem_map.mp hy
  have := h.dirty l (List.mem_of_mem_filter hl)
  split <;> exact this

theorem Spared.writeLine (h : Spared r.ctx x device b s) {a : Nat} {bs : List Byte}
    (hout : ¬ (a ≤ device * 2 ^ 48 + x ∧ device * 2 ^ 48 + x < a + bs.length)) (p : Purpose) :
    Spared r.ctx x device b (Machine.writeLine s r none a bs p).s :=
  (h.invalidateClean _).issueWrite (some r) r.ctx p hout

theorem blur_length (s : State) (lines : List Nat) (a : Nat) (bs : List Byte) : (blur s lines a bs).2.length = bs.length := by
  unfold blur
  split
  · rfl
  · simp

theorem Spared.blur (h : Spared c x device b s) (lines : List Nat) (a : Nat) (bs : List Byte) :
    Spared c x device b (Machine.blur s lines a bs).1 := by
  unfold Machine.blur
  split
  · exact h
  · exact ⟨h.number, h.byte, h.queues, h.dirty⟩

theorem Spared.writeNow (h : Spared r.ctx x device b s) {a : Nat} {bs : List Byte}
    (hout : ¬ (a ≤ device * 2 ^ 48 + x ∧ device * 2 ^ 48 + x < a + bs.length)) (exempt : Bool) :
    Spared r.ctx x device b (Machine.writeNow s r none a bs exempt).1 := by
  have hlen := blur_length s (blurLines s r) a bs
  have hblurred := h.blur (blurLines s r) a bs
  unfold Machine.writeNow
  cases hblur : Machine.blur s (blurLines s r) a bs with | mk u cs
  rw [hblur] at hlen hblurred
  dsimp only at hlen hblurred ⊢
  refine (Spared.fold Issued.s (p := { s := u, ids := [], code := none }) hblurred fun acc y hy hacc => ?_).modItem ..
  refine hacc.writeLine ?_ .write
  have hpiece : ((cs.drop (y.1 - a)).take y.2).length ≤ y.2 := List.length_take_le ..
  obtain ⟨hlo, hhi⟩ : a ≤ y.1 ∧ y.1 + y.2 ≤ a + cs.length := by
    split at hy
    · exact cutBlocks_bounds hy
    · exact cutLines_bounds hy
  omega

theorem Spared.itemWrite (h : Spared r.ctx x device b s) {a : Nat} {bs : List Byte}
    (hout : ¬ (a ≤ device * 2 ^ 48 + x ∧ device * 2 ^ 48 + x < a + bs.length)) (exempt : Bool) :
    Spared r.ctx x device b (Machine.itemWrite s r none a bs exempt).1 := by
  unfold Machine.itemWrite
  split
  · exact h
  · split
    · next hway => exact (Spared.ofFst hway (h.writeWay ..)).writeNow hout exempt
    · next hway =>
      refine Spared.fold Prod.fst (Spared.ofFst hway (h.writeWay ..)) fun acc y hy hacc => ?_
      have hpiece : ((bs.drop (y.1 - a)).take y.2).length ≤ y.2 := List.length_take_le ..
      obtain ⟨hlo, hhi⟩ := cutLines_bounds hy
      dsimp only
      split
      · next hclear => exact (Spared.ofFst hclear (hacc.writeWay ..)).writeNow (by omega) exempt
      · next hheld => exact (Spared.ofFst hheld (hacc.writeWay ..)).modItem ..

theorem Spared.writeRanges (h : Spared r.ctx x device b s) {ws : List (Nat × List Byte)}
    (hout : ∀ w ∈ ws, ¬ (w.1 ≤ device * 2 ^ 48 + x ∧ device * 2 ^ 48 + x < w.1 + w.2.length)) (exempt : Bool) :
    Spared r.ctx x device b (Machine.writeRanges s r none ws exempt).1 :=
  Spared.fold Prod.fst h fun _ w hw hacc => hacc.itemWrite (hout w hw) exempt

end
end

/-- The writes of an item leave every byte of HBM3E that none of their ranges holds, beside the context's dirty lines. -/
theorem writeRanges_hbm_outside {s : State} {r : ItemRef} {ws : List (Nat × List Byte)} (exempt : Bool) {x : Nat} (hqueues : s.memory.queues = [])
    (hout : ∀ w ∈ ws, ¬ (w.1 ≤ s.deviceNumber * 2 ^ 48 + x ∧ s.deviceNumber * 2 ^ 48 + x < w.1 + w.2.length))
    (hdirty : ∀ l ∈ s.memory.cache, l.ctx = r.ctx → l.dirty ≠ 0 → l.line ≠ (s.deviceNumber * 2 ^ 48 + x) / 64) :
    (writeRanges s r none ws exempt).1.memory.hbm.read x = s.memory.hbm.read x :=
  (Spared.writeRanges ⟨rfl, rfl, hqueues, hdirty⟩ hout exempt).byte

end Sys2Proof.Machine
end

section
/-! PROOF. A failed item is not issued, and what a FILL writes (R168, R171, R172, R237, R238). -/

namespace Sys2Proof.Machine

/-! ## Accesses of the device leave the items -/

/-- An operation that leaves the items alone. -/
structure SameItems (s t : State) : Prop where
  items : t.items = s.items

theorem SameItems.refl (s : State) : SameItems s s := ⟨rfl⟩

theorem SameItems.trans {a b c : State} (h : SameItems a b) (k : SameItems b c) : SameItems a c := ⟨k.items.trans h.items⟩

theorem Outside.sameItems {s t : State} (h : Outside s t) : SameItems s t := ⟨h.items⟩

theorem Homely.sameItems {s t : State} (h : Homely s t) : SameItems s t := ⟨h.items⟩

theorem State.modMem_sameItems (s : State) (f : Memory → Memory) : SameItems s (s.modMem f) := ⟨rfl⟩

theorem State.modCtx_sameItems (s : State) (c : Nat) (f : Ctx → Ctx) : SameItems s (s.modCtx c f) := ⟨rfl⟩

theorem SameItems.fold {β γ : Type} (π : γ → State) {a : State} {f : γ → β → γ} {l : List β} {p : γ} (h : SameItems a (π p))
    (hf : ∀ p x, SameItems (π p) (π (f p x))) : SameItems a (π (l.foldl f p)) :=
  List.foldlRecOn (motive := fun p => SameItems a (π p)) l f h fun p hp x _ => hp.trans (hf p x)

theorem SameItems.ofFst {β : Type} {a t : State} {p : State × β} {y : β} (e : p = (t, y)) (h : SameItems a p.1) : SameItems a t := by
  rw [e] at h
  exact h

theorem State.request_sameItems (s : State) (item : Option ItemRef) (ctx : Option Nat) (p : Purpose) (mk : Nat → Packet) :
    SameItems s (s.request item ctx p mk).1 := (State.request_outside ..).sameItems

/-- A waiting access whose turn has come: charged, then performed. -/
theorem chargedAccess_sameItems (s : State) (who : Who) (off n : Nat) (op : AccOp) :
    SameItems s (performHome (chargeRequest s who (accKind op) off n) who off op .clean).1 :=
  ((chargeRequest_homely ..).trans (performHome_homely ..)).sameItems

theorem awaitLine_sameItems (n : Nat) (s : State) (src line : Nat) : SameItems s (awaitLine n s src line) := by
  induction n generalizing s with
  | zero => exact .refl s
  | succ n ih =>
    unfold awaitLine
    extract_lets q own
    clear_value own q
    cases nextAfter 62 q.last.val (fun k => k == src || q.waiting.any (fun x => x.source.val == k)) with
    | none => exact .refl s
    | some k =>
      dsimp only
      split
      · exact State.modMem_sameItems ..
      · split
        · refine SameItems.trans ?_ (ih _)
          exact (State.modMem_sameItems ..).trans ((chargedAccess_sameItems ..).trans (State.modMem_sameItems ..))
        · exact .refl s

theorem reachHome_sameItems (s : State) (src : Nat) (who : Who) (off : Nat) (op : AccOp) (ecc : Ecc) :
    SameItems s (reachHome s src who off op ecc).1 := by
  unfold reachHome
  dsimp only
  refine SameItems.trans ?_ (performHome_homely ..).sameItems
  split
  · exact .refl s
  · exact awaitLine_sameItems ..

theorem deviceRead_sameItems (s : State) (off n : Nat) : SameItems s (deviceRead s off n).1 :=
  SameItems.fold Prod.fst (.refl s) fun acc p => reachHome_sameItems acc.1 61 .device p.1 (.read p.2) .clean

theorem holdWrite_sameItems (s : State) (a : Nat) (bs : List Byte) : SameItems s (holdWrite s a bs) := State.request_sameItems ..

theorem deviceWrite_sameItems (s : State) (off : Nat) (bs : List Byte) : SameItems s (deviceWrite s off bs) := by
  unfold deviceWrite
  refine SameItems.fold id (.refl s) fun t p => ?_
  dsimp only [id]
  split
  · next hheld => exact (SameItems.ofFst hheld (reachHome_sameItems ..)).trans (holdWrite_sameItems ..)
  · next hdone => exact SameItems.ofFst hdone (reachHome_sameItems ..)

theorem issuePoison_sameItems (s : State) (item : Option ItemRef) (ctx a : Nat) : SameItems s (issuePoison s item ctx a).s := by
  unfold issuePoison
  split
  · exact .refl s
  · split
    · split
      · next hheld => exact (SameItems.ofFst hheld (reachHome_sameItems ..)).trans (State.request_sameItems ..)
      · next hdone => exact SameItems.ofFst hdone (reachHome_sameItems ..)
    · split
      · next hsent => exact SameItems.ofFst hsent (State.request_sameItems ..)
      · next hsent => exact SameItems.ofFst hsent (State.request_sameItems ..)

theorem casRecord_sameItems (s : State) (item : Option ItemRef) (ctx : Option Nat) (a : Nat) (expect new : W64) (p : Purpose) :
    SameItems s (casRecord s item ctx a expect new p).1 := by
  unfold casRecord
  split
  · dsimp only
    split
    · exact reachHome_sameItems ..
    · exact (reachHome_sameItems ..).trans (State.request_sameItems ..)
    · exact reachHome_sameItems ..
  · split
    · next hsent => exact SameItems.ofFst hsent (State.request_sameItems ..)
    · next hsent => exact SameItems.ofFst hsent (State.request_sameItems ..)

theorem pinReleaseLost_sameItems (s : State) (c a buf : Nat) : SameItems s (pinReleaseLost s c a buf) := (writeError_outside ..).sameItems

theorem issueRelease_sameItems (s : State) (c a buf : Nat) : SameItems s (issueRelease s c a buf) := by
  unfold issueRelease
  split
  · dsimp only
    split
    · split
      · next hcas => exact ((reachHome_sameItems ..).trans (SameItems.ofFst hcas (casRecord_sameItems ..))).trans (pinReleaseLost_sameItems ..)
      · next hcas => exact (reachHome_sameItems ..).trans (SameItems.ofFst hcas (casRecord_sameItems ..))
    · exact (reachHome_sameItems ..).trans (State.modCtx_sameItems ..)
    · exact (reachHome_sameItems ..).trans (pinReleaseLost_sameItems ..)
  · split
    · next hsent => exact SameItems.ofFst hsent (State.request_sameItems ..)
    · next hsent => exact (SameItems.ofFst hsent (State.request_sameItems ..)).trans (State.modCtx_sameItems ..)

theorem giveUpClaim_sameItems (s : State) (c a buf : Nat) : SameItems s (giveUpClaim s c a buf) := by
  unfold giveUpClaim
  split
  · dsimp only
    split
    · exact (reachHome_sameItems ..).trans (casRecord_sameItems ..)
    · exact (reachHome_sameItems ..).trans (State.request_sameItems ..)
    · exact reachHome_sameItems ..
  · exact State.request_sameItems ..

theorem scrambleAt_sameItems (s : State) (c a n : Nat) : SameItems s (scrambleAt s c a n) := by
  unfold scrambleAt
  split
  · exact ⟨rfl⟩
  · exact .refl s

theorem discardRanges_sameItems (s : State) (i : Item) : SameItems s (discardRanges s i) :=
  SameItems.fold id (.refl s) fun _ _ => scrambleAt_sameItems ..

theorem staleAreas_sameItems (s : State) (i : Item) : SameItems s (staleAreas s i) := by
  unfold staleAreas
  cases i.die with
  | none => exact .refl s
  | some d => exact SameItems.fold id (.refl s) fun _ _ => ⟨rfl⟩

theorem ledgerRecords_sameItems (s : State) (k : CtxCfg) (first n : Nat) : SameItems s (ledgerRecords s k first n).1 := by
  refine SameItems.fold Prod.fst (.refl s) fun acc i => ?_
  dsimp only
  split
  · exact .refl _
  · exact deviceRead_sameItems ..

theorem sendDrain_sameItems (s : State) (c : Nat) (k : CtxCfg) (first : Nat) (done : BitVec 32) (rs : List (List Byte)) :
    SameItems s (sendDrain s c k first done rs) :=
  SameItems.trans (SameItems.fold id (.refl s) fun _ _ => (State.sendHost_outside ..).sameItems) (State.sendHost_outside ..).sameItems

theorem drain_sameItems (s : State) (c : Nat) : SameItems s (drain s c) := by
  unfold drain
  split
  · exact .refl s
  · dsimp only
    split
    · exact .refl s
    · split
      · exact State.modCtx_sameItems ..
      · split
        · next hread =>
          exact ((SameItems.ofFst hread (ledgerRecords_sameItems ..)).trans (State.modCtx_sameItems ..)).trans (sendDrain_sameItems ..)
        · next hread => exact (SameItems.ofFst hread (ledgerRecords_sameItems ..)).trans (State.modCtx_sameItems ..)

/-! ## The item under a reference is not issued -/

/-- The item of a reference, where there is one, is at another stage than issued. -/
def Unissued (r : ItemRef) (s : State) : Prop := ∀ j, s.item r = some j → j.stage ≠ .issued

section
variable {r : ItemRef} {s t : State}

theorem Unissued.put (h : Unissued r s) (hitems : SameItems s t) : Unissued r t := by
  unfold Unissued State.item
  rw [hitems.items]
  exact h

theorem State.item_modItem {f : Item → Item} (hf : ∀ j, (f j).ref = j.ref) (q : ItemRef) :
    (s.modItem q f).item r = (s.item r).map (fun i => if i.ref = q then f i else i) := by
  unfold State.item
  rw [State.modItem_items, List.find?_map]
  congr 2
  funext i
  simp only [Function.comp]
  split <;> simp [hf]

/-- A change of items that leaves each one's reference, and its stage or makes it another than issued. -/
theorem Unissued.modItem (h : Unissued r s) (q : ItemRef) {f : Item → Item} (hf : ∀ j, (f j).ref = j.ref)
    (hstage : ∀ j, (f j).stage = j.stage ∨ (f j).stage ≠ .issued) : Unissued r (s.modItem q f) := by
  intro j hj
  rw [State.item_modItem hf, Option.map_eq_some_iff] at hj
  obtain ⟨i, hi, rfl⟩ := hj
  split
  · obtain heq | hne := hstage i
    · rw [heq]
      exact h i hi
    · exact hne
  · exact h i hi

/-- A change of the item of a reference to a stage other than issued. -/
theorem Unissued.of_modItem {f : Item → Item} (hf : ∀ j, (f j).ref = j.ref) (hstage : ∀ j, (f j).stage ≠ .issued) :
    Unissued r (s.modItem r f) := by
  intro j hj
  rw [State.item_modItem hf, Option.map_eq_some_iff] at hj
  obtain ⟨i, hi, rfl⟩ := hj
  have href : i.ref = r := by simpa [State.item] using List.find?_some hi
  rw [if_pos href]
  exact hstage i

theorem poisonItem_unissued (h : Unissued r s) (i : Item) : Unissued r (poisonItem s i) := by
  unfold poisonItem
  extract_lets lines t w
  have ht : Unissued r t := h.put (State.modMem_sameItems ..)
  have hw : Unissued r w.s := ht.put (SameItems.fold Issued.s (.refl t) fun _ _ => issuePoison_sameItems ..)
  exact hw.modItem i.ref (fun _ => rfl) fun _ => .inl rfl

theorem dropAdvance_unissued (h : Unissued r s) (q : ItemRef) : Unissued r (dropAdvance s q) := by
  unfold dropAdvance
  split
  · split
    · exact poisonItem_unissued h _
    · exact h
  · exact h

theorem discardDirty_unissued (h : Unissued r s) (q : ItemRef) : Unissued r (discardDirty s q) :=
  (h.modItem q (f := fun i => { i with written := i.written ++
    (s.memory.cache.filter (fun l => l.ctx == q.ctx && l.owners.contains q)).map (fun l => (64 * l.line, 64)) })
    (fun _ => rfl) fun _ => .inl rfl).put ⟨rfl⟩

theorem releaseUnits_sameItems (s : State) (q : ItemRef) : SameItems s (releaseUnits s q) := ⟨rfl⟩

theorem silence_sameItems (s : State) (q : ItemRef) (st : Status) : SameItems s (silence s q st) := by
  unfold silence
  split
  · exact .refl s
  · exact ⟨rfl⟩

theorem rewriteRecord_sameItems (s : State) (q : ItemRef) : SameItems s (rewriteRecord s q) := by
  unfold rewriteRecord
  split
  · split
    · exact deviceWrite_sameItems ..
    · exact .refl s
  · exact .refl s

theorem overrule_unissued (h : Unissued r s) (i : Item) (st : Status) (code : Nat) (aux : BitVec 32) :
    Unissued r (overrule s i st code aux) := by
  unfold overrule
  extract_lets u fresh v lines w
  have hu : Unissued r u := by
    refine Unissued.put ?_ (silence_sameItems ..)
    exact h.modItem i.ref (fun _ => rfl) fun _ => .inl rfl
  have hv : Unissued r v := by
    unfold v
    split
    · exact discardDirty_unissued hu i.ref
    · exact hu
  split
  · split
    · refine dropAdvance_unissued ?_ i.ref
      exact hv.modItem i.ref (fun _ => rfl) fun _ => .inr Stage.noConfusion
    · exact hv
  · have hw : Unissued r w := hv.put (rewriteRecord_sameItems ..)
    split
    · split
      · exact poisonItem_unissued hw _
      · exact hw
    · exact hw
  · exact hv

theorem endClaim_unissued (h : Unissued r s) (i : Item) (a b : Nat) : Unissued r (endClaim s i a b) := by
  unfold endClaim
  extract_lets u away v
  have hu : SameItems s u := ⟨rfl⟩
  have hv : Unissued r v := h.put (hu.trans (giveUpClaim_sameItems ..))
  split
  · exact hv
  · exact (hv.put (discardRanges_sameItems ..)).modItem i.ref (fun _ => rfl) fun _ => .inl rfl

theorem itemEvent_sameItems (s : State) (q : ItemRef) (event : Nat) : SameItems s (itemEvent s q event) := by
  unfold itemEvent
  split
  · split
    · exact (count_outside ..).sameItems
    · exact (count_outside ..).sameItems
    · exact .refl s
  · exact .refl s

/-- An item that ends is not issued afterwards, and no other becomes so. -/
theorem endOne_unissued (q : ItemRef) (st : Status) (code : Nat) (aux : BitVec 32) (h : Unissued r s ∨ q = r) :
    Unissued r (endOne s q st code aux) := by
  unfold endOne
  split
  · next hnone =>
    obtain h | rfl := h
    · exact h
    · intro j hj
      rw [hnone] at hj
      cases hj
  · next i hi =>
    split
    · next hover =>
      have h : Unissued r s := by
        obtain h | rfl := h
        · exact h
        · intro j hj hissued
          obtain rfl := Option.some.inj (hi.symm.trans hj)
          simp [Item.over, hissued] at hover
      split
      · exact overrule_unissued h i st code aux
      · exact h
    · extract_lets dropping u v w y ended
      have hended : Unissued r ended := by
        obtain h | rfl := h
        · have hu : Unissued r u := h.put ((releaseUnits_sameItems s q).trans (silence_sameItems ..))
          have hv : Unissued r v := by
            unfold v
            split
            · exact (discardDirty_unissued hu q).put (staleAreas_sameItems ..)
            · exact hu
          have hw : Unissued r w := by
            unfold w
            split
            · split
              · exact hv
              · exact endClaim_unissued hv i _ _
            · exact hv
          have hy : Unissued r y := by
            unfold y
            split
            · exact hw.put (issueRelease_sameItems ..)
            · exact hw
          refine hy.modItem q (fun _ => rfl) fun _ => .inr ?_
          dsimp only
          split <;> exact Stage.noConfusion
        · refine Unissued.of_modItem (fun _ => rfl) fun _ => ?_
          dsimp only
          split <;> exact Stage.noConfusion
      refine dropAdvance_unissued (Unissued.put ?_ (itemEvent_sameItems ..)) q
      exact hended.put ⟨rfl⟩

theorem cascade_unissued (n : Nat) (h : Unissued r s) (c : Nat) : Unissued r (cascade n s c) := by
  induction n generalizing s with
  | zero => exact h
  | succ n ih =>
    unfold cascade
    split
    · next i _ =>
      refine ih ?_
      have hone := endOne_unissued i.ref .rejected codePriorFailed 0 (.inl h)
      split
      · exact hone.modItem _ (fun _ => rfl) fun _ => .inl rfl
      · exact hone
    · exact h

theorem appendRecord_unissued (h : Unissued r s) (i : Item) : Unissued r (appendRecord s i) := by
  unfold appendRecord
  split
  · exact h.modItem i.ref (fun _ => rfl) fun _ => .inr Stage.noConfusion
  · extract_lets c x u v
    have hu : Unissued r u := h.put (deviceWrite_sameItems ..)
    have hv : Unissued r v := by
      refine Unissued.put ?_ (State.modCtx_sameItems ..)
      exact hu.modItem i.ref (fun _ => rfl) fun _ => .inr Stage.noConfusion
    split
    · exact hv.put (drain_sameItems ..)
    · exact hv

theorem appendReady_unissued (n : Nat) (h : Unissued r s) (c : Nat) : Unissued r (appendReady n s c) := by
  induction n generalizing s with
  | zero => exact h
  | succ n ih =>
    unfold appendReady
    split
    · exact ih (appendRecord_unissued h _)
    · exact h

/-- An item that fails ends, and is not issued. -/
theorem failItem_unissued (s : State) (r : ItemRef) (code : Nat) (err : Option Nat) : Unissued r (failItem s r code err) := by
  unfold failItem
  split
  · refine Unissued.put ?_ (drainDue_outside ..).sameItems
    exact appendReady_unissued _ (cascade_unissued _ (endOne_unissued r _ code _ (.inr rfl)) _) _
  · next hnone =>
    intro j hj
    rw [hnone] at hj
    cases hj

end

/-! ## FILL (R238) -/

/-- The writes of a FILL: each of its rows, with the pattern. -/
def fillWrites (d : HaulD) : List (Nat × List Byte) :=
  (haulDests d).map (fun x => (x.1, (List.range d.cols).map (fun k => (leBytes 8 d.pattern.toNat).getD (k % 8) 0)))

theorem runFill_eq (s : State) (i : Item) (d : HaulD) : runFill s i d = putRanges s i.ref none [] (fillWrites d) false := rfl

/-- A FILL whose writes are on their way is issued; one with a write that failed has ended. -/
theorem runFill_of_issued {s : State} {i : Item} {d : HaulD} {j : Item} (hitem : (runFill s i d).item i.ref = some j) (hstage : j.stage = .issued) :
    (runFill s i d).memory = (writeRanges s i.ref none (fillWrites d) false).1.memory := by
  rw [runFill_eq] at hitem ⊢
  cases hwrites : writeRanges s i.ref none (fillWrites d) false with | mk v code
  cases code with
  | none => rw [putRanges_of_written rfl hwrites]; rfl
  | some code =>
    rw [putRanges_of_code rfl hwrites] at hitem
    exact absurd hstage (failItem_unissued v i.ref code none j hitem)

theorem haulItem_some {s : State} {c seq op : Nat} {i : Item} {d : HaulD} (h : haulItem s c seq op = some (i, d)) :
    s.item ⟨c, seq⟩ = some i ∧ d = haulD i.words := by
  unfold haulItem runningItem at h
  grind

theorem exec_fill_of_none {c : CtxIx} {seq : Nat} {s : State} (h : haulItem s c.val seq 4 = none) : exec (.fill c seq) s = .next s := by
  simp only [exec, execFill, h]

/-- Settles O33, by one byte that no write of the item reaches: its home performs, refuses, holds or answers RETRY, and the byte stays; a FILL
whose accesses are all issued has only written. -/
theorem itemWritesStayInside : Obligations.ItemWritesStayInside := by
  refine ⟨fun s r ws exempt a _ => writeRanges_hbm_outside exempt, ?fill⟩
  intro s t c seq i a ht hitem _ hqueues hissued hdirty hout
  cases hhaul : haulItem s c.val seq 4 with
  | none =>
    rw [exec_fill_of_none hhaul] at ht
    obtain rfl := Host.Outcome.next.inj ht
    rfl
  | some p =>
    obtain ⟨i', d⟩ := p
    obtain ⟨hsame, rfl⟩ := haulItem_some hhaul
    obtain rfl := Option.some.inj (hitem.symm.trans hsame)
    rw [exec_fill hhaul] at ht
    obtain rfl := Host.Outcome.next.inj ht
    obtain ⟨j, hj, hstage⟩ := hissued
    have href : i.ref = ⟨c.val, seq⟩ := by simpa [State.item] using List.find?_some hitem
    rw [runFill_of_issued (href ▸ hj) hstage]
    refine writeRanges_hbm_outside false hqueues (fun w hw => ?_) hdirty
    obtain ⟨p, hp, rfl⟩ := List.mem_map.mp hw
    simpa using hout p hp

end Sys2Proof.Machine
end

section
/-! PROOF. An item goes on once its way is clear, and an access whose way is not clear stays held (R253, R262). -/

namespace Sys2Proof.Machine

section
variable {c : CtxIx} {seq : Nat} {s : State} {i : Item} (hitem : s.item ⟨c.val, seq⟩ = some i)
include hitem

theorem exec_spanConflictCleared_of_unended (hlive : live s = true) (hover : i.over = false) :
    exec (.spanConflictCleared c seq) s = .next (goOn (goStaged s i.ref) c seq i) := by
  simp [exec, execSpanConflictCleared, hitem, hlive, hover]

theorem exec_spanConflictCleared_of_over (hover : i.over = true) : exec (.spanConflictCleared c seq) s = .next s := by
  simp [exec, execSpanConflictCleared, hitem, hover]

end

/-- An access in the way of which an earlier span or a FENCE stands stays held, and starts no write-back (R253, R262). -/
theorem clearWay_of_held {s : State} {i : Item} {die : Option Nat} {range : Nat × Nat} {writes : Bool} (hitem : s.item i.ref = some i)
    (hheld : conflicts s i range writes = true ∨ barredBy s i writes = true) : clearWay s i.ref die range writes = (s, false) := by
  have hway : (conflicts s i range writes || barredBy s i writes) = true := (Bool.or_eq_true ..).mpr hheld
  simp only [clearWay, hitem, hway, if_true]

/-- Settles O23, by whether the item has ended, and by what holds an access. -/
theorem spanConflictLetsItemGoOn : Obligations.SpanConflictLetsItemGoOn :=
  ⟨fun _ _ _ _ => exec_spanConflictCleared_of_unended, fun _ _ _ _ => exec_spanConflictCleared_of_over, fun _ _ _ _ _ => clearWay_of_held⟩

end Sys2Proof.Machine
end

section
/-! PROOF. The timers of a link, of its queues and of its requests (R250, R272, R275, R280, R283, R285, R289 to R291). -/

namespace Sys2Proof.Machine

/-! ## A port after a change -/

section
variable {s : State} {p : Nat}

theorem State.portUp_iff : s.portUp p = true ↔ (s.port p).state = .up := beq_iff_eq

theorem State.modPort_port_same {f : Port → Port} (h : p < s.ports.length) : (s.modPort p f).port p = f (s.port p) := by
  simp [State.port, h]

/-- Two changes of a port that agree on it. -/
theorem State.modPort_congr {f g : Port → Port} (h : f (s.port p) = g (s.port p)) : s.modPort p f = s.modPort p g := by
  rw [State.modPort, State.modPort, modify_congr_getD (d := Port.cold) h]

/-- A change that leaves a port as it was leaves the state as it was. -/
theorem State.modPort_eq_self {f : Port → Port} (h : f (s.port p) = s.port p) : s.modPort p f = s :=
  (State.modPort_congr (g := id) h).trans (by rw [State.modPort, List.modify_id])

theorem State.modPort_modPort (f g : Port → Port) : (s.modPort p f).modPort p g = s.modPort p (g ∘ f) := by
  simp [State.modPort, List.modify_modify_eq]

end

/-! ## LINK_DOWN_TIMEOUT and PORT_RETRAIN_TIMEOUT (R272, R289, R290) -/

/-- A port whose third attempt to train has run out (R290). -/
def Port.fail (q : Port) : Port := { q with state := .failed, fecLocked := false, ready := false }

section
variable {p : PortIx} {s : State} (hup : s.up = true)
include hup

theorem exec_linkDownTimeout (hstate : (s.port p.val).state = .up) :
    exec (.linkDownTimeout p) s = .next (linkDown (s.upTo ((s.port p.val).lastGood + 8000)) p.val 0) := by
  simp [exec, execLinkDownTimeout, hup, State.portUp_iff.mpr hstate]

section
variable (hstate : (s.port p.val).state = .training ∨ (s.port p.val).state = .down)
include hstate

theorem exec_portRetrainTimeout_of_left (hleft : (s.port p.val).attempts < 3) : exec (.portRetrainTimeout p) s =
    .next ((s.upTo ((s.port p.val).downAt + 300000000)).modPort p.val
      (fun q => q.train (Nat.max s.now ((s.port p.val).downAt + 300000000)) (q.attempts + 1))) := by
  simp [exec, execPortRetrainTimeout, hup, hstate, hleft]

theorem exec_portRetrainTimeout_of_third (hthird : 3 ≤ (s.port p.val).attempts) : exec (.portRetrainTimeout p) s =
    .next (raiseError ((s.upTo ((s.port p.val).downAt + 300000000)).modPort p.val Port.fail)
      { cls := 0x05, sev := sevUnit, unit := 0x40 + p.val, item := none, ctx := none, detail := [BitVec.ofNat 64 (s.port p.val).attempts] }) := by
  simp only [exec, execPortRetrainTimeout, hup, hstate, Nat.not_lt.mpr hthird, and_self, if_true, if_false]
  rfl

end
end

/-! ## PORT_DISABLE_TIMEOUT (R291) -/

section
variable {s : State} {p : Nat}

theorem rerouteQueue_of_empty (h : (s.port p).queue = []) : rerouteQueue s p = s := by
  have hself : s.modPort p (fun q => { q with queue := [] }) = s := State.modPort_eq_self (by rw [← h])
  simp only [rerouteQueue, h, hself, List.foldl_nil]

/-- A port that goes OFF after its last TRAIN flit, of intent DISABLE. -/
def Port.goOff (body : List Byte) (q : Port) : Port := { q.sendControl 3 body with state := .off, replay := [], reenableLatched := false }

/-- A port at the end of its disable: OFF, or training where it was enabled again meanwhile. -/
def Port.endDisable (now : Nat) (body : List Byte) (q : Port) : Port :=
  if q.reenableLatched then (q.goOff body).train now 1 else q.goOff body

/-- The end of a disable that has nothing left to route changes its port alone. -/
theorem finishDisable_of_empty (hport : p < s.ports.length) (h : (s.port p).queue = []) :
    finishDisable s p = s.modPort p (Port.endDisable s.now (trainBody s p 1 false)) := by
  have hoff : (sendTrain s p 1).modPort p (fun q => { q with state := .off, replay := [], reenableLatched := false }) =
      s.modPort p (Port.goOff (trainBody s p 1 false)) := State.modPort_modPort ..
  have hempty : ((s.modPort p (Port.goOff (trainBody s p 1 false))).port p).queue = [] := by
    rw [State.modPort_port_same hport]
    exact h
  simp only [finishDisable, hoff, rerouteQueue_of_empty hempty]
  cases hagain : (s.port p).reenableLatched with
  | true => exact (State.modPort_modPort ..).trans (State.modPort_congr (by simp [Port.endDisable, hagain]))
  | false => exact State.modPort_congr (by simp [Port.endDisable, hagain])

theorem Port.endDisable_eq (now : Nat) (body : List Byte) (q : Port) :
    (q.endDisable now body).state = (if q.reenableLatched then .training else .off) ∧ (q.endDisable now body).replay = [] ∧
      (q.endDisable now body).reenableLatched = false ∧ (q.endDisable now body).control = some (controlFlit q 3 body) := by
  unfold Port.endDisable
  split <;> exact ⟨rfl, rfl, rfl, rfl⟩

end

theorem exec_portDisableTimeout_of_empty {p : PortIx} {s : State} (hup : s.up = true) (hstate : (s.port p.val).state = .disabling)
    (hport : p.val < s.ports.length) (hqueue : (s.port p.val).queue = []) {done : Nat} (hdone : done = (s.port p.val).downAt + 20000) :
    exec (.portDisableTimeout p) s =
      .next ((s.upTo done).modPort p.val (Port.endDisable (Nat.max s.now done) (trainBody s p.val 1 false))) := by
  have hend : finishDisable (s.upTo done) p.val = _ := finishDisable_of_empty hport hqueue
  subst hdone
  simp only [exec, execPortDisableTimeout, hup, hstate, and_self, if_true, hend]
  rfl

/-! ## ESCAPE_WAIT_EXPIRY and STALL_LIMIT_EXPIRY (R277, R280, R283, R285) -/

/-- A stalled head taken out of its queue after stall_limit, and counted. -/
def stallDiscard (s : State) (p : Nat) (x : LanePacket) : State :=
  (unqueue (s.upTo (x.since + bits s.cfg.spejan 39 24 * 1000)) p x).modPort p (fun q => { q with stallDiscards := satInc q.stallDiscards })

section
variable {p : PortIx} {cls : Fin 4} {s : State}

theorem exec_escapeWaitExpiry_of_none (h : stalledHeads (s.port p.val) cls.val 0 = []) : exec (.escapeWaitExpiry p cls) s = .next s := by
  simp [exec, execEscapeWaitExpiry, h]

variable {x : LanePacket} {rest : List LanePacket} (hup : s.up = true) (hstate : (s.port p.val).state = .up)
include hup hstate

theorem exec_escapeWaitExpiry_of_stalled (h : stalledHeads (s.port p.val) cls.val 0 = x :: rest) : exec (.escapeWaitExpiry p cls) s =
    .next (leaveMain (s.upTo (x.since + bits s.cfg.spejan 23 12 * 100)) p.val x) := by
  simp [exec, execEscapeWaitExpiry, hup, State.portUp_iff.mpr hstate, h]

theorem exec_stallLimitExpiry {lane : Fin 3} (hlane : lane ≠ 0) (h : stalledHeads (s.port p.val) cls.val lane.val = x :: rest) :
    exec (.stallLimitExpiry p cls lane) s =
      .next ((discardRecord (owePacket (stallDiscard s p.val x) x) p.val x.packet true).pump p.val) := by
  have hescape : lane.val ≠ 0 := Fin.val_ne_iff.mpr hlane
  simp [exec, execStallLimitExpiry, stallDiscard, hup, State.portUp_iff.mpr hstate, hescape, h]

end

section
variable {s : State} {x : LanePacket}

theorem owePacket_of_sameLink (hsource : x.source < 16) (hepoch : (s.port x.source).epoch = x.epoch) :
    owePacket s x = owe s x.source x.cls x.inLane (flitCount x.packet) := if_pos ⟨hsource, hepoch⟩

/-- A packet of this device, or one that came before its link trained anew, holds no credit. -/
theorem owePacket_of_otherLink (h : 16 ≤ x.source ∨ (s.port x.source).epoch ≠ x.epoch) : owePacket s x = s :=
  if_neg fun hboth => h.elim (Nat.not_le.mpr hboth.1) (absurd hboth.2)

end

/-! ## RESP_TIMEOUT (R250, R275) -/

theorem exec_respTimeout {reqId : BitVec 16} {s : State} {q : Req} (hup : s.up = true) (hreq : requestOf s reqId.toNat = some q)
    (hretry : q.retry = false) (hremote : pktDst q.packet ≠ s.deviceNumber) :
    exec (.respTimeout reqId) s = .next (endRequest (s.upTo (q.issued + bits s.cfg.spejan 55 40 * 10000)) q codeUnreachable) := by
  simp [exec, execRespTimeout, hreq, hup, hretry, hremote]

/-! ## The statement -/

/-- Settles O50, timer by timer; a disable with nothing left to route changes its port alone. -/
theorem linkTimersExpire : Obligations.LinkTimersExpire := by
  refine ⟨fun p s => exec_linkDownTimeout,
    fun p s hup hstate => ⟨exec_portRetrainTimeout_of_left hup hstate, exec_portRetrainTimeout_of_third hup hstate⟩,
    ?disable, fun p cls s x rest => exec_escapeWaitExpiry_of_stalled, fun p cls s => exec_escapeWaitExpiry_of_none, ?stall,
    fun reqId s q => exec_respTimeout⟩
  case disable =>
    intro p s hup hstate hport hqueue
    refine ⟨_, exec_portDisableTimeout_of_empty hup hstate hport hqueue rfl, rfl, ?_⟩
    rw [State.modPort_port_same (s := s.upTo _) hport]
    obtain ⟨hoff, hreplay, hlatched, hcontrol⟩ :=
      Port.endDisable_eq (Nat.max s.now ((s.port p.val).downAt + 20000)) (trainBody s p.val 1 false) (s.port p.val)
    exact ⟨hoff, hreplay, hlatched, hcontrol, rfl⟩
  case stall =>
    intro p cls lane s x rest hup hstate hlane hheads u
    have hu : stallDiscard s p.val x = u := rfl
    rw [exec_stallLimitExpiry hup hstate hlane hheads, hu]
    exact ⟨fun hsource hepoch => by rw [owePacket_of_sameLink hsource hepoch], fun h => by rw [owePacket_of_otherLink h]⟩

end Sys2Proof.Machine
end

section
/-! PROOF. The DATA flits of a packet (R270, R271, R273, R277). -/

namespace Sys2Proof.Machine

/-! ## Fields of a word that is built from places (R4, R10) -/

/-- Bit i of what a place puts into a word. -/
def Place.bit (f : Place) (i : Nat) : Bool := decide (f.lo ≤ i) && decide (i < f.lo + f.width) && f.value.testBit (i - f.lo)

/-- Places that share no bit. -/
def Place.Apart (f g : Place) : Prop := f.lo + f.width ≤ g.lo ∨ g.lo + g.width ≤ f.lo

theorem Place.testBit_shifted (f : Place) (i : Nat) : ((f.value % 2 ^ f.width) <<< f.lo).testBit i = f.bit i := by
  rw [Nat.testBit_shiftLeft, Nat.testBit_mod_two_pow, Place.bit, Bool.and_assoc]
  by_cases hlo : f.lo ≤ i
  · have hwidth : i - f.lo < f.width ↔ i < f.lo + f.width := by omega
    simp only [hwidth]
  · simp [hlo]

theorem testBit_foldl_places (fs : List Place) (acc i : Nat) :
    (fs.foldl (fun acc f => acc ||| ((f.value % 2 ^ f.width) <<< f.lo)) acc).testBit i = (acc.testBit i || fs.any (·.bit i)) := by
  induction fs generalizing acc with
  | nil => simp
  | cons f fs ih => rw [List.foldl_cons, ih, Nat.testBit_or, Place.testBit_shifted, List.any_cons, Bool.or_assoc]

section
variable {fs : List Place} {lo width value : Nat} (hapart : fs.Pairwise Place.Apart) (hmem : ⟨lo, width, value⟩ ∈ fs)
include hapart hmem

/-- At a bit of one of its places, a list of places that share no bit has the bit of that place. -/
theorem any_bit_of_mem {i : Nat} (hlo : lo ≤ i) (hhi : i < lo + width) : fs.any (·.bit i) = value.testBit (i - lo) := by
  have hbit : Place.bit ⟨lo, width, value⟩ i = value.testBit (i - lo) := by simp [Place.bit, hlo, hhi]
  have hsymm : Std.Symm Place.Apart := ⟨fun _ _ h => h.symm⟩
  rw [← hbit, Bool.eq_iff_iff, List.any_eq_true]
  refine ⟨fun ⟨g, hg, hgi⟩ => ?_, fun h => ⟨_, hmem, h⟩⟩
  by_cases heq : ⟨lo, width, value⟩ = g
  · exact heq ▸ hgi
  · have hdisjoint : Place.Apart ⟨lo, width, value⟩ g := hapart.forall hmem hg heq
    simp only [Place.bit, Place.Apart, Bool.and_eq_true, decide_eq_true_eq] at hgi hdisjoint
    omega

/-- A bit of a place is read back. -/
theorem bitAt_wordOf {i : Nat} (hlo : lo ≤ i) (hhi : i < lo + width) (hword : i < 64) : bitAt (wordOf fs) i = value.testBit (i - lo) := by
  rw [← any_bit_of_mem hapart hmem hlo hhi, bitAt, wordOf, BitVec.getLsbD_ofNat, testBit_foldl_places]
  simp [hword]

/-- A place is read back as a field. -/
theorem bits_wordOf (hwidth : 0 < width) (hword : lo + width ≤ 64) : bits (wordOf fs) (lo + width - 1) lo = value % 2 ^ width := by
  have hsize : lo + width - 1 + 1 - lo = width := by omega
  refine Nat.eq_of_testBit_eq fun i => ?_
  rw [bits, hsize, Nat.testBit_mod_two_pow, Nat.testBit_mod_two_pow, Nat.testBit_shiftRight]
  by_cases hi : i < width
  · have hread := bitAt_wordOf hapart hmem (i := lo + i) (by omega) (by omega) (by omega)
    rw [bitAt, ← BitVec.testBit_toNat, Nat.add_sub_cancel_left] at hread
    rw [hread]
  · simp [hi]

end

theorem bits_lt (w : W64) (hi lo : Nat) : bits w hi lo < 2 ^ (hi + 1 - lo) := Nat.mod_lt _ (Nat.two_pow_pos _)

/-! ## The link word of a DATA flit (Table 3 of 10_spejan.md) -/

/-- The fields of the link word of a DATA flit. -/
def dataPlaces (head last : Bool) (cls lane slots : Nat) (seq ack : BitVec 12) (r : CreditReturn) : List Place :=
  [⟨60, 4, 1⟩, ⟨59, 1, b2n head⟩, ⟨58, 1, b2n last⟩, ⟨56, 2, cls⟩, ⟨54, 2, lane⟩, ⟨48, 4, slots - 1⟩] ++ linkTail seq ack r

theorem b2n_testBit_zero (b : Bool) : (b2n b).testBit 0 = b := by cases b <;> rfl

section
variable {head last : Bool} {cls lane slots : Nat} {seq ack : BitVec 12} {r : CreditReturn}

theorem dataLink_eq : dataLink head last cls lane slots seq ack r = wordOf (dataPlaces head last cls lane slots seq ack r) := rfl

theorem dataPlaces_apart : (dataPlaces head last cls lane slots seq ack r).Pairwise Place.Apart := by
  simp [dataPlaces, linkTail, Place.Apart]

theorem bits_dataLink {lo width value : Nat} (hmem : ⟨lo, width, value⟩ ∈ dataPlaces head last cls lane slots seq ack r) (hwidth : 0 < width)
    (hword : lo + width ≤ 64) : bits (dataLink head last cls lane slots seq ack r) (lo + width - 1) lo = value % 2 ^ width := by
  rw [dataLink_eq, bits_wordOf dataPlaces_apart hmem hwidth hword]

theorem bitAt_dataLink {i : Nat} {b : Bool} (hmem : ⟨i, 1, b2n b⟩ ∈ dataPlaces head last cls lane slots seq ack r) (hword : i < 64) :
    bitAt (dataLink head last cls lane slots seq ack r) i = b := by
  rw [dataLink_eq, bitAt_wordOf dataPlaces_apart hmem le_rfl (Nat.lt_succ_self i) hword, Nat.sub_self, b2n_testBit_zero]

@[simp] theorem bits_dataLink_type : bits (dataLink head last cls lane slots seq ack r) 63 60 = 1 :=
  bits_dataLink (lo := 60) (width := 4) (value := 1) (by simp [dataPlaces]) (by decide) (by decide)

@[simp] theorem bitAt_dataLink_head : bitAt (dataLink head last cls lane slots seq ack r) 59 = head :=
  bitAt_dataLink (by simp [dataPlaces]) (by decide)

@[simp] theorem bitAt_dataLink_last : bitAt (dataLink head last cls lane slots seq ack r) 58 = last :=
  bitAt_dataLink (by simp [dataPlaces]) (by decide)

@[simp] theorem bits_dataLink_class : bits (dataLink head last cls lane slots seq ack r) 57 56 = cls % 4 :=
  bits_dataLink (lo := 56) (width := 2) (value := cls) (by simp [dataPlaces]) (by decide) (by decide)

@[simp] theorem bits_dataLink_lane : bits (dataLink head last cls lane slots seq ack r) 55 54 = lane % 4 :=
  bits_dataLink (lo := 54) (width := 2) (value := lane) (by simp [dataPlaces]) (by decide) (by decide)

@[simp] theorem bits_dataLink_slots : bits (dataLink head last cls lane slots seq ack r) 51 48 = (slots - 1) % 16 :=
  bits_dataLink (lo := 48) (width := 4) (value := slots - 1) (by simp [dataPlaces]) (by decide) (by decide)

@[simp] theorem bits_dataLink_seq : bits (dataLink head last cls lane slots seq ack r) 47 36 = seq.toNat :=
  (bits_dataLink (lo := 36) (width := 12) (value := seq.toNat) (by simp [dataPlaces, linkTail]) (by decide) (by decide)).trans
    (Nat.mod_eq_of_lt seq.isLt)

@[simp] theorem bits_dataLink_ack : bits (dataLink head last cls lane slots seq ack r) 35 24 = ack.toNat :=
  (bits_dataLink (lo := 24) (width := 12) (value := ack.toNat) (by simp [dataPlaces, linkTail]) (by decide) (by decide)).trans
    (Nat.mod_eq_of_lt ack.isLt)

end

/-! ## A flit with its check word -/

theorem padTo_of_length {n : Nat} {bs : List Byte} (h : bs.length = n) : padTo n bs = bs := by
  simp [padTo, ← h]

theorem padTo_length (n : Nat) (bs : List Byte) : (padTo n bs).length = n := by
  simp only [padTo, List.length_append, List.length_take, List.length_replicate]
  omega

/-- Padding is cut off again at the length of what was padded. -/
theorem take_padTo {n : Nat} {bs : List Byte} (h : bs.length ≤ n) : (padTo n bs).take bs.length = bs := by
  rw [padTo, List.take_of_length_le h, List.take_left]

theorem flitGood_mkFlit (link : W64) (body : List Byte) : flitGood (mkFlit link body) = true := by
  simp [flitGood, mkFlit, flitCrc, padTo_of_length (padTo_length 240 body)]

section
variable {head last : Bool} {cls lane slots : Nat} {seq ack : BitVec 12} {r : CreditReturn} {b : List Byte}

@[simp] theorem mkFlit_link (link : W64) : (mkFlit link b).link = link := rfl

@[simp] theorem flitType_mkFlit : flitType (mkFlit (dataLink head last cls lane slots seq ack r) b) = 1 := bits_dataLink_type

@[simp] theorem flitSeq_mkFlit : flitSeq (mkFlit (dataLink head last cls lane slots seq ack r) b) = seq := by
  rw [flitSeq, mkFlit_link, bits_dataLink_seq, BitVec.ofNat_toNat, BitVec.setWidth_eq]

@[simp] theorem flitAck_mkFlit : flitAck (mkFlit (dataLink head last cls lane slots seq ack r) b) = ack := by
  rw [flitAck, mkFlit_link, bits_dataLink_ack, BitVec.ofNat_toNat, BitVec.setWidth_eq]

end

/-- A body that fills slots of a flit exactly: 1 to 15 slots of 16 bytes (R270). -/
structure WholeSlots (b : List Byte) : Prop where
  pos : 0 < b.length
  fits : b.length ≤ 240
  whole : b.length % 16 = 0

theorem flitBytes_mkFlit {b : List Byte} (h : WholeSlots b) (head last : Bool) (cls lane : Nat) (seq ack : BitVec 12) (r : CreditReturn) :
    flitBytes (mkFlit (dataLink head last cls lane (ceilDiv b.length 16) seq ack r) b) = b := by
  obtain ⟨hpos, hfits, hwhole⟩ := h
  have hslots : 16 * ((ceilDiv b.length 16 - 1) % 16 + 1) = b.length := by
    unfold ceilDiv
    omega
  simp only [flitBytes, mkFlit, bits_dataLink_slots, hslots]
  rw [padTo_of_length (padTo_length 240 b), take_padTo hfits]

/-! ## The flits of a list of bodies (R270, R271) -/

/-- The port once a flit has left with its credit return. -/
def flitSent (p : Port) : Port := { (creditSent p) with txSeq := p.txSeq + 1 }

@[simp] theorem flitSent_txSeq (p : Port) : (flitSent p).txSeq = p.txSeq + 1 := rfl
@[simp] theorem flitSent_expect (p : Port) : (flitSent p).expect = p.expect := rfl

/-- The sequence number n flits after the next one. -/
theorem succ_add_ofNat (x : BitVec 12) (n : Nat) : x + 1 + BitVec.ofNat 12 n = x + BitVec.ofNat 12 (n + 1) := by
  rw [BitVec.add_assoc, BitVec.ofNat_add, BitVec.add_comm (BitVec.ofNat 12 n)]
  rfl

section
variable (cls lane : Nat) (head : Bool) (p : Port)

theorem bodyFlits_cons (b : List Byte) (bs : List (List Byte)) : bodyFlits cls lane head p (b :: bs) =
    ((p.txSeq, mkFlit (dataLink head bs.isEmpty cls lane (ceilDiv b.length 16) p.txSeq (p.expect - 1) (creditReturn p)) b) ::
      (bodyFlits cls lane false (flitSent p) bs).1, (bodyFlits cls lane false (flitSent p) bs).2) := rfl

theorem bodyFlits_length (bs : List (List Byte)) : (bodyFlits cls lane head p bs).1.length = bs.length := by
  induction bs generalizing head p with
  | nil => rfl
  | cons b bs ih => rw [bodyFlits_cons, List.length_cons, List.length_cons, ih]

theorem bodyFlits_txSeq (bs : List (List Byte)) : (bodyFlits cls lane head p bs).2.txSeq = p.txSeq + BitVec.ofNat 12 bs.length := by
  induction bs generalizing head p with
  | nil => exact (BitVec.add_zero _).symm
  | cons b bs ih => rw [bodyFlits_cons, ih, flitSent_txSeq, succ_add_ofNat, List.length_cons]

theorem bodyFlits_expect (bs : List (List Byte)) : (bodyFlits cls lane head p bs).2.expect = p.expect := by
  induction bs generalizing head p with
  | nil => rfl
  | cons b bs ih => rw [bodyFlits_cons, ih, flitSent_expect]

/-- The valid slots of the flits, joined in order, are the bodies joined in order. -/
theorem bodyFlits_bytes {bs : List (List Byte)} (h : ∀ b ∈ bs, WholeSlots b) :
    (bodyFlits cls lane head p bs).1.flatMap (fun e => flitBytes e.2) = bs.flatten := by
  induction bs generalizing head p with
  | nil => rfl
  | cons b bs ih =>
    obtain ⟨hb, hbs⟩ := List.forall_mem_cons.mp h
    rw [bodyFlits_cons, List.flatMap_cons, ih _ _ hbs, flitBytes_mkFlit hb, List.flatten_cons]

/-- Flit i has the i-th sequence number from the port's next one, and the port's ack; the first alone may have head set, the last alone has
last. -/
theorem bodyFlits_getElem? {bs : List (List Byte)} {i : Nat} {e : BitVec 12 × Flit} (h : (bodyFlits cls lane head p bs).1[i]? = some e) :
    ∃ b slots r, e = (p.txSeq + BitVec.ofNat 12 i,
      mkFlit (dataLink (head && i == 0) (i + 1 == bs.length) cls lane slots (p.txSeq + BitVec.ofNat 12 i) (p.expect - 1) r) b) := by
  induction bs generalizing head p i with
  | nil => simp [bodyFlits] at h
  | cons b bs ih =>
    rw [bodyFlits_cons] at h
    cases i with
    | zero =>
      have hlast : bs.isEmpty = (bs.length == 0) := by cases bs <;> rfl
      obtain rfl : _ = e := Option.some.inj h
      exact ⟨b, ceilDiv b.length 16, creditReturn p, by simp [hlast]⟩
    | succ i =>
      obtain ⟨c, slots, r, rfl⟩ := ih _ _ h
      refine ⟨c, slots, r, ?_⟩
      simp only [flitSent_txSeq, flitSent_expect, succ_add_ofNat, List.length_cons]
      simp

end

/-! ## The bodies of a packet (R273) -/

section
variable {α : Type} {n : Nat} (hn : 0 < n)

theorem chunksOf_flatten (k : Nat) (l : List α) (h : l.length ≤ k * n) : (chunksOf k n l).flatten = l := by
  induction k generalizing l with
  | zero =>
    have hnil : l = [] := List.eq_nil_of_length_eq_zero (by omega)
    rw [hnil, chunksOf, List.flatten_nil]
  | succ k ih =>
    have hrest : (l.drop n).length ≤ k * n := by
      rw [List.length_drop, Nat.sub_le_iff_le_add, ← Nat.succ_mul]
      exact h
    rw [chunksOf]
    split
    · next hempty => rw [List.isEmpty_iff.mp hempty, List.flatten_nil]
    · rw [List.flatten_cons, ih _ hrest, List.take_append_drop]

include hn

theorem ceilDiv_zero : ceilDiv 0 n = 0 := Nat.div_eq_of_lt (by omega)

/-- One piece of n, then as many as the rest needs. -/
theorem ceilDiv_of_pos {m : Nat} (hm : 0 < m) : ceilDiv m n = ceilDiv (m - n) n + 1 := by
  unfold ceilDiv
  obtain h | h := Nat.le_total m n
  · have hone : m + n - 1 = m - 1 + n := by omega
    rw [hone, Nat.add_div_right _ hn, Nat.sub_eq_zero_of_le h, Nat.div_eq_of_lt (by omega), Nat.div_eq_of_lt (by omega)]
  · have hrest : m + n - 1 = m - n + n - 1 + n := by omega
    rw [hrest, Nat.add_div_right _ hn]

/-- Pieces that take in a whole list are as many as its length needs. -/
theorem chunksOf_length (k : Nat) (l : List α) (h : l.length ≤ k * n) : (chunksOf k n l).length = ceilDiv l.length n := by
  induction k generalizing l with
  | zero =>
    have hnil : l = [] := List.eq_nil_of_length_eq_zero (by omega)
    rw [hnil, chunksOf, List.length_nil, List.length_nil, ceilDiv_zero hn]
  | succ k ih =>
    have hrest : (l.drop n).length ≤ k * n := by
      rw [List.length_drop, Nat.sub_le_iff_le_add, ← Nat.succ_mul]
      exact h
    rw [chunksOf]
    split
    · next hempty => rw [List.isEmpty_iff.mp hempty, List.length_nil, List.length_nil, ceilDiv_zero hn]
    · next hfilled =>
      have hpos : 0 < l.length := List.length_pos_iff.mpr (by simpa using hfilled)
      rw [List.length_cons, ih _ hrest, List.length_drop, ceilDiv_of_pos hn hpos]

end

theorem wordsBytes_length (ws : List W64) : (wordsBytes ws).length = 8 * ws.length := by
  induction ws with
  | nil => rfl
  | cons w ws ih => rw [wordsBytes, List.flatMap_cons, List.length_append, leBytes_length, ← wordsBytes, ih, List.length_cons]; omega

/-- Pieces of 240 bytes of whole slots are whole slots. -/
theorem chunksOf_wholeSlots (k : Nat) (l : List Byte) (h : l.length % 16 = 0) : ∀ b ∈ chunksOf k 240 l, WholeSlots b := by
  induction k generalizing l with
  | zero => simp [chunksOf]
  | succ k ih =>
    rw [chunksOf]
    split
    · simp
    · next hfilled =>
      have hpos : 0 < l.length := List.length_pos_iff.mpr (by simpa using hfilled)
      have hrest : (l.drop 240).length % 16 = 0 := by rw [List.length_drop]; omega
      refine List.forall_mem_cons.mpr ⟨?_, ih _ hrest⟩
      constructor <;> rw [List.length_take] <;> omega

section
variable {k : Packet}

/-- The data beyond the head flit of a packet of at most 4,096 bytes take at most 17 flits. -/
theorem rest_length_le (h : k.data.length ≤ 4096) : (k.data.drop 208).length ≤ 17 * 240 := by
  rw [List.length_drop]
  omega

theorem flitBodies_length (h : k.data.length ≤ 4096) : (flitBodies k).length = flitCount k := by
  rw [flitBodies, List.length_cons, chunksOf_length (by decide) _ _ (rest_length_le h), List.length_drop, flitCount, Nat.add_comm]

theorem flitBodies_flatten (h : k.data.length ≤ 4096) : (flitBodies k).flatten = wordsBytes [k.w0, k.w1, k.w2, k.w3] ++ k.data := by
  rw [flitBodies, List.flatten_cons, chunksOf_flatten _ _ (rest_length_le h), List.append_assoc, List.take_append_drop]

theorem flitBodies_wholeSlots (h : k.data.length % 16 = 0) : ∀ b ∈ flitBodies k, WholeSlots b := by
  have hrest : (k.data.drop 208).length % 16 = 0 := by rw [List.length_drop]; omega
  refine List.forall_mem_cons.mpr ⟨?_, chunksOf_wholeSlots 17 _ hrest⟩
  constructor <;> simp only [List.length_append, wordsBytes_length, List.length_take, List.length_cons, List.length_nil] <;> omega

end

/-! ## The statement -/

/-- Settles O48: the bodies of a packet fill slots exactly, so their flits give them back, and the fields of a link word are read back. -/
theorem flitsCarryPackets : Obligations.FlitsCarryPackets := by
  intro q cls lane k hcls hlane hwhole hfits out
  have hlength := flitBodies_length hfits
  refine ⟨(bodyFlits_length ..).trans hlength, hlength ▸ bodyFlits_txSeq .., bodyFlits_expect ..,
    (bodyFlits_bytes _ _ _ _ (flitBodies_wholeSlots hwhole)).trans (flitBodies_flatten hfits), fun i e he => ?_⟩
  obtain ⟨b, slots, r, rfl⟩ := bodyFlits_getElem? _ _ _ _ he
  have hcredit (w : W64) : bits w 19 12 ≤ 255 := Nat.le_of_lt_succ (bits_lt w 19 12)
  refine ⟨rfl, flitGood_mkFlit _ _, ?_⟩
  simp [hlength, hcredit, Nat.mod_eq_of_lt hcls, Nat.mod_eq_of_lt (Nat.lt_succ_of_lt hlane)]

end Sys2Proof.Machine
end

section
/-! PROOF. Messages of the Gatehouse that burn fuses and write images, and images forwarded between devices (R297, R353, R362, R446, R447,
R452, R453, R455 to R457). -/

namespace Sys2Proof.Machine

/-! ## Acceptance leaves fuses and image writes (R448, R453) -/

theorem count_fuses (s : State) (o : Occ) : (count s o).fuses = s.fuses := by
  unfold count
  split <;> rfl

theorem count_gate (s : State) (o : Occ) : (count s o).gate = s.gate := by
  unfold count
  split <;> rfl

section
variable {t : State} {m : GhMsg} {code : Nat}

@[simp] theorem accepted_fuses : (accepted t m code).fuses = t.fuses :=
  (count_fuses ..).trans (count_fuses ..)

@[simp] theorem heard_gate : (heard t m).gate = t.gate :=
  (count_gate ..).trans (count_gate ..)

/-! ## The checks of a message (R452) -/

variable {layout : List W64 → Bool} {own : State → GhMsg → Nat} {key : Fuses → GhMsg → Option (BitVec 512)}

theorem accept_of_signed : accept t { code := code, key := some key, layout := layout, own := own } m = accepted t m code := rfl

theorem accept_of_unsigned : accept t { code := code, key := none, layout := layout, own := own } m = heard t m := by
  simp only [heard, accept, Option.isSome_none, Bool.false_eq_true, if_false]

/-- A signed message that passes its checks up to the counter meets its command's own conditions. -/
theorem checkMsg_of_signed (hsigned : SignedOk t m code layout) (hkey : key t.fuses m = ownerKey t.fuses (keyIdOf m)) :
    checkMsg t { code := code, key := some key, layout := layout, own := own } m = own t m := by
  obtain ⟨hformat, ⟨k, howner, hsignature⟩, ⟨hserial, hnonce⟩, hfresh⟩ := hsigned
  have hformat' : formatOk { code := code, key := some key, layout := layout, own := own } m = true := hformat
  simp [checkMsg, hformat', hkey, howner, hserial, hnonce, hsignature, Nat.not_le.mpr hfresh]

/-- A message without a signature meets its command's own conditions once its format is right. -/
theorem checkMsg_of_unsigned (hformat : formatOk ⟨code, none, layout, noOwn⟩ m = true) :
    checkMsg t { code := code, key := none, layout := layout, own := own } m = own t m := by
  have hformat' : formatOk { code := code, key := none, layout := layout, own := own } m = true := hformat
  simp [checkMsg, hformat']

variable {s : State} {effect : State → State} {st : Nat} (htake : takeMsg s m code = some t)
include htake

section
variable (hsigned : SignedOk t m code layout) (hkey : key t.fuses m = ownerKey t.fuses (keyIdOf m))
include hsigned hkey

theorem runMsg_of_signed_refused (hown : own t m = st) (hst : st ≠ 0) :
    runMsg s { code := code, key := some key, layout := layout, own := own } m effect = clearUnknown (ghReply t m st [] []) := by
  simp [runMsg, htake, checkMsg_of_signed hsigned hkey, hown, hst]

theorem runMsg_of_signed_ok (hown : own t m = 0) :
    runMsg s { code := code, key := some key, layout := layout, own := own } m effect = clearUnknown (effect (accepted t m code)) := by
  simp only [runMsg, htake, checkMsg_of_signed hsigned hkey, hown, if_true, accept_of_signed]

end

section
variable (hformat : formatOk ⟨code, none, layout, noOwn⟩ m = true)
include hformat

theorem runMsg_of_unsigned_refused (hown : own t m = st) (hst : st ≠ 0) :
    runMsg s { code := code, key := none, layout := layout, own := own } m effect = clearUnknown (ghReply t m st [] []) := by
  simp [runMsg, htake, checkMsg_of_unsigned hformat, hown, hst]

theorem runMsg_of_unsigned_ok (hown : own t m = 0) :
    runMsg s { code := code, key := none, layout := layout, own := own } m effect = clearUnknown (effect (heard t m)) := by
  simp only [runMsg, htake, checkMsg_of_unsigned hformat, hown, if_true, accept_of_unsigned]

end

end

section
variable {s t : State} {m : GhMsg}

/-! ## ROLLBACK_RAISE, KEY_ENROLL and KEY_REVOKE (R446, R447, R456) -/

section
variable (htake : takeMsg s m 0x19 = some t) (hsigned : SignedOk t m 0x19 (bodyIs [0x3FF]))
include htake hsigned

theorem exec_rollbackRaise_of_full (hfull : ∃ n ∈ floorsToBurn t (bits (wd m.body 0) 9 0), 16 ≤ (t.fuses.floors.getD n []).length) :
    exec (.rollbackRaise m) s = .next (clearUnknown (ghReply t m 0x0A [] [])) :=
  congrArg Host.Outcome.next (runMsg_of_signed_refused htake hsigned rfl (if_pos (by simpa using hfull)) (by decide))

theorem exec_rollbackRaise_of_room (hroom : ∀ n ∈ floorsToBurn t (bits (wd m.body 0) 9 0), (t.fuses.floors.getD n []).length < 16) :
    exec (.rollbackRaise m) s = .next (clearUnknown
      (ghReply (burnFloors (accepted t m 0x19) (floorsToBurn (accepted t m 0x19) (bits (wd m.body 0) 9 0))) m 0 [] [])) :=
  congrArg Host.Outcome.next (runMsg_of_signed_ok htake hsigned rfl (if_neg (by simpa using hroom)))

end

section
variable (htake : takeMsg s m 0x1A = some t) (hsigned : SignedOk t m 0x1A (bodyIs (List.replicate 8 all64)))
include htake hsigned

theorem exec_keyEnroll_of_full (hfull : emptySlot t.fuses = none) : exec (.keyEnroll m) s = .next (clearUnknown (ghReply t m 0x0A [] [])) :=
  congrArg Host.Outcome.next (runMsg_of_signed_refused htake hsigned rfl (if_neg (by simp [hfull])) (by decide))

theorem exec_keyEnroll_of_slot {n : Nat} (hslot : emptySlot t.fuses = some n) : ∃ u,
    exec (.keyEnroll m) s = .next (clearUnknown (ghReply u m 0 [] [])) ∧
    u.fuses = { t.fuses with ownerKeys := t.fuses.ownerKeys.set n (some (BitVec.ofNat 512 (leNat (wordsBytes m.body)))) } := by
  refine ⟨_, congrArg Host.Outcome.next (runMsg_of_signed_ok htake hsigned rfl (if_pos (by simp [hslot]))), ?_⟩
  simp only [accepted_fuses, hslot]

end

section
variable (htake : takeMsg s m 0x1B = some t) (hlow : 0x100 ≤ revoked m) (hhigh : revoked m ≤ 0x107)
  (hsigned : SignedOk t m 0x1B (bodyIs [0xFFFF]))
include htake hlow hhigh hsigned

theorem exec_keyRevoke_of_usable (husable : hasOwnerKey (burnRevoke t.fuses (revoked m)) = true) :
    ∃ u, exec (.keyRevoke m) s = .next (clearUnknown (ghReply u m 0 [] [])) ∧ u.fuses = burnRevoke t.fuses (revoked m) := by
  refine ⟨_, congrArg Host.Outcome.next (runMsg_of_signed_ok htake hsigned (if_neg (by omega)) ?_),
    congrArg (burnRevoke · (revoked m)) accepted_fuses⟩
  simp [husable, hlow, hhigh, refusedUnless, stOk]

theorem exec_keyRevoke_of_last (hlast : hasOwnerKey (burnRevoke t.fuses (revoked m)) = false) :
    exec (.keyRevoke m) s = .next (clearUnknown (ghReply t m 0x08 [] [])) :=
  congrArg Host.Outcome.next (runMsg_of_signed_refused htake hsigned (if_neg (by omega)) (by simp [hlast, refusedUnless, stRefused]) (by decide))

end

/-! ## IMAGE_WRITE (R351, R455) -/

theorem writeStatus_of_writing {n : Nat} (h : s.gate.writing.isSome = true) : writeStatus s n = 0x07 := if_pos h

theorem writeStatus_of_none {n : Nat} (h : s.gate.writing = none) : writeStatus s n = if 64 ≤ n ∧ n ≤ slotSize then 0 else 0x08 := by
  simp [writeStatus, h, refusedUnless, stOk, stRefused]

section
variable (htake : takeMsg s m 0x11 = some t) (hsigned : SignedOk t m 0x11 (bodyIs ((2 ^ 32 - 1) :: List.replicate 8 all64)))
include htake hsigned

theorem exec_imageWrite_of_status {st : Nat} (hstatus : writeStatus t (bits (wd m.body 0) 31 0) = st) (hst : st ≠ 0) :
    exec (.imageWrite m) s = .next (clearUnknown (ghReply t m st [] [])) :=
  congrArg Host.Outcome.next (runMsg_of_signed_refused htake hsigned rfl hstatus hst)

theorem exec_imageWrite_of_ok (hstatus : writeStatus t (bits (wd m.body 0) 31 0) = 0) : exec (.imageWrite m) s = .next (clearUnknown (ghReply
    (beginWrite (accepted t m 0x11) (some m.qp) 0 (bits (wd m.body 0) 31 0) (BitVec.ofNat 512 (leNat (wordsBytes (m.body.drop 1))))) m 0 [] [])) :=
  congrArg Host.Outcome.next (runMsg_of_signed_ok htake hsigned rfl hstatus)

end

/-! ## IMAGE_DATA (R353, R362, R455) -/

section
variable {w : ImageWrite} (htake : takeMsg s m 0x12 = some t) (hformat : formatOk ⟨0x12, none, dataLayout, noOwn⟩ m = true)
  (hwriting : t.gate.writing = some w)
include htake hformat hwriting

/-- Data of another queue pair, or beyond the image. -/
theorem exec_imageData_refused (h : w.qp ≠ some m.qp ∨ w.length ≤ dataOffset m) :
    exec (.imageData m) s = .next (clearUnknown (ghReply t m 0x08 [] [])) := by
  refine congrArg Host.Outcome.next (runMsg_of_unsigned_refused htake hformat ?_ (by decide))
  obtain hqp | hbeyond := h
  · simp [hwriting, hqp, refusedUnless, stRefused]
  · simp [hwriting, Nat.not_lt.mpr hbeyond, refusedUnless, stRefused]

/-- Data within the image: the last block ends the write. -/
theorem exec_imageData_of_within {v : State} {x : ImageWrite} (hqp : w.qp = some m.qp) (hwithin : dataOffset m < w.length)
    (hput : putData (heard t m) w (dataOffset m) (dataBytes m) = v) (hleft : v.gate.writing = some x) :
    exec (.imageData m) s = .next (clearUnknown (if writeWhole x then
        if (finishWrite v x).2.1 = 0 then startForwarding (finishWrite v x).1 x m
        else ghReply (finishWrite v x).1 m (finishWrite v x).2.1 (writeReply (finishWrite v x).2.2 []) []
      else ghReply v m 0 (writeReply 0 []) [])) := by
  refine (congrArg Host.Outcome.next (runMsg_of_unsigned_ok htake hformat ?_)).trans ?_
  · simp [hwriting, hqp, hwithin, refusedUnless, stOk]
  · simp [hwriting, hput, hleft, stOk]

end
end

/-- Without data for 10 s the write is given up, and the slots keep what they hold (R455). -/
theorem exec_imageWriteAbandon {s : State} {w : ImageWrite} (hwriting : s.gate.writing = some w) (hup : s.up = true) :
    ∃ t, exec .imageWriteAbandon s = .next t ∧ t.gate.writing = none ∧ t.now = Nat.max s.now (w.last + 10000000000) ∧
      t.gate.slotA = s.gate.slotA ∧ t.gate.slotB = s.gate.slotB := by
  refine ⟨{ s.upTo (w.last + 10000000000) with gate := { s.gate with writing := none } }, ?_, rfl, rfl, rfl, rfl⟩
  simp [exec, execImageWriteAbandon, hwriting, hup]

/-! ## Forwarded images (R297, R362) -/

section
variable {s : State} {p : PortIx} {m : FabMsg}

theorem takeFabMsg_of_ok {port typ : Nat} {f : State → State} (hup : s.up = true) (hok : msgOk m = true) (htype : msgType m = typ) :
    takeFabMsg s port typ m f = f s := by
  simp [takeFabMsg, hup, hok, htype]

section
variable (hport : s.portUp p.val = true) (hup : s.up = true) (hok : msgOk m = true) (hagree : s.boot.comparatorStopped = false)
include hport hup hok hagree

theorem exec_imageFwdStart (htype : msgType m = 0x05) : exec (.imageFwdStart p m) s = .next
    (if writeStatus s (bits (msgWord m 1) 31 0) = 0 then beginWrite s none p.val (bits (msgWord m 1) 31 0) (BitVec.ofNat 512 (leNat m.body))
      else sendResult s p.val (writeStatus s (bits (msgWord m 1) 31 0)) 0) :=
  congrArg Host.Outcome.next ((if_pos hport).trans ((takeFabMsg_of_ok hup hok htype).trans (if_neg (by simp [hagree]))))

theorem exec_imageFwdData {w x : ImageWrite} {v : State} (htype : msgType m = 0x06) (hwriting : s.gate.writing = some w) (hqp : w.qp = none)
    (hfrom : w.port = p.val) (halign : (msgWord m 1).toNat % 64 = 0) (hwithin : (msgWord m 1).toNat < w.length)
    (hput : putData s w (msgWord m 1).toNat m.body = v) (hleft : v.gate.writing = some x) : exec (.imageFwdData p m) s = .next
      (if writeWhole x then sendResult (finishWrite v x).1 p.val (finishWrite v x).2.1 (finishWrite v x).2.2 else v) := by
  simp [exec, execImageFwdData, hport, fwdDataArrive, takeFabMsg_of_ok hup hok htype, hagree, hwriting, hqp, hfrom, halign, Nat.not_le.mpr hwithin,
    hput, hleft]

theorem exec_imageFwdResult (htype : msgType m = 0x07) : exec (.imageFwdResult p m) s = .next
    (fwdResult s p.val (if bits (msgWord m 1) 15 8 = 0 then 1 else 2)) :=
  congrArg Host.Outcome.next ((if_pos hport).trans ((takeFabMsg_of_ok hup hok htype).trans (if_neg (by simp [hagree]))))

end

theorem exec_imageFwdTimeout {f : Forwarding} (hforwarding : s.gate.forwarding = some f) (hup : s.up = true)
    (hagree : s.boot.comparatorStopped = false) (hawaited : f.results.getD p.val (some 0) = none) :
    exec (.imageFwdTimeout p) s = .next (fwdResult (s.upTo (f.lastData + 500000000)) p.val 3) := by
  simp only [exec, execImageFwdTimeout, hforwarding]
  rw [if_pos ⟨hup, hagree, hawaited⟩]

end

/-! ## The statement -/

/-- Settles O58, command by command: a signed message that passes its checks meets its command's own conditions, and data of an image go on to
the write that waits for them. -/
theorem fusesAndImagesAreWritten : Obligations.FusesAndImagesAreWritten := by
  refine ⟨fun m s t => ⟨fun htake hsigned => ⟨exec_rollbackRaise_of_full htake hsigned, exec_rollbackRaise_of_room htake hsigned⟩,
    fun htake hsigned => ⟨exec_keyEnroll_of_full htake hsigned, fun n => exec_keyEnroll_of_slot htake hsigned⟩,
    fun htake hlow hhigh hsigned => ⟨exec_keyRevoke_of_usable htake hlow hhigh hsigned, exec_keyRevoke_of_last htake hlow hhigh hsigned⟩,
    ?write, ?data⟩, fun s w => exec_imageWriteAbandon, ?forwarded, fun p s f => exec_imageFwdTimeout⟩
  case write =>
    intro htake hsigned n
    refine ⟨fun hbusy => exec_imageWrite_of_status htake hsigned (writeStatus_of_writing hbusy) (by decide), fun hnone hlength => ?_,
      fun hnone hmin hmax => exec_imageWrite_of_ok htake hsigned ((writeStatus_of_none hnone).trans (if_pos ⟨hmin, hmax⟩))⟩
    have hbad : ¬ (64 ≤ n ∧ n ≤ slotSize) := by omega
    exact exec_imageWrite_of_status htake hsigned ((writeStatus_of_none hnone).trans (if_neg hbad)) (by decide)
  case data =>
    intro w htake hformat hwriting
    refine ⟨exec_imageData_refused htake hformat hwriting, fun hqp hwithin v x hput hleft => ?_⟩
    rw [exec_imageData_of_within htake hformat hwriting hqp hwithin hput hleft]
    exact ⟨fun hpart => by simp [hpart], fun hwhole hverified => by simp [hwhole, hverified], fun hwhole hfailed => by simp [hwhole, hfailed]⟩
  case forwarded =>
    intro p m s hport hup hok hagree
    refine ⟨fun htype hstatus => ?_, fun htype hstatus => ?_, fun w x v htype hwriting hqp hfrom halign hwithin hput hleft => ?_,
      exec_imageFwdResult hport hup hok hagree⟩
    · rw [exec_imageFwdStart hport hup hok hagree htype, if_pos hstatus]
    · rw [exec_imageFwdStart hport hup hok hagree htype, if_neg hstatus]
    · rw [exec_imageFwdData hport hup hok hagree htype hwriting hqp hfrom halign hwithin hput hleft]
      exact ⟨fun hpart => by simp [hpart], fun hwhole => by simp [hwhole]⟩

end Sys2Proof.Machine
end

section
/-! PROOF. The Porch's congestion control, pauses, other frames and link (R326, R327, R339, R340). -/

namespace Sys2Proof.Machine

/-! ## Congestion control (R339) -/

section
variable {q : QpIx} {s : State} {x : Qp}

theorem exec_cnp_of_due (hopen : porchOpen s = true) (hqp : s.qp q.val = some x) (herror : x.error = false)
    (hdue : x.cnpAt = none ∨ ∃ t, x.cnpAt = some t ∧ t + recNs s ≤ s.now) : exec (.cnp q) s = .next (s.modQp q.val (fun y => { y with
      rate := Nat.max (bits s.cfg.porchCc 15 0 * 100000) (x.rate * (256 - bits s.cfg.porchCc 39 32) / 256), cnpAt := some s.now,
      recoverAt := s.now })) := by
  obtain hnone | ⟨t, hsome, hpast⟩ := hdue
  · simp [exec, execCnp, hqp, hopen, herror, hnone]
  · simp [exec, execCnp, hqp, hopen, herror, hsome, hpast]

theorem exec_cnp_of_recent {t : Nat} (hqp : s.qp q.val = some x) (hlast : x.cnpAt = some t) (hrecent : s.now < t + recNs s) :
    exec (.cnp q) s = .next s := by
  simp [exec, execCnp, hqp, hlast, Nat.not_le.mpr hrecent]

theorem exec_recIntervalExpiry_of_up (hup : s.up = true) (hqp : s.qp q.val = some x) (herror : x.error = false) {t : State}
    (ht : t = s.upTo (x.recoverAt + recNs s)) : exec (.recIntervalExpiry q) s = .next (State.transmit (t.modQp q.val (fun y => { y with
      rate := y.rate + (lineRate s.cfg - x.rate) * bits s.cfg.porchCc 31 24 / 256, recoverAt := t.now }))) := by
  subst ht
  simp [exec, execRecIntervalExpiry, hqp, hup, herror]

end

/-! ## Pauses (R340) -/

/-- The priorities that a pause frame leaves stopped. -/
def pausedAfter (v : BitVec 8) (prio : Nat) (xoff : Bool) : BitVec 8 :=
  if xoff then v ||| BitVec.ofNat 8 (2 ^ prio) else v &&& ~~~ BitVec.ofNat 8 (2 ^ prio)

theorem pausedAfter_getLsbD (v : BitVec 8) (prio : Nat) (xoff : Bool) {n : Nat} (hn : n < 8) :
    (pausedAfter v prio xoff).getLsbD n = if n = prio then xoff else v.getLsbD n := by
  have hbit : (BitVec.ofNat 8 (2 ^ prio)).getLsbD n = decide (prio = n) := by
    rw [BitVec.getLsbD_ofNat, Nat.testBit_two_pow, decide_eq_true hn, Bool.true_and]
  cases xoff with
  | false =>
    change (v &&& ~~~ BitVec.ofNat 8 (2 ^ prio)).getLsbD n = _
    rw [BitVec.getLsbD_and, BitVec.getLsbD_not, hbit]
    obtain rfl | h := eq_or_ne n prio
    · simp
    · simp [h, h.symm, hn]
  | true =>
    change (v ||| BitVec.ofNat 8 (2 ^ prio)).getLsbD n = _
    rw [BitVec.getLsbD_or, hbit]
    obtain rfl | h := eq_or_ne n prio
    · simp
    · simp [h, h.symm]

theorem pausedAfter_getLsbD_same (v : BitVec 8) (prio : Fin 8) (xoff : Bool) : (pausedAfter v prio.val xoff).getLsbD prio.val = xoff := by
  rw [pausedAfter_getLsbD v prio.val xoff prio.isLt, if_pos rfl]

theorem pausedAfter_getLsbD_other (v : BitVec 8) (xoff : Bool) {prio n : Nat} (h : n ≠ prio) :
    (pausedAfter v prio xoff).getLsbD n = v.getLsbD n := by
  obtain hn | hn := Nat.lt_or_ge n 8
  · rw [pausedAfter_getLsbD v prio xoff hn, if_neg h]
  · rw [BitVec.getLsbD_of_ge _ _ hn, BitVec.getLsbD_of_ge _ _ hn]

theorem exec_pfcPause_of_enabled {prio : Fin 8} {s : State} (hopen : porchOpen s = true) (henabled : pfcEnabled s prio.val = true) (xoff : Bool) :
    exec (.pfcPause prio xoff) s =
      .next (State.transmit { s with porch := { s.porch with paused := pausedAfter s.porch.paused prio.val xoff } }) :=
  congrArg Host.Outcome.next (if_pos ⟨hopen, henabled⟩)

theorem exec_pfcPause_of_disabled {prio : Fin 8} {s : State} (h : pfcEnabled s prio.val = false) (xoff : Bool) :
    exec (.pfcPause prio xoff) s = .next s := congrArg Host.Outcome.next (if_neg (by simp [h]))

/-! ## Other frames and the link (R326, R327) -/

section
variable {s : State}

theorem exec_arp (hopen : porchOpen s = true) (ip : BitVec 32) (mac : BitVec 48) :
    exec (.arp ip mac) s = .next (if ip = s.cfg.ipv4 then s.porchOut (.arpReply ip mac) else discardFrame s) :=
  congrArg Host.Outcome.next (if_pos hopen)

theorem exec_neighborSolicitation (hopen : porchOpen s = true) (ip : BitVec 128) (mac : BitVec 48) :
    exec (.neighborSolicitation ip mac) s = .next (if ip = s.cfg.ipv6 then s.porchOut (.neighborAdvertisement ip mac) else discardFrame s) :=
  congrArg Host.Outcome.next (if_pos hopen)

theorem exec_frameDiscard (hopen : porchOpen s = true) : exec .frameDiscard s = .next (discardFrame s) :=
  congrArg Host.Outcome.next (if_pos hopen)

theorem exec_porchLinkDown_of_linked (hup : s.up = true) (hlink : s.porch.link = 2) : exec .porchLinkDown s = .next
    { s with porch := { s.porch with link := 1, downCount := satInc s.porch.downCount, trainAt := s.now } } :=
  congrArg Host.Outcome.next ((if_pos hup).trans (if_pos hlink))

theorem exec_porchRetrainAttempt_of_training (hup : s.up = true) (hlink : s.porch.link = 1) {t : State}
    (ht : t = s.upTo (s.porch.trainAt + 300000000)) :
    exec .porchRetrainAttempt s = .next { t with porch := { t.porch with trainAt := t.now } } := by
  subst ht
  exact congrArg Host.Outcome.next (if_pos ⟨hup, hlink⟩)

theorem exec_porchLinkUp_of_training (hup : s.up = true) (hlink : s.porch.link = 1) :
    exec .porchLinkUp s = .next (State.transmit { s with porch := { s.porch with link := 2 } }) :=
  congrArg Host.Outcome.next (if_pos ⟨hup, hlink⟩)

end

/-! ## The statement -/

/-- Settles O55, event by event; the bits of a pause say which priorities it leaves alone. -/
theorem porchFramesAndRates : Obligations.PorchFramesAndRates := by
  refine ⟨fun q s x hopen hqp herror => ⟨exec_cnp_of_due hopen hqp herror, fun t => exec_cnp_of_recent hqp⟩,
    fun q s x hup hqp herror => exec_recIntervalExpiry_of_up hup hqp herror rfl,
    fun prio xoff s hopen => ⟨fun henabled => ?pause, fun hdisabled => exec_pfcPause_of_disabled hdisabled xoff⟩,
    fun ip mac s hopen => ?arp, fun ip mac s hopen => ?solicitation, fun s => exec_frameDiscard, fun s => exec_porchLinkDown_of_linked,
    fun s hup hlink => exec_porchRetrainAttempt_of_training hup hlink rfl, fun s => exec_porchLinkUp_of_training⟩
  case pause =>
    exact ⟨_, exec_pfcPause_of_enabled hopen henabled xoff, pausedAfter_getLsbD_same _ prio xoff, fun n => pausedAfter_getLsbD_other _ xoff⟩
  case arp =>
    rw [exec_arp hopen]
    exact ⟨fun hmine => by rw [if_pos hmine], fun hother => by rw [if_neg hother]⟩
  case solicitation =>
    rw [exec_neighborSolicitation hopen]
    exact ⟨fun hmine => by rw [if_pos hmine], fun hother => by rw [if_neg hother]⟩

end Sys2Proof.Machine
end

section
/-! PROOF. What the transmitter, counters and congestion notifications leave of a queue pair's receiving side (R330, R338, R341). -/

namespace Sys2Proof.Machine

/-! ## What sending leaves of a queue pair's receiving side -/

/-- What taking a request in reads of a queue pair. -/
def Qp.intake (x : Qp) : Nat × BitVec 24 × List HeldHost := (x.index, x.rxPsn, x.held)

/-- An operation that leaves the receiving side of every queue pair alone. -/
def SameIntake (s t : State) : Prop := t.porch.qps.map Qp.intake = s.porch.qps.map Qp.intake

theorem SameIntake.refl (s : State) : SameIntake s s := rfl

theorem SameIntake.of_porch {s t : State} (h : t.porch = s.porch) : SameIntake s t := congrArg (fun x : Porch => x.qps.map Qp.intake) h

theorem SameIntake.trans {a b c : State} (h : SameIntake a b) (k : SameIntake b c) : SameIntake a c := Eq.trans k h

theorem SameIntake.qp {s t : State} (h : SameIntake s t) (q : Nat) : (t.qp q).map Qp.intake = (s.qp q).map Qp.intake := by
  have hfind (qps : List Qp) : (qps.find? (fun k => k.index == q)).map Qp.intake = (qps.map Qp.intake).find? (fun k => k.1 == q) := by
    rw [List.find?_map]
    rfl
  exact (hfind _).trans ((congrArg (List.find? _) h).trans (hfind _).symm)

theorem map_intake_of_same {f : Qp → Qp} (hf : ∀ x, (f x).intake = x.intake) (l : List Qp) : (l.map f).map Qp.intake = l.map Qp.intake := by
  rw [List.map_map]
  exact List.map_congr_left fun x _ => hf x

theorem State.modQp_intake (s : State) (q : Nat) {f : Qp → Qp} (hf : ∀ x, (f x).intake = x.intake) : SameIntake s (s.modQp q f) := by
  refine map_intake_of_same (fun x => ?_) _
  split
  · exact hf x
  · rfl

theorem count_porch (s : State) (o : Occ) : (count s o).porch = s.porch := by
  unfold count
  split <;> rfl

theorem count_intake (s : State) (o : Occ) : SameIntake s (count s o) := .of_porch (count_porch s o)

theorem intake_withNextAt (x : Qp) (t : Nat) : Qp.intake { x with nextAt := t } = x.intake := rfl

theorem chargeRate_intake (s : State) (w : PorchWait) : SameIntake s (chargeRate s w) := by
  unfold chargeRate
  split
  · split
    · refine State.modQp_intake _ _ fun x => ?_
      split
      · exact intake_withNextAt x _
      · rfl
    · exact .refl s
  · exact .refl s

theorem State.sentOut_intake (s : State) (o : PorchOut) : SameIntake s (s.sentOut o) := count_intake ..

theorem sendPart_intake (s : State) (p : PorchWait → Bool) (w : PorchWait) : SameIntake s (sendPart s p w) := by
  unfold sendPart
  extract_lets rest waits paid
  have hpaid : SameIntake s paid := chargeRate_intake _ w
  split
  · exact hpaid.trans (State.sentOut_intake ..)
  · exact hpaid

theorem sendFirst_intake (n : Nat) (s : State) : SameIntake s (sendFirst n s) := by
  induction n generalizing s with
  | zero => exact .refl s
  | succ n ih =>
    unfold sendFirst
    split
    · exact (sendPart_intake ..).trans (ih _)
    · exact .refl s

theorem sendPacketOf_intake (s : State) (q : Nat) : SameIntake s (sendPacketOf s q) := by
  unfold sendPacketOf
  split
  · exact .refl s
  · exact sendPart_intake ..

theorem qpTurn_intake (s : State) : (qpTurn s).2.map Qp.intake = s.porch.qps.map Qp.intake := by
  unfold qpTurn
  extract_lets total up best
  have hup : up.map Qp.intake = s.porch.qps.map Qp.intake := map_intake_of_same (fun x => by split <;> rfl) _
  clear_value best
  cases best with
  | none => rfl
  | some b => exact (map_intake_of_same (fun x => by split <;> rfl) _).trans hup

theorem sendData_intake (n : Nat) (s : State) : SameIntake s (sendData n s) := by
  induction n generalizing s with
  | zero => exact .refl s
  | succ n ih =>
    unfold sendData
    split
    · next q qps hturn =>
      have hqps : SameIntake s { s with porch := { s.porch with qps := qps } } :=
        (congrArg (fun t : Option Nat × List Qp => t.2.map Qp.intake) hturn).symm.trans (qpTurn_intake s)
      exact hqps.trans ((sendPacketOf_intake ..).trans (ih _))
    · exact .refl s

theorem State.transmit_intake (s : State) : SameIntake s s.transmit := by
  unfold State.transmit
  split
  · exact (sendFirst_intake ..).trans (sendData_intake ..)
  · exact .refl s

theorem State.porchOut_intake (s : State) (o : PorchOut) : SameIntake s (s.porchOut o) := by
  unfold State.porchOut State.readyOut
  split
  · exact .refl s
  · exact State.transmit_intake _

theorem noteCe_intake (s : State) (q : Nat) (ce : Bool) : SameIntake s (noteCe s q ce) := by
  unfold noteCe
  split
  · extract_lets due
    split
    · exact (State.porchOut_intake ..).trans (State.modQp_intake _ _ fun _ => rfl)
    · exact .refl s
  · exact .refl s

theorem noteCe_qpCfg (s : State) (q : Nat) (ce : Bool) (p : Nat) : (noteCe s q ce).qpCfg p = s.qpCfg p := by
  simp only [State.qpCfg, (noteCe_calm (.refl s) q ce).cfg]

theorem noteCe_qp {s : State} {q : Nat} {x : Qp} (hqp : s.qp q = some x) (ce : Bool) :
    ∃ y, (noteCe s q ce).qp q = some y ∧ y.index = x.index ∧ y.rxPsn = x.rxPsn ∧ y.held = x.held := by
  have h := (noteCe_intake s q ce).qp q
  rw [hqp] at h
  obtain ⟨y, hy, hsame⟩ := Option.map_eq_some_iff.mp h
  simp only [Qp.intake, Prod.mk.injEq] at hsame
  exact ⟨y, hy, hsame⟩

theorem count_pmtu (s : State) (o : Occ) (p : Nat) : (count s o).pmtu p = s.pmtu p := by
  simp only [State.pmtu, State.qpCfg, (count_calm (.refl s) o).cfg]

theorem State.qpCfg_index {s : State} {q : Nat} {k : QpCfg} (h : s.qpCfg q = some k) : k.index = q := by
  simpa using List.find?_some h

end Sys2Proof.Machine
end

section
/-! PROOF. Requests of the host (R327 to R331, R334, R335, R338, R342). -/

namespace Sys2Proof.Machine

/-! ## Frames that are not taken (R326, R327, R330, R331) -/

section
variable {s : State} {q : Nat} {x : HostFrame}

theorem hostMessage_of_closed (hclosed : porchOpen s = false) (use : State → State) : hostMessage s q x use = s := if_pos hclosed

theorem hostMessage_of_unfit (hopen : porchOpen s = true)
    (hunfit : 9216 < x.bytes ∨ 1 < x.tags ∨ s.qp q = none ∨ s.qpCfg q = none) (use : State → State) :
    hostMessage s q x use = discardFrame s := by
  rw [hostMessage, if_neg (by simp [hopen]), if_pos (by simpa [or_assoc] using hunfit)]

theorem hostMessage_of_dropped {y : Qp} {k : QpCfg} (hopen : porchOpen s = true) (hbytes : x.bytes ≤ 9216) (htags : x.tags ≤ 1)
    (hqp : s.qp q = some y) (hcfg : s.qpCfg q = some k) (hbad : x.icrcOk = false ∨ y.error = true) (use : State → State) :
    hostMessage s q x use = s := by
  have hbarred : (x.icrcOk && s.qpUp q) = false := by obtain h | h := hbad <;> simp [State.qpUp, hqp, h]
  rw [hostMessage, if_neg (by simp [hopen]), if_neg (by simp [hqp, hcfg, hbytes, htags]), if_neg (by simp [hbarred])]

end

theorem hostRequest_eq_hostMessage (s : State) (h : HeldHost) (wellFormed : Bool) :
    ∃ use, hostRequest s h wellFormed = hostMessage s h.req.qp.val h.req.frame use := by
  unfold hostRequest
  exact ⟨_, rfl⟩

/-- Each command of the host on a queue pair is a message of its frame. -/
theorem exec_eq_hostMessage {r : HostReq} {m : GhMsg} {q : QpIx} {x : HostFrame} {psn : BitVec 24} {kind : NakKind} {bytes : List Byte}
    {len : Nat} {ecc : List Ecc} {imm : BitVec 32} (s : State) (hr : r.qp = q) (hx : r.frame = x) (hm : m.qp = q) {e : Instr}
    (he : e ∈ [Instr.rdmaWrite r bytes, .rdmaWriteWithImmediate r bytes imm, .rdmaRead r ⟨len, ecc⟩, .invalidRequest q ⟨psn, x⟩,
      .send m ⟨psn, x⟩, .hostAck q ⟨psn, x, bytes⟩, .hostNak q ⟨kind, psn, x⟩]) :
    ∃ use, exec e s = .next (hostMessage s q.val x use) := by
  subst hr hx
  have hrequest (h : HeldHost) (wellFormed : Bool) (hreq : h.req = r) :
      ∃ use, Host.Outcome.next (hostRequest s h wellFormed) = (.next (hostMessage s r.qp.val r.frame use) : Host.Outcome State Fault Refusal) := by
    obtain ⟨use, huse⟩ := hostRequest_eq_hostMessage s h wellFormed
    exact ⟨use, by rw [huse, hreq]⟩
  simp only [List.mem_cons, List.not_mem_nil, or_false] at he
  obtain rfl | rfl | rfl | rfl | rfl | rfl | rfl := he
  · exact hrequest _ _ rfl
  · exact hrequest _ _ rfl
  · exact hrequest _ _ rfl
  · exact ⟨_, rfl⟩
  · exact ⟨_, congrArg (fun q : QpIx => Host.Outcome.next (hostMessage s q.val _ _)) hm⟩
  · exact ⟨_, rfl⟩
  · exact ⟨_, rfl⟩

/-! ## A request on an open queue pair (R330, R334, R335) -/

/-- A good frame of a queue pair that is defined and not in ERROR reaches an open Porch. -/
structure GoodFrame (s : State) (q : QpIx) (f : HostFrame) (x : Qp) (k : QpCfg) : Prop where
  isOpen : porchOpen s = true
  qp : s.qp q.val = some x
  cfg : s.qpCfg q.val = some k
  running : x.error = false
  bytes : f.bytes ≤ 9216
  tags : f.tags ≤ 1
  icrc : f.icrcOk = true

/-- The state in which a frame's message is taken up: its CE mark noted and its packets counted. -/
def frameCounted (s : State) (q : QpIx) (f : HostFrame) (n : Nat) : State :=
  count (noteCe s q.val f.ce) (porchOcc (noteCe s q.val f.ce) q.val 0x090 n)

theorem frameCounted_pmtu (s : State) (q : QpIx) (f : HostFrame) (n p : Nat) : (frameCounted s q f n).pmtu p = s.pmtu p :=
  (count_pmtu ..).trans (noteCe_pmtu ..)

theorem GoodFrame.hostMessage_eq {s : State} {q : QpIx} {f : HostFrame} {x : Qp} {k : QpCfg} (hgood : GoodFrame s q f x k) (use : State → State) :
    hostMessage s q.val f use = use (noteCe s q.val f.ce) :=
  hostMessage_of_good hgood.isOpen hgood.qp hgood.cfg hgood.running hgood.bytes hgood.tags hgood.icrc use

/-- What a request of the host does in the state in which it is taken up, by where its PSN stands. -/
def requestActs (u : State) (k : QpCfg) (x : Qp) (h : HeldHost) (wellFormed : Bool) : State :=
  if h.req.psn = x.rxPsn then
    if wellFormed = false ∨ (h.readLen.isSome ∧ 16 ≤ heldReads x) then nakFatal u h.req.qp.val (.nakInvalid h.req.qp.val h.req.psn)
    else takeRequest u k x h
  else if (x.rxPsn - h.req.psn).toNat < 2 ^ 23 then
    if psnHeld u x h.req.psn then u
    else if h.readLen.isSome then takeAccess u k h else u.porchOut (.ack h.req.qp.val h.req.psn)
  else u.porchOut (.nakSequence h.req.qp.val x.rxPsn)

/-- A request reads of its queue pair the receiving side alone. -/
theorem requestActs_congr {x y : Qp} (hindex : y.index = x.index) (hpsn : y.rxPsn = x.rxPsn) (hheld : y.held = x.held) (u : State) (k : QpCfg)
    (h : HeldHost) (wellFormed : Bool) : requestActs u k y h wellFormed = requestActs u k x h wellFormed := by
  have hreads : heldReads y = heldReads x := by rw [heldReads, heldReads, hheld]
  have hbarred : psnHeld u y h.req.psn = psnHeld u x h.req.psn := by rw [psnHeld, psnHeld, hheld, hindex]
  have htake : takeRequest u k y h = takeRequest u k x h := by rw [takeRequest, takeRequest, passesThrough, passesThrough, hheld]
  rw [requestActs, requestActs, hpsn, hreads, hbarred, htake]

theorem hostRequest_of_good {s : State} {h : HeldHost} {x : Qp} {k : QpCfg} (hgood : GoodFrame s h.req.qp h.req.frame x k) (wellFormed : Bool) :
    hostRequest s h wellFormed = requestActs
      (frameCounted s h.req.qp h.req.frame (if h.readLen.isSome then 1 else psnCount (s.pmtu h.req.qp.val) h.bytes.length)) k x h wellFormed := by
  obtain ⟨y, hy, hindex, hpsn, hheld⟩ := noteCe_qp hgood.qp h.req.frame.ce
  rw [← requestActs_congr hindex hpsn hheld]
  simp only [hostRequest, hgood.hostMessage_eq, hy, noteCe_qpCfg, hgood.cfg, noteCe_pmtu]
  rfl

section
variable {u : State} {k : QpCfg} {x : Qp} {h : HeldHost}

section
variable (hpsn : h.req.psn = x.rxPsn)
include hpsn

theorem requestActs_of_next (hreads : h.readLen.isSome = true → heldReads x < 16) : requestActs u k x h true = takeRequest u k x h := by
  rw [requestActs, if_pos hpsn, if_neg fun hbad => hbad.elim Bool.noConfusion fun hread => Nat.not_lt.mpr hread.2 (hreads hread.1)]

theorem requestActs_of_invalid {wellFormed : Bool} (hbad : wellFormed = false ∨ (h.readLen.isSome ∧ 16 ≤ heldReads x)) :
    requestActs u k x h wellFormed = qpError (u.porchOut (.nakInvalid h.req.qp.val h.req.psn)) h.req.qp.val 4 := by
  rw [requestActs, if_pos hpsn, if_pos hbad]
  rfl

end

section
variable (hpsn : h.req.psn ≠ x.rxPsn) (wellFormed : Bool)
include hpsn

theorem requestActs_of_repeated (hback : (x.rxPsn - h.req.psn).toNat < 2 ^ 23) : requestActs u k x h wellFormed =
    if psnHeld u x h.req.psn then u else if h.readLen.isSome then takeAccess u k h else u.porchOut (.ack h.req.qp.val h.req.psn) := by
  rw [requestActs, if_neg hpsn, if_pos hback]

theorem requestActs_of_ahead (hahead : 2 ^ 23 ≤ (x.rxPsn - h.req.psn).toNat) :
    requestActs u k x h wellFormed = u.porchOut (.nakSequence h.req.qp.val x.rxPsn) := by
  rw [requestActs, if_neg hpsn, if_neg (Nat.not_lt.mpr hahead)]

end

/-! ### The receive buffer (R335) -/

/-- A queue pair expects the PSN after n packets. -/
def psnAdvanced (u : State) (q n : Nat) : State := u.modQp q (fun y => { y with rxPsn := y.rxPsn + BitVec.ofNat 24 n })

/-- The receive buffer has room for a request, or need not hold it. -/
def FitsBuffer (u : State) (k : QpCfg) (x : Qp) (h : HeldHost) : Prop := h.bytes.length ≤ bufferRoom u ∨ passesThrough u k x h = true

section
variable {q p : Nat} (hindex : k.index = q) (hpmtu : u.pmtu q = p)
include hindex hpmtu

theorem takeRequest_of_fits (hfits : FitsBuffer u k x h) :
    takeRequest u k x h = takeAccess (psnAdvanced u q (psnCount p h.length)) k h := by
  subst hindex hpmtu
  exact if_pos (by simpa [FitsBuffer] using hfits)

section
variable (hfull : ¬ FitsBuffer u k x h) {fit : Nat} (hfit : fit = bufferRoom u / Nat.max 1 p)
include hfull hfit

theorem takeRequest_of_full (hzero : fit = 0) : takeRequest u k x h = nakNoRoom u q h.req.psn := by
  subst hindex hpmtu
  rw [takeRequest, if_neg (by simpa [FitsBuffer] using hfull)]
  simp only [← hfit, hzero, if_true, BitVec.add_zero]

theorem takeRequest_of_part (hsome : fit ≠ 0) : takeRequest u k x h =
    nakNoRoom (takeAccess (psnAdvanced u q fit) k { h with bytes := h.bytes.take (fit * p) }) q (h.req.psn + BitVec.ofNat 24 fit) := by
  subst hindex hpmtu
  rw [takeRequest, if_neg (by simpa [FitsBuffer] using hfull)]
  simp only [← hfit, hsome, if_false]
  rfl

end

end

end

theorem nakNoRoom_of_due {s : State} {q : Nat} {psn : BitVec 24} {x : Qp} (hqp : s.qp q = some x)
    (hdue : x.seqNakAt = none ∨ ∃ t, x.seqNakAt = some t ∧ t + 10000 ≤ s.now) :
    nakNoRoom s q psn = (s.porchOut (.nakSequence q psn)).modQp q (fun y => { y with seqNakAt := some s.now }) := by
  obtain hnone | ⟨t, hsome, hpast⟩ := hdue
  · simp [nakNoRoom, hqp, hnone]
  · simp [nakNoRoom, hqp, hsome, hpast]

theorem nakNoRoom_of_recent {s : State} {q t : Nat} {psn : BitVec 24} {x : Qp} (hqp : s.qp q = some x) (hlast : x.seqNakAt = some t)
    (hrecent : s.now < t + 10000) : nakNoRoom s q psn = s := by
  simp [nakNoRoom, hqp, hlast, Nat.not_le.mpr hrecent]

/-! ## The commands -/

/-- A write of the host as the Porch holds it. -/
def hostWriteHeld (r : HostReq) (bytes : List Byte) (imm : Bool) : HeldHost :=
  { req := r, bytes := bytes, readLen := none, imm := imm, ecc := [], msg := none, answer := none }

/-- A read of the host as the Porch holds it. -/
def hostReadHeld (r : HostReq) (len : Nat) (ecc : List Ecc) : HeldHost :=
  { req := r, bytes := [], readLen := some len, imm := false, ecc := ecc, msg := none, answer := none }

/-- A message of a Send as the Porch holds it. -/
def hostSendHeld (m : GhMsg) (f : HostFrame) (psn : BitVec 24) : HeldHost :=
  { req := { qp := m.qp, frame := f, psn := psn, rkey := 0, va := 0 }, bytes := [], readLen := none, imm := false, ecc := [], msg := some m,
    answer := none }

section
variable {r : HostReq} {s : State} {x : Qp} {k : QpCfg} (hgood : GoodFrame s r.qp r.frame x k)
include hgood

theorem exec_rdmaWrite_of_good (bytes : List Byte) : exec (.rdmaWrite r bytes) s = .next (requestActs
    (frameCounted s r.qp r.frame (psnCount (s.pmtu r.qp.val) bytes.length)) k x (hostWriteHeld r bytes false) true) :=
  congrArg Host.Outcome.next (hostRequest_of_good (h := hostWriteHeld r bytes false) hgood true)

theorem exec_rdmaWriteWithImmediate_of_good (bytes : List Byte) (imm : BitVec 32) : exec (.rdmaWriteWithImmediate r bytes imm) s = .next
    (requestActs (frameCounted s r.qp r.frame (psnCount (s.pmtu r.qp.val) bytes.length)) k x (hostWriteHeld r bytes true)
      (bytes.length == 8 && r.va.toNat % 8 == 0)) :=
  congrArg Host.Outcome.next (hostRequest_of_good (h := hostWriteHeld r bytes true) hgood _)

theorem exec_rdmaRead_of_good (len : Nat) (ecc : List Ecc) : exec (.rdmaRead r ⟨len, ecc⟩) s = .next
    (requestActs (frameCounted s r.qp r.frame 1) k x (hostReadHeld r len ecc) true) :=
  congrArg Host.Outcome.next (hostRequest_of_good (h := hostReadHeld r len ecc) hgood true)

/-- Both kinds of write are requests that carry their bytes; they differ in the flag and in what is well-formed. -/
theorem exec_write_of_good {bytes : List Byte} {imm : BitVec 32} {e : Instr}
    (he : e ∈ [Instr.rdmaWrite r bytes, .rdmaWriteWithImmediate r bytes imm]) : ∃ b wellFormed, exec e s = .next (requestActs
      (frameCounted s r.qp r.frame (psnCount (s.pmtu r.qp.val) bytes.length)) k x (hostWriteHeld r bytes b) wellFormed) := by
  obtain rfl | rfl : e = .rdmaWrite r bytes ∨ e = .rdmaWriteWithImmediate r bytes imm := by simpa using he
  · exact ⟨_, _, exec_rdmaWrite_of_good hgood bytes⟩
  · exact ⟨_, _, exec_rdmaWriteWithImmediate_of_good hgood bytes imm⟩

/-! ### The request that comes next -/

section
variable (hpsn : r.psn = x.rxPsn)
include hpsn

theorem exec_rdmaRead_of_room {len : Nat} {ecc : List Ecc} (hreads : heldReads x < 16) : exec (.rdmaRead r ⟨len, ecc⟩) s = .next
    (takeAccess (psnAdvanced (frameCounted s r.qp r.frame 1) r.qp.val (psnCount (s.pmtu r.qp.val) len)) k (hostReadHeld r len ecc)) := by
  rw [exec_rdmaRead_of_good hgood, requestActs_of_next hpsn fun _ => hreads,
    takeRequest_of_fits (State.qpCfg_index hgood.cfg) (frameCounted_pmtu ..) (.inl (Nat.zero_le _))]
  rfl

theorem exec_rdmaRead_of_many {len : Nat} {ecc : List Ecc} (hreads : 16 ≤ heldReads x) : exec (.rdmaRead r ⟨len, ecc⟩) s = .next
    (qpError ((frameCounted s r.qp r.frame 1).porchOut (.nakInvalid r.qp.val r.psn)) r.qp.val 4) := by
  rw [exec_rdmaRead_of_good hgood, requestActs_of_invalid hpsn (.inr ⟨rfl, hreads⟩)]
  rfl

variable {bytes : List Byte} {n : Nat} (hn : n = psnCount (s.pmtu r.qp.val) bytes.length)
include hn

theorem exec_rdmaWrite_of_next : exec (.rdmaWrite r bytes) s =
    .next (takeRequest (frameCounted s r.qp r.frame n) k x (hostWriteHeld r bytes false)) := by
  subst hn
  rw [exec_rdmaWrite_of_good hgood, requestActs_of_next hpsn fun hread => Bool.noConfusion hread]

theorem exec_rdmaWriteWithImmediate_of_next (hlength : bytes.length = 8) (halign : r.va.toNat % 8 = 0) (imm : BitVec 32) :
    exec (.rdmaWriteWithImmediate r bytes imm) s =
      .next (takeRequest (frameCounted s r.qp r.frame n) k x (hostWriteHeld r bytes true)) := by
  subst hn
  rw [exec_rdmaWriteWithImmediate_of_good hgood, beq_iff_eq.mpr hlength, beq_iff_eq.mpr halign, Bool.and_true,
    requestActs_of_next hpsn fun hread => Bool.noConfusion hread]

theorem exec_rdmaWriteWithImmediate_of_malformed (hbad : ¬ (bytes.length = 8 ∧ r.va.toNat % 8 = 0)) (imm : BitVec 32) :
    exec (.rdmaWriteWithImmediate r bytes imm) s =
      .next (qpError ((frameCounted s r.qp r.frame n).porchOut (.nakInvalid r.qp.val r.psn)) r.qp.val 4) := by
  subst hn
  rw [exec_rdmaWriteWithImmediate_of_good hgood, requestActs_of_invalid hpsn (.inl (by simpa using hbad))]
  rfl

end

/-! ### A request out of order -/

section
variable (hpsn : r.psn ≠ x.rxPsn) {bytes : List Byte} {imm : BitVec 32} {e : Instr}
include hpsn

section
variable (hback : (x.rxPsn - r.psn).toNat < 2 ^ 23)
include hback

theorem exec_write_of_repeated (he : e ∈ [Instr.rdmaWrite r bytes, .rdmaWriteWithImmediate r bytes imm]) {u : State}
    (hu : u = frameCounted s r.qp r.frame (psnCount (s.pmtu r.qp.val) bytes.length)) :
    exec e s = .next (if psnHeld u x r.psn then u else u.porchOut (.ack r.qp.val r.psn)) := by
  obtain ⟨b, wellFormed, hexec⟩ := exec_write_of_good hgood he
  rw [hexec, ← hu, requestActs_of_repeated (h := hostWriteHeld r bytes b) (x := x) hpsn wellFormed hback]
  rfl

theorem exec_rdmaRead_of_repeated (len : Nat) (ecc : List Ecc) {u : State} (hu : u = frameCounted s r.qp r.frame 1) :
    exec (.rdmaRead r ⟨len, ecc⟩) s = .next (if psnHeld u x r.psn then u else takeAccess u k (hostReadHeld r len ecc)) := by
  rw [exec_rdmaRead_of_good hgood, ← hu, requestActs_of_repeated (h := hostReadHeld r len ecc) (x := x) hpsn true hback]
  rfl

end

section
variable (hahead : 2 ^ 23 ≤ (x.rxPsn - r.psn).toNat)
include hahead

theorem exec_write_of_ahead (he : e ∈ [Instr.rdmaWrite r bytes, .rdmaWriteWithImmediate r bytes imm]) : exec e s = .next
    ((frameCounted s r.qp r.frame (psnCount (s.pmtu r.qp.val) bytes.length)).porchOut (.nakSequence r.qp.val x.rxPsn)) := by
  obtain ⟨b, wellFormed, hexec⟩ := exec_write_of_good hgood he
  rw [hexec, requestActs_of_ahead (h := hostWriteHeld r bytes b) (x := x) hpsn wellFormed hahead]
  rfl

theorem exec_rdmaRead_of_ahead (len : Nat) (ecc : List Ecc) : exec (.rdmaRead r ⟨len, ecc⟩) s = .next
    ((frameCounted s r.qp r.frame 1).porchOut (.nakSequence r.qp.val x.rxPsn)) := by
  rw [exec_rdmaRead_of_good hgood, requestActs_of_ahead (h := hostReadHeld r len ecc) (x := x) hpsn true hahead]
  rfl

end

end

end

theorem exec_invalidRequest_of_good {s : State} {q : QpIx} {f : HostFrame} {x : Qp} {k : QpCfg} (hgood : GoodFrame s q f x k) (psn : BitVec 24) :
    exec (.invalidRequest q ⟨psn, f⟩) s = .next (qpError ((frameCounted s q f 1).porchOut (.nakInvalid q.val psn)) q.val 4) :=
  congrArg Host.Outcome.next (hgood.hostMessage_eq _)

theorem exec_send_of_next {m : GhMsg} {f : HostFrame} {s : State} {y : Qp} {k : QpCfg} (hgood : GoodFrame s m.qp f y k) {psn : BitVec 24}
    (hpsn : psn = y.rxPsn) {n : Nat} (hn : n = psnCount (s.pmtu m.qp.val) m.sendLength) {u : State} (hu : u = frameCounted s m.qp f n) :
    exec (.send m ⟨psn, f⟩) s = .next
      (if k.mgmt = false ∨ 65536 < m.sendLength then qpError (u.porchOut (.nakInvalid m.qp.val psn)) m.qp.val 4
        else if 8 ≤ queuedSends u m.qp.val then u.porchOut (.rnrNak m.qp.val psn)
        else clearUnknown (takeAccess (psnAdvanced u m.qp.val n) k (hostSendHeld m f psn))) := by
  obtain ⟨z, hz, -, hrx, -⟩ := noteCe_qp hgood.qp f.ce
  subst hu hn
  simp only [exec, execSend, hgood.hostMessage_eq, hz, noteCe_qpCfg, hgood.cfg, noteCe_pmtu, hrx, hpsn, if_true]
  rfl

/-! ## The statement -/

/-- Settles O52, by where a request's PSN stands and what it may then meet, and by the frames that are not taken. -/
theorem hostRequestsAreTakenInOrder : Obligations.HostRequestsAreTakenInOrder := by
  refine ⟨?requests, fun s q psn x hqp => ⟨nakNoRoom_of_due hqp, fun t => nakNoRoom_of_recent hqp⟩, ?frames, ?invalid, ?send⟩
  case requests =>
    intro r bytes len ecc imm s x k hopen hqp hcfg herror hbytes htags hicrc w u pw pr write read advance fits
    have hgood : GoodFrame s r.qp r.frame x k := ⟨hopen, hqp, hcfg, herror, hbytes, htags, hicrc⟩
    refine ⟨fun hpsn => ?next, fun hpsn hback => ?repeated, fun hpsn hahead => ?ahead⟩
    case next =>
      have hindex : k.index = r.qp.val := State.qpCfg_index hcfg
      have hpmtu : (u pw).pmtu r.qp.val = s.pmtu r.qp.val := frameCounted_pmtu ..
      have hwrite := exec_rdmaWrite_of_next hgood hpsn (bytes := bytes) rfl
      refine ⟨fun hfits => ?_, fun hlength halign hfits => ?_, fun hbad => exec_rdmaWriteWithImmediate_of_malformed hgood hpsn rfl hbad imm,
        fun hfull fit hfit => ?_, exec_rdmaRead_of_room hgood hpsn, exec_rdmaRead_of_many hgood hpsn⟩
      · exact hwrite.trans (congrArg _ (takeRequest_of_fits hindex hpmtu hfits))
      · exact (exec_rdmaWriteWithImmediate_of_next hgood hpsn rfl hlength halign imm).trans
          (congrArg _ (takeRequest_of_fits hindex hpmtu hfits))
      · exact ⟨fun hzero => hwrite.trans (congrArg _ (takeRequest_of_full hindex hpmtu hfull hfit hzero)),
          fun hsome => hwrite.trans (congrArg _ (takeRequest_of_part (h := write false) hindex hpmtu hfull hfit hsome))⟩
    case repeated =>
      refine ⟨fun e he => ?_, ?_⟩
      · rw [exec_write_of_repeated hgood hpsn hback he rfl]
        exact ⟨fun hfree => congrArg _ (if_neg (Bool.eq_false_iff.mp hfree)), fun hheld => congrArg _ (if_pos hheld)⟩
      · rw [exec_rdmaRead_of_repeated hgood hpsn hback len ecc rfl]
        exact ⟨fun hfree => congrArg _ (if_neg (Bool.eq_false_iff.mp hfree)), fun hheld => congrArg _ (if_pos hheld)⟩
    case ahead =>
      exact ⟨fun e => exec_write_of_ahead hgood hpsn hahead, exec_rdmaRead_of_ahead hgood hpsn hahead len ecc⟩
  case frames =>
    intro r m q x psn kind bytes len ecc imm s hr hx hm e he
    obtain ⟨use, hexec⟩ := exec_eq_hostMessage s hr hx hm he
    rw [hexec]
    exact ⟨fun hclosed => congrArg _ (hostMessage_of_closed hclosed use),
      fun hopen hunfit => congrArg _ (hostMessage_of_unfit hopen hunfit use),
      fun y k hopen hbytes htags hqp hcfg hbad => congrArg _ (hostMessage_of_dropped hopen hbytes htags hqp hcfg hbad use)⟩
  case invalid =>
    intro q psn x s y k hopen hqp hcfg herror hbytes htags hicrc
    exact exec_invalidRequest_of_good ⟨hopen, hqp, hcfg, herror, hbytes, htags, hicrc⟩ psn
  case send =>
    intro m psn x s y k hopen hqp hcfg herror hbytes htags hicrc hpsn n w u
    have hexec := exec_send_of_next ⟨hopen, hqp, hcfg, herror, hbytes, htags, hicrc⟩ hpsn rfl (u := u) rfl
    rw [hexec]
    refine ⟨fun hmgmt hlength hqueue => ?_, fun hmgmt hlength hqueue => ?_, fun hbad => congrArg _ (if_pos hbad)⟩
    · rw [if_neg (by simp [hmgmt, hlength]), if_neg (Nat.not_le.mpr hqueue)]
      rfl
    · rw [if_neg (by simp [hmgmt, hlength]), if_pos hqueue]

end Sys2Proof.Machine
end

section
/-! PROOF. The step and its queue, and what every command leaves: it completes, takes nothing from the queue and adds nothing to it, a device in
the safe state stays in it, and commands of work leave the device's own state. -/

namespace Sys2Proof.Machine

/-! ## A step and the queue -/

/-- Settles O1: the step is the command at the front. -/
theorem stepRunsFrontCommand : Obligations.StepRunsFrontCommand := by
  intro c rest s h
  rw [step, h]

/-- Settles O2, by the empty queue's branch of the step. -/
theorem emptyQueueIdles : Obligations.EmptyQueueIdles := by
  intro s h
  rw [step, h]

/-! ## Every command completes -/

/-- Each meaning answers a next state, whatever branch it takes. -/
theorem exec_next (c : Instr) (s : State) : ∃ t, exec c s = .next t := by
  cases c <;> exact ⟨_, rfl⟩

theorem coldSteps_pending {s : State} (hs : s.boot.safe = false) (i : ColdInputs) : (coldSteps s i).pending = s.pending :=
  (coldSteps_keeps (.refl s) hs i).queue

theorem execColdStart_pending {i : ColdInputs} {s t : State} (h : execColdStart i s = .next t) : t.pending = s.pending := by
  unfold execColdStart at h
  cases h
  split
  · dsimp only
    split
    · exact coldSteps_pending rfl i
    · rfl
  · rfl

theorem execRailsInRange_pending {s t : State} (h : execRailsInRange s = .next t) : t.pending = s.pending := by
  unfold execRailsInRange at h
  cases h
  split
  · split
    · rfl
    · rename_i hsafe
      exact coldSteps_pending (by simpa using hsafe) _
  · rfl

theorem exec_pending_of_restarts {c : Instr} (hc : restarts c = true) {s t : State} (h : exec c s = .next t) : t.pending = s.pending := by
  cases c with
  | porAssert => cases h; rfl
  | coldStart i => exact execColdStart_pending h
  | railsInRange => exact execRailsInRange_pending h
  | _ => nomatch hc

/-- Settles O7: a command that restarts the device leaves the queue, and every other one keeps it with what its operations keep. -/
theorem commandsLeaveQueue : Obligations.CommandsLeaveQueue := by
  intro c s
  obtain ⟨t, h⟩ := exec_next c s
  refine ⟨t, h, ?_⟩
  cases hc : restarts c with
  | true => exact exec_pending_of_restarts hc h
  | false => exact (exec_keeps (.refl s) c hc t h).queue

/-! ## The safe state -/

/-- Settles O6: what every command but the three that restart the device keeps includes the safe state. -/
theorem safeStateLasts : Obligations.SafeStateLasts := fun c s t hc h => (exec_keeps (.refl s) c hc t h).latched

/-! ## Commands of work -/

/-- A command of work leaves the device what its operations leave it: one lemma of Laws/Calm*.lean for each. -/
theorem exec_calm {a0 s : State} (h : Calm a0 s) (c : Instr) (hc : worksOnly c = true) : OutCalm a0 (exec c s) := by
  cases c with
  | periodStart => exact execPeriodStart_calm h _
  | periodEnd => exact execPeriodEnd_calm h _
  | poll => exact execPoll_calm h _
  | controlBlockReadReturn => exact execControlBlockReadReturn_calm h _
  | schedulerRound => exact execSchedulerRound_calm h _
  | deterministicRound => exact execDeterministicRound_calm h _
  | chain => exact execChain_calm h _ _
  | faceOperationIssue => exact execFaceOperationIssue_calm h _ _ _
  | loadComplete => exact execLoadComplete_calm h _
  | rowEmerge => exact execRowEmerge_calm h _ _
  | confirmWindowExpiry => exact execConfirmWindowExpiry_calm h _
  | checkAdvance => exact execCheckAdvance_calm h _
  | replayComplete => exact execReplayComplete_calm h _
  | rampDownBegin => exact execRampDownBegin_calm h _
  | rampColumnStep => exact execRampColumnStep_calm h _
  | rampDownComplete => exact execRampDownComplete_calm h _
  | rampUpComplete => exact execRampUpComplete_calm h _
  | loadPieceDispatch => exact execLoadPieceDispatch_calm h _ _ _
  | enginePieceComplete => exact execEnginePieceComplete_calm h _ _ _
  | engineClockStop => exact execEngineClockStop_calm h _ _ _
  | pinRetry => exact execPinRetry_calm h _ _
  | pinReleaseRetry => exact execPinReleaseRetry_calm h _
  | update => exact execUpdate_calm h _ _
  | normCellPoll => exact execNormCellPoll_calm h _ _
  | updateClaimPoll => exact execUpdateClaimPoll_calm h _ _
  | updateCommit => exact execUpdateCommit_calm h _ _
  | copy => exact execCopy_calm h _ _
  | transpose => exact execTranspose_calm h _ _
  | gather => exact execGather_calm h _ _
  | scatter => exact execScatter_calm h _ _
  | fill => exact execFill_calm h _ _
  | atomic => exact execAtomic_calm h _ _
  | normBwd => exact execNormBwd_calm h _ _
  | softmaxBwd => exact execSoftmaxBwd_calm h _ _
  | rowStats => exact execRowStats_calm h _ _
  | rubbleEncode => exact execRubbleEncode_calm h _ _
  | rubbleDecode => exact execRubbleDecode_calm h _ _
  | copyRound => exact execCopyRound_calm h _ _
  | benchCoreStop => exact execBenchCoreStop_calm h _ _
  | benchCoreWake => exact execBenchCoreWake_calm h _ _
  | benchQuantum => exact execBenchQuantum_calm h _ _ _
  | reduceScatter => exact execReduceScatter_calm h _ _
  | allGather => exact execAllGather_calm h _ _
  | allReduce => exact execAllReduce_calm h _ _
  | broadcast => exact execBroadcast_calm h _ _
  | allToAll => exact execAllToAll_calm h _ _
  | normAllreduce => exact execNormAllreduce_calm h _ _
  | versionedGatherCommit => exact execVersionedGatherCommit_calm h _ _
  | chunkDeadline => exact execChunkDeadline_calm h _ _ _
  | fenceWrite => exact execFenceWrite_calm h _ _
  | fenceAcquire => exact execFenceAcquire_calm h _ _
  | fenceFull => exact execFenceFull_calm h _ _
  | note => exact execNote_calm h _ _
  | pinRelease => exact execPinRelease_calm h _ _
  | publish => exact execPublish_calm h _ _
  | wait => exact execWait_calm h _ _
  | markWaitPoll => exact execMarkWaitPoll_calm h _ _
  | secure => exact execSecure_calm h _ _
  | priv => exact execPriv_calm h _ _
  | close => exact execClose_calm h _ _
  | eval => exact execEval_calm h _ _
  | restore => exact execRestore_calm h _ _
  | flaggedFinalWriteIssue => exact execFlaggedFinalWriteIssue_calm h _ _
  | itemEnd => exact execItemEnd_calm h _ _
  | drainIntervalExpiry => exact execDrainIntervalExpiry_calm h _
  | dropPoisonComplete => exact execDropPoisonComplete_calm h _ _
  | larderAccess => exact execLarderAccess_calm h _ _ _
  | regulatorGrant => exact execRegulatorGrant_calm h _ _
  | patrolScrubRead => exact execPatrolScrubRead_calm h _ _
  | dataEyeLockLoss => exact execDataEyeLockLoss_calm h _
  | stackRetrainComplete => exact execStackRetrainComplete_calm h _
  | stackRetrainTimeout => exact execStackRetrainTimeout_calm h _
  | pantryReleaseComplete => exact execPantryReleaseComplete_calm h _
  | idle => exact execIdle_calm h _ _
  | nak => exact execNak_calm h _ _
  | train => exact execTrain_calm h _ _
  | linkDownTimeout => exact execLinkDownTimeout_calm h _
  | portRetrainTimeout => exact execPortRetrainTimeout_calm h _
  | portDisableTimeout => exact execPortDisableTimeout_calm h _
  | escapeWaitExpiry => exact execEscapeWaitExpiry_calm h _ _
  | stallLimitExpiry => exact execStallLimitExpiry_calm h _ _ _
  | respTimeout => exact execRespTimeout_calm h _
  | notUsed => exact execNotUsed_calm h _
  | crushDone => exact execCrushDone_calm h _
  | foldNotice => exact execFoldNotice_calm h _
  | closeReport => exact execCloseReport_calm h _
  | invalidRequest => exact execInvalidRequest_calm h _ _
  | hostAck => exact execHostAck_calm h _ _
  | hostNak => exact execHostNak_calm h _ _
  | ackTimeout => exact execAckTimeout_calm h _
  | cnp => exact execCnp_calm h _
  | recIntervalExpiry => exact execRecIntervalExpiry_calm h _
  | pfcPause => exact execPfcPause_calm h _ _
  | arp => exact execArp_calm h _ _
  | neighborSolicitation => exact execNeighborSolicitation_calm h _ _
  | frameDiscard => exact execFrameDiscard_calm h
  | porchLinkDown => exact execPorchLinkDown_calm h
  | porchRetrainAttempt => exact execPorchRetrainAttempt_calm h
  | ctxCtlReset => exact execCtxCtlReset_calm h _ _
  | counterClear => exact execCounterClear_calm h _ _
  | counterRun => exact execCounterRun_calm h _ _
  | counterSelect => exact execCounterSelect_calm h _ _ _ _
  | errorDrainTimer => exact execErrorDrainTimer_calm h
  | porchLinkUp => exact execPorchLinkUp_calm h
  | fecLock => exact execFecLock_calm h _
  | trainingPatternReceived => exact execTrainingPatternReceived_calm h _
  | _ => nomatch hc

/-- Settles O14, by what the operations of each command of work leave. -/
theorem workLeavesDevice : Obligations.WorkLeavesDevice := fun c s t hc h => exec_calm (.refl s) c hc t h

/-! ## POR_N, the xSPI pins and EXTEST (R346, R349, R368, R497) -/

/-- Settles O9: POR_N answers the reset state with what outlasts it. -/
theorem porAssertResets : Obligations.PorAssertResets := fun s => ⟨porState s, rfl, rfl, rfl, rfl, rfl, rfl, rfl, rfl, rfl, rfl, rfl, rfl, rfl⟩

/-- Settles O11, by the branches of XSPI_RELEASE and of EXTEST. -/
theorem xspiReleaseAndExtest : Obligations.XspiReleaseAndExtest := by
  refine ⟨fun s hphase hpins => ?_, fun s hphase => ?_, fun s hphase => ?_⟩
  · simp only [exec, execXspiRelease, hphase, hpins, and_self, if_true]
    rfl
  · simp only [exec, execExtest, hphase, if_true]
  · simp only [exec, execExtest, hphase, if_false]

end Sys2Proof.Machine
end

section
/-! PROOF. A compute-domain reset begins (R344, R350, R366, R367, R370, R448), and a cold start goes through its steps (R347 to R352, R358, R363,
R494). -/

namespace Sys2Proof.Machine

theorem satInc_byte (v : BitVec 8) : satInc v = if v = 0xFF then 0xFF else v + 1 := by
  rw [satInc, show BitVec.allOnes 8 = 0xFF from rfl]
  split
  · assumption
  · rfl

/-! ## COMPUTE_RST_N_ASSERT (R366, R367, R370) -/

/-- The reset that begins now, with its entry in the measurement chain (R350, R448). -/
def resetBegun (s : State) (pin : Bool) (variant : Option (BitVec 4)) : State :=
  { chainAdd s s.now 0x08 (b2n (!pin)) 0 with
    boot := { s.boot with creset := some { since := s.now, pin := pin, variant := variant }, computeResets := satInc s.boot.computeResets } }

/-- How a compute-domain reset ends the items that have not ended (R366, R367). -/
def resetEnds (s : State) : List (ItemRef × Status × Nat × BitVec 32) :=
  (s.items.filter (fun i => !i.over)).map (fun i => (i.ref, .failedFault, codeComputeReset, failAux i none))

/-- Every Face stopped, with no tile, row or operation (R367). -/
def facesEmptied (s : State) : State :=
  { s with faces := s.faces.map (fun f => { f with
      state := .stopped, restartLatched := false, pendingOp := none, inFlight := [], loading := none, active := none, shadow := none }) }

section
variable {s : State} {pin : Bool} {variant : Option (BitVec 4)}

theorem startCReset_of_none (hphase : s.boot.phase = .running) (hsafe : s.boot.safe = false) (hreset : s.boot.creset = none) :
    startCReset s pin variant = writeBackDirty (facesEmptied (endMany (resetBegun s pin variant) (resetEnds s))) := by
  unfold startCReset
  rw [hphase, hsafe, hreset]
  rfl

theorem startCReset_of_some {r : CReset} (hphase : s.boot.phase = .running) (hsafe : s.boot.safe = false) (hreset : s.boot.creset = some r) :
    startCReset s pin variant =
      { s with boot := { s.boot with creset := some { r with pin := pin || r.pin, variant := variant <|> r.variant } } } := by
  unfold startCReset
  rw [hphase, hsafe, hreset]
  rfl

theorem startCReset_of_held (hphase : s.boot.phase = .railWait) :
    startCReset s pin variant = { s with boot := { s.boot with cresetLatched := some (pin || s.boot.cresetLatched.getD false) } } := by
  unfold startCReset
  rw [hphase]

theorem startCReset_calm (hphase : s.boot.phase = .running) (hsafe : s.boot.safe = false) (hreset : s.boot.creset = none) :
    Calm (resetBegun s pin variant) (startCReset s pin variant) := by
  rw [startCReset_of_none hphase hsafe hreset]
  have hended := endMany_calm (.refl (resetBegun s pin variant)) (resetEnds s)
  exact writeBackDirty_calm (.put (b := facesEmptied _) hended)

end

theorem endMany_nil_memory (s : State) : (endMany s []).memory = s.memory := (drainDue_outside s).memory

theorem writeBackDirty_of_clean {s : State} (h : s.memory.cache = []) : writeBackDirty s = s := by
  simp [writeBackDirty, h]

theorem resetEnds_of_over {s : State} (h : ∀ i ∈ s.items, i.over = true) : resetEnds s = [] := by
  simp +contextual [resetEnds, List.filter_eq_nil_iff, h]

/-- Where nothing is to be ended and nothing to be written back, a reset that begins leaves every Face stopped and empty (R367). -/
theorem mem_faces_startCReset {s : State} {pin : Bool} {variant : Option (BitVec 4)} (hphase : s.boot.phase = .running) (hsafe : s.boot.safe = false)
    (hreset : s.boot.creset = none) (hover : ∀ i ∈ s.items, i.over = true) (hcache : s.memory.cache = []) {f : Face}
    (hf : f ∈ (startCReset s pin variant).faces) :
    f.state = .stopped ∧ f.active = none ∧ f.shadow = none ∧ f.inFlight = [] ∧ f.loading = none := by
  rw [startCReset_of_none hphase hsafe hreset, resetEnds_of_over hover, writeBackDirty_of_clean] at hf
  · obtain ⟨g, -, rfl⟩ := List.mem_map.mp hf
    exact ⟨rfl, rfl, rfl, rfl, rfl⟩
  · exact (congrArg Memory.cache (endMany_nil_memory _)).trans hcache

/-- Settles O12, by what a request for a reset finds: none in progress, one that it joins, or a cold start that is held. -/
theorem computeResetBegins : Obligations.ComputeResetBegins := by
  refine ⟨fun s hphase hsafe hreset => ?_, fun s r hphase hsafe hreset => ?_, fun s hphase => ?_⟩
  · have hcalm := startCReset_calm (pin := true) (variant := none) hphase hsafe hreset
    exact ⟨startCReset s true none, rfl, hcalm.boot.trans (by rw [resetBegun, satInc_byte]), hcalm.cfg, hcalm.fuses, hcalm.hearth,
      fun hover hcache f hf => mem_faces_startCReset hphase hsafe hreset hover hcache hf⟩
  · exact congrArg _ (startCReset_of_some hphase hsafe hreset)
  · exact congrArg _ (startCReset_of_held hphase)


/-! ## The steps of a cold start (R347 to R352, R448) -/

/-- An operation on the Gatehouse that leaves the flash slots and the boot nonce. -/
structure SameFlash (a b : Gatehouse) : Prop where
  slotA : b.slotA = a.slotA
  slotB : b.slotB = a.slotB
  bootNonce : b.bootNonce = a.bootNonce

theorem SameFlash.refl (a : Gatehouse) : SameFlash a a := ⟨rfl, rfl, rfl⟩

theorem SameFlash.trans {a b c : Gatehouse} (h : SameFlash a b) (k : SameFlash b c) : SameFlash a c :=
  ⟨k.slotA.trans h.slotA, k.slotB.trans h.slotB, k.bootNonce.trans h.bootNonce⟩

theorem SameFlash.of_log {a b : Gatehouse} (h : { b with log := [] } = { a with log := [] }) : SameFlash a b :=
  ⟨(congrArg Gatehouse.slotA h :), (congrArg Gatehouse.slotB h :), (congrArg Gatehouse.bootNonce h :)⟩

/-- What every step after the second leaves: the fuses, the flash, the nonce, the position, contexts and items, and the bytes of HBM3E. -/
structure ColdKeeps (a b : State) : Prop where
  fuses : b.fuses = a.fuses
  items : b.items = a.items
  ctxs : b.ctxs = a.ctxs
  hbm : b.memory.hbm = a.memory.hbm
  boardPos : b.boot.boardPos = a.boot.boardPos
  flash : SameFlash a.gate b.gate

theorem ColdKeeps.trans {a b c : State} (h : ColdKeeps a b) (k : ColdKeeps b c) : ColdKeeps a c :=
  ⟨k.fuses.trans h.fuses, k.items.trans h.items, k.ctxs.trans h.ctxs, k.hbm.trans h.hbm, k.boardPos.trans h.boardPos, h.flash.trans k.flash⟩

theorem enterNoImage_coldKeeps (s : State) (at_ code : Nat) : ColdKeeps s (enterNoImage s at_ code) := ⟨rfl, rfl, rfl, rfl, rfl, .refl _⟩

theorem enterNoImage_inNoImage (s : State) (at_ code : Nat) : (enterNoImage s at_ code).InNoImage code := ⟨rfl, rfl, rfl, rfl, rfl⟩

theorem chainAdd_leaves (s : State) (time kind aux : Nat) (digest : BitVec 512) :
    ∃ g, chainAdd s time kind aux digest = { s with gate := g } ∧ SameFlash s.gate g := ⟨_, rfl, rfl, rfl, rfl⟩

/-- Entries of the measurement chain change the Gatehouse's chain alone. -/
theorem foldl_chainAdd_leaves {α : Type} (time kind : Nat) (aux : α → Nat) (digest : α → BitVec 512) (l : List α) (s : State) :
    ∃ g, l.foldl (fun s e => chainAdd s time kind (aux e) (digest e)) s = { s with gate := g } ∧ SameFlash s.gate g := by
  induction l generalizing s with
  | nil => exact ⟨s.gate, rfl, .refl _⟩
  | cons e l ih =>
    obtain ⟨g, hg, hflash⟩ := chainAdd_leaves s time kind (aux e) (digest e)
    obtain ⟨w, hw, hrest⟩ := ih (chainAdd s time kind (aux e) (digest e))
    rw [hg] at hrest
    exact ⟨w, by rw [List.foldl_cons, hw, hg], hflash.trans hrest⟩

/-- Steps 1 and 2 sample the position, draw the nonce and program the flash (R347, R448). -/
theorem coldStepTwo_leaves (s : State) (i : ColdInputs) : ∃ g,
    coldStepTwo s i = { s with boot := { Boot.por with phase := .running, inputs := some i, boardPos := i.boardPos, step := 2 }, gate := g } ∧
    g.slotA = (match i.programmed with | some p => p.1 | none => s.gate.slotA) ∧
    g.slotB = (match i.programmed with | some p => p.2 | none => s.gate.slotB) ∧ g.bootNonce = i.entropyA ^^^ i.entropyB :=
  ⟨_, rfl, rfl, rfl, rfl⟩

/-- Steps 3 and 4 put the image's configuration in force (R357, R358). -/
theorem applyImage_leaves (s : State) (isB : Bool) (im : Image) (sel : Selection) : ∃ g,
    applyImage s isB im sel = { s with
      cfg := configOf (applying im.recs s.boot.boardPos.toNat im.header.defaultVariant), gate := g
      boot := { s.boot with
        imageVersion := im.header.version, variant := BitVec.ofNat 4 im.header.defaultVariant, slot := isB, fallback := sel.fallback,
        failCode := BitVec.ofNat 8 sel.failCode, step := 4 } } ∧ SameFlash s.gate g := by
  unfold applyImage
  extract_lets v pos cfg b g w at_ x
  obtain ⟨g, hg, hflash⟩ := foldl_chainAdd_leaves at_ 0x04 (fun m : Nat × BitVec 512 => m.1) (fun m => m.2) cfg.fwMeasures x
  exact ⟨g, hg, ⟨hflash.slotA, hflash.slotB, hflash.bootNonce⟩⟩

/-- Step 5 changes Faces, dies and the measurement chain alone (R363). -/
theorem applyDefectMap_coldLeaves (s : State) (time : Nat) : ∃ fs ds g,
    applyDefectMap s time = { s with faces := fs, dies := ds, gate := g } ∧ SameFlash s.gate g := by
  unfold applyDefectMap
  extract_lets src faces retired dies entries
  obtain ⟨g, hg, hflash⟩ := foldl_chainAdd_leaves time 0x05 (fun e : LogEntry => e.face / 2 * 2 ^ 19 + e.face % 2 * 2 ^ 18 + e.column * 2 ^ 15)
    (fun _ => 0) entries { s with faces := faces, dies := dies }
  exact ⟨faces, dies, g, hg, hflash⟩

theorem count_ctxs (s : State) (o : Occ) : (count s o).ctxs = s.ctxs := by
  unfold count
  split <;> rfl

theorem writeError_ctxs (s : State) (e : ErrInfo) : (writeError s e).ctxs = s.ctxs := by
  unfold writeError
  split
  · rfl
  · exact (count_ctxs ..).trans (count_ctxs ..)

theorem foldl_trainFails_keeps (l : List StackIx) (s : State) :
    let t := l.foldl (fun s st =>
      let s := s.modMem (fun m => modStack m st.val (fun k => { k with service := 2, attempts := 1, retrainAt := s.now }))
      writeError s { cls := 0x08, sev := sevUnit, unit := 0x60 + st.val, item := none, ctx := none, detail := [1] }) s
    t.items = s.items ∧ t.ctxs = s.ctxs ∧ t.memory.hbm = s.memory.hbm := by
  induction l generalizing s with
  | nil => exact ⟨rfl, rfl, rfl⟩
  | cons st l ih =>
    rw [List.foldl_cons]
    obtain ⟨hitems, hctxs, hhbm⟩ := ih _
    refine ⟨hitems.trans (writeError_outside ..).items, hctxs.trans (writeError_ctxs ..), hhbm.trans ?_⟩
    rw [writeError_memory]
    rfl

/-- Step 7 changes stacks, error records and counters (R348). -/
theorem trainStacks_coldLeaves (s : State) (i : ColdInputs) (time : Nat) :
    ColdKeeps s (trainStacks s i time) ∧ (trainStacks s i time).boot = s.boot ∧ (trainStacks s i time).cfg = s.cfg := by
  have hcalm := trainStacks_calm (.refl s) i time
  obtain ⟨hitems, hctxs, hhbm⟩ := foldl_trainFails_keeps i.stacksBad { s.upTo time with memory := { (s.upTo time).memory with
    hbmStacks := ((s.upTo time).memory.hbmStacks.zip (List.range 24)).map (fun (k, n) => { k with rowsTrained := i.rowsTrained.getD n 0 }) } }
  exact ⟨⟨hcalm.fuses, hitems, hctxs, hhbm, congrArg Boot.boardPos hcalm.boot, .of_log hcalm.gate⟩, hcalm.boot, hcalm.cfg⟩

/-- Steps 8 and 9 with no reset latched: the Ledger is open at the end of the last (R347). -/
theorem openDevice_leaves (s : State) (i : ColdInputs) (start : Nat) :
    ColdKeeps s (openDevice s i start none) ∧ (openDevice s i start none).boot = { s.boot with step := 9 } ∧
    (openDevice s i start none).cfg = s.cfg ∧ (openDevice s i start none).now = start + 5000000000 ∧
    (openDevice s i start none).t0 = (openDevice s i start none).now / 10 :=
  ⟨⟨rfl, rfl, rfl, rfl, rfl, .refl _⟩, rfl, rfl, rfl, rfl⟩

/-! ## How a cold start ends -/

/-- The device at the end of step 5, with the selected image in force. -/
def coldMapped (s : State) (i : ColdInputs) (isB : Bool) (im : Image) (sel : Selection) : State :=
  applyDefectMap (applyImage (coldStepTwo s i) isB im sel) (s.now + stepMs 5 * 1000000)

/-- Classes of firmware that stay wrong at step 6 (R361). -/
def firmwareWrong (i : ColdInputs) (c : Cfg) : Bool := i.firmwareBad.any (fun n => n ≤ 8 && c.fwVersions.any (fun v => v.1 == n))

/-- Slot selection at step 3 (R352). -/
def coldSelection (s : State) (i : ColdInputs) : Selection :=
  selectSlot (coldStepTwo s i).fuses (coldStepTwo s i).gate.slotA (coldStepTwo s i).gate.slotB i.answersA i.answersB

/-- The Gatehouses disagree at a step from lo to hi. -/
def coldDiffers (i : ColdInputs) (lo hi : Nat) : Bool := match i.disagreeAt with
  | some k => lo ≤ k.val && k.val ≤ hi
  | none => false

theorem coldDiffer_eq (i : ColdInputs) (k : Nat) : coldDiffer i k = coldDiffers i 0 k := by
  cases h : i.disagreeAt <;> simp [coldDiffer, coldDiffers, h]

theorem coldDiffers_split (i : ColdInputs) {lo mid hi : Nat} (hlo : lo ≤ mid + 1) (hhi : mid ≤ hi) :
    coldDiffers i lo hi = (coldDiffers i lo mid || coldDiffers i (mid + 1) hi) := by
  unfold coldDiffers
  split
  · rw [Bool.eq_iff_iff]
    simp
    omega
  · rfl

/-- The steps after slot selection with an image to apply. -/
def coldApplied (s : State) (i : ColdInputs) (m : State) : State :=
  let t := trainStacks m i (s.now + stepMs 7 * 1000000)
  if coldDiffers i 5 5 then enterNoImage m (s.now + stepMs 5 * 1000000) 0x0B
  else if firmwareWrong i m.cfg then enterNoImage m (s.now + stepMs 6 * 1000000) 0x0A
  else if coldDiffers i 6 6 then enterNoImage m (s.now + stepMs 6 * 1000000) 0x0B
  else if coldDiffers i 7 7 then enterNoImage t (s.now + stepMs 7 * 1000000) 0x0B
  else if coldDiffers i 8 8 then enterNoImage t (s.now + stepMs 8 * 1000000) 0x0B
  else if coldDiffers i 9 15 then enterNoImage t (s.now + stepMs 9 * 1000000) 0x0B
  else openDevice t i s.now s.boot.cresetLatched

theorem coldSteps_eq (s : State) (i : ColdInputs) : coldSteps s i =
    if coldDiffers i 0 2 then enterNoImage (coldStepTwo s i) (s.now + stepMs 2 * 1000000) 0x0B
    else if coldDiffers i 3 3 then enterNoImage (coldStepTwo s i) (s.now + stepMs 3 * 1000000) 0x0B
    else if coldDiffers i 4 4 then enterNoImage (coldStepTwo s i) (s.now + stepMs 4 * 1000000) 0x0B
    else match (coldSelection s i).image with
      | none =>
        let t := enterNoImage (coldStepTwo s i) (s.now + 785000000) (coldSelection s i).failCode
        { t with boot := { t.boot with fallback := (coldSelection s i).fallback } }
      | some (isB, im) => coldApplied s i (coldMapped s i isB im (coldSelection s i)) := rfl

/-- What the selected image leaves of the state at step 2, with its configuration in force (R352, R358, R363). -/
theorem coldMapped_leaves (s : State) (i : ColdInputs) (isB : Bool) (im : Image) (sel : Selection) :
    ColdKeeps (coldStepTwo s i) (coldMapped s i isB im sel) ∧
    (coldMapped s i isB im sel).cfg = configOf (applying im.recs i.boardPos.toNat im.header.defaultVariant) ∧
    (coldMapped s i isB im sel).boot = { Boot.por with
      phase := .running, inputs := some i, boardPos := i.boardPos, imageVersion := im.header.version
      variant := BitVec.ofNat 4 im.header.defaultVariant, slot := isB, fallback := sel.fallback, failCode := BitVec.ofNat 8 sel.failCode, step := 4 } := by
  obtain ⟨g, hg, hflash⟩ := applyImage_leaves (coldStepTwo s i) isB im sel
  obtain ⟨fs, ds, w, hw, hrest⟩ := applyDefectMap_coldLeaves (applyImage (coldStepTwo s i) isB im sel) (s.now + stepMs 5 * 1000000)
  rw [coldMapped, hw, hg]
  rw [hg] at hrest
  exact ⟨⟨rfl, rfl, rfl, rfl, rfl, hflash.trans hrest⟩, rfl, rfl⟩

section
variable {s : State} {i : ColdInputs}

theorem coldApplied_coldKeeps (hlatched : s.boot.cresetLatched = none) (m : State) : ColdKeeps m (coldApplied s i m) := by
  obtain ⟨htrained, -, -⟩ := trainStacks_coldLeaves m i (s.now + stepMs 7 * 1000000)
  unfold coldApplied
  extract_lets t
  rw [hlatched]
  split
  · exact enterNoImage_coldKeeps ..
  split
  · exact enterNoImage_coldKeeps ..
  split
  · exact enterNoImage_coldKeeps ..
  split
  · exact htrained.trans (enterNoImage_coldKeeps ..)
  split
  · exact htrained.trans (enterNoImage_coldKeeps ..)
  split
  · exact htrained.trans (enterNoImage_coldKeeps ..)
  · obtain ⟨hopened, -⟩ := openDevice_leaves t i s.now
    exact htrained.trans hopened

theorem coldSteps_coldKeeps (hlatched : s.boot.cresetLatched = none) : ColdKeeps (coldStepTwo s i) (coldSteps s i) := by
  rw [coldSteps_eq]
  split
  · exact enterNoImage_coldKeeps ..
  split
  · exact enterNoImage_coldKeeps ..
  split
  · exact enterNoImage_coldKeeps ..
  split
  · exact ⟨rfl, rfl, rfl, rfl, rfl, .refl _⟩
  · obtain ⟨hmapped, -, -⟩ := coldMapped_leaves s i _ _ (coldSelection s i)
    exact hmapped.trans (coldApplied_coldKeeps hlatched _)

/-- Gatehouses that disagree at a step before the defect map's (R349). -/
theorem coldSteps_of_early (h : coldDiffer i 4 = true) : (coldSteps s i).InNoImage 0x0B := by
  rw [coldDiffer_eq, coldDiffers_split i (mid := 2) (by decide) (by decide), coldDiffers_split i (lo := 3) (mid := 3) (by decide) (by decide)] at h
  rw [coldSteps_eq]
  split
  · exact enterNoImage_inNoImage ..
  split
  · exact enterNoImage_inNoImage ..
  split
  · exact enterNoImage_inNoImage ..
  · simp_all

/-- Gatehouses that agree until an image is selected, or none is (R352). -/
theorem coldSteps_of_agree (h : coldDiffer i 4 = false) : coldSteps s i =
    match (coldSelection s i).image with
    | none =>
      let t := enterNoImage (coldStepTwo s i) (s.now + 785000000) (coldSelection s i).failCode
      { t with boot := { t.boot with fallback := (coldSelection s i).fallback } }
    | some (isB, im) => coldApplied s i (coldMapped s i isB im (coldSelection s i)) := by
  rw [coldDiffer_eq, coldDiffers_split i (mid := 2) (by decide) (by decide), coldDiffers_split i (lo := 3) (mid := 3) (by decide) (by decide)] at h
  simp only [Bool.or_eq_false_iff] at h
  obtain ⟨h2, h3, h4⟩ := h
  rw [coldSteps_eq, h2, h3, h4]
  rfl

variable {m : State}

theorem coldApplied_of_mapDiffers (h : coldDiffers i 5 5 = true) : (coldApplied s i m).InNoImage 0x0B := by
  rw [coldApplied, if_pos h]
  exact enterNoImage_inNoImage ..

theorem coldApplied_of_wrong (h : coldDiffers i 5 5 = false) (hwrong : firmwareWrong i m.cfg = true) : (coldApplied s i m).InNoImage 0x0A := by
  rw [coldApplied, h, if_pos hwrong]
  exact enterNoImage_inNoImage ..

theorem coldApplied_of_late (h : coldDiffers i 5 5 = false) (hright : firmwareWrong i m.cfg = false) (hlate : coldDiffers i 6 15 = true) :
    (coldApplied s i m).InNoImage 0x0B := by
  rw [coldDiffers_split i (mid := 6) (by decide) (by decide), coldDiffers_split i (lo := 7) (mid := 7) (by decide) (by decide),
    coldDiffers_split i (lo := 8) (mid := 8) (by decide) (by decide)] at hlate
  rw [coldApplied, h, hright]
  rw [if_neg (by decide), if_neg (by decide)]
  split
  · exact enterNoImage_inNoImage ..
  split
  · exact enterNoImage_inNoImage ..
  split
  · exact enterNoImage_inNoImage ..
  split
  · exact enterNoImage_inNoImage ..
  · simp_all

theorem coldApplied_of_good (h : coldDiffers i 5 5 = false) (hright : firmwareWrong i m.cfg = false) (hlate : coldDiffers i 6 15 = false) :
    coldApplied s i m = openDevice (trainStacks m i (s.now + stepMs 7 * 1000000)) i s.now s.boot.cresetLatched := by
  rw [coldDiffers_split i (mid := 6) (by decide) (by decide), coldDiffers_split i (lo := 7) (mid := 7) (by decide) (by decide),
    coldDiffers_split i (lo := 8) (mid := 8) (by decide) (by decide)] at hlate
  simp only [Bool.or_eq_false_iff] at hlate
  obtain ⟨h6, h7, h8, h9⟩ := hlate
  rw [coldApplied, h, hright, h6, h7, h8, h9]
  rfl

/-- With nothing wrong the device runs: the selected image is in force and the Ledger opens 5.0 s after the start (R347, R358). -/
theorem coldApplied_runs {isB : Bool} {im : Image} {sel : Selection} (hlatched : s.boot.cresetLatched = none) (h : coldDiffers i 5 5 = false)
    (hright : firmwareWrong i (coldMapped s i isB im sel).cfg = false) (hlate : coldDiffers i 6 15 = false) :
    let t := coldApplied s i (coldMapped s i isB im sel)
    t.boot.phase = .running ∧ t.boot.step = 9 ∧ t.boot.imageVersion = im.header.version ∧ t.boot.slot = isB ∧ t.boot.fallback = sel.fallback ∧
    t.cfg = (coldMapped s i isB im sel).cfg ∧ t.boot.creset = none ∧ t.boot.faultN = false ∧ t.now = s.now + 5000000000 ∧ t.t0 = t.now / 10 := by
  obtain ⟨-, -, hmapped⟩ := coldMapped_leaves s i isB im sel
  rw [coldApplied_of_good h hright hlate, hlatched]
  generalize coldMapped s i isB im sel = m at hmapped
  obtain ⟨-, hboot, hcfg⟩ := trainStacks_coldLeaves m i (s.now + stepMs 7 * 1000000)
  obtain ⟨-, hopened, hkept, hnow, ht0⟩ := openDevice_leaves (trainStacks m i (s.now + stepMs 7 * 1000000)) i s.now
  rw [hboot, hmapped] at hopened
  simp only [hopened]
  exact ⟨trivial, trivial, trivial, trivial, trivial, hkept.trans hcfg, rfl, rfl, hnow, ht0⟩

/-- A cold start with no latched reset ends in NO_IMAGE or with the Ledger open, as its draws, answers and firmware say (R347 to R352). -/
theorem coldSteps_outcome (hlatched : s.boot.cresetLatched = none) :
    ColdOutcome i s.fuses (match i.programmed with | some p => p.1 | none => s.gate.slotA)
      (match i.programmed with | some p => p.2 | none => s.gate.slotB) s.now (coldSteps s i) := by
  obtain ⟨g, htwo, hslotA, hslotB, hnonce⟩ := coldStepTwo_leaves s i
  have hkept := coldSteps_coldKeeps (i := i) hlatched
  have hflash := hkept.flash
  have hpos := hkept.boardPos
  have hselection : coldSelection s i = selectSlot s.fuses (match i.programmed with | some p => p.1 | none => s.gate.slotA)
      (match i.programmed with | some p => p.2 | none => s.gate.slotB) i.answersA i.answersB := by
    rw [coldSelection, htwo, ← hslotA, ← hslotB]
  rw [htwo] at hflash hpos
  refine ⟨hflash.slotA.trans hslotA, hflash.slotB.trans hslotB, hflash.bootNonce.trans hnonce, hpos, ?_⟩
  extract_lets sel
  rw [show sel = coldSelection s i from hselection.symm]
  cases hdiffer : coldDiffer i 4 with
  | true => exact coldSteps_of_early hdiffer
  | false =>
    rw [coldSteps_of_agree hdiffer]
    cases himage : (coldSelection s i).image with
    | none => exact ⟨⟨rfl, rfl, rfl, rfl, rfl⟩, rfl⟩
    | some x =>
      obtain ⟨isB, im⟩ := x
      dsimp only
      obtain ⟨-, hcfg, hboot⟩ := coldMapped_leaves s i isB im (coldSelection s i)
      have hmap : coldDiffer i 5 = coldDiffers i 5 5 := by
        rw [coldDiffer_eq, coldDiffers_split i (mid := 4) (by decide) (by decide), ← coldDiffer_eq, hdiffer, Bool.false_or]
      have hlast : coldDiffer i 15 = (coldDiffers i 5 5 || coldDiffers i 6 15) := by
        rw [← hmap, coldDiffer_eq i 5, coldDiffer_eq, coldDiffers_split i (mid := 5) (by decide) (by decide)]
      rw [hmap, hlast, ← hcfg]
      change if coldDiffers i 5 5 = true then _ else if firmwareWrong i (coldMapped s i isB im (coldSelection s i)).cfg = true then _ else _
      cases hfive : coldDiffers i 5 5 with
      | true => exact coldApplied_of_mapDiffers hfive
      | false =>
        cases hwrong : firmwareWrong i (coldMapped s i isB im (coldSelection s i)).cfg with
        | true => exact coldApplied_of_wrong hfive hwrong
        | false =>
          cases hlate : coldDiffers i 6 15 with
          | true => exact coldApplied_of_late hfive hwrong hlate
          | false => exact coldApplied_runs hlatched hfive hwrong hlate

end

/-! ## The commands (R346, R347, R494) -/

/-- With POR_N asserted a cold start is held for its rails, or goes through its steps (R347, R494). -/
theorem exec_coldStart {s : State} (i : ColdInputs) (hphase : s.boot.phase = .por) : exec (.coldStart i) s = .next (
    if i.railsInRange then coldSteps (porState s) i
    else { porState s with boot := { Boot.por with phase := .railWait, inputs := some i, boardPos := i.boardPos } }) := by
  simp only [exec, execColdStart, hphase, if_true]

theorem exec_railsInRange {s : State} {i : ColdInputs} (hphase : s.boot.phase = .railWait) (hsafe : s.boot.safe = false)
    (hinputs : s.boot.inputs = some i) : exec .railsInRange s = .next (coldSteps s i) := by
  simp [exec, execRailsInRange, hphase, hsafe, hinputs]

/-- Settles O10, by how a cold start ends, and by what its steps leave of fuses, items, contexts and HBM3E. -/
theorem coldStartOpensLedger : Obligations.ColdStartOpensLedger := by
  refine ⟨fun i s hphase => ⟨_, exec_coldStart i hphase, ?_⟩, fun i s hphase hsafe hinputs hlatched =>
    ⟨_, exec_railsInRange hphase hsafe hinputs, ?_⟩⟩
  · cases hrails : i.railsInRange with
    | false => exact ⟨rfl, rfl, rfl, rfl, rfl, rfl, rfl, rfl⟩
    | true =>
      have hkept := coldSteps_coldKeeps (s := porState s) (i := i) rfl
      exact ⟨hkept.fuses, hkept.items, hkept.ctxs, hkept.hbm, coldSteps_outcome (s := porState s) rfl⟩
  · have hkept := coldSteps_coldKeeps (i := i) hlatched
    exact ⟨hkept.fuses, hkept.items, hkept.ctxs, hkept.hbm, coldSteps_outcome hlatched⟩

end Sys2Proof.Machine
end

section
/-! PROOF. The checks of a signed message in their order (R452, R453, R456), and the Gatehouse's commands that act on the running device (R331,
R359, R365, R366, R370, R401, R414, R443, R450, R453, R482, R484). -/

namespace Sys2Proof.Machine

/-! ## A message on its way out writes no error record and takes no time (R341, R409) -/

/-- What sending leaves: the error records, and the time. -/
structure OnlySent (a b : State) : Prop where
  errors : b.errors = a.errors
  now : b.now = a.now

theorem OnlySent.refl (s : State) : OnlySent s s := ⟨rfl, rfl⟩

theorem OnlySent.trans {a b c : State} (h : OnlySent a b) (k : OnlySent b c) : OnlySent a c := ⟨k.errors.trans h.errors, k.now.trans h.now⟩

theorem count_onlySent (s : State) (o : Occ) : OnlySent s (count s o) := by
  unfold count
  split <;> exact ⟨rfl, rfl⟩

theorem setPorch_onlySent (s : State) (p : Porch) : OnlySent s { s with porch := p } := ⟨rfl, rfl⟩

theorem State.modQp_onlySent (s : State) (q : Nat) (f : Qp → Qp) : OnlySent s (s.modQp q f) := ⟨rfl, rfl⟩

theorem chargeRate_onlySent (s : State) (w : PorchWait) : OnlySent s (chargeRate s w) := by
  unfold chargeRate
  split
  · split
    · exact State.modQp_onlySent ..
    · exact .refl s
  · exact .refl s

theorem State.sentOut_onlySent (s : State) (o : PorchOut) : OnlySent s (s.sentOut o) := (setPorch_onlySent ..).trans (count_onlySent ..)

theorem sendPart_onlySent (s : State) (p : PorchWait → Bool) (w : PorchWait) : OnlySent s (sendPart s p w) := by
  unfold sendPart
  extract_lets rest waits paid
  have hpaid : OnlySent s paid := (setPorch_onlySent s _).trans (chargeRate_onlySent ..)
  split
  · exact hpaid.trans (State.sentOut_onlySent ..)
  · exact hpaid

theorem sendFirst_onlySent (n : Nat) (s : State) : OnlySent s (sendFirst n s) := by
  induction n generalizing s with
  | zero => exact .refl s
  | succ n ih =>
    unfold sendFirst
    split
    · exact (sendPart_onlySent ..).trans (ih _)
    · exact .refl s

theorem sendPacketOf_onlySent (s : State) (q : Nat) : OnlySent s (sendPacketOf s q) := by
  unfold sendPacketOf
  split
  · exact .refl s
  · exact sendPart_onlySent ..

theorem sendData_onlySent (n : Nat) (s : State) : OnlySent s (sendData n s) := by
  induction n generalizing s with
  | zero => exact .refl s
  | succ n ih =>
    unfold sendData
    split
    · exact (setPorch_onlySent ..).trans ((sendPacketOf_onlySent ..).trans (ih _))
    · exact .refl s

theorem State.transmit_onlySent (s : State) : OnlySent s s.transmit := by
  unfold State.transmit
  split
  · exact (sendFirst_onlySent ..).trans (sendData_onlySent ..)
  · exact .refl s

theorem State.readyOut_onlySent (s : State) (o : PorchOut) (req : Option Nat) : OnlySent s (s.readyOut o req) := by
  unfold State.readyOut
  split
  · exact .refl s
  · exact (setPorch_onlySent ..).trans (State.transmit_onlySent _)

theorem State.sendHost_onlySent (s : State) (q : Nat) (item : Option ItemRef) (ctx : Option Nat) (p : Purpose) (len : Nat)
    (mk : BitVec 24 → PorchOut) (imm : Option (BitVec 32)) : OnlySent s (s.sendHost q item ctx p len mk imm) :=
  (State.readyOut_onlySent ..).trans ⟨rfl, rfl⟩

theorem ghReply_onlySent (s : State) (m : GhMsg) (status : Nat) (body : List W64) (data : List Byte) : OnlySent s (ghReply s m status body data) := by
  unfold ghReply
  extract_lets r
  split
  · exact State.sendHost_onlySent ..
  · exact .refl s

section
variable {s t : State} {m : GhMsg}

/-! ## The first check that fails (Table 7 of 17_security.md) -/

section
variable {code : Nat} {layout : List W64 → Bool} {own : State → GhMsg → Nat}

theorem checkMsg_of_badFormat (h : formatOk ⟨code, byOwner, layout, noOwn⟩ m = false) : checkMsg t ⟨code, byOwner, layout, own⟩ m = 0x02 :=
  if_pos h

variable (hformat : formatOk ⟨code, byOwner, layout, noOwn⟩ m = true)
include hformat

theorem checkMsg_of_noKey (hkey : ownerKey t.fuses (keyIdOf m) = none) : checkMsg t ⟨code, byOwner, layout, own⟩ m = 0x04 := by
  have hgood : formatOk ⟨code, byOwner, layout, own⟩ m = true := hformat
  rw [checkMsg, if_neg (by simp [hgood])]
  simp only [byOwner, hkey]
  rfl

variable {k : BitVec 512} (hkey : ownerKey t.fuses (keyIdOf m) = some k)
include hkey

/-- Under a usable key the target, the signature and the counter are checked, in this order. -/
theorem checkMsg_of_key : checkMsg t ⟨code, byOwner, layout, own⟩ m =
    if wd m.hdr 3 ≠ t.fuses.serial ∨ wd m.hdr 2 ≠ t.gate.bootNonce then 0x06
    else if blockValid (some k) (keyIdOf m) m.sig (Config.shake256 (signedBytes m)) = false then 0x03
    else if (counterOf m).toNat ≤ t.gate.lastCounter.toNat then 0x05
    else own t m := by
  have hgood : formatOk ⟨code, byOwner, layout, own⟩ m = true := hformat
  rw [checkMsg, if_neg (by simp [hgood])]
  simp only [byOwner, hkey]
  rfl

theorem checkMsg_of_otherTarget (h : wd m.hdr 3 ≠ t.fuses.serial ∨ wd m.hdr 2 ≠ t.gate.bootNonce) :
    checkMsg t ⟨code, byOwner, layout, own⟩ m = 0x06 := (checkMsg_of_key hformat hkey).trans (if_pos h)

variable (hserial : wd m.hdr 3 = t.fuses.serial) (hnonce : wd m.hdr 2 = t.gate.bootNonce)
include hserial hnonce

theorem checkMsg_of_badSignature (h : blockValid (some k) (keyIdOf m) m.sig (Config.shake256 (signedBytes m)) = false) :
    checkMsg t ⟨code, byOwner, layout, own⟩ m = 0x03 := by
  rw [checkMsg_of_key hformat hkey, if_neg (by simp [hserial, hnonce]), if_pos h]

theorem checkMsg_of_stale (hsignature : blockValid (some k) (keyIdOf m) m.sig (Config.shake256 (signedBytes m)) = true)
    (h : (counterOf m).toNat ≤ t.gate.lastCounter.toNat) : checkMsg t ⟨code, byOwner, layout, own⟩ m = 0x05 := by
  rw [checkMsg_of_key hformat hkey, if_neg (by simp [hserial, hnonce]), if_neg (by simp [hsignature]), if_pos h]

end

/-- A message that fails a check is answered with its status and has no effect (R452). -/
theorem runMsg_of_failed {c : Cmd} {effect : State → State} {st : Nat} (htake : takeMsg s m c.code = some t) (hcheck : checkMsg t c m = st)
    (hst : st ≠ 0) : runMsg s c m effect = clearUnknown (ghReply t m st [] []) := by
  simp only [runMsg, htake, hcheck, if_neg hst]

/-- The commands that an owner key signs: each with its message, code and layout. -/
def ownerSigned (m : GhMsg) : List (Instr × Nat × (List W64 → Bool)) :=
  [(.selectVariant m, cmdSelectVariant, bodyIs [0xF]), (.imageWrite m, cmdImageWrite, bodyIs ((2 ^ 32 - 1) :: List.replicate 8 all64)),
    (.qpReset m, cmdQpReset, bodyIs [0xFFF, 2 ^ 64 - 2 ^ 16]), (.computeReset m, cmdComputeReset, bodyIs []),
    (.contextReset m, cmdContextReset, bodyIs [0x3F]), (.stackRetrain m, cmdStackRetrain, bodyIs [0x1F]),
    (.fenceClear m, cmdFenceClear, bodyIs [0x3F]), (.safeState m, cmdSafeState, bodyIs []),
    (.rollbackRaise m, cmdRollbackRaise, bodyIs [0x3FF]), (.keyEnroll m, cmdKeyEnroll, bodyIs (List.replicate 8 all64)),
    (.controlWrite m, cmdControlWrite, bodyIs [2 ^ 48 - 1, all64])]

/-- Each of them checks its message under the owner key, with conditions and an effect of its own. -/
theorem exec_ownerSigned : ∀ e ∈ ownerSigned m, ∃ own effect, exec e.1 s = .next (runMsg s ⟨e.2.1, byOwner, e.2.2, own⟩ m effect) := by
  simp only [ownerSigned, List.forall_mem_cons]
  exact ⟨⟨_, _, rfl⟩, ⟨_, _, rfl⟩, ⟨_, _, rfl⟩, ⟨_, _, rfl⟩, ⟨_, _, rfl⟩, ⟨_, _, rfl⟩, ⟨_, _, rfl⟩, ⟨_, _, rfl⟩, ⟨_, _, rfl⟩, ⟨_, _, rfl⟩,
    ⟨_, _, rfl⟩, by simp⟩

end

/-- Settles O56, by the first check that fails and by what a failed message leaves. -/
theorem gatehouseChecksInOrder : Obligations.GatehouseChecksInOrder := by
  intro m s t e he htake
  extract_lets fmt
  obtain ⟨own, effect, hexec⟩ := exec_ownerSigned (s := s) e he
  have hfails {st : Nat} (hst : st ≠ 0) (hcheck : checkMsg t ⟨e.2.1, byOwner, e.2.2, own⟩ m = st) :
      exec e.1 s = .next (clearUnknown (ghReply t m st [] [])) := by
    rw [hexec, runMsg_of_failed htake hcheck hst]
  refine ⟨fun hbad => hfails (by decide) (checkMsg_of_badFormat hbad),
    fun hformat hkey => hfails (by decide) (checkMsg_of_noKey hformat hkey), fun k hformat hkey =>
    ⟨fun htarget => hfails (by decide) (checkMsg_of_otherTarget hformat hkey htarget), fun hserial hnonce =>
      ⟨fun hbad => hfails (by decide) (checkMsg_of_badSignature hformat hkey hserial hnonce hbad), fun hsignature hstale =>
        hfails (by decide) (checkMsg_of_stale hformat hkey hserial hnonce hsignature hstale)⟩⟩⟩

/-! ## The commands that act on the running device -/

section
variable {s t : State} {m : GhMsg}

theorem refusedUnless_of_true {b : Bool} (h : b = true) : refusedUnless b = 0 := if_pos h

theorem refusedUnless_of_false {b : Bool} (h : b = false) : refusedUnless b = 0x08 := if_neg (by simp [h])

@[simp] theorem heard_fuses : (heard t m).fuses = t.fuses := (count_fuses ..).trans (count_fuses ..)

/-! ### Without a signature (R443, R450, R453) -/

theorem exec_getIdentity (htake : takeMsg s m 0x01 = some t) (hformat : formatOk ⟨0x01, none, bodyIs [], noOwn⟩ m = true) :
    exec (.getIdentity m) s = .next (clearUnknown (ghReply (heard t m) m 0 [] (padTo 29984 t.fuses.certificate))) := by
  refine congrArg Host.Outcome.next ((runMsg_of_unsigned_ok htake hformat rfl).trans ?_)
  rw [heard_fuses]
  rfl

theorem exec_getNonce (htake : takeMsg s m 0x02 = some t) (hformat : formatOk ⟨0x02, none, bodyIs [], noOwn⟩ m = true) :
    exec (.getNonce m) s = .next (clearUnknown
      (ghReply (heard t m) m 0 [t.gate.bootNonce, t.gate.lastCounter.setWidth 64, t.fuses.serial, 0] [])) := by
  refine congrArg Host.Outcome.next ((runMsg_of_unsigned_ok htake hformat rfl).trans ?_)
  rw [heard_fuses, heard_gate]
  rfl

section
variable (htake : takeMsg s m 0x03 = some t)
  (hformat : formatOk ⟨0x03, none, bodyIs (List.replicate 8 all64 ++ [2 ^ 32 - 1] ++ List.replicate 7 0), noOwn⟩ m = true)
include htake hformat

theorem exec_quote_of_held (hlow : chainFirst t.gate ≤ quoteStart m) (hhigh : quoteStart m < t.gate.chainTotal) : exec (.quote m) s =
    .next (clearUnknown (ghReply (heard t m) m 0 [] (quoteBytes (heard t m) (m.body.take 8) (quoteStart m)))) :=
  congrArg Host.Outcome.next (runMsg_of_unsigned_ok htake hformat (refusedUnless_of_true (by simp [hlow, hhigh])))

theorem exec_quote_of_notHeld (h : quoteStart m < chainFirst t.gate ∨ t.gate.chainTotal ≤ quoteStart m) :
    exec (.quote m) s = .next (clearUnknown (ghReply t m 0x08 [] [])) :=
  congrArg Host.Outcome.next (runMsg_of_unsigned_refused htake hformat (refusedUnless_of_false (by simp; omega)) (by decide))

end

theorem okThen_eq (f : State → State) : okThen m f s = f (ghReply s m 0 [] []) := rfl

/-! ### Resets (R359, R366, R370, R482) -/

section
variable (htake : takeMsg s m 0x14 = some t) (hsigned : SignedOk t m 0x14 (bodyIs []))
include htake hsigned

theorem exec_computeReset_of_live (hsafe : t.boot.safe = false) :
    exec (.computeReset m) s = .next (clearUnknown (startCReset (ghReply (accepted t m 0x14) m 0 [] []) false none)) := by
  refine congrArg Host.Outcome.next ((runMsg_of_signed_ok htake hsigned rfl (refusedUnless_of_true (by simp [hsafe]))).trans ?_)
  rw [okThen_eq]

theorem exec_computeReset_of_safe (hsafe : t.boot.safe = true) : exec (.computeReset m) s = .next (clearUnknown (ghReply t m 0x08 [] [])) :=
  congrArg Host.Outcome.next (runMsg_of_signed_refused htake hsigned rfl (refusedUnless_of_false (by simp [hsafe])) (by decide))

end

section
variable (htake : takeMsg s m 0x10 = some t) (hsigned : SignedOk t m 0x10 (bodyIs [0xF]))
include htake hsigned

theorem exec_selectVariant_of_live (hv : bits (wd m.body 0) 3 0 ≤ variantsM1 t) (hsafe : t.boot.safe = false) :
    exec (.selectVariant m) s = .next (clearUnknown (startCReset
      (ghReply (accepted t m 0x10) m 0 [] []) false (some (BitVec.ofNat 4 (bits (wd m.body 0) 3 0))))) := by
  refine congrArg Host.Outcome.next ((runMsg_of_signed_ok htake hsigned rfl (refusedUnless_of_true (by simp [hv, hsafe]))).trans ?_)
  rw [okThen_eq]

theorem exec_selectVariant_refused (h : variantsM1 t < bits (wd m.body 0) 3 0 ∨ t.boot.safe = true) :
    exec (.selectVariant m) s = .next (clearUnknown (ghReply t m 0x08 [] [])) :=
  congrArg Host.Outcome.next (runMsg_of_signed_refused htake hsigned rfl (refusedUnless_of_false (by simpa [or_iff_not_imp_left] using h)) (by decide))

end

section
variable (htake : takeMsg s m 0x15 = some t) (hsigned : SignedOk t m 0x15 (bodyIs [0x3F]))
include htake hsigned

theorem exec_contextReset_of_defined (h : (t.ctxCfg (bits (wd m.body 0) 5 0)).isSome = true) : exec (.contextReset m) s =
    .next (clearUnknown (ghReply (writeCtxReset (accepted t m 0x15) (bits (wd m.body 0) 5 0)) m 0 [] [])) :=
  congrArg Host.Outcome.next (runMsg_of_signed_ok htake hsigned rfl (refusedUnless_of_true h))

theorem exec_contextReset_of_undefined (h : t.ctxCfg (bits (wd m.body 0) 5 0) = none) :
    exec (.contextReset m) s = .next (clearUnknown (ghReply t m 0x08 [] [])) :=
  congrArg Host.Outcome.next (runMsg_of_signed_refused htake hsigned rfl (refusedUnless_of_false (by simp [h])) (by decide))

end

/-! ### Stacks, queue pairs and fences (R331, R365, R401) -/

theorem exec_stackRetrain (htake : takeMsg s m 0x16 = some t) (hsigned : SignedOk t m 0x16 (bodyIs [0x1F])) (h : bits (wd m.body 0) 4 0 < 24) :
    exec (.stackRetrain m) s = .next (clearUnknown (ghReply ((accepted t m 0x16).modMem
      (fun y => modStack y (bits (wd m.body 0) 4 0) (fun k => if k.service = 1 then k else k.retrain (accepted t m 0x16).now))) m 0 [] [])) :=
  congrArg Host.Outcome.next (runMsg_of_signed_ok htake hsigned rfl (refusedUnless_of_true (by simp [h])))

theorem exec_qpReset {k : QpCfg} (htake : takeMsg s m 0x13 = some t) (hsigned : SignedOk t m 0x13 (bodyIs [0xFFF, 2 ^ 64 - 2 ^ 16]))
    (hdefined : t.qpCfg (bits (wd m.body 0) 11 0) = some k) (hkept : (accepted t m 0x13).qpCfg (bits (wd m.body 0) 11 0) = some k) :
    exec (.qpReset m) s = .next (clearUnknown (ghReply (resetQp (accepted t m 0x13) k (BitVec.ofNat 24 (bits (wd m.body 1) 63 40))
      (BitVec.ofNat 24 (bits (wd m.body 1) 39 16))) m 0 [] [])) := by
  refine congrArg Host.Outcome.next ((runMsg_of_signed_ok htake hsigned rfl (refusedUnless_of_true (by simp [hdefined]))).trans ?_)
  rw [thenOk, hkept]
  rfl

theorem exec_fenceClear (htake : takeMsg s m 0x17 = some t) (hsigned : SignedOk t m 0x17 (bodyIs [0x3F]))
    (hfenced : fenceEntries t (bits (wd m.body 0) 5 0) ≠ []) : ∃ u, exec (.fenceClear m) s = .next (clearUnknown (ghReply u m 0 [] [])) ∧
      u.gate.log = (accepted t m 0x17).gate.log.map
        (fun e => if e.kind = 3 ∧ e.face = bits (wd m.body 0) 5 0 then { e with cleared := true } else e) :=
  ⟨_, congrArg Host.Outcome.next (runMsg_of_signed_ok htake hsigned rfl (refusedUnless_of_true (by simpa using hfenced))), rfl⟩

/-! ### SAFE_STATE and CONTROL_WRITE (R412, R414, R482) -/

theorem exec_safeState (htake : takeMsg s m 0x18 = some t) (hsigned : SignedOk t m 0x18 (bodyIs [])) :
    exec (.safeState m) s = .next (clearUnknown (enterSafe (raiseError (ghReply (accepted t m 0x18) m 0 [] [])
      { cls := 0x14, sev := sevDevice, unit := 0xFF, item := none, ctx := none, detail := [] }) (fun _ => codeSafeState) (accepted t m 0x18).nextError)) := by
  refine congrArg Host.Outcome.next ((runMsg_of_signed_ok htake hsigned rfl rfl).trans ?_)
  have hnext : State.nextError (ghReply (accepted t m 0x18) m 0 [] []) = (accepted t m 0x18).nextError := by
    rw [State.nextError, (ghReply_onlySent ..).errors, State.nextError]
  rw [okThen_eq, hnext]

theorem exec_controlWrite (htake : takeMsg s m 0x1C = some t) (hsigned : SignedOk t m 0x1C (bodyIs [2 ^ 48 - 1, all64])) :
    exec (.controlWrite m) s = .next (clearUnknown (ghReply (if bits (wd m.body 0) 47 0 % 8 = 0
      then regWrite (accepted t m 0x1C) .all (bits (wd m.body 0) 47 0) (wd m.body 1) else accepted t m 0x1C) m 0 [] [])) :=
  congrArg Host.Outcome.next (runMsg_of_signed_ok htake hsigned rfl rfl)

end

/-- Settles O57, command by command: an accepted message has its command's effect and reply, one that its own conditions refuse none. -/
theorem gatehouseCommandsAct : Obligations.GatehouseCommandsAct := fun _ _ _ =>
  ⟨exec_getIdentity, exec_getNonce,
    fun htake hformat => ⟨exec_quote_of_held htake hformat, exec_quote_of_notHeld htake hformat⟩,
    fun htake hsigned => ⟨exec_computeReset_of_live htake hsigned, exec_computeReset_of_safe htake hsigned⟩,
    fun htake hsigned => ⟨exec_selectVariant_of_live htake hsigned, exec_selectVariant_refused htake hsigned⟩,
    fun htake hsigned => ⟨exec_contextReset_of_defined htake hsigned, exec_contextReset_of_undefined htake hsigned⟩,
    exec_stackRetrain, fun _ => exec_qpReset, exec_fenceClear, exec_safeState, exec_controlWrite⟩

end Sys2Proof.Machine
end

section
/-! PROOF. SNAPSHOT items (R422, R424, R428, R431, R435, R436, R438, R439). -/

namespace Sys2Proof.Machine

theorem snapItem_eq_some {s : State} {c seq : Nat} {i : Item} {v : SurvivalCfg} (hrunning : runningItem s c seq kSnap = some i)
    (hsurvival : s.cfg.survival = some v) : snapItem s c seq (snapD i.words).action = some (i, snapD i.words, v) := by
  simp [snapItem, hrunning, hsurvival]

section
variable {c : CtxIx} {seq : Nat} {s : State} {i : Item} {d : SnapD} {v : SurvivalCfg}

/-! ## The commands of a running SNAPSHOT -/

theorem exec_secure (h : snapItem s c.val seq 0 = some (i, d, v)) : exec (.secure c seq) s = .next (runSecure s i d v) := by
  simp only [exec, execSecure, h]

theorem exec_priv (h : snapItem s c.val seq 1 = some (i, d, v)) : exec (.priv c seq) s = .next (runPriv s i d v) := by
  simp only [exec, execPriv, h]

theorem exec_close (h : snapItem s c.val seq 2 = some (i, d, v)) : exec (.close c seq) s = .next (runClose s i d v) := by
  simp only [exec, execClose, h]

theorem exec_eval (h : snapItem s c.val seq 3 = some (i, d, v)) : exec (.eval c seq) s = .next (runEval s i d v) := by
  simp only [exec, execEval, h]

theorem exec_restore (h : snapItem s c.val seq 4 = some (i, d, v)) : exec (.restore c seq) s = .next (runRestore s i d v) := by
  simp only [exec, execRestore, h]

/-! ## SECURE (R422, R424, R428) -/

/-- How a SECURE goes on with its source (R424). The reads of the tensor and of the last copy are parameters, so that no proof evaluates them. -/
def secureFrom (read : State → Nat → Got) (last : State → Nat → State × Option Nat) (i : Item) (d : SnapD) (v : SurvivalCfg) (p : State × Source) :
    State := match p with
  | (s, .fail c) => failItem s i.ref c none
  | (s, .wait) => s
  | (s, .at_ a version) => match read s a with
    | .fail s c => failItem s i.ref c none
    | .wait s => s
    | .ok s bss =>
      match last s version with
      | (s, some adv) => secureBytes s i d v version adv (bss.headD [])
      | (s, none) => s

section
variable {read : State → Nat → Got} {last : State → Nat → State × Option Nat} {x y z : State} {a version : Nat} {bss : List (List Byte)}
  (hread : read x a = .ok y bss)
include hread

theorem secureFrom_of_advance {adv : Nat} (hlast : last y version = (z, some adv)) :
    secureFrom read last i d v (x, .at_ a version) = secureBytes z i d v version adv (bss.headD []) := by
  simp only [secureFrom, hread, hlast]

theorem secureFrom_of_held (hlast : last y version = (z, none)) : secureFrom read last i d v (x, .at_ a version) = z := by
  simp only [secureFrom, hread, hlast]

end

theorem runSecure_eq (s : State) (i : Item) (d : SnapD) (v : SurvivalCfg) : runSecure s i d v =
    if i.shipped then parityAdvance s i.ref
    else if d.round ≠ lastRound s + 1 then endItem s i.ref .rejected 0x73 0
    else secureFrom (fun x a => getRanges x i.ref none [(a, d.bytes)]) (fun y version => advOf y v d version) i d v
      (secureSource (beginRound s d) i d) := rfl

theorem runSecure_of_shipped (h : i.shipped = true) : runSecure s i d v = parityAdvance s i.ref := if_pos h

section
variable (hfresh : i.shipped = false)
include hfresh

theorem runSecure_of_wrongRound (h : d.round ≠ lastRound s + 1) : runSecure s i d v = endItem s i.ref .rejected 0x73 0 := by
  rw [runSecure, if_neg (by simp [hfresh]), if_pos h]

section
variable {x y : State} {a version : Nat} {bss : List (List Byte)} (hround : d.round = lastRound s + 1)
  (hsource : secureSource (beginRound s d) i d = (x, .at_ a version)) (hread : itemReads x i.ref none [(a, d.bytes)] = (y, some bss, none))
include hround hsource

theorem runSecure_of_source : runSecure s i d v =
    secureFrom (fun x a => getRanges x i.ref none [(a, d.bytes)]) (fun y version => advOf y v d version) i d v (x, .at_ a version) := by
  have hnew : ¬ i.shipped = true := by simp [hfresh]
  rw [runSecure_eq, if_neg hnew, if_neg (not_not_intro hround), hsource]

include hread

theorem runSecure_of_advance {z : State} {adv : Nat} (h : advOf y v d version = (z, some adv)) :
    runSecure s i d v = secureBytes z i d v version adv (bss.headD []) :=
  (runSecure_of_source hfresh hround hsource).trans (secureFrom_of_advance (getRanges_of_data hread) h)

theorem runSecure_of_held {z : State} (h : advOf y v d version = (z, none)) : runSecure s i d v = z :=
  (runSecure_of_source hfresh hround hsource).trans (secureFrom_of_held (getRanges_of_data hread) h)

end

/-! ## CLOSE (R428) -/

theorem runClose_of_wrongRound (h : d.round ≠ lastRound s + 1) : runClose s i d v = endItem s i.ref .rejected 0x73 0 := by
  rw [runClose, if_neg (by simp [hfresh]), if_pos (.inl h)]

theorem runClose_of_secured {g : Group} (hround : d.round = lastRound s + 1)
    (hcount : d.count ≤ (if s.attic.round = d.round then s.attic.secured else 0)) (hgroup : groupAt s (runGroup v) = some g) :
    let cost := if s.attic.round = d.round then (i.startAt.getD s.now - s.attic.firstAt) / 1000 else 0
    let k := keepReport (s.modItem i.ref (fun j => { j with shipped := true })) d.round g.rank cost
    runClose s i d v = closeAdvance (if 1 < g.n ∧ g.rank < g.n then sendReport k v g d.round g.rank cost d.step else k) i d v := by
  have hgood : ¬ (d.round ≠ lastRound s + 1 ∨ (if s.attic.round = d.round then s.attic.secured else 0) < d.count) := by omega
  have hnew : ¬ i.shipped = true := by simp [hfresh]
  rw [runClose, if_neg hnew, if_neg hgood]
  simp only [hgroup]

end

theorem runClose_of_shipped (h : i.shipped = true) : runClose s i d v = closeAdvance s i d v := if_pos h

/-! ## PRIV (R431) -/

/-- The place of a PRIV's entry in the ring of a device, from an offset of its Attic. -/
def privEntry (v : SurvivalCfg) (d : SnapD) (dev off : Nat) : Nat := atticAddr v dev (off + 8192 * (d.step % Nat.max 1 (privDepth v)))

section
variable {t x : State} {bss : List (List Byte)} (hread : itemReads s i.ref none [(d.src, d.bytes)] = (t, some bss, none))
  (hnear : writeCopy t i.ref (privEntry v d t.deviceNumber d.localOff) (privEntry v d t.deviceNumber d.localOff + 64)
    (headWord (lastRound t) 0 methodPriv) (headRest d.step 0 d.bytes) (bss.headD []) = (x, none))
include hread hnear

theorem runPriv_of_noBuddy (h : buddyEn v = false) : runPriv s i d v = issued x i.ref := by
  unfold privEntry at hnear
  simp only [runPriv, getRanges_of_data hread, hnear, h, Bool.false_eq_true, if_false]

theorem runPriv_of_buddy {y : State} (h : buddyEn v = true)
    (hfar : writeCopy x i.ref (privEntry v d (buddyDevice v) d.remoteOff) (privEntry v d (buddyDevice v) d.remoteOff + 64)
      (headWord (lastRound t) 0 methodPriv) (headRest d.step 0 d.bytes) (bss.headD []) = (y, none)) : runPriv s i d v = issued y i.ref := by
  unfold privEntry at hnear hfar
  simp only [runPriv, getRanges_of_data hread, hnear, h, if_true, hfar]

end

/-! ## EVAL and RESTORE (R435, R436, R438) -/

theorem runEval_of_shipped (h : i.shipped = true) : runEval s i d v = shipEval s i d v := if_pos h

theorem runEval_of_pinned {a b p : Nat} (h : i.shipped = false) (hpin : i.ownPin = some (a, b, p)) :
    runEval s i d v = packEval s i d v a b := by
  rw [runEval, if_neg (by simp [h])]
  simp only [hpin]

theorem runRestore_of_local (h : d.source = 0) : runRestore s i d v = restoreCopy s i d (atticAddr v s.deviceNumber d.localOff) := if_pos h

theorem runRestore_of_member (h : d.source = 1) : runRestore s i d v = restoreCopy s i d (atticAddr v d.member d.localOff) := by
  rw [runRestore, if_neg (by omega), if_pos h]

theorem runRestore_of_mirror (h : d.source = 2) : runRestore s i d v = restoreCopy s i d (atticAddr v d.via d.remoteOff) := by
  rw [runRestore, if_neg (by omega), if_neg (by omega), if_pos h]

theorem runRestore_of_parity (h : d.source = 3) : runRestore s i d v = restoreParity s i d v := by
  rw [runRestore, if_neg (by omega), if_neg (by omega), if_neg (by omega)]

/-! ## REFORM (R439) -/

theorem exec_reform (h : reformItem s c.val seq = some i) :
    exec (.reform c seq) s = .next (runReform (startItem s i.ref id) i (snapD i.words)) := by
  simp only [exec, execReform, h]

section
variable {t : State} {g : Group} {bs : List Byte} (hgroup : groupAt s d.group = some g)
  (hmask : itemRead s i.ref none d.mask (maskBytes s d.group) = (t, .ok bs))
include hgroup hmask

theorem runReform_of_few (h : (reformGroup g (maskRanks g.n bs)).n < 2) : runReform s i d = endItem t i.ref .rejected 0x75 0 := by
  simp only [runReform, hgroup, hmask, if_pos h]

theorem runReform_of_enough (h : ¬ (reformGroup g (maskRanks g.n bs)).n < 2) : runReform s i d = endItem { t with
    cfg := { t.cfg with groups := t.cfg.groups.map (fun x => if x.index = g.index then reformGroup g (maskRanks g.n bs) else x) },
    collNext := t.collNext.filter (fun x => x.1 != g.index), colls := t.colls.filter (fun x => x.group != g.index),
    lateCopies := t.lateCopies.filter (fun x => x.group != g.index) }
    i.ref .done 0 (BitVec.ofNat 32 (reformGroup g (maskRanks g.n bs)).n) := by
  simp only [runReform, hgroup, hmask, if_neg h]

end

end

/-! ## The statement -/

/-- Settles O43, action by action: what each does with its round, the ranges it has read and the copies it has written. -/
theorem snapshotsActAsTold : Obligations.SnapshotsActAsTold := by
  refine ⟨fun c seq s i v hlive hitem hstage hkind hsurvival => ?_, fun c seq s u t i g bs hitem hu hgroup hmask => ?_⟩
  · extract_lets d
    have hsnap {n : Nat} (h : d.action = n) : snapItem s c.val seq n = some (i, d, v) := by
      rw [← h]
      exact snapItem_eq_some (runningItem_eq_some hlive hitem hstage hkind) hsurvival
    refine ⟨fun ha hshipped => ?_, fun ha hfresh hround => ?_, fun ha hfresh hround x a version hsource y bss hread => ⟨fun z adv hadv => ?_, fun z hadv => ?_⟩,
      fun ha t bss hread x hnear => ⟨fun hbuddy => ?_, fun hbuddy y hfar => ?_⟩, fun ha hshipped => ?_, fun ha hfresh hround => ?_,
      fun ha hfresh hround hcount g hgroup => ?_, fun ha hshipped => ?_, fun ha hfresh a b x hpin => ?_,
      fun ha => ⟨fun h => ?_, fun h => ?_, fun h => ?_, fun h => ?_⟩⟩
    · rw [exec_secure (hsnap ha), runSecure_of_shipped hshipped]
    · rw [exec_secure (hsnap ha), runSecure_of_wrongRound hfresh hround]
    · rw [exec_secure (hsnap ha), runSecure_of_advance hfresh hround hsource hread hadv]
    · rw [exec_secure (hsnap ha), runSecure_of_held hfresh hround hsource hread hadv]
    · rw [exec_priv (hsnap ha), runPriv_of_noBuddy hread hnear hbuddy]
    · rw [exec_priv (hsnap ha), runPriv_of_buddy hread hnear hbuddy hfar]
    · rw [exec_close (hsnap ha), runClose_of_shipped hshipped]
    · rw [exec_close (hsnap ha), runClose_of_wrongRound hfresh hround]
    · rw [exec_close (hsnap ha), runClose_of_secured hfresh hround hcount hgroup]
    · rw [exec_eval (hsnap ha), runEval_of_shipped hshipped]
    · rw [exec_eval (hsnap ha), runEval_of_pinned hfresh hpin]
    · rw [exec_restore (hsnap ha), runRestore_of_local h]
    · rw [exec_restore (hsnap ha), runRestore_of_member h]
    · rw [exec_restore (hsnap ha), runRestore_of_mirror h]
    · rw [exec_restore (hsnap ha), runRestore_of_parity h]
  · subst hu
    rw [exec_reform hitem]
    exact ⟨fun h => congrArg _ (runReform_of_few hgroup hmask h), fun h => congrArg _ (runReform_of_enough hgroup hmask h)⟩

end Sys2Proof.Machine
end

section
/-! SUPPORT. A change of caps and the levels that follow it (R69, R375 to R379, R384, R393): what it leaves of the Hearth, and of each die. -/

namespace Sys2Proof.Machine

/-! ## What time leaves (R69, R393) -/

/-- A Hearth of which only the throttle counters are brought up to date (R393). -/
def SameHearth (a b : Hearth) : Prop := b = { a with throttle := b.throttle, throttleMarks := b.throttleMarks, throttleAt := b.throttleAt }

theorem SameHearth.counted (h : Hearth) (throttle : List (BitVec 56)) (marks : List Nat) (at_ : Nat) :
    SameHearth h { h with throttle := throttle, throttleMarks := marks, throttleAt := at_ } := rfl

theorem SameHearth.groups {a b : Hearth} (h : SameHearth a b) : b.groups = a.groups := by rw [h]

theorem Levels.now {a b : State} (h : Levels a b) : b.now = a.now := by rw [h]

theorem Levels.cfg {a b : State} (h : Levels a b) : b.cfg = a.cfg := by rw [h]

/-- A die whose Face time is brought up to a moment. -/
def Die.synced (now : Nat) (d : Die) : Die := { d with faceUnits := d.unitsAt now, faceUnitsAt := now }

theorem count_dies (s : State) (o : Occ) : (count s o).dies = s.dies := by
  unfold count
  split <;> rfl

theorem count_hearth (s : State) (o : Occ) : (count s o).hearth = s.hearth := by
  unfold count
  split <;> rfl

theorem countStretch_leaves (s : State) : (countStretch s).dies = s.dies ∧ (countStretch s).hearth = s.hearth := by
  refine List.foldlRecOn (motive := fun t : State => t.dies = s.dies ∧ t.hearth = s.hearth) _ _ ⟨rfl, rfl⟩ fun t ht n _ => ?_
  dsimp only
  split
  · exact ht
  · exact ⟨(count_dies ..).trans ht.1, (count_hearth ..).trans ht.2⟩

theorem syncUnits_dies (s : State) : (syncUnits s).dies = s.dies.map (Die.synced s.now) := rfl

theorem accrue_dies (s : State) : (accrue s).dies = s.dies.map (Die.synced s.now) := by
  unfold accrue
  rw [State.modHearth_dies, syncUnits_dies, (countStretch_leaves s).1, (countStretch_levels s).now]

theorem syncUnits_hearth (s : State) : (syncUnits s).hearth = s.hearth := rfl

theorem accrue_hearth (s : State) : SameHearth s.hearth (accrue s).hearth := by
  unfold accrue
  rw [State.modHearth_hearth, syncUnits_hearth, (countStretch_leaves s).2]
  exact SameHearth.counted ..

theorem accrue_now (s : State) : (accrue s).now = s.now := (accrue_levels s).now

theorem accrue_cfg (s : State) : (accrue s).cfg = s.cfg := (accrue_levels s).cfg

theorem accrue_die_of {s : State} {n : Nat} {x : Die} (h : s.dies[n]? = some x) : (accrue s).dies[n]? = some (x.synced s.now) := by
  rw [accrue_dies, List.getElem?_map, h, Option.map_some]

/-! ## What a change of levels leaves (R376 to R378) -/

/-- A die of which only the level, the generators and the Face time have moved. -/
def Moved (x y : Die) : Prop := y = { x with
  level := y.level, target := y.target, locked := y.locked, locking := y.locking, generator := y.generator, faceUnits := y.faceUnits
  faceUnitsAt := y.faceUnitsAt }

theorem Moved.trans {x y z : Die} (h : Moved x y) (k : Moved y z) : Moved x z := by
  unfold Moved at h k ⊢
  exact k.trans (by rw [h])

theorem Moved.switched (x : Die) (level generator : Nat) : Moved x { x with level := level, locked := false, generator := generator } := rfl

theorem Die.synced_moved (now : Nat) (x : Die) : Moved x (x.synced now) := rfl

theorem beginChange_moved (s : State) (x : Die) : Moved x (beginChange s x) := by
  unfold beginChange
  extract_lets eff
  split <;> rfl

theorem takeTarget_moved (s : State) (x : Die) : Moved x (takeTarget s x) := by
  unfold takeTarget
  extract_lets eff
  split
  · rfl
  split <;> rfl

theorem takeTarget_level (s : State) (x : Die) : (takeTarget s x).level = x.level := by
  unfold takeTarget
  extract_lets eff
  split
  · rfl
  split <;> rfl

theorem trySwitch_moved (s : State) (n : Nat) (x : Die) : Moved x (trySwitch s n x) := by
  unfold trySwitch
  extract_lets g
  split
  · exact Moved.trans (Moved.switched x _ _) (takeTarget_moved ..)
  · rfl

/-- The dies as they begin the changes that their caps ask for. -/
def changesBegun (s : State) : State := { accrue s with dies := (accrue s).dies.map (beginChange (accrue s)) }

theorem changesBegun_dies (s : State) : (changesBegun s).dies = (accrue s).dies.map (beginChange (accrue s)) := by
  simp only [changesBegun]

theorem moveLevels_dies (s : State) :
    (moveLevels s).dies = ((changesBegun s).dies.zip (List.range 32)).map (fun x => trySwitch (changesBegun s) x.2 x.1) := by
  simp only [moveLevels, changesBegun]

theorem moveLevels_hearth (s : State) : SameHearth s.hearth (moveLevels s).hearth := accrue_hearth s

theorem moveLevels_now (s : State) : (moveLevels s).now = s.now := (moveLevels_levels s).now

theorem moveLevels_dies_length (s : State) : (moveLevels s).dies.length = Nat.min s.dies.length 32 := by
  rw [moveLevels_dies, List.length_map, List.length_zip, List.length_range, changesBegun, List.length_map, accrue_dies, List.length_map]

/-- Die n after a change of levels: its Face time synced, its change begun, and switched where it can (R377, R378). -/
theorem moveLevels_die {s : State} {n : Nat} {x : Die} (hn : n < 32) (h : s.dies[n]? = some x) :
    (moveLevels s).dies[n]? = some (trySwitch (changesBegun s) n (beginChange (accrue s) (x.synced s.now))) := by
  have hbegun : (changesBegun s).dies[n]? = some (beginChange (accrue s) (x.synced s.now)) := by
    rw [changesBegun, List.getElem?_map, accrue_die_of h, Option.map_some]
  have hzip : ((changesBegun s).dies.zip (List.range 32))[n]? = some (beginChange (accrue s) (x.synced s.now), n) :=
    List.getElem?_zip_eq_some.mpr ⟨hbegun, List.getElem?_range hn⟩
  rw [moveLevels_dies, List.getElem?_map, hzip, Option.map_some]

theorem moveLevels_die_moved {s : State} {n : Nat} {x : Die} (hn : n < 32) (h : s.dies[n]? = some x) :
    ∃ y, (moveLevels s).dies[n]? = some y ∧ Moved x y :=
  ⟨_, moveLevels_die hn h, ((Die.synced_moved s.now x).trans (beginChange_moved (accrue s) _)).trans (trySwitch_moved (changesBegun s) n _)⟩

/-! ## A change of caps (R377) -/

section
variable {s : State} {f : State → State}

theorem withCaps_hearth : SameHearth (f (accrue s)).hearth (withCaps s f).hearth := moveLevels_hearth _

theorem withCaps_now (h : (f (accrue s)).now = s.now) : (withCaps s f).now = s.now := (moveLevels_now _).trans h

theorem withCaps_die {n : Nat} {x : Die} (hn : n < 32) (h : (f (accrue s)).dies[n]? = some x) :
    ∃ y, (withCaps s f).dies[n]? = some y ∧ Moved x y := moveLevels_die_moved hn h

end

/-- A die of a state after a change of it. -/
theorem State.modDie_die_of {s : State} {n : Nat} {x : Die} (h : s.dies[n]? = some x) (f : Die → Die) : (s.modDie n f).dies[n]? = some (f x) := by
  rw [State.modDie_dies, List.getElem?_modify_eq, h]
  rfl

theorem State.die_of {s : State} {n : Nat} {x : Die} (h : s.dies[n]? = some x) : s.die n = x := by
  rw [State.die, List.getD_eq_getElem?_getD, h, Option.getD_some]

theorem State.powerGroup_of {s : State} {g : Nat} {p : PowerGroup} (h : s.hearth.groups[g]? = some p) : s.powerGroup g = p := by
  rw [State.powerGroup, List.getD_eq_getElem?_getD, h, Option.getD_some]

end Sys2Proof.Machine
end

section
/-! PROOF. Alerts, trips, a Gatehouse mismatch, clock windows and the error drain timer (R386, R387, R391, R405 to R407, R409, R411, R412, R414,
R415, R417). -/

namespace Sys2Proof.Machine

/-! ## Regulator alerts (R386) -/

/-- A die that a regulator alert has dropped to its fixed generator. -/
def Die.Dropped (d : Die) : Prop := d.level = 5 ∧ d.target = 5 ∧ d.generator = 2 ∧ d.locked = false

/-- The drop itself. -/
def Die.drop (d : Die) : Die := { d with level := 5, target := 5, generator := 2, locking := false, locked := false }

theorem Die.drop_dropped (d : Die) : d.drop.Dropped := ⟨rfl, rfl, rfl, rfl⟩

theorem Die.Dropped.synced {d : Die} (h : d.Dropped) (now : Nat) : (d.synced now).Dropped := h

/-- A dropped die begins a change only towards another level, for which its idle generator has yet to lock. -/
theorem beginChange_of_dropped (s : State) {d : Die} (h : d.Dropped) :
    (beginChange s d).level = 5 ∧ (beginChange s d).generator = 2 ∧ (beginChange s d).locked = false := by
  obtain ⟨hlevel, htarget, hgenerator, hlocked⟩ := h
  by_cases heff : effLevel s d = 5
  · rw [beginChange, if_pos (.inr (heff.trans hlevel.symm))]
    exact ⟨hlevel, hgenerator, hlocked⟩
  · rw [beginChange, if_neg fun k => k.elim (fun h => h (hlevel.trans htarget.symm)) (fun h => heff (h.trans hlevel))]
    exact ⟨hlevel, hgenerator, decide_eq_false heff⟩

theorem trySwitch_of_unlocked (s : State) (n : Nat) {d : Die} (h : d.locked = false) : trySwitch s n d = d := if_neg (by simp [h])

theorem moveLevels_of_dropped {s : State} (h : ∀ d ∈ s.dies, d.Dropped) : ∀ x ∈ (moveLevels s).dies, x.level = 5 ∧ x.generator = 2 := by
  intro x hx
  rw [moveLevels_dies] at hx
  obtain ⟨⟨y, n⟩, hy, rfl⟩ := List.mem_map.mp hx
  have hbegun := (List.of_mem_zip hy).1
  rw [changesBegun_dies] at hbegun
  obtain ⟨d, hd, rfl⟩ := List.mem_map.mp hbegun
  rw [accrue_dies] at hd
  obtain ⟨d', hd', rfl⟩ := List.mem_map.mp hd
  obtain ⟨hlevel, hgenerator, hlocked⟩ := beginChange_of_dropped (accrue s) ((h d' hd').synced s.now)
  rw [trySwitch_of_unlocked _ n hlocked]
  exact ⟨hlevel, hgenerator⟩

/-- What an alert on input i makes of the device before the dies' levels follow. -/
def alerted (i : Nat) (s : State) : State :=
  State.modHearth { s with dies := s.dies.map Die.drop } (fun h => { h with
    alertSince := if h.alertNow &&& inputBit i = 0 then h.alertSince.set i s.now else h.alertSince
    alertNow := h.alertNow ||| inputBit i, alertSeen := h.alertSeen ||| inputBit i, capAlert := 5, alertHighAt := none, alertRising := false })

theorem alerted_now (i : Nat) (s : State) : (alerted i s).now = s.now := rfl

theorem alerted_dropped (i : Nat) (s : State) : ∀ d ∈ (alerted i s).dies, d.Dropped := by
  intro d hd
  obtain ⟨e, -, rfl⟩ := List.mem_map.mp hd
  exact e.drop_dropped

section
variable {s : State} {i : PortIx}

theorem execRegAlertAssert_of_masked (h : alertMask s i.val = false) : exec (.regAlertAssert i) s = .next s :=
  congrArg Host.Outcome.next (if_neg (by simp [h]))

theorem execRegAlertAssert_of_monitored (hup : s.up = true) (h : alertMask s i.val = true) : exec (.regAlertAssert i) s = .next (withCaps s (alerted i.val)) :=
  congrArg Host.Outcome.next (if_pos ⟨hup, h⟩)

end

theorem withCaps_alerted (s : State) (i : Nat) : ∃ t, t = withCaps s (alerted i) ∧ t.now = s.now ∧ t.hearth.capAlert = 5 ∧
    t.hearth.alertHighAt = none ∧ t.hearth.alertNow = s.hearth.alertNow ||| inputBit i ∧ t.hearth.alertSeen = s.hearth.alertSeen ||| inputBit i ∧
    t.dies.length = Nat.min s.dies.length 32 ∧ ∀ x ∈ t.dies, x.level = 5 ∧ x.generator = 2 := by
  have hbefore : SameHearth s.hearth (accrue s).hearth := accrue_hearth s
  have hafter : SameHearth (alerted i (accrue s)).hearth (withCaps s (alerted i)).hearth := withCaps_hearth
  have hlength : (withCaps s (alerted i)).dies.length = Nat.min (alerted i (accrue s)).dies.length 32 := moveLevels_dies_length _
  refine ⟨_, rfl, withCaps_now ((alerted_now i _).trans (accrue_now s)), by rw [hafter]; rfl, by rw [hafter]; rfl, ?_, ?_, ?_, moveLevels_of_dropped (alerted_dropped i _)⟩
  · rw [hafter]
    show (accrue s).hearth.alertNow ||| inputBit i = _
    rw [hbefore]
  · rw [hafter]
    show (accrue s).hearth.alertSeen ||| inputBit i = _
    rw [hbefore]
  · rw [hlength, alerted, State.modHearth_dies, List.length_map, accrue_dies, List.length_map]

/-! ## The release of an alert -/

/-- Input i is high again. -/
def alertReleased (i : Nat) (now : Nat) (h : Hearth) : Hearth :=
  let left := h.alertNow &&& ~~~(inputBit i)
  { h with alertNow := left, alertHighAt := if left = 0 then some now else none }

theorem execRegAlertDeassert_of_low {s : State} {i : PortIx} (hup : s.up = true) (h : s.hearth.alertNow &&& inputBit i.val ≠ 0) :
    exec (.regAlertDeassert i) s = .next (s.modHearth (alertReleased i.val s.now)) := congrArg Host.Outcome.next (if_pos ⟨hup, h⟩)

theorem not_asserted {s : State} {i : Nat} (h : s.hearth.alertNow &&& inputBit i = 0) :
    ¬(s.up = true ∧ s.hearth.alertNow &&& inputBit i ≠ 0) := fun k => k.2 h

theorem execAlertHoldExpiry_of_high {s : State} {a : Nat} (hup : s.up = true) (h : s.hearth.alertHighAt = some a) :
    exec .alertHoldExpiry s = .next ((s.upTo (a + alertHoldNs s)).modHearth (fun h => { h with alertHighAt := none, alertRising := h.capAlert ≠ 0 })) := by
  simp only [exec, execAlertHoldExpiry, h, hup, if_true]

theorem execAlertHoldExpiry_of_none {s : State} (h : s.hearth.alertHighAt = none) : exec .alertHoldExpiry s = .next s := by
  simp only [exec, execAlertHoldExpiry, h]

/-! ## An error record takes no time (R408, R411) -/

theorem writeError_now (s : State) (e : ErrInfo) : (writeError s e).now = s.now := by
  unfold writeError
  split
  · rfl
  · exact ((count_onlySent ..).trans (count_onlySent ..)).now

theorem foldl_sendHost_now {α : Type} (l : List α) (s : State) (f : State → α → State) (hf : ∀ s x, OnlySent s (f s x)) :
    (l.foldl f s).now = s.now := by
  induction l generalizing s with
  | nil => rfl
  | cons x l ih => exact (ih _).trans (hf s x).now

theorem drainErrors_now (s : State) : (drainErrors s).now = s.now := by
  unfold drainErrors
  extract_lets q size n first record va key pieces lead p imm
  split
  · rfl
  · exact (State.sendHost_onlySent ..).now.trans (foldl_sendHost_now _ s _ fun _ _ => State.sendHost_onlySent ..)

theorem raiseError_now (s : State) (e : ErrInfo) : (raiseError s e).now = s.now := by
  unfold raiseError drainDue
  split
  · exact (drainErrors_now _).trans (writeError_now s e)
  · exact writeError_now s e

theorem raiseError_boot (s : State) (e : ErrInfo) : (raiseError s e).boot = s.boot := (raiseError_calm (.refl s) e).boot

/-! ## The safe state (R412, R414) -/

section
variable {s : State} {codeFor : Item → Nat} {err : Nat}

theorem enterSafe_of_safe (h : s.boot.safe = true) : enterSafe s codeFor err = s := if_pos h

theorem enterSafe_boot (h : s.boot.safe = false) :
    (enterSafe s codeFor err).boot = { s.boot with safe := true, safeAt := s.now, faultN := true } := by
  rw [enterSafe, if_neg (by simp [h])]
  extract_lets boot latched halted ended drained
  have hended : Calm halted ended := endMany_calm (.refl halted) _
  have hdrained : Calm halted drained := hended.fold fun _ c k => drain_calm k c
  exact (drainErrors_calm hdrained).boot

theorem enterSafe_safe : (enterSafe s codeFor err).boot.safe = true := by
  cases h : s.boot.safe with
  | true => rw [enterSafe_of_safe h, h]
  | false => rw [enterSafe_boot h]

end

/-- The device halted after an error record: the safe state is latched with FAULT_N. -/
theorem enterSafe_raised_boot {s : State} {e : ErrInfo} {codeFor : Item → Nat} {err : Nat} (h : s.boot.safe = false) :
    (enterSafe (raiseError s e) codeFor err).boot = { s.boot with safe := true, safeAt := s.now, faultN := true } := by
  rw [enterSafe_boot ((congrArg Boot.safe (raiseError_boot s e)).trans h), raiseError_boot, raiseError_now]

/-! ## Trips (R391) -/

/-- THERMTRIP_N asserted. -/
def tripped (s : State) : State := { s with boot := { s.boot with thermtripN := true } }

/-- The record of a trip while the device runs. -/
def tripRecord (unit temp : Byte) : ErrInfo :=
  { cls := 0x0B, sev := sevDevice, unit := unit.toNat, item := none, ctx := none, detail := [BitVec.ofNat 64 temp.toNat] }

/-- What a trip does in each phase. -/
def tripTo (s : State) (unit temp : Byte) : State := match s.boot.phase with
  | .por => s
  | .running => enterSafe (raiseError (tripped s) (tripRecord unit temp)) (fun _ => codeSafeState) s.nextError
  | .noImage | .railWait => enterSafe (tripped s) (fun _ => codeSafeState) 0

theorem exec_thermalTrip (unit temp : Byte) (s : State) :
    exec (.thermalTrip unit temp) s = .next (if tripTemp unit temp = false then s else tripTo s unit temp) := rfl

theorem execThermalTrip_of_cool {unit temp : Byte} {s : State} (h : temp.toInt < (if isStackUnit unit then (110 : Int) else 115)) :
    exec (.thermalTrip unit temp) s = .next s :=
  congrArg Host.Outcome.next (if_pos (decide_eq_false (not_le.mpr h)))

theorem execThermalTrip_of_hot {unit temp : Byte} {s : State} (hphase : s.boot.phase ≠ .por)
    (h : (if isStackUnit unit then (110 : Int) else 115) ≤ temp.toInt) : ∃ u err, u.boot = (tripped s).boot ∧ u.now = s.now ∧
      exec (.thermalTrip unit temp) s = .next (enterSafe u (fun _ => codeSafeState) err) ∧
      (s.up = true → u = raiseError (tripped s) (tripRecord unit temp) ∧ err = s.nextError) := by
  have hhot : ¬ tripTemp unit temp = false := by simpa [tripTemp] using h
  rw [exec_thermalTrip, if_neg hhot]
  cases hp : s.boot.phase with
  | por => exact absurd hp hphase
  | running =>
    refine ⟨_, _, raiseError_boot .., (raiseError_now ..).trans rfl, ?_, fun _ => ⟨rfl, rfl⟩⟩
    simp only [tripTo, hp]
  | noImage | railWait =>
    refine ⟨tripped s, 0, rfl, rfl, ?_, fun hup => ?_⟩
    · simp only [tripTo, hp]
    · simp [State.up, hp] at hup

/-! ## A power fault and a Gatehouse mismatch (R387, R407) -/

section
variable {s : State}

theorem execPowerFault_of_low {i : PortIx} (hup : s.up = true) (h : s.hearth.alertNow &&& inputBit i.val ≠ 0) : exec (.powerFault i) s =
    .next (enterSafe (raiseError (s.upTo (s.hearth.alertSince.getD i.val 0 + 1000000000)) {
      cls := 0x0C, sev := sevDevice, unit := 0x5A, item := none, ctx := none, detail := [BitVec.ofNat 64 s.hearth.alertNow.toNat] })
      (fun _ => codeSafeState) s.nextError) := congrArg Host.Outcome.next (if_pos ⟨hup, h⟩)

/-- The comparator stopped. -/
def comparatorHeld (s : State) : State := { s with boot := { s.boot with comparatorStopped := true } }

theorem enterSafe_comparatorHeld_boot {codeFor : Item → Nat} {err : Nat} (h : s.boot.safe = false) : (enterSafe (comparatorHeld s) codeFor err).boot =
    { s.boot with comparatorStopped := true, safe := true, safeAt := s.now, faultN := true } := enterSafe_boot (s := comparatorHeld s) h

theorem execGatehouseMismatch_of_stopped {seq : W64} (h : s.boot.comparatorStopped = true) : exec (.gatehouseMismatch seq) s = .next s :=
  congrArg Host.Outcome.next (if_neg (by simp [h]))

theorem execGatehouseMismatch_of_running {seq : W64} (hup : s.up = true) (h : s.boot.comparatorStopped = false) : exec (.gatehouseMismatch seq) s =
    .next (enterSafe (comparatorHeld (raiseError s { cls := 0x0A, sev := sevDevice, unit := 0xFF, item := none, ctx := none, detail := [seq] }))
      (fun _ => codeMismatch) s.nextError) := congrArg Host.Outcome.next (if_pos ⟨hup, h⟩)

/-! ## Clock windows (R406) -/

variable {k : ClockId} {number : Byte} {c e : Nat}

theorem execClockMonitorWindow_of_stopped (h : k ∈ s.hearth.stopped) : exec (.clockMonitorWindow k number c e) s = .next s :=
  congrArg Host.Outcome.next (if_pos (.inr (List.contains_iff_mem.mpr h)))

section
variable (hup : s.up = true) (hruns : k ∉ s.hearth.stopped)
include hup hruns

theorem exec_clockMonitorWindow_of_runs : exec (.clockMonitorWindow k number c e) s = .next (
    if clockOffBy s c e = false then s.modHearth (fun h => { h with
      clockOff := h.clockOff.filter (· != k), clockPassed := upsert (fun p => p.1 == k) (k, s.now) h.clockPassed })
    else if s.hearth.clockOff.contains k = false then s.modHearth (fun h => { h with clockOff := h.clockOff ++ [k] })
    else clockLost (State.modHearth (raiseError s (ErrInfo.mk 0x09 (if clockFatal k then sevDevice else sevUnit) (clockUnit k) none none
      [BitVec.ofNat 64 number.toNat, BitVec.ofNat 64 c])) (fun h => { h with clockOff := h.clockOff.filter (· != k) })) k s.nextError) :=
  congrArg Host.Outcome.next (if_neg fun h => h.elim (fun h => by simp [hup] at h) (fun h => hruns (List.contains_iff_mem.mp h)))

theorem execClockMonitorWindow_passes (h : clockOffBy s c e = false) : exec (.clockMonitorWindow k number c e) s =
    .next (s.modHearth (fun h => { h with
      clockOff := h.clockOff.filter (· != k), clockPassed := upsert (fun p => p.1 == k) (k, s.now) h.clockPassed })) := by
  rw [exec_clockMonitorWindow_of_runs hup hruns, if_pos h]

theorem execClockMonitorWindow_noted (h : clockOffBy s c e = true) (hfirst : k ∉ s.hearth.clockOff) :
    exec (.clockMonitorWindow k number c e) s = .next (s.modHearth (fun h => { h with clockOff := h.clockOff ++ [k] })) := by
  rw [exec_clockMonitorWindow_of_runs hup hruns, if_neg (by simp [h]), if_pos (by simpa using hfirst)]

theorem execClockMonitorWindow_lost (h : clockOffBy s c e = true) (hsecond : k ∈ s.hearth.clockOff) :
    exec (.clockMonitorWindow k number c e) s = .next (clockLost (State.modHearth (raiseError s (ErrInfo.mk 0x09
      (if clockFatal k then sevDevice else sevUnit) (clockUnit k) none none [BitVec.ofNat 64 number.toNat, BitVec.ofNat 64 c]))
      (fun h => { h with clockOff := h.clockOff.filter (· != k) })) k s.nextError) := by
  rw [exec_clockMonitorWindow_of_runs hup hruns, if_neg (by simp [h]), if_neg (by simpa using hsecond)]

end

/-! ## The error drain timer (R411) -/

theorem execErrorDrainTimer_of_due (hup : s.up = true) (h : s.errors.drained < s.errors.count) (hidle : errorDrainInFlight s = false) :
    exec .errorDrainTimer s = .next (drainErrors (s.upTo (s.errors.oldestAt + 50000))) := congrArg Host.Outcome.next (if_pos ⟨hup, h, hidle⟩)

theorem execErrorDrainTimer_of_idle (h : s.errors.count ≤ s.errors.drained ∨ errorDrainInFlight s = true) : exec .errorDrainTimer s = .next s :=
  congrArg Host.Outcome.next (if_neg fun ⟨_, hdue, hidle⟩ => h.elim (not_le.mpr hdue) (fun k => by simp [hidle] at k))

end

/-! ## Each clause -/

section
variable {s : State}

theorem regAlertDeassert_acts {i : PortIx} (hup : s.up = true) (h : s.hearth.alertNow &&& inputBit i.val ≠ 0) :
    ∃ t, exec (.regAlertDeassert i) s = .next t ∧ t.hearth.alertNow = s.hearth.alertNow &&& ~~~(inputBit i.val) ∧
      (t.hearth.alertNow = 0 → t.hearth.alertHighAt = some s.now) ∧ (t.hearth.alertNow ≠ 0 → t.hearth.alertHighAt = none) ∧
      t = { s with hearth := t.hearth } :=
  ⟨_, execRegAlertDeassert_of_low hup h, rfl, fun h => if_pos h, fun h => if_neg h, rfl⟩

theorem powerFault_acts {i : PortIx} (hup : s.up = true) (h : s.hearth.alertNow &&& inputBit i.val ≠ 0) (hsafe : s.boot.safe = false) :
    ∃ u t, u = s.upTo (s.hearth.alertSince.getD i.val 0 + 1000000000) ∧ exec (.powerFault i) s = .next t ∧ t = enterSafe (raiseError u {
      cls := 0x0C, sev := sevDevice, unit := 0x5A, item := none, ctx := none, detail := [BitVec.ofNat 64 s.hearth.alertNow.toNat] })
      (fun _ => codeSafeState) s.nextError ∧ t.boot.safe = true ∧ t.boot.faultN = true := by
  refine ⟨_, _, rfl, execPowerFault_of_low hup h, rfl, enterSafe_safe, ?_⟩
  rw [enterSafe_raised_boot (s := s.upTo _) hsafe]

theorem thermalTrip_acts {unit temp : Byte} (hphase : s.boot.phase ≠ .por) (h : (if isStackUnit unit then (110 : Int) else 115) ≤ temp.toInt) :
    ∃ t, exec (.thermalTrip unit temp) s = .next t ∧ t.boot.thermtripN = true ∧
      t.boot.safe = true ∧ (s.boot.safe = false → t.boot.faultN = true ∧ t.boot.safeAt = s.now) ∧
      (s.up = true → t = enterSafe (raiseError (tripped s) (tripRecord unit temp)) (fun _ => codeSafeState) s.nextError) := by
  obtain ⟨u, err, hboot, hnow, hexec, hrecord⟩ := execThermalTrip_of_hot hphase h
  refine ⟨_, hexec, ?_, enterSafe_safe, fun hsafe => ?_, fun hup => ?_⟩
  · cases hsafe : u.boot.safe with
    | true => rw [enterSafe_of_safe hsafe, hboot]; rfl
    | false => rw [enterSafe_boot hsafe, hboot]; rfl
  · rw [enterSafe_boot ((congrArg Boot.safe hboot).trans hsafe), hnow]
    exact ⟨rfl, rfl⟩
  · obtain ⟨rfl, rfl⟩ := hrecord hup
    rfl

theorem gatehouseMismatch_acts {seq : W64} (hup : s.up = true) (h : s.boot.comparatorStopped = false) (hsafe : s.boot.safe = false) :
    ∃ u t, u = raiseError s { cls := 0x0A, sev := sevDevice, unit := 0xFF, item := none, ctx := none, detail := [seq] } ∧
      exec (.gatehouseMismatch seq) s = .next t ∧ t = enterSafe (comparatorHeld u) (fun _ => codeMismatch) s.nextError ∧ t.boot.safe = true ∧
      t.boot.faultN = true ∧ t.boot.comparatorStopped = true := by
  refine ⟨_, _, rfl, execGatehouseMismatch_of_running hup h, rfl, enterSafe_safe, ?_, ?_⟩ <;>
    rw [enterSafe_comparatorHeld_boot ((congrArg Boot.safe (raiseError_boot s _)).trans hsafe)]

theorem alertHoldExpiry_acts {a : Nat} (hup : s.up = true) (h : s.hearth.alertHighAt = some a) : ∃ t, exec .alertHoldExpiry s = .next t ∧
    t.hearth.alertHighAt = none ∧ t.now = Nat.max s.now (a + alertHoldNs s) ∧ (t.hearth.alertRising = true ↔ s.hearth.capAlert ≠ 0) :=
  ⟨_, execAlertHoldExpiry_of_high hup h, rfl, rfl, decide_eq_true_iff⟩

end

/-- Settles O60, by what each alert, trip, loss and window does in each of its cases. -/
theorem alertsAndLossesAct : Obligations.AlertsAndLossesAct := by
  refine ⟨fun i s hup => ⟨execRegAlertAssert_of_masked, fun h => ?_, fun h => ⟨?_, ?_⟩, regAlertDeassert_acts hup, powerFault_acts hup⟩,
    fun _ _ => alertHoldExpiry_acts, fun _ => execAlertHoldExpiry_of_none, fun _ _ _ hphase => ⟨execThermalTrip_of_cool, thermalTrip_acts hphase⟩,
    fun _ _ hup => ⟨execGatehouseMismatch_of_stopped, gatehouseMismatch_acts hup⟩,
    fun _ _ _ _ _ hup => ⟨execClockMonitorWindow_of_stopped, fun hruns => ⟨execClockMonitorWindow_passes hup hruns,
      execClockMonitorWindow_noted hup hruns, execClockMonitorWindow_lost hup hruns⟩⟩,
    fun _ hup => ⟨execErrorDrainTimer_of_due hup, execErrorDrainTimer_of_idle⟩⟩
  · obtain ⟨t, rfl, hacts⟩ := withCaps_alerted s i.val
    exact ⟨_, execRegAlertAssert_of_monitored hup h, hacts⟩
  · exact congrArg Host.Outcome.next (if_neg (not_asserted h))
  · exact congrArg Host.Outcome.next (if_neg (not_asserted h))

end Sys2Proof.Machine
end

section
/-! SUPPORT. Commands on control space: context resets, counters, register writes and the I3C target (R464, R465, R482, R484, R488). -/

namespace Sys2Proof.Machine

section
variable {s : State} {w : Writer}

/-! ## CTX_CTL (R484) -/

theorem execCtxCtlReset_allowed {c : CtxIx} (hup : s.up = true) (hmay : (authorityOf s w).ctx s c.val = true)
    (hdefined : (s.ctxCfg c.val).isSome = true) (hreset : s.boot.creset = none) :
    exec (.ctxCtlReset w c) s = .next (resetContext s c.val codeContextReset none) := by
  simp only [exec, execCtxCtlReset, controlOpen, writeCtxReset, hup, hmay, hdefined, hreset, Option.isNone_none, and_self, if_true]

theorem execCtxCtlReset_nothing {c : CtxIx}
    (h : (authorityOf s w).ctx s c.val = false ∨ s.ctxCfg c.val = none ∨ s.boot.creset.isSome = true) : exec (.ctxCtlReset w c) s = .next s := by
  refine congrArg Host.Outcome.next ?_
  obtain hnot | hundefined | hreset := h
  · exact if_neg fun k => by simp [hnot] at k
  · have hsame : writeCtxReset s c.val = s := if_neg fun k => by simp [hundefined] at k
    rw [hsame, ite_self]
  · have hsame : writeCtxReset s c.val = s := if_neg fun k => by simp [Option.isSome_iff_ne_none.mp hreset] at k
    rw [hsame, ite_self]

/-! ## COUNTER_CTL (R464, R465, R483) -/

/-- A bank that no compute-domain reset holds changes, and only it. -/
theorem modBank_of_free {d : Nat} {b : Bank} (f : Bank → Bank) (hfree : s.boot.creset = none ∨ 64 ≤ d) (hb : s.banks[d]? = some b) :
    (modBank s d f).banks[d]? = some (f b) ∧ (∀ n, n ≠ d → (modBank s d f).banks[n]? = s.banks[n]?) ∧
      modBank s d f = { s with banks := (modBank s d f).banks } := by
  have hheld : ¬ bankHeld s d = true := by
    obtain h | h := hfree
    · simp [bankHeld, h]
    · simp [bankHeld, Nat.not_lt.mpr h]
  rw [modBank, if_neg hheld]
  exact ⟨by rw [List.getElem?_modify_eq, hb]; rfl, fun n hn => List.getElem?_modify_ne _ _ (Ne.symm hn), rfl⟩

section
variable {d : Fin 100}

/-- A counter command that acts on a free bank by f. -/
theorem counter_acts {c : Instr} {b : Bank} (f : Bank → Bank) (hexec : exec c s = .next (modBank s d.val f))
    (hfree : s.boot.creset = none ∨ 64 ≤ d.val) (hb : s.banks[d.val]? = some b) : ∃ t, exec c s = .next t ∧ t.banks[d.val]? = some (f b) ∧
      (∀ n, n ≠ d.val → t.banks[n]? = s.banks[n]?) ∧ t = { s with banks := t.banks } := ⟨_, hexec, modBank_of_free f hfree hb⟩

section
variable (hup : s.up = true) (hmay : (authorityOf s w).bank s d.val none = true)
include hup hmay

theorem execCounterClear_allowed : exec (.counterClear w d) s = .next (modBank s d.val bankClear) := congrArg Host.Outcome.next (if_pos ⟨hup, hmay⟩)

theorem execCounterRun_allowed : exec (.counterRun w d) s = .next (modBank s d.val bankRun) := congrArg Host.Outcome.next (if_pos ⟨hup, hmay⟩)

end

section
variable (hnot : (authorityOf s w).bank s d.val none = false)
include hnot

theorem execCounterClear_refused : exec (.counterClear w d) s = .next s := congrArg Host.Outcome.next (if_neg fun k => by simp [hnot] at k)

theorem execCounterRun_refused : exec (.counterRun w d) s = .next s := congrArg Host.Outcome.next (if_neg fun k => by simp [hnot] at k)

end

theorem execCounterSelect_allowed {p : Fin 8} {run : Bool} (hup : s.up = true) (hmay : (authorityOf s w).bank s d.val (some p.val) = true) :
    exec (.counterSelect w d p run) s = .next (modBank s d.val (bankSelect p.val run)) := congrArg Host.Outcome.next (if_pos ⟨hup, hmay⟩)

theorem execCounterSelect_refused {p : Fin 8} {run : Bool} (hnot : (authorityOf s w).bank s d.val (some p.val) = false) :
    exec (.counterSelect w d p run) s = .next s := congrArg Host.Outcome.next (if_neg fun k => by simp [hnot] at k)

end

/-! ## Register writes and the I3C target (R482, R488) -/

theorem execControlSpaceWrite_aligned {q : QpIx} {o : BitVec 40} {v : W64} (hup : s.up = true) (h : o.toNat % 8 = 0) :
    exec (.controlSpaceWrite q o v) s = .next (regWrite s (authorityOf s (.host q)) o.toNat v) := congrArg Host.Outcome.next (if_pos ⟨hup, h⟩)

theorem execControlSpaceWrite_unaligned {q : QpIx} {o : BitVec 40} {v : W64} (h : o.toNat % 8 ≠ 0) :
    exec (.controlSpaceWrite q o v) s = .next s := congrArg Host.Outcome.next (if_neg fun k => h k.2)

section
variable (h : s.boot.phase ≠ .por)
include h

theorem execI3cOffsetWrite_sets {o : BitVec 16} : exec (.i3cOffsetWrite o) s = .next { s with gate := { s.gate with i3cOffset := o } } :=
  congrArg Host.Outcome.next (if_neg h)

theorem execI3cRead_advances : exec .i3cRead s = .next { s with gate := { s.gate with
    i3cData := i3cValue s s.gate.i3cOffset.toNat, i3cOffset := s.gate.i3cOffset + 8 } } := congrArg Host.Outcome.next (if_neg h)

end

end

end Sys2Proof.Machine
end

section
/-! PROOF. Commands on control space and the events of the Hearth: locks, voltage steps, droop, the control tick, rails and temperatures (R378,
R380, R384, R385, R389, R390). -/

namespace Sys2Proof.Machine

section
variable {s : State}

/-! ## Locks (R378) -/

/-- A die whose idle generator has locked. -/
def Die.locks (x : Die) : Die := { x with locking := false, locked := true }

theorem execGeneratorLock_of_idle {d : DieIx} (h : (s.die d.val).locking = false) : exec (.generatorLock d) s = .next s :=
  congrArg Host.Outcome.next (if_neg fun k => by simp [h] at k)

theorem execGeneratorLock_of_locking {d : DieIx} {x : Die} (hup : s.up = true) (hx : s.dies[d.val]? = some x) (h : x.locking = true) :
    exec (.generatorLock d) s = .next (moveLevels (s.modDie d.val Die.locks)) :=
  congrArg Host.Outcome.next (if_pos ⟨hup, by rw [State.die_of hx, h]⟩)

/-- A die in a change stays in it until it switches. -/
theorem beginChange_of_changing {x : Die} (h : x.level ≠ x.target) : beginChange s x = x := if_pos (.inl h)

theorem trySwitch_of_allowed {n : Nat} {x : Die} (h : x.level ≠ x.target) (hlocked : x.locked = true)
    (hfree : (s.powerGroup (groupOf n)).held = false) (hvolts : levelVid x.target ≤ (s.powerGroup (groupOf n)).vid.toNat) :
    (trySwitch s n x).level = x.target := by
  rw [trySwitch, if_pos ⟨h, hlocked, hfree, hvolts⟩]
  exact takeTarget_level ..

theorem trySwitch_of_barred {n : Nat} {x : Die}
    (h : (s.powerGroup (groupOf n)).held = true ∨ (s.powerGroup (groupOf n)).vid.toNat < levelVid x.target) : trySwitch s n x = x :=
  if_neg fun ⟨_, _, hfree, hvolts⟩ => h.elim (fun k => by simp [hfree] at k) (not_lt.mpr hvolts)

theorem SameHearth.powerGroup {a b : State} (h : SameHearth a.hearth b.hearth) (g : Nat) : b.powerGroup g = a.powerGroup g := by
  rw [State.powerGroup, State.powerGroup, h.groups]

theorem changesBegun_powerGroup (s : State) (g : Nat) : (changesBegun s).powerGroup g = s.powerGroup g :=
  SameHearth.powerGroup (b := changesBegun s) (accrue_hearth s) g

/-- A die that has locked in a change switches as its group allows it. -/
theorem moveLevels_die_locked {d : DieIx} {x : Die} (hx : s.dies[d.val]? = some x) (h : x.level ≠ x.target) :
    (moveLevels (s.modDie d.val Die.locks)).dies[d.val]? = some (trySwitch (changesBegun (s.modDie d.val Die.locks)) d.val (x.locks.synced s.now)) := by
  rw [moveLevels_die d.isLt (State.modDie_die_of hx _), State.modDie_now, beginChange_of_changing (x := x.locks.synced s.now) h]

theorem generatorLock_acts {d : DieIx} {x : Die} (hup : s.up = true) (hx : s.dies[d.val]? = some x) (hlocking : x.locking = true)
    (h : x.level ≠ x.target) : ∃ t y, exec (.generatorLock d) s = .next t ∧ t.now = s.now ∧ t.dies[d.val]? = some y ∧
      ((s.powerGroup (groupOf d.val)).held = false → levelVid x.target ≤ (s.powerGroup (groupOf d.val)).vid.toNat → y.level = x.target) ∧
      ((s.powerGroup (groupOf d.val)).held = true ∨ (s.powerGroup (groupOf d.val)).vid.toNat < levelVid x.target →
        y.level = x.level ∧ y.target = x.target ∧ y.locked = true ∧ y.locking = false) := by
  have hgroup : (changesBegun (s.modDie d.val Die.locks)).powerGroup (groupOf d.val) = s.powerGroup (groupOf d.val) := changesBegun_powerGroup ..
  refine ⟨_, _, execGeneratorLock_of_locking hup hx hlocking, moveLevels_now _, moveLevels_die_locked hx h, fun hfree hvolts => ?_, fun hbarred => ?_⟩
  · exact trySwitch_of_allowed (x := x.locks.synced s.now) h rfl (by rw [hgroup, hfree]) (by rw [hgroup]; exact hvolts)
  · rw [trySwitch_of_barred (x := x.locks.synced s.now) (by rw [hgroup]; exact hbarred)]
    exact ⟨rfl, rfl, rfl, rfl⟩

/-! ## Voltage steps (R378) -/

theorem modGroup_groups {g : Nat} {p : PowerGroup} (hp : s.hearth.groups[g]? = some p) (f : PowerGroup → PowerGroup) :
    (modGroup s g f).hearth.groups = s.hearth.groups.set g (f p) := by
  rw [modGroup, State.modHearth_hearth]
  show s.hearth.groups.modify g f = _
  rw [List.modify_eq_set_getElem?, hp]
  rfl

/-- The dies of a group take their newest targets up. -/
def targetsTaken (g : Nat) (s : State) : State :=
  (groupDies g).foldl (fun s d => s.modDie d (fun x => if x.level = x.target then x else takeTarget s x)) s

theorem targetsTaken_leaves (g : Nat) (s : State) : (targetsTaken g s).hearth = s.hearth ∧ (targetsTaken g s).now = s.now := by
  unfold targetsTaken
  exact List.foldlRecOn (motive := fun t : State => t.hearth = s.hearth ∧ t.now = s.now) _ _ ⟨rfl, rfl⟩ fun t ht d _ => ht

/-- The group's code steps by one towards the code it heads to. -/
def PowerGroup.stepped (want now : Nat) (p : PowerGroup) : PowerGroup :=
  { p with stepAt := now, vid := if p.vid.toNat < want then p.vid + 1 else p.vid - 1 }

theorem execVoltageStep_settled {g : Fin 8} (h : (s.powerGroup g.val).held = true ∨ (s.powerGroup g.val).vid.toNat = groupVid s g.val) :
    exec (.voltageStep g) s = .next s := by
  have hsame : stepVoltage s g.val = s := if_pos h
  simp only [exec, execVoltageStep, hsame, ite_self]

theorem execVoltageStep_steps {g : Fin 8} {p : PowerGroup} (hup : s.up = true) (hp : s.hearth.groups[g.val]? = some p) (hfree : p.held = false)
    (hvid : p.vid.toNat ≠ groupVid s g.val) : exec (.voltageStep g) s = .next (moveLevels (targetsTaken g.val
      (modGroup (s.upTo (p.stepAt + 500)) g.val (PowerGroup.stepped (groupVid s g.val) (s.upTo (p.stepAt + 500)).now)))) := by
  have hgroup : s.powerGroup g.val = p := State.powerGroup_of hp
  have hstep : stepVoltage s g.val = moveLevels (targetsTaken g.val
      (modGroup (s.upTo (p.stepAt + 500)) g.val (PowerGroup.stepped (groupVid s g.val) (s.upTo (p.stepAt + 500)).now))) := by
    rw [stepVoltage, hgroup, if_neg (by simp [hfree, hvid])]
    rfl
  simp only [exec, execVoltageStep, hup, if_true, hstep]

theorem voltageStep_acts {g : Fin 8} {p : PowerGroup} (hup : s.up = true) (hp : s.hearth.groups[g.val]? = some p) (hfree : p.held = false)
    (hvid : p.vid.toNat ≠ groupVid s g.val) : ∃ t, exec (.voltageStep g) s = .next t ∧ t.now = Nat.max s.now (p.stepAt + 500) ∧
      t.hearth.groups = s.hearth.groups.set g.val
        { p with stepAt := t.now, vid := if p.vid.toNat < groupVid s g.val then p.vid + 1 else p.vid - 1 } := by
  have hnow := (moveLevels_now _).trans (targetsTaken_leaves g.val
    (modGroup (s.upTo (p.stepAt + 500)) g.val (PowerGroup.stepped (groupVid s g.val) (s.upTo (p.stepAt + 500)).now))).2
  refine ⟨_, execVoltageStep_steps hup hp hfree hvid, hnow, ?_⟩
  rw [(moveLevels_hearth _).groups, (targetsTaken_leaves ..).1, modGroup_groups (s := s.upTo _) hp, hnow]
  rfl

/-! ## Droop (R384, R385) -/

theorem droopMv_accrue (s : State) : droopMv (accrue s) = droopMv s := by rw [droopMv, accrue_cfg, droopMv]

/-- A fall of VDD_FACE on die d. -/
def drooped (d mv : Nat) (s : State) : State :=
  (modGroup (s.modDie d (fun x => { x with
    stretch := if 2 * droopMv s < mv then 2 else 1, droopEvents := if x.stretch = 0 then x.droopEvents + 1 else x.droopEvents }))
    (groupOf d) (fun p => { p with held := true })).modHearth (fun h => { h with lastDroop := some s.now, boostOk := false })

/-- The end of a fall on die d. -/
def droopCleared (d : Nat) (s : State) : State :=
  (modGroup (s.modDie d (fun x => { x with stretch := 0 })) (groupOf d) (fun p => { p with clearedAt := s.now })).modHearth
    (fun h => { h with lastDroop := some s.now })

section
variable {d : DieIx} {mv : Nat}

theorem execDroopDetect_of_small (h : mv ≤ droopMv s) : exec (.droopDetect d mv) s = .next s :=
  congrArg Host.Outcome.next (if_neg fun k => absurd k.2 (not_lt.mpr h))

theorem execDroopDetect_of_large (hup : s.up = true) (h : droopMv s < mv) : exec (.droopDetect d mv) s = .next (withCaps s (drooped d.val mv)) :=
  congrArg Host.Outcome.next (if_pos ⟨hup, h⟩)

theorem execDroopClear_of_steady (h : (s.die d.val).stretch = 0) : exec (.droopClear d) s = .next s :=
  congrArg Host.Outcome.next (if_neg fun k => k.2 h)

theorem execDroopClear_of_stretched (hup : s.up = true) (h : (s.die d.val).stretch ≠ 0) :
    exec (.droopClear d) s = .next (withCaps s (droopCleared d.val)) := congrArg Host.Outcome.next (if_pos ⟨hup, h⟩)

end

theorem Moved.stretch {x y : Die} (h : Moved x y) : y.stretch = x.stretch := by rw [h]

theorem Moved.droopEvents {x y : Die} (h : Moved x y) : y.droopEvents = x.droopEvents := by rw [h]

theorem drooped_now (d mv : Nat) (s : State) : (drooped d mv s).now = s.now := rfl

theorem droopCleared_now (d : Nat) (s : State) : (droopCleared d s).now = s.now := rfl

theorem drooped_hearth (d mv : Nat) (s : State) : (drooped d mv s).hearth = { s.hearth with
    lastDroop := some s.now, boostOk := false, groups := s.hearth.groups.modify (groupOf d) (fun p => { p with held := true }) } := rfl

theorem droopCleared_hearth (d : Nat) (s : State) : (droopCleared d s).hearth = { s.hearth with
    lastDroop := some s.now, groups := s.hearth.groups.modify (groupOf d) (fun p => { p with clearedAt := s.now }) } := rfl

theorem drooped_die_of {d : Nat} {x : Die} (hx : s.dies[d]? = some x) (mv : Nat) : (drooped d mv s).dies[d]? = some { x with
    stretch := if 2 * droopMv s < mv then 2 else 1, droopEvents := if x.stretch = 0 then x.droopEvents + 1 else x.droopEvents } :=
  State.modDie_die_of hx _

theorem droopCleared_die_of {d : Nat} {x : Die} (hx : s.dies[d]? = some x) : (droopCleared d s).dies[d]? = some { x with stretch := 0 } :=
  State.modDie_die_of hx _

theorem droopDetect_acts {d : DieIx} {mv : Nat} {x : Die} (hup : s.up = true) (hx : s.dies[d.val]? = some x) (h : droopMv s < mv) :
    ∃ t y, exec (.droopDetect d mv) s = .next t ∧ t.now = s.now ∧ t.hearth.boostOk = false ∧
      t.hearth.lastDroop = some s.now ∧ t.hearth.groups = s.hearth.groups.modify (groupOf d.val) (fun p => { p with held := true }) ∧
      t.dies[d.val]? = some y ∧ y.stretch = (if 2 * droopMv s < mv then 2 else 1) ∧
      y.droopEvents = if x.stretch = 0 then x.droopEvents + 1 else x.droopEvents := by
  have hhearth : SameHearth (drooped d.val mv (accrue s)).hearth (withCaps s (drooped d.val mv)).hearth := withCaps_hearth
  have hdie : (drooped d.val mv (accrue s)).dies[d.val]? = some { x.synced s.now with
      stretch := if 2 * droopMv s < mv then 2 else 1, droopEvents := if x.stretch = 0 then x.droopEvents + 1 else x.droopEvents } := by
    rw [← droopMv_accrue]
    exact drooped_die_of (accrue_die_of hx) mv
  obtain ⟨y, hy, hmoved⟩ := withCaps_die d.isLt hdie
  refine ⟨_, y, execDroopDetect_of_large hup h, withCaps_now ((drooped_now ..).trans (accrue_now s)), ?_, ?_, ?_, hy, hmoved.stretch, hmoved.droopEvents⟩
  · rw [hhearth]; rfl
  · rw [hhearth, drooped_hearth, accrue_now]
  · rw [hhearth.groups, drooped_hearth, (accrue_hearth s).groups]

theorem droopClear_acts {d : DieIx} {x : Die} (hup : s.up = true) (hx : s.dies[d.val]? = some x) (h : x.stretch ≠ 0) :
    ∃ t y, exec (.droopClear d) s = .next t ∧ t.now = s.now ∧ t.hearth.lastDroop = some s.now ∧
      t.hearth.groups = s.hearth.groups.modify (groupOf d.val) (fun p => { p with clearedAt := s.now }) ∧
      t.dies[d.val]? = some y ∧ y.stretch = 0 := by
  have hhearth : SameHearth (droopCleared d.val (accrue s)).hearth (withCaps s (droopCleared d.val)).hearth := withCaps_hearth
  have hdie : (droopCleared d.val (accrue s)).dies[d.val]? = some { x.synced s.now with stretch := 0 } :=
    droopCleared_die_of (accrue_die_of hx)
  obtain ⟨y, hy, hmoved⟩ := withCaps_die d.isLt hdie
  refine ⟨_, y, execDroopClear_of_stretched hup (by rwa [State.die_of hx]), withCaps_now ((droopCleared_now ..).trans (accrue_now s)), ?_, ?_, hy,
    hmoved.stretch⟩
  · rw [hhearth, droopCleared_hearth, accrue_now]
  · rw [hhearth.groups, droopCleared_hearth, (accrue_hearth s).groups, accrue_now]

theorem execDroopHoldExpiry_waits {g : Fin 8} (h : (s.powerGroup g.val).held = false ∨ (∃ d ∈ groupDies g.val, (s.die d).stretch ≠ 0)) :
    exec (.droopHoldExpiry g) s = .next s := by
  refine congrArg Host.Outcome.next (if_neg fun ⟨_, hheld, hall⟩ => ?_)
  obtain hfree | ⟨d, hd, hstretch⟩ := h
  · simp [hfree] at hheld
  · exact hstretch (by simpa using List.all_eq_true.mp hall d hd)

theorem execDroopHoldExpiry_ends {g : Fin 8} {p : PowerGroup} (hup : s.up = true) (hp : s.hearth.groups[g.val]? = some p) (hheld : p.held = true)
    (hsteady : ∀ d ∈ groupDies g.val, (s.die d).stretch = 0) : exec (.droopHoldExpiry g) s = .next (moveLevels
      (modGroup (s.upTo (roundUp (p.clearedAt + droopHoldNs s) 40)) g.val (fun p => { p with held := false }))) := by
  have hall : (groupDies g.val).all (fun d => (s.die d).stretch == 0) = true := List.all_eq_true.mpr fun d hd => by simp [hsteady d hd]
  simp only [exec, execDroopHoldExpiry, State.powerGroup_of hp, hup, hheld, hall, and_self, if_true]

theorem droopHoldExpiry_acts {g : Fin 8} {p : PowerGroup} (hup : s.up = true) (hp : s.hearth.groups[g.val]? = some p) (hheld : p.held = true)
    (hsteady : ∀ d ∈ groupDies g.val, (s.die d).stretch = 0) : ∃ t, exec (.droopHoldExpiry g) s = .next t ∧
      t.now = Nat.max s.now (roundUp (p.clearedAt + droopHoldNs s) 40) ∧ t.hearth.groups = s.hearth.groups.set g.val { p with held := false } := by
  refine ⟨_, execDroopHoldExpiry_ends hup hp hheld hsteady, moveLevels_now _, ?_⟩
  exact (moveLevels_hearth _).groups.trans (modGroup_groups (s := s.upTo _) hp _)

end

end Sys2Proof.Machine
end

section
/-! PROOF. The control tick, the rails and the temperatures (R380, R389, R390, R485), and with them the events of the Hearth together. -/

namespace Sys2Proof.Machine

/-! ## The control tick (R380) -/

/-- The power of the ms that a tick ends. -/
def tickRecent (h : Hearth) : Nat := h.senseSum * 1000 / Nat.max 1 h.senseCount

/-- The powers that a tick keeps. -/
def tickHistory (s : State) : List Nat := (tickRecent s.hearth :: s.hearth.history).take (windowMs s)

/-- The average that a tick compares. -/
def tickAvg (s : State) : Nat := averageMw s (tickHistory s)

/-- The Hearth in which a tick's new ms begins. -/
def tickBegun (s : State) : Hearth := { s.hearth with
  history := tickHistory s, senseSum := 0, senseCount := 0, tickAt := s.now, powerAvg := tickAvg s / 1000, powerRecent := tickRecent s.hearth / 1000 }

theorem tickBegun_tickAt (s : State) : (tickBegun s).tickAt = s.now := rfl

theorem tickBegun_caps (s : State) : (tickBegun s).capSustained = s.hearth.capSustained ∧ (tickBegun s).deep = s.hearth.deep := ⟨rfl, rfl⟩

/-- The sustained cap and deep after a tick. -/
def tickSustained (s : State) : Hearth := sustainedStep s (tickAvg s) (tickRecent s.hearth) (tickBegun s)

/-- What a tick does before the dies follow. -/
def ticked (s : State) : State :=
  let t := { s with hearth := { alertStep (tickSustained s) with boostOk := boostPermitted s (tickAvg s) } }
  count t (Occ.firmware 99 0x071 t.now)

theorem exec_controlTick {s : State} (hup : s.up = true) : exec .controlTick s = .next (withCaps
    ((startRetrains (deliverServed s)).upTo ((startRetrains (deliverServed s)).hearth.tickAt + 1000000)) ticked) :=
  congrArg Host.Outcome.next (if_pos hup)

theorem ticked_now (s : State) : (ticked s).now = s.now := (count_onlySent ..).now

theorem ticked_hearth (s : State) : (ticked s).hearth = { alertStep (tickSustained s) with boostOk := boostPermitted s (tickAvg s) } :=
  count_hearth ..

/-- A Hearth of which only caps, deep, boost and the throttle counters have moved. -/
def TickMoves (a b : Hearth) : Prop := b = { a with
  capSustained := b.capSustained, deep := b.deep, capAlert := b.capAlert, alertRising := b.alertRising, boostOk := b.boostOk
  throttle := b.throttle, throttleMarks := b.throttleMarks, throttleAt := b.throttleAt }

theorem SameHearth.tickMoves {a b : Hearth} (h : SameHearth a b) : TickMoves a b := by
  rw [h]
  rfl

theorem TickMoves.trans {a b c : Hearth} (h : TickMoves a b) (k : TickMoves b c) : TickMoves a c := by
  unfold TickMoves at h k ⊢
  exact k.trans (by rw [h])

theorem TickMoves.tickAt {a b : Hearth} (h : TickMoves a b) : b.tickAt = a.tickAt := by rw [h]

theorem TickMoves.boost (h : Hearth) (ok : Bool) : TickMoves h { h with boostOk := ok } := rfl

theorem alertStep_moves (h : Hearth) : TickMoves h (alertStep h) := by
  unfold alertStep
  split <;> rfl

theorem alertStep_capSustained (h : Hearth) : (alertStep h).capSustained = h.capSustained := by
  unfold alertStep
  split <;> rfl

theorem alertStep_deep (h : Hearth) : (alertStep h).deep = h.deep := by
  unfold alertStep
  split <;> rfl

theorem sustainedStep_moves (s : State) (avg recent : Nat) (h : Hearth) : TickMoves h (sustainedStep s avg recent h) := by
  unfold sustainedStep
  extract_lets limit beyond
  split
  · rfl
  split
  · split <;> rfl
  · rfl

theorem ticked_moves (s : State) : TickMoves (tickBegun s) (ticked s).hearth := by
  rw [ticked_hearth]
  exact ((sustainedStep_moves ..).trans (alertStep_moves _)).trans (TickMoves.boost ..)

theorem ticked_capSustained (s : State) : (ticked s).hearth.capSustained = (tickSustained s).capSustained := by
  rw [ticked_hearth]
  exact alertStep_capSustained _

theorem ticked_deep (s : State) : (ticked s).hearth.deep = (tickSustained s).deep := by
  rw [ticked_hearth]
  exact alertStep_deep _

/-! ### The three cases of the sustained cap (R380) -/

section
variable {s : State} {avg recent : Nat} {h : Hearth}

/-- The average lies beyond the limit. -/
def PowerAbove (s : State) (avg recent : Nat) : Prop :=
  powerLimit s * 1000 < avg ∨ (fixedMode s = false ∧ 98 * (powerLimit s * 1000) < 100 * avg ∧ powerLimit s * 1000 < recent)

/-- The average and the last ms lie clear of the limit. -/
def PowerBelow (s : State) (avg recent : Nat) : Prop :=
  100 * avg < 95 * (powerLimit s * 1000) ∧ 100 * recent < 95 * (powerLimit s * 1000)

theorem powerAbove_iff : (powerLimit s * 1000 < avg || (!fixedMode s && 98 * (powerLimit s * 1000) < 100 * avg && powerLimit s * 1000 < recent)) = true ↔
    PowerAbove s avg recent := by simp [PowerAbove, and_assoc]

theorem sustainedStep_of_above (habove : PowerAbove s avg recent) : sustainedStep s avg recent h =
    { h with deep := h.deep || (h.capSustained == 5 && powerLimit s * 1000 < avg), capSustained := Nat.min 5 (h.capSustained + 1) } :=
  if_pos (powerAbove_iff.mpr habove)

theorem sustainedStep_of_below (habove : ¬ PowerAbove s avg recent) (hbelow : PowerBelow s avg recent) : sustainedStep s avg recent h =
    if h.deep then { h with deep := false } else { h with capSustained := h.capSustained - 1 } :=
  (if_neg (mt powerAbove_iff.mp habove)).trans (if_pos hbelow)

theorem sustainedStep_of_between (habove : ¬ PowerAbove s avg recent) (hbelow : ¬ PowerBelow s avg recent) : sustainedStep s avg recent h = h :=
  (if_neg (mt powerAbove_iff.mp habove)).trans (if_neg hbelow)

end

/-! ### What a tick reads stays while the counters are brought up to date -/

/-- Two states of one configuration, between which only the throttle counters of the Hearth have moved. -/
structure SameReadings (a b : State) : Prop where
  cfg : b.cfg = a.cfg
  hearth : SameHearth a.hearth b.hearth

theorem SameReadings.of_upTo (s : State) (t : Nat) : SameReadings s (accrue (s.upTo t)) := ⟨accrue_cfg (s.upTo t), accrue_hearth (s.upTo t)⟩

section
variable {a b : State} (h : SameReadings a b)
include h

theorem SameReadings.tickRecent : Machine.tickRecent b.hearth = Machine.tickRecent a.hearth := by
  rw [h.hearth]
  rfl

theorem SameReadings.windowMs : Machine.windowMs b = Machine.windowMs a := by rw [Machine.windowMs, h.cfg, Machine.windowMs]

theorem SameReadings.powerLimit : Machine.powerLimit b = Machine.powerLimit a := by rw [Machine.powerLimit, h.cfg, Machine.powerLimit]

theorem SameReadings.fixedMode : Machine.fixedMode b = Machine.fixedMode a := by rw [Machine.fixedMode, h.cfg, Machine.fixedMode]

theorem SameReadings.tickHistory : Machine.tickHistory b = Machine.tickHistory a := by
  have hhistory : b.hearth.history = a.hearth.history := by rw [h.hearth]
  rw [Machine.tickHistory, h.tickRecent, hhistory, h.windowMs, Machine.tickHistory]

theorem SameReadings.tickAvg : Machine.tickAvg b = Machine.tickAvg a := by
  rw [Machine.tickAvg, h.tickHistory, averageMw, h.windowMs, Machine.tickAvg, averageMw]

theorem SameReadings.sustainedStep {avg recent : Nat} {k : Hearth} :
    Machine.sustainedStep b avg recent k = Machine.sustainedStep a avg recent k := by
  rw [Machine.sustainedStep, h.powerLimit, h.fixedMode, Machine.sustainedStep]

theorem SameReadings.tickSustained : Machine.tickSustained b =
    Machine.sustainedStep a (Machine.tickAvg a) (Machine.tickRecent a.hearth) (tickBegun b) := by
  rw [Machine.tickSustained, h.sustainedStep, h.tickAvg, h.tickRecent]

end

/-- A tick: the sums begin anew, the averages are kept, and the sustained cap and deep move by the case that holds. -/
theorem controlTick_acts {s : State} (hup : s.up = true) : ∃ t w k, w = startRetrains (deliverServed s) ∧ exec .controlTick s = .next t ∧
    t.now = Nat.max w.now (w.hearth.tickAt + 1000000) ∧ t.hearth.tickAt = t.now ∧ t.hearth.senseSum = 0 ∧ t.hearth.senseCount = 0 ∧
    t.hearth.history = tickHistory w ∧ t.hearth.powerRecent = tickRecent w.hearth / 1000 ∧ t.hearth.powerAvg = tickAvg w / 1000 ∧
    k.capSustained = w.hearth.capSustained ∧ k.deep = w.hearth.deep ∧
    t.hearth.capSustained = (sustainedStep w (tickAvg w) (tickRecent w.hearth) k).capSustained ∧
    t.hearth.deep = (sustainedStep w (tickAvg w) (tickRecent w.hearth) k).deep := by
  obtain ⟨w, hw⟩ : ∃ w, w = startRetrains (deliverServed s) := ⟨_, rfl⟩
  obtain ⟨v, hv⟩ : ∃ v, v = w.upTo (w.hearth.tickAt + 1000000) := ⟨_, rfl⟩
  have hread : SameReadings w (accrue v) := hv ▸ .of_upTo ..
  have hafter : SameHearth (ticked (accrue v)).hearth (withCaps v ticked).hearth := withCaps_hearth
  have hmoves : TickMoves (tickBegun (accrue v)) (withCaps v ticked).hearth := (ticked_moves _).trans hafter.tickMoves
  have hnow : (withCaps v ticked).now = v.now := withCaps_now ((ticked_now _).trans (accrue_now v))
  refine ⟨withCaps v ticked, w, tickBegun (accrue v), hw, ?_, ?_, ?_, ?_, ?_, ?_, ?_, ?_, ?_, ?_, ?_, ?_⟩
  · rw [exec_controlTick hup, hv, hw]
  · rw [hnow, hv, State.upTo_now]
  · rw [hmoves.tickAt, tickBegun_tickAt, accrue_now, hnow]
  · rw [hmoves]; rfl
  · rw [hmoves]; rfl
  · rw [hmoves]; exact hread.tickHistory
  · rw [hmoves]; exact congrArg (· / 1000) hread.tickRecent
  · rw [hmoves]; exact congrArg (· / 1000) hread.tickAvg
  · rw [(tickBegun_caps _).1, hread.hearth]
  · rw [(tickBegun_caps _).2, hread.hearth]
  · rw [← hread.tickSustained, ← ticked_capSustained, hafter]
  · rw [← hread.tickSustained, ← ticked_deep, hafter]

end Sys2Proof.Machine
end

section
/-! PROOF. The rails and the temperatures (R385, R389, R390, R485), and the events of the Hearth together. -/

namespace Sys2Proof.Machine

section
variable {s : State}

/-! ## The tick's three cases, as the sustained cap and deep take them (R380) -/

section
variable {avg recent : Nat} {h k : Hearth} (hcap : k.capSustained = h.capSustained) (hdeep : k.deep = h.deep)
include hcap hdeep

theorem sustained_above (habove : PowerAbove s avg recent) :
    (sustainedStep s avg recent k).capSustained = Nat.min 5 (h.capSustained + 1) ∧
      (sustainedStep s avg recent k).deep = (h.deep || decide (h.capSustained = 5 ∧ powerLimit s * 1000 < avg)) := by
  rw [sustainedStep_of_above habove, ← hcap, ← hdeep]
  exact ⟨rfl, by rw [Bool.decide_and]; rfl⟩

theorem sustained_below (habove : ¬ PowerAbove s avg recent) (hbelow : PowerBelow s avg recent) :
    (sustainedStep s avg recent k).deep = false ∧
      (sustainedStep s avg recent k).capSustained = if h.deep = true then h.capSustained else h.capSustained - 1 := by
  rw [sustainedStep_of_below habove hbelow, ← hcap, ← hdeep]
  cases hk : k.deep with
  | true => exact ⟨rfl, rfl⟩
  | false => exact ⟨rfl, rfl⟩

theorem sustained_between (habove : ¬ PowerAbove s avg recent) (hbelow : ¬ PowerBelow s avg recent) :
    (sustainedStep s avg recent k).deep = h.deep ∧ (sustainedStep s avg recent k).capSustained = h.capSustained := by
  rw [sustainedStep_of_between habove hbelow]
  exact ⟨hdeep, hcap⟩

end

/-! ## Rails (R485) -/

/-- The Hearth with the readings of its rails taken in. -/
def railsRead (r : List RailReading) (h : Hearth) : Hearth := { h with
  senseSum := h.senseSum + (r.map (fun x => x.watts.toNat)).sum, senseCount := h.senseCount + 1
  senses := ((r.map (fun x => x.watts.toNat)).sum :: h.senses).take 100
  rails := (List.range 16).map (fun i => r[i]? <|> h.rails.getD i none) }

theorem execRailSense_reads {r : List RailReading} (hup : s.up = true) : exec (.railSense r) s = .next
    ((s.upTo (s.hearth.tickAt + 10000 * (s.hearth.senseCount + 1))).modHearth (railsRead r)) := congrArg Host.Outcome.next (if_pos hup)

/-- An element of a table over an index. -/
theorem getD_map_range {α : Type} (f : Nat → α) (d : α) {i n : Nat} (h : i < n) : ((List.range n).map f).getD i d = f i := by
  simp [List.getD_eq_getElem?_getD, h]

theorem railsRead_rails {r : List RailReading} {h : Hearth} {i : Nat} (hi : i < 16) :
    (railsRead r h).rails.getD i none = (r[i]? <|> h.rails.getD i none) := getD_map_range _ _ hi

theorem railSense_acts {r : List RailReading} (hup : s.up = true) : ∃ t, exec (.railSense r) s = .next t ∧
    t.now = Nat.max s.now (s.hearth.tickAt + 10000 * (s.hearth.senseCount + 1)) ∧ t.hearth.senseCount = s.hearth.senseCount + 1 ∧
    t.hearth.senseSum = s.hearth.senseSum + (r.map (fun x => (RailReading.watts x).toNat)).sum ∧
    (∀ i x, i < 16 → r[i]? = some x → t.hearth.rails.getD i none = some x) ∧
    (∀ i, i < 16 → r[i]? = none → t.hearth.rails.getD i none = s.hearth.rails.getD i none) :=
  ⟨_, execRailSense_reads hup, rfl, rfl, rfl, fun _ _ hi h => by rw [State.modHearth_hearth, railsRead_rails hi, h]; rfl,
    fun _ hi h => by rw [State.modHearth_hearth, railsRead_rails hi, h]; rfl⟩

/-! ## Temperatures (R389, R390) -/

/-- The temperatures after a reading: of each die the new one, or the last. -/
def tempsRead (b : List (List Byte)) (h : Hearth) : List (Option Byte) :=
  (List.range 100).map (fun i => sensed i (b.getD i []) <|> h.temps.getD i none)

/-- Every Face die with its temperature taken in. -/
def diesNoted (ts : List (Option Byte)) (s : State) : State :=
  { s with dies := (s.dies.zip (List.range 32)).map (fun (d, n) => noteTemp s ts n d) }

/-- What a reading of the sensors does before the dies follow. -/
def tempsTaken (b : List (List Byte)) (s : State) : State :=
  (diesNoted (tempsRead b s.hearth) s).modHearth (fun h => { h with
    temps := tempsRead b s.hearth
    dieTempMax := BitVec.ofInt 8 (maxTemp ((tempsRead b s.hearth).filterMap (Option.map (fun b : Byte => b.toInt))))
    boostOk := h.boostOk && coolForBoost (diesNoted (tempsRead b s.hearth) s) })

theorem execDieTempRead_reads {b : List (List Byte)} (hup : s.up = true) : exec (.dieTempRead b) s = .next (withCaps s (tempsTaken b)) :=
  congrArg Host.Outcome.next (if_pos hup)

theorem tempsTaken_now (b : List (List Byte)) (s : State) : (tempsTaken b s).now = s.now := rfl

theorem tempsTaken_temps (b : List (List Byte)) (s : State) : (tempsTaken b s).hearth.temps = tempsRead b s.hearth := rfl

theorem tempsTaken_die_of {n : Nat} {x : Die} (b : List (List Byte)) (hn : n < 32) (hx : s.dies[n]? = some x) :
    (tempsTaken b s).dies[n]? = some (noteTemp s (tempsRead b s.hearth) n x) := by
  have hzip : (s.dies.zip (List.range 32))[n]? = some (x, n) := List.getElem?_zip_eq_some.mpr ⟨hx, List.getElem?_range hn⟩
  rw [tempsTaken, State.modHearth_dies, diesNoted, List.getElem?_map, hzip, Option.map_some]

theorem noteTemp_temp (s : State) (ts : List (Option Byte)) (n : Nat) (x : Die) : (noteTemp s ts n x).temp = (ts.getD n none).getD x.temp := by
  unfold noteTemp
  extract_lets hot by_ d
  split <;> rfl

theorem noteTemp_of_cool {ts : List (Option Byte)} {n : Nat} {x : Die} (h : hotDies s ts n = []) : (noteTemp s ts n x).hotSince = 0 := by
  simp only [noteTemp, h, List.isEmpty_nil, if_true]

theorem noteTemp_of_hot {ts : List (Option Byte)} {n : Nat} {x : Die} (h : hotDies s ts n ≠ []) :
    (noteTemp s ts n x).hotSince = if x.hotSince = 0 then s.now else x.hotSince := by
  simp only [noteTemp, List.isEmpty_iff, h, if_false]

theorem SameHearth.temps {a b : Hearth} (h : SameHearth a b) : b.temps = a.temps := by rw [h]

theorem SameHearth.tempsRead {a b : Hearth} (h : SameHearth a b) (r : List (List Byte)) : Machine.tempsRead r b = Machine.tempsRead r a := by
  rw [Machine.tempsRead, h.temps, Machine.tempsRead]

theorem Moved.temp {x y : Die} (h : Moved x y) : y.temp = x.temp := by rw [h]

theorem Moved.hotSince {x y : Die} (h : Moved x y) : y.hotSince = x.hotSince := by rw [h]

theorem Moved.hotSteps {x y : Die} (h : Moved x y) : y.hotSteps = x.hotSteps := by rw [h]

theorem Moved.capThermal {x y : Die} (h : Moved x y) : y.capThermal = x.capThermal := by rw [h]

theorem hotDies_accrue (s : State) (ts : List (Option Byte)) (n : Nat) : hotDies (accrue s) ts n = hotDies s ts n := by
  have hthreshold : throttleTemp (accrue s) = throttleTemp s := by rw [throttleTemp, accrue_cfg, throttleTemp]
  rw [hotDies, hthreshold, hotDies]

theorem tempsRead_of_sensed {b : List (List Byte)} {h : Hearth} {n : Nat} {v : Byte} (hn : n < 32) (hv : sensed n (b.getD n []) = some v) :
    (tempsRead b h).getD n none = some v := by
  rw [tempsRead, getD_map_range _ _ (by omega), hv]
  rfl

theorem dieTempRead_acts {b : List (List Byte)} (hup : s.up = true) : ∃ t, exec (.dieTempRead b) s = .next t ∧ t.now = s.now ∧
    t.hearth.temps = tempsRead b s.hearth ∧
    (∀ n x v, n < 32 → s.dies[n]? = some x → sensed n (b.getD n []) = some v → ∃ y, t.dies[n]? = some y ∧ y.temp = v ∧
      (hotDies s t.hearth.temps n = [] → y.hotSince = 0) ∧
      (hotDies s t.hearth.temps n ≠ [] → y.hotSince = (if x.hotSince = 0 then s.now else x.hotSince))) := by
  have hafter : SameHearth (tempsTaken b (accrue s)).hearth (withCaps s (tempsTaken b)).hearth := withCaps_hearth
  have htaken : tempsRead b (accrue s).hearth = tempsRead b s.hearth := (accrue_hearth s).tempsRead b
  have htemps : (withCaps s (tempsTaken b)).hearth.temps = tempsRead b s.hearth := by
    rw [hafter.temps, tempsTaken_temps, htaken]
  refine ⟨_, execDieTempRead_reads hup, withCaps_now ((tempsTaken_now ..).trans (accrue_now s)), htemps, fun n x v hn hx hv => ?_⟩
  obtain ⟨y, hy, hmoved⟩ := withCaps_die hn (tempsTaken_die_of b hn (accrue_die_of hx))
  rw [htaken] at hmoved
  refine ⟨y, hy, ?_, fun hcool => ?_, fun hhot => ?_⟩
  · rw [hmoved.temp, noteTemp_temp, tempsRead_of_sensed hn hv, Option.getD_some]
  · rw [htemps, ← hotDies_accrue] at hcool
    rw [hmoved.hotSince, noteTemp_of_cool hcool]
  · rw [htemps, ← hotDies_accrue] at hhot
    rw [hmoved.hotSince, noteTemp_of_hot hhot, accrue_now]
    rfl

/-! ## Thermal caps (R390) -/

section
variable {d : DieIx} {x : Die}

/-- Die d's thermal cap a level lower. -/
def capLowered (d : Nat) (s : State) : State := s.modDie d (fun y => { y with
  capThermal := Nat.min 5 ((if y.hotSteps = 0 then effLevel s y else y.capThermal) + 1), hotSteps := y.hotSteps + 1 })

/-- Die d's thermal cap a level higher. -/
def capRaised (d : Nat) (s : State) : State := s.modDie d (fun y => { y with capThermal := y.capThermal - 1, belowSince := y.belowSince + 1000000 })

theorem exec_thermalCapStep (hup : s.up = true) (hx : s.dies[d.val]? = some x) : exec (.thermalCapStep d) s = .next (
    if x.hotSince ≠ 0 then withCaps (s.upTo (x.hotSince + 100000 * (x.hotSteps + 1))) (capLowered d.val)
    else if x.belowSince ≠ 0 ∧ x.capThermal ≠ 0 then withCaps (s.upTo (x.belowSince + 1000000)) (capRaised d.val) else s) := by
  rw [← State.die_of hx]
  exact congrArg Host.Outcome.next (if_neg (by simp [hup]))

theorem capLowered_die_of (hx : s.dies[d.val]? = some x) : (capLowered d.val s).dies[d.val]? = some { x with
    capThermal := Nat.min 5 ((if x.hotSteps = 0 then effLevel s x else x.capThermal) + 1), hotSteps := x.hotSteps + 1 } :=
  State.modDie_die_of hx _

theorem capRaised_die_of (hx : s.dies[d.val]? = some x) :
    (capRaised d.val s).dies[d.val]? = some { x with capThermal := x.capThermal - 1, belowSince := x.belowSince + 1000000 } :=
  State.modDie_die_of hx _

theorem capLowered_now (d : Nat) (s : State) : (capLowered d s).now = s.now := rfl

theorem capRaised_now (d : Nat) (s : State) : (capRaised d s).now = s.now := rfl

theorem thermalCapStep_lowers (hup : s.up = true) (hx : s.dies[d.val]? = some x) (hhot : x.hotSince ≠ 0) {u : State}
    (hu : u = accrue (s.upTo (x.hotSince + 100000 * (x.hotSteps + 1)))) : ∃ t y, exec (.thermalCapStep d) s = .next t ∧
      t.now = Nat.max s.now (x.hotSince + 100000 * (x.hotSteps + 1)) ∧ t.dies[d.val]? = some y ∧ y.hotSteps = x.hotSteps + 1 ∧
      y.capThermal = Nat.min 5 ((if x.hotSteps = 0 then effLevel u (u.die d.val) else x.capThermal) + 1) := by
  obtain ⟨v, hv⟩ : ∃ v, v = s.upTo (x.hotSince + 100000 * (x.hotSteps + 1)) := ⟨_, rfl⟩
  have hvx : v.dies[d.val]? = some x := hv ▸ hx
  have hdie : (accrue v).dies[d.val]? = some (x.synced v.now) := accrue_die_of hvx
  obtain ⟨y, hy, hmoved⟩ := withCaps_die d.isLt (capLowered_die_of hdie)
  refine ⟨withCaps v (capLowered d.val), y, ?_, ?_, hy, hmoved.hotSteps, hmoved.capThermal.trans ?_⟩
  · rw [exec_thermalCapStep hup hx, if_pos hhot, hv]
  · rw [withCaps_now ((capLowered_now ..).trans (accrue_now v)), hv, State.upTo_now]
  · rw [hu, ← hv, State.die_of hdie]
    rfl

theorem thermalCapStep_raises (hup : s.up = true) (hx : s.dies[d.val]? = some x) (hcool : x.hotSince = 0) (hbelow : x.belowSince ≠ 0)
    (hcap : x.capThermal ≠ 0) : ∃ t y, exec (.thermalCapStep d) s = .next t ∧ t.now = Nat.max s.now (x.belowSince + 1000000) ∧
      t.dies[d.val]? = some y ∧ y.capThermal = x.capThermal - 1 := by
  obtain ⟨v, hv⟩ : ∃ v, v = s.upTo (x.belowSince + 1000000) := ⟨_, rfl⟩
  have hvx : v.dies[d.val]? = some x := hv ▸ hx
  have hdie : (accrue v).dies[d.val]? = some (x.synced v.now) := accrue_die_of hvx
  obtain ⟨y, hy, hmoved⟩ := withCaps_die d.isLt (capRaised_die_of hdie)
  refine ⟨withCaps v (capRaised d.val), y, ?_, ?_, hy, hmoved.capThermal⟩
  · rw [exec_thermalCapStep hup hx, if_neg (not_not.mpr hcool), if_pos ⟨hbelow, hcap⟩, hv]
  · rw [withCaps_now ((capRaised_now ..).trans (accrue_now v)), hv, State.upTo_now]

theorem thermalCapStep_stays (hup : s.up = true) (hx : s.dies[d.val]? = some x) (hcool : x.hotSince = 0)
    (h : x.belowSince = 0 ∨ x.capThermal = 0) : exec (.thermalCapStep d) s = .next s := by
  rw [exec_thermalCapStep hup hx, if_neg (not_not.mpr hcool), if_neg fun ⟨hbelow, hcap⟩ => h.elim hbelow hcap]

end

end

/-- Settles O59, command by command and event by event. -/
theorem controlAndHearthAct : Obligations.ControlAndHearthAct := by
  refine ⟨fun _ _ _ hup => ⟨execCtxCtlReset_allowed hup, execCtxCtlReset_nothing⟩,
    fun w d s hup => ⟨fun hnot => ⟨execCounterClear_refused hnot, execCounterRun_refused hnot⟩,
      fun hmay hfree b hb => ⟨counter_acts bankClear (execCounterClear_allowed hup hmay) hfree hb,
        counter_acts bankRun (execCounterRun_allowed hup hmay) hfree hb⟩,
      fun p run => ⟨execCounterSelect_refused, fun hmay hfree b hb => counter_acts (bankSelect p.val run) (execCounterSelect_allowed hup hmay) hfree hb⟩⟩,
    fun _ _ _ _ hup => ⟨execControlSpaceWrite_aligned hup, execControlSpaceWrite_unaligned⟩,
    fun _ _ h => ⟨execI3cOffsetWrite_sets h, execI3cRead_advances h⟩,
    fun _ _ hup => ⟨execGeneratorLock_of_idle, fun _ hx => generatorLock_acts hup hx, fun _ hx hlocking _ => execGeneratorLock_of_locking hup hx hlocking⟩,
    fun _ _ hup => ⟨execVoltageStep_settled, fun _ => voltageStep_acts hup⟩,
    fun _ _ _ hup => ⟨execDroopDetect_of_small, fun _ => droopDetect_acts hup⟩,
    fun _ _ hup => ⟨execDroopClear_of_steady, fun _ => droopClear_acts hup⟩,
    fun _ _ hup => ⟨execDroopHoldExpiry_waits, fun _ => droopHoldExpiry_acts hup⟩,
    fun s hup => ?_, fun _ _ hup => railSense_acts hup, fun _ _ hup => dieTempRead_acts hup,
    fun _ _ _ hup hx => ⟨fun hhot _ => thermalCapStep_lowers hup hx hhot, thermalCapStep_raises hup hx, thermalCapStep_stays hup hx⟩⟩
  obtain ⟨t, w, k, rfl, hexec, hnow, htick, hsum, hcount, hhistory, hrecent, havg, hkcap, hkdeep, hcap, hdeep⟩ := controlTick_acts hup
  refine ⟨t, hexec, hnow, htick, hsum, hcount, hhistory, hrecent, havg, ?_, ?_, ?_⟩ <;> rw [hcap, hdeep]
  · exact sustained_above hkcap hkdeep
  · exact sustained_below hkcap hkdeep
  · exact sustained_between hkcap hkdeep

end Sys2Proof.Machine
end
